-- ==== Sys2Proof/Word.lean ====
section
/-! DEFINITION. The word types of the JV40: bytes, 32-bit registers and instruction words, 64-bit values. -/

namespace Sys2Proof

/-- One byte of memory (R141). -/
abbrev Byte := BitVec 8

/-- A 32-bit register, instruction word or literal word (R227, R261). -/
abbrev Word := BitVec 32

/-- A 64-bit value: a register pair, an address, a system register of 64 bits (R247, R248). -/
abbrev DWord := BitVec 64

/-- The bytes of one line of memory, the unit of versions and caches (R54, R77). -/
def lineBytes : Nat := 128

end Sys2Proof
end

