-- ==== Sys2Proof/Syntax.lean ====
section
/-! DEFINITION. The instructions and events of the JV40 as syntax: one constructor of `Instr` for each row of the opcode table.

The operands of an instruction are what its words say once decoded: register numbers, immediates, and the named
alternatives of a field (a condition, a rounding mode, a kind of second source). The words themselves, and the
prefix word of a vector instruction, are Decode's business. A hinge instruction is its opcode alone: the fields A, B, C and IMM
that every hinge word has (R370) stand in the instruction register of the channel that runs it. An event of the device, of its
firmware or of its host has no words and no operands; the state says which object it acts on. -/

namespace Sys2Proof

/-- The conditions of `scmp` and `icmp`, codes 0 to 5 in this order (R252, R253, R267). -/
inductive ICond where
  | eq | ne | lt | le | gt | ge
  deriving DecidableEq, Repr

/-- The conditions of `fcmp`, codes 0 to 7 in this order (R253, R290). -/
inductive FCond where
  | eq | ne | lt | le | gt | ge | uo | ord
  deriving DecidableEq, Repr

/-- The rounding modes (R149); a prefix names one with RND 1 to 4 in this order (R236). -/
inductive RoundMode where
  | ne | tz | up | dn
  deriving DecidableEq, Repr

/-- The lane patterns on a second source (R238): the inline ones of LPAT, and the ones of the prefix with their n. -/
inductive Pattern where
  | none | rev | low | swap
  | rot (n : BitVec 5) | perm (n : BitVec 5) | lane (n : BitVec 5)
  deriving DecidableEq, Repr

/-- The second source of a scalar instruction, by K (R240, R262). -/
inductive ScalarSrc where
  | reg (r : BitVec 6) | imm (i : BitVec 11) | lit (i : BitVec 4)
  deriving DecidableEq, Repr

/-- The second source of a vector instruction, by S2K (R236, R237). -/
inductive VectorSrc where
  | vec (v : BitVec 7) (pat : Pattern) | scalar (r : BitVec 6) | lit (i : BitVec 4)
  deriving DecidableEq, Repr

/-- What a vector prefix adds besides the third and second sources: the mask register, the zeroing bit and the
rounding override (R236, R237). Without a prefix the mask is `k0`, which holds the active set. -/
structure VectorCtl where
  mask : BitVec 3
  zero : Bool
  rnd : Option RoundMode
  deriving DecidableEq, Repr

/-- The type codes that `cvt` accepts (R253). Codes 0xE and 0xF are never accepted. -/
inductive NumType where
  | f32 | bf16 | f16 | e4m3 | e5m2 | e8m0 | i8 | i16 | i32 | i64 | n8 | n16 | n32 | n64
  deriving DecidableEq, Repr

/-- The orderings of a memory access, ORD 0 to 4 (R105, R242). -/
inductive MemOrder where
  | weak | rlx | acq | rel | ar
  deriving DecidableEq, Repr

/-- The scopes, SCOPE 0 to 5 (R104, R242). -/
inductive Scope where
  | grp | gang | clu | die | dev | job
  deriving DecidableEq, Repr

/-- The formats of the matrix class, F 0 to 3 (R245). -/
inductive MatFormat where
  | e4m3 | e5m2 | bf16 | f16
  deriving DecidableEq, Repr

/-- The widening of a copy, Q 0 to 5 (R246, R341). -/
inductive Widen where
  | none | e4m3 | e5m2 | bf16 | sgn | ter
  deriving DecidableEq, Repr

/-- D, A, B with a width (R240). -/
structure ScalarBinary where
  wide : Bool
  d : BitVec 6
  a : BitVec 6
  b : ScalarSrc
  deriving DecidableEq, Repr

/-- D and A alone. -/
structure ScalarUnary where
  wide : Bool
  d : BitVec 6
  a : BitVec 6
  deriving DecidableEq, Repr

/-- `smov`: D and B. -/
structure ScalarMove where
  wide : Bool
  d : BitVec 6
  b : ScalarSrc
  deriving DecidableEq, Repr

/-- `scmp`: a condition and a condition bit in place of D. -/
structure ScalarCompare where
  wide : Bool
  cond : ICond
  bit : BitVec 3
  a : BitVec 6
  b : ScalarSrc
  deriving DecidableEq, Repr

/-- `sfromv` (R241). -/
structure ScalarFromLane where
  wide : Bool
  d : BitVec 6
  v : BitVec 7
  lane : BitVec 5
  deriving DecidableEq, Repr

/-- `sfromk` (R252). -/
structure ScalarFromMask where
  d : BitVec 6
  k : BitVec 3
  deriving DecidableEq, Repr

/-- `stok` (R252). -/
structure ScalarToMask where
  k : BitVec 3
  b : ScalarSrc
  deriving DecidableEq, Repr

/-- `ssysrd` and `ssyswr`: a scalar register and a system-register number (R241). -/
structure ScalarSystem where
  wide : Bool
  r : BitVec 6
  num : BitVec 8
  deriving DecidableEq, Repr

/-- A vector instruction with one source (R234). -/
structure VectorUnary where
  ctl : VectorCtl
  wid : BitVec 2
  d : BitVec 7
  a : BitVec 7
  deriving DecidableEq, Repr

/-- A vector instruction with two sources. -/
structure VectorBinary where
  ctl : VectorCtl
  wid : BitVec 2
  d : BitVec 7
  a : BitVec 7
  b : VectorSrc
  deriving DecidableEq, Repr

/-- A vector instruction with three sources; `c` is OP4 of the prefix, or the destination without one (R234). -/
structure VectorTernary where
  ctl : VectorCtl
  wid : BitVec 2
  d : BitVec 7
  a : BitVec 7
  b : VectorSrc
  c : BitVec 7
  deriving DecidableEq, Repr

/-- `fcmp`: a condition and a mask register in DST (R253). -/
structure VectorFCompare where
  ctl : VectorCtl
  cond : FCond
  m : BitVec 3
  a : BitVec 7
  b : VectorSrc
  deriving DecidableEq, Repr

/-- `icmp`. -/
structure VectorICompare where
  ctl : VectorCtl
  cond : ICond
  m : BitVec 3
  a : BitVec 7
  b : VectorSrc
  deriving DecidableEq, Repr

/-- `cvt`: destination and source types (R253, R292). -/
structure VectorConvert where
  ctl : VectorCtl
  wid : BitVec 2
  d : BitVec 7
  a : BitVec 7
  dt : NumType
  st : NumType
  deriving DecidableEq, Repr

/-- `mov.b32`: its source is the second source (R294). -/
structure VectorMove where
  ctl : VectorCtl
  wid : BitVec 2
  d : BitVec 7
  b : VectorSrc
  deriving DecidableEq, Repr

/-- `shfl.b32` (R296). -/
structure VectorShuffle where
  ctl : VectorCtl
  d : BitVec 7
  a : BitVec 7
  b : VectorSrc
  deriving DecidableEq, Repr

/-- `vany` and `vall`: a destination and a source mask (R297). -/
structure VectorVote where
  ctl : VectorCtl
  m : BitVec 3
  k : BitVec 3
  deriving DecidableEq, Repr

/-- `ballot`, reductions and scans (R298 to R300). -/
structure VectorCross where
  ctl : VectorCtl
  d : BitVec 7
  a : BitVec 7
  deriving DecidableEq, Repr

/-- `vsysrd` (R295). -/
structure VectorSystem where
  ctl : VectorCtl
  d : BitVec 7
  num : BitVec 7
  deriving DecidableEq, Repr

/-- INDEX and SCALE of a memory word with IX = 1 (R242). -/
structure MemIndex where
  v : BitVec 7
  scale : BitVec 2
  deriving DecidableEq, Repr

/-- The operands that form a lane's address: BASE, the index if IX = 1, and OFF (R242, R243). -/
structure MemAddr where
  base : BitVec 6
  idx : Option MemIndex
  off : BitVec 20
  deriving DecidableEq, Repr

/-- `ldg` (R307). -/
structure GlobalLoad where
  wid : BitVec 2
  data : BitVec 7
  addr : MemAddr
  ord : MemOrder
  scope : Scope
  rp : Bool
  ef : Bool
  deriving DecidableEq, Repr

/-- `stg` (R307). -/
structure GlobalStore where
  wid : BitVec 2
  data : BitVec 7
  addr : MemAddr
  ord : MemOrder
  scope : Scope
  ef : Bool
  deriving DecidableEq, Repr

/-- `lds` and `sts` (R308). -/
structure ScratchAccess where
  wid : BitVec 2
  data : BitVec 7
  addr : MemAddr
  ord : MemOrder
  scope : Scope
  deriving DecidableEq, Repr

/-- `ldt` (R309): BASE is an even pair, the offset and the row pitch. -/
structure TransposeLoad where
  wid : BitVec 2
  data : BitVec 7
  base : BitVec 6
  off : BitVec 20
  deriving DecidableEq, Repr

/-- `ldz` (R311). -/
structure SnapshotLoad where
  wid : BitVec 2
  data : BitVec 7
  addr : MemAddr
  key : BitVec 2
  deriving DecidableEq, Repr

/-- The atomics (R312). -/
structure AtomicAccess where
  wid : BitVec 2
  data : BitVec 7
  addr : MemAddr
  ord : MemOrder
  scope : Scope
  rp : Bool
  nr : Bool
  deriving DecidableEq, Repr

/-- `wardw`, `harr` and `hwait` (R316, R326, R327). -/
structure LaneWait where
  wid : BitVec 2
  data : BitVec 7
  addr : MemAddr
  deriving DecidableEq, Repr

/-- `fence` (R317). -/
structure FenceOp where
  ord : MemOrder
  scope : Scope
  deriving DecidableEq, Repr

/-- `snapo` (R318): the key register, the status scalar, and the pair of an explicit key. -/
structure SnapshotOpen where
  key : BitVec 2
  status : BitVec 6
  expl : Option (BitVec 6)
  deriving DecidableEq, Repr

/-- `snapc` and `txb` (R319, R320). -/
structure KeyOp where
  key : BitVec 2
  deriving DecidableEq, Repr

/-- `keep` (R323): the pairs of the base and of the limit, and the ways. -/
structure KeepOp where
  base : BitVec 6
  d : BitVec 6
  ways : BitVec 3
  deriving DecidableEq, Repr

/-- `unkeep` (R324). -/
structure UnkeepOp where
  d : BitVec 6
  deriving DecidableEq, Repr

/-- `pf` (R325). -/
structure PrefetchOp where
  addr : MemAddr
  ef : Bool
  deriving DecidableEq, Repr

/-- `mld` (R330). -/
structure StationaryLoad where
  p : BitVec 3
  f : MatFormat
  s : BitVec 6
  x : BitVec 8
  deriving DecidableEq, Repr

/-- `mma` and `mmar` (R334, R336). -/
structure MatrixMultiply where
  t : BitVec 6
  p : BitVec 3
  f : MatFormat
  s : BitVec 6
  deriving DecidableEq, Repr

/-- `mdrain` (R338). -/
structure MatrixDrain where
  t : BitVec 6
  f : MatFormat
  s : BitVec 6
  deriving DecidableEq, Repr

/-- `mrowrd` and `mrowwr` (R245, R340). -/
structure MatrixRow where
  t : BitVec 6
  v : BitVec 7
  q : BitVec 2
  cb : BitVec 4
  deriving DecidableEq, Repr

/-- The copies between global memory and the scratchpad (R345). -/
structure CopyOp where
  d : BitVec 6
  s : BitVec 6
  g : BitVec 6
  q : Widen
  deriving DecidableEq, Repr

/-- `rpush` (R347). -/
structure RingPush where
  s : BitVec 6
  g : BitVec 6
  n : BitVec 4
  q : Widen
  deriving DecidableEq, Repr

/-- `rresv`, `rdone`, `rpop` and `rrel`: a scalar for the slot word and a ring (R348, R349). -/
structure RingSlot where
  r : BitVec 6
  n : BitVec 4
  deriving DecidableEq, Repr

/-- `mcast` and the fabric instructions with D, S and G (R346, R357 to R361). -/
structure FabricOp where
  d : BitVec 6
  s : BitVec 6
  g : BitVec 6
  deriving DecidableEq, Repr

/-- Who writes a register: the monitor, the hypervisor, a guest, the policy plug-in of a tenant, which is a partition (R402, R426 to
R428, R432). -/
inductive Writer where
  | monitor | hypervisor | guest | plugin (part : Nat)
  deriving DecidableEq, Repr

/-- The register blocks of R426 and R427; `index` names the partition, die or virtual device, and `offset` the byte
offset of the register within its block. -/
inductive RegBlock where
  | module | partition | version | keeper | vdev | xlate | cache | fabric | trap | queue | guest
  deriving DecidableEq, Repr

/-- A write of a register by its block and offset. -/
structure RegWrite where
  writer : Writer
  block : RegBlock
  index : Nat
  offset : Nat
  value : DWord
  deriving DecidableEq, Repr

/-- What an uncorrectable error is contained to (R401, R435, R437). -/
inductive ErrorTarget where
  /-- Data that lanes of a group read (R394). -/
  | group (core slot : Nat) (lanes : BitVec 32)
  /-- Data that an engine operation reads, by its number (R332, R335, R344, R394). -/
  | operation (id : Nat)
  /-- A page table of a device, met by the walks that read it (R31, code 0x08). -/
  | table (vd : Nat)
  | device (vd : Nat) | partition (part : Nat) | checkpoint (vd : Nat)
  deriving DecidableEq, Repr

/-- A report of an uncorrectable error: where it was met or what it is contained to, and the module address (R435). For a partition,
`source` is the virtual device whose access met it. -/
structure ErrorReport where
  target : ErrorTarget
  source : Nat
  addr : DWord
  deriving DecidableEq, Repr

/-- The fields that every hinge word has besides its opcode (R370). -/
structure HingeFields where
  a : BitVec 4
  b : BitVec 4
  c : BitVec 4
  imm : BitVec 14
  deriving DecidableEq, Repr

/-- The instructions and events of the JV40, one constructor for each row of the opcode table. -/
inductive Instr where
  /-- R264: Scalar add modulo 2^n. -/
  | sadd (o : ScalarBinary)
  /-- R264: Scalar subtract modulo 2^n. -/
  | ssub (o : ScalarBinary)
  /-- R264: Scalar multiply modulo 2^n. -/
  | smul (o : ScalarBinary)
  /-- R264: High half of the signed scalar product. -/
  | smulhiI (o : ScalarBinary)
  /-- R264: High half of the natural scalar product. -/
  | smulhiN (o : ScalarBinary)
  /-- R264: Scalar bitwise and. -/
  | sand (o : ScalarBinary)
  /-- R264: Scalar bitwise or. -/
  | sor (o : ScalarBinary)
  /-- R264: Scalar bitwise exclusive-or. -/
  | sxor (o : ScalarBinary)
  /-- R264: Scalar bitwise complement. -/
  | snot (o : ScalarUnary)
  /-- R264: Scalar shift left by b mod n. -/
  | sshl (o : ScalarBinary)
  /-- R264: Scalar logical shift right. -/
  | sshrN (o : ScalarBinary)
  /-- R264: Scalar arithmetic shift right. -/
  | sshrI (o : ScalarBinary)
  /-- R264: Signed scalar minimum. -/
  | sminI (o : ScalarBinary)
  /-- R264: Natural scalar minimum. -/
  | sminN (o : ScalarBinary)
  /-- R264: Signed scalar maximum. -/
  | smaxI (o : ScalarBinary)
  /-- R264: Natural scalar maximum. -/
  | smaxN (o : ScalarBinary)
  /-- R265: Extract a bit field, zero-extended. -/
  | sbfxN (o : ScalarBinary)
  /-- R265: Extract a bit field, sign-extended. -/
  | sbfxI (o : ScalarBinary)
  /-- R265: Insert a bit field into sD. -/
  | sbfi (o : ScalarBinary)
  /-- R266: Count the 1 bits of a. -/
  | spopc (o : ScalarUnary)
  /-- R266: Count the leading zero bits of a. -/
  | sclz (o : ScalarUnary)
  /-- R266: Index of the lowest 1 bit of a. -/
  | sffs (o : ScalarUnary)
  /-- R264: Move b into sD. -/
  | smov (o : ScalarMove)
  /-- R267: Signed scalar compare into a cond bit. -/
  | scmpI (o : ScalarCompare)
  /-- R267: Natural scalar compare into a cond bit. -/
  | scmpN (o : ScalarCompare)
  /-- R264: Scalar a + 4 × b modulo 2^n. -/
  | slea (o : ScalarBinary)
  /-- R268: Copy one lane's vector register into a scalar register. -/
  | sfromv (o : ScalarFromLane)
  /-- R269: Copy a mask register into a scalar register. -/
  | sfromk (o : ScalarFromMask)
  /-- R269: Write a mask register from b. -/
  | stok (o : ScalarToMask)
  /-- R270: Read a uniform system register. -/
  | ssysrd (o : ScalarSystem)
  /-- R270: Write a uniform system register. -/
  | ssyswr (o : ScalarSystem)
  /-- R286: FP32 vector add with one rounding. -/
  | faddF32 (o : VectorBinary)
  /-- R286: BF16 vector add. -/
  | faddBf16 (o : VectorBinary)
  /-- R286: FP16 vector add. -/
  | faddF16 (o : VectorBinary)
  /-- R286: FP32 vector subtract. -/
  | fsubF32 (o : VectorBinary)
  /-- R286: BF16 vector subtract. -/
  | fsubBf16 (o : VectorBinary)
  /-- R286: FP16 vector subtract. -/
  | fsubF16 (o : VectorBinary)
  /-- R286: FP32 vector multiply. -/
  | fmulF32 (o : VectorBinary)
  /-- R286: BF16 vector multiply. -/
  | fmulBf16 (o : VectorBinary)
  /-- R286: FP16 vector multiply. -/
  | fmulF16 (o : VectorBinary)
  /-- R286: FP32 fused multiply-add with one rounding. -/
  | ffmaF32 (o : VectorTernary)
  /-- R286: BF16 fused multiply-add. -/
  | ffmaBf16 (o : VectorTernary)
  /-- R286: FP16 fused multiply-add. -/
  | ffmaF16 (o : VectorTernary)
  /-- R287: FP32 minimum, NaN-avoiding. -/
  | fminF32 (o : VectorBinary)
  /-- R287: BF16 minimum. -/
  | fminBf16 (o : VectorBinary)
  /-- R287: FP16 minimum. -/
  | fminF16 (o : VectorBinary)
  /-- R287: FP32 maximum, NaN-avoiding. -/
  | fmaxF32 (o : VectorBinary)
  /-- R287: BF16 maximum. -/
  | fmaxBf16 (o : VectorBinary)
  /-- R287: FP16 maximum. -/
  | fmaxF16 (o : VectorBinary)
  /-- R288: Correctly rounded FP32 division. -/
  | fdiv (o : VectorBinary)
  /-- R288: Correctly rounded FP32 reciprocal. -/
  | frcp (o : VectorUnary)
  /-- R288: Correctly rounded FP32 reciprocal square root. -/
  | frsq (o : VectorUnary)
  /-- R288: Correctly rounded FP32 square root. -/
  | fsqrt (o : VectorUnary)
  /-- R288: Correctly rounded 2^x. -/
  | fexp2 (o : VectorUnary)
  /-- R288: Correctly rounded log2 x. -/
  | flog2 (o : VectorUnary)
  /-- R288: Correctly rounded sin(2πx). -/
  | fsin (o : VectorUnary)
  /-- R288: Correctly rounded cos(2πx). -/
  | fcos (o : VectorUnary)
  /-- R290: FP32 compare into a mask register. -/
  | fcmpF32 (o : VectorFCompare)
  /-- R290: BF16 compare into a mask register. -/
  | fcmpBf16 (o : VectorFCompare)
  /-- R290: FP16 compare into a mask register. -/
  | fcmpF16 (o : VectorFCompare)
  /-- R291: Classify an FP32 value. -/
  | fclassF32 (o : VectorUnary)
  /-- R291: Classify a BF16 value. -/
  | fclassBf16 (o : VectorUnary)
  /-- R291: Classify an FP16 value. -/
  | fclassF16 (o : VectorUnary)
  /-- R292: Convert between numeric types. -/
  | cvt (o : VectorConvert)
  /-- R293: 32-bit vector add modulo 2^32. -/
  | iaddB32 (o : VectorBinary)
  /-- R293: 64-bit vector add. -/
  | iaddB64 (o : VectorBinary)
  /-- R293: 32-bit vector subtract. -/
  | isubB32 (o : VectorBinary)
  /-- R293: 64-bit vector subtract. -/
  | isubB64 (o : VectorBinary)
  /-- R293: Low 32 bits of the product. -/
  | imulB32 (o : VectorBinary)
  /-- R293: High half of the signed product. -/
  | imulhiI32 (o : VectorBinary)
  /-- R293: High half of the natural product. -/
  | imulhiN32 (o : VectorBinary)
  /-- R293: Integer multiply-add modulo 2^32. -/
  | imadB32 (o : VectorTernary)
  /-- R293: Signed saturating add. -/
  | iaddsI32 (o : VectorBinary)
  /-- R293: Natural saturating add. -/
  | iaddsN32 (o : VectorBinary)
  /-- R293: Signed saturating subtract. -/
  | isubsI32 (o : VectorBinary)
  /-- R293: Natural saturating subtract. -/
  | isubsN32 (o : VectorBinary)
  /-- R293: Signed vector minimum. -/
  | iminI32 (o : VectorBinary)
  /-- R293: Natural vector minimum. -/
  | iminN32 (o : VectorBinary)
  /-- R293: Signed vector maximum. -/
  | imaxI32 (o : VectorBinary)
  /-- R293: Natural vector maximum. -/
  | imaxN32 (o : VectorBinary)
  /-- R293: Vector bitwise and. -/
  | andB32 (o : VectorBinary)
  /-- R293: Vector bitwise or. -/
  | orB32 (o : VectorBinary)
  /-- R293: Vector bitwise exclusive-or. -/
  | xorB32 (o : VectorBinary)
  /-- R293: Vector bitwise complement. -/
  | notB32 (o : VectorUnary)
  /-- R293: Vector shift left. -/
  | shlB32 (o : VectorBinary)
  /-- R293: Vector logical shift right. -/
  | shrN32 (o : VectorBinary)
  /-- R293: Vector arithmetic shift right. -/
  | shrI32 (o : VectorBinary)
  /-- R290: Signed 32-bit compare into a mask. -/
  | icmpI32 (o : VectorICompare)
  /-- R290: Natural 32-bit compare into a mask. -/
  | icmpN32 (o : VectorICompare)
  /-- R290: Signed 64-bit compare into a mask. -/
  | icmpI64 (o : VectorICompare)
  /-- R290: Natural 64-bit compare into a mask. -/
  | icmpN64 (o : VectorICompare)
  /-- R293: Count 1 bits per lane. -/
  | popcB32 (o : VectorUnary)
  /-- R293: Count leading zeros per lane. -/
  | clzB32 (o : VectorUnary)
  /-- R293: Reverse the bits per lane. -/
  | brevB32 (o : VectorUnary)
  /-- R294: Move the second source, through its lane pattern. -/
  | movB32 (o : VectorMove)
  /-- R296: Read vA of a lane of the tile chosen by vB. -/
  | shflB32 (o : VectorShuffle)
  /-- R297: Set the mask bit when any participating lane's bit is set. -/
  | vany (o : VectorVote)
  /-- R297: Set the mask bit when every participating lane's bit is set. -/
  | vall (o : VectorVote)
  /-- R298: Gather the nonzero flags of the tile's participating lanes. -/
  | ballotB32 (o : VectorCross)
  /-- R299: Integer sum over the tile. -/
  | redaddI32 (o : VectorCross)
  /-- R299: Sequential FP32 sum over the tile in lane order. -/
  | redaddF32 (o : VectorCross)
  /-- R299: Signed minimum over the tile. -/
  | redminI32 (o : VectorCross)
  /-- R299: Natural minimum over the tile. -/
  | redminN32 (o : VectorCross)
  /-- R299: FP32 minimum over the tile. -/
  | redminF32 (o : VectorCross)
  /-- R299: Signed maximum over the tile. -/
  | redmaxI32 (o : VectorCross)
  /-- R299: Natural maximum over the tile. -/
  | redmaxN32 (o : VectorCross)
  /-- R299: FP32 maximum over the tile. -/
  | redmaxF32 (o : VectorCross)
  /-- R299: Bitwise and over the tile. -/
  | redandB32 (o : VectorCross)
  /-- R299: Bitwise or over the tile. -/
  | redorB32 (o : VectorCross)
  /-- R299: Bitwise exclusive-or over the tile. -/
  | redxorB32 (o : VectorCross)
  /-- R300: Inclusive integer prefix sum. -/
  | scanaddI32 (o : VectorCross)
  /-- R300: Inclusive FP32 prefix sum. -/
  | scanaddF32 (o : VectorCross)
  /-- R300: Exclusive integer prefix sum. -/
  | xscanaddI32 (o : VectorCross)
  /-- R300: Exclusive FP32 prefix sum. -/
  | xscanaddF32 (o : VectorCross)
  /-- R300: Inclusive FP32 prefix maximum. -/
  | scanmaxF32 (o : VectorCross)
  /-- R300: Inclusive FP32 prefix minimum. -/
  | scanminF32 (o : VectorCross)
  /-- R295: Read a per-lane system register into a pair. -/
  | vsysrd (o : VectorSystem)
  /-- R307: Global byte load, zero-extended. -/
  | ldgB8 (o : GlobalLoad)
  /-- R307: Global byte load, sign-extended. -/
  | ldgI8 (o : GlobalLoad)
  /-- R307: Global halfword load, zero-extended. -/
  | ldgB16 (o : GlobalLoad)
  /-- R307: Global halfword load, sign-extended. -/
  | ldgI16 (o : GlobalLoad)
  /-- R307: Global word load. -/
  | ldgB32 (o : GlobalLoad)
  /-- R307: Global doubleword load. -/
  | ldgB64 (o : GlobalLoad)
  /-- R307: Global byte store. -/
  | stgB8 (o : GlobalStore)
  /-- R307: Global halfword store. -/
  | stgB16 (o : GlobalStore)
  /-- R307: Global word store. -/
  | stgB32 (o : GlobalStore)
  /-- R307: Global doubleword store. -/
  | stgB64 (o : GlobalStore)
  /-- R308: Scratchpad byte load, zero-extended. -/
  | ldsB8 (o : ScratchAccess)
  /-- R308: Scratchpad byte load, sign-extended. -/
  | ldsI8 (o : ScratchAccess)
  /-- R308: Scratchpad halfword load. -/
  | ldsB16 (o : ScratchAccess)
  /-- R308: Scratchpad halfword load, sign-extended. -/
  | ldsI16 (o : ScratchAccess)
  /-- R308: Scratchpad word load. -/
  | ldsB32 (o : ScratchAccess)
  /-- R308: Scratchpad doubleword load. -/
  | ldsB64 (o : ScratchAccess)
  /-- R308: Scratchpad byte store. -/
  | stsB8 (o : ScratchAccess)
  /-- R308: Scratchpad halfword store. -/
  | stsB16 (o : ScratchAccess)
  /-- R308: Scratchpad word store. -/
  | stsB32 (o : ScratchAccess)
  /-- R308: Scratchpad doubleword store. -/
  | stsB64 (o : ScratchAccess)
  /-- R309: Transposing load of a 16 × 4 block of bytes. -/
  | ldtB8 (o : TransposeLoad)
  /-- R309: Transposing load of a block of halfwords. -/
  | ldtB16 (o : TransposeLoad)
  /-- R309: Transposing load of a block of words. -/
  | ldtB32 (o : TransposeLoad)
  /-- R311: Snapshot word load under a key register. -/
  | ldzB32 (o : SnapshotLoad)
  /-- R311: Snapshot doubleword load under a key register. -/
  | ldzB64 (o : SnapshotLoad)
  /-- R312: 32-bit atomic add at the home, lanes in ascending order. -/
  | atomAddB32 (o : AtomicAccess)
  /-- R312: 32-bit signed atomic minimum. -/
  | atomMinI32 (o : AtomicAccess)
  /-- R312: 32-bit natural atomic minimum. -/
  | atomMinN32 (o : AtomicAccess)
  /-- R312: 32-bit signed atomic maximum. -/
  | atomMaxI32 (o : AtomicAccess)
  /-- R312: 32-bit natural atomic maximum. -/
  | atomMaxN32 (o : AtomicAccess)
  /-- R312: 32-bit atomic and. -/
  | atomAndB32 (o : AtomicAccess)
  /-- R312: 32-bit atomic or. -/
  | atomOrB32 (o : AtomicAccess)
  /-- R312: 32-bit atomic exclusive-or. -/
  | atomXorB32 (o : AtomicAccess)
  /-- R312: 32-bit atomic exchange. -/
  | atomExchB32 (o : AtomicAccess)
  /-- R312: 32-bit atomic compare-and-swap. -/
  | atomCasB32 (o : AtomicAccess)
  /-- R312: FP32 atomic add with one NE rounding per lane step. -/
  | atomFaddF32 (o : AtomicAccess)
  /-- R312: 32-bit wrapping atomic increment. -/
  | atomIncwN32 (o : AtomicAccess)
  /-- R312: 32-bit bounded atomic add. -/
  | atomBfaddN32 (o : AtomicAccess)
  /-- R312: 64-bit atomic add. -/
  | atomAddB64 (o : AtomicAccess)
  /-- R312: 64-bit signed atomic minimum. -/
  | atomMinI64 (o : AtomicAccess)
  /-- R312: 64-bit natural atomic minimum. -/
  | atomMinN64 (o : AtomicAccess)
  /-- R312: 64-bit signed atomic maximum. -/
  | atomMaxI64 (o : AtomicAccess)
  /-- R312: 64-bit natural atomic maximum. -/
  | atomMaxN64 (o : AtomicAccess)
  /-- R312: 64-bit atomic and. -/
  | atomAndB64 (o : AtomicAccess)
  /-- R312: 64-bit atomic or. -/
  | atomOrB64 (o : AtomicAccess)
  /-- R312: 64-bit atomic exclusive-or. -/
  | atomXorB64 (o : AtomicAccess)
  /-- R312: 64-bit atomic exchange. -/
  | atomExchB64 (o : AtomicAccess)
  /-- R312: 64-bit atomic compare-and-swap. -/
  | atomCasB64 (o : AtomicAccess)
  /-- R312: 64-bit wrapping atomic increment. -/
  | atomIncwN64 (o : AtomicAccess)
  /-- R312: 64-bit bounded atomic add. -/
  | atomBfaddN64 (o : AtomicAccess)
  /-- R316: Compare a word at its home and hold the lane on a ward while it equals the compare value. -/
  | wardw (o : LaneWait)
  /-- R317: Acquire, release or acquire-release fence at a scope from group to device. -/
  | fence (o : FenceOp)
  /-- R318: Open a snapshot key into a key register, with a status. -/
  | snapo (o : SnapshotOpen)
  /-- R319: Close a key register's snapshot and release its hold. -/
  | snapc (o : KeyOp)
  /-- R320: Begin a transaction from a key register's key. -/
  | txb (o : KeyOp)
  /-- R321: Commit the open transaction after a device-scope release. -/
  | txc
  /-- R322: Abort the open transaction. -/
  | txa
  /-- R323: Request a keeper that pins a range into reserved L2 ways of the die. -/
  | keep (o : KeepOp)
  /-- R324: End an owned keeper. -/
  | unkeep (o : UnkeepOp)
  /-- R325: Prefetch the line of each lane's address into the L2 and L1. -/
  | pf (o : PrefetchOp)
  /-- R326: Arrive at a hasp record with a count, returning status and phase. -/
  | harr (o : LaneWait)
  /-- R327: Wait on a hasp record until its phase differs. -/
  | hwait (o : LaneWait)
  /-- R272: Branch every active lane to the target. -/
  | bra (disp : BitVec 20)
  /-- R272: Branch the group on one cond bit. -/
  | brc (neg : Bool) (c : BitVec 3) (disp : BitVec 20)
  /-- R272: Divergent branch by a mask register per lane. -/
  | brd (neg : Bool) (k : BitVec 3) (disp : BitVec 20)
  /-- R273: Indirect branch to each lane's pair. -/
  | brx (pair : BitVec 6)
  /-- R273: Write the return address into a pair and branch. -/
  | call (pair : BitVec 6) (disp : BitVec 20)
  /-- R273: Return to each lane's pair; in trap mode may return from the handler. -/
  | ret (pair : BitVec 6)
  /-- R274: Set a rejoin mask's expected set to the active set. -/
  | join (j : BitVec 3)
  /-- R274: Park expected lanes at a rejoin mask until all have arrived or exited. -/
  | jwait (j : BitVec 3)
  /-- R275: Exit every active lane. -/
  | exit
  /-- R275: Hold the active lanes and move the group to the back of its slot's order. -/
  | yield
  /-- R276: Begin a serialise pass over the active lanes. -/
  | serb
  /-- R276: End the current lane's turn of the serialise pass. -/
  | sere
  /-- R277: Arrive at an on-chip barrier or a hasp barrier named by a handle. -/
  | bar (a : BitVec 6)
  /-- R279: Enter trap state with the software-trap cause and a code. -/
  | trap (code : BitVec 16)
  /-- R279: Breakpoint, trapping only when BRKEN is 1. -/
  | brk (tag : BitVec 16)
  /-- R280: Wait until each counter has at most its count outstanding. -/
  | cwait (ld st cp tl : BitVec 3)
  /-- R281: Copy a launch packet into the device-side launch queue. -/
  | launch (pair : BitVec 6)
  /-- R282: Make the group replayable with the halt cause at clause completion. -/
  | halt
  /-- R282: No operation. -/
  | nop
  /-- R330: Load a B panel image into stationary panels, locally or by multicast. -/
  | mld (o : StationaryLoad)
  /-- R334: Multiply an A tile by a panel and accumulate into an FP32 tile. -/
  | mma (o : MatrixMultiply)
  /-- R336: Redundant multiply-accumulate that sets the tile's mismatch mask on disagreement. -/
  | mmar (o : MatrixMultiply)
  /-- R337: Zero the active lanes' rows of a tile and clear their mismatch bits. -/
  | mzero (tile : BitVec 6)
  /-- R338: Drain a tile's active rows to a scratchpad image with TZ rounding. -/
  | mdrain (o : MatrixDrain)
  /-- R340: Read eight accumulator values per lane into vector registers. -/
  | mrowrd (o : MatrixRow)
  /-- R340: Write eight accumulator values per lane from vector registers. -/
  | mrowwr (o : MatrixRow)
  /-- R345: 1-D copy from global memory to the scratchpad, optionally widened. -/
  | cpyin1 (o : CopyOp)
  /-- R345: 2-D copy from global memory to the scratchpad. -/
  | cpyin2 (o : CopyOp)
  /-- R345: 3-D copy from global memory to the scratchpad. -/
  | cpyin3 (o : CopyOp)
  /-- R345: 1-D copy from the scratchpad to global memory. -/
  | cpyout1 (o : CopyOp)
  /-- R345: 2-D copy from the scratchpad to global memory. -/
  | cpyout2 (o : CopyOp)
  /-- R345: 3-D copy from the scratchpad to global memory. -/
  | cpyout3 (o : CopyOp)
  /-- R345: Copy global memory to global memory. -/
  | cpyg (o : CopyOp)
  /-- R345: Copy scratchpad to scratchpad. -/
  | cpys (o : CopyOp)
  /-- R347: Reserve a ring slot and copy global data into it. -/
  | rpush (o : RingPush)
  /-- R348: Reserve a ring slot for the group's own stores. -/
  | rresv (o : RingSlot)
  /-- R348: Mark a reserved slot complete once earlier overlapping copies complete. -/
  | rdone (o : RingSlot)
  /-- R349: Acquire the next filled ring slot. -/
  | rpop (o : RingSlot)
  /-- R349: Release a draining slot once earlier readers of it are done. -/
  | rrel (o : RingSlot)
  /-- R346: Copy global data once into the scratchpads of several gangs of the cluster set. -/
  | mcast (o : FabricOp)
  /-- R357: One-sided write of local bytes to a fabric address. -/
  | put (o : FabricOp)
  /-- R358: Put followed by a store, add or hasp-arrival signal at the target. -/
  | putsig (o : FabricOp)
  /-- R357: One-sided read of bytes at a fabric address into local memory. -/
  | get (o : FabricOp)
  /-- R359: Remote FP32 atomic add of each element. -/
  | raddF32 (o : FabricOp)
  /-- R359: Remote FP32 atomic maximum of each element. -/
  | rmaxF32 (o : FabricOp)
  /-- R361: Remote softmax merge of 16-byte records. -/
  | rsmx (o : FabricOp)
  /-- R362: Return the current window and its lag behind PTP time. -/
  | winq (d : BitVec 6)
  /-- R363: Job fence: device fence, wait two windows, device fence. -/
  | jfence
  /-- R384: Wait for every send of the channel and retire the collective. -/
  | hingeStop
  /-- R371: Jump to a displacement. -/
  | hingeBr
  /-- R371: Jump when a register is nonzero. -/
  | hingeBnz
  /-- R371: Decrement a register and jump while nonzero. -/
  | hingeLoop
  /-- R371: Load a sign-extended immediate. -/
  | hingeMovi
  /-- R371: Add two registers modulo 2^64. -/
  | hingeAdd
  /-- R371: Add an immediate modulo 2^64. -/
  | hingeAddi
  /-- R371: Multiply by an immediate modulo 2^64. -/
  | hingeMuli
  /-- R371: Shift left by an immediate. -/
  | hingeShli
  /-- R373: Load a 64-bit word from local memory. -/
  | hingeLd
  /-- R374: Wait on a hasp record for a phase change. -/
  | hingeAwait
  /-- R374: Arrive at a hasp record with a count. -/
  | hingeArrive
  /-- R375: Post a put of local bytes to a fabric address. -/
  | hingePut
  /-- R375: Post a put followed by a hasp arrival at the target. -/
  | hingePutsig
  /-- R375: Read fabric bytes into local memory and wait. -/
  | hingeGet
  /-- R375: Post a remote FP32 add of local elements. -/
  | hingeRadd
  /-- R376: Load 32-bit words into a buffer. -/
  | hingeBld
  /-- R376: Load 64-bit words into a buffer. -/
  | hingeBldW
  /-- R376: Store a buffer's low 32 bits to memory. -/
  | hingeBst
  /-- R376: Store a buffer's 64-bit entries to memory. -/
  | hingeBstW
  /-- R376: Decode code blocks into a buffer. -/
  | hingeDec
  /-- R377: Add two buffers with NE rounding. -/
  | hingeFadd
  /-- R377: Add residuals, compress into code blocks, keep the new errors. -/
  | hingeCmpr
  /-- R371: Set LEN from a register. -/
  | hingeLen
  /-- R378: Maximum exponent of each 32-element block. -/
  | hingeEmax
  /-- R378: Signed 64-bit maximum of two buffers. -/
  | hingeImax
  /-- R378: Align elements to the block exponent as 64-bit integers. -/
  | hingeAlign
  /-- R378: Add two buffers as 64-bit integers. -/
  | hingeIadd
  /-- R378: Convert aligned integers back to FP32 with one rounding. -/
  | hingeCvtb
  /-- R379: Open a combining slot with a configuration. -/
  | hingeCsa
  /-- R379: Send a buffer as a contribution to a rank's slot. -/
  | hingeCsc
  /-- R379: Wait for all contributions and get the combined result. -/
  | hingeCsg
  /-- R379: Close a combining slot and discard its contents. -/
  | hingeCsr
  /-- R381: Chunk boundary: wait for sends and allow a channel switch. -/
  | hingeCkpt
  /-- R381: Choose the port for later sends. -/
  | hingeSel
  /-- R371: No operation. -/
  | hingeNop
  /-- R212: A launch packet is taken from a queue of a virtual device: it is checked for statuses 1 to 7, takes range entries, opens its snapshot binding, submits its collective, and is accepted with an age or refused. -/
  | acceptPacket
  /-- R216: The partition's placer places the next gang or cluster set of the first fitting ready launch on cores, claiming units of halted tenants where needed. -/
  | placeGang
  /-- R216: When a launch's pass-over count reaches 65,536, it blocks the placer until its next gang is placed. -/
  | placerBlock
  /-- R196: An issue slot chooses a group and issues the clause at the group's lowest pair of address and resume index for the lanes that hold it, after testing its header wait counts. -/
  | clauseIssue
  /-- R221: A group passed over for 4,096 eligible cycles is chosen at its slot's next choice. -/
  | slotStarvationLimit
  /-- R197: A clause completes: each remaining lane takes its next address, and trap entries, returns, exits, parks and replayable marking take effect. -/
  | clauseComplete
  /-- R206: The condition a waiting group waits on (counters, ring, barrier, engine issue, miss queue) is met and the group becomes resident. -/
  | groupWaitEnd
  /-- R226: A group's watchdog counter reaches WDOG × 2^24 and the group becomes replayable with the watchdog cause. -/
  | watchdogExpiry
  /-- R396: Firmware resumes a replayable group, clearing its watchdog counter and re-executing its faulted lanes. -/
  | firmwareResumeGroup
  /-- R223: A launch is ended by the guest, by firmware or by destruction: unplaced gangs are discarded, lanes are killed, and its collective ends. -/
  | launchEnd
  /-- R224: A launch whose gangs have ended, whose collective has retired and whose writes are accepted retires: holds and range entries are released and dependants become ready. -/
  | launchRetire
  /-- R118: A counted load, returning atomic, transposing or snapshot load writes its destination registers and is counted complete on the loads counter. -/
  | loadDataReturn
  /-- R55: The L2 accepts a queued store after removing other dies' copies, counting it complete on the stores counter. -/
  | storeAccept
  /-- R343: A copy-engine operation has written every destination byte: its latch entries are released and it is counted complete on the copies counter. -/
  | copyComplete
  /-- R118: A stationary load, multiply, zero, drain or row operation has written its destinations and is counted complete on the tile-operations counter. -/
  | tileOpComplete
  /-- R331: A multicast or remote stationary load reaches another target core's matrix engine and is ordered there against that core's multiplies. -/
  | mldReachEngine
  /-- R354: A fabric operation completes with a status from its target's acknowledgement, updating the remote-fault record on failure. -/
  | fabricOpComplete
  /-- R30: A free page walker takes the oldest queued miss not in a 64 KiB region already being walked. -/
  | walkDispatch
  /-- R30: A page walk ends, filling the TLBs and completing every queued miss in the page, or faulting only its own miss. -/
  | walkComplete
  /-- R64: The LLC home slice performs one request to a line whole: a load, ownership request, write-back, atomic, host atomic, fabric write or version operation. -/
  | homeRequest
  /-- R138: A host read, posted write or atomic arriving over PCI Express is performed at the home at device scope. -/
  | hostRequest
  /-- R56: A line arrives for an L2 fill, and a way is chosen by keeper match, invalid way, occupancy limit and LRU. -/
  | l2Fill
  /-- R93: The collector reclaims a reclaimable version and frees its record. -/
  | collectorReclaim
  /-- R94: The collector settles the oldest version of a line whose window lies 2^30 or more windows behind. -/
  | collectorSettle
  /-- R129: A device enters the next window once PTP time, complete close markers and installed commits allow it, sending its close markers. -/
  | windowEnter
  /-- R128: A close marker from a member arrives and is held until its counted operations have been performed. -/
  | closeMarkerReceive
  /-- R128: Ultra Ethernet Transport gives up a sent operation, which stays counted, and a give-up notice is sent to the member. -/
  | deliveryGiveUp
  /-- R128: A give-up notice arrives and counts its operation unless it was already performed. -/
  | giveUpNoticeReceive
  /-- R130: A fabric operation arrives at its target and is held until the target has entered its carried window, waking a collapsed target. -/
  | fabricOpArrive
  /-- R130: A held fabric operation is translated at the target and performed at device scope, with data before signal, or refused with a status. -/
  | fabricOpRelease
  /-- R379: A contribution arrives at a combining slot and is staged, accepted or refused with status 4. -/
  | slotContributionArrive
  /-- R382: A hinge processor switches to the ready channel with the highest PRIO, or the longest idle one, when the running channel stops, waits or reaches ckpt. -/
  | channelSwitch
  /-- R382: A channel that has run 2^20 hinge cycles is switched out at the next instruction boundary. -/
  | channelRunLimit
  /-- R348: A deferred rdone's fill-complete event takes effect once earlier overlapping copies of the group have completed. -/
  | rdoneTakeEffect
  /-- R349: A deferred rrel frees the slot once earlier source entries over its rows are released, serving a waiting reserve. -/
  | rrelTakeEffect
  /-- R398: A claimed unit is written to its owner's save block once the owning gang's operations on it have completed, and is then cleared. -/
  | unitSpill
  /-- R399: A spilled gang is reloaded at its unit positions once its units are free and its virtual device runs. -/
  | gangReload
  /-- R411: A slice ends at quantum expiry, at loss of work or by preference, and the partition chooses the next virtual device by pass. -/
  | quantumExpiry
  /-- R412: Each µs a throttled virtual device's byte and energy budgets gain their limits, capped at 16 times. -/
  | budgetTick
  /-- R418: A virtual device idle for VIDLE µs starts to collapse. -/
  | idleTimeout
  /-- R418: The actions of the wake class are done and the virtual device enters collapsed, acting on a held wake. -/
  | collapseComplete
  /-- R419: A waking virtual device finishes restoring and becomes active, performing held fabric operations in window order. -/
  | wakeComplete
  /-- R26: A TINV write sets BUSY and starts removing the virtual device's translations in the range, or is refused with ERR. -/
  | tinvWrite
  /-- R26: BUSY clears once no entry remains, overlapping walks have restarted and earlier accesses have performed. -/
  | tinvComplete
  /-- R23: A GROOT write is ignored while the virtual device has groups or launches, and otherwise removes all its translations. -/
  | grootWrite
  /-- R73: A hypervisor write of EN = 0 to KCTL ends the keeper; other writes are ignored. -/
  | kctlWrite
  /-- R404: A disjoint PLLCW write writes back and invalidates lines in removed ways before it completes. -/
  | pllcwWrite
  /-- R20: A write to a register without a row of its own is checked and accepted or refused, and refused guest accesses are counted. -/
  | registerWrite
  /-- R410: The create command checks quantum, save area and wake class and makes the virtual device active. -/
  | vdCreate
  /-- R410: The destroy command ends launches, keepers and job membership, releases holds and units, and removes translations. -/
  | vdDestroy
  /-- R413: The join command reads the job descriptor, checks it, sets FJOB and starts the job's window counter at W0. -/
  | vdJoin
  /-- R410: The leave command clears FJOB and the private window counter continues from c + 1. -/
  | vdLeave
  /-- R418: The collapse command starts collapse without waiting for VIDLE. -/
  | vdCollapse
  /-- R419: The wake command starts a wake of a collapsed virtual device. -/
  | vdWake
  /-- R422: The migrate-out command sets the cut window M for the source's migration. -/
  | vdMigrateOut
  /-- R424: The migrate-in command restores the image, rejoins the job as the same rank and restarts copies and channels. -/
  | vdMigrateIn
  /-- R425: The end-forwarding command waits until forwarding is drained and acknowledged, then sets STATE none. -/
  | vdEndForwarding
  /-- R419: A write to VWAKE starts a wake of a collapsed virtual device, and is ignored when active. -/
  | vwakeWrite
  /-- R428: A guest write to GWAKE is a wake write. -/
  | gwakeWrite
  /-- R428: A guest write to GEND ends every launch in flight whose DONE equals the value written. -/
  | gendWrite
  /-- R428: A guest write to GDOOR raises the named queue's MSI-X vector at the physical function. -/
  | gdoorWrite
  /-- R429: A TAIL write advances a shadow queue or is refused, and wakes a collapsed virtual device. -/
  | sqtailWrite
  /-- R430: While HEAD ≠ TAIL and the device is active, slot HEAD is read as a launch packet and HEAD advances. -/
  | shadowQueueRead
  /-- R433: Mailbox command 1 loads a new firmware image from host memory. -/
  | loadImage
  /-- R433: Mailbox command 2 returns a report over nonce, image digest and partition blocks, signed by the identity key. -/
  | attest
  /-- R437: A start command opens the key, checks the shards and begins writing them to the checkpoint store. -/
  | checkpointStart
  /-- R437: The shards are written, the signed manifest is built and drained with the shards, and the key is released. -/
  | checkpointComplete
  /-- R432: At reset, boot ROM verifies the firmware image and enters reduced service or stays in recovery. -/
  | moduleReset
  /-- R434: HBM and fabric links finish training and the module enters full service at clause boundaries. -/
  | linkTrainingComplete
  /-- R434: A supply sag event raises the slow-down step s by 1, up to 8. -/
  | supplySag
  /-- R434: Every 10 µs without reported sag, s falls by 1. -/
  | sagRecovery
  /-- R435: An uncorrectable error is contained to a group, virtual device or partition, and an error record is written. -/
  | uncorrectableError
  /-- R435: A corrected error raises ERRCNT CORR. -/
  | correctedError
  /-- R432: A policy plug-in's access outside its region is refused, the plug-in is stopped and its tenant's devices are fenced. -/
  | pluginViolation
  /-- R410: The removal of every translation and non-leaf entry of a destroyed virtual device completes, STATE becomes none and the VCMD command finishes. -/
  | vdDestroyComplete
  /-- R424: After the destination has migrated the device in, the frozen source enters STATE forwarding and starts sending its held operations to the destination. -/
  | forwardingEntry
  deriving DecidableEq, Repr

end Sys2Proof
end

