-- ==== Sys2Proof/WellFormed.lean ====
section
/-! DEFINITION. Which instructions are well formed: the static conditions of the encoding chapter (spec/09) and of the
instruction chapters, each with a name. A word that breaks one decodes to no instruction; the device then raises the
illegal-instruction trap (R251), or ends the collective with program status 1 (R371). Conditions that depend on the launch, the
group or the clause (the level, the register budget, the literals of the clause) are not static: Machine/Operands checks them. -/

namespace Sys2Proof

/-- Why a word is no instruction. Every reason leads to the same trap; the names are the model's. -/
inductive IllForm where
  /-- An opcode, a class or a code of a field that the tables leave unassigned or reserve (R228, R251). -/
  | unassigned
  /-- A field that must be 0 or is not used is not 0 (R251). -/
  | reservedField
  /-- An odd register where an even pair is required (R240, R243, R257). -/
  | oddPair
  /-- A span or an operand set that does not begin at a multiple of its size (R235, R340, R342). -/
  | misalignedSpan
  /-- A width that the instruction does not accept (R235, R253, R304). -/
  | badWidth
  /-- A combination of ordering, scope and `.rp` that R105, R116, R243 or R317 forbids. -/
  | badOrdering
  /-- `k0` named as a destination (R247). -/
  | maskZero
  /-- A rounding override where none is allowed (R237). -/
  | badRounding
  /-- A type or format that the instruction does not accept (R253, R256). -/
  | badFormat
  /-- A count or code outside its range (R371). -/
  | badOperand
  /-- A second word that is missing: a memory instruction or a prefix at the end of its clause (R231). -/
  | missingWord
  /-- A prefix that is followed by another prefix (R231). -/
  | doublePrefix
  deriving DecidableEq, Repr

/-- The first failing condition of a list of named conditions. -/
def firstFailure : List (Bool × IllForm) → Option IllForm
  | [] => none
  | (ok, e) :: rest => if ok then firstFailure rest else some e

/-- An even scalar register number. -/
def evenReg (r : BitVec 6) : Bool := r.toNat % 2 == 0

/-- A register operand is an even pair when the instruction is wide (R240). -/
def pairIfWide (wide : Bool) (r : BitVec 6) : Bool := !wide || evenReg r

/-- The second source of a scalar instruction names an even pair when wide (R262). -/
def ScalarSrc.pairOk (wide : Bool) : ScalarSrc → Bool
  | .reg r => pairIfWide wide r
  | .imm _ => true
  | .lit _ => true

/-- The register span C of WID (R234). -/
def spanOf (wid : BitVec 2) : Nat := 2 ^ wid.toNat

/-- The element count E: C, or C ÷ 2 when an operand has a 64-bit type (R235). -/
def elemsOf (any64 : Bool) (wid : BitVec 2) : Nat := if any64 then spanOf wid / 2 else spanOf wid

/-- The registers of one operand: 2E for a 64-bit type, E for every other (R235). -/
def operandSpan (any64 is64 : Bool) (wid : BitVec 2) : Nat :=
  if is64 then 2 * elemsOf any64 wid else elemsOf any64 wid

/-- The first register of a span is a multiple of the span (R235). -/
def spanAligned (any64 is64 : Bool) (wid : BitVec 2) (v : BitVec 7) : Bool :=
  v.toNat % max 1 (operandSpan any64 is64 wid) == 0

/-- WID 0b00 is refused when an operand has a 64-bit type (R235). -/
def widthOk (any64 : Bool) (wid : BitVec 2) : Bool := !(any64 && wid == 0#2)

/-- The second source of a vector instruction: an aligned span, or an even scalar pair for a 64-bit type (R237). -/
def VectorSrc.ok (any64 is64 : Bool) (wid : BitVec 2) : VectorSrc → Bool
  | .vec v _ => spanAligned any64 is64 wid v
  | .scalar r => !is64 || evenReg r
  | .lit _ => true

/-- No rounding override, or one on an instruction that allows it (R237). -/
def VectorCtl.roundOk (c : VectorCtl) (allowed : Bool) : Bool := allowed || c.rnd.isNone

/-- A type of 64 bits. -/
def NumType.is64 : NumType → Bool
  | .i64 | .n64 => true
  | _ => false

/-- An integer type. -/
def NumType.isInt : NumType → Bool
  | .i8 | .i16 | .i32 | .i64 | .n8 | .n16 | .n32 | .n64 => true
  | _ => false

def ScalarBinary.check (o : ScalarBinary) : Option IllForm :=
  firstFailure [(pairIfWide o.wide o.d && pairIfWide o.wide o.a && o.b.pairOk o.wide, .oddPair)]

def ScalarUnary.check (o : ScalarUnary) : Option IllForm :=
  firstFailure [(pairIfWide o.wide o.d && pairIfWide o.wide o.a, .oddPair)]

def ScalarMove.check (o : ScalarMove) : Option IllForm :=
  firstFailure [(pairIfWide o.wide o.d && o.b.pairOk o.wide, .oddPair)]

def ScalarCompare.check (o : ScalarCompare) : Option IllForm :=
  firstFailure [(pairIfWide o.wide o.a && o.b.pairOk o.wide, .oddPair)]

/-- R268: with W = 1 the vector register is even too. -/
def ScalarFromLane.check (o : ScalarFromLane) : Option IllForm :=
  firstFailure [(pairIfWide o.wide o.d && (!o.wide || o.v.toNat % 2 == 0), .oddPair)]

def ScalarFromMask.check (_ : ScalarFromMask) : Option IllForm := none

/-- R269: `stok` may not name `k0`. -/
def ScalarToMask.check (o : ScalarToMask) : Option IllForm :=
  firstFailure [(o.k != 0#3, .maskZero)]

/-- The width a uniform system register has, if the number names one (R248). -/
def uniformSysWidth (num : Nat) : Option Nat :=
  if num ≤ 6 then some 32
  else if 8 ≤ num && num ≤ 11 then some 32
  else if 0x10 ≤ num && num ≤ 0x13 then some 64
  else none

/-- A uniform register that `ssyswr` may write: `fmode`, `part`, `cond` (R248). -/
def uniformSysWritable (num : Nat) : Bool := num ≤ 2

/-- R248: the number names a uniform register whose width W matches; a pair is even. -/
def ScalarSystem.checkRead (o : ScalarSystem) : Option IllForm :=
  firstFailure [((uniformSysWidth o.num.toNat).isSome, .unassigned),
    (uniformSysWidth o.num.toNat == some (if o.wide then 64 else 32), .badWidth),
    (pairIfWide o.wide o.r, .oddPair)]

/-- R248: as for a read, and the register is RW. -/
def ScalarSystem.checkWrite (o : ScalarSystem) : Option IllForm :=
  firstFailure [((uniformSysWidth o.num.toNat).isSome && uniformSysWritable o.num.toNat, .unassigned),
    (uniformSysWidth o.num.toNat == some (if o.wide then 64 else 32), .badWidth),
    (pairIfWide o.wide o.r, .oddPair)]

/-- R234, R235, R237 for one source; no instruction of this shape takes a rounding override. -/
def VectorUnary.check (o : VectorUnary) : Option IllForm :=
  firstFailure [(o.ctl.roundOk false, .badRounding),
    (spanAligned false false o.wid o.d && spanAligned false false o.wid o.a, .misalignedSpan)]

/-- R234, R235, R237 for two sources of one type. -/
def VectorBinary.check (is64 rnd : Bool) (o : VectorBinary) : Option IllForm :=
  firstFailure [(o.ctl.roundOk rnd, .badRounding), (widthOk is64 o.wid, .badWidth),
    (spanAligned is64 is64 o.wid o.d && spanAligned is64 is64 o.wid o.a && o.b.ok is64 is64 o.wid, .misalignedSpan)]

def VectorTernary.check (rnd : Bool) (o : VectorTernary) : Option IllForm :=
  firstFailure [(o.ctl.roundOk rnd, .badRounding),
    (spanAligned false false o.wid o.d && spanAligned false false o.wid o.a && o.b.ok false false o.wid
      && spanAligned false false o.wid o.c, .misalignedSpan)]

def VectorFCompare.check (o : VectorFCompare) : Option IllForm :=
  firstFailure [(o.ctl.roundOk false, .badRounding), (o.m != 0#3, .maskZero)]

/-- R289: each source of a 64-bit compare is an aligned pair. -/
def VectorICompare.check (is64 : Bool) (o : VectorICompare) : Option IllForm :=
  firstFailure [(o.ctl.roundOk false, .badRounding), (o.m != 0#3, .maskZero),
    (!is64 || (o.a.toNat % 2 == 0 && o.b.ok true true 1#2), .misalignedSpan)]

/-- R253, R292: unequal codes, no `.e8m0` destination, `.e8m0` only to `.f32` or `.bf16`; and the spans of R235. -/
def VectorConvert.check (o : VectorConvert) : Option IllForm :=
  let any := o.dt.is64 || o.st.is64
  firstFailure [(o.dt != o.st && o.dt != .e8m0 && (o.st != .e8m0 || o.dt == .f32 || o.dt == .bf16), .badFormat),
    (widthOk any o.wid, .badWidth),
    (spanAligned any o.dt.is64 o.wid o.d && spanAligned any o.st.is64 o.wid o.a, .misalignedSpan)]

def VectorMove.check (o : VectorMove) : Option IllForm :=
  firstFailure [(o.ctl.roundOk false, .badRounding),
    (spanAligned false false o.wid o.d && o.b.ok false false o.wid, .misalignedSpan)]

def VectorShuffle.check (o : VectorShuffle) : Option IllForm :=
  firstFailure [(o.ctl.roundOk false, .badRounding)]

def VectorVote.check (o : VectorVote) : Option IllForm :=
  firstFailure [(o.ctl.roundOk false, .badRounding), (o.m != 0#3, .maskZero)]

def VectorCross.check (rnd : Bool) (o : VectorCross) : Option IllForm :=
  firstFailure [(o.ctl.roundOk rnd, .badRounding)]

/-- R295, R387: an even destination and the number of a per-lane register: `pcv` 0x40, `wid` 0x41, or a trap register 0x48 to
0x4A (which only trap mode reaches). -/
def VectorSystem.check (o : VectorSystem) : Option IllForm :=
  firstFailure [(o.ctl.roundOk false, .badRounding), (o.d.toNat % 2 == 0, .oddPair),
    (o.num == 0x40#7 || o.num == 0x41#7 || o.num == 0x48#7 || o.num == 0x49#7 || o.num == 0x4A#7, .unassigned)]

/-- The bytes a lane accesses are 1, 2, 4, 8 or 16, and the DATA span is aligned (R235, R243, R304). -/
def dataOk (bytes : Nat) (wid : BitVec 2) (data : BitVec 7) : Bool × Bool :=
  let is64 := bytes == 8
  (widthOk is64 wid && bytes * elemsOf is64 wid ≤ 16, spanAligned is64 is64 wid data)

/-- A scope other than group needs an ordering, and no access carries job scope (R105, R243). -/
def scopeOk (ord : MemOrder) (scope : Scope) : Bool :=
  scope != .job && (ord != .weak || scope == .grp)

/-- `.rp` needs `.acq` or `.ar` at device scope (R116). -/
def rpOk (rp : Bool) (ord : MemOrder) (scope : Scope) : Bool :=
  !rp || ((ord == .acq || ord == .ar) && scope == .dev)

def GlobalLoad.check (bytes : Nat) (o : GlobalLoad) : Option IllForm :=
  firstFailure [((dataOk bytes o.wid o.data).1, .badWidth), ((dataOk bytes o.wid o.data).2, .misalignedSpan),
    (scopeOk o.ord o.scope && (o.ord == .weak || o.ord == .rlx || o.ord == .acq) && rpOk o.rp o.ord o.scope, .badOrdering),
    (evenReg o.addr.base, .oddPair)]

def GlobalStore.check (bytes : Nat) (o : GlobalStore) : Option IllForm :=
  firstFailure [((dataOk bytes o.wid o.data).1, .badWidth), ((dataOk bytes o.wid o.data).2, .misalignedSpan),
    (scopeOk o.ord o.scope && (o.ord == .weak || o.ord == .rlx || o.ord == .rel), .badOrdering),
    (evenReg o.addr.base, .oddPair)]

/-- A scratchpad load or store; the orderings are those of a load or of a store (R105, R308). -/
def ScratchAccess.check (bytes : Nat) (store : Bool) (o : ScratchAccess) : Option IllForm :=
  firstFailure [((dataOk bytes o.wid o.data).1, .badWidth), ((dataOk bytes o.wid o.data).2, .misalignedSpan),
    (scopeOk o.ord o.scope && (o.ord == .weak || o.ord == .rlx || o.ord == (if store then .rel else .acq)), .badOrdering)]

/-- R309, R310: WID 0b00, or 0b01 for `.b32`; BASE is an even pair. -/
def TransposeLoad.check (bytes : Nat) (o : TransposeLoad) : Option IllForm :=
  firstFailure [(o.wid == (if bytes == 4 then 1#2 else 0#2), .badWidth),
    (spanAligned false false o.wid o.data, .misalignedSpan), (evenReg o.base, .oddPair)]

def SnapshotLoad.check (bytes : Nat) (o : SnapshotLoad) : Option IllForm :=
  firstFailure [((dataOk bytes o.wid o.data).1, .badWidth), ((dataOk bytes o.wid o.data).2, .misalignedSpan),
    (evenReg o.addr.base, .oddPair)]

/-- R312: WID is 0b00 for 32-bit types and 0b01 for 64-bit types. -/
def AtomicAccess.check (is64 : Bool) (o : AtomicAccess) : Option IllForm :=
  firstFailure [(o.wid == (if is64 then 1#2 else 0#2), .badWidth), (spanAligned is64 is64 o.wid o.data, .misalignedSpan),
    (scopeOk o.ord o.scope && rpOk o.rp o.ord o.scope, .badOrdering), (evenReg o.addr.base, .oddPair)]

/-- R316: `wardw` has WID 0b00. -/
def LaneWait.checkWard (o : LaneWait) : Option IllForm :=
  firstFailure [(o.wid == 0#2, .badWidth), (evenReg o.addr.base, .oddPair)]

/-- R326: `harr` and `hwait` have WID 0b01 and an even DATA pair. -/
def LaneWait.checkHasp (o : LaneWait) : Option IllForm :=
  firstFailure [(o.wid == 1#2, .badWidth), (o.data.toNat % 2 == 0, .misalignedSpan), (evenReg o.addr.base, .oddPair)]

/-- R317. -/
def FenceOp.check (o : FenceOp) : Option IllForm :=
  firstFailure [((o.ord == .acq || o.ord == .rel || o.ord == .ar) && o.scope != .job, .badOrdering)]

/-- R318: an explicit key stands in an even pair. -/
def SnapshotOpen.check (o : SnapshotOpen) : Option IllForm :=
  firstFailure [((o.expl.map evenReg).getD true, .oddPair)]

def KeepOp.check (o : KeepOp) : Option IllForm := firstFailure [(evenReg o.base && evenReg o.d, .oddPair)]

def PrefetchOp.check (o : PrefetchOp) : Option IllForm := firstFailure [(evenReg o.addr.base, .oddPair)]

/-- R256: `.f16` is not accepted by loads and multiplies. -/
def StationaryLoad.check (o : StationaryLoad) : Option IllForm := firstFailure [(o.f != .f16, .badFormat)]

def MatrixMultiply.check (o : MatrixMultiply) : Option IllForm := firstFailure [(o.f != .f16, .badFormat)]

/-- R340: V is a multiple of 8. -/
def MatrixRow.check (o : MatrixRow) : Option IllForm := firstFailure [(o.v.toNat % 8 == 0, .misalignedSpan)]

/-- R257, R344: pairs for the global sides, and G a multiple of its count. -/
def CopyOp.check (dPair sPair : Bool) (count : Nat) (o : CopyOp) : Option IllForm :=
  firstFailure [(pairIfWide dPair o.d && pairIfWide sPair o.s, .oddPair), (o.g.toNat % count == 0, .misalignedSpan)]

def RingPush.check (o : RingPush) : Option IllForm := firstFailure [(evenReg o.s, .oddPair)]

/-- R346, R353: pairs and an aligned G. -/
def FabricOp.check (dPair : Bool) (count : Nat) (o : FabricOp) : Option IllForm :=
  firstFailure [(pairIfWide dPair o.d && evenReg o.s, .oddPair), (o.g.toNat % count == 0, .misalignedSpan)]

/-- The first static condition an instruction breaks, if any. -/
def Instr.check : Instr → Option IllForm
  | .sadd o => o.check
  | .ssub o => o.check
  | .smul o => o.check
  | .smulhiI o => o.check
  | .smulhiN o => o.check
  | .sand o => o.check
  | .sor o => o.check
  | .sxor o => o.check
  | .snot o => o.check
  | .sshl o => o.check
  | .sshrN o => o.check
  | .sshrI o => o.check
  | .sminI o => o.check
  | .sminN o => o.check
  | .smaxI o => o.check
  | .smaxN o => o.check
  | .sbfxN o => o.check
  | .sbfxI o => o.check
  | .sbfi o => o.check
  | .spopc o => o.check
  | .sclz o => o.check
  | .sffs o => o.check
  | .smov o => o.check
  | .scmpI o => o.check
  | .scmpN o => o.check
  | .slea o => o.check
  | .sfromv o => o.check
  | .sfromk o => o.check
  | .stok o => o.check
  | .ssysrd o => o.checkRead
  | .ssyswr o => o.checkWrite
  | .faddF32 o => o.check false true
  | .faddBf16 o => o.check false true
  | .faddF16 o => o.check false true
  | .fsubF32 o => o.check false true
  | .fsubBf16 o => o.check false true
  | .fsubF16 o => o.check false true
  | .fmulF32 o => o.check false true
  | .fmulBf16 o => o.check false true
  | .fmulF16 o => o.check false true
  | .ffmaF32 o => o.check true
  | .ffmaBf16 o => o.check true
  | .ffmaF16 o => o.check true
  | .fminF32 o => o.check false false
  | .fminBf16 o => o.check false false
  | .fminF16 o => o.check false false
  | .fmaxF32 o => o.check false false
  | .fmaxBf16 o => o.check false false
  | .fmaxF16 o => o.check false false
  | .fdiv o => o.check false false
  | .frcp o => o.check
  | .frsq o => o.check
  | .fsqrt o => o.check
  | .fexp2 o => o.check
  | .flog2 o => o.check
  | .fsin o => o.check
  | .fcos o => o.check
  | .fcmpF32 o => o.check
  | .fcmpBf16 o => o.check
  | .fcmpF16 o => o.check
  | .fclassF32 o => o.check
  | .fclassBf16 o => o.check
  | .fclassF16 o => o.check
  | .cvt o => o.check
  | .iaddB32 o => o.check false false
  | .iaddB64 o => o.check true false
  | .isubB32 o => o.check false false
  | .isubB64 o => o.check true false
  | .imulB32 o => o.check false false
  | .imulhiI32 o => o.check false false
  | .imulhiN32 o => o.check false false
  | .imadB32 o => o.check false
  | .iaddsI32 o => o.check false false
  | .iaddsN32 o => o.check false false
  | .isubsI32 o => o.check false false
  | .isubsN32 o => o.check false false
  | .iminI32 o => o.check false false
  | .iminN32 o => o.check false false
  | .imaxI32 o => o.check false false
  | .imaxN32 o => o.check false false
  | .andB32 o => o.check false false
  | .orB32 o => o.check false false
  | .xorB32 o => o.check false false
  | .notB32 o => o.check
  | .shlB32 o => o.check false false
  | .shrN32 o => o.check false false
  | .shrI32 o => o.check false false
  | .icmpI32 o => o.check false
  | .icmpN32 o => o.check false
  | .icmpI64 o => o.check true
  | .icmpN64 o => o.check true
  | .popcB32 o => o.check
  | .clzB32 o => o.check
  | .brevB32 o => o.check
  | .movB32 o => o.check
  | .shflB32 o => o.check
  | .vany o => o.check
  | .vall o => o.check
  | .ballotB32 o => o.check false
  | .redaddI32 o => o.check false
  | .redaddF32 o => o.check true
  | .redminI32 o => o.check false
  | .redminN32 o => o.check false
  | .redminF32 o => o.check false
  | .redmaxI32 o => o.check false
  | .redmaxN32 o => o.check false
  | .redmaxF32 o => o.check false
  | .redandB32 o => o.check false
  | .redorB32 o => o.check false
  | .redxorB32 o => o.check false
  | .scanaddI32 o => o.check false
  | .scanaddF32 o => o.check true
  | .xscanaddI32 o => o.check false
  | .xscanaddF32 o => o.check true
  | .scanmaxF32 o => o.check false
  | .scanminF32 o => o.check false
  | .vsysrd o => o.check
  | .ldgB8 o => o.check 1
  | .ldgI8 o => o.check 1
  | .ldgB16 o => o.check 2
  | .ldgI16 o => o.check 2
  | .ldgB32 o => o.check 4
  | .ldgB64 o => o.check 8
  | .stgB8 o => o.check 1
  | .stgB16 o => o.check 2
  | .stgB32 o => o.check 4
  | .stgB64 o => o.check 8
  | .ldsB8 o => o.check 1 false
  | .ldsI8 o => o.check 1 false
  | .ldsB16 o => o.check 2 false
  | .ldsI16 o => o.check 2 false
  | .ldsB32 o => o.check 4 false
  | .ldsB64 o => o.check 8 false
  | .stsB8 o => o.check 1 true
  | .stsB16 o => o.check 2 true
  | .stsB32 o => o.check 4 true
  | .stsB64 o => o.check 8 true
  | .ldtB8 o => o.check 1
  | .ldtB16 o => o.check 2
  | .ldtB32 o => o.check 4
  | .ldzB32 o => o.check 4
  | .ldzB64 o => o.check 8
  | .atomAddB32 o => o.check false
  | .atomMinI32 o => o.check false
  | .atomMinN32 o => o.check false
  | .atomMaxI32 o => o.check false
  | .atomMaxN32 o => o.check false
  | .atomAndB32 o => o.check false
  | .atomOrB32 o => o.check false
  | .atomXorB32 o => o.check false
  | .atomExchB32 o => o.check false
  | .atomCasB32 o => o.check false
  | .atomFaddF32 o => o.check false
  | .atomIncwN32 o => o.check false
  | .atomBfaddN32 o => o.check false
  | .atomAddB64 o => o.check true
  | .atomMinI64 o => o.check true
  | .atomMinN64 o => o.check true
  | .atomMaxI64 o => o.check true
  | .atomMaxN64 o => o.check true
  | .atomAndB64 o => o.check true
  | .atomOrB64 o => o.check true
  | .atomXorB64 o => o.check true
  | .atomExchB64 o => o.check true
  | .atomCasB64 o => o.check true
  | .atomIncwN64 o => o.check true
  | .atomBfaddN64 o => o.check true
  | .wardw o => o.checkWard
  | .fence o => o.check
  | .snapo o => o.check
  | .snapc _ => none
  | .txb _ => none
  | .txc => none
  | .txa => none
  | .keep o => o.check
  | .unkeep _ => none
  | .pf o => o.check
  | .harr o => o.checkHasp
  | .hwait o => o.checkHasp
  | .bra _ => none
  | .brc _ _ _ => none
  | .brd _ _ _ => none
  | .brx _ => none
  | .call _ _ => none
  | .ret _ => none
  | .join _ => none
  | .jwait _ => none
  | .exit => none
  | .yield => none
  | .serb => none
  | .sere => none
  | .bar _ => none
  | .trap _ => none
  | .brk _ => none
  | .cwait _ _ _ _ => none
  | .launch pair => firstFailure [(evenReg pair, .oddPair)]
  | .halt => none
  | .nop => none
  | .mld o => o.check
  | .mma o => o.check
  | .mmar o => o.check
  | .mzero _ => none
  | .mdrain _ => none
  | .mrowrd o => o.check
  | .mrowwr o => o.check
  | .cpyin1 o => o.check false true 1
  | .cpyin2 o => o.check false true 2
  | .cpyin3 o => o.check false true 4
  | .cpyout1 o => o.check true false 1
  | .cpyout2 o => o.check true false 2
  | .cpyout3 o => o.check true false 4
  | .cpyg o => o.check true true 1
  | .cpys o => o.check false false 1
  | .rpush o => o.check
  | .rresv _ => none
  | .rdone _ => none
  | .rpop _ => none
  | .rrel _ => none
  | .mcast o => o.check false 2
  | .put o => o.check true 1
  | .putsig o => o.check true 4
  | .get o => o.check true 1
  | .raddF32 o => o.check true 1
  | .rmaxF32 o => o.check true 1
  | .rsmx o => o.check true 1
  | .winq d => firstFailure [(evenReg d, .oddPair)]
  | .jfence => none
  | .hingeStop => none
  | .hingeBr => none
  | .hingeBnz => none
  | .hingeLoop => none
  | .hingeMovi => none
  | .hingeAdd => none
  | .hingeAddi => none
  | .hingeMuli => none
  | .hingeShli => none
  | .hingeLd => none
  | .hingeAwait => none
  | .hingeArrive => none
  | .hingePut => none
  | .hingePutsig => none
  | .hingeGet => none
  | .hingeRadd => none
  | .hingeBld => none
  | .hingeBldW => none
  | .hingeBst => none
  | .hingeBstW => none
  | .hingeDec => none
  | .hingeFadd => none
  | .hingeCmpr => none
  | .hingeLen => none
  | .hingeEmax => none
  | .hingeImax => none
  | .hingeAlign => none
  | .hingeIadd => none
  | .hingeCvtb => none
  | .hingeCsa => none
  | .hingeCsc => none
  | .hingeCsg => none
  | .hingeCsr => none
  | .hingeCkpt => none
  | .hingeSel => none
  | .hingeNop => none
  | .acceptPacket => none
  | .placeGang => none
  | .placerBlock => none
  | .clauseIssue => none
  | .slotStarvationLimit => none
  | .clauseComplete => none
  | .groupWaitEnd => none
  | .watchdogExpiry => none
  | .firmwareResumeGroup => none
  | .launchEnd => none
  | .launchRetire => none
  | .loadDataReturn => none
  | .storeAccept => none
  | .copyComplete => none
  | .tileOpComplete => none
  | .mldReachEngine => none
  | .fabricOpComplete => none
  | .walkDispatch => none
  | .walkComplete => none
  | .homeRequest => none
  | .hostRequest => none
  | .l2Fill => none
  | .collectorReclaim => none
  | .collectorSettle => none
  | .windowEnter => none
  | .closeMarkerReceive => none
  | .deliveryGiveUp => none
  | .giveUpNoticeReceive => none
  | .fabricOpArrive => none
  | .fabricOpRelease => none
  | .slotContributionArrive => none
  | .channelSwitch => none
  | .channelRunLimit => none
  | .rdoneTakeEffect => none
  | .rrelTakeEffect => none
  | .unitSpill => none
  | .gangReload => none
  | .quantumExpiry => none
  | .budgetTick => none
  | .idleTimeout => none
  | .collapseComplete => none
  | .wakeComplete => none
  | .tinvWrite => none
  | .tinvComplete => none
  | .grootWrite => none
  | .kctlWrite => none
  | .pllcwWrite => none
  | .registerWrite => none
  | .vdCreate => none
  | .vdDestroy => none
  | .vdJoin => none
  | .vdLeave => none
  | .vdCollapse => none
  | .vdWake => none
  | .vdMigrateOut => none
  | .vdMigrateIn => none
  | .vdEndForwarding => none
  | .vwakeWrite => none
  | .gwakeWrite => none
  | .gendWrite => none
  | .gdoorWrite => none
  | .sqtailWrite => none
  | .shadowQueueRead => none
  | .loadImage => none
  | .attest => none
  | .checkpointStart => none
  | .checkpointComplete => none
  | .moduleReset => none
  | .linkTrainingComplete => none
  | .supplySag => none
  | .sagRecovery => none
  | .uncorrectableError => none
  | .correctedError => none
  | .pluginViolation => none
  | .vdDestroyComplete => none
  | .forwardingEntry => none

/-- A well-formed instruction: the words that its encoding gives decode to it. -/
def Instr.wf (i : Instr) : Bool := i.check.isNone

/-- The major level that introduced a type code of `cvt` (R253). -/
def NumType.level : NumType → Nat
  | .bf16 => 2
  | .e4m3 | .e5m2 | .e8m0 => 3
  | _ => 1

/-- The major level that introduced an instruction (R252 to R257, R371); the opcode is refused in a launch of a lower level
(R251). An event has none. -/
def Instr.level : Instr → Nat
  | .sadd _ => 1
  | .ssub _ => 1
  | .smul _ => 1
  | .smulhiI _ => 1
  | .smulhiN _ => 1
  | .sand _ => 1
  | .sor _ => 1
  | .sxor _ => 1
  | .snot _ => 1
  | .sshl _ => 1
  | .sshrN _ => 1
  | .sshrI _ => 1
  | .sminI _ => 1
  | .sminN _ => 1
  | .smaxI _ => 1
  | .smaxN _ => 1
  | .sbfxN _ => 1
  | .sbfxI _ => 1
  | .sbfi _ => 1
  | .spopc _ => 1
  | .sclz _ => 1
  | .sffs _ => 2
  | .smov _ => 1
  | .scmpI _ => 1
  | .scmpN _ => 1
  | .slea _ => 2
  | .sfromv _ => 1
  | .sfromk _ => 1
  | .stok _ => 1
  | .ssysrd _ => 1
  | .ssyswr _ => 1
  | .faddF32 _ => 1
  | .faddBf16 _ => 2
  | .faddF16 _ => 1
  | .fsubF32 _ => 1
  | .fsubBf16 _ => 2
  | .fsubF16 _ => 1
  | .fmulF32 _ => 1
  | .fmulBf16 _ => 2
  | .fmulF16 _ => 1
  | .ffmaF32 _ => 1
  | .ffmaBf16 _ => 2
  | .ffmaF16 _ => 1
  | .fminF32 _ => 1
  | .fminBf16 _ => 2
  | .fminF16 _ => 1
  | .fmaxF32 _ => 1
  | .fmaxBf16 _ => 2
  | .fmaxF16 _ => 1
  | .fdiv _ => 1
  | .frcp _ => 1
  | .frsq _ => 1
  | .fsqrt _ => 1
  | .fexp2 _ => 1
  | .flog2 _ => 1
  | .fsin _ => 1
  | .fcos _ => 1
  | .fcmpF32 _ => 1
  | .fcmpBf16 _ => 2
  | .fcmpF16 _ => 1
  | .fclassF32 _ => 1
  | .fclassBf16 _ => 2
  | .fclassF16 _ => 1
  | .cvt o => max o.dt.level o.st.level
  | .iaddB32 _ => 1
  | .iaddB64 _ => 1
  | .isubB32 _ => 1
  | .isubB64 _ => 1
  | .imulB32 _ => 1
  | .imulhiI32 _ => 1
  | .imulhiN32 _ => 1
  | .imadB32 _ => 2
  | .iaddsI32 _ => 1
  | .iaddsN32 _ => 1
  | .isubsI32 _ => 1
  | .isubsN32 _ => 1
  | .iminI32 _ => 1
  | .iminN32 _ => 1
  | .imaxI32 _ => 1
  | .imaxN32 _ => 1
  | .andB32 _ => 1
  | .orB32 _ => 1
  | .xorB32 _ => 1
  | .notB32 _ => 1
  | .shlB32 _ => 1
  | .shrN32 _ => 1
  | .shrI32 _ => 1
  | .icmpI32 _ => 1
  | .icmpN32 _ => 1
  | .icmpI64 _ => 1
  | .icmpN64 _ => 1
  | .popcB32 _ => 1
  | .clzB32 _ => 1
  | .brevB32 _ => 1
  | .movB32 _ => 1
  | .shflB32 _ => 1
  | .vany _ => 1
  | .vall _ => 1
  | .ballotB32 _ => 1
  | .redaddI32 _ => 1
  | .redaddF32 _ => 1
  | .redminI32 _ => 1
  | .redminN32 _ => 1
  | .redminF32 _ => 1
  | .redmaxI32 _ => 1
  | .redmaxN32 _ => 1
  | .redmaxF32 _ => 1
  | .redandB32 _ => 1
  | .redorB32 _ => 1
  | .redxorB32 _ => 1
  | .scanaddI32 _ => 1
  | .scanaddF32 _ => 2
  | .xscanaddI32 _ => 1
  | .xscanaddF32 _ => 2
  | .scanmaxF32 _ => 2
  | .scanminF32 _ => 3
  | .vsysrd _ => 1
  | .ldgB8 _ => 1
  | .ldgI8 _ => 1
  | .ldgB16 _ => 1
  | .ldgI16 _ => 1
  | .ldgB32 _ => 1
  | .ldgB64 _ => 1
  | .stgB8 _ => 1
  | .stgB16 _ => 1
  | .stgB32 _ => 1
  | .stgB64 _ => 1
  | .ldsB8 _ => 1
  | .ldsI8 _ => 1
  | .ldsB16 _ => 1
  | .ldsI16 _ => 1
  | .ldsB32 _ => 1
  | .ldsB64 _ => 1
  | .stsB8 _ => 1
  | .stsB16 _ => 1
  | .stsB32 _ => 1
  | .stsB64 _ => 1
  | .ldtB8 _ => 2
  | .ldtB16 _ => 2
  | .ldtB32 _ => 2
  | .ldzB32 _ => 3
  | .ldzB64 _ => 3
  | .atomAddB32 _ => 1
  | .atomMinI32 _ => 1
  | .atomMinN32 _ => 1
  | .atomMaxI32 _ => 1
  | .atomMaxN32 _ => 1
  | .atomAndB32 _ => 1
  | .atomOrB32 _ => 1
  | .atomXorB32 _ => 1
  | .atomExchB32 _ => 1
  | .atomCasB32 _ => 1
  | .atomFaddF32 _ => 1
  | .atomIncwN32 _ => 3
  | .atomBfaddN32 _ => 3
  | .atomAddB64 _ => 1
  | .atomMinI64 _ => 1
  | .atomMinN64 _ => 1
  | .atomMaxI64 _ => 1
  | .atomMaxN64 _ => 1
  | .atomAndB64 _ => 1
  | .atomOrB64 _ => 1
  | .atomXorB64 _ => 1
  | .atomExchB64 _ => 1
  | .atomCasB64 _ => 1
  | .atomIncwN64 _ => 3
  | .atomBfaddN64 _ => 3
  | .wardw _ => 2
  | .fence _ => 1
  | .snapo _ => 3
  | .snapc _ => 3
  | .txb _ => 3
  | .txc => 3
  | .txa => 3
  | .keep _ => 3
  | .unkeep _ => 3
  | .pf _ => 1
  | .harr _ => 3
  | .hwait _ => 3
  | .bra _ => 1
  | .brc _ _ _ => 1
  | .brd _ _ _ => 1
  | .brx _ => 1
  | .call _ _ => 1
  | .ret _ => 1
  | .join _ => 1
  | .jwait _ => 1
  | .exit => 1
  | .yield => 1
  | .serb => 2
  | .sere => 2
  | .bar _ => 1
  | .trap _ => 1
  | .brk _ => 1
  | .cwait _ _ _ _ => 1
  | .launch _ => 3
  | .halt => 1
  | .nop => 1
  | .mld o => if o.x == 0#8 then 1 else 3
  | .mma _ => 1
  | .mmar _ => 3
  | .mzero _ => 1
  | .mdrain _ => 1
  | .mrowrd _ => 2
  | .mrowwr _ => 2
  | .cpyin1 _ => 1
  | .cpyin2 _ => 2
  | .cpyin3 _ => 2
  | .cpyout1 _ => 1
  | .cpyout2 _ => 2
  | .cpyout3 _ => 2
  | .cpyg _ => 1
  | .cpys _ => 1
  | .rpush _ => 2
  | .rresv _ => 2
  | .rdone _ => 2
  | .rpop _ => 2
  | .rrel _ => 2
  | .mcast _ => 3
  | .put _ => 2
  | .putsig _ => 2
  | .get _ => 2
  | .raddF32 _ => 2
  | .rmaxF32 _ => 2
  | .rsmx _ => 3
  | .winq _ => 2
  | .jfence => 2
  | .hingeStop => 2
  | .hingeBr => 2
  | .hingeBnz => 2
  | .hingeLoop => 2
  | .hingeMovi => 2
  | .hingeAdd => 2
  | .hingeAddi => 2
  | .hingeMuli => 2
  | .hingeShli => 2
  | .hingeLd => 2
  | .hingeAwait => 2
  | .hingeArrive => 2
  | .hingePut => 2
  | .hingePutsig => 2
  | .hingeGet => 2
  | .hingeRadd => 2
  | .hingeBld => 2
  | .hingeBldW => 2
  | .hingeBst => 2
  | .hingeBstW => 2
  | .hingeDec => 2
  | .hingeFadd => 2
  | .hingeCmpr => 2
  | .hingeLen => 2
  | .hingeEmax => 3
  | .hingeImax => 3
  | .hingeAlign => 3
  | .hingeIadd => 3
  | .hingeCvtb => 3
  | .hingeCsa => 3
  | .hingeCsc => 3
  | .hingeCsg => 3
  | .hingeCsr => 3
  | .hingeCkpt => 2
  | .hingeSel => 2
  | .hingeNop => 2
  | .acceptPacket => 0
  | .placeGang => 0
  | .placerBlock => 0
  | .clauseIssue => 0
  | .slotStarvationLimit => 0
  | .clauseComplete => 0
  | .groupWaitEnd => 0
  | .watchdogExpiry => 0
  | .firmwareResumeGroup => 0
  | .launchEnd => 0
  | .launchRetire => 0
  | .loadDataReturn => 0
  | .storeAccept => 0
  | .copyComplete => 0
  | .tileOpComplete => 0
  | .mldReachEngine => 0
  | .fabricOpComplete => 0
  | .walkDispatch => 0
  | .walkComplete => 0
  | .homeRequest => 0
  | .hostRequest => 0
  | .l2Fill => 0
  | .collectorReclaim => 0
  | .collectorSettle => 0
  | .windowEnter => 0
  | .closeMarkerReceive => 0
  | .deliveryGiveUp => 0
  | .giveUpNoticeReceive => 0
  | .fabricOpArrive => 0
  | .fabricOpRelease => 0
  | .slotContributionArrive => 0
  | .channelSwitch => 0
  | .channelRunLimit => 0
  | .rdoneTakeEffect => 0
  | .rrelTakeEffect => 0
  | .unitSpill => 0
  | .gangReload => 0
  | .quantumExpiry => 0
  | .budgetTick => 0
  | .idleTimeout => 0
  | .collapseComplete => 0
  | .wakeComplete => 0
  | .tinvWrite => 0
  | .tinvComplete => 0
  | .grootWrite => 0
  | .kctlWrite => 0
  | .pllcwWrite => 0
  | .registerWrite => 0
  | .vdCreate => 0
  | .vdDestroy => 0
  | .vdJoin => 0
  | .vdLeave => 0
  | .vdCollapse => 0
  | .vdWake => 0
  | .vdMigrateOut => 0
  | .vdMigrateIn => 0
  | .vdEndForwarding => 0
  | .vwakeWrite => 0
  | .gwakeWrite => 0
  | .gendWrite => 0
  | .gdoorWrite => 0
  | .sqtailWrite => 0
  | .shadowQueueRead => 0
  | .loadImage => 0
  | .attest => 0
  | .checkpointStart => 0
  | .checkpointComplete => 0
  | .moduleReset => 0
  | .linkTrainingComplete => 0
  | .supplySag => 0
  | .sagRecovery => 0
  | .uncorrectableError => 0
  | .correctedError => 0
  | .pluginViolation => 0
  | .vdDestroyComplete => 0
  | .forwardingEntry => 0

/-- The engine classes of clauses (R227), and the words of hinge programs (R370). -/
inductive EngineClass where
  | scalar | vector | memory | control | matrix | copy | hinge
  deriving DecidableEq, Repr

/-- The class whose words an instruction is written in; an event has none. -/
def Instr.engineClass : Instr → Option EngineClass
  | .sadd _ => some .scalar
  | .ssub _ => some .scalar
  | .smul _ => some .scalar
  | .smulhiI _ => some .scalar
  | .smulhiN _ => some .scalar
  | .sand _ => some .scalar
  | .sor _ => some .scalar
  | .sxor _ => some .scalar
  | .snot _ => some .scalar
  | .sshl _ => some .scalar
  | .sshrN _ => some .scalar
  | .sshrI _ => some .scalar
  | .sminI _ => some .scalar
  | .sminN _ => some .scalar
  | .smaxI _ => some .scalar
  | .smaxN _ => some .scalar
  | .sbfxN _ => some .scalar
  | .sbfxI _ => some .scalar
  | .sbfi _ => some .scalar
  | .spopc _ => some .scalar
  | .sclz _ => some .scalar
  | .sffs _ => some .scalar
  | .smov _ => some .scalar
  | .scmpI _ => some .scalar
  | .scmpN _ => some .scalar
  | .slea _ => some .scalar
  | .sfromv _ => some .scalar
  | .sfromk _ => some .scalar
  | .stok _ => some .scalar
  | .ssysrd _ => some .scalar
  | .ssyswr _ => some .scalar
  | .faddF32 _ => some .vector
  | .faddBf16 _ => some .vector
  | .faddF16 _ => some .vector
  | .fsubF32 _ => some .vector
  | .fsubBf16 _ => some .vector
  | .fsubF16 _ => some .vector
  | .fmulF32 _ => some .vector
  | .fmulBf16 _ => some .vector
  | .fmulF16 _ => some .vector
  | .ffmaF32 _ => some .vector
  | .ffmaBf16 _ => some .vector
  | .ffmaF16 _ => some .vector
  | .fminF32 _ => some .vector
  | .fminBf16 _ => some .vector
  | .fminF16 _ => some .vector
  | .fmaxF32 _ => some .vector
  | .fmaxBf16 _ => some .vector
  | .fmaxF16 _ => some .vector
  | .fdiv _ => some .vector
  | .frcp _ => some .vector
  | .frsq _ => some .vector
  | .fsqrt _ => some .vector
  | .fexp2 _ => some .vector
  | .flog2 _ => some .vector
  | .fsin _ => some .vector
  | .fcos _ => some .vector
  | .fcmpF32 _ => some .vector
  | .fcmpBf16 _ => some .vector
  | .fcmpF16 _ => some .vector
  | .fclassF32 _ => some .vector
  | .fclassBf16 _ => some .vector
  | .fclassF16 _ => some .vector
  | .cvt _ => some .vector
  | .iaddB32 _ => some .vector
  | .iaddB64 _ => some .vector
  | .isubB32 _ => some .vector
  | .isubB64 _ => some .vector
  | .imulB32 _ => some .vector
  | .imulhiI32 _ => some .vector
  | .imulhiN32 _ => some .vector
  | .imadB32 _ => some .vector
  | .iaddsI32 _ => some .vector
  | .iaddsN32 _ => some .vector
  | .isubsI32 _ => some .vector
  | .isubsN32 _ => some .vector
  | .iminI32 _ => some .vector
  | .iminN32 _ => some .vector
  | .imaxI32 _ => some .vector
  | .imaxN32 _ => some .vector
  | .andB32 _ => some .vector
  | .orB32 _ => some .vector
  | .xorB32 _ => some .vector
  | .notB32 _ => some .vector
  | .shlB32 _ => some .vector
  | .shrN32 _ => some .vector
  | .shrI32 _ => some .vector
  | .icmpI32 _ => some .vector
  | .icmpN32 _ => some .vector
  | .icmpI64 _ => some .vector
  | .icmpN64 _ => some .vector
  | .popcB32 _ => some .vector
  | .clzB32 _ => some .vector
  | .brevB32 _ => some .vector
  | .movB32 _ => some .vector
  | .shflB32 _ => some .vector
  | .vany _ => some .vector
  | .vall _ => some .vector
  | .ballotB32 _ => some .vector
  | .redaddI32 _ => some .vector
  | .redaddF32 _ => some .vector
  | .redminI32 _ => some .vector
  | .redminN32 _ => some .vector
  | .redminF32 _ => some .vector
  | .redmaxI32 _ => some .vector
  | .redmaxN32 _ => some .vector
  | .redmaxF32 _ => some .vector
  | .redandB32 _ => some .vector
  | .redorB32 _ => some .vector
  | .redxorB32 _ => some .vector
  | .scanaddI32 _ => some .vector
  | .scanaddF32 _ => some .vector
  | .xscanaddI32 _ => some .vector
  | .xscanaddF32 _ => some .vector
  | .scanmaxF32 _ => some .vector
  | .scanminF32 _ => some .vector
  | .vsysrd _ => some .vector
  | .ldgB8 _ => some .memory
  | .ldgI8 _ => some .memory
  | .ldgB16 _ => some .memory
  | .ldgI16 _ => some .memory
  | .ldgB32 _ => some .memory
  | .ldgB64 _ => some .memory
  | .stgB8 _ => some .memory
  | .stgB16 _ => some .memory
  | .stgB32 _ => some .memory
  | .stgB64 _ => some .memory
  | .ldsB8 _ => some .memory
  | .ldsI8 _ => some .memory
  | .ldsB16 _ => some .memory
  | .ldsI16 _ => some .memory
  | .ldsB32 _ => some .memory
  | .ldsB64 _ => some .memory
  | .stsB8 _ => some .memory
  | .stsB16 _ => some .memory
  | .stsB32 _ => some .memory
  | .stsB64 _ => some .memory
  | .ldtB8 _ => some .memory
  | .ldtB16 _ => some .memory
  | .ldtB32 _ => some .memory
  | .ldzB32 _ => some .memory
  | .ldzB64 _ => some .memory
  | .atomAddB32 _ => some .memory
  | .atomMinI32 _ => some .memory
  | .atomMinN32 _ => some .memory
  | .atomMaxI32 _ => some .memory
  | .atomMaxN32 _ => some .memory
  | .atomAndB32 _ => some .memory
  | .atomOrB32 _ => some .memory
  | .atomXorB32 _ => some .memory
  | .atomExchB32 _ => some .memory
  | .atomCasB32 _ => some .memory
  | .atomFaddF32 _ => some .memory
  | .atomIncwN32 _ => some .memory
  | .atomBfaddN32 _ => some .memory
  | .atomAddB64 _ => some .memory
  | .atomMinI64 _ => some .memory
  | .atomMinN64 _ => some .memory
  | .atomMaxI64 _ => some .memory
  | .atomMaxN64 _ => some .memory
  | .atomAndB64 _ => some .memory
  | .atomOrB64 _ => some .memory
  | .atomXorB64 _ => some .memory
  | .atomExchB64 _ => some .memory
  | .atomCasB64 _ => some .memory
  | .atomIncwN64 _ => some .memory
  | .atomBfaddN64 _ => some .memory
  | .wardw _ => some .memory
  | .fence _ => some .memory
  | .snapo _ => some .memory
  | .snapc _ => some .memory
  | .txb _ => some .memory
  | .txc => some .memory
  | .txa => some .memory
  | .keep _ => some .memory
  | .unkeep _ => some .memory
  | .pf _ => some .memory
  | .harr _ => some .memory
  | .hwait _ => some .memory
  | .bra _ => some .control
  | .brc _ _ _ => some .control
  | .brd _ _ _ => some .control
  | .brx _ => some .control
  | .call _ _ => some .control
  | .ret _ => some .control
  | .join _ => some .control
  | .jwait _ => some .control
  | .exit => some .control
  | .yield => some .control
  | .serb => some .control
  | .sere => some .control
  | .bar _ => some .control
  | .trap _ => some .control
  | .brk _ => some .control
  | .cwait _ _ _ _ => some .control
  | .launch _ => some .control
  | .halt => some .control
  | .nop => some .control
  | .mld _ => some .matrix
  | .mma _ => some .matrix
  | .mmar _ => some .matrix
  | .mzero _ => some .matrix
  | .mdrain _ => some .matrix
  | .mrowrd _ => some .matrix
  | .mrowwr _ => some .matrix
  | .cpyin1 _ => some .copy
  | .cpyin2 _ => some .copy
  | .cpyin3 _ => some .copy
  | .cpyout1 _ => some .copy
  | .cpyout2 _ => some .copy
  | .cpyout3 _ => some .copy
  | .cpyg _ => some .copy
  | .cpys _ => some .copy
  | .rpush _ => some .copy
  | .rresv _ => some .copy
  | .rdone _ => some .copy
  | .rpop _ => some .copy
  | .rrel _ => some .copy
  | .mcast _ => some .copy
  | .put _ => some .copy
  | .putsig _ => some .copy
  | .get _ => some .copy
  | .raddF32 _ => some .copy
  | .rmaxF32 _ => some .copy
  | .rsmx _ => some .copy
  | .winq _ => some .copy
  | .jfence => some .copy
  | .hingeStop => some .hinge
  | .hingeBr => some .hinge
  | .hingeBnz => some .hinge
  | .hingeLoop => some .hinge
  | .hingeMovi => some .hinge
  | .hingeAdd => some .hinge
  | .hingeAddi => some .hinge
  | .hingeMuli => some .hinge
  | .hingeShli => some .hinge
  | .hingeLd => some .hinge
  | .hingeAwait => some .hinge
  | .hingeArrive => some .hinge
  | .hingePut => some .hinge
  | .hingePutsig => some .hinge
  | .hingeGet => some .hinge
  | .hingeRadd => some .hinge
  | .hingeBld => some .hinge
  | .hingeBldW => some .hinge
  | .hingeBst => some .hinge
  | .hingeBstW => some .hinge
  | .hingeDec => some .hinge
  | .hingeFadd => some .hinge
  | .hingeCmpr => some .hinge
  | .hingeLen => some .hinge
  | .hingeEmax => some .hinge
  | .hingeImax => some .hinge
  | .hingeAlign => some .hinge
  | .hingeIadd => some .hinge
  | .hingeCvtb => some .hinge
  | .hingeCsa => some .hinge
  | .hingeCsc => some .hinge
  | .hingeCsg => some .hinge
  | .hingeCsr => some .hinge
  | .hingeCkpt => some .hinge
  | .hingeSel => some .hinge
  | .hingeNop => some .hinge
  | .acceptPacket => none
  | .placeGang => none
  | .placerBlock => none
  | .clauseIssue => none
  | .slotStarvationLimit => none
  | .clauseComplete => none
  | .groupWaitEnd => none
  | .watchdogExpiry => none
  | .firmwareResumeGroup => none
  | .launchEnd => none
  | .launchRetire => none
  | .loadDataReturn => none
  | .storeAccept => none
  | .copyComplete => none
  | .tileOpComplete => none
  | .mldReachEngine => none
  | .fabricOpComplete => none
  | .walkDispatch => none
  | .walkComplete => none
  | .homeRequest => none
  | .hostRequest => none
  | .l2Fill => none
  | .collectorReclaim => none
  | .collectorSettle => none
  | .windowEnter => none
  | .closeMarkerReceive => none
  | .deliveryGiveUp => none
  | .giveUpNoticeReceive => none
  | .fabricOpArrive => none
  | .fabricOpRelease => none
  | .slotContributionArrive => none
  | .channelSwitch => none
  | .channelRunLimit => none
  | .rdoneTakeEffect => none
  | .rrelTakeEffect => none
  | .unitSpill => none
  | .gangReload => none
  | .quantumExpiry => none
  | .budgetTick => none
  | .idleTimeout => none
  | .collapseComplete => none
  | .wakeComplete => none
  | .tinvWrite => none
  | .tinvComplete => none
  | .grootWrite => none
  | .kctlWrite => none
  | .pllcwWrite => none
  | .registerWrite => none
  | .vdCreate => none
  | .vdDestroy => none
  | .vdJoin => none
  | .vdLeave => none
  | .vdCollapse => none
  | .vdWake => none
  | .vdMigrateOut => none
  | .vdMigrateIn => none
  | .vdEndForwarding => none
  | .vwakeWrite => none
  | .gwakeWrite => none
  | .gendWrite => none
  | .gdoorWrite => none
  | .sqtailWrite => none
  | .shadowQueueRead => none
  | .loadImage => none
  | .attest => none
  | .checkpointStart => none
  | .checkpointComplete => none
  | .moduleReset => none
  | .linkTrainingComplete => none
  | .supplySag => none
  | .sagRecovery => none
  | .uncorrectableError => none
  | .correctedError => none
  | .pluginViolation => none
  | .vdDestroyComplete => none
  | .forwardingEntry => none

/-- The control instructions that must end their clause (R197, R255). -/
def Instr.endsClause : Instr → Bool
  | .bra _ => true
  | .brc _ _ _ => true
  | .brd _ _ _ => true
  | .brx _ => true
  | .call _ _ => true
  | .ret _ => true
  | .jwait _ => true
  | .exit => true
  | .yield => true
  | .serb => true
  | .sere => true
  | _ => false

/-- Which of A, B, C and how many low bits of IMM a hinge instruction uses, and which of A, B, C are buffers (R370, R371). -/
structure HingeUse where
  a : Bool
  b : Bool
  c : Bool
  imm : Nat
  bufA : Bool
  bufB : Bool
  bufC : Bool

def Instr.hingeUse : Instr → HingeUse
  | .hingeStop => ⟨false, false, false, 0, false, false, false⟩
  | .hingeBr => ⟨false, false, false, 14, false, false, false⟩
  | .hingeBnz => ⟨true, false, false, 14, false, false, false⟩
  | .hingeLoop => ⟨true, false, false, 14, false, false, false⟩
  | .hingeMovi => ⟨true, false, false, 14, false, false, false⟩
  | .hingeAdd => ⟨true, true, true, 0, false, false, false⟩
  | .hingeAddi => ⟨true, true, false, 14, false, false, false⟩
  | .hingeMuli => ⟨true, true, false, 14, false, false, false⟩
  | .hingeShli => ⟨true, true, false, 6, false, false, false⟩
  | .hingeLd => ⟨true, true, false, 14, false, false, false⟩
  | .hingeAwait => ⟨true, true, false, 0, false, false, false⟩
  | .hingeArrive => ⟨true, false, false, 14, false, false, false⟩
  | .hingePut => ⟨true, true, true, 0, false, false, false⟩
  | .hingePutsig => ⟨true, true, true, 14, false, false, false⟩
  | .hingeGet => ⟨true, true, true, 0, false, false, false⟩
  | .hingeRadd => ⟨true, true, true, 0, false, false, false⟩
  | .hingeBld => ⟨true, true, false, 1, true, false, false⟩
  | .hingeBldW => ⟨true, true, false, 1, true, false, false⟩
  | .hingeBst => ⟨true, true, false, 1, true, false, false⟩
  | .hingeBstW => ⟨true, true, false, 1, true, false, false⟩
  | .hingeDec => ⟨true, true, false, 0, true, false, false⟩
  | .hingeFadd => ⟨true, true, true, 0, true, true, true⟩
  | .hingeCmpr => ⟨true, true, true, 8, false, true, false⟩
  | .hingeLen => ⟨true, false, false, 0, false, false, false⟩
  | .hingeEmax => ⟨true, true, false, 0, true, true, false⟩
  | .hingeImax => ⟨true, true, true, 0, true, true, true⟩
  | .hingeAlign => ⟨true, true, true, 0, true, true, true⟩
  | .hingeIadd => ⟨true, true, true, 0, true, true, true⟩
  | .hingeCvtb => ⟨true, true, true, 0, true, true, true⟩
  | .hingeCsa => ⟨true, false, false, 3, false, false, false⟩
  | .hingeCsc => ⟨true, true, false, 3, false, true, false⟩
  | .hingeCsg => ⟨true, false, false, 3, true, false, false⟩
  | .hingeCsr => ⟨false, false, false, 3, false, false, false⟩
  | .hingeCkpt => ⟨false, false, false, 0, false, false, false⟩
  | .hingeSel => ⟨false, false, false, 3, false, false, false⟩
  | .hingeNop => ⟨false, false, false, 0, false, false, false⟩
  | _ => ⟨false, false, false, 0, false, false, false⟩

/-- R370, R371: an unused field and the high bits of a buffer field are 0; `putsig` has an even C; `arrive` and `putsig` have a
nonzero count; `sel` names 0 to 4; bit 0 of IMM tells `bld.w` and `bst.w` from `bld` and `bst`. -/
def Instr.hingeCheck (i : Instr) (f : HingeFields) : Option IllForm :=
  let u := i.hingeUse
  firstFailure [((u.a || f.a == 0#4) && (u.b || f.b == 0#4) && (u.c || f.c == 0#4)
      && f.imm.toNat < 2 ^ u.imm && (!u.bufA || f.a.toNat < 4) && (!u.bufB || f.b.toNat < 4) && (!u.bufC || f.c.toNat < 4),
      .reservedField),
    (i != .hingePutsig || f.c.toNat % 2 == 0, .oddPair),
    ((i != .hingePutsig && i != .hingeArrive) || f.imm != 0#14, .badOperand),
    (i != .hingeSel || f.imm.toNat < 5, .badOperand),
    ((i != .hingeBld && i != .hingeBst) || f.imm == 0#14, .badOperand),
    ((i != .hingeBldW && i != .hingeBstW) || f.imm == 1#14, .badOperand)]

end Sys2Proof
end

