-- ==== Sys2Proof/Decode.lean ====
section
/-! DEFINITION. From words to instructions and back, by the encoding tables of spec/09 (R227 to R257) and R370.

A decoder reads the words that stand at an instruction's place in its clause and answers the instruction with the number
of words it takes, or the reason why they are no instruction. The encoder writes the words of an instruction. -/

namespace Sys2Proof

/-- The n bits of a word from bit lo upwards. -/
def fld (w : Word) (lo n : Nat) : BitVec n := BitVec.ofNat n (w.toNat / 2 ^ lo)

/-- The same field as a natural number. -/
def fldN (w : Word) (lo n : Nat) : Nat := w.toNat / 2 ^ lo % 2 ^ n

/-- Bit i of a word. -/
def flag (w : Word) (i : Nat) : Bool := w.toNat / 2 ^ i % 2 == 1

/-- A field placed at bit lo. -/
def place (lo : Nat) {n : Nat} (x : BitVec n) : Nat := x.toNat * 2 ^ lo

/-- A flag placed at bit i. -/
def placeFlag (i : Nat) (b : Bool) : Nat := if b then 2 ^ i else 0

/-- A word from the sum of its placed fields. -/
def mkWord (n : Nat) : Word := BitVec.ofNat 32 n

abbrev Decoded := Except IllForm Instr

/-- A field condition on the way to an instruction. -/
def require {α : Type} (ok : Bool) (e : IllForm) (k : Except IllForm α) : Except IllForm α :=
  if ok then k else .error e

/-- What a decoded instruction must still satisfy: its static conditions. -/
def checked (i : Instr) : Decoded :=
  match i.check with
  | none => .ok i
  | some e => .error e

/-! ## Codes of the small fields -/

def icondOf : Nat → Option ICond
  | 0 => some .eq | 1 => some .ne | 2 => some .lt | 3 => some .le | 4 => some .gt | 5 => some .ge | _ => none

def ICond.code : ICond → Nat
  | .eq => 0 | .ne => 1 | .lt => 2 | .le => 3 | .gt => 4 | .ge => 5

def fcondOf : Nat → Option FCond
  | 0 => some .eq | 1 => some .ne | 2 => some .lt | 3 => some .le | 4 => some .gt | 5 => some .ge
  | 6 => some .uo | 7 => some .ord | _ => none

def FCond.code : FCond → Nat
  | .eq => 0 | .ne => 1 | .lt => 2 | .le => 3 | .gt => 4 | .ge => 5 | .uo => 6 | .ord => 7

/-- RND of a prefix (R236). -/
def rndOf : Nat → Option (Option RoundMode)
  | 0 => some none | 1 => some (some .ne) | 2 => some (some .tz) | 3 => some (some .up) | 4 => some (some .dn)
  | _ => none

def rndCode : Option RoundMode → Nat
  | none => 0 | some .ne => 1 | some .tz => 2 | some .up => 3 | some .dn => 4

def numTypeOf : Nat → Option NumType
  | 0 => some .f32 | 1 => some .bf16 | 2 => some .f16 | 3 => some .e4m3 | 4 => some .e5m2 | 5 => some .e8m0
  | 6 => some .i8 | 7 => some .i16 | 8 => some .i32 | 9 => some .i64
  | 10 => some .n8 | 11 => some .n16 | 12 => some .n32 | 13 => some .n64 | _ => none

def NumType.code : NumType → Nat
  | .f32 => 0 | .bf16 => 1 | .f16 => 2 | .e4m3 => 3 | .e5m2 => 4 | .e8m0 => 5 | .i8 => 6 | .i16 => 7 | .i32 => 8
  | .i64 => 9 | .n8 => 10 | .n16 => 11 | .n32 => 12 | .n64 => 13

def memOrderOf : Nat → Option MemOrder
  | 0 => some .weak | 1 => some .rlx | 2 => some .acq | 3 => some .rel | 4 => some .ar | _ => none

def MemOrder.code : MemOrder → Nat
  | .weak => 0 | .rlx => 1 | .acq => 2 | .rel => 3 | .ar => 4

def scopeOf : Nat → Option Scope
  | 0 => some .grp | 1 => some .gang | 2 => some .clu | 3 => some .die | 4 => some .dev | 5 => some .job | _ => none

def Scope.code : Scope → Nat
  | .grp => 0 | .gang => 1 | .clu => 2 | .die => 3 | .dev => 4 | .job => 5

def matFormatOf : Nat → Option MatFormat
  | 0 => some .e4m3 | 1 => some .e5m2 | 2 => some .bf16 | 3 => some .f16 | _ => none

def MatFormat.code : MatFormat → Nat
  | .e4m3 => 0 | .e5m2 => 1 | .bf16 => 2 | .f16 => 3

def widenOf : Nat → Option Widen
  | 0 => some .none | 1 => some .e4m3 | 2 => some .e5m2 | 3 => some .bf16 | 4 => some .sgn | 5 => some .ter | _ => none

def Widen.code : Widen → Nat
  | .none => 0 | .e4m3 => 1 | .e5m2 => 2 | .bf16 => 3 | .sgn => 4 | .ter => 5

/-- Go on with the value of a code, or refuse the code as unassigned. -/
def withCode {α β : Type} (x : Option α) (k : α → Except IllForm β) : Except IllForm β :=
  match x with
  | some a => k a
  | none => .error .unassigned

/-! ## Scalar class (R240, R241) -/

/-- The second source from K and B; the bits of B that a kind does not use are 0 (R240). -/
def scalarSrcOf (w : Word) : Except IllForm ScalarSrc :=
  match fldN w 11 2 with
  | 0 => require (fldN w 0 5 == 0) .reservedField (.ok (.reg (fld w 5 6)))
  | 1 => .ok (.imm (fld w 0 11))
  | 2 => require (fldN w 4 7 == 0) .reservedField (.ok (.lit (fld w 0 4)))
  | _ => .error .unassigned

def ScalarSrc.bits : ScalarSrc → Nat
  | .reg r => place 5 r
  | .imm i => 2 ^ 11 + place 0 i
  | .lit i => 2 * 2 ^ 11 + place 0 i

def scalarBinary (mk : ScalarBinary → Instr) (w : Word) : Decoded :=
  (scalarSrcOf w).bind fun b => checked (mk { wide := flag w 25, d := fld w 19 6, a := fld w 13 6, b := b })

def encScalarBinary (op : Nat) (o : ScalarBinary) : List Word :=
  [mkWord (op * 2 ^ 26 + placeFlag 25 o.wide + place 19 o.d + place 13 o.a + o.b.bits)]

def scalarUnary (mk : ScalarUnary → Instr) (w : Word) : Decoded :=
  require (fldN w 0 13 == 0) .reservedField
    (checked (mk { wide := flag w 25, d := fld w 19 6, a := fld w 13 6 }))

def encScalarUnary (op : Nat) (o : ScalarUnary) : List Word :=
  [mkWord (op * 2 ^ 26 + placeFlag 25 o.wide + place 19 o.d + place 13 o.a)]

def scalarMove (mk : ScalarMove → Instr) (w : Word) : Decoded :=
  (scalarSrcOf w).bind fun b => require (fldN w 13 6 == 0) .reservedField
    (checked (mk { wide := flag w 25, d := fld w 19 6, b := b }))

def encScalarMove (op : Nat) (o : ScalarMove) : List Word :=
  [mkWord (op * 2 ^ 26 + placeFlag 25 o.wide + place 19 o.d + o.b.bits)]

def scalarCompare (mk : ScalarCompare → Instr) (w : Word) : Decoded :=
  (scalarSrcOf w).bind fun b => withCode (icondOf (fldN w 22 3)) fun c =>
    checked (mk { wide := flag w 25, cond := c, bit := fld w 19 3, a := fld w 13 6, b := b })

def encScalarCompare (op : Nat) (o : ScalarCompare) : List Word :=
  [mkWord (op * 2 ^ 26 + placeFlag 25 o.wide + o.cond.code * 2 ^ 22 + place 19 o.bit + place 13 o.a + o.b.bits)]

def scalarFromLane (mk : ScalarFromLane → Instr) (w : Word) : Decoded :=
  require (fldN w 0 7 == 0) .reservedField
    (checked (mk { wide := flag w 25, d := fld w 19 6, v := fld w 12 7, lane := fld w 7 5 }))

def encScalarFromLane (op : Nat) (o : ScalarFromLane) : List Word :=
  [mkWord (op * 2 ^ 26 + placeFlag 25 o.wide + place 19 o.d + place 12 o.v + place 7 o.lane)]

/-- R252, R269: W, K, B and A bits 5:3 are 0. -/
def scalarFromMask (mk : ScalarFromMask → Instr) (w : Word) : Decoded :=
  require (!flag w 25 && fldN w 0 13 == 0 && fldN w 16 3 == 0) .reservedField
    (checked (mk { d := fld w 19 6, k := fld w 13 3 }))

def encScalarFromMask (op : Nat) (o : ScalarFromMask) : List Word :=
  [mkWord (op * 2 ^ 26 + place 19 o.d + place 13 o.k)]

/-- R252, R269: W, A and D bits 5:3 are 0. -/
def scalarToMask (mk : ScalarToMask → Instr) (w : Word) : Decoded :=
  (scalarSrcOf w).bind fun b => require (!flag w 25 && fldN w 13 6 == 0 && fldN w 22 3 == 0) .reservedField
    (checked (mk { k := fld w 19 3, b := b }))

def encScalarToMask (op : Nat) (o : ScalarToMask) : List Word :=
  [mkWord (op * 2 ^ 26 + place 19 o.k + o.b.bits)]

def scalarSystem (mk : ScalarSystem → Instr) (w : Word) : Decoded :=
  require (fldN w 0 5 == 0 && fldN w 13 6 == 0) .reservedField
    (checked (mk { wide := flag w 25, r := fld w 19 6, num := fld w 5 8 }))

def encScalarSystem (op : Nat) (o : ScalarSystem) : List Word :=
  [mkWord (op * 2 ^ 26 + placeFlag 25 o.wide + place 19 o.r + place 5 o.num)]

/-! ## Vector class (R234 to R238) -/

/-- A prefix word as its fields stand (R236); `has` says that there is one. -/
structure Pfx where
  has : Bool
  ctl : VectorCtl
  op4 : BitVec 7
  pat : BitVec 2
  parm : BitVec 5
  s2k : BitVec 2

/-- What an instruction without a prefix reads. -/
def Pfx.absent : Pfx := { has := false, ctl := { mask := 0, zero := false, rnd := none }, op4 := 0, pat := 0, parm := 0, s2k := 0 }

/-- The opcode of the prefix. -/
def pfxOp : Nat := 0x7F

/-- R236, R237, R285: a reserved RND, a PARM without a PAT, S2K 0b11 or a reserved bit makes the word no prefix. -/
def pfxOf (w : Word) : Except IllForm Pfx :=
  withCode (rndOf (fldN w 18 3)) fun r =>
    require (fldN w 0 2 == 0 && (fldN w 9 2 != 0 || fldN w 4 5 == 0)) .reservedField
      (require (fldN w 2 2 != 3) .unassigned
        (.ok { has := true, ctl := { mask := fld w 22 3, zero := flag w 21, rnd := r }, op4 := fld w 11 7,
               pat := fld w 9 2, parm := fld w 4 5, s2k := fld w 2 2 }))

/-- The inline pattern of LPAT (R234). -/
def inlinePattern : Nat → Pattern
  | 0 => .none | 1 => .rev | 2 => .low | _ => .swap

/-- The second source of a word under its prefix (R237). -/
def vectorSrcOf (p : Pfx) (w : Word) : Except IllForm VectorSrc :=
  match p.s2k.toNat with
  | 0 =>
    match p.pat.toNat with
    | 0 => .ok (.vec (fld w 2 7) (inlinePattern (fldN w 0 2)))
    | 1 => require (fldN w 0 2 == 0) .reservedField (.ok (.vec (fld w 2 7) (.rot p.parm)))
    | 2 => require (fldN w 0 2 == 0) .reservedField (.ok (.vec (fld w 2 7) (.perm p.parm)))
    | _ => require (fldN w 0 2 == 0) .reservedField (.ok (.vec (fld w 2 7) (.lane p.parm)))
  | 1 => require (p.pat == 0#2 && fldN w 0 2 == 0 && fldN w 8 1 == 0) .reservedField (.ok (.scalar (fld w 2 6)))
  | 2 => require (p.pat == 0#2 && fldN w 0 2 == 0 && fldN w 6 3 == 0) .reservedField (.ok (.lit (fld w 2 4)))
  | _ => .error .unassigned

/-- An instruction without a second source uses neither SRC2, LPAT, PAT nor S2K (R234, R285). -/
def noSecond (p : Pfx) (w : Word) : Bool := fldN w 0 9 == 0 && p.pat == 0#2 && p.s2k == 0#2

/-- An instruction with fewer than three sources uses no OP4 (R237). -/
def noThird (p : Pfx) : Bool := p.op4 == 0#7

def Pattern.inlineCode : Pattern → Nat
  | .rev => 1 | .low => 2 | .swap => 3 | _ => 0

/-- The SRC2 and LPAT bits of a second source. -/
def VectorSrc.bits : VectorSrc → Nat
  | .vec v p => place 2 v + p.inlineCode
  | .scalar r => place 2 r
  | .lit i => place 2 i

/-- The PAT, PARM and S2K bits of a second source. -/
def VectorSrc.pfxBits : VectorSrc → Nat
  | .vec _ (.rot n) => 2 ^ 9 + place 4 n
  | .vec _ (.perm n) => 2 * 2 ^ 9 + place 4 n
  | .vec _ (.lane n) => 3 * 2 ^ 9 + place 4 n
  | .vec _ _ => 0
  | .scalar _ => 2 ^ 2
  | .lit _ => 2 * 2 ^ 2

/-- The MASK, ZERO and RND bits. -/
def VectorCtl.pfxBits (c : VectorCtl) : Nat := place 22 c.mask + placeFlag 21 c.zero + rndCode c.rnd * 2 ^ 18

/-- The prefix word of the given fields, if any of them is not 0, or one is needed for the third source. -/
def pfxWords (need : Bool) (fields : Nat) : List Word :=
  if need || fields != 0 then [mkWord (pfxOp * 2 ^ 25 + fields)] else []

def vectorUnary (mk : VectorUnary → Instr) (p : Pfx) (w : Word) : Decoded :=
  require (noSecond p w && noThird p) .reservedField
    (checked (mk { ctl := p.ctl, wid := fld w 23 2, d := fld w 16 7, a := fld w 9 7 }))

def encVectorUnary (op : Nat) (o : VectorUnary) : List Word :=
  pfxWords false o.ctl.pfxBits ++ [mkWord (op * 2 ^ 25 + place 23 o.wid + place 16 o.d + place 9 o.a)]

def vectorBinary (mk : VectorBinary → Instr) (p : Pfx) (w : Word) : Decoded :=
  (vectorSrcOf p w).bind fun b => require (noThird p) .reservedField
    (checked (mk { ctl := p.ctl, wid := fld w 23 2, d := fld w 16 7, a := fld w 9 7, b := b }))

def encVectorBinary (op : Nat) (o : VectorBinary) : List Word :=
  pfxWords false (o.ctl.pfxBits + o.b.pfxBits)
    ++ [mkWord (op * 2 ^ 25 + place 23 o.wid + place 16 o.d + place 9 o.a + o.b.bits)]

def vectorTernary (mk : VectorTernary → Instr) (p : Pfx) (w : Word) : Decoded :=
  (vectorSrcOf p w).bind fun b =>
    checked (mk { ctl := p.ctl, wid := fld w 23 2, d := fld w 16 7, a := fld w 9 7, b := b,
                  c := if p.has then p.op4 else fld w 16 7 })

def encVectorTernary (op : Nat) (o : VectorTernary) : List Word :=
  (if o.c == o.d && o.ctl.pfxBits + o.b.pfxBits == 0 then []
   else [mkWord (pfxOp * 2 ^ 25 + o.ctl.pfxBits + o.b.pfxBits + place 11 o.c)])
    ++ [mkWord (op * 2 ^ 25 + place 23 o.wid + place 16 o.d + place 9 o.a + o.b.bits)]

def vectorFCompare (mk : VectorFCompare → Instr) (p : Pfx) (w : Word) : Decoded :=
  (vectorSrcOf p w).bind fun b => withCode (fcondOf (fldN w 19 4)) fun c =>
    require (noThird p && fldN w 23 2 == 0) .reservedField
      (checked (mk { ctl := p.ctl, cond := c, m := fld w 16 3, a := fld w 9 7, b := b }))

def encVectorFCompare (op : Nat) (o : VectorFCompare) : List Word :=
  pfxWords false (o.ctl.pfxBits + o.b.pfxBits)
    ++ [mkWord (op * 2 ^ 25 + o.cond.code * 2 ^ 19 + place 16 o.m + place 9 o.a + o.b.bits)]

def vectorICompare (mk : VectorICompare → Instr) (p : Pfx) (w : Word) : Decoded :=
  (vectorSrcOf p w).bind fun b => withCode (icondOf (fldN w 19 4)) fun c =>
    require (noThird p && fldN w 23 2 == 0) .reservedField
      (checked (mk { ctl := p.ctl, cond := c, m := fld w 16 3, a := fld w 9 7, b := b }))

def encVectorICompare (op : Nat) (o : VectorICompare) : List Word :=
  pfxWords false (o.ctl.pfxBits + o.b.pfxBits)
    ++ [mkWord (op * 2 ^ 25 + o.cond.code * 2 ^ 19 + place 16 o.m + place 9 o.a + o.b.bits)]

/-- `cvt` holds its type codes in place of SRC2 (R253). -/
def vectorConvert (mk : VectorConvert → Instr) (p : Pfx) (w : Word) : Decoded :=
  withCode (numTypeOf (fldN w 5 4)) fun dt => withCode (numTypeOf (fldN w 1 4)) fun st =>
    require (fldN w 0 1 == 0 && noThird p && p.pat == 0#2 && p.s2k == 0#2) .reservedField
      (checked (mk { ctl := p.ctl, wid := fld w 23 2, d := fld w 16 7, a := fld w 9 7, dt := dt, st := st }))

def encVectorConvert (op : Nat) (o : VectorConvert) : List Word :=
  pfxWords false o.ctl.pfxBits
    ++ [mkWord (op * 2 ^ 25 + place 23 o.wid + place 16 o.d + place 9 o.a + o.dt.code * 2 ^ 5 + o.st.code * 2)]

def vectorMove (mk : VectorMove → Instr) (p : Pfx) (w : Word) : Decoded :=
  (vectorSrcOf p w).bind fun b => require (noThird p && fldN w 9 7 == 0) .reservedField
    (checked (mk { ctl := p.ctl, wid := fld w 23 2, d := fld w 16 7, b := b }))

def encVectorMove (op : Nat) (o : VectorMove) : List Word :=
  pfxWords false (o.ctl.pfxBits + o.b.pfxBits)
    ++ [mkWord (op * 2 ^ 25 + place 23 o.wid + place 16 o.d + o.b.bits)]

def vectorShuffle (mk : VectorShuffle → Instr) (p : Pfx) (w : Word) : Decoded :=
  (vectorSrcOf p w).bind fun b => require (noThird p && fldN w 23 2 == 0) .reservedField
    (checked (mk { ctl := p.ctl, d := fld w 16 7, a := fld w 9 7, b := b }))

def encVectorShuffle (op : Nat) (o : VectorShuffle) : List Word :=
  pfxWords false (o.ctl.pfxBits + o.b.pfxBits)
    ++ [mkWord (op * 2 ^ 25 + place 16 o.d + place 9 o.a + o.b.bits)]

def vectorVote (mk : VectorVote → Instr) (p : Pfx) (w : Word) : Decoded :=
  require (noSecond p w && noThird p && fldN w 19 6 == 0 && fldN w 12 4 == 0) .reservedField
    (checked (mk { ctl := p.ctl, m := fld w 16 3, k := fld w 9 3 }))

def encVectorVote (op : Nat) (o : VectorVote) : List Word :=
  pfxWords false o.ctl.pfxBits ++ [mkWord (op * 2 ^ 25 + place 16 o.m + place 9 o.k)]

def vectorCross (mk : VectorCross → Instr) (p : Pfx) (w : Word) : Decoded :=
  require (noSecond p w && noThird p && fldN w 23 2 == 0) .reservedField
    (checked (mk { ctl := p.ctl, d := fld w 16 7, a := fld w 9 7 }))

def encVectorCross (op : Nat) (o : VectorCross) : List Word :=
  pfxWords false o.ctl.pfxBits ++ [mkWord (op * 2 ^ 25 + place 16 o.d + place 9 o.a)]

/-- R295: WID is 0b01, SRC1 and LPAT are 0, SRC2 holds the number. -/
def vectorSystem (mk : VectorSystem → Instr) (p : Pfx) (w : Word) : Decoded :=
  require (noThird p && p.pat == 0#2 && p.s2k == 0#2 && fldN w 0 2 == 0 && fldN w 9 7 == 0) .reservedField
    (require (fldN w 23 2 == 1) .badWidth
      (checked (mk { ctl := p.ctl, d := fld w 16 7, num := fld w 2 7 })))

def encVectorSystem (op : Nat) (o : VectorSystem) : List Word :=
  pfxWords false o.ctl.pfxBits ++ [mkWord (op * 2 ^ 25 + 2 ^ 23 + place 16 o.d + place 2 o.num)]

/-! ## Memory class (R242, R254) -/

/-- BASE, the index and OFF; INDEX and SCALE are 0 when IX = 0. -/
def memAddrOf (w0 w1 : Word) : Except IllForm MemAddr :=
  if flag w0 0 then
    .ok { base := fld w0 10 6, idx := some { v := fld w0 3 7, scale := fld w0 1 2 }, off := fld w1 12 20 }
  else require (fldN w0 0 10 == 0) .reservedField (.ok { base := fld w0 10 6, idx := none, off := fld w1 12 20 })

def MemAddr.bits0 (a : MemAddr) : Nat :=
  place 10 a.base + (match a.idx with
    | some x => place 3 x.v + place 1 x.scale + 1
    | none => 0)

def MemAddr.bits1 (a : MemAddr) : Nat := place 12 a.off

/-- ORD and SCOPE. -/
def qualOf {α : Type} (w1 : Word) (k : MemOrder → Scope → Except IllForm α) : Except IllForm α :=
  withCode (memOrderOf (fldN w1 9 3)) fun o => withCode (scopeOf (fldN w1 6 3)) fun s => k o s

def qualBits (o : MemOrder) (s : Scope) : Nat := o.code * 2 ^ 9 + s.code * 2 ^ 6

/-- The remaining bits of word 1: RP, EF, KEY, NR and bit 0. `mask` gives the bits that the instruction uses. -/
def tailZero (w1 : Word) (rp ef key nr : Bool) : Bool :=
  (rp || !flag w1 5) && (ef || !flag w1 4) && (key || fldN w1 2 2 == 0) && (nr || !flag w1 1) && !flag w1 0

def memWord0 (op : Nat) (wid : BitVec 2) (data : BitVec 7) (rest : Nat) : Word :=
  mkWord (op * 2 ^ 25 + place 23 wid + place 16 data + rest)

def globalLoad (mk : GlobalLoad → Instr) (w0 w1 : Word) : Decoded :=
  (memAddrOf w0 w1).bind fun a => qualOf w1 fun o s => require (tailZero w1 true true false false) .reservedField
    (checked (mk { wid := fld w0 23 2, data := fld w0 16 7, addr := a, ord := o, scope := s, rp := flag w1 5, ef := flag w1 4 }))

def encGlobalLoad (op : Nat) (o : GlobalLoad) : List Word :=
  [memWord0 op o.wid o.data o.addr.bits0,
   mkWord (o.addr.bits1 + qualBits o.ord o.scope + placeFlag 5 o.rp + placeFlag 4 o.ef)]

def globalStore (mk : GlobalStore → Instr) (w0 w1 : Word) : Decoded :=
  (memAddrOf w0 w1).bind fun a => qualOf w1 fun o s => require (tailZero w1 false true false false) .reservedField
    (checked (mk { wid := fld w0 23 2, data := fld w0 16 7, addr := a, ord := o, scope := s, ef := flag w1 4 }))

def encGlobalStore (op : Nat) (o : GlobalStore) : List Word :=
  [memWord0 op o.wid o.data o.addr.bits0, mkWord (o.addr.bits1 + qualBits o.ord o.scope + placeFlag 4 o.ef)]

def scratchAccess (mk : ScratchAccess → Instr) (w0 w1 : Word) : Decoded :=
  (memAddrOf w0 w1).bind fun a => qualOf w1 fun o s => require (tailZero w1 false false false false) .reservedField
    (checked (mk { wid := fld w0 23 2, data := fld w0 16 7, addr := a, ord := o, scope := s }))

def encScratchAccess (op : Nat) (o : ScratchAccess) : List Word :=
  [memWord0 op o.wid o.data o.addr.bits0, mkWord (o.addr.bits1 + qualBits o.ord o.scope)]

/-- R309: no index, and nothing in word 1 but OFF. -/
def transposeLoad (mk : TransposeLoad → Instr) (w0 w1 : Word) : Decoded :=
  require (fldN w0 0 10 == 0 && fldN w1 0 12 == 0) .reservedField
    (checked (mk { wid := fld w0 23 2, data := fld w0 16 7, base := fld w0 10 6, off := fld w1 12 20 }))

def encTransposeLoad (op : Nat) (o : TransposeLoad) : List Word :=
  [memWord0 op o.wid o.data (place 10 o.base), mkWord (place 12 o.off)]

def snapshotLoad (mk : SnapshotLoad → Instr) (w0 w1 : Word) : Decoded :=
  (memAddrOf w0 w1).bind fun a => require (fldN w1 6 6 == 0 && tailZero w1 false false true false) .reservedField
    (checked (mk { wid := fld w0 23 2, data := fld w0 16 7, addr := a, key := fld w1 2 2 }))

def encSnapshotLoad (op : Nat) (o : SnapshotLoad) : List Word :=
  [memWord0 op o.wid o.data o.addr.bits0, mkWord (o.addr.bits1 + place 2 o.key)]

def atomicAccess (mk : AtomicAccess → Instr) (w0 w1 : Word) : Decoded :=
  (memAddrOf w0 w1).bind fun a => qualOf w1 fun o s => require (tailZero w1 true false false true) .reservedField
    (checked (mk { wid := fld w0 23 2, data := fld w0 16 7, addr := a, ord := o, scope := s, rp := flag w1 5, nr := flag w1 1 }))

def encAtomicAccess (op : Nat) (o : AtomicAccess) : List Word :=
  [memWord0 op o.wid o.data o.addr.bits0,
   mkWord (o.addr.bits1 + qualBits o.ord o.scope + placeFlag 5 o.rp + placeFlag 1 o.nr)]

def laneWait (mk : LaneWait → Instr) (w0 w1 : Word) : Decoded :=
  (memAddrOf w0 w1).bind fun a => require (fldN w1 0 12 == 0) .reservedField
    (checked (mk { wid := fld w0 23 2, data := fld w0 16 7, addr := a }))

def encLaneWait (op : Nat) (o : LaneWait) : List Word :=
  [memWord0 op o.wid o.data o.addr.bits0, mkWord o.addr.bits1]

def fenceOp (mk : FenceOp → Instr) (w0 w1 : Word) : Decoded :=
  qualOf w1 fun o s => require (fldN w0 0 25 == 0 && fldN w1 12 20 == 0 && fldN w1 0 6 == 0) .reservedField
    (checked (mk { ord := o, scope := s }))

def encFenceOp (op : Nat) (o : FenceOp) : List Word := [mkWord (op * 2 ^ 25), mkWord (qualBits o.ord o.scope)]

/-- R318: DATA bit 22, WID, INDEX and SCALE are 0, and so is BASE when IX = 0. -/
def snapshotOpen (mk : SnapshotOpen → Instr) (w0 w1 : Word) : Decoded :=
  require (fldN w0 22 3 == 0 && fldN w0 1 9 == 0 && (flag w0 0 || fldN w0 10 6 == 0)
      && fldN w1 4 28 == 0 && fldN w1 0 2 == 0) .reservedField
    (checked (mk { key := fld w1 2 2, status := fld w0 16 6, expl := if flag w0 0 then some (fld w0 10 6) else none }))

def encSnapshotOpen (op : Nat) (o : SnapshotOpen) : List Word :=
  [mkWord (op * 2 ^ 25 + place 16 o.status + (match o.expl with | some p => place 10 p + 1 | none => 0)),
   mkWord (place 2 o.key)]

def keyOp (mk : KeyOp → Instr) (w0 w1 : Word) : Decoded :=
  require (fldN w0 0 25 == 0 && fldN w1 4 28 == 0 && fldN w1 0 2 == 0) .reservedField (checked (mk { key := fld w1 2 2 }))

def encKeyOp (op : Nat) (o : KeyOp) : List Word := [mkWord (op * 2 ^ 25), mkWord (place 2 o.key)]

def bareMemory (i : Instr) (w0 w1 : Word) : Decoded :=
  require (fldN w0 0 25 == 0 && w1 == 0#32) .reservedField (checked i)

/-- R323: OFF bits 2:0 hold the ways. -/
def keepOp (mk : KeepOp → Instr) (w0 w1 : Word) : Decoded :=
  require (fldN w0 22 3 == 0 && fldN w0 0 10 == 0 && fldN w1 15 17 == 0 && fldN w1 0 12 == 0) .reservedField
    (checked (mk { base := fld w0 10 6, d := fld w0 16 6, ways := fld w1 12 3 }))

def encKeepOp (op : Nat) (o : KeepOp) : List Word :=
  [mkWord (op * 2 ^ 25 + place 16 o.d + place 10 o.base), mkWord (place 12 o.ways)]

def unkeepOp (mk : UnkeepOp → Instr) (w0 w1 : Word) : Decoded :=
  require (fldN w0 22 3 == 0 && fldN w0 0 16 == 0 && w1 == 0#32) .reservedField (checked (mk { d := fld w0 16 6 }))

def encUnkeepOp (op : Nat) (o : UnkeepOp) : List Word := [mkWord (op * 2 ^ 25 + place 16 o.d), 0#32]

def prefetchOp (mk : PrefetchOp → Instr) (w0 w1 : Word) : Decoded :=
  (memAddrOf w0 w1).bind fun a =>
    require (fldN w0 16 9 == 0 && fldN w1 5 7 == 0 && fldN w1 0 4 == 0) .reservedField
      (checked (mk { addr := a, ef := flag w1 4 }))

def encPrefetchOp (op : Nat) (o : PrefetchOp) : List Word :=
  [mkWord (op * 2 ^ 25 + o.addr.bits0), mkWord (o.addr.bits1 + placeFlag 4 o.ef)]

/-! ## Control, matrix, copy and fabric classes (R244 to R246), and hinge words (R370) -/

def bare (i : Instr) (lo n : Nat) (w : Word) : Decoded := require (fldN w lo n == 0) .reservedField (checked i)

def stationaryLoad (mk : StationaryLoad → Instr) (w : Word) : Decoded :=
  withCode (matFormatOf (fldN w 14 3)) fun f => require (fldN w 20 6 == 0) .reservedField
    (checked (mk { p := fld w 17 3, f := f, s := fld w 8 6, x := fld w 0 8 }))

def encStationaryLoad (op : Nat) (o : StationaryLoad) : List Word :=
  [mkWord (op * 2 ^ 26 + place 17 o.p + o.f.code * 2 ^ 14 + place 8 o.s + place 0 o.x)]

def matrixMultiply (mk : MatrixMultiply → Instr) (w : Word) : Decoded :=
  withCode (matFormatOf (fldN w 14 3)) fun f => require (fldN w 0 8 == 0) .reservedField
    (checked (mk { t := fld w 20 6, p := fld w 17 3, f := f, s := fld w 8 6 }))

def encMatrixMultiply (op : Nat) (o : MatrixMultiply) : List Word :=
  [mkWord (op * 2 ^ 26 + place 20 o.t + place 17 o.p + o.f.code * 2 ^ 14 + place 8 o.s)]

def matrixDrain (mk : MatrixDrain → Instr) (w : Word) : Decoded :=
  withCode (matFormatOf (fldN w 14 3)) fun f => require (fldN w 0 8 == 0 && fldN w 17 3 == 0) .reservedField
    (checked (mk { t := fld w 20 6, f := f, s := fld w 8 6 }))

def encMatrixDrain (op : Nat) (o : MatrixDrain) : List Word :=
  [mkWord (op * 2 ^ 26 + place 20 o.t + o.f.code * 2 ^ 14 + place 8 o.s)]

def matrixRow (mk : MatrixRow → Instr) (w : Word) : Decoded :=
  require (fldN w 0 7 == 0) .reservedField
    (checked (mk { t := fld w 20 6, v := fld w 13 7, q := fld w 11 2, cb := fld w 7 4 }))

def encMatrixRow (op : Nat) (o : MatrixRow) : List Word :=
  [mkWord (op * 2 ^ 26 + place 20 o.t + place 13 o.v + place 11 o.q + place 7 o.cb)]

def copyOp (mk : CopyOp → Instr) (w : Word) : Decoded :=
  withCode (widenOf (fldN w 0 3)) fun q => require (fldN w 3 4 == 0) .reservedField
    (checked (mk { d := fld w 19 6, s := fld w 13 6, g := fld w 7 6, q := q }))

def encCopyOp (op : Nat) (o : CopyOp) : List Word :=
  [mkWord (op * 2 ^ 25 + place 19 o.d + place 13 o.s + place 7 o.g + o.q.code)]

def ringPush (mk : RingPush → Instr) (w : Word) : Decoded :=
  withCode (widenOf (fldN w 0 3)) fun q => require (fldN w 19 6 == 0) .reservedField
    (checked (mk { s := fld w 13 6, g := fld w 7 6, n := fld w 3 4, q := q }))

def encRingPush (op : Nat) (o : RingPush) : List Word :=
  [mkWord (op * 2 ^ 25 + place 13 o.s + place 7 o.g + place 3 o.n + o.q.code)]

/-- A ring instruction whose register stands in D (`rresv`, `rpop`). -/
def ringSlotD (mk : RingSlot → Instr) (w : Word) : Decoded :=
  require (fldN w 0 3 == 0 && fldN w 7 12 == 0) .reservedField (checked (mk { r := fld w 19 6, n := fld w 3 4 }))

def encRingSlotD (op : Nat) (o : RingSlot) : List Word := [mkWord (op * 2 ^ 25 + place 19 o.r + place 3 o.n)]

/-- A ring instruction whose register stands in S (`rdone`, `rrel`). -/
def ringSlotS (mk : RingSlot → Instr) (w : Word) : Decoded :=
  require (fldN w 0 3 == 0 && fldN w 7 6 == 0 && fldN w 19 6 == 0) .reservedField
    (checked (mk { r := fld w 13 6, n := fld w 3 4 }))

def encRingSlotS (op : Nat) (o : RingSlot) : List Word := [mkWord (op * 2 ^ 25 + place 13 o.r + place 3 o.n)]

def fabricOp (mk : FabricOp → Instr) (w : Word) : Decoded :=
  require (fldN w 0 7 == 0) .reservedField (checked (mk { d := fld w 19 6, s := fld w 13 6, g := fld w 7 6 }))

def encFabricOp (op : Nat) (o : FabricOp) : List Word :=
  [mkWord (op * 2 ^ 25 + place 19 o.d + place 13 o.s + place 7 o.g)]

/-- The scalar words by opcode. -/
def decodeScalarWord (w : Word) : Decoded :=
  match fldN w 26 6 with
  | 0x00 => scalarBinary .sadd w
  | 0x01 => scalarBinary .ssub w
  | 0x02 => scalarBinary .smul w
  | 0x03 => scalarBinary .smulhiI w
  | 0x04 => scalarBinary .smulhiN w
  | 0x05 => scalarBinary .sand w
  | 0x06 => scalarBinary .sor w
  | 0x07 => scalarBinary .sxor w
  | 0x08 => scalarUnary .snot w
  | 0x09 => scalarBinary .sshl w
  | 0x0A => scalarBinary .sshrN w
  | 0x0B => scalarBinary .sshrI w
  | 0x0C => scalarBinary .sminI w
  | 0x0D => scalarBinary .sminN w
  | 0x0E => scalarBinary .smaxI w
  | 0x0F => scalarBinary .smaxN w
  | 0x10 => scalarBinary .sbfxN w
  | 0x11 => scalarBinary .sbfxI w
  | 0x12 => scalarBinary .sbfi w
  | 0x13 => scalarUnary .spopc w
  | 0x14 => scalarUnary .sclz w
  | 0x15 => scalarUnary .sffs w
  | 0x16 => scalarMove .smov w
  | 0x17 => scalarCompare .scmpI w
  | 0x18 => scalarCompare .scmpN w
  | 0x19 => scalarBinary .slea w
  | 0x1A => scalarFromLane .sfromv w
  | 0x1B => scalarFromMask .sfromk w
  | 0x1C => scalarToMask .stok w
  | 0x1D => scalarSystem .ssysrd w
  | 0x1E => scalarSystem .ssyswr w
  | _ => .error .unassigned

/-- The vector words by opcode. -/
def decodeVectorWord (p : Pfx) (w : Word) : Decoded :=
  match fldN w 25 7 with
  | 0x00 => vectorBinary .faddF32 p w
  | 0x01 => vectorBinary .faddBf16 p w
  | 0x02 => vectorBinary .faddF16 p w
  | 0x03 => vectorBinary .fsubF32 p w
  | 0x04 => vectorBinary .fsubBf16 p w
  | 0x05 => vectorBinary .fsubF16 p w
  | 0x06 => vectorBinary .fmulF32 p w
  | 0x07 => vectorBinary .fmulBf16 p w
  | 0x08 => vectorBinary .fmulF16 p w
  | 0x09 => vectorTernary .ffmaF32 p w
  | 0x0A => vectorTernary .ffmaBf16 p w
  | 0x0B => vectorTernary .ffmaF16 p w
  | 0x0C => vectorBinary .fminF32 p w
  | 0x0D => vectorBinary .fminBf16 p w
  | 0x0E => vectorBinary .fminF16 p w
  | 0x0F => vectorBinary .fmaxF32 p w
  | 0x10 => vectorBinary .fmaxBf16 p w
  | 0x11 => vectorBinary .fmaxF16 p w
  | 0x12 => vectorBinary .fdiv p w
  | 0x13 => vectorUnary .frcp p w
  | 0x14 => vectorUnary .frsq p w
  | 0x15 => vectorUnary .fsqrt p w
  | 0x16 => vectorUnary .fexp2 p w
  | 0x17 => vectorUnary .flog2 p w
  | 0x18 => vectorUnary .fsin p w
  | 0x19 => vectorUnary .fcos p w
  | 0x1A => vectorFCompare .fcmpF32 p w
  | 0x1B => vectorFCompare .fcmpBf16 p w
  | 0x1C => vectorFCompare .fcmpF16 p w
  | 0x1D => vectorUnary .fclassF32 p w
  | 0x1E => vectorUnary .fclassBf16 p w
  | 0x1F => vectorUnary .fclassF16 p w
  | 0x20 => vectorConvert .cvt p w
  | 0x21 => vectorBinary .iaddB32 p w
  | 0x22 => vectorBinary .iaddB64 p w
  | 0x23 => vectorBinary .isubB32 p w
  | 0x24 => vectorBinary .isubB64 p w
  | 0x25 => vectorBinary .imulB32 p w
  | 0x26 => vectorBinary .imulhiI32 p w
  | 0x27 => vectorBinary .imulhiN32 p w
  | 0x28 => vectorTernary .imadB32 p w
  | 0x29 => vectorBinary .iaddsI32 p w
  | 0x2A => vectorBinary .iaddsN32 p w
  | 0x2B => vectorBinary .isubsI32 p w
  | 0x2C => vectorBinary .isubsN32 p w
  | 0x2D => vectorBinary .iminI32 p w
  | 0x2E => vectorBinary .iminN32 p w
  | 0x2F => vectorBinary .imaxI32 p w
  | 0x30 => vectorBinary .imaxN32 p w
  | 0x31 => vectorBinary .andB32 p w
  | 0x32 => vectorBinary .orB32 p w
  | 0x33 => vectorBinary .xorB32 p w
  | 0x34 => vectorUnary .notB32 p w
  | 0x35 => vectorBinary .shlB32 p w
  | 0x36 => vectorBinary .shrN32 p w
  | 0x37 => vectorBinary .shrI32 p w
  | 0x38 => vectorICompare .icmpI32 p w
  | 0x39 => vectorICompare .icmpN32 p w
  | 0x3A => vectorICompare .icmpI64 p w
  | 0x3B => vectorICompare .icmpN64 p w
  | 0x3C => vectorUnary .popcB32 p w
  | 0x3D => vectorUnary .clzB32 p w
  | 0x3E => vectorUnary .brevB32 p w
  | 0x3F => vectorMove .movB32 p w
  | 0x40 => vectorShuffle .shflB32 p w
  | 0x41 => vectorVote .vany p w
  | 0x42 => vectorVote .vall p w
  | 0x43 => vectorCross .ballotB32 p w
  | 0x44 => vectorCross .redaddI32 p w
  | 0x45 => vectorCross .redaddF32 p w
  | 0x46 => vectorCross .redminI32 p w
  | 0x47 => vectorCross .redminN32 p w
  | 0x48 => vectorCross .redminF32 p w
  | 0x49 => vectorCross .redmaxI32 p w
  | 0x4A => vectorCross .redmaxN32 p w
  | 0x4B => vectorCross .redmaxF32 p w
  | 0x4C => vectorCross .redandB32 p w
  | 0x4D => vectorCross .redorB32 p w
  | 0x4E => vectorCross .redxorB32 p w
  | 0x4F => vectorCross .scanaddI32 p w
  | 0x50 => vectorCross .scanaddF32 p w
  | 0x51 => vectorCross .xscanaddI32 p w
  | 0x52 => vectorCross .xscanaddF32 p w
  | 0x53 => vectorCross .scanmaxF32 p w
  | 0x54 => vectorCross .scanminF32 p w
  | 0x55 => vectorSystem .vsysrd p w
  | _ => .error .unassigned

/-- The memory words by opcode. -/
def decodeMemoryWords (w0 w1 : Word) : Decoded :=
  match fldN w0 25 7 with
  | 0x00 => globalLoad .ldgB8 w0 w1
  | 0x01 => globalLoad .ldgI8 w0 w1
  | 0x02 => globalLoad .ldgB16 w0 w1
  | 0x03 => globalLoad .ldgI16 w0 w1
  | 0x04 => globalLoad .ldgB32 w0 w1
  | 0x05 => globalLoad .ldgB64 w0 w1
  | 0x06 => globalStore .stgB8 w0 w1
  | 0x07 => globalStore .stgB16 w0 w1
  | 0x08 => globalStore .stgB32 w0 w1
  | 0x09 => globalStore .stgB64 w0 w1
  | 0x0A => scratchAccess .ldsB8 w0 w1
  | 0x0B => scratchAccess .ldsI8 w0 w1
  | 0x0C => scratchAccess .ldsB16 w0 w1
  | 0x0D => scratchAccess .ldsI16 w0 w1
  | 0x0E => scratchAccess .ldsB32 w0 w1
  | 0x0F => scratchAccess .ldsB64 w0 w1
  | 0x10 => scratchAccess .stsB8 w0 w1
  | 0x11 => scratchAccess .stsB16 w0 w1
  | 0x12 => scratchAccess .stsB32 w0 w1
  | 0x13 => scratchAccess .stsB64 w0 w1
  | 0x14 => transposeLoad .ldtB8 w0 w1
  | 0x15 => transposeLoad .ldtB16 w0 w1
  | 0x16 => transposeLoad .ldtB32 w0 w1
  | 0x17 => snapshotLoad .ldzB32 w0 w1
  | 0x18 => snapshotLoad .ldzB64 w0 w1
  | 0x20 => atomicAccess .atomAddB32 w0 w1
  | 0x21 => atomicAccess .atomMinI32 w0 w1
  | 0x22 => atomicAccess .atomMinN32 w0 w1
  | 0x23 => atomicAccess .atomMaxI32 w0 w1
  | 0x24 => atomicAccess .atomMaxN32 w0 w1
  | 0x25 => atomicAccess .atomAndB32 w0 w1
  | 0x26 => atomicAccess .atomOrB32 w0 w1
  | 0x27 => atomicAccess .atomXorB32 w0 w1
  | 0x28 => atomicAccess .atomExchB32 w0 w1
  | 0x29 => atomicAccess .atomCasB32 w0 w1
  | 0x2A => atomicAccess .atomFaddF32 w0 w1
  | 0x2B => atomicAccess .atomIncwN32 w0 w1
  | 0x2C => atomicAccess .atomBfaddN32 w0 w1
  | 0x30 => atomicAccess .atomAddB64 w0 w1
  | 0x31 => atomicAccess .atomMinI64 w0 w1
  | 0x32 => atomicAccess .atomMinN64 w0 w1
  | 0x33 => atomicAccess .atomMaxI64 w0 w1
  | 0x34 => atomicAccess .atomMaxN64 w0 w1
  | 0x35 => atomicAccess .atomAndB64 w0 w1
  | 0x36 => atomicAccess .atomOrB64 w0 w1
  | 0x37 => atomicAccess .atomXorB64 w0 w1
  | 0x38 => atomicAccess .atomExchB64 w0 w1
  | 0x39 => atomicAccess .atomCasB64 w0 w1
  | 0x3B => atomicAccess .atomIncwN64 w0 w1
  | 0x3C => atomicAccess .atomBfaddN64 w0 w1
  | 0x40 => laneWait .wardw w0 w1
  | 0x41 => fenceOp .fence w0 w1
  | 0x42 => snapshotOpen .snapo w0 w1
  | 0x43 => keyOp .snapc w0 w1
  | 0x44 => keyOp .txb w0 w1
  | 0x45 => bareMemory .txc w0 w1
  | 0x46 => bareMemory .txa w0 w1
  | 0x47 => keepOp .keep w0 w1
  | 0x48 => unkeepOp .unkeep w0 w1
  | 0x49 => prefetchOp .pf w0 w1
  | 0x4A => laneWait .harr w0 w1
  | 0x4B => laneWait .hwait w0 w1
  | _ => .error .unassigned

/-- The control words by opcode. -/
def decodeControlWord (w : Word) : Decoded :=
  match fldN w 26 6 with
  | 0x00 => require (fldN w 20 6 == 0) .reservedField (checked (.bra (fld w 0 20)))
  | 0x01 => require (fldN w 24 2 == 0) .reservedField (checked (.brc (flag w 23) (fld w 20 3) (fld w 0 20)))
  | 0x02 => require (fldN w 24 2 == 0) .reservedField (checked (.brd (flag w 23) (fld w 20 3) (fld w 0 20)))
  | 0x03 => require (fldN w 0 20 == 0) .reservedField (checked (.brx (fld w 20 6)))
  | 0x04 => checked (.call (fld w 20 6) (fld w 0 20))
  | 0x05 => require (fldN w 0 20 == 0) .reservedField (checked (.ret (fld w 20 6)))
  | 0x06 => require (fldN w 0 20 == 0 && fldN w 23 3 == 0) .reservedField (checked (.join (fld w 20 3)))
  | 0x07 => require (fldN w 0 20 == 0 && fldN w 23 3 == 0) .reservedField (checked (.jwait (fld w 20 3)))
  | 0x08 => require (fldN w 0 26 == 0) .reservedField (checked .exit)
  | 0x09 => require (fldN w 0 26 == 0) .reservedField (checked .yield)
  | 0x0A => require (fldN w 0 26 == 0) .reservedField (checked .serb)
  | 0x0B => require (fldN w 0 26 == 0) .reservedField (checked .sere)
  | 0x0C => require (fldN w 0 20 == 0) .reservedField (checked (.bar (fld w 20 6)))
  | 0x0D => require (fldN w 16 10 == 0) .reservedField (checked (.trap (fld w 0 16)))
  | 0x0E => require (fldN w 16 10 == 0) .reservedField (checked (.brk (fld w 0 16)))
  | 0x0F => require (fldN w 12 14 == 0) .reservedField (checked (.cwait (fld w 9 3) (fld w 6 3) (fld w 3 3) (fld w 0 3)))
  | 0x10 => require (fldN w 0 20 == 0) .reservedField (checked (.launch (fld w 20 6)))
  | 0x11 => require (fldN w 0 26 == 0) .reservedField (checked .halt)
  | 0x12 => require (fldN w 0 26 == 0) .reservedField (checked .nop)
  | _ => .error .unassigned

/-- The matrix words by opcode. -/
def decodeMatrixWord (w : Word) : Decoded :=
  match fldN w 26 6 with
  | 0x00 => stationaryLoad .mld w
  | 0x01 => matrixMultiply .mma w
  | 0x02 => matrixMultiply .mmar w
  | 0x03 => require (fldN w 0 20 == 0) .reservedField (checked (.mzero (fld w 20 6)))
  | 0x04 => matrixDrain .mdrain w
  | 0x05 => matrixRow .mrowrd w
  | 0x06 => matrixRow .mrowwr w
  | _ => .error .unassigned

/-- The copy words by opcode. -/
def decodeCopyWord (w : Word) : Decoded :=
  match fldN w 25 7 with
  | 0x00 => copyOp .cpyin1 w
  | 0x01 => copyOp .cpyin2 w
  | 0x02 => copyOp .cpyin3 w
  | 0x03 => copyOp .cpyout1 w
  | 0x04 => copyOp .cpyout2 w
  | 0x05 => copyOp .cpyout3 w
  | 0x06 => copyOp .cpyg w
  | 0x07 => copyOp .cpys w
  | 0x08 => ringPush .rpush w
  | 0x09 => ringSlotD .rresv w
  | 0x0A => ringSlotS .rdone w
  | 0x0B => ringSlotD .rpop w
  | 0x0C => ringSlotS .rrel w
  | 0x0D => fabricOp .mcast w
  | 0x10 => fabricOp .put w
  | 0x11 => fabricOp .putsig w
  | 0x12 => fabricOp .get w
  | 0x13 => fabricOp .raddF32 w
  | 0x14 => fabricOp .rmaxF32 w
  | 0x15 => fabricOp .rsmx w
  | 0x16 => require (fldN w 0 19 == 0) .reservedField (checked (.winq (fld w 19 6)))
  | 0x17 => require (fldN w 0 25 == 0) .reservedField (checked .jfence)
  | _ => .error .unassigned

/-- The fields of a hinge word (R370). -/
def hingeFieldsOf (w : Word) : HingeFields := { a := fld w 22 4, b := fld w 18 4, c := fld w 14 4, imm := fld w 0 14 }

/-- The opcode of a hinge word; bit 0 of IMM is W in `bld` and `bst` (R371). -/
def hingeOpcode (w : Word) : Option Instr :=
  match fldN w 26 6 with
  | 0x00 => some .hingeStop
  | 0x01 => some .hingeBr
  | 0x02 => some .hingeBnz
  | 0x03 => some .hingeLoop
  | 0x04 => some .hingeMovi
  | 0x05 => some .hingeAdd
  | 0x06 => some .hingeAddi
  | 0x07 => some .hingeMuli
  | 0x08 => some .hingeShli
  | 0x09 => some .hingeLd
  | 0x0A => some .hingeAwait
  | 0x0B => some .hingeArrive
  | 0x0C => some .hingePut
  | 0x0D => some .hingePutsig
  | 0x0E => some .hingeGet
  | 0x0F => some .hingeRadd
  | 0x10 => some (if flag w 0 then .hingeBldW else .hingeBld)
  | 0x11 => some (if flag w 0 then .hingeBstW else .hingeBst)
  | 0x12 => some .hingeDec
  | 0x13 => some .hingeFadd
  | 0x14 => some .hingeCmpr
  | 0x15 => some .hingeLen
  | 0x16 => some .hingeEmax
  | 0x17 => some .hingeImax
  | 0x18 => some .hingeAlign
  | 0x19 => some .hingeIadd
  | 0x1A => some .hingeCvtb
  | 0x1B => some .hingeCsa
  | 0x1C => some .hingeCsc
  | 0x1D => some .hingeCsg
  | 0x1E => some .hingeCsr
  | 0x1F => some .hingeCkpt
  | 0x20 => some .hingeSel
  | 0x21 => some .hingeNop
  | _ => none

/-- A hinge word: its instruction, or the reason why it is illegal (R371). -/
def decodeHingeWord (w : Word) : Decoded :=
  withCode (hingeOpcode w) fun i =>
    match i.hingeCheck (hingeFieldsOf w) with
    | none => .ok i
    | some e => .error e

/-- The number of a hinge opcode. -/
def hingeCode : Instr → Option Nat
  | .hingeStop => some 0x00
  | .hingeBr => some 0x01
  | .hingeBnz => some 0x02
  | .hingeLoop => some 0x03
  | .hingeMovi => some 0x04
  | .hingeAdd => some 0x05
  | .hingeAddi => some 0x06
  | .hingeMuli => some 0x07
  | .hingeShli => some 0x08
  | .hingeLd => some 0x09
  | .hingeAwait => some 0x0A
  | .hingeArrive => some 0x0B
  | .hingePut => some 0x0C
  | .hingePutsig => some 0x0D
  | .hingeGet => some 0x0E
  | .hingeRadd => some 0x0F
  | .hingeBld => some 0x10
  | .hingeBldW => some 0x10
  | .hingeBst => some 0x11
  | .hingeBstW => some 0x11
  | .hingeDec => some 0x12
  | .hingeFadd => some 0x13
  | .hingeCmpr => some 0x14
  | .hingeLen => some 0x15
  | .hingeEmax => some 0x16
  | .hingeImax => some 0x17
  | .hingeAlign => some 0x18
  | .hingeIadd => some 0x19
  | .hingeCvtb => some 0x1A
  | .hingeCsa => some 0x1B
  | .hingeCsc => some 0x1C
  | .hingeCsg => some 0x1D
  | .hingeCsr => some 0x1E
  | .hingeCkpt => some 0x1F
  | .hingeSel => some 0x20
  | .hingeNop => some 0x21
  | _ => none

/-- The word of a hinge instruction with its fields. -/
def encodeHinge (i : Instr) (f : HingeFields) : Option Word :=
  (hingeCode i).map fun n => mkWord (n * 2 ^ 26 + place 22 f.a + place 18 f.b + place 14 f.c + place 0 f.imm)

/-- The instruction at the head of the words that remain of a clause of a class, and how many of them it takes. -/
def decode (c : EngineClass) (ws : List Word) : Except IllForm (Instr × Nat) :=
  match c, ws with
  | _, [] => .error .missingWord
  | .scalar, w :: _ => (decodeScalarWord w).map (·, 1)
  | .vector, w :: rest =>
    if fldN w 25 7 == pfxOp then
      match rest with
      | [] => .error .missingWord
      | w2 :: _ =>
        require (fldN w2 25 7 != pfxOp) .doublePrefix
          ((pfxOf w).bind fun p => (decodeVectorWord p w2).map (·, 2))
    else (decodeVectorWord Pfx.absent w).map (·, 1)
  | .memory, w0 :: rest =>
    match rest with
    | [] => .error .missingWord
    | w1 :: _ => (decodeMemoryWords w0 w1).map (·, 2)
  | .control, w :: _ => (decodeControlWord w).map (·, 1)
  | .matrix, w :: _ => (decodeMatrixWord w).map (·, 1)
  | .copy, w :: _ => (decodeCopyWord w).map (·, 1)
  | .hinge, w :: _ => (decodeHingeWord w).map (·, 1)

/-- The words of an instruction of a clause. An event has none, and the word of a hinge instruction is that of `encodeHinge`. -/
def encode : Instr → List Word
  | .sadd o => encScalarBinary 0x00 o
  | .ssub o => encScalarBinary 0x01 o
  | .smul o => encScalarBinary 0x02 o
  | .smulhiI o => encScalarBinary 0x03 o
  | .smulhiN o => encScalarBinary 0x04 o
  | .sand o => encScalarBinary 0x05 o
  | .sor o => encScalarBinary 0x06 o
  | .sxor o => encScalarBinary 0x07 o
  | .snot o => encScalarUnary 0x08 o
  | .sshl o => encScalarBinary 0x09 o
  | .sshrN o => encScalarBinary 0x0A o
  | .sshrI o => encScalarBinary 0x0B o
  | .sminI o => encScalarBinary 0x0C o
  | .sminN o => encScalarBinary 0x0D o
  | .smaxI o => encScalarBinary 0x0E o
  | .smaxN o => encScalarBinary 0x0F o
  | .sbfxN o => encScalarBinary 0x10 o
  | .sbfxI o => encScalarBinary 0x11 o
  | .sbfi o => encScalarBinary 0x12 o
  | .spopc o => encScalarUnary 0x13 o
  | .sclz o => encScalarUnary 0x14 o
  | .sffs o => encScalarUnary 0x15 o
  | .smov o => encScalarMove 0x16 o
  | .scmpI o => encScalarCompare 0x17 o
  | .scmpN o => encScalarCompare 0x18 o
  | .slea o => encScalarBinary 0x19 o
  | .sfromv o => encScalarFromLane 0x1A o
  | .sfromk o => encScalarFromMask 0x1B o
  | .stok o => encScalarToMask 0x1C o
  | .ssysrd o => encScalarSystem 0x1D o
  | .ssyswr o => encScalarSystem 0x1E o
  | .faddF32 o => encVectorBinary 0x00 o
  | .faddBf16 o => encVectorBinary 0x01 o
  | .faddF16 o => encVectorBinary 0x02 o
  | .fsubF32 o => encVectorBinary 0x03 o
  | .fsubBf16 o => encVectorBinary 0x04 o
  | .fsubF16 o => encVectorBinary 0x05 o
  | .fmulF32 o => encVectorBinary 0x06 o
  | .fmulBf16 o => encVectorBinary 0x07 o
  | .fmulF16 o => encVectorBinary 0x08 o
  | .ffmaF32 o => encVectorTernary 0x09 o
  | .ffmaBf16 o => encVectorTernary 0x0A o
  | .ffmaF16 o => encVectorTernary 0x0B o
  | .fminF32 o => encVectorBinary 0x0C o
  | .fminBf16 o => encVectorBinary 0x0D o
  | .fminF16 o => encVectorBinary 0x0E o
  | .fmaxF32 o => encVectorBinary 0x0F o
  | .fmaxBf16 o => encVectorBinary 0x10 o
  | .fmaxF16 o => encVectorBinary 0x11 o
  | .fdiv o => encVectorBinary 0x12 o
  | .frcp o => encVectorUnary 0x13 o
  | .frsq o => encVectorUnary 0x14 o
  | .fsqrt o => encVectorUnary 0x15 o
  | .fexp2 o => encVectorUnary 0x16 o
  | .flog2 o => encVectorUnary 0x17 o
  | .fsin o => encVectorUnary 0x18 o
  | .fcos o => encVectorUnary 0x19 o
  | .fcmpF32 o => encVectorFCompare 0x1A o
  | .fcmpBf16 o => encVectorFCompare 0x1B o
  | .fcmpF16 o => encVectorFCompare 0x1C o
  | .fclassF32 o => encVectorUnary 0x1D o
  | .fclassBf16 o => encVectorUnary 0x1E o
  | .fclassF16 o => encVectorUnary 0x1F o
  | .cvt o => encVectorConvert 0x20 o
  | .iaddB32 o => encVectorBinary 0x21 o
  | .iaddB64 o => encVectorBinary 0x22 o
  | .isubB32 o => encVectorBinary 0x23 o
  | .isubB64 o => encVectorBinary 0x24 o
  | .imulB32 o => encVectorBinary 0x25 o
  | .imulhiI32 o => encVectorBinary 0x26 o
  | .imulhiN32 o => encVectorBinary 0x27 o
  | .imadB32 o => encVectorTernary 0x28 o
  | .iaddsI32 o => encVectorBinary 0x29 o
  | .iaddsN32 o => encVectorBinary 0x2A o
  | .isubsI32 o => encVectorBinary 0x2B o
  | .isubsN32 o => encVectorBinary 0x2C o
  | .iminI32 o => encVectorBinary 0x2D o
  | .iminN32 o => encVectorBinary 0x2E o
  | .imaxI32 o => encVectorBinary 0x2F o
  | .imaxN32 o => encVectorBinary 0x30 o
  | .andB32 o => encVectorBinary 0x31 o
  | .orB32 o => encVectorBinary 0x32 o
  | .xorB32 o => encVectorBinary 0x33 o
  | .notB32 o => encVectorUnary 0x34 o
  | .shlB32 o => encVectorBinary 0x35 o
  | .shrN32 o => encVectorBinary 0x36 o
  | .shrI32 o => encVectorBinary 0x37 o
  | .icmpI32 o => encVectorICompare 0x38 o
  | .icmpN32 o => encVectorICompare 0x39 o
  | .icmpI64 o => encVectorICompare 0x3A o
  | .icmpN64 o => encVectorICompare 0x3B o
  | .popcB32 o => encVectorUnary 0x3C o
  | .clzB32 o => encVectorUnary 0x3D o
  | .brevB32 o => encVectorUnary 0x3E o
  | .movB32 o => encVectorMove 0x3F o
  | .shflB32 o => encVectorShuffle 0x40 o
  | .vany o => encVectorVote 0x41 o
  | .vall o => encVectorVote 0x42 o
  | .ballotB32 o => encVectorCross 0x43 o
  | .redaddI32 o => encVectorCross 0x44 o
  | .redaddF32 o => encVectorCross 0x45 o
  | .redminI32 o => encVectorCross 0x46 o
  | .redminN32 o => encVectorCross 0x47 o
  | .redminF32 o => encVectorCross 0x48 o
  | .redmaxI32 o => encVectorCross 0x49 o
  | .redmaxN32 o => encVectorCross 0x4A o
  | .redmaxF32 o => encVectorCross 0x4B o
  | .redandB32 o => encVectorCross 0x4C o
  | .redorB32 o => encVectorCross 0x4D o
  | .redxorB32 o => encVectorCross 0x4E o
  | .scanaddI32 o => encVectorCross 0x4F o
  | .scanaddF32 o => encVectorCross 0x50 o
  | .xscanaddI32 o => encVectorCross 0x51 o
  | .xscanaddF32 o => encVectorCross 0x52 o
  | .scanmaxF32 o => encVectorCross 0x53 o
  | .scanminF32 o => encVectorCross 0x54 o
  | .vsysrd o => encVectorSystem 0x55 o
  | .ldgB8 o => encGlobalLoad 0x00 o
  | .ldgI8 o => encGlobalLoad 0x01 o
  | .ldgB16 o => encGlobalLoad 0x02 o
  | .ldgI16 o => encGlobalLoad 0x03 o
  | .ldgB32 o => encGlobalLoad 0x04 o
  | .ldgB64 o => encGlobalLoad 0x05 o
  | .stgB8 o => encGlobalStore 0x06 o
  | .stgB16 o => encGlobalStore 0x07 o
  | .stgB32 o => encGlobalStore 0x08 o
  | .stgB64 o => encGlobalStore 0x09 o
  | .ldsB8 o => encScratchAccess 0x0A o
  | .ldsI8 o => encScratchAccess 0x0B o
  | .ldsB16 o => encScratchAccess 0x0C o
  | .ldsI16 o => encScratchAccess 0x0D o
  | .ldsB32 o => encScratchAccess 0x0E o
  | .ldsB64 o => encScratchAccess 0x0F o
  | .stsB8 o => encScratchAccess 0x10 o
  | .stsB16 o => encScratchAccess 0x11 o
  | .stsB32 o => encScratchAccess 0x12 o
  | .stsB64 o => encScratchAccess 0x13 o
  | .ldtB8 o => encTransposeLoad 0x14 o
  | .ldtB16 o => encTransposeLoad 0x15 o
  | .ldtB32 o => encTransposeLoad 0x16 o
  | .ldzB32 o => encSnapshotLoad 0x17 o
  | .ldzB64 o => encSnapshotLoad 0x18 o
  | .atomAddB32 o => encAtomicAccess 0x20 o
  | .atomMinI32 o => encAtomicAccess 0x21 o
  | .atomMinN32 o => encAtomicAccess 0x22 o
  | .atomMaxI32 o => encAtomicAccess 0x23 o
  | .atomMaxN32 o => encAtomicAccess 0x24 o
  | .atomAndB32 o => encAtomicAccess 0x25 o
  | .atomOrB32 o => encAtomicAccess 0x26 o
  | .atomXorB32 o => encAtomicAccess 0x27 o
  | .atomExchB32 o => encAtomicAccess 0x28 o
  | .atomCasB32 o => encAtomicAccess 0x29 o
  | .atomFaddF32 o => encAtomicAccess 0x2A o
  | .atomIncwN32 o => encAtomicAccess 0x2B o
  | .atomBfaddN32 o => encAtomicAccess 0x2C o
  | .atomAddB64 o => encAtomicAccess 0x30 o
  | .atomMinI64 o => encAtomicAccess 0x31 o
  | .atomMinN64 o => encAtomicAccess 0x32 o
  | .atomMaxI64 o => encAtomicAccess 0x33 o
  | .atomMaxN64 o => encAtomicAccess 0x34 o
  | .atomAndB64 o => encAtomicAccess 0x35 o
  | .atomOrB64 o => encAtomicAccess 0x36 o
  | .atomXorB64 o => encAtomicAccess 0x37 o
  | .atomExchB64 o => encAtomicAccess 0x38 o
  | .atomCasB64 o => encAtomicAccess 0x39 o
  | .atomIncwN64 o => encAtomicAccess 0x3B o
  | .atomBfaddN64 o => encAtomicAccess 0x3C o
  | .wardw o => encLaneWait 0x40 o
  | .fence o => encFenceOp 0x41 o
  | .snapo o => encSnapshotOpen 0x42 o
  | .snapc o => encKeyOp 0x43 o
  | .txb o => encKeyOp 0x44 o
  | .txc => [mkWord (0x45 * 2 ^ 25), 0#32]
  | .txa => [mkWord (0x46 * 2 ^ 25), 0#32]
  | .keep o => encKeepOp 0x47 o
  | .unkeep o => encUnkeepOp 0x48 o
  | .pf o => encPrefetchOp 0x49 o
  | .harr o => encLaneWait 0x4A o
  | .hwait o => encLaneWait 0x4B o
  | .bra disp => [mkWord (0x00 * 2 ^ 26 + place 0 disp)]
  | .brc neg c disp => [mkWord (0x01 * 2 ^ 26 + placeFlag 23 neg + place 20 c + place 0 disp)]
  | .brd neg k disp => [mkWord (0x02 * 2 ^ 26 + placeFlag 23 neg + place 20 k + place 0 disp)]
  | .brx pair => [mkWord (0x03 * 2 ^ 26 + place 20 pair)]
  | .call pair disp => [mkWord (0x04 * 2 ^ 26 + place 20 pair + place 0 disp)]
  | .ret pair => [mkWord (0x05 * 2 ^ 26 + place 20 pair)]
  | .join j => [mkWord (0x06 * 2 ^ 26 + place 20 j)]
  | .jwait j => [mkWord (0x07 * 2 ^ 26 + place 20 j)]
  | .exit => [mkWord (0x08 * 2 ^ 26)]
  | .yield => [mkWord (0x09 * 2 ^ 26)]
  | .serb => [mkWord (0x0A * 2 ^ 26)]
  | .sere => [mkWord (0x0B * 2 ^ 26)]
  | .bar a => [mkWord (0x0C * 2 ^ 26 + place 20 a)]
  | .trap code => [mkWord (0x0D * 2 ^ 26 + place 0 code)]
  | .brk tag => [mkWord (0x0E * 2 ^ 26 + place 0 tag)]
  | .cwait ld st cp tl => [mkWord (0x0F * 2 ^ 26 + place 9 ld + place 6 st + place 3 cp + place 0 tl)]
  | .launch pair => [mkWord (0x10 * 2 ^ 26 + place 20 pair)]
  | .halt => [mkWord (0x11 * 2 ^ 26)]
  | .nop => [mkWord (0x12 * 2 ^ 26)]
  | .mld o => encStationaryLoad 0x00 o
  | .mma o => encMatrixMultiply 0x01 o
  | .mmar o => encMatrixMultiply 0x02 o
  | .mzero tile => [mkWord (0x03 * 2 ^ 26 + place 20 tile)]
  | .mdrain o => encMatrixDrain 0x04 o
  | .mrowrd o => encMatrixRow 0x05 o
  | .mrowwr o => encMatrixRow 0x06 o
  | .cpyin1 o => encCopyOp 0x00 o
  | .cpyin2 o => encCopyOp 0x01 o
  | .cpyin3 o => encCopyOp 0x02 o
  | .cpyout1 o => encCopyOp 0x03 o
  | .cpyout2 o => encCopyOp 0x04 o
  | .cpyout3 o => encCopyOp 0x05 o
  | .cpyg o => encCopyOp 0x06 o
  | .cpys o => encCopyOp 0x07 o
  | .rpush o => encRingPush 0x08 o
  | .rresv o => encRingSlotD 0x09 o
  | .rdone o => encRingSlotS 0x0A o
  | .rpop o => encRingSlotD 0x0B o
  | .rrel o => encRingSlotS 0x0C o
  | .mcast o => encFabricOp 0x0D o
  | .put o => encFabricOp 0x10 o
  | .putsig o => encFabricOp 0x11 o
  | .get o => encFabricOp 0x12 o
  | .raddF32 o => encFabricOp 0x13 o
  | .rmaxF32 o => encFabricOp 0x14 o
  | .rsmx o => encFabricOp 0x15 o
  | .winq d => [mkWord (0x16 * 2 ^ 25 + place 19 d)]
  | .jfence => [mkWord (0x17 * 2 ^ 25)]
  | .hingeStop => []
  | .hingeBr => []
  | .hingeBnz => []
  | .hingeLoop => []
  | .hingeMovi => []
  | .hingeAdd => []
  | .hingeAddi => []
  | .hingeMuli => []
  | .hingeShli => []
  | .hingeLd => []
  | .hingeAwait => []
  | .hingeArrive => []
  | .hingePut => []
  | .hingePutsig => []
  | .hingeGet => []
  | .hingeRadd => []
  | .hingeBld => []
  | .hingeBldW => []
  | .hingeBst => []
  | .hingeBstW => []
  | .hingeDec => []
  | .hingeFadd => []
  | .hingeCmpr => []
  | .hingeLen => []
  | .hingeEmax => []
  | .hingeImax => []
  | .hingeAlign => []
  | .hingeIadd => []
  | .hingeCvtb => []
  | .hingeCsa => []
  | .hingeCsc => []
  | .hingeCsg => []
  | .hingeCsr => []
  | .hingeCkpt => []
  | .hingeSel => []
  | .hingeNop => []
  | .acceptPacket => []
  | .placeGang => []
  | .placerBlock => []
  | .clauseIssue => []
  | .slotStarvationLimit => []
  | .clauseComplete => []
  | .groupWaitEnd => []
  | .watchdogExpiry => []
  | .firmwareResumeGroup => []
  | .launchEnd => []
  | .launchRetire => []
  | .loadDataReturn => []
  | .storeAccept => []
  | .copyComplete => []
  | .tileOpComplete => []
  | .mldReachEngine => []
  | .fabricOpComplete => []
  | .walkDispatch => []
  | .walkComplete => []
  | .homeRequest => []
  | .hostRequest => []
  | .l2Fill => []
  | .collectorReclaim => []
  | .collectorSettle => []
  | .windowEnter => []
  | .closeMarkerReceive => []
  | .deliveryGiveUp => []
  | .giveUpNoticeReceive => []
  | .fabricOpArrive => []
  | .fabricOpRelease => []
  | .slotContributionArrive => []
  | .channelSwitch => []
  | .channelRunLimit => []
  | .rdoneTakeEffect => []
  | .rrelTakeEffect => []
  | .unitSpill => []
  | .gangReload => []
  | .quantumExpiry => []
  | .budgetTick => []
  | .idleTimeout => []
  | .collapseComplete => []
  | .wakeComplete => []
  | .tinvWrite => []
  | .tinvComplete => []
  | .grootWrite => []
  | .kctlWrite => []
  | .pllcwWrite => []
  | .registerWrite => []
  | .vdCreate => []
  | .vdDestroy => []
  | .vdJoin => []
  | .vdLeave => []
  | .vdCollapse => []
  | .vdWake => []
  | .vdMigrateOut => []
  | .vdMigrateIn => []
  | .vdEndForwarding => []
  | .vwakeWrite => []
  | .gwakeWrite => []
  | .gendWrite => []
  | .gdoorWrite => []
  | .sqtailWrite => []
  | .shadowQueueRead => []
  | .loadImage => []
  | .attest => []
  | .checkpointStart => []
  | .checkpointComplete => []
  | .moduleReset => []
  | .linkTrainingComplete => []
  | .supplySag => []
  | .sagRecovery => []
  | .uncorrectableError => []
  | .correctedError => []
  | .pluginViolation => []
  | .vdDestroyComplete => []
  | .forwardingEntry => []

/-! ## Words without a class

The opcode table numbers the words of every class from 0, and a bare word does not say its class: the clause header does (R228).
For the one-word rows the classes are tried in a fixed order, and the first that decodes the word is taken (log entry 10). -/

/-- The order in which the classes are tried on a bare word. DESIGN CHOICE. -/
def tableClasses : List EngineClass := [.vector, .scalar, .matrix, .hinge, .control, .copy]

/-- The class in which a bare word decodes first. -/
def tableClass (w : Word) : List EngineClass → Option EngineClass
  | [] => none
  | c :: rest =>
    match decode c [w] with
    | .ok _ => some c
    | .error _ => tableClass w rest

/-- The words that nbits bits hold, least significant word first; at least one. -/
def tableWords (nbits w : Nat) : List Word :=
  if nbits ≤ 32 then [BitVec.ofNat 32 w] else [BitVec.ofNat 32 w, BitVec.ofNat 32 (w / 2 ^ 32)]

/-- The class of a row's words: the memory class has two-word rows, and no other class has. -/
def tableWordClass (nbits w : Nat) : Option EngineClass :=
  if nbits ≤ 32 then tableClass (BitVec.ofNat 32 w) tableClasses else some .memory

/-- The instruction that the decoder reads from the bits of a row of the opcode table. -/
def decodeTableWord (nbits w : Nat) : Option Instr :=
  match tableWordClass nbits w with
  | none => none
  | some c =>
    match decode c (tableWords nbits w) with
    | .ok (i, _) => some i
    | .error _ => none

end Sys2Proof
end

