-- ==== Sys2Proof/Config.lean ====
section
/-! DEFINITION. What an implementation fixes and the specification leaves open: sizes of the package, and the free values.

A free value is a constant without a body, so that no proof can see what it is. Those that stand for a choice made anew at
every step are applied to the step counter of the state. Each is named in the assumption log. -/

namespace Sys2Proof.Config

/-- The package (R1): cores, and cores of one cluster and of one die. -/
def cores : Nat := 192
def coresPerCluster : Nat := 8
def coresPerDie : Nat := 48
def dies : Nat := 4
/-- Partitions, virtual devices, hinge processors, LLC slices (R402, R405, R364, R63). -/
def partitions : Nat := 24
def vds : Nat := 128
def hinges : Nat := 32
def slices : Nat := 64
/-- Resident group slots of a core (R217) and its issue slots (R219). -/
def groupSlots : Nat := 64
def issueSlots : Nat := 4
/-- `feat0`: the architecture version, major 3 and minor 0 as the manual gives it (R4). -/
def feat0 : Word := 0x03000100#32
/-- `feat1`: every optional feature is present (R250). -/
def feat1 : Word := 0x000000FF#32

/-- Which of the enabled turns the device takes next, where no rule orders them (log 1). -/
opaque schedule : Nat → Nat
/-- How much time passes at a step that lets time pass, in nanoseconds (log 2). -/
opaque elapsedNs : Nat → Nat
/-- Which of the values that R232 allows an early read of a register returns (log 6). The arguments are the step and the
register read. -/
opaque earlyRead : Nat → Nat → Nat
/-- Whether a write of a register that a counted instruction has yet to write is overwritten by it (R232, log 6). -/
opaque earlyWrite : Nat → Nat → Bool
/-- A byte of a version that a revoked key can no longer reach, as a doomed transaction reads it (R89, R95, log 22); step and
address. -/
opaque lostVersion : Nat → Nat → Byte
/-- Lanes of a tile for which the two results of a redundant multiply differ, which is a failure of the hardware (R336, log 23). -/
opaque rowMismatch : Nat → BitVec 32
/-- A byte of a save-area block, whose layout within a unit the specification leaves to firmware (R400, log 19); step and address. -/
opaque saveByte : Nat → Nat → Byte
/-- How many more of its units a copy has delivered when a migration cancels it (R422, log 69); step and operation. -/
opaque delivered : Nat → Nat → Nat
/-- Whether the boot ROM and the firmware accept an image, and the signatures made with the vendor and identity keys (log 8). -/
opaque imageAuthentic : List Byte → Bool
opaque imageSigned : List Byte → Bool
opaque signature : List Byte → List Byte
/-- The identity public key (R433, log 8). -/
opaque identityKey : List Byte
/-- The energy a virtual device is estimated to have used since the last budget tick (R412, log 13). -/
opaque energyUsed : Nat → Nat → Nat

end Sys2Proof.Config
end

