-- ==== Sys2Proof/Machine/Num.lean ====
section
/-! DEFINITION. Exact values, formats and rounding (R139 to R158): a floating-point operand is decoded to an exact dyadic
number, the operation is exact, and Round narrows its result once. -/

namespace Sys2Proof.Num

/-- An exact value: a NaN, an infinity, or the dyadic number m × 2^e with a sign (zeros keep theirs). -/
inductive Fp where
  | nan
  | inf (neg : Bool)
  | fin (neg : Bool) (m : Nat) (e : Int)
  deriving DecidableEq, Repr

/-- A floating-point format by its field widths and bias (R143), with its infinities and canonical NaN (R144). -/
structure Fmt where
  ebits : Nat
  fbits : Nat
  bias : Nat
  hasInf : Bool
  nanc : Nat
  maxM : Nat
  maxE : Int
  deriving DecidableEq, Repr

def f32 : Fmt := ⟨8, 23, 127, true, 0x7FC00000, 0xFFFFFF, 104⟩
def bf16 : Fmt := ⟨8, 7, 127, true, 0x7FC0, 0xFF, 120⟩
def f16 : Fmt := ⟨5, 10, 15, true, 0x7E00, 0x7FF, 5⟩
def e4m3 : Fmt := ⟨4, 3, 7, false, 0x7F, 14, 5⟩
def e5m2 : Fmt := ⟨5, 2, 15, true, 0x7E, 7, 13⟩

/-- The exponent of the smallest normal. -/
def Fmt.emin (f : Fmt) : Int := 1 - (f.bias : Int)

/-- The number of fraction bits plus one. -/
def Fmt.prec (f : Fmt) : Nat := f.fbits + 1

/-- The width of the format in bits. -/
def Fmt.width (f : Fmt) : Nat := 1 + f.ebits + f.fbits

/-- The exceptions of R155, in the order of the flags of `fmode`: invalid bit 4, division by zero 3, overflow 2, underflow 1,
inexact 0. -/
abbrev Exc := BitVec 5

def excNone : Exc := 0#5
def excInvalid : Exc := 16#5
def excDivZero : Exc := 8#5
def excOverflow : Exc := 4#5
def excUnderflow : Exc := 2#5
def excInexact : Exc := 1#5

/-- The value of an encoding (R143, R144). -/
def decode (f : Fmt) (bits : Nat) : Fp :=
  let s := bits / 2 ^ (f.ebits + f.fbits) % 2 == 1
  let e := bits / 2 ^ f.fbits % 2 ^ f.ebits
  let m := bits % 2 ^ f.fbits
  let special := e == 2 ^ f.ebits - 1
  if f.hasInf then
    if special then (if m == 0 then .inf s else .nan)
    else if e == 0 then .fin s m (f.emin - f.fbits)
    else .fin s (m + 2 ^ f.fbits) ((e : Int) - f.bias - f.fbits)
  else
    if special && m == 2 ^ f.fbits - 1 then .nan
    else if e == 0 then .fin s m (f.emin - f.fbits)
    else .fin s (m + 2 ^ f.fbits) ((e : Int) - f.bias - f.fbits)

/-- An `.e8m0` scale (R146). -/
def decodeE8m0 (bits : Nat) : Fp :=
  if bits % 256 == 255 then .nan else .fin false 1 ((bits % 256 : Nat) - 127 : Int)

/-- m × 2^s for a natural s, or the quotient by 2^−s. -/
def scale (m : Nat) (s : Int) : Nat :=
  match s with
  | .ofNat k => m * 2 ^ k
  | .negSucc k => m / 2 ^ (k + 1)

/-- floor(log2 (m × 2^e)) for m ≠ 0. -/
def expo (m : Nat) (e : Int) : Int := (Nat.log2 m : Int) + e

/-- The encoding of a value that the format represents exactly. -/
def encodeFin (f : Fmt) (neg : Bool) (m : Nat) (e : Int) : Nat :=
  let sgn := if neg then 2 ^ (f.ebits + f.fbits) else 0
  if m == 0 then sgn
  else
    let l := expo m e
    if l < f.emin then sgn + scale m (e - (f.emin - f.fbits))
    else sgn + (l + f.bias).toNat * 2 ^ f.fbits + (scale m (e - (l - f.fbits)) - 2 ^ f.fbits)

/-- The bits of a value that the format represents. -/
def encode (f : Fmt) : Fp → Nat
  | .nan => f.nanc
  | .inf neg => (if neg then 2 ^ (f.ebits + f.fbits) else 0) + (2 ^ f.ebits - 1) * 2 ^ f.fbits
  | .fin neg m e => encodeFin f neg m e

/-- The integer that a mode takes for the quotient m ÷ 2^s, and whether the quotient is exact (R149). -/
def roundQuot (rm : RoundMode) (neg : Bool) (m : Nat) (s : Nat) : Nat × Bool :=
  let k := m / 2 ^ s
  let r := m % 2 ^ s
  if r == 0 then (k, true)
  else
    let up : Bool :=
      match rm with
      | .ne => decide (2 * r > 2 ^ s) || (decide (2 * r = 2 ^ s) && k % 2 == 1)
      | .tz => false
      | .up => !neg
      | .dn => neg
    (if up then k + 1 else k, false)

/-- A rounded value with what Round found on the way. -/
structure Rounded where
  val : Fp
  overflow : Bool
  inexact : Bool
  deriving DecidableEq, Repr

/-- Overflow of R149. -/
def overflowTo (f : Fmt) (rm : RoundMode) (neg : Bool) : Fp :=
  let toInf :=
    match rm with
    | .ne => true
    | .tz => false
    | .up => !neg
    | .dn => neg
  if f.hasInf && toInf then .inf neg else .fin neg f.maxM f.maxE

/-- m × 2^e exceeds the largest finite value. -/
def exceedsMax (f : Fmt) (m : Nat) (e : Int) : Bool :=
  if m == 0 then false
  else
    let d := e - f.maxE
    match d with
    | .ofNat k => decide (f.maxM < m * 2 ^ k)
    | .negSucc k => decide (f.maxM * 2 ^ (k + 1) < m)

/-- Round of R149 to a floating-point format. -/
def round (f : Fmt) (rm : RoundMode) (x : Fp) : Rounded :=
  match x with
  | .nan => ⟨.nan, false, false⟩
  | .inf neg => if f.hasInf then ⟨.inf neg, false, false⟩ else ⟨.fin neg f.maxM f.maxE, true, true⟩
  | .fin neg m e =>
    if m == 0 then ⟨.fin neg 0 0, false, false⟩
    else
      let q := max (expo m e) f.emin - f.prec + 1
      let (k, exact) :=
        match e - q with
        | .ofNat s => (m * 2 ^ s, true)
        | .negSucc s => roundQuot rm neg m (s + 1)
      if exceedsMax f k q then ⟨overflowTo f rm neg, true, true⟩ else ⟨.fin neg k q, false, !exact⟩

/-- Round to an integer type: the integer of R149 with q = 1, and whether it is exact. -/
def roundInt (rm : RoundMode) (neg : Bool) (m : Nat) (e : Int) : Int × Bool :=
  let (k, exact) :=
    match e with
    | .ofNat s => (m * 2 ^ s, true)
    | .negSucc s => roundQuot rm neg m (s + 1)
  (if neg then -(k : Int) else (k : Int), exact)

/-- The magnitude is below the smallest normal; zero included. -/
def belowNormal (f : Fmt) : Fp → Bool
  | .fin _ m e => m == 0 || decide (expo m e < f.emin)
  | _ => false

/-- A value that is subnormal in its format. -/
def isSubnormal (f : Fmt) : Fp → Bool
  | .fin _ m e => m != 0 && decide (expo m e < f.emin)
  | _ => false

def Fp.isNan : Fp → Bool
  | .nan => true
  | _ => false

def Fp.isInf : Fp → Bool
  | .inf _ => true
  | _ => false

def Fp.isZero : Fp → Bool
  | .fin _ m _ => m == 0
  | _ => false

def Fp.sign : Fp → Bool
  | .nan => false
  | .inf s => s
  | .fin s _ _ => s

def Fp.neg : Fp → Fp
  | .nan => .nan
  | .inf s => .inf (!s)
  | .fin s m e => .fin (!s) m e

/-- FlushIn of R154. -/
def flushIn (fz : Bool) (f : Fmt) (x : Fp) : Fp :=
  if fz && isSubnormal f x then .fin x.sign 0 0 else x

/-- The rounding step and FlushOut of R154, with the exceptions of R155 other than invalid and division by zero. -/
def finish (f : Fmt) (rm : RoundMode) (fz : Bool) (x : Fp) : Nat × Exc :=
  let r := round f rm x
  if fz && isSubnormal f r.val then
    (encode f (.fin r.val.sign 0 0), excUnderflow ||| excInexact)
  else
    let e1 := if r.overflow then excOverflow ||| excInexact else excNone
    let e2 := if r.inexact && !r.overflow then
        (if belowNormal f r.val then excUnderflow ||| excInexact else excInexact) else excNone
    (encode f r.val, e1 ||| e2)

/-- An integer scaled by a power of two, as an exact value; an exact zero takes the given sign. -/
def ofInt (zeroNeg : Bool) (k e : Int) : Fp :=
  if k == 0 then .fin zeroNeg 0 0 else .fin (decide (k < 0)) k.natAbs e

def signedOf (neg : Bool) (m : Nat) : Int := if neg then -(m : Int) else m

/-- The exact sum, and whether it is invalid. A zero sum of operands of opposite sign is −0 under DN and +0 else (R151). -/
def add (rm : RoundMode) (x y : Fp) : Fp × Bool :=
  match x, y with
  | .nan, _ => (.nan, false)
  | _, .nan => (.nan, false)
  | .inf s, .inf t => if s == t then (.inf s, false) else (.nan, true)
  | .inf s, .fin _ _ _ => (.inf s, false)
  | .fin _ _ _, .inf t => (.inf t, false)
  | .fin s m e, .fin t n d =>
    if m == 0 && n == 0 then
      (.fin (if s == t then s else rm == .dn) 0 0, false)
    else
      let lo := min e d
      let k := signedOf s (scale m (e - lo)) + signedOf t (scale n (d - lo))
      (ofInt (rm == .dn) k lo, false)

def sub (rm : RoundMode) (x y : Fp) : Fp × Bool := add rm x y.neg

/-- The exact product, and whether it is invalid. -/
def mul (x y : Fp) : Fp × Bool :=
  match x, y with
  | .nan, _ => (.nan, false)
  | _, .nan => (.nan, false)
  | .inf s, .inf t => (.inf (s != t), false)
  | .inf s, .fin t n _ => if n == 0 then (.nan, true) else (.inf (s != t), false)
  | .fin s m _, .inf t => if m == 0 then (.nan, true) else (.inf (s != t), false)
  | .fin s m e, .fin t n d => (.fin (s != t) (m * n) (e + d), false)

/-- The exact x × y + z; 0 × ∞ is invalid even when z is NaN (R286). -/
def fma (rm : RoundMode) (x y z : Fp) : Fp × Bool :=
  match mul x y with
  | (.nan, bad) => (.nan, bad)
  | (p, _) => add rm p z

/-- The order of two values that are not NaN: −1, 0 or 1, with −0 equal to +0. -/
def cmp (x y : Fp) : Int :=
  let key (v : Fp) : Int × Nat × Int :=
    match v with
    | .nan => (0, 0, 0)
    | .inf s => (if s then -2 else 2, 0, 0)
    | .fin s m e => if m == 0 then (0, 0, 0) else (if s then -1 else 1, m, e)
  let (a, m, e) := key x
  let (b, n, d) := key y
  if a < b then -1 else if b < a then 1
  else if a == 0 || a == 2 || a == -2 then 0
  else
    let lo := min e d
    let p := scale m (e - lo)
    let q := scale n (d - lo)
    if p == q then 0 else if decide (p < q) == decide (a > 0) then -1 else 1

/-- The order of R287, where −0 is less than +0. -/
def lessZeroAware (x y : Fp) : Bool :=
  if x.isZero && y.isZero then x.sign && !y.sign else decide (cmp x y < 0)

/-- The RM field of `fmode` (R152). -/
def modeOf (bits : Nat) : RoundMode :=
  match bits % 4 with
  | 0 => .ne | 1 => .tz | 2 => .up | _ => .dn

/-- RoundNE to a format, as bits (R149, R150: no flush, no flag). -/
def roundNE (f : Fmt) (x : Fp) : Nat := encode f (round f .ne x).val

/-- RoundNE(a + b, .f32) on encodings. -/
def addNE32 (a b : Nat) : Nat := roundNE f32 (add .ne (decode f32 a) (decode f32 b)).1

/-- The signed reading of the low n bits of a natural number. -/
def sint (n : Nat) (x : Nat) : Int :=
  let v := x % 2 ^ n
  if v / 2 ^ (n - 1) % 2 == 1 then (v : Int) - 2 ^ n else v

/-- The n low bits of an integer. -/
def wrap (n : Nat) (x : Int) : Nat := (x % (2 ^ n : Int)).toNat

def clampInt (lo hi x : Int) : Int := if x < lo then lo else if x > hi then hi else x

end Sys2Proof.Num
end

