-- ==== Sys2Proof/Machine/Special.lean ====
section
/-! DEFINITION. Division and the special functions (R288, R289): the exact value of the function, correctly rounded to FP32.

Quotients and roots are formed with enough bits and a sticky bit, which decide every rounding. The four transcendental functions are
enclosed between two dyadic numbers by a series in fixed point; the precision is doubled until both ends round to the same bits, and
those are the result (log 7). -/

namespace Sys2Proof.Num

/-- The integer square root by bits: the greatest r with r² ≤ n, for n < 4^fuel. -/
def isqrtFuel : Nat → Nat → Nat → Nat
  | 0, _, r => r
  | k + 1, n, r => if (r + 2 ^ k) * (r + 2 ^ k) ≤ n then isqrtFuel k n (r + 2 ^ k) else isqrtFuel k n r

def isqrt (n : Nat) : Nat := isqrtFuel (Nat.log2 n / 2 + 1) n 0

/-- The quotient of two positive dyadic numbers with 96 extra bits and a sticky bit. -/
def quot (neg : Bool) (m : Nat) (e : Int) (n : Nat) (d : Int) : Fp :=
  let k := 96 + Nat.log2 n
  let q := m * 2 ^ k / n
  let sticky := if m * 2 ^ k % n == 0 then 0 else 1
  .fin neg (2 * q + sticky) (e - d - k - 1)

/-- The square root of a positive dyadic number with a sticky bit. -/
def rootOf (m : Nat) (e : Int) : Fp :=
  let e2 := if e % 2 == 0 then e else e - 1
  let m2 := if e % 2 == 0 then m else 2 * m
  let n := m2 * 2 ^ 160
  let r := isqrt n
  let sticky := if r * r == n then 0 else 1
  .fin false (2 * r + sticky) (e2 / 2 - 80 - 1)

/-- The reciprocal square root of a positive dyadic number with a sticky bit. -/
def rrootOf (m : Nat) (e : Int) : Fp :=
  let e2 := if e % 2 == 0 then e else e - 1
  let m2 := if e % 2 == 0 then m else 2 * m
  let k := 160 + 2 * Nat.log2 m2
  let k2 := if k % 2 == 0 then k else k + 1
  let r := isqrt (2 ^ k2 / m2)
  let sticky := if r * r * m2 == 2 ^ k2 then 0 else 1
  .fin false (2 * r + sticky) (-(k2 / 2 : Nat) - e2 / 2 - 1)

/-! ## Fixed point with p fraction bits -/

def fixMul (p : Nat) (a b : Int) : Int := a * b / 2 ^ p

/-- The series of atanh (`sign` 1) or atan (`sign` −1): z^k ÷ k for odd k. -/
def atanSeries (p : Nat) (sign : Int) : Nat → Int → Int → Int → Int → Int
  | 0, _, _, _, acc => acc
  | fuel + 1, z2, k, pow, acc => atanSeries p sign fuel z2 (k + 2) (sign * fixMul p pow z2) (acc + pow / k)

/-- atanh or atan of 1 ÷ n. -/
def atanInv (p : Nat) (sign n : Int) : Int := atanSeries p sign (p / 3 + 4) (2 ^ p / (n * n)) 1 (2 ^ p / n) 0

/-- ln 2 = 2 atanh(1/3), and π by Machin's formula. -/
def ln2Fix (p : Nat) : Int := 2 * atanInv p 1 3
def piFix (p : Nat) : Int := 16 * atanInv p (-1) 5 - 4 * atanInv p (-1) 239

/-- Terms of the exponential series: t^k ÷ k! from `term` on. -/
def expSeries (p : Nat) : Nat → Int → Int → Int → Int → Int
  | 0, _, _, _, acc => acc
  | fuel + 1, t, k, term, acc => expSeries p fuel t (k + 1) (fixMul p term t / k) (acc + term)

/-- The series of sine or cosine: each term is the last times −t² ÷ (k (k + 1)). -/
def trigSeries (p : Nat) : Nat → Int → Int → Int → Int → Int
  | 0, _, _, _, acc => acc
  | fuel + 1, t2, k, term, acc => trigSeries p fuel t2 (k + 2) (-(fixMul p term t2) / (k * (k + 1))) (acc + term)

/-- A positive dyadic number in fixed point; exact when e ≥ −p. -/
def toFix (p m : Nat) (e : Int) : Int := (scale m (e + p) : Nat)

/-- The error allowed around a fixed-point value; every series is off by less than 2^24 units. -/
def fixErr : Int := 2 ^ 40

/-- One end of the enclosure of the magnitude v ÷ 2^p × 2^s, and whether the other end rounds to the same bits. -/
def enclosure (p : Nat) (neg : Bool) (v s : Int) : Fp × Bool :=
  let lo : Fp := .fin neg (2 * (v - fixErr).toNat + 1) (s - p - 1)
  let hi : Fp := .fin neg (2 * (v + fixErr).toNat + 1) (s - p - 1)
  (lo, (round f32 .ne lo).val == (round f32 .ne hi).val)

/-- The first of the precisions p, 2p, 4p, … whose enclosure decides the rounding; the last one stands for want of a better. -/
def decided (f : Nat → Fp × Bool) : Nat → Nat → Fp
  | 0, p => (f p).1
  | fuel + 1, p => if (f p).2 then (f p).1 else decided f fuel (2 * p)

/-- A value from its enclosures, from 400 bits on. -/
def realOf (f : Nat → Fp × Bool) : Fp := decided f 12 400

/-- An exact value for a result so small or so large that only its side matters. -/
def tiny (neg : Bool) : Fp := .fin neg 1 (-400)
def huge : Fp := .fin false 1 400

/-- 2^x for a finite x that is not an integer. -/
def exp2Real (neg : Bool) (m : Nat) (e : Int) : Fp :=
  if expo m e ≥ 9 then (if neg then tiny false else huge)
  else
    realOf fun p =>
      let x : Int := if neg then -(toFix p m e) else toFix p m e
      enclosure p false (expSeries p (p / 4) (fixMul p (x % 2 ^ p) (ln2Fix p)) 1 (2 ^ p) 0) (x / 2 ^ p)

/-- log2 x for a positive x that is no power of two. -/
def log2Real (m : Nat) (e : Int) : Fp :=
  realOf fun p =>
    let y := toFix p m (-(Nat.log2 m : Int))
    let z := (y - 2 ^ p) * 2 ^ p / (y + 2 ^ p)
    let l := 2 * atanSeries p 1 (p / 3 + 4) (fixMul p z z) 1 z 0
    let v := expo m e * 2 ^ p + l * 2 ^ p / ln2Fix p
    enclosure p (decide (v < 0)) (if v < 0 then -v else v) 0

/-- The quadrant and the fixed-point angle of x turns, reduced modulo one turn. -/
def turns (p m : Nat) (e : Int) : Int × Int :=
  let r := if e ≥ 0 then 0 else toFix p m e % 2 ^ p
  let q := 4 * r / 2 ^ p
  (q, r - q * 2 ^ (p - 2))

def sinFix (p : Nat) (t : Int) : Int :=
  let a := fixMul p t (2 * piFix p)
  trigSeries p (p / 4) (fixMul p a a) 2 a 0

def cosFix (p : Nat) (t : Int) : Int :=
  let a := fixMul p t (2 * piFix p)
  trigSeries p (p / 4) (fixMul p a a) 1 (2 ^ p) 0

/-- sin(2πx) for a finite x that is no multiple of 1/4. -/
def sinReal (neg : Bool) (m : Nat) (e : Int) : Fp :=
  realOf fun p =>
    let (q, t) := turns p m e
    let v := if q % 2 == 0 then sinFix p t else cosFix p t
    enclosure p (neg != decide (q ≥ 2)) v 0

/-- cos(2πx) for a finite x that is no multiple of 1/4. -/
def cosReal (m : Nat) (e : Int) : Fp :=
  realOf fun p =>
    let (q, t) := turns p m e
    let v := if q % 2 == 0 then cosFix p t else sinFix p t
    enclosure p (q == 1 || q == 2) v 0

/-- x is an integer multiple of 2^j. -/
def isMultiple (m : Nat) (e j : Int) : Bool :=
  m == 0 || (match e - j with
    | .ofNat _ => true
    | .negSucc k => m % 2 ^ (k + 1) == 0)

/-- The natural number x ÷ 2^j, when it is one. -/
def unitsOf (m : Nat) (e j : Int) : Nat := scale m (e - j)

/-- A special function before rounding: an exact or sticky value with its invalid or division-by-zero exception. -/
abbrev SpecialRes := Fp × Exc

def okRes (x : Fp) : SpecialRes := (x, excNone)
def invalidRes : SpecialRes := (.nan, excInvalid)
def one : Fp := .fin false 1 0

/-- `fdiv` with the special cases of R289. -/
def fdivExact (x y : Fp) : SpecialRes :=
  match x, y with
  | .nan, _ => okRes .nan
  | _, .nan => okRes .nan
  | .inf _, .inf _ => invalidRes
  | .inf s, .fin t _ _ => okRes (.inf (s != t))
  | .fin s _ _, .inf t => okRes (.fin (s != t) 0 0)
  | .fin s m e, .fin t n d =>
    if n == 0 then (if m == 0 then invalidRes else (.inf (s != t), excDivZero))
    else if m == 0 then okRes (.fin (s != t) 0 0)
    else okRes (quot (s != t) m e n d)

def frcpExact : Fp → SpecialRes
  | .nan => okRes .nan
  | .inf s => okRes (.fin s 0 0)
  | .fin s m e => if m == 0 then (.inf s, excDivZero) else okRes (quot s 1 0 m e)

def frsqExact : Fp → SpecialRes
  | .nan => okRes .nan
  | .inf s => if s then invalidRes else okRes (.fin false 0 0)
  | .fin s m e => if m == 0 then (.inf s, excDivZero) else if s then invalidRes else okRes (rrootOf m e)

def fsqrtExact : Fp → SpecialRes
  | .nan => okRes .nan
  | .inf s => if s then invalidRes else okRes (.inf false)
  | .fin s m e => if m == 0 then okRes (.fin s 0 0) else if s then invalidRes else okRes (rootOf m e)

def fexp2Exact : Fp → SpecialRes
  | .nan => okRes .nan
  | .inf s => okRes (if s then .fin false 0 0 else .inf false)
  | .fin s m e =>
    if m == 0 then okRes one
    else if isMultiple m e 0 then
      okRes (if expo m e ≥ 9 then (if s then tiny false else huge)
        else .fin false 1 (if s then -(unitsOf m e 0 : Int) else unitsOf m e 0))
    else okRes (exp2Real s m e)

def flog2Exact : Fp → SpecialRes
  | .nan => okRes .nan
  | .inf s => if s then invalidRes else okRes (.inf false)
  | .fin s m e =>
    if m == 0 then (.inf true, excDivZero)
    else if s then invalidRes
    else if m == 2 ^ Nat.log2 m then okRes (ofInt false (expo m e) 0)
    else okRes (log2Real m e)

def fsinExact : Fp → SpecialRes
  | .nan => okRes .nan
  | .inf _ => invalidRes
  | .fin s m e =>
    if isMultiple m e (-1) then okRes (.fin s 0 0)
    else if isMultiple m e (-2) then okRes (.fin (s != (unitsOf m e (-2) % 4 == 3)) 1 0)
    else okRes (sinReal s m e)

def fcosExact : Fp → SpecialRes
  | .nan => okRes .nan
  | .inf _ => invalidRes
  | .fin _ m e =>
    if isMultiple m e (-1) then okRes (.fin (unitsOf m e (-1) % 2 == 1) 1 0)
    else if isMultiple m e (-2) then okRes (.fin false 0 0)
    else okRes (cosReal m e)

/-- The delivered bits and exceptions: RoundNE, FlushOut (R288). -/
def finishSpecial (fz : Bool) (r : SpecialRes) : Nat × Exc :=
  let (bits, e2) := finish f32 .ne fz r.1
  (bits, r.2 ||| e2)

end Sys2Proof.Num
end

