-- ==== Sys2Proof/Machine/Blocks.lean ====
section
/-! DEFINITION. Conversions between types (R157, R158, R292), MX blocks (R147, R148), block products (R334), code blocks (R159 to
R164) and the softmax merge (R360). None but the vector conversions sets a flag. -/

namespace Sys2Proof.Num

/-- The format of a floating-point type code; none for `.e8m0` and the integer types. -/
def fmtOf : NumType → Option Fmt
  | .f32 => some f32 | .bf16 => some bf16 | .f16 => some f16 | .e4m3 => some e4m3 | .e5m2 => some e5m2
  | _ => none

/-- The width of an integer type and whether it is signed. -/
def intOf : NumType → Option (Nat × Bool)
  | .i8 => some (8, true) | .i16 => some (16, true) | .i32 => some (32, true) | .i64 => some (64, true)
  | .n8 => some (8, false) | .n16 => some (16, false) | .n32 => some (32, false) | .n64 => some (64, false)
  | _ => none

/-- The range of an integer type (R142). -/
def rangeOf (w : Nat) (signed : Bool) : Int × Int :=
  if signed then (-(2 ^ (w - 1) : Int), 2 ^ (w - 1) - 1) else (0, 2 ^ w - 1)

/-- A source operand of a conversion. -/
inductive Source where
  | real (x : Fp)
  | int (k : Int)
  deriving DecidableEq, Repr

/-- A source operand read from its register bits (R140, R146). -/
def sourceOf (t : NumType) (bits : Nat) : Source :=
  match fmtOf t with
  | some f => .real (decode f bits)
  | none =>
    match intOf t with
    | some (w, signed) => .int (if signed then sint w bits else (bits % 2 ^ w : Nat))
    | none => .real (decodeE8m0 bits)

/-- Placement of an integer in its register or pair (R140): `.i` types are sign-extended, `.n` types are not. -/
def placeInt (w : Nat) (signed : Bool) (k : Int) : Nat :=
  if signed then wrap (max w 32) k else wrap w k

/-- A conversion to a floating-point format (R157): `.e4m3` saturates. -/
def toFloat (f : Fmt) (rm : RoundMode) (x : Fp) : Nat × Exc := finish f rm false x

/-- A conversion of a real to an integer type (R158). -/
def realToInt (w : Nat) (signed : Bool) (rm : RoundMode) (x : Fp) : Nat × Exc :=
  let (lo, hi) := rangeOf w signed
  match x with
  | .nan => (0, excInvalid)
  | .inf neg => (placeInt w signed (if neg then lo else hi), excInvalid)
  | .fin neg m e =>
    let (k, exact) := roundInt rm neg m e
    if k < lo then (placeInt w signed lo, excInvalid)
    else if k > hi then (placeInt w signed hi, excInvalid)
    else (placeInt w signed k, if exact then excNone else excInexact)

/-- `cvt` of one element (R292). -/
def convert (dt st : NumType) (rm : RoundMode) (bits : Nat) : Nat × Exc :=
  match sourceOf st bits, fmtOf dt, intOf dt with
  | .real x, some f, _ => toFloat f rm x
  | .int k, some f, _ => toFloat f rm (ofInt false k 0)
  | .real x, none, some (w, signed) => realToInt w signed rm x
  | .int k, none, some (w, signed) =>
    let (lo, hi) := rangeOf w signed
    (placeInt w signed (clampInt lo hi k), excNone)
  | _, none, none => (0, excNone)

/-- The exact widening of an element to FP32 (R157). -/
def widenTo32 (f : Fmt) (bits : Nat) : Nat := roundNE f32 (decode f bits)

/-- Two exact values multiplied by a power of two. -/
def timesPow2 (x : Fp) (k : Int) : Fp :=
  match x with
  | .fin s m e => .fin s m (e + k)
  | y => y

/-- DecodeMX of R147, as FP32 bits. -/
def decodeMX (f : Fmt) (q x : Nat) : Nat :=
  if x % 256 == 255 then f32.nanc
  else
    match decode f q with
    | .nan => f32.nanc
    | .inf s => encode f32 (.inf s)
    | .fin s m e =>
      if exceedsMax f32 m (e + ((x % 256 : Nat) - 127 : Int)) then encode f32 (.inf s)
      else encode f32 (.fin s m (e + ((x % 256 : Nat) - 127 : Int)))

/-- The elements and the scale of EncodeMX (R148). `emax` is 8 for `.e4m3` and 15 for `.e5m2`. -/
def encodeMX (f : Fmt) (emax : Int) (rm : RoundMode) (xs : List Nat) : List Nat × Nat :=
  let vs := xs.map (decode f32)
  if vs.any (fun v => v.isNan || v.isInf) then (xs.map fun _ => 0, 255)
  else
    let top := vs.foldl (fun (acc : Option Int) v =>
      match v with
      | .fin _ m e => if m == 0 then acc else some (match acc with | none => expo m e | some a => max a (expo m e))
      | _ => acc) none
    let x : Int := match top with
      | none => 0
      | some t => clampInt 0 254 (t - emax + 127)
    (vs.map fun v =>
      let r := (round f rm (timesPow2 v (127 - x))).val
      let r2 := if r.isInf || (match r with | .fin _ m e => exceedsMax f m e | _ => false)
        then Fp.fin v.sign f.maxM f.maxE else r
      encode f r2, x.toNat)

/-- BlockDot of R334 over the 32 pairs of a block. `sx` is the sum of the two scales less 254 for MX blocks, or none when a
scale is NaN. -/
def blockDot (sx : Option Int) (as bs : List Fp) : Fp :=
  if as.any Fp.isNan || bs.any Fp.isNan then .nan
  else
    match sx with
    | none => .nan
    | some k =>
      let ts := (as.zip bs).map fun (a, b) => (mul a b).1
      if ts.any Fp.isNan then .nan
      else if ts.any (fun t => t.isInf && t.sign) && ts.any (fun t => t.isInf && !t.sign) then .nan
      else if ts.any Fp.isInf then .inf (ts.any fun t => t.isInf && t.sign)
      else if ts.all (fun t => t.isZero && t.sign) then .fin true 0 0
      else
        let lo := ts.foldl (fun (a : Int) t => match t with | .fin _ m e => if m == 0 then a else min a e | _ => a) 0
        let sum := ts.foldl (fun (a : Int) t => match t with | .fin s m e => a + (if m == 0 then 0 else signedOf s (scale m (e - lo))) | _ => a) 0
        timesPow2 (ofInt false sum lo) k

/-- One accumulation step of R334: RoundNE(acc + p, .f32). -/
def accumulate (acc : Nat) (p : Fp) : Nat := roundNE f32 (add .ne (decode f32 acc) p).1

/-- The greater of two FP32 values for `rmax.f32` (R359): NaNc for any NaN, −0 below +0. -/
def maxNan32 (a b : Nat) : Nat :=
  let x := decode f32 a
  let y := decode f32 b
  if x.isNan || y.isNan then f32.nanc else if lessZeroAware x y then b else a

/-- `fmin` and `fmax` of R287 on values already flushed, as bits. -/
def minMax (f : Fmt) (wantMax : Bool) (x y : Fp) : Nat :=
  if x.isNan && y.isNan then f.nanc
  else if x.isNan then encode f y
  else if y.isNan then encode f x
  else if lessZeroAware x y then encode f (if wantMax then y else x) else encode f (if wantMax then x else y)

/-- RoundNE(2^RoundNE(x, .f32), .f32) of R360. -/
def exp2NE32 (d : Fp) : Fp :=
  let bits := roundNE f32 d
  decode f32 (finishSpecial false (fexp2Exact (decode f32 bits))).1

/-- SmxMerge of R360 on triples of FP32 bits. -/
def smxMerge (p q : Nat × Nat × Nat) : Nat × Nat × Nat :=
  let (m1, l1, y1) := p
  let (m2, l2, y2) := q
  let a := decode f32 m1
  let b := decode f32 m2
  if a.isNan || b.isNan then (f32.nanc, f32.nanc, f32.nanc)
  else
    let c := cmp a b
    let m := if c == 0 then (if a.isZero then 0 else m1) else if c > 0 then m1 else m2
    let a1 : Fp := if c < 0 then exp2NE32 (sub .ne a b).1 else one
    let a2 : Fp := if c > 0 then exp2NE32 (sub .ne b a).1 else one
    let mix (u v : Nat) : Nat :=
      roundNE f32 (add .ne (mul (decode f32 u) a1).1 (mul (decode f32 v) a2).1).1
    (m, mix l1 l2, mix y1 y2)

/-! ## Code blocks (R159 to R164) -/

/-- The payload bytes of a block of L elements. -/
def payloadBytes (ternary : Bool) (l : Nat) : Nat := if ternary then (l + 4) / 5 else l / 8

/-- The size of a code block (R159). -/
def blockBytes (ternary : Bool) (l : Nat) : Nat := payloadBytes ternary l + 4

/-- L of a LEN field (R160). -/
def blockLen (len : Nat) : Nat := 16 * 2 ^ (len % 4)

/-- LEN of L. -/
def lenCode (l : Nat) : Nat := if l == 16 then 0 else if l == 32 then 1 else if l == 64 then 2 else 3

/-- The scale of a block (R162), as `.bf16` bits. -/
def codeScale (xs : List Nat) : Nat :=
  let vs := xs.map (decode f32)
  if vs.any (fun v => v.isNan || v.isInf) then bf16.nanc
  else
    let sum := vs.foldl (fun (a : Nat) v => match v with | .fin _ m e => a + scale m (e + 149) | _ => a) 0
    let s := roundNE bf16 (.fin false sum (-149 - (Nat.log2 xs.length : Int)))
    if s == 0x7F80 then 0x7F7F else s

/-- The trit of one element (R163). -/
def tritOf (s x : Nat) : Nat :=
  let v := decode f32 x
  let neg := x / 2 ^ 31 % 2 == 1
  let sv := decode bf16 s
  let small := !sv.isNan && (match v with
    | .fin _ _ _ => decide (cmp (if v.sign then v.neg else v) (timesPow2 sv (-1)) < 0)
    | _ => false)
  if small then 0 else if neg then 2 else 1

/-- The value of a list of bits or trits, least significant first. -/
def digits (base : Nat) : List Nat → Nat
  | [] => 0
  | d :: ds => d + base * digits base ds

/-- The digits of a payload cut into bytes of n digits each. -/
def packBytes (base n : Nat) : Nat → List Nat → List Nat
  | 0, _ => []
  | k + 1, ds => digits base (ds.take n) :: packBytes base n k (ds.drop n)

/-- Compress of R163, as bytes. -/
def compress (ternary : Bool) (hops : Nat) (xs : List Nat) : List Nat :=
  let l := xs.length
  let s := codeScale xs
  let ds := if ternary then xs.map (tritOf s) else xs.map fun x => x / 2 ^ 31 % 2
  let payload := if ternary then packBytes 3 5 (payloadBytes true l) ds else packBytes 2 8 (payloadBytes false l) ds
  let header := (if ternary then 2 else 1) * 2 ^ 14 + lenCode l * 2 ^ 12 + hops % 256
  payload ++ [s % 256, s / 256, header % 256, header / 256]

/-- A malformed block (R164). -/
def malformed (ternary : Bool) (l : Nat) (bytes : List Nat) : Bool :=
  let n := payloadBytes ternary l
  let s := bytes.getD n 0 + 256 * bytes.getD (n + 1) 0
  let h := bytes.getD (n + 2) 0 + 256 * bytes.getD (n + 3) 0
  let u := l - 5 * (n - 1)
  h / 2 ^ 14 != (if ternary then 2 else 1) || h / 2 ^ 12 % 4 != lenCode l || h / 2 ^ 8 % 16 != 0 || s / 2 ^ 15 == 1
    || (ternary && ((bytes.take n).any (fun b => decide (b > 242)) || decide (bytes.getD (n - 1) 0 ≥ 3 ^ u)))

/-- Decode of R164: L values as FP32 bits. -/
def decodeBlock (ternary : Bool) (l : Nat) (bytes : List Nat) : List Nat :=
  let n := payloadBytes ternary l
  let s := bytes.getD n 0 + 256 * bytes.getD (n + 1) 0
  if malformed ternary l bytes || (decode bf16 s).isNan then (List.range l).map fun _ => f32.nanc
  else
    let v := widenTo32 bf16 s
    let w := v + 2 ^ 31
    (List.range l).map fun i =>
      if ternary then
        let t := bytes.getD (i / 5) 0 / 3 ^ (i % 5) % 3
        if t == 1 then v else if t == 2 then w else 0
      else if bytes.getD (i / 8) 0 / 2 ^ (i % 8) % 2 == 1 then w else v

end Sys2Proof.Num
end

