-- ==== Sys2Proof/Machine/Tab.lean ====
section
/-! DEFINITION. Sparse tables: lists of key and value pairs with strictly rising keys. A table holds registers, objects by
number, and the bytes of memory; memory has the further form that no entry equals what an unlisted address reads as. -/

namespace Sys2Proof

/-- A table from natural numbers. -/
abbrev Tab (α : Type) := List (Nat × α)

namespace Tab

variable {α : Type}

/-- The entry of a key. -/
def look : Tab α → Nat → Option α
  | [], _ => none
  | (k, v) :: rest, n => if k = n then some v else look rest n

/-- The entry of a key, or a default. -/
def get (t : Tab α) (n : Nat) (d : α) : α := (look t n).getD d

/-- The table with an entry written. -/
def put : Tab α → Nat → α → Tab α
  | [], n, x => [(n, x)]
  | (k, v) :: rest, n, x =>
    if n < k then (n, x) :: (k, v) :: rest
    else if n = k then (n, x) :: rest
    else (k, v) :: put rest n x

/-- The table without a key. -/
def del : Tab α → Nat → Tab α
  | [], _ => []
  | (k, v) :: rest, n => if k = n then del rest n else (k, v) :: del rest n

/-- The table with the entry of a key changed, if there is one. -/
def change (t : Tab α) (n : Nat) (f : α → α) : Tab α :=
  match look t n with
  | some v => put t n (f v)
  | none => t

/-- The table with the entry of a key changed, a missing entry read as the default. -/
def update (t : Tab α) (n : Nat) (d : α) (f : α → α) : Tab α := put t n (f (get t n d))

/-- Every entry changed. -/
def mapAll (t : Tab α) (f : Nat → α → α) : Tab α := t.map fun (k, v) => (k, f k v)

/-- The least number from `from` on, within `fuel` candidates, that is no key. -/
def freshFrom (t : Tab α) : Nat → Nat → Option Nat
  | 0, _ => none
  | fuel + 1, n => if (look t n).isNone then some n else freshFrom t fuel (n + 1)

end Tab

/-- Bytes by address: the canonical form has strictly rising addresses and no entry equal to `memDefault`. -/
abbrev Memory := List Host.Cell

/-- What a byte that nothing has written reads as. DESIGN CHOICE (log 3): the specification gives no contents at power-on. -/
def memDefault : Byte := 0#8

namespace Memory

/-- The byte at an address. -/
def read : Memory → Nat → Byte
  | [], _ => memDefault
  | (k, v) :: rest, a => if k = a then v else read rest a

/-- A byte written; writing the value that an unlisted address reads as removes the entry. -/
def write : Memory → Nat → Byte → Memory
  | [], a, b => if b = memDefault then [] else [(a, b)]
  | (k, v) :: rest, a, b =>
    if a < k then (if b = memDefault then (k, v) :: rest else (a, b) :: (k, v) :: rest)
    else if a = k then (if b = memDefault then rest else (a, b) :: rest)
    else (k, v) :: write rest a b

/-- Bytes written at rising addresses. -/
def writeAll (m : Memory) (a : Nat) : List Byte → Memory
  | [] => m
  | b :: bs => writeAll (write m a b) (a + 1) bs

/-- n bytes from an address on. -/
def readAll (m : Memory) (a n : Nat) : List Byte := (List.range n).map fun i => read m (a + i)

/-- Every key of the list is above k. -/
def above (k : Nat) (m : Memory) : Prop := ∀ c ∈ m, k < c.1

/-- The canonical form, as a test. -/
def canon : Memory → Bool
  | [] => true
  | (_, v) :: rest =>
    v != memDefault && canon rest

/-- Strictly rising addresses, as a test. -/
def rising : Memory → Bool
  | [] => true
  | [_] => true
  | (k, _) :: (l, w) :: rest => decide (k < l) && rising ((l, w) :: rest)

/-- The canonical form of memory: strictly rising addresses, and no entry equal to what an unlisted address reads as. -/
def wf (m : Memory) : Bool := rising m && canon m

end Memory

/-- The number that bytes form, least significant first (R141). -/
def ofBytes : List Byte → Nat
  | [] => 0
  | b :: bs => b.toNat + 256 * ofBytes bs

/-- The n bytes of a number, least significant first (R141). -/
def toBytes : Nat → Nat → List Byte
  | 0, _ => []
  | n + 1, x => BitVec.ofNat 8 x :: toBytes n (x / 256)

end Sys2Proof
end

