-- ==== Sys2Proof/Machine/Group.lean ====
section
/-! DEFINITION. The state of a group: its lanes, registers, masks, counters, and the clause it is executing (spec/07, /08, /15). -/

namespace Sys2Proof.Machine

open Sys2Proof

/-- The kinds of access, in the order of KIND of R32. -/
inductive Access where
  | load | store | atomic | fetch | snapshot | commit
  deriving DecidableEq, Repr

def Access.code : Access → Nat
  | .load => 0 | .store => 1 | .atomic => 2 | .fetch => 3 | .snapshot => 4 | .commit => 5

/-- The tiers (R12). -/
inductive Tier where
  | hbm | second | host
  deriving DecidableEq, Repr

def Tier.code : Tier → Nat
  | .hbm => 0 | .second => 1 | .host => 2

/-- A translated page (R12, R16): its virtual address in the 57 implemented bits, its size, its partition-relative address, its
attributes, and the level of its leaf. -/
structure Page where
  base : Nat
  size : Nat
  frame : Nat
  ver : Bool
  sa : Bool
  ef : Bool
  tier : Tier
  x : Bool
  w : Bool
  level : Nat
  deriving DecidableEq, Repr

/-- A translation fault: CODE, LEVEL and TIER of its information word (R31, R32). -/
structure XFault where
  code : Nat
  level : Nat
  tier : Nat
  deriving DecidableEq, Repr

/-- How a page walk ended (R30). -/
inductive WalkResult where
  | page (p : Page)
  | fault (f : XFault)
  deriving DecidableEq, Repr

/-- The states of a lane (R203). -/
inductive LaneState where
  | eligible | held | parked | serialised | exited
  deriving DecidableEq, Repr

/-- What a held lane waits for (R200): the group's next clause after a yield, or a ward on a line; `fired` says that the ward has
fired or been dropped while the lane's group could not take note of it. -/
inductive Hold where
  | none | yielded | ward (line : Nat) | fired
  deriving DecidableEq, Repr

/-- One lane: its state and mode (R203, R204), its entry of `pcv` and its resume index (R195, R390), its identifier (R183), and its
trap registers (R387). -/
structure Lane where
  state : LaneState
  hold : Hold
  trap : Bool
  bankState : LaneState
  bankHold : Hold
  pc : DWord
  r : Nat
  wid : DWord
  tcause : DWord
  taddr : DWord
  tepc : DWord
  deriving DecidableEq, Repr

/-- A lane created exited (R185), whose `pcv` reads all ones (R195). -/
def Lane.exited (wid : DWord) : Lane :=
  { state := .exited, hold := .none, trap := false, bankState := .exited, bankHold := .none,
    pc := BitVec.allOnes 64, r := 0, wid := wid, tcause := 0, taddr := 0, tepc := 0 }

/-- A set of lanes of a group. -/
abbrev LaneSet := BitVec 32

/-- A rejoin mask: the expected set M and the arrived set A (R198). -/
structure Rejoin where
  m : LaneSet
  a : LaneSet
  deriving DecidableEq, Repr

def Rejoin.empty : Rejoin := ⟨0, 0⟩

/-- A serialise record (R201). -/
structure Serial where
  busy : Bool
  p : LaneSet
  q : LaneSet
  cur : Nat
  deriving DecidableEq, Repr

def Serial.idle : Serial := ⟨false, 0, 0, 0⟩

/-- One bank of rejoin masks and its serialise record; normal mode and trap mode have one each (R198, R201). -/
structure Bank where
  rejoin : Tab Rejoin
  ser : Serial
  deriving DecidableEq, Repr

def Bank.empty : Bank := ⟨[], Serial.idle⟩

/-- The four counters (R118). -/
inductive Counter where
  | loads | stores | copies | tiles
  deriving DecidableEq, Repr

/-- An operation counted on a counter, in order of issue, and whether it has completed (R118). -/
structure Counted where
  op : Nat
  done : Bool
  deriving DecidableEq, Repr

/-- A register write that a counted instruction has yet to deliver (R232): the operation, the register and lane, the value. -/
structure PendingReg where
  op : Nat
  key : Nat
  val : Word
  deriving DecidableEq, Repr

/-- The causes of a lane trap, in the order of their codes 0x01 to 0x0D (R386). -/
inductive TrapCause where
  | memory | latch | illegal | illegalClause | alignment | floating | software | breakpoint | handle | remote
  | operandFormat | redundancy | snapshotRevoked
  deriving DecidableEq, Repr

def TrapCause.code : TrapCause → Nat
  | .memory => 1 | .latch => 2 | .illegal => 3 | .illegalClause => 4 | .alignment => 5 | .floating => 6 | .software => 7
  | .breakpoint => 8 | .handle => 9 | .remote => 10 | .operandFormat => 11 | .redundancy => 12 | .snapshotRevoked => 13

/-- The causes of a replayable group, codes 0x01 to 0x07 (R394). -/
inductive ReplayCause where
  | memory | revoked | uncorrectable | watchdog | halt | escalation | noHandler
  deriving DecidableEq, Repr

def ReplayCause.code : ReplayCause → Nat
  | .memory => 1 | .revoked => 2 | .uncorrectable => 3 | .watchdog => 4 | .halt => 5 | .escalation => 6 | .noHandler => 7

/-- What a rule raises at an instruction: a lane trap with its INFO and ADDR, or a replayable event (R386, R394). `remote` marks a
remote fault whose record is emptied at entry (R356). -/
inductive Raise where
  | trap (cause : TrapCause) (info : Word) (addr : DWord)
  | replay (cause : ReplayCause) (info : Word) (addr : DWord)
  deriving DecidableEq, Repr

/-- An event recorded for a lane in the clause in progress: what was raised, the word it was raised at, and the two resume words
of R387. `escalates` is set for a lane in trap mode (R393). -/
structure LaneEvent where
  lane : Nat
  what : Raise
  escalates : Bool
  word : Nat
  rword : Nat
  sword : Nat
  deriving DecidableEq, Repr

/-- What the last word of a clause asks to happen at its completion, besides transfers of control (R197). -/
inductive Ending where
  | fall | exit | yield | jwait (j : Nat) | serb | sere
  deriving DecidableEq, Repr

/-- The clause a group is executing (R196, R227): its header fields, its words and literals, the next word, the length of the
instruction at that word, the lanes that have not left it, the targets recorded for the lanes (`next`), the values that `brx` and `ret` named (`raw`),
and what waits for completion; `opError` says that an engine operation of the group has met an uncorrectable error meanwhile (R394). -/
structure Clause where
  live : Bool
  addr : DWord
  cls : EngineClass
  count : Nat
  words : List Word
  lits : List Word
  yld : Bool
  idx : Nat
  len : Nat
  active : LaneSet
  next : Tab DWord
  raw : Tab DWord
  ending : Ending
  haltAt : Option Nat
  events : List LaneEvent
  redo : Bool
  opError : Bool
  deriving DecidableEq, Repr

/-- No clause in progress. -/
def Clause.idle : Clause :=
  { live := false, addr := 0, cls := .control, count := 0, words := [], lits := [], yld := false, idx := 0, len := 1, active := 0,
    next := [], raw := [], ending := .fall, haltAt := none, events := [], redo := false, opError := false }

/-- The states of a group (R206). -/
inductive Phase where
  | resident | waiting | halted | spilled | replayable
  deriving DecidableEq, Repr

/-- A latch entry (R120, R121). -/
structure Latch where
  op : Nat
  slot : Nat
  global : Bool
  vd : Nat
  gang : Nat
  lo : Nat
  hi : Nat
  dest : Bool
  tile : Bool
  deriving DecidableEq, Repr

/-- What a waiting group waits for (R206). The condition is tested again at every step that could end the wait. Unless it says
otherwise, the instruction that waits is performed again from its start when the wait ends. -/
inductive Wait where
  /-- Counters at most at the given counts; 7 is always met (R229, R280). With 0 for loads or stores, every load has its value, or the
  L2 has accepted every store (R117, R305, R317). -/
  | counts (ld st cp tl : Nat)
  /-- An acquire atomic has obtained its values (R305), and then the store queues that its `.rp` names are drained (R115); `wide` says
  that it invalidates the L1 at the end. The instruction is behind. -/
  | op (id : Nat) (wide : Bool) (targets : List (Nat × Nat))
  /-- Store queues have accepted as many entries as named, by core (R115); the instruction is behind. -/
  | queues (targets : List (Nat × Nat))
  /-- A slot of the ring can be reserved, or acquired (R44). -/
  | ringReserve (ring : Nat)
  | ringAcquire (ring : Nat)
  /-- The on-chip barrier of the gang completes (R277); the instruction is behind. -/
  | barrier (b : Nat)
  /-- The hasp at a module address leaves a phase (R173, R277); `fired` says that its ward has fired since it was last read; the
  instruction is behind. -/
  | hasp (addr : Nat) (phase : Word) (fired : Bool)
  /-- An engine operation's latch entries, by core, can be registered: places are free, and no range that clashes is latched (R119,
  R125). -/
  | latch (entries : List (Nat × Latch))
  /-- Fewer than 16 matrix operations are in flight (R328). -/
  | matrix
  /-- Every earlier operation on a tile of the core is complete (R51, R339, R340). -/
  | tile (t : Nat)
  /-- The virtual device's launch queue has room (R222). -/
  | launchQueue
  /-- The walks of the group's misses have ended, or the miss queue has room (R29). -/
  | walk
  /-- The window of a key is closed (R83). -/
  | snapshot (window : Nat)
  /-- The commit of the group's transaction is decided (R90). -/
  | commit
  /-- The virtual device enters a window (R131). -/
  | fence (window : Nat)
  /-- A locked line is released (R78), and what the core itself has sent to it has been performed (R110). -/
  | line (line : Nat)
  /-- The core's store queue has accepted as many entries as named (R110, R117). -/
  | behind (accepted : Nat)
  deriving DecidableEq, Repr

/-- The remote-fault record of a group (R356). -/
structure RemoteFault where
  status : Nat
  detail : Nat
  opcode : Nat
  addr : DWord
  count : Nat
  deriving DecidableEq, Repr

/-- A buffered line of an open transaction (R88, R89): the bytes stored, by offset, and the virtual line to translate again. -/
structure TxLine where
  va : Nat
  bytes : Tab Byte
  deriving DecidableEq, Repr

/-- An open transaction (R88, R89): the start key and its entry of the snapshot table, whether its hold still stands, the doom cause if
any, and the buffered lines by line address; `locked` are the lines that its commit has locked (R90). -/
structure Tx where
  key : Nat
  entry : Nat
  held : Bool
  locked : List Nat
  doom : Option Nat
  lines : Tab TxLine
  deriving DecidableEq, Repr

/-- A group. Fields that describe it come from its role and launch (R192 to R194); the rest is what it computes with. `bound` says that
`z0` is the copy of the launch's binding, without a hold of its own (R85), and `fenced` names the lanes that have executed a release
fence (R106). `asked` holds, for each loads operation under way, the lines that the die's L2 is to be filled with before its data return
(R56, R113). For the instruction in progress, `walked` holds the results of its walks, by 4 KiB page (R30), `stage` how far it has
come, `object` the record that its handle was resolved to (R176), and `copied` the packet it has read (R281). -/
structure Group where
  launch : Nat
  gang : Nat
  ginfo : Word
  budget : Nat
  sregs : Tab Word
  masks : Tab Word
  cond : BitVec 8
  fmode : Word
  tsz : Nat
  vregs : Tab Word
  keys : Tab DWord
  bound : Bool
  txs : Word
  tx : Option Tx
  lanes : Tab Lane
  normal : Bank
  trapBank : Bank
  phase : Phase
  wait : Option Wait
  loads : List Counted
  stores : List Counted
  copies : List Counted
  tiles : List Counted
  fenced : LaneSet
  asked : Tab (List Nat)
  pend : List PendingReg
  remote : Option RemoteFault
  cause : Option ReplayCause
  entries : List LaneEvent
  resumed : Bool
  watchdog : Nat
  passed : Nat
  starved : Bool
  seq : Nat
  walked : Tab WalkResult
  stage : Nat
  object : Option Nat
  copied : List Byte
  clause : Clause
  deriving DecidableEq, Repr

end Sys2Proof.Machine
end

