-- ==== Sys2Proof/Machine/Operands.lean ====
section
/-! DEFINITION. Operands of a group's instructions: the register files and masks, literals, the second sources, lane patterns,
register spans, and the recording of traps (R230, R232, R235 to R239, R247, R261, R262, R389). -/

namespace Sys2Proof.Machine

open Sys2Proof

/-- What an instruction of a group reads from outside the group: the step counter (for free values), the window of its virtual
device (R249), and BRKEN (R388). -/
structure Ctx where
  tick : Nat
  window : Nat
  brken : Bool
  deriving DecidableEq, Repr

/-! ## Lanes -/

/-- The lanes of a set, in ascending order. -/
def lanesOf (s : LaneSet) : List Nat := (List.range 32).filter fun l => s.getLsbD l

/-- The set that holds one lane. -/
def laneBit (l : Nat) : LaneSet := BitVec.ofNat 32 (2 ^ l)

/-- The set of the lanes that satisfy a test. -/
def laneSetOf (p : Nat → Bool) : LaneSet :=
  (List.range 32).foldl (fun acc l => if p l then acc ||| laneBit l else acc) 0

/-- A lane of a group; a lane not listed has exited. -/
def Group.lane (g : Group) (l : Nat) : Lane := g.lanes.get l (Lane.exited 0)

/-- A lane changed. -/
def Group.setLane (g : Group) (l : Nat) (x : Lane) : Group := { g with lanes := g.lanes.put l x }

/-- The lanes that have exited. -/
def Group.exitedSet (g : Group) : LaneSet := laneSetOf fun l => (g.lane l).state == .exited

/-! ## Traps at an instruction -/

/-- An event recorded for the lanes of a set, which leave the clause (R196, R389). A lane in trap mode escalates, unless the
event is an uncorrectable error (R393). -/
def Group.raiseLanes (g : Group) (ls : LaneSet) (what : Raise) (rword sword : Nat) : Group :=
  let esc (l : Nat) : Bool := (g.lane l).trap && (match what with
    | .replay .uncorrectable _ _ => false
    | _ => true)
  let evs := (lanesOf ls).map fun l =>
    { lane := l, what := what, escalates := esc l, word := g.clause.idx, rword := rword, sword := sword : LaneEvent }
  { g with clause := { g.clause with active := g.clause.active &&& ~~~ls, events := g.clause.events ++ evs } }

/-- An event that every active lane takes at the current instruction (R387: retry there, skip behind it). -/
def Group.raiseAll (g : Group) (what : Raise) : Group :=
  g.raiseLanes g.clause.active what g.clause.idx (g.clause.idx + g.clause.len)

/-- An event of one lane at the current instruction. -/
def Group.raiseLane (g : Group) (l : Nat) (what : Raise) : Group :=
  g.raiseLanes (laneBit l) what g.clause.idx (g.clause.idx + g.clause.len)

/-- The illegal-instruction trap for the active lanes (R251): INFO and ADDR are 0 (R386, R387). -/
def Group.illegal (g : Group) : Group := g.raiseAll (.trap .illegal 0 0)

/-! ## Scalar registers, masks and literals -/

/-- A scalar register (R261). -/
def Group.sreg (g : Group) (r : Nat) : Word := g.sregs.get r 0

def Group.setSreg (g : Group) (r : Nat) (v : Word) : Group := { g with sregs := g.sregs.put r v }

/-- An even pair, low word first (R140). -/
def Group.spair (g : Group) (r : Nat) : DWord := (g.sreg (r + 1)) ++ (g.sreg r)

/-- The scalar operand of 32 or 64 bits, as a natural number. -/
def Group.sval (g : Group) (wide : Bool) (r : Nat) : Nat := if wide then (g.spair r).toNat else (g.sreg r).toNat

/-- A scalar result of 32 or 64 bits. -/
def Group.setSval (g : Group) (wide : Bool) (r v : Nat) : Group :=
  if wide then (g.setSreg r (BitVec.ofNat 32 v)).setSreg (r + 1) (BitVec.ofNat 32 (v / 2 ^ 32))
  else g.setSreg r (BitVec.ofNat 32 v)

/-- The width n of a scalar instruction (R262). -/
def widthOf (wide : Bool) : Nat := if wide then 64 else 32

/-- A mask register; `k0` reads as the lanes of the active set that have not left it (R196). -/
def Group.mask (g : Group) (k : Nat) : LaneSet := if k = 0 then g.clause.active else g.masks.get k 0

def Group.setMask (g : Group) (k : Nat) (v : LaneSet) : Group := { g with masks := g.masks.put k v }

/-- A literal of the clause, 32 or 64 bits; none when an index is not below LITS (R230). -/
def Group.literal (g : Group) (wide : Bool) (i : Nat) : Option Nat :=
  match g.clause.lits[i]? with
  | none => none
  | some lo =>
    if wide then
      match g.clause.lits[i + 1]? with
      | none => none
      | some hi => some (lo.toNat + 2 ^ 32 * hi.toNat)
    else some lo.toNat

/-- The value b of a scalar instruction (R262); none when its literal does not exist. -/
def Group.scalarSrc (g : Group) (wide : Bool) : ScalarSrc → Option Nat
  | .reg r => some (g.sval wide r.toNat)
  | .imm i => some (Num.wrap (widthOf wide) i.toInt)
  | .lit i => g.literal wide i.toNat

/-! ## Vector registers -/

/-- The key of a lane's vector register. -/
def vkey (v l : Nat) : Nat := v * 32 + l

/-- A lane's vector register as it stands, without what is still to be delivered. -/
def Group.vraw (g : Group) (v l : Nat) : Word := g.vregs.get (vkey v l) 0

/-- The values that an earlier counted instruction has yet to deliver to a register (R232). -/
def Group.pendingVals (g : Group) (key : Nat) : List Word := (g.pend.filter fun p => p.key == key).map (·.val)

/-- A read of a lane's vector register. While a counted instruction has yet to write it, the read returns the register's value or
one that is to be delivered, by a free choice for each register (R232, log 6). -/
def Group.vread (g : Group) (tick : Nat) (v l : Nat) : Word :=
  match g.pendingVals (vkey v l) with
  | [] => g.vraw v l
  | ps => (g.vraw v l :: ps).getD (Config.earlyRead tick (vkey v l) % (ps.length + 1)) 0

/-- A write of a lane's vector register. What an earlier counted instruction has yet to deliver there may still overwrite it
(R232, log 6). -/
def Group.vwrite (g : Group) (tick : Nat) (v l : Nat) (x : Word) : Group :=
  { g with vregs := g.vregs.put (vkey v l) x,
           pend := g.pend.filter fun p => p.key != vkey v l || Config.earlyWrite tick (vkey v l) }

/-- An element operand: register e of a 32-bit span, or pair e of a 64-bit span (R235). -/
def Group.velem (g : Group) (tick : Nat) (is64 : Bool) (v e l : Nat) : Nat :=
  if is64 then (g.vread tick (v + 2 * e) l).toNat + 2 ^ 32 * (g.vread tick (v + 2 * e + 1) l).toNat
  else (g.vread tick (v + e) l).toNat

def Group.setVelem (g : Group) (tick : Nat) (is64 : Bool) (v e l x : Nat) : Group :=
  if is64 then (g.vwrite tick (v + 2 * e) l (BitVec.ofNat 32 x)).vwrite tick (v + 2 * e + 1) l (BitVec.ofNat 32 (x / 2 ^ 32))
  else g.vwrite tick (v + e) l (BitVec.ofNat 32 x)

/-- Every register of a span is below the group's budget (R193). -/
def Group.inBudget (g : Group) (v span : Nat) : Bool := decide (v + span ≤ g.budget)

/-! ## Lane patterns (R238, R239) -/

/-- The permutations p_0 to p_31 of R239, in four parts. -/
def permA : List (List Nat) :=
  [[0,1,2,3,4,5,6,7], [1,0,3,2,5,4,7,6], [2,3,0,1,6,7,4,5], [3,2,1,0,7,6,5,4],
   [4,5,6,7,0,1,2,3], [5,4,7,6,1,0,3,2], [6,7,4,5,2,3,0,1], [7,6,5,4,3,2,1,0]]

def permB : List (List Nat) :=
  [[1,2,3,4,5,6,7,0], [2,3,4,5,6,7,0,1], [3,4,5,6,7,0,1,2], [5,6,7,0,1,2,3,4],
   [6,7,0,1,2,3,4,5], [7,0,1,2,3,4,5,6],
   [1,2,3,0,5,6,7,4], [3,0,1,2,7,4,5,6]]

def permC : List (List Nat) :=
  [[0,2,4,6,1,3,5,7], [0,4,1,5,2,6,3,7], [0,4,2,6,1,5,3,7], [0,2,1,3,4,6,5,7],
   [0,1,4,5,2,3,6,7], [1,5,3,7,0,4,2,6], [2,6,0,4,3,7,1,5], [3,7,1,5,2,6,0,4]]

def permD : List (List Nat) :=
  [[4,0,6,2,5,1,7,3], [5,1,7,3,4,0,6,2], [6,2,4,0,7,3,5,1], [7,3,5,1,6,2,4,0],
   [1,3,5,7,0,2,4,6], [1,5,0,4,3,7,2,6], [4,6,0,2,5,7,1,3], [4,0,5,1,6,2,7,3]]

def permTable : List (List Nat) := permA ++ permB ++ permC ++ permD

/-- p_n(i) of R239. -/
def permEntry (n i : Nat) : Nat := (permTable.getD n []).getD i 0

/-- The tile size of a group (R188). -/
def Group.tile (g : Group) : Nat := 2 ^ g.tsz

/-- The lane whose second source lane l reads (R238), in tiles of T lanes. -/
def srcLane (T : Nat) (p : Pattern) (l : Nat) : Nat :=
  let b := l - l % T
  match p with
  | .none => l
  | .rev => b + T - 1 - (l - b)
  | .low => b
  | .swap => l ^^^ 1
  | .rot n => b + (l - b + n.toNat) % T
  | .lane n => b + n.toNat % T
  | .perm n => b + (8 * (l / 8) + permEntry n.toNat (l % 8)) % T

/-- The second source exists: a vector span within the budget, or a literal of the clause (R193, R230). -/
def Group.srcOk (g : Group) (is64 : Bool) (span : Nat) : VectorSrc → Bool
  | .vec v _ => g.inBudget v.toNat span
  | .scalar _ => true
  | .lit i => (g.literal is64 i.toNat).isSome

/-- Element e of the second source as lane l reads it (R237, R238). -/
def Group.srcElem (g : Group) (tick : Nat) (is64 : Bool) (e l : Nat) : VectorSrc → Nat
  | .vec v p => g.velem tick is64 v.toNat e (srcLane g.tile p l)
  | .scalar r => g.sval is64 r.toNat
  | .lit i => (g.literal is64 i.toNat).getD 0

/-- The computing lanes of a vector instruction (R283). -/
def Group.computing (g : Group) (c : VectorCtl) : LaneSet := g.clause.active &&& g.mask c.mask.toNat

/-- The masked lanes that write zero (R237, R283). -/
def Group.zeroing (g : Group) (c : VectorCtl) : LaneSet :=
  if c.zero then g.clause.active &&& ~~~(g.mask c.mask.toNat) else 0

/-- The rounding mode of an instruction: the prefix override, or RM of `fmode` (R286). -/
def Group.roundMode (g : Group) (c : VectorCtl) : RoundMode := c.rnd.getD (Num.modeOf g.fmode.toNat)

/-- FZ of `fmode` (R152). -/
def Group.flush (g : Group) : Bool := g.fmode.getLsbD 2

/-- Zero written to n registers from v on, in the lanes of a set. -/
def Group.zeroSpan (g : Group) (tick v n : Nat) (ls : LaneSet) : Group :=
  (lanesOf ls).foldl (fun acc l => (List.range n).foldl (fun a i => a.vwrite tick (v + i) l 0) acc) g

end Sys2Proof.Machine
end

