-- ==== Sys2Proof/Machine/Flags.lean ====
section
/-! DEFINITION. The flags of `fmode` and `cond`: how a lane's floating-point exceptions trap or are merged (R152, R156), and the
comparisons that write condition bits and masks (R267, R290). -/

namespace Sys2Proof.Machine

open Sys2Proof

/-- The trap enables TIV to TNX, in the order of the exceptions (R152). -/
def trapEnables (fmode : Word) : Num.Exc := fmode.extractLsb' 3 5

/-- A lane with these exceptions enters trap state (R156). -/
def excTraps (fmode : Word) (e : Num.Exc) : Bool := (trapEnables fmode &&& e) != 0#5

/-- `fmode` with exceptions merged into the sticky flags FIV to FNX, bits 15 to 11 (R152, R156). -/
def mergeFlags (fmode : Word) (e : Num.Exc) : Word := fmode ||| (e.zeroExtend 32 <<< 11)

/-- The bits of `fmode` that a write can set (R152). -/
def fmodeWritable : Word := 0x0000F8FF#32

/-- INFO of a floating-point trap: the exceptions in the order of the flags (R386). -/
def excInfo (e : Num.Exc) : Word := e.zeroExtend 32

/-- A relation on two numbers. -/
def icondHolds (c : ICond) (a b : Int) : Bool :=
  match c with
  | .eq => decide (a = b) | .ne => decide (a ≠ b) | .lt => decide (a < b)
  | .le => decide (a ≤ b) | .gt => decide (b < a) | .ge => decide (b ≤ a)

/-- The relation of `fcmp` (R290), with −0 equal to +0. -/
def fcondHolds (c : FCond) (x y : Num.Fp) : Bool :=
  let un := x.isNan || y.isNan
  let k := Num.cmp x y
  match c with
  | .eq => !un && decide (k = 0) | .ne => un || decide (k ≠ 0) | .lt => !un && decide (k < 0)
  | .le => !un && decide (k ≤ 0) | .gt => !un && decide (0 < k) | .ge => !un && decide (0 ≤ k)
  | .uo => un | .ord => !un

/-- `cond` with one bit written; the others are unchanged (R267). -/
def setCond (cond : BitVec 8) (i : Nat) (b : Bool) : BitVec 8 :=
  let bit := BitVec.ofNat 8 (2 ^ i)
  if b then cond ||| bit else cond &&& ~~~bit

/-- A mask with one lane's bit written. -/
def setMaskBit (m : LaneSet) (l : Nat) (b : Bool) : LaneSet := if b then m ||| laneBit l else m &&& ~~~(laneBit l)

end Sys2Proof.Machine
end

