-- ==== Sys2Proof/Machine/Objects.lean ====
section
/-! DEFINITION. The objects of the machine outside a group: translations, caches, versions, launches, gangs, rings, engine
operations, partitions and virtual devices, fabric traffic, hinge processors, and the module block (spec/01 to /04, /06, /08, /13,
/14, /16, /17). -/

namespace Sys2Proof.Machine

open Sys2Proof

/-! ## Translation -/

/-- An entry of a TLB, tagged with its virtual device (R28). -/
structure TlbEntry where
  vd : Nat
  page : Page
  deriving DecidableEq, Repr

/-- A miss: the virtual device and 4 KiB page, the group that sent it, and whether a walker has it (R29, R30). -/
structure Miss where
  vd : Nat
  page : Nat
  core : Nat
  slot : Nat
  walking : Bool
  deriving DecidableEq, Repr

/-- A non-leaf entry that points to the table of a level (R29): tag, level of the entry, the virtual address above the level's
span, and the table's tier and partition-relative address. -/
structure NonLeaf where
  vd : Nat
  level : Nat
  index : Nat
  tier : Tier
  table : Nat
  deriving DecidableEq, Repr

/-! ## Caches and keepers -/

/-- A line of an L1 (R52). -/
structure L1Line where
  line : Nat
  data : List Byte
  deriving DecidableEq, Repr

/-- The release tag of a line (R115). -/
inductive RelTag where
  | core (c : Nat) | none | unknown
  deriving DecidableEq, Repr

/-- A line of an L2: its way, the device that filled it, the keeper that keeps it, its release tag, and whether the L2 holds the right
to write it (R54 to R56, R61, R115). -/
structure L2Line where
  way : Nat
  line : Nat
  vd : Nat
  kept : Option Nat
  tag : RelTag
  own : Bool
  deriving DecidableEq, Repr

/-- A fill under way (R56): the line, the device, the keeper that the request matches (R59), the evict-first hint, and whether it brings
the right to write the line (R55). -/
structure Fill where
  line : Nat
  vd : Nat
  keeper : Option Nat
  ef : Bool
  own : Bool
  deriving DecidableEq, Repr

/-- A line of an LLC slice: its way, the device that filled it, its release tag (R63, R115). -/
structure LlcLine where
  way : Nat
  line : Nat
  vd : Nat
  tag : RelTag
  deriving DecidableEq, Repr

/-- A keeper register set (R71 to R73). -/
structure Keeper where
  base : Nat
  limit : Nat
  en : Bool
  vd : Nat
  part : Nat
  ways : List Nat
  deriving DecidableEq, Repr

/-- A keeper register set after reset. `KBASE` and `KLIMIT`, for which the specification gives no reset value, are 0 (DESIGN CHOICE,
log 73). -/
def Keeper.free : Keeper := { base := 0, limit := 0, en := false, vd := 0, part := 0, ways := [] }

/-- Who waits on a ward (R66, R173, R374): lanes of a group, the group as a whole, or a hinge channel. -/
inductive Waiter where
  | lanes (core slot : Nat) | group (core slot : Nat) | channel (hinge chan : Nat)
  deriving DecidableEq, Repr

/-- A ward entry (R66). -/
structure Ward where
  line : Nat
  waiters : List Waiter
  deriving DecidableEq, Repr

/-! ## Store queue and home requests -/

/-- One access of a store in a core's store queue (R113): the counted operation and its group, the virtual address (R59), whether the
page is versioned, the tier, the bytes, whether it is a release write (R115), and the evict-first hint (R52). -/
structure StoreEntry where
  op : Nat
  slot : Nat
  launch : Nat
  vd : Nat
  va : Nat
  ver : Bool
  tier : Tier
  bytes : List (Nat × Byte)
  rel : Bool
  ef : Bool
  deriving DecidableEq, Repr

/-- The functions of the atomics (R313). -/
inductive AtomFn where
  | add | minI | minN | maxI | maxN | and | or | xor | exch | cas | fadd | incw | bfadd
  deriving DecidableEq, Repr

/-- One lane's step of an atomic request (R312): the lane, its operand, its compare value or bound. -/
structure AtomStep where
  lane : Nat
  v : Nat
  w : Nat
  deriving DecidableEq, Repr

/-- One lane's step of a hasp arrival or read (R326): the lane and the count. -/
structure HaspStep where
  lane : Nat
  n : Nat
  deriving DecidableEq, Repr

/-- What a request asks of the home of its line (R64). -/
inductive ReqKind where
  /-- A load that misses the L2s, for die `die`, with the keeper that it matches (R55, R59, R65). -/
  | load (die : Nat) (keeper : Option Nat) (ef : Bool)
  /-- The right to write the line, asked for by the L2 of die `die` for a store (R55). -/
  | own (die : Nat) (keeper : Option Nat) (ef : Bool)
  /-- A line that the L2 of die `die` had the right to write and has evicted, with its release tag (R115). -/
  | writeBack (die : Nat) (tag : RelTag)
  /-- An atomic on z bytes at `addr` (R312); `reg` is the destination register, or none with NR = 1. -/
  | atomic (op : Nat) (fn : AtomFn) (bytes : Nat) (tier : Tier) (ver : Bool) (addr : Nat) (steps : List AtomStep)
      (reg : Option Nat) (rel rp : Bool)
  /-- Hasp arrivals of lanes at the record at `addr` (R326). -/
  | hasp (op : Nat) (addr : Nat) (steps : List HaspStep) (reg : Nat)
  /-- The lock of a commit on its line (R90). -/
  | lock
  deriving DecidableEq, Repr

/-- A request on its way to a home slice: its line, its group, its device, and what it asks (R64). -/
structure HomeReq where
  line : Nat
  core : Nat
  slot : Nat
  launch : Nat
  vd : Nat
  kind : ReqKind
  deriving DecidableEq, Repr

/-! ## Versions -/

/-- A stamp and whether its version is settled (R75, R76). -/
structure Stamp where
  window : Nat
  seq : Nat
  settled : Bool
  deriving DecidableEq, Repr

/-- An older version (R77): its stamp, its bytes, and whether it is in a resident record or in an overflow record. -/
structure Version where
  stamp : Stamp
  data : List Byte
  resident : Bool
  deriving DecidableEq, Repr

/-- The version set of a line (R78): the partition whose areas hold its records, the stamp of the newest version, whose bytes are in
the frame, the older versions, newest first, and the group whose commit has locked it. -/
structure VersionSet where
  part : Nat
  newest : Stamp
  older : List Version
  lock : Option (Nat × Nat)
  deriving DecidableEq, Repr

/-- An entry of a partition's snapshot table (R82). -/
structure SnapEntry where
  key : Nat
  count : Nat
  deriving DecidableEq, Repr

/-! ## Typed buffers, rings, gangs -/

/-- The states of a panel (R49). -/
inductive PanelState where
  | empty | loading (f : MatFormat) | ready (f : MatFormat)
  deriving DecidableEq, Repr

/-- A panel: its state, the format of the last load that has reached the engine since gang start (R333), its image (R329). -/
structure Panel where
  state : PanelState
  fmt : Option MatFormat
  image : Memory
  deriving DecidableEq, Repr

def Panel.clear : Panel := { state := .empty, fmt := none, image := [] }

/-- A tile: values by 128 × row + column, a value not listed being +0.0, and the mismatch mask (R47, R336). -/
structure Tile where
  vals : Tab Word
  mismatch : LaneSet
  deriving DecidableEq, Repr

def Tile.clear : Tile := { vals := [], mismatch := 0 }

/-- An on-chip barrier (R277). -/
structure Barrier where
  arrivals : Nat
  expect : Nat
  deriving DecidableEq, Repr

/-- The states of a ring slot (R44). -/
inductive SlotState where
  | free | filling | complete | filled | draining
  deriving DecidableEq, Repr

/-- A slot of a ring: state, phase bit, the lap it was reserved in, whether `rpush` reserved it, and whether an `rdone` or `rrel`
has been accepted and not yet taken effect (R44, R348, R349). -/
structure RingSlotRec where
  state : SlotState
  phase : Bool
  lap : Nat
  pushed : Bool
  marked : Bool
  deriving DecidableEq, Repr

/-- An accepted `rdone` or `rrel` that has not taken effect: the slot, and the engine operations that must come first (R348, R349). -/
structure Deferred where
  release : Bool
  slot : Nat
  group : Nat
  deriving DecidableEq, Repr

/-- A ring (R43, R44). `waiters` are the groups that wait, in order of beginning to wait (R45). -/
structure Ring where
  slots : Nat
  srows : Nat
  base : Nat
  p : Nat
  c : Nat
  e : Nat
  f : Nat
  lap : Nat
  recs : Tab RingSlotRec
  waiters : List (Nat × Bool)
  deferred : List (Deferred × List Nat)
  deriving DecidableEq, Repr

/-- The units of a gang (R398): the register `v` of the group in a slot, a scratchpad row, a tile, a panel, a group slot, the gang
record, the ring records. -/
inductive GangUnit where
  | reg (slot v : Nat) | row (r : Nat) | tile (t : Nat) | panel (p : Nat) | slot (k : Nat) | record | rings
  deriving DecidableEq, Repr

/-- What has been written to the save area of a spilled gang (R398, R400): groups by slot, registers, rows, tiles, panels. -/
structure Saved where
  groups : Tab Group
  regs : Tab Word
  rows : Memory
  tiles : Tab Tile
  panels : Tab Panel
  deriving DecidableEq, Repr

def Saved.empty : Saved := { groups := [], regs := [], rows := [], tiles := [], panels := [] }

/-- A gang on a core (R191, R217): its launch and number, the first gang of its cluster set, its rows, panels and tiles, the slots of
its created groups in GIDX order, their number, its barriers and rings; the units it has claimed and that are still to be spilled, with
the gang that holds each; whether its units are cleared and its groups created; and its own spilled units and their contents (R398). -/
structure Gang where
  launch : Nat
  number : Nat
  set : Nat
  base : Nat
  rows : Nat
  panels : List Nat
  tiles : List Nat
  slots : List Nat
  created : Nat
  regs : Nat
  bars : Tab Barrier
  rings : Tab Ring
  claims : List (Nat × GangUnit)
  populated : Bool
  spilled : List GangUnit
  saved : Saved
  deriving DecidableEq, Repr

/-! ## Engine operations -/

/-- One side of a copy (R342): global memory of a device, or the scratchpad of a gang on a core; the base, the row and plane pitches
in bytes, and the bytes of a unit on this side. -/
structure Side where
  scratch : Option (Nat × Nat)
  base : Nat
  rowPitch : Nat
  planePitch : Nat
  unit : Nat
  deriving DecidableEq, Repr

/-- The shape of a copy (R341, R342): planes, rows, units of a row, the widening and the code-block length. -/
structure CopyShape where
  planes : Nat
  rows : Nat
  units : Nat
  q : Widen
  len : Nat
  deriving DecidableEq, Repr

/-- The operations of the engines (R101, R118). Panels and tiles are named by their places in the core's stores. -/
inductive EngKind where
  /-- A copy from one side to one side, or to several gangs (R343, R346); a ring push also names its ring and slot (R347). -/
  | copy (shape : CopyShape) (src : Side) (dsts : List Side) (ring : Option (Nat × Nat))
  /-- A stationary load: source core, gang and offset; the target cores and panels that it has not filled yet, and the cores that it has
  reached (R330, R331). -/
  | mld (srcCore srcGang off : Nat) (f : MatFormat) (targets : List (Nat × Nat)) (reached : List Nat)
  /-- A multiply-accumulate, `mma` or `mmar` (R334, R336). -/
  | mul (redundant : Bool) (tile panel : Nat) (f : MatFormat) (off : Nat) (lanes : LaneSet)
  | zero (tile : Nat) (lanes : LaneSet)
  | drain (tile : Nat) (f : MatFormat) (off : Nat) (lanes : LaneSet)
  | rowRead (tile q cb v : Nat) (lanes : LaneSet)
  | rowWrite (tile q cb : Nat) (lanes : LaneSet) (vals : List (Nat × Word))
  /-- A fabric transfer of a group: opcode, fabric address and rank, local address, SIZE, and the SOP, VALUE and offset of a signal (R351 to
  R361). -/
  | fabric (opcode : Nat) (addr : DWord) (rank : Nat) (dest : Nat) (size : Nat) (sig : Option (Nat × Nat × Nat))
  /-- A transfer of a hinge channel, a `get` or a fabric write (R375, R379). -/
  | channel (hinge chan : Nat) (rank : Nat) (dest : Nat) (size : Nat) (get : Bool)
  deriving DecidableEq, Repr

/-- An engine operation in flight: its group and gang, the counter, the device, the translated pages of its global bytes, the
addresses at which it met uncorrectable errors (R332, R335, R344: module addresses, or offsets in a scratchpad), the window at its issue,
which a fabric transfer carries (R130), and the units that it has delivered before a migration (R422). -/
structure EngOp where
  kind : EngKind
  core : Nat
  slot : Nat
  launch : Nat
  gang : Nat
  vd : Nat
  ctr : Counter
  pages : List Page
  bad : List Nat
  window : Nat
  done : Nat
  deriving DecidableEq, Repr

/-! ## Fabric -/

/-- What a fabric operation does at its target (R357 to R361, R379). -/
inductive FabKind where
  | put (data : List Byte)
  | putsig (data : List Byte) (sop value sig : Nat)
  | get (size : Nat)
  | radd (data : List Byte)
  | rmax (data : List Byte)
  | rsmx (data : List Byte)
  | contrib (comm slot : Nat) (entries : List DWord)
  deriving DecidableEq, Repr

/-- A fabric operation under way (R130): the issuer's number for it, the issuing device when it is on this module, the ranks, the
carried window, the target device on this module, the offset, what it does, and whether it has been forwarded here (R424). -/
structure FabOp where
  id : Nat
  from? : Option Nat
  src : Nat
  dst : Nat
  window : Nat
  vd : Nat
  off : Nat
  kind : FabKind
  forwarded : Bool
  deriving DecidableEq, Repr

/-- The completion of a fabric operation (R354), with the bytes that a `get` returns. -/
structure Ack where
  id : Nat
  status : Nat
  detail : Nat
  data : List Byte
  deriving DecidableEq, Repr

/-- A close marker to a device of this module (R128). -/
structure Marker where
  vd : Nat
  src : Nat
  window : Nat
  count : Nat
  deriving DecidableEq, Repr

/-- A give-up notice to a device of this module: sender and operation (R128). -/
structure Notice where
  vd : Nat
  src : Nat
  id : Nat
  window : Nat
  deriving DecidableEq, Repr

/-- What a device sends besides operations: a close marker or a give-up notice (R128). -/
inductive Signal where
  | marker (x : Marker) | notice (x : Notice)
  deriving DecidableEq, Repr

/-- What leaves the module for another one, with the route entry it is sent by (R415). -/
inductive OutMsg where
  | op (route : List Byte) (x : FabOp)
  | marker (route : List Byte) (dst : Nat) (x : Marker)
  | notice (route : List Byte) (dst : Nat) (x : Notice)
  | ack (src : Nat) (x : Ack)
  | forward (x : FabOp)
  deriving DecidableEq, Repr

/-- An opened connection to a rank (R415): unreachable, a device of this module, or an endpoint elsewhere by its address and
endpoint identifier, 20 bytes. -/
inductive Route where
  | absent | here (vd : Nat) | away (addr : List Byte)
  deriving DecidableEq, Repr

/-! ## Launches, partitions and virtual devices -/

/-- A launch in flight (R212 to R225): its device and partition, its packet, its age, the launches it depends on, the key register of its
snapshot binding, its collective's hinge processor and channel, the least gang number not yet placed, the placer's count, and its
ending. -/
structure Launch where
  vd : Nat
  part : Nat
  pkt : List Byte
  age : Nat
  deps : List Nat
  snap : Option DWord
  coll : Option (Nat × Nat)
  next : Nat
  passed : Nat
  blocked : Bool
  ended : Option Nat
  deriving DecidableEq, Repr

/-- A partition: its control block and version block by offset (R402, R97), the floor and the record of revocations (R100), the
snapshot table (R82), the acceptance sequence (R212), the queues waiting for range entries (R214), and the slice (R411). -/
structure Partition where
  ctl : Tab DWord
  ver : Tab DWord
  floor : Option Nat
  revoked : Nat
  lastKey : Nat
  snaps : Tab SnapEntry
  accepted : Nat
  waiting : List (Nat × Nat)
  running : Option Nat
  sliceAt : Nat
  lastZero : Nat
  deriving DecidableEq, Repr

def Partition.reset : Partition :=
  { ctl := [], ver := [], floor := none, revoked := 0, lastKey := 0, snaps := [], accepted := 0, waiting := [], running := none,
    sliceAt := 0, lastZero := 127 }

/-- The states of a virtual device, in the order of STATE (R405). -/
inductive DevState where
  | none | active | collapsing | collapsed | waking | frozen | forwarding | lost
  deriving DecidableEq, Repr

def DevState.code : DevState → Nat
  | .none => 0 | .active => 1 | .collapsing => 2 | .collapsed => 3 | .waking => 4 | .frozen => 5 | .forwarding => 6 | .lost => 7

/-- A device's membership of a job (R413); `fresh` while the device is in the job's first window (R127). -/
structure Job where
  jobid : DWord
  rank : Nat
  last : Nat
  wlog : Nat
  routes : Nat
  fresh : Bool
  deriving DecidableEq, Repr

/-- A checkpoint under way (R437): whether its key is held or waited for, whether its shards have passed their checks, the snapshot
entry, the key, the shards (address and size), the destination. -/
structure Checkpoint where
  opened : Bool
  checked : Bool
  entry : Nat
  key : Nat
  shards : List (Nat × Nat)
  dst : Nat
  deriving DecidableEq, Repr

/-- A virtual device: its register blocks by offset (R22, R67, R165, R388, R405, R429), state, windows (R74, R127, R414), job and
traffic (R128, R130: a held operation is marked when it arrived while the device was collapsed, R419; `unsent` are the close markers
and give-up notices, with their ranks, that no usable route has let go yet), queues (R212, R222, R429), scheduling (R411), budgets (R412),
idle time (R418), commands (R406), invalidation (R26), checkpoint (R437) and migration (R422: `forward` are the operations kept at the
source, or announced at the destination, `forwarded` those not acknowledged yet, R425; `wards` are the wards pending at the cut: tier,
partition-relative address, core number, slot, R423). `granted` are the queues whose packet has its range entries and waits for its
snapshot (R212); `live` are the control registers as they apply in the present slice (R405). -/
structure Device where
  xlate : Tab DWord
  cache : Tab DWord
  fabric : Tab DWord
  trap : Tab DWord
  ctl : Tab DWord
  queue : Tab DWord
  state : DevState
  window : Nat
  wStart : Nat
  wFirst : Nat
  wLen : Nat
  commitSeq : Nat
  job : Option Job
  conns : Tab Route
  markers : List Marker
  performed : Tab Nat
  sent : Tab Nat
  given : List (Nat × Nat)
  unsent : List (Nat × Signal)
  done : List (Nat × Nat)
  held : List (FabOp × Bool)
  forward : List FabOp
  forwarded : Nat
  wards : List (Tier × Nat × Nat × Nat)
  cut : Option Nat
  launchQueue : List (List Byte)
  taken : Tab (List Byte)
  rotation : Nat
  pass : Nat
  granted : List Nat
  live : Tab DWord
  bytes : Int
  energy : Int
  budgetAt : Nat
  idleSince : Option Nat
  wakeHeld : Bool
  busy : Bool
  status : Nat
  tinv : Option (Nat × Nat)
  tinvErr : Bool
  ckpt : Option Checkpoint
  ckStatus : Nat
  deriving DecidableEq, Repr

/-- A virtual device that has not been created. The rotation of its queues (R212) begins with shadow queue 0, and the launch queue comes
after shadow queue 3 (DESIGN CHOICE, log 76). -/
def Device.reset : Device :=
  { xlate := [], cache := [], fabric := [], trap := [], ctl := [], queue := [], state := .none, window := 0, wStart := 0,
    wFirst := 0, wLen := 8000, commitSeq := 1, job := none, conns := [], markers := [], performed := [],
    sent := [], given := [], unsent := [], done := [], held := [], forward := [], forwarded := 0, wards := [], cut := none,
    launchQueue := [], taken := [], rotation := 0, pass := 0, granted := [], live := [],
    bytes := 0, energy := 0, budgetAt := 0, idleSince := none, wakeHeld := false, busy := false, status := 0, tinv := none,
    tinvErr := false, ckpt := none, ckStatus := 0 }

/-! ## Cores, dies, slices, hinge processors -/

/-- A core (R1): its groups by resident slot, its gangs by the number the device gives them, scratchpad, panels and tiles, latch
table, store queue with the counts of entries queued and accepted, L1 sets (most recently used first), both TLB levels, the order of
each issue slot, and the matrix engine's operations in the order in which they reached it (R331). -/
structure Core where
  groups : Tab Group
  gangs : Tab Gang
  scratch : Memory
  panels : Tab Panel
  tiles : Tab Tile
  latches : Tab Latch
  stores : List StoreEntry
  queued : Nat
  accepted : Nat
  l1 : Tab (List L1Line)
  tlb1 : List TlbEntry
  tlb2 : Tab (List TlbEntry)
  order : Tab (List Nat)
  engine : List Nat
  deriving DecidableEq, Repr

def Core.reset : Core :=
  { groups := [], gangs := [], scratch := [], panels := [], tiles := [], latches := [], stores := [], queued := 0, accepted := 0,
    l1 := [], tlb1 := [], tlb2 := [], order := [], engine := [] }

/-- A die (R1): its L2 sets (most recently used first), the fills under way, its keepers, miss queue and non-leaf cache. -/
structure Die where
  l2 : Tab (List L2Line)
  fills : List Fill
  keepers : Tab Keeper
  misses : List Miss
  nonleaf : List NonLeaf
  deriving DecidableEq, Repr

def Die.reset : Die := { l2 := [], fills := [], keepers := [], misses := [], nonleaf := [] }

/-- An LLC slice (R55, R63, R66): its sets, the record of which dies' L2s hold each of its lines, and its ward entries, oldest first. -/
structure Slice where
  sets : Tab (List LlcLine)
  holders : Tab (List Nat)
  wards : List Ward
  deriving DecidableEq, Repr

def Slice.reset : Slice := { sets := [], holders := [], wards := [] }

/-- What a channel waits for (R374, R375, R379, R381, R382, R384): a hasp, a `get`, a combining slot, its own sends, or credits of a
port. -/
inductive ChanWait where
  | hasp (addr : Nat) (phase : Word) (fired : Bool)
  | get (op : Nat)
  | slot (k : Nat)
  | sends
  | credit (port : Nat)
  deriving DecidableEq, Repr

/-- A channel of a hinge processor (R364, R369) and the collective bound to it (R365, R366). `obj` is the header's address and COUNT of
its residual object (R179), `word` the instruction in progress, `last` the choice at which it last ran, `passed` the switches it has been
passed over at (R382), `nocredit` the ports for which its transport credits are used up (R382, R383), and `killed` says that its launch
has been ended (R223). -/
structure Channel where
  vd : Nat
  part : Nat
  launch : Nat
  comm : Nat
  prio : Nat
  hlev : Nat
  compressed : Bool
  len : Nat
  form : Nat
  nslot : Nat
  obj : Option (Nat × Nat)
  prog : DWord
  count : Nat
  args : List DWord
  started : Bool
  pc : DWord
  x : Tab DWord
  blen : Nat
  bufs : Tab (Tab DWord)
  port : Nat
  word : Option Word
  wait : Option ChanWait
  sends : List Nat
  last : Nat
  passed : Nat
  atCkpt : Bool
  nocredit : List Nat
  killed : Bool
  failed : Option (Nat × Nat)
  deriving DecidableEq, Repr

/-- A hinge processor (R364, R382): its channels, the running one, the time since it was chosen in halves of a hinge cycle, the choices
made, and that a switch is due. -/
structure Hinge where
  chans : Tab Channel
  running : Option Nat
  ran : Nat
  choices : Nat
  switch : Bool
  deriving DecidableEq, Repr

def Hinge.reset : Hinge := { chans := [], running := none, ran := 0, choices := 0, switch := false }

/-- A combining slot in use (R379): its owner, communicator and number, its configuration while open, the contributions staged while it
is not, the contributions in order of arrival (rank and entries), and the combined result. -/
structure CombSlot where
  vd : Nat
  comm : Nat
  k : Nat
  conf : Option DWord
  staged : List FabOp
  contribs : List (Nat × List DWord)
  result : Option (List DWord)
  deriving DecidableEq, Repr

/-! ## Migration -/

/-- The image of a migrated device, as the model keeps it (R421, R422, log 17): the bytes of its windows by tier and
partition-relative address, the device itself, its launches, its gangs with the number of their core within the partition, their
own number, and all their contents saved, its channels with their hinge processor and channel number, its combining slots, its restartable
copies and fabric transfers, and their latch entries by core. -/
structure Image where
  bytes : List (Tier × Nat × Byte)
  device : Device
  launches : Tab Launch
  gangs : List (Nat × Nat × Gang)
  channels : List (Nat × Nat × Channel)
  slots : List CombSlot
  copies : Tab EngOp
  latches : List (Nat × Latch)
  deriving DecidableEq, Repr

/-! ## Host and module -/

/-- What the host asks of device memory (R13, R138): the device on whose behalf, whether the page is versioned, and the access. -/
inductive HostAccess where
  | read (n : Nat) | write (data : List Byte) | atomic (fn : AtomFn) (bytes v w : Nat)
  deriving DecidableEq, Repr

structure HostReq where
  vd : Nat
  ver : Bool
  addr : Nat
  what : HostAccess
  deriving DecidableEq, Repr

/-- A read of a register by its block and offset, of which only a refusal leaves a trace (R427). -/
structure RegRead where
  writer : Writer
  block : RegBlock
  index : Nat
  offset : Nat
  deriving DecidableEq, Repr

/-- What firmware tells the guest driver (R211, R356, R384, R394, R401). -/
inductive Notification where
  | replayable (core slot : Nat) (cause : ReplayCause)
  | badDone (vd : Nat)
  | lostRecord (vd : Nat)
  | remoteLeft (launch status : Nat)
  | program (vd status detail : Nat) (pc : DWord)
  | fenced (vd : Nat)
  deriving DecidableEq, Repr

/-- The module block, the firmware and the supply sensors (R431 to R435): `cmd` is the mailbox command in progress (R433), `violations` the
partitions whose plug-in has made an access outside its confinement (R432). -/
structure Module where
  svc : Nat
  sag : Nat
  sagReported : Bool
  sagAt : Nat
  refused : Nat
  corrected : Nat
  elogHead : DWord
  elogBase : DWord
  mbox : Memory
  cmd : Option Nat
  image : List Byte
  booting : Bool
  stopped : Tab Bool
  violations : List Nat
  deriving DecidableEq, Repr

def Module.reset : Module :=
  { svc := 0, sag := 0, sagReported := false, sagAt := 0, refused := 0, corrected := 0, elogHead := 0, elogBase := 0, mbox := [],
    cmd := none, image := [], booting := true, stopped := [], violations := [] }

end Sys2Proof.Machine
end

