-- ==== Sys2Proof/Machine/State.lean ====
section
/-! DEFINITION. The state of the machine, its faults and refusals, and the machine after reset. -/

namespace Sys2Proof.Machine

open Sys2Proof

/-- A stop that the hardware itself would make. Every exception of the specification is taken as a next state, so the one fault is
that of a module address that no memory backs. -/
inductive Fault where
  /-- The host asked for module addresses that no memory backs (R21). Raised by HOST_REQUEST alone. Safe: the model stops where
  the hardware has nothing to read; accesses of the device itself are kept away by the windows and bounds (R20, R404). -/
  | unbacked
  deriving DecidableEq, Repr

/-- A stop of the model. -/
inductive Refusal where
  /-- The instruction has no meaning yet; raised by the arms of `exec`. Safe. -/
  | notModelled (mnemonic : String)
  /-- An instruction was asked for where no group or channel is executing one. Raised by every instruction when the step names no
  issuer. Safe: it is no behaviour of the hardware, which executes no instruction then. -/
  | noIssuer
  deriving DecidableEq, Repr

/-- Who executes a step: a group, a hinge channel, or an event with the object it concerns. -/
inductive Actor where
  | none
  | group (core slot : Nat)
  | channel (hinge chan : Nat)
  | object (a b c : Nat)
  | access (w : RegWrite)
  | report (e : ErrorReport)
  deriving DecidableEq, Repr

/-- What reaches the module from outside (INVENTORY, Host interface): fabric traffic, host accesses, reports of the sensors, and
what the two modules of a migration send each other. `bar` is an access of the host at an offset of the BAR0 of the physical function or
of the virtual function of a device, a write when it has a value (R426, R427); `credit` says that a channel of a hinge processor has run
out of credits for a port, or has them again (R382, R383). -/
inductive Input where
  | fabric (x : FabOp)
  | marker (x : Marker)
  | notice (x : Notice)
  | ack (x : Ack)
  | host (x : HostReq)
  | regRead (x : RegRead)
  | regWrite (x : RegWrite)
  | bar (vf : Option Nat) (offset : Nat) (value : Option DWord)
  | credit (hinge chan port : Nat) (available : Bool)
  | sag (reported : Bool)
  | image (key : Nat) (x : Image)
  | forwardAck (vd : Nat)
  deriving DecidableEq, Repr

/-- What a step does: the next word of a group's clause, the next word of a hinge processor's running channel, an event with its
object, the passing of time, an input. -/
inductive Turn where
  | word (core slot : Nat)
  | hinge (h : Nat)
  | event (i : Instr) (a : Actor)
  | time
  | input (x : Input)
  deriving DecidableEq, Repr

/-- The machine. `tick`, `agenda` and `actor` are the model's own: the counter of the free values, the turns fixed from outside, and
who executes the step (log 1). The rest is what the specification names: time (R127, R226), with the 64ths of a core cycle that have
passed beyond `cycles`, the bytes of the tiers by module address and of the checkpoint store (R21, R403), the module addresses whose bytes
are uncorrectable (R31, R394), the version sets by line (R78) and the mapped ranges of versioned pages that walks have found, by device,
address, frame and size (R78), requests and engine operations under way (R64, R118), the
traffic at the module's ports and at the host's (R128 to R130, R138, R426; `arrivals` gives the order in which memory accesses, true, and
register writes, false, of the host have arrived, R430), and the parts of the module. -/
structure State where
  tick : Nat
  agenda : List Turn
  actor : Actor
  ptp : Nat
  cycles : Nat
  clockPart : Nat
  mem : Memory
  host : Memory
  store : Memory
  poisoned : List Nat
  versions : Tab VersionSet
  verPages : List (Nat × Nat × Nat × Nat)
  requests : List HomeReq
  ops : Tab EngOp
  nextOp : Nat
  nextGang : Nat
  nextLaunch : Nat
  wire : List FabOp
  acks : List Ack
  markersIn : List Marker
  noticesIn : List Notice
  outbox : List OutMsg
  hostq : List HostReq
  hostReplies : List (List Byte)
  regWrites : List RegWrite
  arrivals : List Bool
  msix : List Nat
  driver : List Notification
  module : Module
  partitions : Tab Partition
  devices : Tab Device
  launches : Tab Launch
  cores : Tab Core
  dies : Tab Die
  slices : Tab Slice
  hinges : Tab Hinge
  comb : Tab CombSlot
  images : Tab Image
  deriving DecidableEq, Repr

/-- The machine right after reset: every register at its reset value, no memory listed, no group, launch or operation, and the boot
ROM about to verify the firmware image (R432). An object not listed in a table stands at its own reset value. -/
def State.reset : State :=
  { tick := 0, agenda := [], actor := .none, ptp := 0, cycles := 0, clockPart := 0, mem := [], host := [], store := [], poisoned := [], versions := [],
    verPages := [], requests := [], ops := [], nextOp := 0, nextGang := 0, nextLaunch := 0, wire := [], acks := [], markersIn := [],
    noticesIn := [], outbox := [], hostq := [], hostReplies := [], regWrites := [], arrivals := [], msix := [], driver := [],
    module := Module.reset, partitions := [], devices := [], launches := [], cores := [], dies := [], slices := [], hinges := [],
    comb := [], images := [] }

end Sys2Proof.Machine
end

