-- ==== Sys2Proof/Machine/Ops.lean ====
section
/-! DEFINITION. Named operations over the state: its objects, the clock, the group that executes, and the one way in which a lane takes
an exception and returns from it. -/

namespace Sys2Proof.Machine

open Sys2Proof

abbrev Result := Host.Outcome State Fault Refusal

/-! ## Objects -/

def State.core (s : State) (c : Nat) : Core := s.cores.get c Core.reset
def State.die (s : State) (d : Nat) : Die := s.dies.get d Die.reset
def State.slice (s : State) (n : Nat) : Slice := s.slices.get n Slice.reset
def State.device (s : State) (v : Nat) : Device := s.devices.get v Device.reset
def State.partition (s : State) (p : Nat) : Partition := s.partitions.get p Partition.reset
def State.hinge (s : State) (h : Nat) : Hinge := s.hinges.get h Hinge.reset

def State.withCore (s : State) (c : Nat) (f : Core → Core) : State := { s with cores := s.cores.put c (f (s.core c)) }
def State.withDie (s : State) (d : Nat) (f : Die → Die) : State := { s with dies := s.dies.put d (f (s.die d)) }
def State.withSlice (s : State) (n : Nat) (f : Slice → Slice) : State := { s with slices := s.slices.put n (f (s.slice n)) }
def State.withDevice (s : State) (v : Nat) (f : Device → Device) : State := { s with devices := s.devices.put v (f (s.device v)) }
def State.withPartition (s : State) (p : Nat) (f : Partition → Partition) : State :=
  { s with partitions := s.partitions.put p (f (s.partition p)) }
def State.withHinge (s : State) (h : Nat) (f : Hinge → Hinge) : State := { s with hinges := s.hinges.put h (f (s.hinge h)) }
def State.withLaunch (s : State) (l : Nat) (f : Launch → Launch) : State := { s with launches := s.launches.change l f }
def State.withModule (s : State) (f : Module → Module) : State := { s with module := f s.module }

/-- The die of a core, its cluster, and its place in the cluster (R1). -/
def dieOf (c : Nat) : Nat := c / Config.coresPerDie
def clusterOf (c : Nat) : Nat := c / Config.coresPerCluster
def placeOf (c : Nat) : Nat := c % Config.coresPerCluster

/-! ## Groups and gangs -/

def State.group? (s : State) (c k : Nat) : Option Group := (s.core c).groups.look k
def State.withGroups (s : State) (c : Nat) (f : Tab Group → Tab Group) : State :=
  s.withCore c fun x => { x with groups := f x.groups }
def State.setGroup (s : State) (c k : Nat) (g : Group) : State := s.withGroups c fun t => t.put k g
def State.withGroup (s : State) (c k : Nat) (f : Group → Group) : State := s.withGroups c fun t => t.change k f
def State.gang? (s : State) (c n : Nat) : Option Gang := (s.core c).gangs.look n
def State.withGang (s : State) (c n : Nat) (f : Gang → Gang) : State := s.withCore c fun x => { x with gangs := x.gangs.change n f }

/-- Every resident group with its core and slot. -/
def State.allGroups (s : State) : List (Nat × Nat × Group) :=
  s.cores.flatMap fun (c, x) => x.groups.map fun (k, g) => (c, k, g)

/-- Every gang with its core and number. -/
def State.allGangs (s : State) : List (Nat × Nat × Gang) :=
  s.cores.flatMap fun (c, x) => x.gangs.map fun (n, g) => (c, n, g)

/-- Every group changed. -/
def State.mapGroups (s : State) (f : Nat → Nat → Group → Group) : State :=
  { s with cores := s.cores.mapAll fun c x => { x with groups := x.groups.mapAll fun k g => f c k g } }

/-- The launch of a group, its device and its partition. -/
def State.vdOf (s : State) (g : Group) : Nat :=
  match s.launches.look g.launch with
  | some l => l.vd
  | none => 0
def State.partOf (s : State) (g : Group) : Nat :=
  match s.launches.look g.launch with
  | some l => l.part
  | none => 0

/-! ## Register fields -/

/-- Bits of a 64-bit register. -/
def bits (r : DWord) (lo n : Nat) : Nat := r.toNat / 2 ^ lo % 2 ^ n

/-- The partition of a device: PART of `VCTL` (R405). -/
def Device.part (d : Device) : Nat := bits (d.ctl.get 0 0) 32 5
/-- CLASS of `VCTL`, and WEIGHT as it applies in the present slice (R405). -/
def Device.cls (d : Device) : Nat := bits (d.ctl.get 0 0) 48 2
def Device.weight (d : Device) : Nat := bits (d.live.get 0 0) 40 8
/-- A destroy command runs (R410), and the device takes no packet any more. -/
def Device.dying (d : Device) : Bool := d.busy && bits (d.ctl.get 0x38 0) 0 8 == 2
/-- The device is active and takes packets. -/
def Device.takes (d : Device) : Bool := d.state == .active && !d.dying
/-- `TVEC` (R388): the handler's address when one is installed. -/
def Device.handler (d : Device) : Option DWord :=
  let r := d.trap.get 0 0
  if r.getLsbD 0 then some (r &&& ~~~3#64) else none
/-- BRKEN of `TCTL` (R388). -/
def Device.brken (d : Device) : Bool := (d.trap.get 8 0).getLsbD 0
/-- `WINLO` and `WINHI` of a tier (R24). In reduced service every HBM window is empty (R434). -/
def State.window (s : State) (v : Nat) (t : Tier) : Nat × Nat :=
  let d := s.device v
  if t = .hbm ∧ s.module.svc ≠ 2 then (0, 0)
  else ((d.xlate.get (0x10 + 0x10 * t.code) 0).toNat, (d.xlate.get (0x18 + 0x10 * t.code) 0).toNat)
/-- `PBASE` of a tier (R402). -/
def State.pbase (s : State) (p : Nat) (t : Tier) : Nat := ((s.partition p).ctl.get (0x30 + 0x10 * t.code) 0).toNat
/-- `PBOUND` of a tier (R402). -/
def State.pbound (s : State) (p : Nat) (t : Tier) : Nat := ((s.partition p).ctl.get (0x38 + 0x10 * t.code) 0).toNat
/-- The cores of a partition: those of the clusters in `PCLU` (R403). -/
def State.coresOf (s : State) (p : Nat) : List Nat :=
  (List.range Config.cores).filter fun c => ((s.partition p).ctl.get 0 0).getLsbD (clusterOf c)
/-- The hold H of a partition (R99). -/
def State.hold (s : State) (p : Nat) : Nat := bits ((s.partition p).ver.get 0x30 0) 0 8

/-- What an instruction of a group reads from outside the group. -/
def State.ctx (s : State) (c k : Nat) : Ctx :=
  match s.group? c k with
  | none => { tick := s.tick, window := 0, brken := false }
  | some g => let d := s.device (s.vdOf g); { tick := s.tick, window := d.window, brken := d.brken }

/-! ## Who executes -/

/-- An operation inside the executing group. -/
def onGroup (s : State) (f : Ctx → Group → Group) : Result :=
  match s.actor with
  | .group c k =>
    match s.group? c k with
    | some g => .next (s.setGroup c k (f (s.ctx c k) g))
    | none => .refused .noIssuer
  | _ => .refused .noIssuer

/-- An operation of the executing group on the whole state. -/
def asGroup (s : State) (f : Nat → Nat → Group → State) : Result :=
  match s.actor with
  | .group c k =>
    match s.group? c k with
    | some g => .next (f c k g)
    | none => .refused .noIssuer
  | _ => .refused .noIssuer

/-! ## Budgets (R412) -/

/-- A limit stops its device: it is enabled, and 0, or the budget is below 0. -/
def limitStops (r : DWord) (budget : Int) : Bool := r.getLsbD 63 && (bits r 0 32 == 0 || decide (budget < 0))

/-- A device is throttled by either of its limits. -/
def Device.throttled (d : Device) : Bool :=
  limitStops (d.live.get 0x18 0) d.bytes || limitStops (d.live.get 0x20 0) d.energy

/-- `VBWLIM` (R405, R412): bytes that the home moves for a device are charged to its budget. -/
def State.charge (s : State) (vd n : Nat) : State :=
  if ((s.device vd).live.get 0x18 0).getLsbD 63 then s.withDevice vd fun d => { d with bytes := d.bytes - n } else s

/-! ## Waiting -/

/-- The group waits, and executes the current word again when the wait ends (R206). -/
def Group.waitOn (g : Group) (w : Wait) : Group :=
  { g with phase := .waiting, wait := some w, clause := { g.clause with redo := true } }

/-- The group waits, and goes on behind the current instruction when the wait ends (R206). -/
def Group.waitBehind (g : Group) (w : Wait) : Group := { g with phase := .waiting, wait := some w }

/-- The holds of a lane that satisfy a test end: the lane is eligible again, in either bank (R200, R204). -/
def Lane.free (x : Lane) (p : Hold → Bool) : Lane :=
  let y := if x.state == .held && p x.hold then { x with state := .eligible, hold := .none } else x
  if y.trap && y.bankState == .held && p y.bankHold then { y with bankState := .eligible, bankHold := .none } else y

/-- The same for every lane of a set. -/
def Group.freeHolds (g : Group) (ls : LaneSet) (p : Hold → Bool) : Group :=
  (lanesOf ls).foldl (fun a l => a.setLane l ((a.lane l).free p)) g

/-- The object that an event concerns. -/
def State.object (s : State) : Nat × Nat × Nat :=
  match s.actor with
  | .object a b c => (a, b, c)
  | _ => (0, 0, 0)

/-- The first element of a list that satisfies a test, taken out. -/
def takeFirst {α : Type} (p : α → Bool) : List α → Option (α × List α)
  | [] => none
  | x :: rest =>
    if p x then some (x, rest)
    else match takeFirst p rest with
      | some (y, r) => some (y, x :: r)
      | none => none

/-! ## Taking an exception and returning from it -/

/-- The word `tcause` (R387). -/
def tcauseWord (cause : TrapCause) (rword sword : Nat) (info : Word) : DWord :=
  BitVec.ofNat 64 (cause.code * 2 ^ 56 + rword % 16 * 2 ^ 52 + sword % 16 * 2 ^ 48 + info.toNat)

/-- RWORD and SWORD of `tcause`. -/
def rwordOf (t : DWord) : Nat := t.toNat / 2 ^ 52 % 16
def swordOf (t : DWord) : Nat := t.toNat / 2 ^ 48 % 16

/-- Taking a lane trap (R389): the saved cause, address and clause; the banked state; trap mode; the handler's address at word 0.
`tvec` is the handler address. -/
def enterTrap (tvec : DWord) (clause : DWord) (cause : TrapCause) (info : Word) (addr : DWord) (rword sword : Nat) (x : Lane) :
    Lane :=
  { x with tcause := tcauseWord cause rword sword info, taddr := addr, tepc := clause,
           bankState := x.state, bankHold := x.hold, trap := true, state := .eligible, hold := .none, pc := tvec, r := 0 }

/-- Return from trap mode (R392) with the value of the named pair: a retry or a skip when it names `tepc`, else word 0. -/
def leaveTrap (v : DWord) (x : Lane) : Lane :=
  let t := v &&& ~~~3#64
  { x with pc := t, r := if t = x.tepc then (if v.getLsbD 0 then swordOf x.tcause else rwordOf x.tcause) else 0,
           trap := false, state := x.bankState, hold := x.bankHold }

end Sys2Proof.Machine
end

