-- ==== Sys2Proof/Machine/Lanes.lean ====
section
/-! DEFINITION. What lanes do to one another at the completion of a clause: rejoin masks, serialisation, exit, trap entry, return,
and the taking of next addresses (R196 to R204, R389 to R394). All of it is inside one group. -/

namespace Sys2Proof.Machine

open Sys2Proof

/-- The bank that lanes of a mode act on (R198, R201). -/
def Group.bank (g : Group) (trap : Bool) : Bank := if trap then g.trapBank else g.normal

def Group.setBank (g : Group) (trap : Bool) (b : Bank) : Group :=
  if trap then { g with trapBank := b } else { g with normal := b }

/-- The state a lane has for a bank: a lane in trap mode keeps its normal-mode state in its banked copy (R204). -/
def Group.setBankState (g : Group) (trap : Bool) (l : Nat) (st : LaneState) : Group :=
  let x := g.lane l
  if x.state == .exited then g
  else if !trap && x.trap then g.setLane l { x with bankState := st, bankHold := .none }
  else g.setLane l { x with state := st, hold := .none }

/-- The same state for every lane of a set. -/
def Group.setStates (g : Group) (trap : Bool) (ls : LaneSet) (st : LaneState) : Group :=
  (lanesOf ls).foldl (fun a l => a.setBankState trap l st) g

def Bank.mask (b : Bank) (j : Nat) : Rejoin := b.rejoin.get j Rejoin.empty

def Bank.setMask (b : Bank) (j : Nat) (r : Rejoin) : Bank := { b with rejoin := b.rejoin.put j r }

/-- Release(j) of R198. -/
def Group.release (g : Group) (trap : Bool) (j : Nat) : Group :=
  let r := (g.bank trap).mask j
  let g1 := g.setStates trap r.a .eligible
  g1.setBank trap ((g1.bank trap).setMask j Rejoin.empty)

/-- Check(j) of R198. An empty mask releases nothing. -/
def Group.checkMask (g : Group) (trap : Bool) (j : Nat) : Group :=
  let r := (g.bank trap).mask j
  if r = Rejoin.empty then g
  else if r.m &&& ~~~(r.a ||| g.exitedSet) = 0 then g.release trap j else g

/-- Join(j) of R198, for the active set. -/
def Group.join (g : Group) (trap : Bool) (j : Nat) : Group :=
  let g1 := if ((g.bank trap).mask j).a = 0 then g else g.release trap j
  g1.setBank trap ((g1.bank trap).setMask j ⟨g.clause.active, 0⟩)

/-- Every lane of a set takes an address, at word 0 (R197, R390). -/
def Group.setPcs (g : Group) (ls : LaneSet) (pc : DWord) : Group :=
  (lanesOf ls).foldl (fun a l => a.setLane l { a.lane l with pc := pc, r := 0 }) g

/-- Wait(j) of R198, for lanes ls, with the address after the clause. -/
def Group.waitMask (g : Group) (trap : Bool) (j : Nat) (ls : LaneSet) (after : DWord) : Group :=
  let g1 := g.setPcs ls after
  let r := (g1.bank trap).mask j
  let arriving := ls &&& r.m
  let g2 := (g1.setStates trap arriving .parked).setBank trap ((g1.bank trap).setMask j { r with a := r.a ||| arriving })
  g2.checkMask trap j

/-- The lowest lane of a set. -/
def lowest (s : LaneSet) : Nat := (lanesOf s).headD 0

/-- Next of R201. -/
def Group.serialNext (g : Group) (trap : Bool) : Group :=
  let b := g.bank trap
  if b.ser.q = 0 then
    let g1 := g.setStates trap (b.ser.p &&& ~~~g.exitedSet) .eligible
    g1.setBank trap { b with ser := { b.ser with busy := false } }
  else
    let c := lowest b.ser.q
    (g.setBankState trap c .eligible).setBank trap { b with ser := { b.ser with cur := c } }

/-- SerialiseBegin of R201 for lanes ls; the record is not busy. -/
def Group.serialBegin (g : Group) (trap : Bool) (ls : LaneSet) (after : DWord) : Group :=
  let g1 := (g.setPcs ls after).setStates trap ls .serialised
  (g1.setBank trap { g1.bank trap with ser := { busy := true, p := ls, q := ls, cur := 0 } }).serialNext trap

/-- SerialiseEnd of R201, executed by the current lane alone. -/
def Group.serialEnd (g : Group) (trap : Bool) (after : DWord) : Group :=
  let b := g.bank trap
  let me := laneBit b.ser.cur
  let g1 := (g.setPcs me after).setStates trap me .serialised
  (g1.setBank trap { b with ser := { b.ser with q := b.ser.q &&& ~~~me } }).serialNext trap

/-- One bank after the lanes of a set have exited: they leave every mask and the serialise record (R202 steps 1 and 2). -/
def Group.forgetLanes (g : Group) (trap : Bool) (ls : LaneSet) : Group :=
  let b := g.bank trap
  let b1 : Bank := { rejoin := b.rejoin.mapAll fun _ r => ⟨r.m &&& ~~~ls, r.a &&& ~~~ls⟩,
                     ser := { b.ser with p := b.ser.p &&& ~~~ls, q := b.ser.q &&& ~~~ls } }
  let g1 := g.setBank trap b1
  let g2 := (List.range 8).foldl (fun a j => a.checkMask trap j) g1
  if b.ser.busy && ls.getLsbD b.ser.cur then g2.serialNext trap else g2

/-- Exit or kill of the lanes of a set (R202). Their trap mode ends with them (R275). -/
def Group.exitLanes (g : Group) (ls : LaneSet) : Group :=
  let g1 := (lanesOf ls).foldl (fun a l => a.setLane l
    { a.lane l with state := .exited, hold := .none, trap := false, bankState := .exited, bankHold := .none,
                    pc := BitVec.allOnes 64, r := 0 }) g
  (g1.forgetLanes false ls).forgetLanes true ls

/-- Some lane is eligible. -/
def Group.anyEligible (g : Group) : Bool := (List.range 32).any fun l => (g.lane l).state == .eligible

/-- Lanes of a set that are held by a yield become eligible (R200). -/
def Group.releaseYields (g : Group) (ls : LaneSet) : Group := g.freeHolds ls (· == .yielded)

/-- A yielded lane becomes eligible at once when no other lane of the group is eligible (R200). -/
def Group.settleYields (g : Group) : Group := if g.anyEligible then g else g.releaseYields (BitVec.allOnes 32)

/-! ## Trap entry -/

/-- Some lane of the group is in trap mode. -/
def Group.anyTrap (g : Group) : Bool := (List.range 32).any fun l => (g.lane l).trap

/-- The trap bank is emptied when no lane of the group is in trap mode (R389). -/
def Group.freshTrapBank (g : Group) : Group := if g.anyTrap then g else { g with trapBank := Bank.empty }

/-- A lane trap of one lane (R389); a remote fault empties the group's record (R356). -/
def Group.trapLane (g : Group) (tvec : DWord) (e : LaneEvent) : Group :=
  match e.what with
  | .trap cause info addr =>
    let g1 := g.setLane e.lane (enterTrap tvec g.clause.addr cause info addr e.rword e.sword (g.lane e.lane))
    if cause = .remote then { g1 with remote := none } else g1
  | .replay _ _ _ => g

/-! ## Completion of a clause -/

/-- The fall-through address of R197; `lits` and `count` are those of the header. -/
def Clause.after (c : Clause) : DWord := c.addr + BitVec.ofNat 64 (4 * (1 + c.count + c.lits.length))

/-- The next address of a lane that remains in the clause: its return from trap mode, its target, or the fall-through (R197, R273,
R392). -/
def Group.advance (g : Group) (l : Nat) : Group :=
  let x := g.lane l
  match g.clause.raw.look l with
  | some v =>
    if x.trap && v.getLsbD 1 then g.setLane l (leaveTrap v x)
    else g.setLane l { x with pc := v &&& ~~~3#64, r := 0 }
  | none => g.setLane l { x with pc := g.clause.next.get l g.clause.after, r := 0 }

/-- The active lanes of a clause are in trap mode. -/
def Group.activeTrap (g : Group) : Bool := (lanesOf g.clause.active).any fun l => (g.lane l).trap

/-- The illegal-instruction trap that a serialise instruction raises at completion (R201); the instruction is the last word of the
clause. -/
def Group.serialTrap (g : Group) : Group := { g with clause := { g.clause with idx := g.clause.count - 1, len := 1 } }.illegal

/-- What the last word asks for the lanes that remain (R197, R198, R200 to R202). -/
def Group.applyEnding (g : Group) : Group :=
  let ls := g.clause.active
  let t := g.activeTrap
  match g.clause.ending with
  | .fall => (lanesOf ls).foldl (fun a l => a.advance l) g
  | .exit => g.exitLanes ls
  | .yield =>
    (lanesOf ls).foldl (fun a l => a.setLane l { a.lane l with state := .held, hold := .yielded }) (g.setPcs ls g.clause.after)
  | .jwait j => g.waitMask t j ls g.clause.after
  | .serb => if (g.bank t).ser.busy then g.serialTrap else g.serialBegin t ls g.clause.after
  | .sere =>
    if (g.bank t).ser.busy && ls == laneBit (g.bank t).ser.cur then g.serialEnd t g.clause.after else g.serialTrap

/-- The event makes the group replayable: a replayable event, an escalation, or a trap without a handler (R389, R393, R394). -/
def LaneEvent.replays (e : LaneEvent) (handler : Bool) : Bool :=
  e.escalates || !handler || (match e.what with
    | .replay _ _ _ => true
    | .trap _ _ _ => false)

/-- The group cause that an event gives (R394). -/
def LaneEvent.groupCause (e : LaneEvent) : ReplayCause :=
  if e.escalates then .escalation
  else match e.what with
    | .replay c _ _ => c
    | .trap _ _ _ => .noHandler

/-- A lane whose event makes the group replayable keeps its clause address, with its resume index at RWORD (R389, R394), or at the
escalating instruction itself (R393). -/
def Group.stayAt (g : Group) (e : LaneEvent) : Group :=
  g.setLane e.lane { g.lane e.lane with pc := g.clause.addr, r := if e.escalates then e.word else e.rword }

/-- The group cause of a clause's replayable events and its `halt`: that of the earlier instruction (R394). -/
def stopCause (stops : List LaneEvent) (haltAt : Option Nat) : Option ReplayCause :=
  match stops, haltAt with
  | [], none => none
  | [], some _ => some .halt
  | e :: _, none => some e.groupCause
  | e :: _, some h => if h < e.word then some .halt else some e.groupCause

/-- The group cause at the completion of a clause (R394): that of its own events, else that of an engine operation that has met an
uncorrectable error meanwhile. -/
def Group.stopsWith (g : Group) (stops : List LaneEvent) : Option ReplayCause :=
  match stopCause stops g.clause.haltAt with
  | some c => some c
  | none => if g.clause.opError then some .uncorrectable else none

/-- The completion of a clause inside the group (R197, R200, R389, R394): earlier yields end, then the clause's ending, trap entries,
replayable marking. `tvec` is the handler address when one is installed. The group's fault record and its place in the issue order are the
state's business. -/
def Group.complete (g : Group) (tvec : Option DWord) : Group :=
  let g1 := (g.releaseYields (BitVec.allOnes 32)).applyEnding
  let evs := g1.clause.events
  let traps := evs.filter fun e => !e.replays tvec.isSome
  let stops := evs.filter fun e => e.replays tvec.isSome
  let g2 := if traps.isEmpty then g1 else traps.foldl (fun a e => a.trapLane (tvec.getD 0) e) g1.freshTrapBank
  let g3 := stops.foldl (fun a e => a.stayAt e) g2
  let g4 := g3.settleYields
  let g5 := { g4 with clause := { g4.clause with live := false, active := 0, next := [], raw := [], ending := .fall,
                                                 redo := false, opError := false } }
  match g.stopsWith stops with
  | none => { g5 with clause := { g5.clause with events := [], haltAt := none } }
  | some c => { g5 with phase := .replayable, cause := some c, resumed := false, seq := (g5.seq + 1) % 2 ^ 32,
                        entries := g5.entries.filter (fun x => !stops.any fun e => e.lane == x.lane) ++ stops }

/-! ## The choice of a clause (R196, R390) -/

/-- The lanes that may issue: the eligible ones, and of them those in trap mode when there are any. After a resumption the lanes
with a replayable entry re-execute alone (R396). -/
def Group.candidates (g : Group) : LaneSet :=
  let e := laneSetOf fun l => (g.lane l).state == .eligible
  let t := laneSetOf fun l => (g.lane l).state == .eligible && (g.lane l).trap
  let again := if g.resumed then e &&& laneSetOf (fun l => g.entries.any fun x => x.lane == l) else 0
  if t ≠ 0 then t else if again ≠ 0 then again else e

/-- The lowest pair of address and resume index among lanes. -/
def Group.lowestPair (g : Group) : List Nat → Option (Nat × Nat)
  | [] => none
  | l :: rest =>
    let me := ((g.lane l).pc.toNat, (g.lane l).r)
    match g.lowestPair rest with
    | none => some me
    | some p => if me.1 < p.1 ∨ (me.1 = p.1 ∧ me.2 ≤ p.2) then some me else some p

/-- The lanes that issue, with their pair (IssueSet of R196, R390). -/
def Group.issueSet (g : Group) : Option (Nat × Nat × LaneSet) :=
  let c := g.candidates
  match g.lowestPair (lanesOf c) with
  | none => none
  | some (pc, r) =>
    some (pc, r, laneSetOf fun l => c.getLsbD l && (g.lane l).pc.toNat == pc && (g.lane l).r == r)

end Sys2Proof.Machine
end

