-- ==== Sys2Proof/Machine/Version.lean ====
section
/-! DEFINITION. Versions of lines, snapshot keys and the collector (spec/03, R74 to R100): the order of stamps, demotion and spill,
revocation, the selection of a version under a key. -/

namespace Sys2Proof.Machine

open Sys2Proof

/-! ## Windows and stamps -/

/-- Window numbers are 32 bits wide (R74). -/
def winMod : Nat := 2 ^ 32

/-- A window n later, or earlier for a negative n. -/
def winAdd (w : Nat) (n : Int) : Nat := (((w : Int) + n) % (winMod : Int)).toNat

/-- Window a precedes window b (R75). -/
def winBefore (a b : Nat) : Bool :=
  let d := (b + winMod - a % winMod) % winMod
  decide (1 ≤ d ∧ d ≤ 2 ^ 31 - 1)

/-- Window a is b or precedes it. -/
def winLe (a b : Nat) : Bool := a == b || winBefore a b

/-- The device is being moved (R422): its cut window has been entered, its groups are halted, and it issues no fabric operation. -/
def Device.moving (d : Device) : Bool :=
  match d.cut with
  | some m => winLe m d.window
  | none => false

/-- The window and sequence number of a 48-bit key (R75). -/
def keyWindow (k : Nat) : Nat := k / 2 ^ 16 % winMod
/-- The key of a window (R75). -/
def keyOf (w : Nat) : Nat := w % winMod * 2 ^ 16 + 0xFFFF

/-- A version's stamp does not follow a key (R75, R76, R86). -/
def Stamp.under (s : Stamp) (key : Nat) : Bool := s.settled || winLe s.window (keyWindow key)

/-- A stamp follows a key: the negation of `under` for a stamp of a committed version (R90). -/
def Stamp.after (s : Stamp) (key : Nat) : Bool := !s.under key

/-- The stamp of a line mapped with VER = 1 that has not been written since (R78). -/
def Stamp.initial : Stamp := { window := 0, seq := 0, settled := true }

/-- The later of two windows (R79). -/
def laterWin (a b : Nat) : Nat := if winBefore a b then b else a

/-! ## Lines -/

/-- The line of a byte. -/
def lineOf (a : Nat) : Nat := a / lineBytes

/-- The bytes of a line in its frame. -/
def State.frame (s : State) (line : Nat) : List Byte := s.mem.readAll (line * lineBytes) lineBytes

/-- The version set of a line; one not listed holds a single settled version (R78). -/
def State.versionsOf (s : State) (part line : Nat) : VersionSet :=
  s.versions.get line { part := part, newest := Stamp.initial, older := [], lock := none }

/-- A line is locked by a commit (R78, R90). -/
def State.locked (s : State) (line : Nat) : Bool :=
  match s.versions.look line with
  | some v => v.lock.isSome
  | none => false

/-- A read of a line under a key goes on: no commit has locked the line, or the key precedes the stamp that the commit is to give it,
which cannot be of an earlier window than its device's (R78, R90). -/
def State.keyPasses (s : State) (line key : Nat) : Bool :=
  match (s.versions.look line).bind (·.lock) with
  | none => true
  | some (c, k) => match s.group? c k with
    | some g => winBefore (keyWindow key) (s.device (s.vdOf g)).window
    | none => false

/-- Records of a partition's resident or overflow area in use: `VRUSED` and `VOUSED` (R97, R98). -/
def State.recordsUsed (s : State) (part : Nat) (resident : Bool) : Nat :=
  (s.versions.filter fun x => x.2.part == part).foldl
    (fun n x => n + (x.2.older.filter fun v => v.resident == resident).length) 0

/-- The bytes that a key selects (R86): those of the newest version whose stamp does not follow it. Only a revoked key can find no
such version (R95), and then the bytes are free (log 22). -/
def State.lineUnder (s : State) (part line key : Nat) : List Byte :=
  let vs := s.versionsOf part line
  if vs.newest.under key then s.frame line
  else match vs.older.find? fun v => v.stamp.under key with
    | some v => v.data
    | none => (List.range lineBytes).map fun i => Config.lostVersion s.tick (line * lineBytes + i)

/-! ## Keys -/

/-- The live keys of a partition (R82). -/
def Partition.liveKeys (p : Partition) : List Nat := p.snaps.map fun e => e.2.key

/-- The oldest of a list of entries: no other key's window precedes its window (R96, R100). -/
def oldestEntry : Tab SnapEntry → Option (Nat × SnapEntry)
  | [] => none
  | e :: rest =>
    match oldestEntry rest with
    | none => some e
    | some o => if winBefore (keyWindow o.2.key) (keyWindow e.2.key) then some o else some e

/-- The key register of an open snapshot (R84). -/
def keyRegister (entry key : Nat) : DWord := BitVec.ofNat 64 (2 ^ 63 + entry % 64 * 2 ^ 48 + key % 2 ^ 48)
def keyValid (z : DWord) : Bool := z.getLsbD 63
def keyRevoked (z : DWord) : Bool := z.getLsbD 62
def keyEntry (z : DWord) : Nat := bits z 48 6
def keyBits (z : DWord) : Nat := bits z 0 48

/-- One holder less of an entry; the entry is freed with its last holder (R82). -/
def State.dropHold (s : State) (part entry : Nat) : State :=
  s.withPartition part fun p =>
    match p.snaps.look entry with
    | none => p
    | some e =>
      if e.count ≤ 1 then { p with snaps := p.snaps.del entry }
      else { p with snaps := p.snaps.put entry { e with count := e.count - 1 } }

/-- A key register is released (R84); the entry of a revoked key has left the table already (R96). -/
def State.releaseKey (s : State) (part : Nat) (z : DWord) : State :=
  if keyValid z && !keyRevoked z then s.dropHold part (keyEntry z) else s

/-- What an open gives (R83): the status, and the entry on status 0. A wait is for the window of the key to close. -/
inductive OpenResult where
  | opened (entry : Nat) | refused (status : Nat) | wait (window : Nat)
  deriving DecidableEq, Repr

/-- An open of a key in window M, in the order of the table of R83; c is the current window. A new key takes the lowest-numbered free
entry (DESIGN CHOICE, log 73). -/
def State.openResult (s : State) (part c m : Nat) : OpenResult :=
  let p := s.partition part
  let live := p.snaps.find? fun e => e.2.key == keyOf m
  if winLe (winAdd c 2) m then .refused 3
  else if winLe (winAdd c (-1)) m then .wait m
  else if (match p.floor with
    | some f => winBefore m f
    | none => false) then .refused 2
  else match live with
    | some e => .opened e.1
    | none =>
      if winBefore m (winAdd c (-2 - (s.hold part : Int))) then .refused 2
      else match p.snaps.freshFrom 64 0 with
        | some e => .opened e
        | none => .refused 1

/-- The hold of an open that was granted (R82, R83). -/
def State.addHold (s : State) (part entry key : Nat) : State :=
  s.withPartition part fun p =>
    match p.snaps.look entry with
    | some e => { p with snaps := p.snaps.put entry { e with count := e.count + 1 } }
    | none => { p with snaps := p.snaps.put entry { key := key, count := 1 } }

/-! ## Transactions -/

/-- `txs` (R91). -/
def txsWord (act doom : Bool) (cause : Nat) (last : Bool) (kreg lines : Nat) : Word :=
  BitVec.ofNat 32 ((if act then 2 ^ 31 else 0) + (if doom then 2 ^ 30 else 0) + cause % 8 * 2 ^ 27 + (if last then 2 ^ 26 else 0)
    + kreg % 4 * 2 ^ 24 + lines % 512)
def txsLast (t : Word) : Bool := t.getLsbD 26
def txsKreg (t : Word) : Nat := t.toNat / 2 ^ 24 % 4

/-- The open transaction is doomed (R89): its buffered lines are discarded. A transaction already doomed keeps its cause. -/
def Group.doom (g : Group) (cause : Nat) : Group :=
  match g.tx with
  | none => g
  | some t =>
    if t.doom.isSome then g
    else { g with tx := some { t with doom := some cause, lines := [] },
                  txs := txsWord true true cause (txsLast g.txs) (txsKreg g.txs) 0 }

/-- REV set in a key register that holds an entry. -/
def markRevoked (entry : Nat) (z : DWord) : DWord :=
  if keyValid z && !keyRevoked z && keyEntry z == entry then z ||| BitVec.ofNat 64 (2 ^ 62) else z

/-- Key registers that hold an entry get REV = 1, and a transaction that started from it is doomed with cause 4 (R96). -/
def Group.revoke (g : Group) (entry : Nat) : Group :=
  let g1 := { g with keys := g.keys.mapAll fun _ z => markRevoked entry z }
  match g1.tx with
  | some t => if t.held && t.entry == entry then { (g1.doom 4) with tx := (g1.doom 4).tx.map fun x => { x with held := false } } else g1
  | none => g1

/-- The lanes of groups in saved gangs are groups too (R398). -/
def State.mapAllGroups (s : State) (f : Group → Group) : State :=
  { s with cores := s.cores.mapAll fun _ x =>
      { x with groups := x.groups.mapAll fun _ g => f g,
               gangs := x.gangs.mapAll fun _ y => { y with saved := { y.saved with groups := y.saved.groups.mapAll fun _ g => f g } } } }

/-- Revocation of an entry of a partition (R96): its holders are marked, the entry leaves the table, and `VREVOKE` records it. A
checkpoint under the key ends with status 4 (R437). -/
def State.revokeEntry (s : State) (part : Nat) (entry : Nat × SnapEntry) : State :=
  let mine (g : Group) : Bool := s.partOf g == part
  let s1 := s.mapAllGroups fun g => if mine g then g.revoke entry.1 else g
  let s2 := { s1 with
    launches := s1.launches.mapAll fun _ l =>
      if l.part == part then { l with snap := l.snap.map (markRevoked entry.1) } else l,
    devices := s1.devices.mapAll fun _ d =>
      match d.ckpt with
      | some k => if d.part == part && k.opened && k.entry == entry.1 then { d with ckpt := none, ckStatus := 4 } else d
      | none => d }
  s2.withPartition part fun p =>
    { p with snaps := p.snaps.del entry.1, revoked := min (p.revoked + 1) 0xFFFF, lastKey := entry.2.key }

/-! ## The collector -/

/-- The current window for a partition's versions: that of its device which is furthest behind (log 55). A partition without a virtual
device has no current window, and then the collector does nothing (DESIGN CHOICE, log 55). -/
def State.partWindow (s : State) (part : Nat) : Option Nat :=
  let ws := ((s.devices.filter fun d => d.2.part == part && d.2.state != .none).map fun d => d.2.window)
  match ws with
  | [] => none
  | w :: rest => some (rest.foldl (fun a b => if winBefore b a then b else a) w)

/-- The window by which a write of a device in window w reclaims (R92, R96): the partition's (log 55). -/
def State.collectAt (s : State) (part w : Nat) : Nat := (s.partWindow part).getD w

/-- A live key lies in [stamp(v), stamp(next)) (R93). -/
def keyBetween (keys : List Nat) (v next : Stamp) : Bool := keys.any fun k => v.under k && next.after k

/-- A version with the next newer stamp is reclaimable (R93); c is the current window. -/
def State.reclaimable (s : State) (part c : Nat) (v next : Stamp) : Bool :=
  winLe next.window (winAdd c (-2 - (s.hold part : Int))) && !keyBetween (s.partition part).liveKeys v next

/-- The older versions that stay, given the next newer stamp (R93). -/
def State.keepVersions (s : State) (part c : Nat) : Stamp → List Version → List Version
  | _, [] => []
  | next, v :: rest =>
    if s.reclaimable part c v.stamp next then s.keepVersions part c next rest
    else v :: s.keepVersions part c v.stamp rest

/-- The collector's work on one line (R93). -/
def State.reclaimLine (s : State) (c line : Nat) : State :=
  { s with versions := s.versions.change line fun vs => { vs with older := s.keepVersions vs.part c vs.newest vs.older } }

/-- The collector's work on every line of a partition (R96 step 2). -/
def State.reclaimAll (s : State) (part c : Nat) : State :=
  { s with versions := s.versions.mapAll fun _ vs =>
      if vs.part == part then { vs with older := s.keepVersions part c vs.newest vs.older } else vs }

/-- The oldest resident version of a list goes to the overflow area. -/
def spillOldest : List Version → List Version
  | [] => []
  | v :: rest =>
    if rest.any (·.resident) then v :: spillOldest rest
    else if v.resident then { v with resident := false } :: rest else v :: rest

/-- The oldest resident version of a list is discarded; `next` is the stamp of the next newer version. The window of that stamp is
returned with the list (R96 step 3). -/
def discardOldest : Stamp → List Version → Option (Nat × List Version)
  | _, [] => none
  | next, v :: rest =>
    match discardOldest v.stamp rest with
    | some (w, r) => some (w, v :: r)
    | none => if v.resident then some (next.window, rest) else none

/-- The oldest resident version of a line is discarded for want of room, and the floor rises (R96 step 3). -/
def State.discardFor (s : State) (part line : Nat) : State :=
  match s.versions.look line with
  | none => s
  | some vs =>
    match discardOldest vs.newest vs.older with
    | none => s
    | some (w, older) =>
      { s with versions := s.versions.put line { vs with older := older } }.withPartition part fun p =>
        { p with floor := some (match p.floor with
            | some f => if winLe w f then f else w
            | none => w) }

/-- The resident records of a line, and those of its partition, are no more than the line and the resident area can hold (R92). -/
def State.recordsFit (s : State) (part line : Nat) : Bool :=
  match s.versions.look line with
  | none => true
  | some vs =>
    decide ((vs.older.filter (·.resident)).length ≤ 3)
      && decide (s.recordsUsed part true ≤ bits ((s.partition part).ver.get 0x08 0) 0 32)

/-- A line's records are made to fit (R92, R96): its oldest resident version goes to the overflow area while that has room; else the
oldest live key is revoked, what it held is reclaimed, and the line is looked at again; with no key left, a version is discarded.
`fuel` is the number of revocations; a snapshot table has 64 entries. -/
def settleRecords (part c line : Nat) : Nat → State → State
  | fuel, s =>
    if s.recordsFit part line then s
    else if s.recordsUsed part false < bits ((s.partition part).ver.get 0x18 0) 0 32 then
      { s with versions := s.versions.change line fun vs => { vs with older := spillOldest vs.older } }
    else
      match fuel, oldestEntry (s.partition part).snaps with
      | n + 1, some e => settleRecords part c line n ((s.revokeEntry part e).reclaimAll part c)
      | _, _ => s.discardFor part line

/-! ## Settling (R94) -/

/-- A window lies 2^30 windows or more behind the current one, and not ahead of it in the order of R75 (R94). -/
def farBehind (c w : Nat) : Bool :=
  let d := (c + winMod - w % winMod) % winMod
  decide (2 ^ 30 ≤ d ∧ d < 2 ^ 31)

/-- A stamp lies 2^30 windows or more behind (R94). -/
def aged (c : Nat) (x : Stamp) : Bool := !x.settled && farBehind c x.window

/-- The oldest version of a list settled. -/
def settleLast : List Version → List Version
  | [] => []
  | [v] => [{ v with stamp := { v.stamp with settled := true } }]
  | v :: rest => v :: settleLast rest

/-- The oldest version of a version set. -/
def VersionSet.oldest (x : VersionSet) : Stamp := (x.older.getLast?.map (·.stamp)).getD x.newest

/-- The oldest version of a version set is settled. -/
def VersionSet.settle (x : VersionSet) : VersionSet :=
  if x.older.isEmpty then { x with newest := { x.newest with settled := true } } else { x with older := settleLast x.older }

/-- The collector's round through a partition (R93, R94): every reclaimable version goes, and every aged oldest version is settled. -/
def State.sweep (s : State) (part : Nat) : State :=
  match s.partWindow part with
  | none => s
  | some c =>
    let s1 := s.reclaimAll part c
    { s1 with versions := s1.versions.mapAll fun _ vs => if vs.part == part && aged c vs.oldest then vs.settle else vs }

/-! ## Writes to versioned lines (R79, R92) -/

/-- The newest version is demoted and a new one with the given stamp takes its place, its bytes still those of the old one (R79, R92). -/
def State.demote (s : State) (part c line : Nat) (stamp : Stamp) : State :=
  let vs := s.versionsOf part line
  let v : Version := { stamp := vs.newest, data := s.frame line, resident := true }
  if s.reclaimable part c vs.newest stamp then { s with versions := s.versions.put line { vs with newest := stamp } }
  else settleRecords part c line 64 { s with versions := s.versions.put line { vs with newest := stamp, older := v :: vs.older } }

/-- The version that a write of a device merges into (R79): the newest one if it is of the latest window, else a new one. -/
def State.versionFor (s : State) (vd : Nat) (carried : Option Nat) (line : Nat) : State :=
  let d := s.device vd
  let vs := s.versionsOf d.part line
  let w1 := match carried with
    | some m => laterWin d.window m
    | none => d.window
  let wnew := if vs.newest.settled then w1 else laterWin w1 vs.newest.window
  if !vs.newest.settled && vs.newest.window == wnew then s
  else s.demote d.part (s.collectAt d.part d.window) line { window := wnew, seq := 0, settled := false }

end Sys2Proof.Machine
end

