-- ==== Sys2Proof/Machine/Home.lean ====
section
/-! DEFINITION. The home of a line and the caches above it (spec/02, R52 to R73, and R79 to R81, R113, R115): where a line lives, wards,
fills and evictions, and the reads and writes that a home performs. The L2 and the LLC are coherent (R55), so the model keeps their
lines without data; an L1 keeps data, since it can be stale (R53). -/

namespace Sys2Proof.Machine

open Sys2Proof

/-! ## Placement (R54, R63) -/

/-- Exclusive-or of six-bit fields of a line number, up to `n` of them (R63: bits 12:7, 18:13, … of the address). -/
def foldSix : Nat → Nat → Nat
  | 0, _ => 0
  | n + 1, x => (x % 64) ^^^ foldSix n (x / 64)

/-- The home slice of a line (R63); the last field, bits 47:43, is extended with a zero bit. -/
def sliceOf (line : Nat) : Nat := foldSix 7 (line % 2 ^ 41)
/-- The LLC set of a line (R63). -/
def llcSet (line : Nat) : Nat := (line % 2 ^ 13) ^^^ (line / 2 ^ 13 % 2 ^ 13)
/-- The L2 set of a line (R54). -/
def l2Set (line : Nat) : Nat := (line % 2 ^ 15) ^^^ (line / 2 ^ 15 % 2 ^ 15)
/-- The L1 set of a line (R52). -/
def l1Set (line : Nat) : Nat := line % 128

/-! ## Wards (R66) -/

/-- Lanes of a group held on a ward of a line become eligible (R200, R316), in either bank. -/
def Group.wardFired (g : Group) (line : Nat) : Group := g.freeHolds (BitVec.allOnes 32) (· == .ward line)

/-- One waiter of a fired ward is woken: its lanes become eligible, or it reads its hasp again (R66, R173, R374). -/
def State.wake (s : State) (line : Nat) : Waiter → State
  | .lanes c k => s.withGroup c k fun g => g.wardFired line
  | .group c k => s.withGroup c k fun g =>
      match g.wait with
      | some (.hasp a p _) => { g with wait := some (.hasp a p true) }
      | _ => g
  | .channel h n => s.withHinge h fun x => { x with chans := x.chans.change n fun ch =>
      match ch.wait with
      | some (.hasp a p _) => { ch with wait := some (.hasp a p true) }
      | _ => ch }

/-- The wards on a line fire and their entries are freed. -/
def State.fireWards (s : State) (line : Nat) : State :=
  let n := sliceOf line
  let fired := (s.slice n).wards.filter fun w => w.line == line
  if fired.isEmpty then s
  else
    let s1 := s.withSlice n fun x => { x with wards := x.wards.filter fun w => w.line != line }
    fired.foldl (fun a w => w.waiters.foldl (fun b x => b.wake line x) a) s1

/-- A waiter is placed on the ward of a line: it shares an entry that exists, and displaces the oldest entry of a full slice (R66,
R316). -/
def State.placeWard (s : State) (line : Nat) (x : Waiter) : State :=
  let n := sliceOf line
  let ws := (s.slice n).wards
  if ws.any fun w => w.line == line then
    s.withSlice n fun y => { y with wards := ws.map fun w =>
      if w.line == line && !(w.waiters.contains x) then { w with waiters := w.waiters ++ [x] } else w }
  else
    let s1 := match ws with
      | [] => s
      | w :: _ => if 512 ≤ ws.length then s.fireWards w.line else s
    s1.withSlice n fun y => { y with wards := y.wards ++ [{ line := line, waiters := [x] }] }

/-- A waiter's entries are dropped (R202, R397). -/
def State.dropWaiter (s : State) (x : Waiter) : State :=
  { s with slices := s.slices.mapAll fun _ y =>
      { y with wards := (y.wards.map fun w => { w with waiters := w.waiters.filter (· != x) }).filter fun w => !w.waiters.isEmpty } }

/-! ## L2 and LLC -/

/-- The lines of HBM come first among module addresses (R21). -/
def hbmLines : Nat := 2 ^ 32

/-- The L2 of a die holds the line. -/
def Die.holds (d : Die) (line : Nat) : Bool := (d.l2.get (l2Set line) []).any fun y => y.line == line

/-- The home slice's record of a line follows the L2s (R55). -/
def State.noteHolders (s : State) (line : Nat) : State :=
  let ds := (s.dies.filter fun d => d.2.holds line).map (·.1)
  s.withSlice (sliceOf line) fun x => { x with holders := if ds.isEmpty then x.holders.del line else x.holders.put line ds }

/-- The same for every line that the record has. -/
def State.noteAllHolders (s : State) : State :=
  { s with slices := s.slices.mapAll fun _ x =>
      { x with holders := (x.holders.mapAll fun line _ => (s.dies.filter fun d => d.2.holds line).map (·.1)).filter fun e => !e.2.isEmpty } }

/-- A die without a line, which is also taken out of its fills under way. -/
def Die.dropLine (d : Die) (line : Nat) : Die :=
  { d with l2 := d.l2.change (l2Set line) fun ls => ls.filter fun y => y.line != line,
           fills := d.fills.filter fun f => f.line != line }

/-- A die that no longer has the right to write a line. -/
def Die.share (d : Die) (line : Nat) : Die :=
  { d with l2 := d.l2.change (l2Set line) fun ls => ls.map fun y => if y.line == line then { y with own := false } else y,
           fills := d.fills.map fun f => if f.line == line then { f with own := false } else f }

/-- The copies of a line in the L2s of other dies are removed before the home performs a write to the line or grants a die the right to
write it (R55). A write that the home itself performs (an atomic, a commit, a host or fabric write, a write to a versioned line) comes
from no die: the copies of all four dies go, the requester's too (DESIGN CHOICE, log 72). -/
def State.dropCopies (s : State) (line : Nat) (except : Option Nat) : State :=
  { s with dies := s.dies.mapAll fun d x => if some d == except then x else x.dropLine line }.noteHolders line

/-- The other dies keep their copies and lose the right to write the line, when a die reads it (R55). -/
def State.shareCopies (s : State) (line : Nat) (reader : Nat) : State :=
  { s with dies := s.dies.mapAll fun d x => if d == reader then x else x.share line }

/-- The release tag of a line (R115): that of a copy in an L2 or the LLC, else unknown. -/
def State.releaseTag (s : State) (line : Nat) : RelTag :=
  match (s.dies.filterMap fun d => ((d.2.l2.get (l2Set line) []).find? fun y => y.line == line)).head? with
  | some y => y.tag
  | none =>
    match ((s.slice (sliceOf line)).sets.get (llcSet line) []).find? fun y => y.line == line with
    | some y => y.tag
    | none => .unknown

/-- The tag after a release write by a core (R115). -/
def State.setTag (s : State) (line core : Nat) : State :=
  let mark2 (y : L2Line) : L2Line := if y.line == line then { y with tag := .core core } else y
  let mark3 (y : LlcLine) : LlcLine := if y.line == line then { y with tag := .core core } else y
  let s1 := { s with dies := s.dies.mapAll fun _ x => { x with l2 := x.l2.change (l2Set line) (List.map mark2) } }
  s1.withSlice (sliceOf line) fun x => { x with sets := x.sets.change (llcSet line) (List.map mark3) }

/-- Lines of an L2 filled by a device: `L2OCC` (R61, R69). -/
def Die.occupancy (d : Die) (vd : Nat) : Nat :=
  d.l2.foldl (fun n x => n + (x.2.filter fun y => y.vd == vd).length) 0

/-- Lines of a die's LLC slices filled by a device: `LLCOCC` (R61, R69). -/
def State.llcOccupancy (s : State) (die vd : Nat) : Nat :=
  (s.slices.filter fun x => x.1 / 16 == die).foldl
    (fun n x => n + x.2.sets.foldl (fun m y => m + (y.2.filter fun z => z.vd == vd).length) 0) 0

/-- The device is at or above an enabled limit (R62, R68). -/
def overLimit (r : DWord) (occupancy : Nat) : Bool := r.getLsbD 63 && decide (bits r 0 22 ≤ occupancy)

/-- The lowest-numbered of some ways that no line of a set uses. -/
def freeWay (used : List Nat) (ways : List Nat) : Option Nat := ways.find? fun w => !used.contains w

/-- The last element that satisfies a test: in a set ordered by use, the least recently used. -/
def lastThat {α : Type} (p : α → Bool) (l : List α) : Option α := l.reverse.find? p

/-- A line goes to the most recently used position, or to the least recently used one with the evict-first hint (R52). -/
def enter {α : Type} (ef : Bool) (x : α) (l : List α) : List α := if ef then l ++ [x] else x :: l

/-- The way of an ordinary fill (R56 step 2), among the ways that hold no kept line. -/
def ordinaryWay (set : List L2Line) (vd : Nat) (limited : Bool) : Option Nat :=
  let keptWays := (set.filter fun y => y.kept.isSome).map (·.way)
  let cands := (List.range 16).filter fun w => !keptWays.contains w
  match freeWay (set.map (·.way)) cands with
  | some w => some w
  | none =>
    match (if limited then lastThat (fun y => y.kept.isNone && y.vd == vd) set else none) with
    | some y => some y.way
    | none => (lastThat (fun y : L2Line => y.kept.isNone) set).map (·.way)

/-- The way of a fill into a keeper's ways (R56 step 1): none when each of them holds a kept line of the keeper. -/
def keptWay (set : List L2Line) (k : Nat) (ways : List Nat) : Option Nat :=
  let mine := (set.filter fun y => y.kept == some k).map (·.way)
  let cands := ways.filter fun w => !mine.contains w
  match cands with
  | [] => none
  | _ =>
    match freeWay (set.map (·.way)) (cands.mergeSort (· ≤ ·)) with
    | some w => some w
    | none => (lastThat (fun y : L2Line => y.kept.isNone && cands.contains y.way) set).map (·.way)

/-- The keeper that a fill matches (R59): the lowest-numbered one. -/
def Die.keeperFor (d : Die) (vd va : Nat) : Option (Nat × Keeper) :=
  d.keepers.find? fun k => k.2.en && k.2.vd == vd && decide (k.2.base ≤ va ∧ va < k.2.limit)

/-- The most recent use of a line of an L2, which does not move it with the evict-first hint (R52, R56). -/
def State.touchL2 (s : State) (die line : Nat) (ef : Bool) : State :=
  if ef then s
  else
    let first (ls : List L2Line) : List L2Line := ls.filter (fun y => y.line == line) ++ ls.filter fun y => y.line != line
    s.withDie die fun d => { d with l2 := d.l2.change (l2Set line) first }

/-- The way of a fill, and the keeper whose kept line it becomes (R56). -/
def State.fillWay (s : State) (die : Nat) (f : Fill) : Option (Nat × Option Nat) :=
  let d := s.die die
  let set := d.l2.get (l2Set f.line) []
  let ordinary := (ordinaryWay set f.vd (overLimit ((s.device f.vd).cache.get (8 * die) 0) (d.occupancy f.vd))).map fun w => (w, none)
  match f.keeper with
  | none => ordinary
  | some k =>
    match keptWay set k (d.keepers.get k Keeper.free).ways with
    | some w => some (w, some k)
    | none => ordinary

/-- A line that an L2 has evicted from a set goes back to its home when the L2 had the right to write it (R55, R64). -/
def State.evict (s : State) (die : Nat) (y : L2Line) : State :=
  let s1 := s.noteHolders y.line
  if y.own then
    { s1 with requests := s1.requests ++ [{ line := y.line, core := Config.cores, slot := 0, launch := 0, vd := y.vd,
                                            kind := .writeBack die y.tag }] }
  else s1

/-- An L2 fill (R56). A line already present moves as a hit does, and may gain the right to be written. -/
def State.fillL2 (s : State) (die : Nat) (f : Fill) : State :=
  if (s.die die).holds f.line then
    let gain (y : L2Line) : L2Line := if y.line == f.line then { y with own := y.own || f.own } else y
    (s.withDie die fun d => { d with l2 := d.l2.change (l2Set f.line) (List.map gain) }).touchL2 die f.line f.ef
  else
    match s.fillWay die f with
    | none => s
    | some (w, k) =>
      let set := (s.die die).l2.get (l2Set f.line) []
      let y : L2Line := { way := w, line := f.line, vd := f.vd, kept := k, tag := s.releaseTag f.line, own := f.own }
      let s1 := (s.withDie die fun x => { x with l2 := x.l2.put (l2Set f.line) (enter f.ef y (set.filter fun z => z.way != w)) }).noteHolders
        f.line
      match set.find? fun z => z.way == w with
      | some z => s1.evict die z
      | none => s1

/-- The way of an LLC fill of a device: one of its partition's mask, chosen as in R56 step 2 (R65). -/
def State.llcWay (s : State) (vd line : Nat) : Option Nat :=
  let n := sliceOf line
  let set := (s.slice n).sets.get (llcSet line) []
  let d := s.device vd
  let mask := ((s.partition d.part).ctl.get 0x10 0)
  let ways := (List.range 24).filter fun w => mask.getLsbD w
  let limited := overLimit (d.cache.get (0x40 + 8 * (n / 16)) 0) (s.llcOccupancy (n / 16) vd)
  match freeWay (set.map (·.way)) ways with
  | some w => some w
  | none =>
    match (if limited then lastThat (fun y : LlcLine => y.vd == vd && ways.contains y.way) set else none) with
    | some y => some y.way
    | none => (lastThat (fun y : LlcLine => ways.contains y.way) set).map (·.way)

/-- An LLC fill of a device (R65). Which requests fill the LLC the specification leaves open: those of an L2 for a line or for the right
to write it, the write-backs, and the reads of a walker do; atomics, snapshot loads, the accesses of ports and the reads of engines do not
(DESIGN CHOICE, log 72). -/
def State.fillLlc (s : State) (vd line : Nat) (tag : RelTag) (ef : Bool) : State :=
  let n := sliceOf line
  let set := (s.slice n).sets.get (llcSet line) []
  match set.find? fun y => y.line == line with
  | some y =>
    if ef then s else s.withSlice n fun x => { x with sets := x.sets.put (llcSet line) (y :: set.filter fun z => z.line != line) }
  | none =>
    match s.llcWay vd line with
    | none => s
    | some w =>
      let y : LlcLine := { way := w, line := line, vd := vd, tag := tag }
      s.withSlice n fun x => { x with sets := x.sets.put (llcSet line) (enter ef y (set.filter fun z => z.way != w)) }

/-- The line in the LLC. -/
def State.inLlc (s : State) (line : Nat) : Bool := ((s.slice (sliceOf line)).sets.get (llcSet line) []).any fun y => y.line == line

/-- `VBWLIM` (R412): a line that the home reads for a device, and that HBM must give because the LLC does not hold it. -/
def State.chargeLine (s : State) (vd line : Nat) : State :=
  if decide (line < hbmLines) && !s.inLlc line then s.charge vd lineBytes else s

/-- The L2 of a die takes the right to write a line that an engine of the die is about to write: the copies of the other dies are removed,
and the line is filled (R55, R56). Right and fill come within the step of the write (DESIGN CHOICE, log 72). -/
def State.takeRight (s : State) (vd die line : Nat) (keeper : Option Nat) (ef : Bool) : State :=
  if ((s.die die).l2.get (l2Set line) []).any fun y => y.line == line && y.own then s.touchL2 die line ef
  else
    let s1 := s.dropCopies line (some die)
    ((s1.chargeLine vd line).fillLlc vd line (s1.releaseTag line) ef).fillL2 die
      { line := line, vd := vd, keeper := keeper, ef := ef, own := true }

/-! ## Reads and writes at the home -/

/-- The bytes at a module address of a tier, as they stand: the newest committed version of a versioned line (R81). -/
def State.readMem (s : State) (t : Tier) (a n : Nat) : List Byte :=
  match t with
  | .host => s.host.readAll a n
  | _ => s.mem.readAll a n

/-- A natural number read at the home, least significant byte first (R141). -/
def State.readNat (s : State) (t : Tier) (a n : Nat) : Nat := ofBytes (s.readMem t a n)

/-- Who writes at a home: the device, the window that a fabric write carries, whether the page is versioned, the die whose L2 has
accepted the write, and the core of a release write (R55, R79, R115). -/
structure Source where
  vd : Nat
  carried : Option Nat
  ver : Bool
  die : Option Nat
  release : Option Nat
  deriving DecidableEq, Repr

/-- Bytes written one by one, in order. -/
def writeList (m : Memory) (bs : List (Nat × Byte)) : Memory := bs.foldl (fun a b => a.write b.1 b.2) m

/-- The lines that bytes touch, each once. -/
def linesOf (as : List Nat) : List Nat := (as.map lineOf).eraseDups

/-- Lines that an agent reads at their homes are charged to its device (R412). -/
def State.chargeRead (s : State) (vd a n : Nat) : State :=
  (linesOf ((List.range n).map (a + ·))).foldl (fun t line => t.chargeLine vd line) s

/-- Bytes stored in a tier of the module; a byte that was uncorrectable is whole again. -/
def State.putBytes (s : State) (bs : List (Nat × Byte)) : State :=
  { s with mem := writeList s.mem bs, poisoned := s.poisoned.filter fun a => !(bs.any fun b => b.1 == a) }

/-- A write to one line at its home (R55, R64, R66, R79, R81): the version it merges into, the bytes, the copies elsewhere, the release
tag, the wards. -/
def State.writeLine (s : State) (w : Source) (line : Nat) (bs : List (Nat × Byte)) : State :=
  let s1 := if w.ver then s.versionFor w.vd w.carried line else s
  let s3 := (s1.putBytes bs).dropCopies line w.die
  let s4 := match w.release with
    | some c => s3.setTag line c
    | none => s3
  (if line < hbmLines then s4.charge w.vd bs.length else s4).fireWards line

/-- A write of bytes at module addresses of a tier (R54, R55): host-tier bytes go to the host, others line by line to their homes. -/
def State.writeMem (s : State) (w : Source) (t : Tier) (bs : List (Nat × Byte)) : State :=
  match t with
  | .host => { s with host := writeList s.host bs }
  | _ => (linesOf (bs.map (·.1))).foldl (fun a line => a.writeLine w line (bs.filter fun b => lineOf b.1 == line)) s

/-- Bytes with their rising addresses. -/
def addressed (a : Nat) (bs : List Byte) : List (Nat × Byte) := bs.zipIdx.map fun (b, i) => (a + i, b)

/-- Some line of an access is locked (R78); host-tier lines never are. -/
def State.lockedAt (s : State) (t : Tier) (a n : Nat) : Option Nat :=
  match t with
  | .host => none
  | _ => (linesOf ((List.range n).map (a + ·))).find? s.locked

/-! ## L1 (R52, R53) -/

/-- The line in a core's L1. -/
def Core.l1Look (x : Core) (line : Nat) : Option L1Line := (x.l1.get (l1Set line) []).find? fun y => y.line == line

/-- A fill of the L1: the new line displaces the least recently used one of a full set (R52). -/
def Core.l1Fill (x : Core) (line : Nat) (data : List Byte) (ef : Bool) : Core :=
  let set := (x.l1.get (l1Set line) []).filter fun y => y.line != line
  { x with l1 := x.l1.put (l1Set line) (enter ef { line := line, data := data } (set.take 7)) }

/-- A hit without the evict-first hint moves the line to the front (R52). -/
def Core.l1Hit (x : Core) (line : Nat) (ef : Bool) : Core :=
  match x.l1Look line with
  | none => x
  | some y =>
    if ef then x
    else { x with l1 := x.l1.put (l1Set line) (y :: (x.l1.get (l1Set line) []).filter fun z => z.line != line) }

/-- The data of a line in the L1 replaced, in its place. -/
def Core.l1Refresh (x : Core) (line : Nat) (data : List Byte) : Core :=
  { x with l1 := x.l1.change (l1Set line) fun ls => ls.map fun y => if y.line == line then { y with data := data } else y }

/-- A store updates the copies of its lines in the L1, if there are any, and moves them as a hit does (R52). -/
def Core.l1Store (x : Core) (bs : List (Nat × Byte)) (ef : Bool) : Core :=
  (linesOf (bs.map (·.1))).foldl (fun c line => c.l1Hit line ef) (bs.foldl (fun c b =>
    { c with l1 := c.l1.change (l1Set (lineOf b.1)) fun ls => ls.map fun y =>
        if y.line == lineOf b.1 then { y with data := y.data.set (b.1 % lineBytes) b.2 } else y }) x)

/-- A line removed from the L1, as an atomic does (R52). -/
def Core.l1Drop (x : Core) (line : Nat) : Core :=
  { x with l1 := x.l1.change (l1Set line) fun ls => ls.filter fun y => y.line != line }

/-- Lines removed from the L1 of a core; a hinge processor, which issues from no core, has none. -/
def State.l1Drop (s : State) (c : Nat) (lines : List Nat) : State :=
  if c < Config.cores then s.withCore c fun x => lines.foldl (fun a l => a.l1Drop l) x else s

/-- Every line of the L1 invalidated, as an acquire at cluster scope or wider does (R53). -/
def Core.l1Clear (x : Core) : Core := { x with l1 := [] }

/-- A line's bytes with those that the core's store queue holds for it, which the L1 is to have once they are accepted (R52, R113). -/
def Core.queuedOver (x : Core) (line : Nat) (data : List Byte) : List Byte :=
  ((x.stores.filter fun e => e.tier != .host).flatMap (·.bytes)).foldl
    (fun d b => if lineOf b.1 == line then d.set (b.1 % lineBytes) b.2 else d) data

/-- The last of the bytes that a store queue holds for an address: the newest store (R113). -/
def Core.queuedByte (x : Core) (t : Tier) (a : Nat) : Option Byte :=
  ((x.stores.filter fun e => (e.tier == .host) == (t == .host)).flatMap fun e => e.bytes.filterMap fun b =>
    if b.1 == a then some b.2 else none).getLast?

end Sys2Proof.Machine
end

