-- ==== Sys2Proof/Machine/Xlate.lean ====
section
/-! DEFINITION. Translation (spec/01): canonical addresses, the page walk and its checks, TLBs and miss queues, windows and bounds, and the
translation of an access (R11 to R34). -/

namespace Sys2Proof.Machine

open Sys2Proof

/-- A global virtual address is canonical: bits 63:57 equal bit 56 (R11). -/
def canonical (a : Nat) : Bool := decide (a < 2 ^ 56 ∨ 2 ^ 64 - 2 ^ 56 ≤ a)

/-- The range [a, a + n) lies in canonical addresses and does not cross bit 56 (R210, R344). -/
def canonicalRange (a n : Nat) : Bool := decide (a + n ≤ 2 ^ 56 ∨ (2 ^ 64 - 2 ^ 56 ≤ a ∧ a + n ≤ 2 ^ 64))

/-- LEVEL when no walk was involved (R32). -/
def noLevel : Nat := 7

/-- The information word of a memory fault (R32). -/
def XFault.info (f : XFault) (kind : Access) (space : Nat) : Word :=
  BitVec.ofNat 32 (f.code % 256 * 2 ^ 24 + f.level % 8 * 2 ^ 21 + kind.code * 2 ^ 18 + f.tier % 4 * 2 ^ 16 + space % 16 * 2 ^ 12)

/-- The class of a fault code (R31): a lane trap, or else replayable. -/
def laneTrapCode (code : Nat) : Bool := [0x01, 0x07, 0x09, 0x0A, 0x0B, 0x0C].contains code

/-- What a memory fault raises (R31, R32, R394): the lane trap 0x01, or the replayable cause 0x01; a table that is poisoned is handled as
an uncorrectable memory error. -/
def XFault.raises (f : XFault) (kind : Access) (space : Nat) (addr : Nat) : Raise :=
  if laneTrapCode f.code then .trap .memory (f.info kind space) (BitVec.ofNat 64 addr)
  else if f.code = 0x08 then .replay .uncorrectable (f.info kind space) (BitVec.ofNat 64 addr)
  else .replay .memory (f.info kind space) (BitVec.ofNat 64 addr)

/-! ## The walk -/

def tierOf : Nat → Option Tier
  | 0 => some .hbm | 1 => some .second | 2 => some .host | _ => none

/-- A field of a page-table entry. -/
def ent (e lo n : Nat) : Nat := e / 2 ^ lo % 2 ^ n

/-- The bytes [a, a + n) of a tier lie in the device's window (R19). -/
def State.inWindow (s : State) (vd : Nat) (t : Tier) (a n : Nat) : Bool :=
  let w := s.window vd t
  decide (w.1 ≤ a ∧ a + n ≤ w.2)

/-- The module address of a partition-relative address (R19). -/
def State.reloc (s : State) (vd : Nat) (t : Tier) (a : Nat) : Nat := s.pbase (s.device vd).part t + a

/-- The size of a leaf (R15). -/
def leafSize (level : Nat) (s64 : Bool) : Nat :=
  match level with
  | 0 => if s64 then 2 ^ 16 else 2 ^ 12
  | 1 => 2 ^ 21
  | _ => 2 ^ 30

/-- Step 2 of R17: the entry at a level is reserved. `start` says that it may describe a 64 KiB page (R18). -/
def reservedEntry (e level : Nat) (start : Bool) : Bool :=
  let leaf := ent e 1 1 == 1
  let s64 := ent e 56 1 == 1
  ent e 46 10 != 0 || ent e 2 10 != 0 || (leaf && level ≥ 3) || (!leaf && level == 0) || (s64 && level != 0)
    || (!leaf && (ent e 61 3 != 0 || ent e 56 3 != 0)) || ent e 59 2 == 3 || (!leaf && ent e 59 2 == 2)
    || (ent e 63 1 == 1 && ent e 59 2 != 0) || (s64 && level == 0 && !start)

/-- The bytes [a, a + 8) of a table have an uncorrectable error (R31, code 0x08). -/
def State.poisonedAt (s : State) (a : Nat) : Bool := s.poisoned.any fun x => decide (a ≤ x ∧ x < a + 8)

/-- The entry that decides level 0 (R18): the aligned start of the sixteen when it is present with S64 = 1, else the entry of the
address; whether it is the start; and the addresses read. -/
def State.levelZero (s : State) (t : Tier) (table idx : Nat) : Nat × Bool × List Nat :=
  let a0 := table + 8 * (idx / 16 * 16)
  let e0 := s.readNat t a0 8
  if (ent e0 0 1 == 1 && ent e0 56 1 == 1) || idx % 16 == 0 then (e0, true, [a0])
  else (s.readNat t (table + 8 * idx) 8, false, [a0, table + 8 * idx])

/-- A walk (R15 to R18): how it ends, the entries it has passed that point to tables, by level, with the tier and address of the table
(R29), and the module addresses of the entries that it has read. -/
structure Walk where
  result : Except XFault Page
  tables : List (Nat × Tier × Nat)
  reads : List Nat

/-- A walk that ends at a level with a result. -/
def Walk.ends (r : Except XFault Page) (reads : List Nat) : Walk := { result := r, tables := [], reads := reads }

/-- The walk from a level down (R15 to R18); `level` counts levels still to read. TIER of the information word is that of the leaf once
the leaf's frame is looked at, and 0 before, as for a reserved leaf entry (DESIGN CHOICE, log 73). -/
def walkFrom (s : State) (vd va : Nat) (cached : Nat → Option (Tier × Nat)) : Nat → Tier → Nat → Walk
  | 0, _, _ => .ends (.error ⟨5, 0, 0⟩) []
  | l + 1, t, table =>
    match (if l = 0 then none else cached l) with
    | some (t2, table2) => walkFrom s vd va cached l t2 table2
    | none =>
      if !s.inWindow vd t table 4096 then .ends (.error ⟨7, l, 0⟩) []
      else
        let idx := ent va (12 + 9 * l) 9
        let base := s.reloc vd t table
        let (e, start, reads) : Nat × Bool × List Nat :=
          if l = 0 then s.levelZero t base idx else (s.readNat t (base + 8 * idx) 8, true, [base + 8 * idx])
        if reads.any s.poisonedAt then .ends (.error ⟨8, l, 0⟩) reads
        else if ent e 0 1 = 0 then .ends (.error ⟨2, l, 0⟩) reads
        else if reservedEntry e l start then .ends (.error ⟨5, l, 0⟩) reads
        else
          let frame := ent e 12 34 * 4096
          let t2 := (tierOf (ent e 59 2)).getD .hbm
          if ent e 1 1 = 0 then
            let w := walkFrom s vd va cached l t2 frame
            { w with tables := (l, t2, frame) :: w.tables, reads := reads ++ w.reads }
          else
            let size := leafSize l (ent e 56 1 == 1)
            if frame % size ≠ 0 then .ends (.error ⟨6, l, t2.code⟩) reads
            else
              .ends (.ok { base := va - va % size, size := size, frame := frame, ver := ent e 63 1 == 1, sa := ent e 62 1 == 1,
                           ef := ent e 61 1 == 1, tier := t2, x := ent e 58 1 == 1, w := ent e 57 1 == 1, level := l }) reads

/-- A whole walk for an address, from `GROOT` (R23), with the table entries that a non-leaf cache supplies. -/
def State.walkWith (s : State) (vd va : Nat) (cached : Nat → Option (Tier × Nat)) : Walk :=
  let g := (s.device vd).xlate.get 0 0
  match tierOf (bits g 10 2) with
  | some .host => .ends (.error ⟨5, 4, 0⟩) []
  | none => .ends (.error ⟨5, 4, 0⟩) []
  | some t => walkFrom s vd va cached 5 t (bits g 12 34 * 4096)

/-! ## The non-leaf cache of a die (R29) -/

/-- The table that a die's non-leaf cache gives for an address at a level (R29). -/
def Die.nonleafLook (d : Die) (vd va level : Nat) : Option (Tier × Nat) :=
  (d.nonleaf.find? fun e => e.vd == vd && e.level == level && e.index == va / 2 ^ (12 + 9 * level)).map fun e => (e.tier, e.table)

/-- Table entries that a walk has passed, held in the non-leaf cache of 512 entries. Which entry a full cache replaces the specification
leaves open: the newest go in front and the oldest is dropped (DESIGN CHOICE, log 72). -/
def Die.nonleafFill (d : Die) (vd va : Nat) (ns : List (Nat × Tier × Nat)) : Die :=
  let new := ns.map fun n => { vd := vd, level := n.1, index := va / 2 ^ (12 + 9 * n.1), tier := n.2.1, table := n.2.2 : NonLeaf }
  { d with nonleaf := (new ++ d.nonleaf.filter fun e => !new.contains e).take 512 }

/-- The walk of the walkers of a die, with their cache; an agent that belongs to no die walks without one (R168, log 72). -/
def State.walkOn (s : State) (die : Option Nat) (vd va : Nat) : Walk :=
  s.walkWith vd va (match die with
    | some d => (s.die d).nonleafLook vd va
    | none => fun _ => none)

/-- A line that a walk reads is locked by a commit, and the walk waits (R27, R78). -/
def State.walkLocked (s : State) (w : Walk) : Bool := w.reads.any fun a => s.locked (lineOf a)

/-- A mapped range of a versioned page: the device, the virtual address, the module address of its frame, its size. -/
def State.verRange (s : State) (vd : Nat) (p : Page) : Nat × Nat × Nat × Nat := (vd, p.base, s.reloc vd p.tier p.frame, p.size)

/-- A range is still mapped as it was found. -/
def State.stillMapped (s : State) (x : Nat × Nat × Nat × Nat) : Bool :=
  match (s.walkWith x.1 x.2.1 fun _ => none).result with
  | .ok p => p.ver && s.verRange x.1 p == x
  | .error _ => false

/-- A walk has found a page. A page that it finds mapped with VER = 1 for the first time, and whose frame no other mapping with VER = 1
holds, has just been mapped: its lines are in state single and settled (R78, log 74). -/
def State.notePage (s : State) (vd : Nat) (p : Page) : State :=
  let x := s.verRange vd p
  if !p.ver || s.verPages.contains x then s
  else
    let others := s.verPages.filter s.stillMapped
    let apart (y : Nat × Nat × Nat × Nat) : Bool := decide (y.2.2.1 + y.2.2.2 ≤ x.2.2.1 ∨ x.2.2.1 + x.2.2.2 ≤ y.2.2.1)
    let first (line : Nat) : Bool := decide (x.2.2.1 ≤ line * lineBytes ∧ line * lineBytes < x.2.2.1 + x.2.2.2)
    { s with verPages := others ++ [x],
             versions := if others.all apart then s.versions.filter fun v => !first v.1 || v.2.lock.isSome else s.versions }

/-- The mapped ranges of a device that are no longer mapped are forgotten when it invalidates its translations (R26, R78, log 74). -/
def State.recheckPages (s : State) (vd : Nat) : State :=
  { s with verPages := s.verPages.filter fun x => x.1 != vd || s.stillMapped x }

/-- What a walk leaves behind it: the lines that it read are in the LLC (R27, R65, log 72) and are charged when HBM gave them (R412), the
die's non-leaf cache holds its tables (R29), and the page found is noted. -/
def State.afterWalk (s : State) (die : Option Nat) (vd va : Nat) (w : Walk) : State :=
  let s1 := (linesOf w.reads).foldl (fun a line =>
    (a.chargeLine vd line).fillLlc vd line (a.releaseTag line) false) s
  let s2 := match die with
    | some d => s1.withDie d fun x => x.nonleafFill vd va w.tables
    | none => s1
  match w.result with
  | .ok p => s2.notePage vd p
  | .error _ => s2

/-! ## TLBs (R28) -/

/-- The entry serves an address of a device. -/
def TlbEntry.covers (e : TlbEntry) (vd va : Nat) : Bool :=
  e.vd == vd && decide (e.page.base ≤ va ∧ va < e.page.base + e.page.size)

/-- The four page sizes (R12). -/
def pageSizes : List Nat := [2 ^ 12, 2 ^ 16, 2 ^ 21, 2 ^ 30]

/-- The page that a core's TLBs hold for an address. -/
def Core.tlbLook (x : Core) (vd va : Nat) : Option Page :=
  match x.tlb1.find? fun e => e.covers vd va with
  | some e => some e.page
  | none =>
    ((pageSizes.filterMap fun z => (x.tlb2.get (va / z % 128) []).find? fun e => e.page.size == z && e.covers vd va).head?).map (·.page)

/-- An entry at the front of the first level, of at most 64 (R28). -/
def Core.tlbFirst (x : Core) (e : TlbEntry) : Core := { x with tlb1 := (e :: x.tlb1.filter (· != e)).take 64 }

/-- A walk result fills both levels (R28). In a set of the second level, for which the specification names no replacement, the entry used
longest ago goes (DESIGN CHOICE, log 72). -/
def Core.tlbFill (x : Core) (e : TlbEntry) : Core :=
  let k := e.page.base / e.page.size % 128
  let y := x.tlbFirst e
  { y with tlb2 := y.tlb2.put k ((e :: (y.tlb2.get k []).filter (· != e)).take 8) }

/-- A use of an address makes its entry the most recent of the levels that hold it; a second-level hit enters the first level (R28). -/
def Core.tlbUse (x : Core) (vd va : Nat) : Core :=
  match x.tlb1.find? fun e => e.covers vd va with
  | some e => x.tlbFirst e
  | none =>
    match (pageSizes.filterMap fun z => (x.tlb2.get (va / z % 128) []).find? fun e => e.page.size == z && e.covers vd va).head? with
    | some e => x.tlbFill e
    | none => x

/-- The span [lo, hi) of a device's translations removed from both levels (R26). -/
def Core.tlbRemove (x : Core) (vd lo hi : Nat) : Core :=
  let gone (e : TlbEntry) : Bool := e.vd == vd && decide (e.page.base < hi ∧ lo < e.page.base + e.page.size)
  { x with tlb1 := x.tlb1.filter fun e => !gone e, tlb2 := x.tlb2.mapAll fun _ es => es.filter fun e => !gone e }

/-! ## The translation of an access -/

/-- A piece of an access within one 4 KiB page: its virtual address, its bytes, its translation, its module address, and the level of its
leaf when a walk was made for it (R32). -/
structure Piece where
  va : Nat
  n : Nat
  page : Page
  addr : Nat
  level : Nat
  deriving DecidableEq, Repr

/-- How the translation of an access ends: its pieces; a fault with the address recorded; or the pages that must be walked. -/
inductive Translated where
  | ok (ps : List Piece)
  | fault (f : XFault) (addr : Nat)
  | miss (pages : List Nat)
  deriving DecidableEq, Repr

/-- What is known of a 4 KiB page: its walk's result, and whether a TLB gave it. -/
abbrev PageLook := Nat → Option (WalkResult × Bool)

/-- The pieces of [va, va + n), by 4 KiB page, as (address, bytes). Addresses are taken modulo 2^64. -/
def pieces (va n : Nat) : List (Nat × Nat) :=
  (List.range ((va + n - 1) / 4096 - va / 4096 + 1)).map fun i =>
    let p := va / 4096 + i
    let lo := max va (p * 4096)
    (lo % 2 ^ 64, min (va + n) (p * 4096 + 4096) - lo)

/-- The lowest byte of [a, a + n) that a window leaves out; `va` is the virtual address of a. -/
def windowByte (w : Nat × Nat) (a va : Nat) : Nat := if a < w.1 ∨ w.2 ≤ a then va else va + (w.2 - a)

/-- One piece under a page (R17 step 4, R19, R31): window, then the permission that the access needs. -/
def State.translatePiece (s : State) (vd : Nat) (kind : Access) (x : Nat × Nat) (r : WalkResult × Bool) : Except (XFault × Nat) Piece :=
  match r.1 with
  | .fault f => .error (f, x.1)
  | .page p =>
    let rel := p.frame + (x.1 - p.base)
    let level := if r.2 then noLevel else p.level
    if !s.inWindow vd p.tier rel x.2 then .error (⟨7, level, p.tier.code⟩, windowByte (s.window vd p.tier) rel x.1)
    else if (kind == .store || kind == .atomic || kind == .commit) && !p.w then .error (⟨3, level, p.tier.code⟩, x.1)
    else if kind == .fetch && !p.x then .error (⟨4, level, p.tier.code⟩, x.1)
    else .ok { va := x.1, n := x.2, page := p, addr := s.reloc vd p.tier rel, level := level }

/-- The pieces one after another: the first fault decides (R34). -/
def State.translatePieces (s : State) (look : PageLook) (vd : Nat) (kind : Access) :
    List (Nat × Nat) → Except (XFault × Nat) (List Piece)
  | [] => .ok []
  | x :: rest =>
    if !canonical x.1 then .error (⟨1, noLevel, 0⟩, x.1)
    else
      match look (x.1 / 4096) with
      | none => .error (⟨0, noLevel, 0⟩, x.1)
      | some r =>
        match s.translatePiece vd kind x r with
        | .error e => .error e
        | .ok p =>
          match s.translatePieces look vd kind rest with
          | .error e => .error e
          | .ok ps => .ok (p :: ps)

/-- The translation of [va, va + n): every page that nothing is known of is a miss; then all pages are translated before any byte
moves (R34). -/
def State.translate (s : State) (look : PageLook) (vd : Nat) (kind : Access) (va n : Nat) : Translated :=
  let xs := if n = 0 then [] else pieces va n
  let missing := (xs.filter fun x => canonical x.1 && (look (x.1 / 4096)).isNone).map fun x => x.1 / 4096
  if !missing.isEmpty then .miss missing
  else
    match s.translatePieces look vd kind xs with
    | .ok ps => .ok ps
    | .error (f, a) => .fault f a

/-- What a group knows of a page: its own walks for the instruction in progress, then its core's TLBs. -/
def State.groupLook (s : State) (core : Nat) (g : Group) (vd : Nat) : PageLook := fun p =>
  match g.walked.look p with
  | some r => some (r, false)
  | none => ((s.core core).tlbLook vd (p * 4096)).map fun q => (.page q, true)

/-- How a walk ended, as its requester is told. -/
def Walk.outcome (w : Walk) : WalkResult :=
  match w.result with
  | .ok p => .page p
  | .error f => .fault f

/-- What any other agent knows of a page: the walk that it makes, on the walkers of a die if it belongs to one; nothing yet while a line
of the walk is locked (R78). -/
def State.walkLook (s : State) (die : Option Nat) (vd : Nat) : PageLook := fun p =>
  let w := s.walkOn die vd (p * 4096)
  if s.walkLocked w then none else some (w.outcome, false)

/-- The translation of an access of a group. -/
def State.translateGroup (s : State) (core : Nat) (g : Group) (kind : Access) (va n : Nat) : Translated :=
  let vd := s.vdOf g
  s.translate (s.groupLook core g vd) vd kind va n

/-- The translation of an access of any other agent of a device, which walks as it needs; a miss means that a walk has to wait. -/
def State.translateOn (s : State) (die : Option Nat) (vd : Nat) (kind : Access) (va n : Nat) : Translated :=
  s.translate (s.walkLook die vd) vd kind va n

/-- The same for an agent that belongs to no die. -/
def State.translateAgent (s : State) (vd : Nat) (kind : Access) (va n : Nat) : Translated := s.translateOn none vd kind va n

/-- What the walks of an agent's access leave behind them. -/
def State.agentWalks (s : State) (die : Option Nat) (vd va n : Nat) : State :=
  ((if n = 0 then [] else pieces va n).filter fun x => canonical x.1).foldl (fun a x =>
    let p := x.1 / 4096 * 4096
    a.afterWalk die vd p (a.walkOn die vd p)) s

/-- The module address of each byte of translated pieces, with its tier and whether its page is versioned, in rising order. -/
def byteAddrs (ps : List Piece) : List (Nat × Piece) := ps.flatMap fun p => (List.range p.n).map fun i => (p.addr + i, p)

/-- A group sends its misses and waits (R29): one for each page it has not sent yet, as far as the die's queue has room. -/
def State.sendMisses (s : State) (c k : Nat) (vd : Nat) (pages : List Nat) : State :=
  let s1 := s.withDie (dieOf c) fun d =>
    let mine := pages.eraseDups.filter fun p => !(d.misses.any fun m => m.core == c && m.slot == k && m.vd == vd && m.page == p)
    { d with misses := d.misses ++ ((mine.take (256 - d.misses.length)).map fun p =>
        { vd := vd, page := p, core := c, slot := k, walking := false }) }
  s1.withGroup c k fun g => g.waitOn .walk

/-- The pages that accesses have used, by address and bytes, become the most recent of the TLBs (R28). -/
def State.usePages (s : State) (c : Nat) (vd : Nat) (spans : List (Nat × Nat)) : State :=
  let ps := spans.flatMap fun x => if x.2 = 0 then [] else (pieces x.1 x.2).map fun y => y.1 / 4096
  s.withCore c fun x => ps.eraseDups.foldl (fun a p => a.tlbUse vd (p * 4096)) x

end Sys2Proof.Machine
end

