-- ==== Sys2Proof/Machine/Packet.lean ====
section
/-! DEFINITION. The launch packet (R207 to R210): its fields, the checks of its acceptance (R3, R43, R184, R186, R192, R211), and the work
identifiers, roles and gangs that it describes (R183 to R187, R192). -/

namespace Sys2Proof.Machine

open Sys2Proof

/-- n bytes of a record at an offset, least significant first (R141). -/
def field (b : List Byte) (off n : Nat) : Nat := ofBytes ((b.drop off).take n)

/-! ## Fields (R207 to R210) -/

abbrev Packet := List Byte

def pkCode (p : Packet) : Nat := field p 0x000 8
def pkMajor (p : Packet) : Nat := field p 0x009 1
def pkMinor (p : Packet) : Nat := field p 0x008 1
def pkVdev (p : Packet) : Nat := field p 0x00C 2
def pkPrio (p : Packet) : Nat := field p 0x00E 1
def pkShape (p : Packet) : Nat := field p 0x010 4
def pkScratch (p : Packet) : Nat := field p 0x014 4
def pkWbits (p : Packet) (i : Nat) : Nat := field p (0x018 + i) 1
/-- WEXT i; the packet holds WEXT i − 1 (R207). -/
def pkWext (p : Packet) (i : Nat) : Nat := field p (0x020 + 8 * i) 8 + 1
def pkRole (p : Packet) (i : Nat) : Nat := field p (0x050 + 8 * i) 8
def pkSnap (p : Packet) : Nat := field p 0x070 8
def pkColl (p : Packet) : Nat := field p 0x078 8
def pkRanges (p : Packet) : Nat := field p 0x080 2
def pkDone (p : Packet) : Nat := field p 0x088 8
def pkRing (p : Packet) (i : Nat) : Nat := field p (0x100 + 8 * i) 8
def pkRangeBase (p : Packet) (i : Nat) : Nat := field p (0x180 + 16 * i) 8
def pkRangeWord (p : Packet) (i : Nat) : Nat := field p (0x188 + 16 * i) 8

/-- SHAPE (R208). -/
def pkWW (p : Packet) : Nat := ent (pkShape p) 30 2
def pkMark (p : Packet) (i : Nat) : Nat := ent (pkShape p) (27 - 3 * i) 3
def pkPanels (p : Packet) : Nat := ent (pkShape p) 14 4
def pkTiles (p : Packet) : Nat := ent (pkShape p) 8 6
def pkWdog (p : Packet) : Nat := ent (pkShape p) 0 8

/-- A role entry (R209): ENTRY, KIND, BUDGET in registers, NG. -/
def roleEntry (r : Nat) : Nat := ent r 32 32
def roleKind (r : Nat) : Nat := ent r 16 2
def roleBudget (r : Nat) : Nat := 32 * (ent r 14 2 + 1)
def roleNg (r : Nat) : Nat := ent r 7 7

/-- A range entry (R210): base, size, and whether it is a write range. -/
def pkRange (p : Packet) (i : Nat) : Nat × Nat × Bool :=
  (pkRangeBase p i, ent (pkRangeWord p i) 0 57, ent (pkRangeWord p i) 63 1 == 1)

/-- A ring descriptor (R43): SLOTS, SROWS, BASE. -/
def ringSlots (d : Nat) : Nat := ent d 32 8
def ringRows (d : Nat) : Nat := ent d 19 13
def ringBase (d : Nat) : Nat := ent d 0 13

/-! ## Work (R183 to R187, R192) -/

/-- NGRP (R192). -/
def pkGroups (p : Packet) : Nat := ((List.range 4).map fun i => roleNg (pkRole p i)).foldl (· + ·) 0

/-- The least k with n ≤ 2^k, for n up to 64 (R184). -/
def ceilLog (n : Nat) : Nat := ((List.range 7).find? fun k => decide (n ≤ 2 ^ k)).getD 7

/-- g of R184. -/
def pkG (p : Packet) : Nat := ceilLog (pkGroups p)

/-- S(i) of R184: the sum of the widths below field i. -/
def pkS (p : Packet) (i : Nat) : Nat := ((List.range i).map (pkWbits p)).foldl (· + ·) 0

/-- B of R184. -/
def pkB (p : Packet) : Nat := pkS p 6

/-- Rows of a gang's scratchpad (R41). -/
def pkRows (p : Packet) : Nat := (pkScratch p + 147) / 148

/-- The value of field i of an identifier (R184). -/
def workField (p : Packet) (x i : Nat) : Nat := x / 2 ^ pkS p i % 2 ^ pkWbits p i

/-- A lane with the identifier is created not exited (R185). -/
def liveId (p : Packet) (x : Nat) : Bool :=
  decide (x < 2 ^ pkB p) && (List.range 6).all fun i => decide (workField p x i < pkWext p i)

/-- The identifier of a lane (R185). -/
def workId (p : Packet) (gang gidx lane : Nat) : Nat := gang * 2 ^ (5 + pkG p) + gidx * 32 + lane

/-- The highest field of an identifier whose value reaches its extent. -/
def failingField (p : Packet) (x : Nat) : Option Nat :=
  ((List.range 6).reverse).find? fun i => decide (pkWext p i ≤ workField p x i)

/-- The least identifier from x on whose fields are all below their extents; each step carries out of the highest failing field, so
that at most six are made. -/
def nextLive (p : Packet) : Nat → Nat → Option Nat
  | 0, _ => none
  | fuel + 1, x =>
    if 2 ^ pkB p ≤ x then none
    else
      match failingField p x with
      | none => some x
      | some i => nextLive p fuel ((x / 2 ^ pkS p (i + 1) + 1) * 2 ^ pkS p (i + 1))

/-- The least gang number from n on that is created (R185): a gang is created when the identifier of its first lane is live, since
the low bits of that identifier are zero. -/
def nextGang (p : Packet) (n : Nat) : Option Nat :=
  (nextLive p 7 (n * 2 ^ (5 + pkG p))).map fun x => x / 2 ^ (5 + pkG p)

/-- The groups of a gang that are created, by GIDX (R185). -/
def liveGroups (p : Packet) (gang : Nat) : List Nat :=
  (List.range (pkGroups p)).filter fun g => (List.range 32).any fun l => liveId p (workId p gang g l)

/-- The role entry of a group and its index within the role (R192, R194). -/
def roleOf (p : Packet) (gidx : Nat) : Nat × Nat :=
  let starts := (List.range 4).map fun i => ((List.range i).map fun j => roleNg (pkRole p j)).foldl (· + ·) 0
  match (List.range 4).find? fun i => decide (starts.getD i 0 ≤ gidx ∧ gidx < starts.getD i 0 + roleNg (pkRole p i)) with
  | some i => (i, gidx - starts.getD i 0)
  | none => (0, 0)

/-- `ginfo` (R194). -/
def ginfoWord (p : Packet) (gidx : Nat) : Word :=
  let (i, ridx) := roleOf p gidx
  BitVec.ofNat 32 (roleKind (pkRole p i) * 2 ^ 22 + ridx % 64 * 2 ^ 16 + i * 2 ^ 14 + gidx % 64 * 2 ^ 7 + pkGroups p % 128)

/-- The vector registers of a group (R192). -/
def pkBudget (p : Packet) (gidx : Nat) : Nat := roleBudget (pkRole p (roleOf p gidx).1)

/-- The gangs of a cluster set are those of one set number (R187); without a mark each gang stands alone. -/
def setShift (p : Packet) : Nat := if pkMark p 3 = 7 then 0 else pkS p (pkMark p 3) - (5 + pkG p)
def setOf (p : Packet) (gang : Nat) : Nat := gang / 2 ^ setShift p

/-- The created gangs of the cluster set that begins with a gang (R187), at most eight. -/
def setGangs (p : Packet) (gang : Nat) : List Nat :=
  if pkMark p 3 = 7 then [gang]
  else (((List.range 8).map (gang + ·)).filter fun n => setOf p n == setOf p gang && nextGang p n == some n)

/-! ## Checks of acceptance (R211, statuses 1 to 7) -/

/-- Some byte of a range of a packet is not 0. -/
def dirty (p : Packet) (off n : Nat) : Bool := field p off n != 0

/-- A reserved bit or byte of the packet is nonzero (R207 to R210), ring descriptors apart. -/
def pkReserved (p : Packet) : Bool :=
  dirty p 0x00A 2 || decide (128 ≤ pkVdev p) || dirty p 0x00F 1 || dirty p 0x01E 2 || dirty p 0x082 6 || dirty p 0x090 112
    || ent (pkSnap p) 48 14 != 0
    || ((List.range 4).any fun i => ent (pkRole p i) 18 14 != 0 || ent (pkRole p i) 0 7 != 0)
    || ((List.range (min (pkRanges p) 32)).any fun i => ent (pkRangeWord p i) 57 6 != 0)

/-- R184 and R192: the field widths, their sum and the extents; NG, NGRP and ENTRY. -/
def pkWorkOk (p : Packet) : Bool :=
  ((List.range 6).all fun i => decide (pkWbits p i ≤ 64 ∧ pkWext p i ≤ 2 ^ pkWbits p i))
    && decide (5 + pkG p ≤ pkB p ∧ pkB p ≤ 64)
    && ((List.range 4).all fun i => decide (roleNg (pkRole p i) ≤ 64 ∧ roleEntry (pkRole p i) % 4 = 0))
    && decide (1 ≤ pkGroups p ∧ pkGroups p ≤ 64)

/-- A mark that is not 7 names a field in use, or bit B (R186). -/
def markNames (p : Packet) (m : Nat) : Bool := m == 7 || m == 6 || pkWbits p m != 0

/-- R186. -/
def pkMarksOk (p : Packet) : Bool :=
  let t := pkMark p 0
  let g := pkMark p 1
  let k := pkMark p 2
  let c := pkMark p 3
  let used := [t, g, k, c].filter (· != 7)
  markNames p t && markNames p g && markNames p k && markNames p c
    && (t == 7 || pkS p t == 3 + pkWW p) && (g == 7 || pkS p g == 5) && (k == 7 || pkS p k == 5 + pkG p)
    && (c == 7 || decide (5 + pkG p ≤ pkS p c ∧ pkS p c ≤ 8 + pkG p))
    && ((used.zip (used.drop 1)).all fun x => decide (x.1 ≤ x.2))

/-- A ring descriptor is refused for itself (R43). -/
def ringBad (rows d : Nat) : Bool :=
  ringSlots d != 0 && (ringRows d == 0 || ent d 40 24 != 0 || ent d 13 6 != 0
    || decide (rows < ringBase d + ringSlots d * ringRows d))

/-- Two used rings overlap (R43). -/
def ringsOverlap (d e : Nat) : Bool :=
  ringSlots d != 0 && ringSlots e != 0
    && decide (ringBase d < ringBase e + ringSlots e * ringRows e ∧ ringBase e < ringBase d + ringSlots d * ringRows d)

/-- The first ring that R43 refuses; of two that overlap, the higher-numbered one. -/
def badRing (p : Packet) : Option Nat :=
  (List.range 16).find? fun i => ringBad (pkRows p) (pkRing p i)
    || (List.range i).any fun j => ringsOverlap (pkRing p j) (pkRing p i)

/-- The first range that R210 refuses for its content. -/
def badRange (p : Packet) : Option Nat :=
  (List.range (pkRanges p)).find? fun i =>
    let (b, n, _) := pkRange p i
    n == 0 || !canonicalRange b n

/-- DONE is unusable (R211). -/
def doneBad (p : Packet) : Bool := pkDone p % 16 != 0 || !canonical (pkDone p)

/-- The first failing check of statuses 1 to 7, as (STATUS, DETAIL) (R211, R212). -/
def packetStatus (p : Packet) (vd : Nat) (enabled : Bool) : Option (Nat × Nat) :=
  if !([1, 2, 3].contains (pkMajor p)) || pkMinor p != 0 then some (1, 0)
  else if pkVdev p % 128 != vd || !enabled then some (2, 0)
  else if !canonical (pkCode p) || pkCode p % 4 != 0 || doneBad p || pkColl p % 64 != 0 || !canonical (pkColl p) then some (3, 0)
  else if pkWW p == 3 || !pkWorkOk p || !pkMarksOk p || decide (8 < pkPanels p ∨ 48 < pkTiles p ∨ 32 < pkRanges p ∨ 7 < pkPrio p)
      || pkReserved p then some (4, 0)
  else if decide (2 ^ 20 < ((List.range (pkGroups p)).map fun i => pkBudget p i * 128).foldl (· + ·) 0
      ∨ 1212416 < pkScratch p) then some (5, 0)
  else match badRing p with
    | some i => some (6, i)
    | none => (badRange p).map fun i => (7, i)

/-! ## Dependence (R126) -/

/-- Two ranges overlap. -/
def rangesMeet (a b : Nat × Nat × Bool) : Bool := decide (a.1 < b.1 + b.2.1 ∧ b.1 < a.1 + a.2.1)

/-- The later packet depends on the earlier one, both of one device (R126). -/
def dependsOn (later earlier : Packet) : Bool :=
  let rs (p : Packet) := (List.range (pkRanges p)).map (pkRange p)
  (rs later).any fun b => (rs earlier).any fun a => (b.2.2 || a.2.2) && rangesMeet a b

/-- The launch's level (R3) and its watchdog limit in cycles (R226). -/
def Launch.level (l : Launch) : Nat := pkMajor l.pkt

end Sys2Proof.Machine
end

