-- ==== Sys2Proof/Machine/Access.lean ====
section
/-! DEFINITION. What the memory instructions share (spec/12, R302 to R306): lane addresses, the latch check (R121 to R123), the translation
of the active lanes, scratchpad bytes, elements and registers, and the counters (R118). -/

namespace Sys2Proof.Machine

open Sys2Proof

/-! ## Addresses (R243) -/

/-- BASE + index × scale + OFF of a lane, modulo 2^64: the index is signed for global space, natural for the scratchpad. -/
def Group.laneAddr (g : Group) (tick : Nat) (glob : Bool) (a : MemAddr) (l : Nat) : Nat :=
  let base : Int := if glob then (g.spair a.base.toNat).toNat else (g.sreg a.base.toNat).toNat
  let idx : Int := match a.idx with
    | none => 0
    | some i =>
      let v := g.vread tick i.v.toNat l
      (if glob then v.toInt else (v.toNat : Int)) * (2 ^ i.scale.toNat : Nat)
  ((base + idx + a.off.toInt) % (2 ^ 64 : Nat)).toNat

/-- The index register is below the budget (R193). -/
def Group.addrOk (g : Group) (a : MemAddr) : Bool :=
  match a.idx with
  | none => true
  | some i => g.inBudget i.v.toNat 1

/-! ## Counters (R118) -/

/-- The operations of a counter. -/
def Group.counted (g : Group) : Counter → List Counted
  | .loads => g.loads | .stores => g.stores | .copies => g.copies | .tiles => g.tiles

def Group.setCounted (g : Group) (c : Counter) (l : List Counted) : Group :=
  match c with
  | .loads => { g with loads := l } | .stores => { g with stores := l }
  | .copies => { g with copies := l } | .tiles => { g with tiles := l }

/-- Operations retire in the order of issue (R118). -/
def retire (l : List Counted) : List Counted := l.dropWhile (·.done)

/-- An operation is counted; one that is complete at once still waits for the older ones (R118). -/
def Group.count (g : Group) (c : Counter) (op : Nat) (done : Bool) : Group :=
  g.setCounted c (retire (g.counted c ++ [{ op := op, done := done }]))

/-- An operation of a counter is complete (R118). -/
def Group.finish (g : Group) (c : Counter) (op : Nat) : Group :=
  g.setCounted c (retire ((g.counted c).map fun x => if x.op == op then { x with done := true } else x))

/-- A counted instruction writes its registers (R118, R232). -/
def Group.deliver (g : Group) (op : Nat) : Group :=
  { g with vregs := (g.pend.filter fun p => p.op == op).foldl (fun t p => t.put p.key p.val) g.vregs,
           pend := g.pend.filter fun p => p.op != op, asked := g.asked.del op }

/-- Register writes that a counted instruction is to deliver (R232). -/
def Group.expect (g : Group) (ps : List PendingReg) : Group := { g with pend := g.pend ++ ps }

/-- A number for a new operation. -/
def State.newOp (s : State) : State := { s with nextOp := s.nextOp + 1 }

/-! ## Latches (R121 to R123) -/

/-- The lowest-numbered entry that an access matches and that stops it: a destination entry, or any entry for a write (R121, R122).
`gang` names the gang of a scratchpad access; a global access has none. -/
def Core.latchHit (x : Core) (gang : Option Nat) (vd lo n : Nat) (writes : Bool) : Option (Nat × Latch) :=
  x.latches.find? fun e =>
    (e.2.dest || writes) && decide (lo < e.2.hi ∧ e.2.lo < lo + n)
      && (match gang with
          | none => e.2.global && e.2.vd == vd
          | some m => !e.2.global && e.2.gang == m)

/-- The information word of a latch conflict (R123). -/
def Group.latchInfo (g : Group) (e : Nat × Latch) : Word :=
  let c : Counter := if e.2.tile then .tiles else .copies
  let after := (g.counted c).dropWhile fun x => x.op != e.2.op
  let own := !after.isEmpty
  BitVec.ofNat 32 ((if own then 2 ^ 31 else 0) + (if e.2.dest then 2 ^ 30 else 0) + (if e.2.tile then 3 else 2) * 2 ^ 28
    + (if own then min (after.length - 1) 6 else 0) * 2 ^ 25 + e.1 % 64 * 2 ^ 19 + e.2.slot % 64 * 2 ^ 13
    + (if e.2.global then 0 else 1) * 2 ^ 9)

/-! ## The lanes of a global access -/

/-- The active lanes with their addresses. -/
def Group.laneAddrs (g : Group) (tick : Nat) (glob : Bool) (a : MemAddr) : List (Nat × Nat) :=
  (lanesOf g.clause.active).map fun l => (l, g.laneAddr tick glob a l)

/-- The translations of some lanes' accesses of n bytes. -/
def State.translateLanes (s : State) (c : Nat) (g : Group) (kind : Access) (n : Nat) (as : List (Nat × Nat)) :
    List (Nat × Nat × Translated) :=
  as.map fun (l, a) => (l, a, s.translateGroup c g kind a n)

/-- The pages that translations miss. -/
def missesOf (ts : List (Nat × Nat × Translated)) : List Nat :=
  ts.flatMap fun t => match t.2.2 with
    | .miss ps => ps
    | _ => []

/-- The lanes whose access goes on, with their addresses and pieces; a lane that faults or that a latch stops leaves the clause
(R33, R122). `latched` is false where no latch is looked at. -/
def Group.sortLanes (g : Group) (x : Core) (vd n : Nat) (kind : Access) (writes latched : Bool) :
    List (Nat × Nat × Translated) → Group × List (Nat × Nat × List Piece)
  | [] => (g, [])
  | (l, a, t) :: rest =>
    match t with
    | .ok ps =>
      match (if latched then x.latchHit none vd a n writes else none) with
      | some e => (g.raiseLane l (.trap .latch (g.latchInfo e) (BitVec.ofNat 64 a))).sortLanes x vd n kind writes latched rest
      | none =>
        let (g2, live) := g.sortLanes x vd n kind writes latched rest
        (g2, (l, a, ps) :: live)
    | .fault f b => (g.raiseLane l (f.raises kind 0 b)).sortLanes x vd n kind writes latched rest
    | .miss _ => g.sortLanes x vd n kind writes latched rest

/-- The first locked line that some pieces touch (R78). -/
def State.lockedIn (s : State) (ps : List Piece) : Option Nat :=
  (ps.filterMap fun p => s.lockedAt p.page.tier p.addr p.n).head?

/-- The alignment trap of a lane (R306, R386): INFO has CODE 0. -/
def alignTrap (kind : Access) (space : Nat) (a : Nat) : Raise :=
  .trap .alignment ((⟨0, noLevel, 0⟩ : XFault).info kind space) (BitVec.ofNat 64 a)

/-- Lanes whose address is not a multiple of z take the alignment trap before any translation (R306); the others are returned. -/
def Group.alignLanes (g : Group) (z : Nat) (kind : Access) (space : Nat) : List (Nat × Nat) → Group × List (Nat × Nat)
  | [] => (g, [])
  | (l, a) :: rest =>
    if a % z = 0 then
      let (g2, ok) := g.alignLanes z kind space rest
      (g2, (l, a) :: ok)
    else (g.raiseLane l (alignTrap kind space a)).alignLanes z kind space rest

/-! ## Elements and registers (R304) -/

/-- The value of an element as a register holds it: `.i8` and `.i16` are sign-extended. -/
def extendElem (z : Nat) (signed : Bool) (v : Nat) : Nat :=
  if signed && z < 4 then Num.wrap 32 (BitVec.ofNat (8 * z) v).toInt else v

/-- The register writes of a lane's loaded bytes: elements of z bytes from register d on. -/
def loadWrites (op d l z : Nat) (signed : Bool) (bs : List Byte) : List PendingReg :=
  (List.range (bs.length / z)).flatMap fun e =>
    let v := extendElem z signed (ofBytes ((bs.drop (e * z)).take z))
    if z = 8 then
      [{ op := op, key := vkey (d + 2 * e) l, val := BitVec.ofNat 32 v },
       { op := op, key := vkey (d + 2 * e + 1) l, val := BitVec.ofNat 32 (v / 2 ^ 32) }]
    else [{ op := op, key := vkey (d + e) l, val := BitVec.ofNat 32 v }]

/-- The bytes that a lane stores: the low z bytes of each element (R304). -/
def Group.storeBytes (g : Group) (tick d l z n : Nat) : List Byte :=
  (List.range (n / z)).flatMap fun e => toBytes z (g.velem tick (z == 8) d e l)

/-- The registers of an element span of n bytes. -/
def spanRegs (z n : Nat) : Nat := if z = 8 then 2 * (n / 8) else n / z

/-! ## Scratchpad (R7, R35) -/

/-- The bytes of a gang's allocation (R41). -/
def Gang.bound (y : Gang) : Nat := 148 * y.rows

/-- A scratchpad byte of a gang. -/
def Core.scratchByte (x : Core) (y : Gang) (o : Nat) : Byte := x.scratch.read (148 * y.base + o)
def Core.scratchRead (x : Core) (y : Gang) (o n : Nat) : List Byte := (List.range n).map fun i => x.scratchByte y (o + i)
def Core.scratchWrite (x : Core) (y : Gang) (o : Nat) (bs : List Byte) : Core :=
  { x with scratch := x.scratch.writeAll (148 * y.base + o) bs }

/-- The gang of a group; a group has one while it is resident. -/
def State.gangOf (s : State) (c : Nat) (g : Group) : Gang :=
  (s.gang? c g.gang).getD { launch := 0, number := 0, set := 0, base := 0, rows := 0, panels := [], tiles := [], slots := [],
                            created := 0, regs := 0, bars := [], rings := [], claims := [], populated := true, spilled := [], saved := Saved.empty }

/-- The scratchpad-bound fault (R7, R31). -/
def boundFault (kind : Access) (o : Nat) : Raise := (⟨0x0A, noLevel, 0⟩ : XFault).raises kind 1 o

/-- The lanes whose scratchpad access goes on (R7, R122). -/
def Group.sortScratch (g : Group) (x : Core) (gangNo : Nat) (y : Gang) (n : Nat) (kind : Access) (writes : Bool) :
    List (Nat × Nat) → Group × List (Nat × Nat)
  | [] => (g, [])
  | (l, o) :: rest =>
    if y.bound < o + n then (g.raiseLane l (boundFault kind o)).sortScratch x gangNo y n kind writes rest
    else
      match x.latchHit (some gangNo) 0 o n writes with
      | some e => (g.raiseLane l (.trap .latch (g.latchInfo e) (BitVec.ofNat 64 o))).sortScratch x gangNo y n kind writes rest
      | none =>
        let (g2, live) := g.sortScratch x gangNo y n kind writes rest
        (g2, (l, o) :: live)

/-! ## Orderings (R105, R113, R305) -/

def isAcquire (o : MemOrder) : Bool := o == .acq || o == .ar
def isRelease (o : MemOrder) : Bool := o == .rel || o == .ar
/-- The scope reaches beyond the core: cluster, die, device (R104). -/
def wideScope : Scope → Bool
  | .grp => false | .gang => false | _ => true

/-- A release waits until the group's earlier loads have their values, and at a wide scope until the L2 has accepted its earlier
stores (R53, R113, R305). -/
def releaseReady (g : Group) (wide : Bool) : Bool := g.loads.isEmpty && (!wide || g.stores.isEmpty)
def releaseWait (wide : Bool) : Wait := .counts 0 (if wide then 0 else 7) 7 7

/-- The lanes of a set that have executed a release fence: a synchronising store or atomic that follows acts as a release (R106). -/
def Group.releases (g : Group) (sync : Bool) (o : MemOrder) (l : Nat) : Bool := isRelease o || (sync && g.fenced.getLsbD l)

/-! ## Program order at one location (R110, R117) -/

/-- The tier and the bytes of an atomic or a hasp arrival on its way to its home. -/
def HomeReq.span (r : HomeReq) : Option (Bool × Nat × Nat) :=
  match r.kind with
  | .atomic _ _ z t _ a _ _ _ _ => some (t == .host, a, z)
  | .hasp _ a _ _ => some (false, a, 16)
  | _ => none

/-- A request of a core that is still to be performed on bytes of some pieces: an access that follows it waits, so that it finds what
the request leaves (R110). Its line is given. -/
def State.ownPending (s : State) (c : Nat) (ps : List Piece) : Option Nat :=
  (s.requests.find? fun r => r.core == c && (match r.span with
    | some (h, a, n) => ps.any fun p => (p.page.tier == .host) == h && decide (p.addr < a + n ∧ a < p.addr + p.n)
    | none => false)).map (·.line)

/-- The line that an access waits for: a locked one (R78), or one to which the core has a request on the way (R110). -/
def State.heldIn (s : State) (c : Nat) (locks ps : List Piece) : Option Nat :=
  match s.lockedIn locks with
  | some line => some line
  | none => s.ownPending c ps

/-- How many entries a core's store queue will have accepted when those that an atomic on some pieces follows are: those on bytes of the
pieces (R110), and, for an atomic on a versioned page, those on versioned pages, whose stamps must not have a later window (R136). -/
def Core.queuedOn (x : Core) (ps : List Piece) : Option Nat :=
  ((x.stores.zipIdx.filter fun e => ps.any fun p => (e.1.ver && p.page.ver) || ((p.page.tier == .host) == (e.1.tier == .host)
    && e.1.bytes.any fun b => decide (p.addr ≤ b.1 ∧ b.1 < p.addr + p.n))).getLast?).map fun e => x.accepted + e.2 + 1

/-- A request of a core, an atomic or a hasp arrival, that is still to be performed; with a slot, of the group in it. -/
def State.pendingOf (s : State) (c : Nat) (slot : Option Nat) : Option HomeReq :=
  s.requests.find? fun r => r.core == c && r.span.isSome && (match slot with
    | some k => r.slot == k
    | none => true)

/-- What happens before the present instruction of a group on a core and is not performed yet: its requests, and the entries of its
store queue, of every group of the core (R110, R113: a release covers what other groups of the core have done before it, log 28). -/
def State.coreHold (s : State) (c : Nat) (queue : Bool) : Option Wait :=
  match s.pendingOf c none with
  | some r => some (.line r.line)
  | none => if queue && !(s.core c).stores.isEmpty then some (.behind (s.core c).queued) else none

/-- What a release waits for (R53, R110, R113, R305): its group's loads and stores; the requests of the core, which it may cover, and which
an acquire with `.rp` may make visible to other cores whatever the release's scope (R114); and at a wide scope, unless it enters the store
queue itself, the queue. -/
def State.releaseHold (s : State) (c : Nat) (g : Group) (wide queue : Bool) : Option Wait :=
  if !releaseReady g wide then some (releaseWait wide) else s.coreHold c (wide && queue)

/-- What a write of the group in a slot waits for: what a release waits for, if it is one; and the atomics and hasp arrivals of its own
group, since no store is performed before an earlier load of its lane has obtained its value (R110 rule 5). -/
def State.writeHold (s : State) (c k : Nat) (g : Group) (release wide queue : Bool) : Option Wait :=
  match (if release then s.releaseHold c g wide queue else none) with
  | some w => some w
  | none => (s.pendingOf c (some k)).map fun r => .line r.line

/-- What the issue of an engine operation waits for (R117): the acceptance of its group's stores; and, since what happens before the
issue happens before the operation, the atomics of its core and the stores in its queue (R110, R122, log 28). -/
def State.engineWait (s : State) (c : Nat) (g : Group) : Option Wait :=
  if !g.stores.isEmpty then some (.counts 7 0 7 7) else s.coreHold c true

/-- The spans of the accesses of lanes, by address and bytes. -/
def laneSpans (n : Nat) (as : List (Nat × Nat)) : List (Nat × Nat) := as.map fun x => (x.2, n)

end Sys2Proof.Machine
end

