-- ==== Sys2Proof/Machine/MemGlobal.lean ====
section
/-! DEFINITION. Global loads and stores, snapshot loads and prefetch (spec/12, R307, R311, R325). A load takes its values when it issues
(log 5) and writes its registers when its data return (R118). -/

namespace Sys2Proof.Machine

open Sys2Proof

/-! ## Values -/

/-- A byte as a load of a core finds it (R113): in the store queue, then in the L1 where that may serve it, then at the home. -/
def State.loadByte (s : State) (c : Nat) (t : Tier) (a : Nat) (useL1 : Bool) : Byte :=
  let x := s.core c
  match x.queuedByte t a with
  | some b => b
  | none =>
    match (if useL1 && t != .host then x.l1Look (lineOf a) else none) with
    | some y => y.data.getD (a % lineBytes) 0
    | none => (s.readMem t a 1).headD 0

/-- A byte of a versioned page as an open transaction reads it (R88): its own, else that of the version under the start key. -/
def State.txByte (s : State) (part : Nat) (t : Tx) (a : Nat) : Byte :=
  match (t.lines.look (lineOf a)).bind fun y => y.bytes.look (a % lineBytes) with
  | some b => b
  | none => (s.lineUnder part (lineOf a) t.key).getD (a % lineBytes) 0

/-- The bytes that a lane's load returns. -/
def State.loadPieces (s : State) (c : Nat) (g : Group) (useL1 : Bool) (ps : List Piece) : List Byte :=
  (byteAddrs ps).map fun (a, p) =>
    match (if p.page.ver then g.tx else none) with
    | some t => s.txByte (s.partOf g) t a
    | none => s.loadByte c p.page.tier a useL1

/-- A load's piece is one that caches may hold: not host-tier, and not a transaction's own view (R52, R54, R80). -/
def cacheable (g : Group) (p : Piece) : Bool := p.page.tier != .host && !(p.page.ver && g.tx.isSome)

/-- The locked line that a read of some pieces under a key waits for: on a versioned page one whose pending stamp the key does not precede,
else any (R78, R81). -/
def State.snapHeld (s : State) (key : Nat) (ps : List Piece) : Option Nat :=
  (ps.filterMap fun p => match p.page.tier with
    | .host => none
    | _ => (linesOf ((List.range p.n).map (p.addr + ·))).find? fun line => s.locked line && !(p.page.ver && s.keyPasses line key)).head?

/-- The line that a load waits for (R78, R110): an open transaction reads versioned pages under its start key (R88). -/
def State.loadHeld (s : State) (c : Nat) (g : Group) (ps : List Piece) : Option Nat :=
  match s.heldIn c (ps.filter (cacheable g)) ps with
  | some line => some line
  | none => g.tx.bind fun t => s.snapHeld t.key (ps.filter fun p => p.page.ver)

/-- The lines of a piece, with the virtual address at which the piece enters each. -/
def Piece.lines (p : Piece) : List (Nat × Nat) :=
  (linesOf ((List.range p.n).map (p.addr + ·))).map fun line => (line, p.va + (line * lineBytes - p.addr))

/-- A request for a line is on its way from a die, or the die's fill of it is. -/
def State.asking (s : State) (die line : Nat) : Bool :=
  s.requests.any (fun r => r.line == line && (match r.kind with
    | .load d _ _ => d == die
    | .own d _ _ => d == die
    | _ => false)) || (s.die die).fills.any fun f => f.line == line

/-- A line wanted in a die's L2: a hit moves it, a miss goes to the home, once (R55, R56, R64). The request names the keeper that the
virtual address matches now; one granted later has no part in the fill (R59, R60, R323, log 44). -/
def State.wantL2 (s : State) (c k : Nat) (g : Group) (line va : Nat) (ef : Bool) : State :=
  let d := dieOf c
  let vd := s.vdOf g
  if (s.die d).holds line then s.touchL2 d line ef
  else if s.asking d line then s
  else { s with requests := s.requests ++ [{ line := line, core := c, slot := k, launch := g.launch, vd := vd,
                                             kind := .load d (((s.die d).keeperFor vd va).map (·.1)) ef }] }

/-- How an access uses the caches: a weak load may be served by the L1; a synchronising one beyond the core is performed at the L2
(R113); a prefetch brings the line into both (R325). -/
inductive CacheUse where
  | weak | sync | prefetch
  deriving DecidableEq, Repr

/-- One line of an access (R52, R56, R113): a hit in the L1 moves it there; the L2 is asked for what the L1 does not serve; a load
allocates its line in the L1 unless the page has SA = 1. A synchronising load leaves what it has read in a copy that the L1 holds. -/
def State.touchLine (s : State) (c k : Nat) (g : Group) (u : CacheUse) (p : Piece) (hint : Bool) (line va : Nat) : State :=
  let hit := ((s.core c).l1Look line).isSome
  let s1 := if hit && u == .weak then s else s.wantL2 c k g line va hint
  let data := (s1.core c).queuedOver line (s1.frame line)
  if hit then s1.withCore c fun x => if u == .sync then (x.l1Hit line hint).l1Refresh line data else x.l1Hit line hint
  else if p.page.sa then s1
  else s1.withCore c fun x => x.l1Fill line data hint

/-- What a load or prefetch of some pieces does to the caches. -/
def State.touchCaches (s : State) (c k : Nat) (g : Group) (u : CacheUse) (ef : Bool) (ps : List Piece) : State :=
  (ps.filter (cacheable g)).foldl (fun a p =>
    p.lines.foldl (fun b x => b.touchLine c k g u p (ef || p.page.ef) x.1 x.2) a) s

/-- The lines that a load has the die's L2 filled with before its data return (R56, R113). -/
def State.askedBy (s : State) (c : Nat) (g : Group) (u : CacheUse) (ps : List Piece) : List Nat :=
  (((ps.filter (cacheable g)).flatMap fun p => p.lines.map (·.1)).filter fun line =>
    !(u == .weak && ((s.core c).l1Look line).isSome) && !(s.die (dieOf c)).holds line).eraseDups

/-- HBM lines that the home reads for a device where the LLC does not hold them (R412). -/
def State.chargePieces (s : State) (vd : Nat) (ps : List Piece) : State :=
  ((ps.filter fun p => p.page.tier == .hbm).flatMap fun p => p.lines.map (·.1)).eraseDups.foldl (fun a line =>
    a.chargeLine vd line) s

/-- The store queues that an `.rp` acquire drains (R115): that of the core a line's tag names, or those of every core of the partition,
with the entries they hold now. -/
def State.drainTargets (s : State) (part : Nat) (ps : List Piece) : List (Nat × Nat) :=
  let cores := ps.flatMap fun p =>
    if p.page.tier = .host then s.coresOf part
    else (linesOf ((List.range p.n).map (p.addr + ·))).flatMap fun line =>
      match s.releaseTag line with
      | .core n => [n]
      | .none => []
      | .unknown => s.coresOf part
  (cores.eraseDups.map fun n => (n, (s.core n).queued)).filter fun t => decide ((s.core t.1).accepted < t.2)

/-- What follows an acquire whose values are obtained: at a wide scope the L1 is invalidated; with `.rp` the group first waits for the
queues named (R53, R113, R115). -/
def State.acquired (s : State) (c k : Nat) (wide : Bool) (targets : List (Nat × Nat)) : State :=
  let s1 := if wide then s.withCore c Core.l1Clear else s
  if targets.isEmpty then s1 else s1.withGroup c k fun g => g.waitBehind (.queues targets)

/-! ## Loads -/

/-- A global load of elements of z bytes (R307). -/
def loadGlobal (z : Nat) (signed : Bool) (o : GlobalLoad) (s : State) : Result :=
  asGroup s fun c k g =>
    let n := z * elemsOf (z == 8) o.wid
    let vd := s.vdOf g
    if !g.addrOk o.addr || !g.inBudget o.data.toNat (spanRegs z n) then s.setGroup c k g.illegal
    else
      let as := g.laneAddrs s.tick true o.addr
      let ts := s.translateLanes c g .load n as
      match missesOf ts with
      | m :: ms => s.sendMisses c k vd (m :: ms)
      | [] =>
        let (g1, live) := g.sortLanes (s.core c) vd n .load false true ts
        let ps := live.flatMap fun x => x.2.2
        match s.loadHeld c g ps with
        | some line => s.setGroup c k (g.waitOn (.line line))
        | none =>
          let s0 := s.usePages c vd (laneSpans n as)
          if live.isEmpty then s0.setGroup c k g1
          else
            let u : CacheUse := if o.ord == .weak || !wideScope o.scope then .weak else .sync
            let op := s.nextOp
            let asked := s.askedBy c g u ps
            let g2 := g1.expect (live.flatMap fun x => loadWrites op o.data.toNat x.1 z signed (s.loadPieces c g (u == .weak) x.2.2))
            let targets := if o.rp then s.drainTargets (s.partOf g) ps else []
            let g3 := if asked.isEmpty then g2 else { g2 with asked := g2.asked.put op asked }
            let s1 := (((s0.newOp).setGroup c k (g3.count .loads op false)).touchCaches c k g u o.ef ps).chargePieces vd
              (ps.filter fun p => !cacheable g p)
            if isAcquire o.ord then s1.acquired c k (wideScope o.scope) targets else s1

/-- A snapshot load of elements of z bytes (R311, R86, R87): served at the home, under the key of a key register. -/
def loadSnapshot (z : Nat) (o : SnapshotLoad) (s : State) : Result :=
  asGroup s fun c k g =>
    let n := z * elemsOf (z == 8) o.wid
    let vd := s.vdOf g
    let key := g.keys.get o.key.toNat 0
    if !g.addrOk o.addr || !g.inBudget o.data.toNat (spanRegs z n) || !keyValid key then s.setGroup c k g.illegal
    else
      let as := g.laneAddrs s.tick true o.addr
      if keyRevoked key then
        s.setGroup c k (as.foldl (fun a x =>
          a.raiseLane x.1 (.replay .revoked ((⟨0, noLevel, 0⟩ : XFault).info .snapshot 0) (BitVec.ofNat 64 x.2))) g)
      else
        let ts := s.translateLanes c g .snapshot n as
        match missesOf ts with
        | m :: ms => s.sendMisses c k vd (m :: ms)
        | [] =>
          let (g1, live) := g.sortLanes (s.core c) vd n .snapshot false true ts
          let ps := live.flatMap fun x => x.2.2
          match (match s.snapHeld (keyBits key) ps with
            | some line => some line
            | none => s.ownPending c (ps.filter fun p => !p.page.ver)) with
          | some line => s.setGroup c k (g.waitOn (.line line))
          | none =>
          let s0 := s.usePages c vd (laneSpans n as)
          if live.isEmpty then s0.setGroup c k g1
          else
            let op := s.nextOp
            let bytesOf (ps : List Piece) : List Byte := (byteAddrs ps).map fun (a, p) =>
              if p.page.ver then (s.lineUnder (s.partOf g) (lineOf a) (keyBits key)).getD (a % lineBytes) 0
              else s.loadByte c p.page.tier a false
            let g2 := g1.expect (live.flatMap fun x => loadWrites op o.data.toNat x.1 z false (bytesOf x.2.2))
            ((s0.newOp).setGroup c k (g2.count .loads op false)).chargePieces vd ps

/-! ## Stores -/

/-- The lines that a group's open transaction has buffered. -/
def Group.txLines (g : Group) : Nat := match g.tx with
  | some t => t.lines.length
  | none => 0

/-- The lines that the groups of a core have in its transaction buffer (R89). -/
def Core.txLines (x : Core) : Nat := (x.groups.map fun g => g.2.txLines).sum

/-- Bytes of one line buffered by the open transaction of a group (R88, R89): a doomed one discards them, and a new line that finds the
core's buffer full dooms it with cause 2. `va` is the virtual line, translated again at the commit. -/
def Group.bufferLine (g : Group) (full : Bool) (line va : Nat) (bs : List (Nat × Byte)) : Group :=
  match g.tx with
  | none => g
  | some t =>
    if t.doom.isSome then g
    else if (t.lines.look line).isNone && full then g.doom 2
    else
      let y := t.lines.get line { va := va, bytes := [] }
      let y2 := { y with bytes := bs.foldl (fun b x => b.put (x.1 % lineBytes) x.2) y.bytes }
      let t2 := { t with lines := t.lines.put line y2 }
      { g with tx := some t2, txs := txsWord true false 0 (txsLast g.txs) (txsKreg g.txs) t2.lines.length }

/-- The bytes of a lane's store with their pieces. -/
def storedBytes (ps : List Piece) (bs : List Byte) : List (Nat × Piece × Byte) :=
  ((byteAddrs ps).zip bs).map fun (x, b) => (x.1, x.2, b)

/-- A lane's bytes that its transaction buffers, line by line; `others` is what the other groups of the core have buffered (R89). -/
def Group.bufferLane (g : Group) (others va : Nat) (bs : List (Nat × Piece × Byte)) : Group :=
  (linesOf (bs.map (·.1))).foldl (fun a line =>
    let first := ((bs.find? fun b => lineOf b.1 == line).map fun b => (b.2.1.va + (b.1 - b.2.1.addr))).getD va
    a.bufferLine (decide (256 ≤ others + a.txLines)) line (first / lineBytes * lineBytes)
      ((bs.filter fun b => lineOf b.1 == line).map fun b => (b.1, b.2.2))) g

/-- The entries that a lane's bytes make in the store queue (R102, R113): one for a single-copy-atomic access, else one a byte. `ef` is
the hint of the instruction, to which that of the page is joined (R52). -/
def storeEntries (op k : Nat) (g : Group) (vd : Nat) (rel whole ef : Bool) (bs : List (Nat × Piece × Byte)) : List StoreEntry :=
  let mk (l : List (Nat × Piece × Byte)) : Option StoreEntry :=
    l.head?.map fun b => { op := op, slot := k, launch := g.launch, vd := vd, va := b.2.1.va + (b.1 - b.2.1.addr),
                           ver := b.2.1.page.ver, tier := b.2.1.page.tier, bytes := l.map fun b => (b.1, b.2.2), rel := rel,
                           ef := ef || b.2.1.page.ef }
  if whole then (mk bs).toList else bs.filterMap fun b => mk [b]

/-- Entries behind the others of a store queue; each updates the L1's copy of its line, if there is one (R52, R113). -/
def Core.queueStores (x : Core) (es : List StoreEntry) : Core :=
  { (es.filter fun e => e.tier != .host).foldl (fun a e => a.l1Store e.bytes e.ef) x with
      stores := x.stores ++ es, queued := x.queued + es.length }

/-- A global store of elements of z bytes (R307). -/
def storeGlobal (z : Nat) (o : GlobalStore) (s : State) : Result :=
  asGroup s fun c k g =>
    let n := z * elemsOf (z == 8) o.wid
    let vd := s.vdOf g
    if !g.addrOk o.addr || !g.inBudget o.data.toNat (spanRegs z n) then s.setGroup c k g.illegal
    else
      match s.writeHold c k g (isRelease o.ord) (wideScope o.scope) false with
      | some w => s.setGroup c k (g.waitOn w)
      | none =>
        let as := g.laneAddrs s.tick true o.addr
        let ts := s.translateLanes c g .store n as
        match missesOf ts with
        | m :: ms => s.sendMisses c k vd (m :: ms)
        | [] =>
          let (g1, live) := g.sortLanes (s.core c) vd n .store true true ts
          match s.ownPending c (live.flatMap fun x => x.2.2) with
          | some line => s.setGroup c k (g.waitOn (.line line))
          | none =>
            let s0 := s.usePages c vd (laneSpans n as)
            if live.isEmpty then s0.setGroup c k g1
            else
              let data := live.map fun x => (x, storedBytes x.2.2 (g.storeBytes s.tick o.data.toNat x.1 z n))
              let kept (b : Nat × Piece × Byte) : Bool := b.2.1.page.ver && g.tx.isSome
              let others := (s.core c).txLines - g.txLines
              let g2 := data.foldl (fun a x => a.bufferLane others x.1.2.1 (x.2.filter kept)) g1
              let op := s.nextOp
              let es := data.flatMap fun x =>
                storeEntries op k g vd (g.releases (o.ord != .weak) o.ord x.1.1) (decide (n ≤ 8) && x.1.2.1 % n == 0) o.ef
                  (x.2.filter fun b => !kept b)
              ((s0.newOp).setGroup c k (g2.count .stores op es.isEmpty)).withCore c fun x => x.queueStores es

/-! ## Prefetch -/

/-- `pf` (R325, R28): lines brought into the L2 and the L1; whatever would fault or trap is dropped. Of the line,
only the byte at the lane's address is translated and looked at for a latch (DESIGN CHOICE, log 76). -/
def prefetch (o : PrefetchOp) (s : State) : Result :=
  asGroup s fun c k g =>
    let vd := s.vdOf g
    if !g.addrOk o.addr then s.setGroup c k g.illegal
    else
      let as := g.laneAddrs s.tick true o.addr
      let ts := s.translateLanes c g .load 1 as
      match missesOf ts with
      | m :: ms => s.sendMisses c k vd (m :: ms)
      | [] =>
        let ps := ts.flatMap fun t => match t.2.2 with
          | .ok ps => if ((s.core c).latchHit none vd t.2.1 1 false).isSome then [] else ps
          | _ => []
        match s.lockedIn (ps.filter (cacheable g)) with
        | some line => s.setGroup c k (g.waitOn (.line line))
        | none => (s.usePages c vd (laneSpans 1 as)).touchCaches c k g .prefetch o.ef ps

/-! ## Meanings -/

/-- `ldg.b8`. -/
def execLdgB8 (o : GlobalLoad) (s : State) : Result := loadGlobal 1 false o s
/-- `ldg.i8`. -/
def execLdgI8 (o : GlobalLoad) (s : State) : Result := loadGlobal 1 true o s
/-- `ldg.b16`. -/
def execLdgB16 (o : GlobalLoad) (s : State) : Result := loadGlobal 2 false o s
/-- `ldg.i16`. -/
def execLdgI16 (o : GlobalLoad) (s : State) : Result := loadGlobal 2 true o s
/-- `ldg.b32`. -/
def execLdgB32 (o : GlobalLoad) (s : State) : Result := loadGlobal 4 false o s
/-- `ldg.b64`. -/
def execLdgB64 (o : GlobalLoad) (s : State) : Result := loadGlobal 8 false o s
/-- `stg.b8`. -/
def execStgB8 (o : GlobalStore) (s : State) : Result := storeGlobal 1 o s
/-- `stg.b16`. -/
def execStgB16 (o : GlobalStore) (s : State) : Result := storeGlobal 2 o s
/-- `stg.b32`. -/
def execStgB32 (o : GlobalStore) (s : State) : Result := storeGlobal 4 o s
/-- `stg.b64`. -/
def execStgB64 (o : GlobalStore) (s : State) : Result := storeGlobal 8 o s
/-- `ldz.b32`. -/
def execLdzB32 (o : SnapshotLoad) (s : State) : Result := loadSnapshot 4 o s
/-- `ldz.b64`. -/
def execLdzB64 (o : SnapshotLoad) (s : State) : Result := loadSnapshot 8 o s
/-- `pf`. -/
def execPf (o : PrefetchOp) (s : State) : Result := prefetch o s

end Sys2Proof.Machine
end

