-- ==== Sys2Proof/Machine/Atomic.lean ====
section
/-! DEFINITION. Atomics (spec/12, R312 to R315): the requests that an instruction sends, and what a home does with one. -/

namespace Sys2Proof.Machine

open Sys2Proof

/-- The lane step of an atomic on n bits (R313). -/
def AtomFn.apply (f : AtomFn) (n old v w : Nat) : Nat :=
  let sgn (x : Nat) : Int := Num.sint n x
  match f with
  | .add => (old + v) % 2 ^ n
  | .minI => if sgn v < sgn old then v else old
  | .minN => min old v
  | .maxI => if sgn old < sgn v then v else old
  | .maxN => max old v
  | .and => old &&& v
  | .or => old ||| v
  | .xor => old ^^^ v
  | .exch => v
  | .cas => if old = w then v else old
  | .fadd => Num.addNE32 old v
  | .incw => if v ≤ old then 0 else old + 1
  | .bfadd => if w ≤ old then old else min (old + v) w

/-- The lane steps of one request in ascending lane order (R312): the value left, and what each lane is returned. -/
def atomSteps (f : AtomFn) (n : Nat) : Nat → List AtomStep → Nat × List (Nat × Nat)
  | old, [] => (old, [])
  | old, x :: rest =>
    let (last, rs) := atomSteps f n (f.apply n old x.v x.w) rest
    (last, (x.lane, old) :: rs)

/-- A function takes a second operand from the span that follows (R313). -/
def AtomFn.second (f : AtomFn) : Bool := f == .cas || f == .bfadd

/-- The device accepts the function on a host-tier page with SA = 1 (R13, R315). -/
def AtomFn.hostOk (f : AtomFn) : Bool := f == .add || f == .exch || f == .cas

/-- The atomic-scope fault of a lane (R13, R31). -/
def scopeFault (kind : Access) (a : Nat) (p : Piece) : Raise := (⟨0x09, p.level, p.page.tier.code⟩ : XFault).raises kind 0 a

/-- The lanes that R13 lets through. -/
def Group.hostLanes (g : Group) (f : AtomFn) : List (Nat × Nat × List Piece) → Group × List (Nat × Nat × Piece)
  | [] => (g, [])
  | (l, a, ps) :: rest =>
    match ps with
    | [p] =>
      if p.page.tier = .host ∧ (!p.page.sa || !f.hostOk) then (g.raiseLane l (scopeFault .atomic a p)).hostLanes f rest
      else
        let (g2, live) := g.hostLanes f rest
        (g2, (l, a, p) :: live)
    | _ => g.hostLanes f rest

/-- The requests of an instruction: one for each distinct location, with its lanes in ascending order; `cas` on the host tier is not
combined (R312, R315). -/
def atomRequests (f : AtomFn) (live : List (Nat × Piece × AtomStep)) : List (Piece × List AtomStep) :=
  live.foldl (fun acc x =>
    let p := x.2.1
    if (p.page.tier = .host ∧ f = .cas) ∨ !(acc.any fun y => y.1.addr == p.addr && y.1.page.tier == p.page.tier) then
      acc ++ [(p, [x.2.2])]
    else acc.map fun y => if y.1.addr == p.addr && y.1.page.tier == p.page.tier then (y.1, y.2 ++ [x.2.2]) else y) []

/-- An atomic on z bytes (R312 to R315). -/
def atomic (f : AtomFn) (z : Nat) (o : AtomicAccess) (s : State) : Result :=
  asGroup s fun c k g =>
    let d := o.data.toNat
    let span := z / 4
    let vd := s.vdOf g
    let wide := o.ord == .weak || wideScope o.scope
    if !g.addrOk o.addr || !g.inBudget d (if f.second then 2 * span else span) then s.setGroup c k g.illegal
    else
      match s.writeHold c k g (isRelease o.ord) wide true with
      | some w => s.setGroup c k (g.waitOn w)
      | none =>
      let (g0, ok) := g.alignLanes z .atomic 0 (g.laneAddrs s.tick true o.addr)
      let ts := s.translateLanes c g .atomic z ok
      match missesOf ts with
      | m :: ms => s.sendMisses c k vd (m :: ms)
      | [] =>
        let (g1, sorted) := g0.sortLanes (s.core c) vd z .atomic true true ts
        let (g2, live) := g1.hostLanes f sorted
        match (s.core c).queuedOn (live.map fun x => x.2.2) with
        | some n => s.setGroup c k (g.waitOn (.behind n))
        | none =>
        let mine (x : Nat × Nat × Piece) : Bool := x.2.2.page.ver && g.tx.isSome
        let s1 := s.usePages c vd (laneSpans z ok)
        if live.isEmpty then s1.setGroup c k g2
        else
          let op := s.nextOp
          let zeros := (live.filter mine).flatMap fun x : Nat × Nat × Piece => loadWrites op d x.1 z false (toBytes z 0)
          let g3 := if (live.filter mine).isEmpty then g2 else g2.doom 5
          let g4 := if o.nr then g3 else g3.expect zeros
          let steps := (live.filter fun x => !mine x).map fun x : Nat × Nat × Piece =>
            (x.1, x.2.2, { lane := x.1, v := g.velem s.tick (z == 8) d 0 x.1,
                           w := if f.second then g.velem s.tick (z == 8) d 1 x.1 else 0 : AtomStep })
          let reqs := (atomRequests f steps).map fun r =>
            { line := lineOf r.1.addr, core := c, slot := k, launch := g.launch, vd := vd,
              kind := .atomic op f z r.1.page.tier r.1.page.ver r.1.addr r.2 (if o.nr then none else some d)
                (r.2.any fun x => g.releases true o.ord x.lane) o.rp : HomeReq }
          let g5 := g4.count (if o.nr then .stores else .loads) op (o.nr && reqs.isEmpty)
          let g6 := if isAcquire o.ord then g5.waitBehind (.op op wide []) else g5
          let s2 := (s1.newOp).setGroup c k g6
          let drops (x : Core) : Core := (steps.filter fun r => r.2.1.page.tier != .host).foldl (fun a r => a.l1Drop (lineOf r.2.1.addr)) x
          { s2.withCore c drops with requests := s2.requests ++ reqs }

/-- An atomic request performed at its home, as one read and one write (R64, R312). The lanes' results wait for delivery (R118); a
request that returns nothing may complete its instruction. -/
def State.performAtomic (s : State) (r : HomeReq) (op : Nat) (f : AtomFn) (z : Nat) (tier : Tier) (ver : Bool) (a : Nat)
    (steps : List AtomStep) (reg : Option Nat) (rel rp : Bool) : State :=
  let old := s.readNat tier a z
  let (last, rets) : Nat × List (Nat × Nat) := atomSteps f (8 * z) old steps
  let targets := if rp then s.drainTargets (s.device r.vd).part
    [{ va := 0, n := z, addr := a, page := { base := 0, size := 0, frame := 0, ver := ver, sa := false, ef := false, tier := tier,
                                              x := false, w := true, level := 0 }, level := 0 }] else []
  let s0 := if tier = .host then s else s.chargeLine r.vd r.line
  let s1 := (s0.writeMem { vd := r.vd, carried := none, ver := ver, die := none, release := if rel then some r.core else none } tier
    (addressed a (toBytes z last))).withCore r.core fun x => if tier = .host then x else x.l1Drop r.line
  s1.withGroup r.core r.slot fun g =>
    if g.launch != r.launch then g
    else
      let g1 := match reg with
        | some d => g.expect (rets.flatMap fun x : Nat × Nat => loadWrites op d x.1 z false (toBytes z x.2))
        | none => if s1.requests.any (fun q => match q.kind with
            | .atomic o2 _ _ _ _ _ _ _ _ _ => o2 == op
            | _ => false) then g else g.finish .stores op
      match g1.wait with
      | some (.op id w ts) => if id = op then { g1 with wait := some (.op id w (ts ++ targets)) } else g1
      | _ => g1

/-! ## Meanings -/

/-- `atom.add.b32`. -/
def execAtomAddB32 (o : AtomicAccess) (s : State) : Result := atomic .add 4 o s
/-- `atom.min.i32`. -/
def execAtomMinI32 (o : AtomicAccess) (s : State) : Result := atomic .minI 4 o s
/-- `atom.min.n32`. -/
def execAtomMinN32 (o : AtomicAccess) (s : State) : Result := atomic .minN 4 o s
/-- `atom.max.i32`. -/
def execAtomMaxI32 (o : AtomicAccess) (s : State) : Result := atomic .maxI 4 o s
/-- `atom.max.n32`. -/
def execAtomMaxN32 (o : AtomicAccess) (s : State) : Result := atomic .maxN 4 o s
/-- `atom.and.b32`. -/
def execAtomAndB32 (o : AtomicAccess) (s : State) : Result := atomic .and 4 o s
/-- `atom.or.b32`. -/
def execAtomOrB32 (o : AtomicAccess) (s : State) : Result := atomic .or 4 o s
/-- `atom.xor.b32`. -/
def execAtomXorB32 (o : AtomicAccess) (s : State) : Result := atomic .xor 4 o s
/-- `atom.exch.b32`. -/
def execAtomExchB32 (o : AtomicAccess) (s : State) : Result := atomic .exch 4 o s
/-- `atom.cas.b32`. -/
def execAtomCasB32 (o : AtomicAccess) (s : State) : Result := atomic .cas 4 o s
/-- `atom.fadd.f32`. -/
def execAtomFaddF32 (o : AtomicAccess) (s : State) : Result := atomic .fadd 4 o s
/-- `atom.incw.n32`. -/
def execAtomIncwN32 (o : AtomicAccess) (s : State) : Result := atomic .incw 4 o s
/-- `atom.bfadd.n32`. -/
def execAtomBfaddN32 (o : AtomicAccess) (s : State) : Result := atomic .bfadd 4 o s
/-- `atom.add.b64`. -/
def execAtomAddB64 (o : AtomicAccess) (s : State) : Result := atomic .add 8 o s
/-- `atom.min.i64`. -/
def execAtomMinI64 (o : AtomicAccess) (s : State) : Result := atomic .minI 8 o s
/-- `atom.min.n64`. -/
def execAtomMinN64 (o : AtomicAccess) (s : State) : Result := atomic .minN 8 o s
/-- `atom.max.i64`. -/
def execAtomMaxI64 (o : AtomicAccess) (s : State) : Result := atomic .maxI 8 o s
/-- `atom.max.n64`. -/
def execAtomMaxN64 (o : AtomicAccess) (s : State) : Result := atomic .maxN 8 o s
/-- `atom.and.b64`. -/
def execAtomAndB64 (o : AtomicAccess) (s : State) : Result := atomic .and 8 o s
/-- `atom.or.b64`. -/
def execAtomOrB64 (o : AtomicAccess) (s : State) : Result := atomic .or 8 o s
/-- `atom.xor.b64`. -/
def execAtomXorB64 (o : AtomicAccess) (s : State) : Result := atomic .xor 8 o s
/-- `atom.exch.b64`. -/
def execAtomExchB64 (o : AtomicAccess) (s : State) : Result := atomic .exch 8 o s
/-- `atom.cas.b64`. -/
def execAtomCasB64 (o : AtomicAccess) (s : State) : Result := atomic .cas 8 o s
/-- `atom.incw.n64`. -/
def execAtomIncwN64 (o : AtomicAccess) (s : State) : Result := atomic .incw 8 o s
/-- `atom.bfadd.n64`. -/
def execAtomBfaddN64 (o : AtomicAccess) (s : State) : Result := atomic .bfadd 8 o s

end Sys2Proof.Machine
end

