-- ==== Sys2Proof/Machine/Control.lean ====
section
/-! DEFINITION. The control class (spec/10, R271 to R282), but for `bar` and `launch`, which act outside the group. A transfer of control
is recorded in the clause and takes effect at its completion (R197). -/

namespace Sys2Proof.Machine

open Sys2Proof

/-- The target of a displacement: the clause's own address + 4 × sext(B) (R244, R271). -/
def Group.target (g : Group) (disp : BitVec 20) : DWord := g.clause.addr + BitVec.ofInt 64 (4 * disp.toInt)

/-- A target recorded for the lanes of a set. -/
def Group.transfer (g : Group) (ls : LaneSet) (t : DWord) : Group :=
  { g with clause := { g.clause with next := (lanesOf ls).foldl (fun a l => a.put l t) g.clause.next } }

/-- What the clause does at completion (R197). -/
def Group.endWith (g : Group) (e : Ending) : Group := { g with clause := { g.clause with ending := e } }

/-- The pair that A names (R244). -/
def pairReg (a : BitVec 6) : Nat := 2 * a.toNat

/-- `bra` (R272). -/
def execBra (disp : BitVec 20) (s : State) : Result :=
  onGroup s fun _ g => g.transfer g.clause.active (g.target disp)

/-- `brc` (R272): one value for the group. -/
def execBrc (neg : Bool) (c : BitVec 3) (disp : BitVec 20) (s : State) : Result :=
  onGroup s fun _ g => if (g.cond.getLsbD c.toNat) != neg then g.transfer g.clause.active (g.target disp) else g

/-- `brd` (R272): lane by lane. -/
def execBrd (neg : Bool) (k : BitVec 3) (disp : BitVec 20) (s : State) : Result :=
  onGroup s fun _ g =>
    let m := if neg then ~~~(g.mask k.toNat) else g.mask k.toNat
    g.transfer (g.clause.active &&& m) (g.target disp)

/-- The value of a lane's pair, low word first. -/
def Group.pairValue (g : Group) (x : Ctx) (v l : Nat) : DWord := BitVec.ofNat 64 (g.velem x.tick true v 0 l)

/-- `brx` and `ret` (R273, R392): the named value of each lane is kept for completion, where bits 1:0 are cleared or, in trap mode, say
how to return. -/
def indirectOp (pair : BitVec 6) (x : Ctx) (g : Group) : Group :=
  if g.inBudget (pairReg pair) 2 then
    { g with clause := { g.clause with
        raw := (lanesOf g.clause.active).foldl (fun a l => a.put l (g.pairValue x (pairReg pair) l)) g.clause.raw } }
  else g.illegal

/-- `brx` (R273). -/
def execBrx (pair : BitVec 6) (s : State) : Result := onGroup s (indirectOp pair)

/-- `ret` (R273). -/
def execRet (pair : BitVec 6) (s : State) : Result := onGroup s (indirectOp pair)

/-- `call` (R273): the link is the address after the clause. -/
def execCall (pair : BitVec 6) (disp : BitVec 20) (s : State) : Result :=
  onGroup s fun x g =>
    if g.inBudget (pairReg pair) 2 then
      ((lanesOf g.clause.active).foldl
        (fun a l => a.setVelem x.tick true (pairReg pair) 0 l g.clause.after.toNat) g).transfer g.clause.active (g.target disp)
    else g.illegal

/-- `join` (R274): performed when it executes, on the bank of the active mode. -/
def execJoin (j : BitVec 3) (s : State) : Result := onGroup s fun _ g => g.join g.activeTrap j.toNat

/-- `jwait` (R274): performed at completion. -/
def execJwait (j : BitVec 3) (s : State) : Result := onGroup s fun _ g => g.endWith (.jwait j.toNat)

/-- `exit` (R275). -/
def execExit (s : State) : Result := onGroup s fun _ g => g.endWith .exit

/-- `yield` (R275). -/
def execYield (s : State) : Result := onGroup s fun _ g => g.endWith .yield

/-- `serb` (R276). -/
def execSerb (s : State) : Result := onGroup s fun _ g => g.endWith .serb

/-- `sere` (R276). -/
def execSere (s : State) : Result := onGroup s fun _ g => g.endWith .sere

/-- A trap whose two resume words are the word after the instruction (R279, R387). -/
def Group.raiseAfter (g : Group) (what : Raise) : Group :=
  g.raiseLanes g.clause.active what (g.clause.idx + g.clause.len) (g.clause.idx + g.clause.len)

/-- `trap` (R279): INFO is the code. -/
def execTrap (code : BitVec 16) (s : State) : Result :=
  onGroup s fun _ g => g.raiseAfter (.trap .software (code.zeroExtend 32) 0)

/-- `brk` (R279): nothing unless BRKEN is 1; INFO is the tag. -/
def execBrk (tag : BitVec 16) (s : State) : Result :=
  onGroup s fun x g => if x.brken then g.raiseAfter (.trap .breakpoint (tag.zeroExtend 32) 0) else g

/-- A wait count n is met when at most n operations are outstanding; 7 is always met (R229). -/
def countMet (n : Nat) (l : List Counted) : Bool := decide (n = 7 ∨ l.length ≤ n)

/-- Every counter has at most its count outstanding (R229, R280). -/
def Group.countsMet (g : Group) (ld st cp tl : Nat) : Bool :=
  countMet ld g.loads && countMet st g.stores && countMet cp g.copies && countMet tl g.tiles

/-- INFO of a remote fault (R386). -/
def RemoteFault.info (r : RemoteFault) : Word :=
  BitVec.ofNat 32 (r.status % 256 * 2 ^ 24 + r.detail % 256 * 2 ^ 16 + r.count % 256 * 2 ^ 8 + r.opcode % 256)

/-- The remote-fault trap when the record is set (R356). -/
def Group.raiseRemote (g : Group) : Group :=
  match g.remote with
  | none => g
  | some r => g.raiseAll (.trap .remote r.info r.addr)

/-- `cwait` (R280); with a copies count, a met wait raises a remote fault that is recorded (R356). -/
def execCwait (ld st cp tl : BitVec 3) (s : State) : Result :=
  onGroup s fun _ g =>
    if g.countsMet ld.toNat st.toNat cp.toNat tl.toNat then (if cp.toNat = 7 then g else g.raiseRemote)
    else g.waitOn (.counts ld.toNat st.toNat cp.toNat tl.toNat)

/-- `halt` (R282): the rest of the clause executes, and the group becomes replayable at its completion. -/
def execHalt (s : State) : Result :=
  onGroup s fun _ g =>
    { g with clause := { g.clause with haltAt := some (g.clause.haltAt.getD g.clause.idx) } }

/-- `nop` (R282). -/
def execNop (s : State) : Result := onGroup s fun _ g => g

end Sys2Proof.Machine
end

