-- ==== Sys2Proof/Machine/Hasp.lean ====
section
/-! DEFINITION. Hasp records (spec/06, R170 to R174): which addresses name one, arrivals and reads. -/

namespace Sys2Proof.Machine

open Sys2Proof

/-- The fields of a record at a module address (R171). -/
structure HaspRec where
  arrived : Nat
  expected : Nat
  phase : Nat
  owner : Nat
  deriving DecidableEq, Repr

def State.hasp (s : State) (a : Nat) : HaspRec :=
  { arrived := s.readNat .hbm a 4, expected := s.readNat .hbm (a + 4) 4, phase := s.readNat .hbm (a + 8) 4,
    owner := s.readNat .hbm (a + 12) 4 }

/-- The owner check of R172: OWNER names the device and its partition, with V = 1. -/
def HaspRec.owned (h : HaspRec) (vd part : Nat) : Bool :=
  ent h.owner 31 1 == 1 && ent h.owner 24 7 == vd && ent h.owner 16 8 == part

/-- The result of an arrival of n (R172): status, phase returned, ARRIVED and PHASE afterwards. -/
def HaspRec.arrive (h : HaspRec) (n vd part : Nat) : Nat × Nat × HaspRec :=
  if !h.owned vd part then (3, h.phase, h)
  else if h.expected = 0 then (2, h.phase, h)
  else
    let a := h.arrived + n
    if a < h.expected then (0, h.phase, { h with arrived := a })
    else (if a = h.expected then 0 else 1, h.phase, { h with phase := (h.phase + 1) % 2 ^ 32, arrived := 0 })

/-- An arrival performed at the record's home (R172): one atomic on its sixteen bytes, a release write of the core whose lane makes it
(R115, R174). A refused one writes nothing. -/
def State.haspArrive (s : State) (a n vd part : Nat) (core : Option Nat) : State × Nat × Nat :=
  let (st, p, h) := (s.hasp a).arrive n vd part
  if st = 2 ∨ st = 3 then (s, st, p)
  else
    (s.writeMem { vd := vd, carried := none, ver := false, die := none, release := core } .hbm
      (addressed a (toBytes 4 h.arrived ++ toBytes 4 h.expected ++ toBytes 4 h.phase ++ toBytes 4 h.owner)), st, p)

/-- A read of a record for a wait on phase p (R173): the status and phase when the wait is over, none when it goes on. -/
def State.haspWait (s : State) (a vd part : Nat) (p : Nat) : Option (Nat × Nat) :=
  let h := s.hasp a
  if !h.owned vd part then some (3, h.phase)
  else if h.phase ≠ p then some (0, h.phase)
  else none

/-- A translated access names a hasp record (R170): aligned, VER = 0, in HBM, in the device's hasp range. W = 1 is the translation's
own check. The module address is returned. -/
def State.haspAddr (s : State) (vd va : Nat) (ps : List Piece) : Option Nat :=
  match ps with
  | [p] =>
    let rel := p.page.frame + (p.va - p.page.base)
    let f := (s.device vd).fabric
    if va % 16 = 0 ∧ p.page.ver = false ∧ p.page.tier = .hbm ∧ (f.get 0x10 0).toNat ≤ rel ∧ rel < (f.get 0x18 0).toNat then some p.addr
    else none
  | _ => none

end Sys2Proof.Machine
end

