-- ==== Sys2Proof/Machine/Sync.lean ====
section
/-! DEFINITION. Synchronisation of memory (spec/12, R316 to R324, R326, R327): ward and hasp waits, fences, snapshots, transactions,
keepers. -/

namespace Sys2Proof.Machine

open Sys2Proof

/-! ## Lanes held at an instruction (R200, R316) -/

/-- A lane is held on the ward of a line: it leaves the clause here, and issues it again from this word (R316, R390). -/
def Group.holdOn (g : Group) (l line : Nat) : Group :=
  let g1 := g.setLane l { g.lane l with state := .held, hold := .ward line, pc := g.clause.addr, r := g.clause.idx }
  { g1 with clause := { g1.clause with active := g1.clause.active &&& ~~~(laneBit l) } }

/-- Wards placed for the lanes of a group on some lines. -/
def State.placeLaneWards (s : State) (c k : Nat) (lines : List Nat) : State :=
  lines.eraseDups.foldl (fun a line => a.placeWard line (.lanes c k)) s

/-- The lanes that a ward wait accepts: host-tier pages have no wards (R316). -/
def Group.wardLanes (g : Group) : List (Nat × Nat × List Piece) → Group × List (Nat × Piece)
  | [] => (g, [])
  | (l, a, ps) :: rest =>
    match ps with
    | [p] =>
      if p.page.tier = .host then (g.raiseLane l (scopeFault .load a p)).wardLanes rest
      else
        let (g2, live) := g.wardLanes rest
        (g2, (l, p) :: live)
    | _ => g.wardLanes rest

/-- `wardw` (R316): lanes whose word equals their register are held; a lane that completes acts as an acquire at device scope. -/
def execWardw (o : LaneWait) (s : State) : Result :=
  asGroup s fun c k g =>
    let d := o.data.toNat
    let vd := s.vdOf g
    if !g.addrOk o.addr || !g.inBudget d 1 then s.setGroup c k g.illegal
    else
      let (g0, ok) := g.alignLanes 4 .load 0 (g.laneAddrs s.tick true o.addr)
      let ts := s.translateLanes c g .load 4 ok
      match missesOf ts with
      | m :: ms => s.sendMisses c k vd (m :: ms)
      | [] =>
        let (g1, sorted) := g0.sortLanes (s.core c) vd 4 .load false true ts
        let (g2, live) := g1.wardLanes sorted
        match s.heldIn c (live.map (·.2)) (live.map (·.2)) with
        | some line => s.setGroup c k (g.waitOn (.line line))
        | none =>
          let word (p : Piece) : Word := BitVec.ofNat 32 (ofBytes ((List.range 4).map fun i => s.loadByte c p.page.tier (p.addr + i) false))
          let passes (x : Nat × Piece) : Bool := word x.2 != g.vread s.tick d x.1
          let held := live.filter fun x => !passes x
          let passed := live.filter passes
          let g3 := passed.foldl (fun a x => a.vwrite s.tick d x.1 (word x.2)) g2
          let g4 := held.foldl (fun a x => a.holdOn x.1 (lineOf x.2.addr)) g3
          let s1 := ((s.usePages c vd (laneSpans 4 ok)).chargePieces vd (live.map (·.2))).setGroup c k g4
          let s2 := s1.placeLaneWards c k (held.map fun x => lineOf x.2.addr)
          if passed.isEmpty then s2 else s2.withCore c Core.l1Clear

/-! ## Hasps (R326, R327) -/

/-- The arrivals of lanes at one record, in ascending lane order, performed at its home; their results are delivered later (R326). -/
def State.performHasp (s : State) (r : HomeReq) (op a : Nat) (steps : List HaspStep) (reg : Nat) : State :=
  let part := (s.device r.vd).part
  steps.foldl (fun t x =>
    let (t1, st, p) : State × Nat × Nat :=
      if x.n = 0 then
        let h := t.hasp a
        (t, (if !h.owned r.vd part then 3 else if h.expected = 0 then 2 else 0), h.phase)
      else t.haspArrive a x.n r.vd part (some r.core)
    t1.withGroup r.core r.slot fun g =>
      if g.launch != r.launch then g
      else g.expect [{ op := op, key := vkey reg x.lane, val := BitVec.ofNat 32 st },
                     { op := op, key := vkey (reg + 1) x.lane, val := BitVec.ofNat 32 p }])
        ((s.chargeLine r.vd r.line).withCore r.core fun x => x.l1Drop r.line)

/-- The steps of `harr`, gathered by record. -/
def haspRequests (live : List (Nat × HaspStep)) : List (Nat × List HaspStep) :=
  live.foldl (fun acc x =>
    if acc.any fun y => y.1 == x.1 then acc.map fun y => if y.1 == x.1 then (y.1, y.2 ++ [x.2]) else y
    else acc ++ [(x.1, [x.2])]) []

/-- `harr` (R326): a release at device scope. An address that is no multiple of 16 is translated, and looked at for latches, over its 16
bytes before it gets status 4 (DESIGN CHOICE, log 76). -/
def execHarr (o : LaneWait) (s : State) : Result :=
  asGroup s fun c k g =>
    let d := o.data.toNat
    let vd := s.vdOf g
    if !g.addrOk o.addr || !g.inBudget d 2 then s.setGroup c k g.illegal
    else
      match s.releaseHold c g true true with
      | some w => s.setGroup c k (g.waitOn w)
      | none =>
      let as := g.laneAddrs s.tick true o.addr
      let ts := s.translateLanes c g .atomic 16 as
      match missesOf ts with
      | m :: ms => s.sendMisses c k vd (m :: ms)
      | [] =>
        let (g1, live) := g.sortLanes (s.core c) vd 16 .atomic true true ts
        let s0 := s.usePages c vd (laneSpans 16 as)
        if live.isEmpty then s0.setGroup c k g1
        else
          let op := s.nextOp
          let found := live.map fun x : Nat × Nat × List Piece => (x.1, s.haspAddr vd x.2.1 x.2.2)
          let bad := found.filter fun x => x.2.isNone
          let steps := found.filterMap fun x => x.2.map fun a =>
            (a, ({ lane := x.1, n := (g.vread s.tick d x.1).toNat % 2 ^ 16 } : HaspStep))
          let g2 := g1.expect (bad.flatMap fun x =>
            [{ op := op, key := vkey d x.1, val := 4 }, { op := op, key := vkey (d + 1) x.1, val := 0 }])
          let reqs := (haspRequests steps).map fun x : Nat × List HaspStep =>
            { line := lineOf x.1, core := c, slot := k, launch := g.launch, vd := vd, kind := .hasp op x.1 x.2 d : HomeReq }
          let s1 := (s0.newOp).setGroup c k (g2.count .loads op false)
          { s1 with requests := s1.requests ++ reqs }

/-- `hwait` (R327): lanes whose record is still in their phase are held; a completion with status 0 is an acquire at device scope.
Addresses are checked as in `harr` (DESIGN CHOICE, log 76). -/
def execHwait (o : LaneWait) (s : State) : Result :=
  asGroup s fun c k g =>
    let d := o.data.toNat
    let vd := s.vdOf g
    if !g.addrOk o.addr || !g.inBudget d 2 then s.setGroup c k g.illegal
    else
      let as := g.laneAddrs s.tick true o.addr
      let ts := s.translateLanes c g .atomic 16 as
      match missesOf ts with
      | m :: ms => s.sendMisses c k vd (m :: ms)
      | [] =>
        let (g1, live) := g.sortLanes (s.core c) vd 16 .atomic false true ts
        let ps := live.flatMap fun x => x.2.2
        match s.heldIn c ps ps with
        | some line => s.setGroup c k (g.waitOn (.line line))
        | none =>
        let found := live.map fun x : Nat × Nat × List Piece => (x.1, s.haspAddr vd x.2.1 x.2.2)
        let ended (x : Nat × Option Nat) : Option (Nat × Option Nat) :=
          match x.2 with
          | none => some (4, none)
          | some a => (s.haspWait a vd (s.partOf g) (g.vread s.tick (d + 1) x.1).toNat).map fun r => (r.1, some r.2)
        let g2 := found.foldl (fun a x =>
          match ended x with
          | some (st, p) =>
            let b := a.vwrite s.tick d x.1 (BitVec.ofNat 32 st)
            (match p with
              | some ph => b.vwrite s.tick (d + 1) x.1 (BitVec.ofNat 32 ph)
              | none => b)
          | none => a.holdOn x.1 (lineOf (x.2.getD 0))) g1
        let s1 := ((s.usePages c vd (laneSpans 16 as)).chargePieces vd ps).setGroup c k g2
        let s2 := s1.placeLaneWards c k (found.filterMap fun x => if (ended x).isNone then x.2.map lineOf else none)
        if found.any (fun x => (ended x).map (·.1) == some 0) then s2.withCore c Core.l1Clear else s2

/-! ## Fence (R317) -/

/-- What a fence waits for: earlier loads have their values; a release waits as a release does; an acquire waits for the group's own
atomics, of which a relaxed one may be counted on stores (R106, R305). -/
def State.fenceHold (s : State) (c k : Nat) (g : Group) (o : FenceOp) : Option Wait :=
  match (if isRelease o.ord then s.releaseHold c g (wideScope o.scope) true
         else if g.loads.isEmpty then none else some (releaseWait false)) with
  | some w => some w
  | none => if isAcquire o.ord then (s.pendingOf c (some k)).map fun r => .line r.line else none

/-- `fence`: an acquire at a wide scope invalidates the L1 (R113, R305); after a release fence the synchronising stores and atomics of its
lanes are releases (R106). -/
def execFence (o : FenceOp) (s : State) : Result :=
  asGroup s fun c k g =>
    match s.fenceHold c k g o with
    | some w => s.setGroup c k (g.waitOn w)
    | none =>
      let s1 := if isRelease o.ord then s.setGroup c k { g with fenced := g.fenced ||| g.clause.active } else s
      if isAcquire o.ord && wideScope o.scope then s1.withCore c Core.l1Clear else s1

/-! ## Snapshots (R318, R319) -/

/-- What a key register of a group held is released (R84); the copy of a launch's binding has no hold of its own (R85). -/
def State.closeKey (s : State) (part : Nat) (g : Group) (z : Nat) : State × Group :=
  (if g.bound && z == 0 then s else s.releaseKey part (g.keys.get z 0),
   { g with keys := g.keys.put z 0, bound := g.bound && z != 0 })

/-- `snapo`. What a register held is released first, so that the instruction can be performed again after a wait. -/
def execSnapo (o : SnapshotOpen) (s : State) : Result :=
  asGroup s fun c k g =>
    let part := s.partOf g
    let z := o.key.toNat
    let cur := (s.device (s.vdOf g)).window
    let (s1, g1) := s.closeKey part g z
    let m := match o.expl with
      | none => winAdd cur (-2)
      | some p => keyWindow (g.spair p.toNat).toNat
    match s1.openResult part cur m with
    | .wait w => s1.setGroup c k (g1.waitOn (.snapshot w))
    | .refused st => s1.setGroup c k (g1.setSreg o.status.toNat (BitVec.ofNat 32 st))
    | .opened e =>
      (s1.addHold part e (keyOf m)).setGroup c k
        { g1.setSreg o.status.toNat 0 with keys := g1.keys.put z (keyRegister e (keyOf m)) }

/-- `snapc`. -/
def execSnapc (o : KeyOp) (s : State) : Result :=
  asGroup s fun c k g =>
    let z := g.keys.get o.key.toNat 0
    if keyValid z then
      let (s1, g1) := s.closeKey (s.partOf g) g o.key.toNat
      s1.setGroup c k g1
    else s

/-! ## Transactions (R320 to R322) -/

/-- `txb`. -/
def execTxb (o : KeyOp) (s : State) : Result :=
  asGroup s fun c k g =>
    let z := g.keys.get o.key.toNat 0
    if !keyValid z then s.setGroup c k g.illegal
    else if g.tx.isSome then s.setGroup c k (g.doom 7)
    else
      let rev := keyRevoked z
      let g1 := { g with
        tx := some { key := keyBits z, entry := keyEntry z, held := !rev, locked := [], doom := if rev then some 4 else none,
                     lines := [] },
        txs := txsWord true rev (if rev then 4 else 0) (txsLast g.txs) o.key.toNat 0 }
      (if rev then s else s.addHold (s.partOf g) (keyEntry z) (keyBits z)).setGroup c k g1

/-- The locks that a group's commit has taken on some lines are released (R78, R90). -/
def State.unlockLines (s : State) (lines : List Nat) : State :=
  { s with versions := lines.foldl (fun t line => t.change line fun v => { v with lock := none }) s.versions }

/-- The transaction of a group ends (R321, R322): locks and the hold are released, `txs` records the result. -/
def State.endTx (s : State) (c k : Nat) (cause : Nat) : State :=
  match s.group? c k with
  | none => s
  | some g =>
    match g.tx with
    | none => s
    | some t =>
      let s1 := (if t.held then s.dropHold (s.partOf g) t.entry else s).unlockLines t.locked
      s1.withGroup c k fun h => { h with tx := none, txs := txsWord false false cause (cause == 0) (txsKreg h.txs) 0 }

/-- A lock request of a group's commit (R90). -/
def lockRequest (c k : Nat) (g : Group) (vd line : Nat) : HomeReq :=
  { line := line, core := c, slot := k, launch := g.launch, vd := vd, kind := .lock }

/-- The install of a commit whose lines are all locked (R90 steps 3 and 4): a doomed one fails; one for which the window has no number
left waits for the next window; else every line gets its version under one stamp, the copies of it in all four dies go, the requester's
too (DESIGN CHOICE, log 72), and those in the L1 of every core: a load that an acquire or happens-before orders after one that returned a
version of the commit finds no older one (R137). -/
def State.commitInstall (s : State) (c k : Nat) : State :=
  match s.group? c k with
  | none => s
  | some g =>
    match g.tx with
    | none => s
    | some t =>
      match t.doom with
      | some cause => s.endTx c k cause
      | none =>
        if t.locked.length < t.lines.length then s
        else
          let vd := s.vdOf g
          let d := s.device vd
          if 0xFFFE < d.commitSeq then s
          else
            let stamp : Stamp := { window := d.window, seq := d.commitSeq, settled := false }
            let s1 := t.lines.foldl (fun a x =>
              let bs := x.2.bytes.map fun b => (x.1 * lineBytes + b.1, b.2)
              let b1 := a.demote d.part (a.collectAt d.part d.window) x.1 stamp
              let b2 := ((b1.putBytes bs).dropCopies x.1 none).charge vd lineBytes
              b2.fireWards x.1) s
            let gone : List Nat := t.lines.map (·.1)
            let s2 := { s1 with cores := s1.cores.mapAll fun _ y => gone.foldl (fun a line => a.l1Drop line) y }
            (s2.withDevice vd fun y => { y with commitSeq := y.commitSeq + 1 }).endTx c k 0

/-- A lock request performed at its line's home (R90 steps 1 and 2); the line is not locked. -/
def State.performLock (s : State) (r : HomeReq) : State :=
  match s.group? r.core r.slot with
  | none => s
  | some g =>
    match g.tx with
    | none => s
    | some t =>
      if g.launch != r.launch || g.wait != some .commit then s
      else if t.doom.isSome then s.commitInstall r.core r.slot
      else if (s.versionsOf (s.partOf g) r.line).newest.after t.key then s.endTx r.core r.slot 1
      else
        let vs := s.versionsOf (s.partOf g) r.line
        let s1 := { s with versions := s.versions.put r.line { vs with lock := some (r.core, r.slot) } }
        let s2 := s1.withGroup r.core r.slot fun h => { h with tx := some { t with locked := t.locked ++ [r.line] } }
        match (t.lines.map (·.1)).find? fun x => decide (r.line < x) with
        | some x => { s2 with requests := s2.requests ++ [lockRequest r.core r.slot g r.vd x] }
        | none => s2.commitInstall r.core r.slot

/-- The buffered lines under their present translations (R321); the replayable fault of the first line that has none. -/
def State.placeLines (s : State) (c : Nat) (g : Group) (t : Tx) : Tab TxLine × List (Nat × Nat × Translated) :=
  let ts := t.lines.map fun x => (x.1, x.2.va, s.translateGroup c g .commit x.2.va lineBytes)
  (ts.foldl (fun acc x =>
    match x.2.2, t.lines.look x.1 with
    | .ok (p :: _), some y => acc.put (lineOf p.addr)
        { y with bytes := y.bytes.foldl (fun b z => b.put z.1 z.2) (acc.get (lineOf p.addr) { va := y.va, bytes := [] }).bytes }
    | _, _ => acc) [], ts)

/-- `txc`: a release at device scope, then the commit, for which the group waits. -/
def execTxc (s : State) : Result :=
  asGroup s fun c k g =>
    match g.tx with
    | none => s
    | some t =>
      match s.releaseHold c g true true with
      | some w => s.setGroup c k (g.waitOn w)
      | none =>
        match t.doom with
        | some cause => s.endTx c k cause
        | none =>
          let (lines, ts) := s.placeLines c g t
          match missesOf ts with
          | m :: ms => s.sendMisses c k (s.vdOf g) (m :: ms)
          | [] =>
            let used := s.usePages c (s.vdOf g) (t.lines.map fun x => (x.2.va, lineBytes))
            match (ts.filterMap fun x => match x.2.2 with
              | .fault f a => some (f, a)
              | _ => none).head? with
            | some (f, a) =>
              used.setGroup c k ((g.raiseAll (.replay .memory (f.info .commit 0) (BitVec.ofNat 64 a))).doom 6)
            | none =>
              match lines with
              | [] => s.endTx c k 0
              | x :: _ =>
                let s1 := used.setGroup c k ({ g with tx := some { t with lines := lines } }.waitBehind .commit)
                { s1 with requests := s1.requests ++ [lockRequest c k g (s.vdOf g) x.1] }

/-- `txa`. -/
def execTxa (s : State) : Result := asGroup s fun c k _ => s.endTx c k 3

/-! ## Keepers (R57 to R60, R70, R323, R324) -/

/-- A keeper ends (R60): its kept lines become ordinary ones in place, its ways are free, and the rest of it keeps its values. -/
def Die.endKeeper (d : Die) (k : Nat) : Die :=
  { d with keepers := d.keepers.change k fun x => { x with en := false, ways := [] },
           l2 := d.l2.mapAll fun _ ls => ls.map fun y => if y.kept == some k then { y with kept := none } else y }

/-- A keeper of a die ends (R60): a fill of its range that is in flight completes as an ordinary fill. -/
def State.endKeeper (s : State) (die k : Nat) : State :=
  let part (r : HomeReq) : HomeReq :=
    { r with kind := match r.kind with
        | .load d (some j) ef => if d = die ∧ j = k then .load d none ef else r.kind
        | .own d (some j) ef => if d = die ∧ j = k then .own d none ef else r.kind
        | x => x }
  { s.withDie die fun d =>
      { d.endKeeper k with fills := d.fills.map fun f => if f.keeper == some k then { f with keeper := none } else f } with
    requests := s.requests.map part }

/-- The enabled keepers of a die. -/
def Die.live (d : Die) : List (Nat × Keeper) := d.keepers.filter fun k => k.2.en

/-- The ways from 15 down to 4 that no enabled keeper holds, highest first (R58). -/
def Die.freeWays (d : Die) : List Nat :=
  let held := d.live.flatMap fun k => k.2.ways
  (((List.range 12).map fun i => 15 - i)).filter fun w => !held.contains w

/-- A keep request (R58): the status, and the keeper on status 0. -/
def State.keepResult (s : State) (die vd base limit n : Nat) : Nat × Option (Nat × Keeper) :=
  let d := s.die die
  let q := (s.device vd).cache.get 0x80 0
  let kmax := min 8 (bits q 0 4)
  let wmax := min 4 (bits q 8 4)
  let b := base / lineBytes * lineBytes
  let l := (limit + lineBytes - 1) / lineBytes * lineBytes
  let free := (List.range 8).find? fun k => !(d.keepers.get k Keeper.free).en
  match free with
  | none => (1, none)
  | some k =>
    if kmax ≤ (d.live.filter fun x => x.2.vd == vd).length ∨ wmax < n then (2, none)
    else if d.freeWays.length < n then (3, none)
    else if n = 0 ∨ 4 < n ∨ l ≤ b ∨ !canonical b ∨ !canonical l ∨ 2 ^ 64 ≤ l then (4, none)
    else (0, some (k, { base := b, limit := l, en := true, vd := vd, part := (s.device vd).part, ways := d.freeWays.take n }))

/-- `keep`. -/
def execKeep (o : KeepOp) (s : State) : Result :=
  asGroup s fun c k g =>
    let d := o.d.toNat
    let (st, kp) := s.keepResult (dieOf c) (s.vdOf g) (g.spair o.base.toNat).toNat (g.spair d).toNat o.ways.toNat
    match kp with
    | some (n, x) =>
      (s.withDie (dieOf c) fun y => { y with keepers := y.keepers.put n x }).setGroup c k
        ((g.setSreg d 0).setSreg (d + 1) (BitVec.ofNat 32 n))
    | none => s.setGroup c k ((g.setSreg d (BitVec.ofNat 32 st)).setSreg (d + 1) (BitVec.allOnes 32))

/-- `unkeep`. -/
def execUnkeep (o : UnkeepOp) (s : State) : Result :=
  asGroup s fun c _ g =>
    let n := (g.sreg o.d.toNat).toNat
    let vd := s.vdOf g
    let x := (s.die (dieOf c)).keepers.get n Keeper.free
    if n < 8 ∧ x.en = true ∧ x.vd = vd ∧ x.part = (s.device vd).part then s.endKeeper (dieOf c) n else s

end Sys2Proof.Machine
end

