-- ==== Sys2Proof/Machine/Barrier.lean ====
section
/-! DEFINITION. Barriers (R277, R278, with the handles of R175 to R177), the device-side launch (R281, R222), and the job fence (R131,
R363). -/

namespace Sys2Proof.Machine

open Sys2Proof

/-- A wait ends: a waiting group is resident again; one that is halted or replayable keeps its state (R206). -/
def Group.endWait (g : Group) : Group := { g with wait := none, phase := if g.phase = .waiting then .resident else g.phase }

/-- The groups of a gang that have not ended, by slot. -/
def State.gangGroups (s : State) (c n : Nat) : List (Nat × Group) :=
  (s.core c).groups.filter (fun x => x.2.gang == n) ++ (match s.gang? c n with
    | some y => y.saved.groups
    | none => [])

/-- CheckBar of R277. -/
def State.checkBar (s : State) (c n b : Nat) : State :=
  match s.gang? c n with
  | none => s
  | some y =>
    let x := y.bars.get b { arrivals := 0, expect := 0 }
    let need := if x.expect = 0 then (s.gangGroups c n).length else x.expect
    if x.arrivals = 0 ∨ x.arrivals < need then s
    else
      let s1 := s.withGang c n fun z => { z with bars := z.bars.put b { x with arrivals := 0 } }
      s1.withGroups c fun t => t.mapAll fun _ g => if g.gang == n && g.wait == some (.barrier b) then g.endWait else g

/-- An arrival at an on-chip barrier (R277): none when the count disagrees with the one expected. -/
def State.arriveBar (s : State) (c k n b cnt : Nat) : Option State :=
  let y := (s.gang? c n).map fun z => z.bars.get b { arrivals := 0, expect := 0 }
  match y with
  | none => none
  | some x =>
    if x.arrivals ≠ 0 ∧ cnt ≠ x.expect then none
    else
      let s1 := s.withGang c n fun z => { z with bars := z.bars.put b { arrivals := x.arrivals + 1,
                                                                        expect := if x.arrivals = 0 then cnt else x.expect } }
      some ((s1.withGroup c k fun g => g.waitBehind (.barrier b)).checkBar c n b)

/-- Bytes read at their homes. -/
def State.homeBytes (s : State) (ps : List Piece) : List Byte :=
  (byteAddrs ps).map fun (a, p) => (s.readMem p.page.tier a 1).headD 0

/-- The handle fault (R177, R277, R386). -/
def handleFault (h : Word) : Raise := .trap .handle (h &&& 0xFF#32) 0

/-- A barrier-handle entry (R177): its KIND, COUNT, BAR and ADDR, when its reserved fields are 0 and its KIND is used. -/
def barEntry (ctl addr created : Nat) : Option (Bool × Nat × Nat) :=
  let kind := ent ctl 62 2
  let count := ent ctl 8 8
  if ent ctl 16 46 ≠ 0 ∨ ent ctl 4 4 ≠ 0 then none
  else if kind = 1 then (if addr = 0 ∧ count ≤ created then some (false, count, ent ctl 0 4) else none)
  else if kind = 2 then (if count = 0 ∧ ent ctl 0 4 = 0 then some (true, 0, addr) else none)
  else none

/-- A hasp barrier (R277): a release, the arrival, and the wait on the phase it returned. -/
def State.haspBar (s : State) (c k : Nat) (g : Group) (h : Word) (addr : Nat) : State :=
  let vd := s.vdOf g
  match s.releaseHold c g true true with
  | some w => s.setGroup c k (g.waitOn w)
  | none =>
    match s.translateGroup c g .atomic addr 16 with
    | .miss ps => s.sendMisses c k vd ps
    | .fault f a => (s.usePages c vd [(addr, 16)]).setGroup c k (g.raiseAll (f.raises .atomic 0 a))
    | .ok ps =>
      match s.haspAddr vd addr ps, s.lockedIn ps with
      | none, _ => (s.usePages c vd [(addr, 16)]).setGroup c k (g.raiseAll (handleFault h))
      | some _, some line => s.setGroup c k (g.waitOn (.line line))
      | some a, none =>
        let s0 := (s.usePages c vd [(addr, 16)]).chargePieces vd ps
        let (s1, st, p) : State × Nat × Nat := s0.haspArrive a 1 vd (s.partOf g) (some c)
        if st = 2 ∨ st = 3 then s0.setGroup c k (g.raiseAll (handleFault h))
        else
          match s1.haspWait a vd (s.partOf g) p with
          | some _ => s1.withCore c Core.l1Clear
          | none =>
            (s1.withGroup c k fun x => x.waitBehind (.hasp a (BitVec.ofNat 32 p) false)).placeWard (lineOf a) (.group c k)

/-- A hasp barrier whose entry has been read: the record stays the one that was resolved, whatever the arrival still waits for (R176). -/
def State.resolvedBar (s : State) (c k : Nat) (g : Group) (h : Word) (addr : Nat) : State :=
  (s.setGroup c k { g with object := some addr }).haspBar c k { g with object := some addr } h addr

/-- `bar` (R277). In trap mode it is an illegal instruction (R278). An arrival is a release at least at gang scope (R278): the requests of
its group are performed before it. -/
def execBar (a : BitVec 6) (s : State) : Result :=
  asGroup s fun c k g =>
    let h := g.sreg a.toNat
    let vd := s.vdOf g
    let btab := (s.device vd).fabric.get 0x20 0
    if g.activeTrap then s.setGroup c k g.illegal
    else
      match g.object with
      | some addr => s.resolvedBar c k g h addr
      | none =>
        if 256 ≤ h.toNat ∨ btab.getLsbD 0 = false then s.setGroup c k (g.raiseAll (handleFault h))
        else
          match s.pendingOf c (some k) with
          | some r => s.setGroup c k (g.waitOn (.line r.line))
          | none =>
          let entry := (btab &&& ~~~0xFFF#64).toNat + 16 * h.toNat
          match s.translateGroup c g .load entry 16 with
          | .miss ps => s.sendMisses c k vd ps
          | .fault f x => (s.usePages c vd [(entry, 16)]).setGroup c k (g.raiseAll (f.raises .load 0 x))
          | .ok ps =>
            match s.lockedIn ps with
            | some line => s.setGroup c k (g.waitOn (.line line))
            | none =>
              let s0 := (s.usePages c vd [(entry, 16)]).chargePieces vd ps
              let bs := s.homeBytes ps
              match barEntry (field bs 0 8) (field bs 8 8) (s.gangOf c g).created with
              | none => s0.setGroup c k (g.raiseAll (handleFault h))
              | some (false, cnt, b) => (s0.arriveBar c k g.gang b cnt).getD (s0.setGroup c k (g.raiseAll (handleFault h)))
              | some (true, _, addr) => s0.resolvedBar c k g h addr

/-! ## Device-side launch -/

/-- A packet with PRIO reduced to that of the issuing launch when it is higher (R222). -/
def lowerPrio (p : Packet) (prio : Nat) : Packet := p.set 0x00E (BitVec.ofNat 8 (min (pkPrio p) prio))

/-- Step 5 of R281, once the queue has room: the copy is placed; until then the group keeps it and waits. -/
def State.queueCopy (s : State) (c k : Nat) (g : Group) (copy : List Byte) : State :=
  let vd := s.vdOf g
  if 64 ≤ (s.device vd).launchQueue.length then s.setGroup c k ({ g with copied := copy }.waitOn .launchQueue)
  else
    let prio := match s.launches.look g.launch with
      | some l => pkPrio l.pkt
      | none => 0
    s.withDevice vd fun d => { d with launchQueue := d.launchQueue ++ [lowerPrio copy prio] }

/-- `launch` (R281). -/
def execLaunch (pair : BitVec 6) (s : State) : Result :=
  asGroup s fun c k g =>
    let q := (g.spair pair.toNat).toNat
    let vd := s.vdOf g
    if !g.copied.isEmpty then s.queueCopy c k g g.copied
    else if !canonical q then s.setGroup c k (g.raiseAll ((⟨1, noLevel, 0⟩ : XFault).raises .load 0 q))
    else if q % 16 ≠ 0 then s.setGroup c k g.illegal
    else
      match s.releaseHold c g true true with
      | some w => s.setGroup c k (g.waitOn w)
      | none =>
        match s.translateGroup c g .load q 0x180 with
        | .miss ps => s.sendMisses c k vd ps
        | .fault f x => (s.usePages c vd [(q, 0x180)]).setGroup c k (g.raiseAll (f.raises .load 0 x))
        | .ok ps =>
          let n := min (field (s.homeBytes ps) 0x080 2) 32
          match s.translateGroup c g .load ((q + 0x180) % 2 ^ 64) (16 * n) with
          | .miss ms => s.sendMisses c k vd ms
          | .fault f x => (s.usePages c vd [(q, 0x180 + 16 * n)]).setGroup c k (g.raiseAll (f.raises .load 0 x))
          | .ok qs =>
            match s.lockedIn (ps ++ qs) with
            | some line => s.setGroup c k (g.waitOn (.line line))
            | none =>
              ((s.usePages c vd [(q, 0x180 + 16 * n)]).chargePieces vd (ps ++ qs)).queueCopy c k g (s.homeBytes (ps ++ qs))

/-! ## Job fence -/

/-- `jfence` (R131, R363). `stage` holds the window waited for, plus 1, once the first fence has performed. -/
def execJfence (s : State) : Result :=
  asGroup s fun c k g =>
    let cur := (s.device (s.vdOf g)).window
    let g1 := { g with fenced := g.fenced ||| g.clause.active }
    match s.releaseHold c g true true with
    | some w => s.setGroup c k (g.waitOn w)
    | none =>
      match g.stage with
      | 0 =>
        let m := winAdd cur 2
        (s.withCore c Core.l1Clear).setGroup c k ({ g1 with stage := m + 1 }.waitOn (.fence m))
      | m + 1 =>
        if winLe m cur then (s.withCore c Core.l1Clear).setGroup c k g1.raiseRemote
        else s.setGroup c k (g.waitOn (.fence m))

end Sys2Proof.Machine
end

