-- ==== Sys2Proof/Machine/Engine.lean ====
section
/-! DEFINITION. What the engines share (spec/04, R117 to R125): the issue of an operation with its latch entries, its completion on the
counter of its group, cluster sets (R187), and the ending of gangs. -/

namespace Sys2Proof.Machine

open Sys2Proof

/-! ## Cluster sets -/

/-- The gang of the issuer's cluster set on core i of the cluster (R187, R330): its core, number and record. -/
def State.setGang (s : State) (c n : Nat) (y : Gang) (i : Nat) : Option (Nat × Nat × Gang) :=
  let cc := clusterOf c * Config.coresPerCluster + i
  if cc = c then some (c, n, y)
  else ((s.core cc).gangs.find? fun z => z.2.launch == y.launch && z.2.set == y.set).map fun z => (cc, z.1, z.2)

/-- The cores of the cluster that a mask names. -/
def maskCores (m : Nat) : List Nat := (List.range 8).filter fun i => ent m i 1 == 1

/-! ## Ending of gangs -/

/-- A launch has an engine operation whose gang is of a cluster set. -/
def State.setBusy (s : State) (launch set : Nat) : Bool :=
  s.ops.any fun o => o.2.launch == launch && (match s.gang? o.2.core o.2.gang with
    | some y => y.set == set
    | none => false)

/-- A gang has ended when its groups have been created, each of them has ended, no engine operation of its cluster set is under way,
and what its rings have accepted has taken effect: those complete (R223, R348, R349), and its units stay its own until then. -/
def State.gangOver (s : State) (c n : Nat) (y : Gang) : Bool :=
  y.populated && (s.gangGroups c n).isEmpty && !s.setBusy y.launch y.set && y.rings.all fun r => r.2.deferred.isEmpty

/-- The gangs of a launch that have ended leave their cores. -/
def State.settleGangs (s : State) (launch : Nat) : State :=
  { s with cores := s.cores.mapAll fun c x =>
      { x with gangs := x.gangs.filter fun z => !(z.2.launch == launch && s.gangOver c z.1 z.2) } }

/-! ## Latches (R119, R120, R125) -/

/-- A new entry conflicts with one that is held (R119): they overlap, and one of them is a destination. -/
def latchClash (new old : Latch) : Bool :=
  (new.dest || old.dest) && decide (new.lo < old.hi ∧ old.lo < new.hi)
    && (if new.global then old.global && old.vd == new.vd else !old.global && old.gang == new.gang)

/-- The entries can be registered now: none clashes, and each core has room (R119, R125). -/
def State.latchesOk (s : State) (ls : List (Nat × Latch)) : Bool :=
  ls.all fun x => !((s.core x.1).latches.any fun e => latchClash x.2 e.2)
    && decide ((s.core x.1).latches.length + (ls.filter fun y => y.1 == x.1).length ≤ 64)

/-- An entry registered in the lowest free place of a core's table. -/
def Core.addLatch (x : Core) (l : Latch) : Core :=
  match x.latches.freshFrom 64 0 with
  | some i => { x with latches := x.latches.put i l }
  | none => x

/-! ## Issue and completion -/

/-- An entry over a gang's scratchpad, and one over a device's global addresses; the operation is filled in at issue. -/
def scratchLatch (gang lo hi : Nat) (dest tile : Bool) : Latch :=
  { op := 0, slot := 0, global := false, vd := 0, gang := gang, lo := lo, hi := hi, dest := dest, tile := tile }
def globalLatch (vd lo hi : Nat) (dest : Bool) : Latch :=
  { op := 0, slot := 0, global := true, vd := vd, gang := 0, lo := lo, hi := hi, dest := dest, tile := false }

/-- An engine operation issues: it is counted, and its entries are registered (R118, R120). -/
def State.issueOp (s : State) (c k : Nat) (g : Group) (kind : EngKind) (ctr : Counter) (pages : List Page)
    (ls : List (Nat × Latch)) : State :=
  let id := s.nextOp
  let o : EngOp := { kind := kind, core := c, slot := k, launch := g.launch, gang := g.gang, vd := s.vdOf g, ctr := ctr,
                     pages := pages, bad := [], window := (s.device (s.vdOf g)).window, done := 0 }
  let s1 := (s.newOp).setGroup c k (g.count ctr id false)
  ls.foldl (fun a x => a.withCore x.1 fun y => y.addLatch { x.2 with op := id, slot := k }) { s1 with ops := s1.ops.put id o }

/-- An engine operation issues if its latch entries allow it, else its group waits (R119, R125). -/
def State.engage (s : State) (c k : Nat) (g : Group) (kind : EngKind) (ctr : Counter) (pages : List Page)
    (ls : List (Nat × Latch)) : State :=
  if s.latchesOk ls then s.issueOp c k g kind ctr pages ls else s.setGroup c k (g.waitOn (.latch ls))

/-- A change of the group that issued an operation, wherever it is; a group that has ended is gone. -/
def State.withIssuer (s : State) (o : EngOp) (f : Group → Group) : State :=
  let saved := s.withGang o.core o.gang fun y => { y with saved := { y.saved with groups := y.saved.groups.change o.slot f } }
  match s.group? o.core o.slot with
  | some g => if g.launch == o.launch && g.gang == o.gang then s.setGroup o.core o.slot (f g) else saved
  | none => saved

/-- An engine operation is complete: its entries are released, it is counted, and its gang may have ended (R118, R120). -/
def State.finishOp (s : State) (id : Nat) : State :=
  match s.ops.look id with
  | none => s
  | some o =>
    let s1 := { s with
      ops := s.ops.del id,
      cores := s.cores.mapAll fun _ x => { x with latches := x.latches.filter fun e => e.2.op != id,
                                                  engine := x.engine.filter fun i => i != id } }
    (s1.withIssuer o fun g => g.finish o.ctr id).settleGangs o.launch

/-- A gang's units are not all in its places: some are spilled, or others' are still in them (R398). -/
def State.gangAway (s : State) (c n : Nat) : Bool :=
  match s.gang? c n with
  | some y => !y.populated || !y.spilled.isEmpty
  | none => false

/-- Units of a gang are out of their places (R398). -/
def State.spilledGang (s : State) (c n : Nat) : Bool :=
  match s.gang? c n with
  | some y => !y.spilled.isEmpty
  | none => false

end Sys2Proof.Machine
end

