-- ==== Sys2Proof/Machine/Matrix.lean ====
section
/-! DEFINITION. The matrix class (spec/13, R328 to R340): the checks and the issue of its instructions, and what each operation does when it
completes (TILE_OP_COMPLETE) or reaches another core's engine (MLD_REACH_ENGINE). -/

namespace Sys2Proof.Machine

open Sys2Proof

/-! ## Images (R329) -/

def matFmt : MatFormat → Num.Fmt
  | .e4m3 => Num.e4m3 | .e5m2 => Num.e5m2 | .bf16 => Num.bf16 | .f16 => Num.f16

def MatFormat.mx (f : MatFormat) : Bool := f == .e4m3 || f == .e5m2

/-- Bytes of an image. -/
def imageBytes (f : MatFormat) : Nat := if MatFormat.mx f then 16896 else 32768

/-- The offset of element (row, column) of an image whose rows are `major`, and of the scale of a block. -/
def elemOffset (f : MatFormat) (major minor : Nat) : Nat := if MatFormat.mx f then 128 * major + minor else 2 * (128 * major + minor)
def scaleOffset (major j : Nat) : Nat := 16384 + 4 * major + j
def elemBytes (f : MatFormat) : Nat := if MatFormat.mx f then 1 else 2

/-! ## Faults in common (R328) -/

/-- The information word's KIND for a buffer or image that is written, or only read. -/
def touch (writes : Bool) : Access := if writes then .store else .load

/-- The typed-buffer fault: SPACE 2 for a panel and 3 for a tile. -/
def bufferFault (space : Nat) (writes : Bool) (n : Nat) : Raise := (⟨0x0B, noLevel, 0⟩ : XFault).raises (touch writes) space n

/-- Checks 2 to 4 of R328 on a tile, a panel and an image [o, o + n) below a bound. -/
def matrixFault (tile : Option (Nat × Nat × Bool)) (panel : Option (Nat × Nat × Bool)) (image : Option (Nat × Nat × Nat × Bool)) :
    Option Raise :=
  match (match tile with
    | some (t, have', w) => if have' ≤ t then some (bufferFault 3 w t) else none
    | none => none) with
  | some r => some r
  | none =>
    match (match panel with
      | some (p, have', w) => if have' ≤ p then some (bufferFault 2 w p) else none
      | none => none) with
    | some r => some r
    | none =>
      match image with
      | none => none
      | some (o, n, bound, w) =>
        if o % 4 ≠ 0 then some (alignTrap (touch w) 1 o)
        else if bound < o + n then some (boundFault (touch w) (max o bound))
        else none

/-- The operation is one of a matrix engine. -/
def EngKind.matrix : EngKind → Bool
  | .mld _ _ _ _ _ _ => true | .mul _ _ _ _ _ _ => true | .zero _ _ => true | .drain _ _ _ _ => true
  | .rowRead _ _ _ _ _ => true | .rowWrite _ _ _ _ _ => true
  | .copy _ _ _ _ => false | .fabric _ _ _ _ _ _ => false | .channel _ _ _ _ _ _ => false

/-- The tile of its core that an operation names (R51). -/
def EngKind.tile : EngKind → Option Nat
  | .mul _ t _ _ _ _ => some t | .zero t _ => some t | .drain t _ _ _ => some t | .rowRead t _ _ _ _ => some t
  | .rowWrite t _ _ _ _ => some t
  | .mld _ _ _ _ _ _ => none | .copy _ _ _ _ => none | .fabric _ _ _ _ _ _ => none | .channel _ _ _ _ _ _ => none

/-- Operations of a core's matrix engine that have issued and not completed (R328). -/
def State.matrixOps (s : State) (c : Nat) : Nat := (s.ops.filter fun o => o.2.core == c && o.2.kind.matrix).length

/-- An earlier operation on a tile of a core, issued before operation `id`, is not complete (R51). -/
def State.tileBusy (s : State) (c t id : Nat) : Bool := s.ops.any fun o => decide (o.1 < id) && o.2.core == c && o.2.kind.tile == some t

/-- A matrix operation that has passed its checks issues, when the engine holds fewer than 16 (R328). -/
def State.engageMatrix (s : State) (c k : Nat) (g : Group) (kind : EngKind) (ls : List (Nat × Latch)) : State :=
  if 16 ≤ s.matrixOps c then s.setGroup c k (g.waitOn .matrix) else s.engage c k g kind .tiles [] ls

/-! ## Stationary load (R330 to R332) -/

/-- An operation reaches the matrix engine of a core (R331); a stationary load fixes the format of its panel (R333). -/
def Core.reach (x : Core) (id : Nat) (load : Option (Nat × MatFormat)) : Core :=
  let y := { x with engine := x.engine ++ [id] }
  match load with
  | some (p, f) => { y with panels := y.panels.update p Panel.clear fun q => { q with fmt := some f } }
  | none => y

/-- The panel of a core that an operation names: the one it multiplies by, or loads. -/
def EngKind.panelOn (o : EngKind) (onCore : Bool) (c : Nat) : Option Nat :=
  match o with
  | .mul _ _ p _ _ _ => if onCore then some p else none
  | .mld _ _ _ _ ts _ => (ts.find? fun t => t.1 == c).map (·.2)
  | _ => none

/-- The operations that name a panel of a core, in the order in which they reached its engine (R331). -/
def State.panelQueue (s : State) (c p : Nat) : List Nat :=
  (s.core c).engine.filter fun i => match s.ops.look i with
    | some o => o.kind.panelOn (o.core == c) c == some p
    | none => false

/-- A panel is loading once every earlier multiply that names it has read it (R49). -/
def State.startLoad (s : State) (c p : Nat) : State :=
  match (s.panelQueue c p).head?.bind fun i => s.ops.look i with
  | some o =>
    match o.kind with
    | .mld _ _ _ f _ _ => s.withCore c fun x => { x with panels := x.panels.update p Panel.clear fun q => { q with state := .loading f } }
    | _ => s
  | none => s

/-- `mld` (R330 to R332). -/
def execMld (o : StationaryLoad) (s : State) : Result :=
  asGroup s fun c k g =>
    let y := s.gangOf c g
    let w := (g.sreg o.s.toNat).toNat
    let rem := ent w 31 1 == 1
    let off := ent w 0 21
    let p := o.p.toNat
    let src := if rem then s.setGang c g.gang y (ent w 28 3) else some (c, g.gang, y)
    let wanted := maskCores o.x.toNat
    let found := wanted.filterMap fun i => s.setGang c g.gang y i
    if ent w 21 7 ≠ 0 ∨ (rem = false ∧ ent w 28 3 ≠ 0) then s.setGroup c k g.illegal
    else
      let early : Option Raise :=
        if y.panels.length ≤ p ∨ found.length < wanted.length then some (bufferFault 2 true p)
        else if off % 4 ≠ 0 then some (alignTrap .load 1 off)
        else match src with
          | none => some (boundFault .load off)
          | some (_, _, z) => matrixFault none none (some (off, imageBytes o.f, z.bound, false))
      match early, src with
      | some r, _ => s.setGroup c k (g.raiseAll r)
      | none, none => s
      | none, some (sc, sg, _) =>
        let targets := ((c, g.gang, y) :: found.filter fun t => t.1 != c).map fun t => (t.1, t.2.2.panels.getD p 0)
        let id := s.nextOp
        let s1 := s.engageMatrix c k g (.mld sc sg off o.f targets [c])
          [(sc, scratchLatch sg off (off + imageBytes o.f) false true)]
        if s1.nextOp = id then s1
        else
          let pc := y.panels.getD p 0
          (s1.withCore c fun x => x.reach id (some (pc, o.f))).startLoad c pc

/-- A gang of a launch has a panel of a core, and its units are not all in its places (R398). -/
def State.panelAway (s : State) (launch c p : Nat) : Bool :=
  (s.core c).gangs.any fun y => y.2.launch == launch && y.2.panels.contains p && s.gangAway c y.1

/-- A stationary load reaches the matrix engine of another target core, where its target's units are in place (R331). -/
def execMldReachEngine (s : State) : Result :=
  let (id, c, _) := s.object
  match s.ops.look id with
  | some o =>
    match o.kind with
    | .mld sc sg off f ts done =>
      match ts.find? fun t => t.1 == c with
      | some (_, p) =>
        if done.contains c || s.panelAway o.launch c p then .next s
        else
          let s1 := { s with ops := s.ops.put id { o with kind := .mld sc sg off f ts (done ++ [c]) } }
          .next ((s1.withCore c fun x => x.reach id (some (p, f))).startLoad c p)
      | none => .next s
    | _ => .next s
  | none => .next s

/-! ## Multiply, zero, drain, rows -/

/-- `mma` and `mmar` (R333, R335, R336). -/
def multiply (redundant : Bool) (o : MatrixMultiply) (s : State) : Result :=
  asGroup s fun c k g =>
    let y := s.gangOf c g
    let w := (g.sreg o.s.toNat).toNat
    let off := ent w 0 21
    if ent w 21 11 ≠ 0 then s.setGroup c k g.illegal
    else
      match matrixFault (some (o.t.toNat, y.tiles.length, true)) (some (o.p.toNat, y.panels.length, false))
          (some (off, imageBytes o.f, y.bound, false)) with
      | some r => s.setGroup c k (g.raiseAll r)
      | none =>
        let pc := y.panels.getD o.p.toNat 0
        let pf := ((s.core c).panels.get pc Panel.clear).fmt
        let clash := match pf with
          | some f => MatFormat.mx f != MatFormat.mx o.f
          | none => false
        if clash then
          let code := match pf with
            | some .e4m3 => 0
            | some .e5m2 => 1
            | _ => 2
          s.setGroup c k (g.raiseAll (.trap .operandFormat (BitVec.ofNat 32 (o.t.toNat + 2 ^ 8 * code)) 0))
        else
          let id := s.nextOp
          let s1 := s.engageMatrix c k g
            (.mul redundant (y.tiles.getD o.t.toNat 0) pc o.f off (if pf.isSome then g.clause.active else 0))
            [(c, scratchLatch g.gang off (off + imageBytes o.f) false true)]
          if s1.nextOp = id then s1 else s1.withCore c fun x => x.reach id none

/-- `mma`. -/
def execMma (o : MatrixMultiply) (s : State) : Result := multiply false o s
/-- `mmar`. -/
def execMmar (o : MatrixMultiply) (s : State) : Result := multiply true o s

/-- `mzero` (R337). -/
def execMzero (tile : BitVec 6) (s : State) : Result :=
  asGroup s fun c k g =>
    let y := s.gangOf c g
    match matrixFault (some (tile.toNat, y.tiles.length, true)) none none with
    | some r => s.setGroup c k (g.raiseAll r)
    | none => s.engageMatrix c k g (.zero (y.tiles.getD tile.toNat 0) g.clause.active) []

/-- A drain or row read that has passed its checks reaches its tile after every earlier operation on it (R51), and is refused there for
a mismatch of an active lane (R339, R340). -/
def State.atTile (s : State) (c k : Nat) (g : Group) (t pt : Nat) (go : State) : State :=
  if s.tileBusy c pt s.nextOp then s.setGroup c k (g.waitOn (.tile pt))
  else
    let m := ((s.core c).tiles.get pt Tile.clear).mismatch
    if m &&& g.clause.active ≠ 0 then
      s.setGroup c k (g.raiseAll (.trap .redundancy (BitVec.ofNat 32 t) (m.zeroExtend 64)))
    else go

/-- The rows of a lane: l, l + 32, l + 64, l + 96. -/
def laneRows (l : Nat) : List Nat := [l, l + 32, l + 64, l + 96]

/-- The bounding range of the bytes that a drain writes (R120, R338). -/
def drainRange (f : MatFormat) (off : Nat) (lanes : LaneSet) : Nat × Nat :=
  let ls := lanesOf lanes
  let lo := ls.headD 0
  let hi := ls.getLastD 0 + 96
  (off + elemOffset f lo 0, if MatFormat.mx f then off + scaleOffset hi 4 else off + elemOffset f (hi + 1) 0)

/-- `mdrain` (R338, R339). -/
def execMdrain (o : MatrixDrain) (s : State) : Result :=
  asGroup s fun c k g =>
    let y := s.gangOf c g
    let w := (g.sreg o.s.toNat).toNat
    let off := ent w 0 21
    if ent w 21 11 ≠ 0 then s.setGroup c k g.illegal
    else
      match matrixFault (some (o.t.toNat, y.tiles.length, false)) none (some (off, imageBytes o.f, y.bound, true)) with
      | some r => s.setGroup c k (g.raiseAll r)
      | none =>
        let pt := y.tiles.getD o.t.toNat 0
        let r := drainRange o.f off g.clause.active
        s.atTile c k g o.t.toNat pt
          (s.engageMatrix c k g (.drain pt o.f off g.clause.active) [(c, scratchLatch g.gang r.1 r.2 true true)])

/-- The value of a tile. -/
def Tile.at (t : Tile) (m n : Nat) : Word := t.vals.get (128 * m + n) 0

/-- `mrowrd` (R340): its tile is settled when it issues, so the values to deliver are known then. -/
def execMrowrd (o : MatrixRow) (s : State) : Result :=
  asGroup s fun c k g =>
    let y := s.gangOf c g
    let v := o.v.toNat
    if !g.inBudget v 8 then s.setGroup c k g.illegal
    else
      match matrixFault (some (o.t.toNat, y.tiles.length, false)) none none with
      | some r => s.setGroup c k (g.raiseAll r)
      | none =>
        let pt := y.tiles.getD o.t.toNat 0
        let tile := (s.core c).tiles.get pt Tile.clear
        let id := s.nextOp
        let vals := (lanesOf g.clause.active).flatMap fun l => (List.range 8).map fun j =>
          ({ op := id, key := vkey (v + j) l, val := tile.at (l + 32 * o.q.toNat) (8 * o.cb.toNat + j) } : PendingReg)
        let s1 := s.engageMatrix c k g (.rowRead pt o.q.toNat o.cb.toNat v g.clause.active) []
        s.atTile c k g o.t.toNat pt (if s1.nextOp = id then s1 else s1.withGroup c k fun h => h.expect vals)

/-- `mrowwr` (R340). -/
def execMrowwr (o : MatrixRow) (s : State) : Result :=
  asGroup s fun c k g =>
    let y := s.gangOf c g
    let v := o.v.toNat
    if !g.inBudget v 8 then s.setGroup c k g.illegal
    else
      match matrixFault (some (o.t.toNat, y.tiles.length, true)) none none with
      | some r => s.setGroup c k (g.raiseAll r)
      | none =>
        let vals := (lanesOf g.clause.active).flatMap fun l => (List.range 8).map fun j =>
          (128 * (l + 32 * o.q.toNat) + 8 * o.cb.toNat + j, g.vread s.tick (v + j) l)
        s.engageMatrix c k g (.rowWrite (y.tiles.getD o.t.toNat 0) o.q.toNat o.cb.toNat g.clause.active vals) []

/-! ## Completion -/

/-- A multiply (R334) on the rows of some lanes, with the A image at an offset of a scratchpad and the panel's format. -/
def mulRows (read : Nat → Byte) (panel : Memory) (fa fb : MatFormat) (lanes : LaneSet) (t : Tab Word) : Tab Word :=
  let num (f : MatFormat) (get : Nat → Byte) (o : Nat) : Num.Fp :=
    Num.decode (matFmt f) (ofBytes ((List.range (elemBytes f)).map fun i => get (o + i)))
  let rows := (lanesOf lanes).flatMap laneRows
  rows.foldl (fun acc m => (List.range 128).foldl (fun acc2 n =>
    let value := (List.range 4).foldl (fun a j =>
      let ks := (List.range 32).map fun i => 32 * j + i
      let xa := (read (scaleOffset m j)).toNat
      let xb := (panel.read (scaleOffset n j)).toNat
      let sx : Option Int :=
        if MatFormat.mx fa then (if xa = 255 ∨ xb = 255 then none else some ((xa : Int) + xb - 254)) else some 0
      Num.accumulate a (Num.blockDot sx (ks.map fun i => num fa read (elemOffset fa m i))
        (ks.map fun i => num fb panel.read (elemOffset fb n i)))) ((acc2.get (128 * m + n) 0).toNat)
    acc2.put (128 * m + n) (BitVec.ofNat 32 value)) acc) t

/-- The bytes that a drain writes for the rows of some lanes, relative to its image (R338). -/
def drainBytes (t : Tile) (f : MatFormat) (lanes : LaneSet) : List (Nat × Byte) :=
  ((lanesOf lanes).flatMap laneRows).flatMap fun m =>
    if MatFormat.mx f then
      (List.range 4).flatMap fun j =>
        let (qs, x) := Num.encodeMX (matFmt f) (if f == .e4m3 then 8 else 15) .tz
          ((List.range 32).map fun i => (t.at m (32 * j + i)).toNat)
        (qs.zipIdx.map fun (q, i) => (elemOffset f m (32 * j + i), BitVec.ofNat 8 q)) ++ [(scaleOffset m j, BitVec.ofNat 8 x)]
    else
      (List.range 128).flatMap fun n =>
        addressed (elemOffset f m n) (toBytes 2 (Num.encode (matFmt f) (Num.round (matFmt f) .tz (Num.decode Num.f32 (t.at m n).toNat)).val))

/-- The targets that an operation can fill now, if it is a stationary load: it has reached the engine, is first among the operations on
the panel, and the units of the source and the target are in place. Each engine takes the operations on a panel in its own order of
arrival (R331), so one target may be filled before another. -/
def State.fills (s : State) (id : Nat) (o : EngOp) : List (Nat × Nat) :=
  match o.kind with
  | .mld sc sg _ _ ts done =>
    if s.gangAway sc sg then []
    else ts.filter fun t => done.contains t.1 && (s.panelQueue t.1 t.2).head? == some id && !s.panelAway o.launch t.1 t.2
  | _ => []

/-- A matrix operation can go on: the earlier ones on its tile and panel are complete (R49, R51, R331), and its gangs are in place. -/
def State.matrixReady (s : State) (id : Nat) (o : EngOp) : Bool :=
  match o.kind with
  | .mld _ _ _ _ _ _ => !(s.fills id o).isEmpty
  | .mul _ t p _ _ _ => !s.tileBusy o.core t id && (s.panelQueue o.core p).head? == some id
  | k => k.matrix && (match k.tile with
    | some t => !s.tileBusy o.core t id
    | none => true)

/-- A stationary load has filled a target, so its image has been read. -/
def EngKind.readDone : EngKind → Bool
  | .mld _ _ _ _ ts done => done.any fun c => !(ts.any fun t => t.1 == c)
  | _ => false

/-- A tile changed. -/
def State.withTile (s : State) (c t : Nat) (f : Tile → Tile) : State :=
  s.withCore c fun x => { x with tiles := x.tiles.update t Tile.clear f }

/-- What a matrix operation does when it is performed (R330, R334, R336 to R338, R340). One whose data met an uncorrectable error leaves
its panels empty or its tile unchanged (R332, R335). -/
def State.performMatrix (s : State) (id : Nat) (o : EngOp) : State :=
  let x := s.core o.core
  let scratch (c n off i : Nat) : Byte :=
    match s.gang? c n with
    | some y => (s.core c).scratchByte y (off + i)
    | none => 0
  match o.kind with
  | .mld sc sg off f _ _ =>
    let image := Memory.writeAll [] 0 ((List.range (imageBytes f)).map fun i => scratch sc sg off i)
    (s.fills id o).foldl (fun a t => a.withCore t.1 fun y =>
      { y with panels := y.panels.update t.2 Panel.clear fun q =>
          if !o.bad.isEmpty then { q with state := .empty } else { q with state := .ready f, image := image } }) s
  | .mul redundant t p f off lanes =>
    match (x.panels.get p Panel.clear).state with
    | .ready pf =>
      if !o.bad.isEmpty then s
      else
        let mis := if redundant then Config.rowMismatch s.tick &&& lanes else 0
        s.withTile o.core t fun q =>
          { vals := mulRows (fun i => scratch o.core o.gang off i) (x.panels.get p Panel.clear).image f pf lanes q.vals,
            mismatch := q.mismatch ||| mis }
    | _ => s
  | .zero t lanes =>
    s.withTile o.core t fun q =>
      { vals := q.vals.filter fun e => !(lanes.getLsbD (e.1 / 128 % 32)), mismatch := q.mismatch &&& ~~~lanes }
  | .drain t f off lanes =>
    let bs := drainBytes (x.tiles.get t Tile.clear) f lanes
    match s.gang? o.core o.gang with
    | some y => s.withCore o.core fun z =>
        { z with scratch := writeList z.scratch (bs.map fun b => (148 * y.base + off + b.1, b.2)) }
    | none => s
  | .rowWrite t _ _ _ vals => s.withTile o.core t fun q => { q with vals := vals.foldl (fun a v => a.put v.1 v.2) q.vals }
  | _ => s

/-- What remains of a matrix operation that has filled some targets: nothing, but for a stationary load that has others (R330 step 3). -/
def EngOp.remains (o : EngOp) (filled : List (Nat × Nat)) : Option EngOp :=
  match o.kind with
  | .mld sc sg off f ts done =>
    let rest := ts.filter fun t => !filled.contains t
    if rest.isEmpty then none else some { o with kind := .mld sc sg off f rest done }
  | _ => none

/-- A matrix operation is performed and completes (R118): its registers are written, its latch entries are released. A stationary load
completes when its last target is filled. -/
def execTileOpComplete (s : State) : Result :=
  let (id, _, _) := s.object
  match s.ops.look id with
  | some o =>
    if s.matrixReady id o then
      let filled := s.fills id o
      let s1 := s.performMatrix id o
      let s2 := match o.remains filled with
        | some rest => { s1 with ops := s1.ops.put id rest }
        | none => (s1.withIssuer o fun g => g.deliver id).finishOp id
      .next (match o.kind with
        | .mul _ _ p _ _ _ => s2.startLoad o.core p
        | _ => filled.foldl (fun a t => a.startLoad t.1 t.2) s2)
    else .next s
  | none => .next s

end Sys2Proof.Machine
end

