-- ==== Sys2Proof/Machine/Copy.lean ====
section
/-! DEFINITION. Copies (spec/13, R341 to R346): their shapes, the checks at issue, and what a copy does when it is performed. -/

namespace Sys2Proof.Machine

open Sys2Proof

/-! ## Units (R341) -/

/-- A code block of the sign or ternary code. -/
def Widen.code (q : Widen) : Bool := q == .sgn || q == .ter

/-- The bytes of a unit as read and as written; `len` is L of a code block. -/
def unitIn (q : Widen) (len : Nat) : Nat :=
  match q with
  | .none => 1 | .e4m3 => 33 | .e5m2 => 33 | .bf16 => 2 | .sgn => Num.blockBytes false len | .ter => Num.blockBytes true len

def unitOut (q : Widen) (len : Nat) : Nat :=
  match q with
  | .none => 1 | .e4m3 => 128 | .e5m2 => 128 | .bf16 => 4 | .sgn => 4 * len | .ter => 4 * len

/-- FP32 values as bytes. -/
def floatBytes (xs : List Nat) : List Byte := xs.flatMap (toBytes 4)

/-- The conversion of one unit (R341). -/
def convertUnit (q : Widen) (len : Nat) (bs : List Byte) : List Byte :=
  let ns := bs.map (·.toNat)
  match q with
  | .none => bs
  | .e4m3 => floatBytes ((ns.take 32).map fun x => Num.decodeMX Num.e4m3 x (ns.getD 32 0))
  | .e5m2 => floatBytes ((ns.take 32).map fun x => Num.decodeMX Num.e5m2 x (ns.getD 32 0))
  | .bf16 => floatBytes [Num.widenTo32 Num.bf16 (ofBytes bs)]
  | .sgn => floatBytes (Num.decodeBlock false len ns)
  | .ter => floatBytes (Num.decodeBlock true len ns)

/-! ## Shapes (R342) -/

/-- The address of a unit on a side. -/
def Side.at (x : Side) (p r i : Nat) : Nat := x.base + x.planePitch * p + x.rowPitch * r + i * x.unit

/-- Planes and rows in ascending order. -/
def CopyShape.rowsOf (h : CopyShape) : List (Nat × Nat) :=
  (List.range h.planes).flatMap fun p => (List.range h.rows).map fun r => (p, r)

/-- The bytes of each row on a side: its first address and their number. -/
def runs (h : CopyShape) (x : Side) : List (Nat × Nat) :=
  if h.units = 0 then [] else h.rowsOf.map fun (p, r) => (x.at p r 0, h.units * x.unit)

/-- The bounding range on a side (R120). -/
def bounding (h : CopyShape) (x : Side) : Nat × Nat := (x.base, x.at (h.planes - 1) (h.rows - 1) h.units)

/-- The shape that the registers at G give (R342), for a copy of 1, 2 or 3 dimensions; none where a field that must be 0 is not. -/
def Group.shape (g : Group) (dims r : Nat) (q : Widen) : Option CopyShape :=
  let w0 := (g.sreg r).toNat
  let w2 := (g.sreg (r + 2)).toNat
  let h : CopyShape :=
    { planes := if dims = 3 then ent w2 0 16 + 1 else 1, rows := if dims = 1 then 1 else ent w0 16 14 + 1,
      units := if dims = 1 then ent w0 0 30 else ent w0 0 16 + 1, q := q, len := Num.blockLen (ent w0 30 2) }
  if (ent w0 30 2 ≠ 0 ∧ Widen.code q = false) ∨ (dims = 3 ∧ ent w2 16 16 ≠ 0) then none else some h

/-- The global and scratchpad pitches of the registers at G: row and plane. -/
def Group.globalPitch (g : Group) (dims r : Nat) : Nat × Nat :=
  (if dims = 1 then 0 else 16 * ent (g.sreg (r + 1)).toNat 16 16, if dims = 3 then 4096 * ent (g.sreg (r + 3)).toNat 16 16 else 0)
def Group.scratchPitch (g : Group) (dims r : Nat) : Nat × Nat :=
  (if dims = 1 then 0 else ent (g.sreg (r + 1)).toNat 0 16, if dims = 3 then 16 * ent (g.sreg (r + 3)).toNat 0 16 else 0)

/-! ## Checks (R344) -/

/-- How the checks of a copy end: the pages of its global bytes, the trap or fault, or pages to be walked. -/
inductive CopyCheck where
  | ok (pages : List Page)
  | raise (r : Raise)
  | miss (pages : List Nat)
  deriving DecidableEq, Repr

/-- SPACE of a side (R32). -/
def Side.space (x : Side) : Nat := if x.scratch.isSome then 1 else 0

/-- Check 2: a widening copy writes whole words. -/
def alignFault (q : Widen) (d : Side) : Option Raise :=
  if q ≠ .none ∧ (d.base % 4 ≠ 0 ∨ d.rowPitch % 4 ≠ 0 ∨ d.planePitch % 4 ≠ 0) then some (alignTrap .store d.space d.base) else none

/-- Check 3: the first byte of a global range that is not canonical, or beyond bit 56. -/
def canonFault (h : CopyShape) (kind : Access) (x : Side) : Option Raise :=
  let r := bounding h x
  if x.scratch.isSome ∨ h.units = 0 ∨ canonicalRange r.1 (r.2 - r.1) = true then none
  else
    let a := if !canonical r.1 then r.1 else if r.1 < 2 ^ 56 then 2 ^ 56 else 0
    some ((⟨1, noLevel, 0⟩ : XFault).raises kind 0 a)

/-- Check 4: the lowest byte of a side at or beyond its gang's bound. -/
def State.sideBound (s : State) (h : CopyShape) (kind : Access) (x : Side) : Option Raise :=
  match x.scratch with
  | none => none
  | some (c, n) =>
    let bound := match s.gang? c n with
      | some y => y.bound
      | none => 0
    match ((runs h x).filter fun r => decide (bound < r.1 + r.2)).map fun r => max r.1 bound with
    | [] => none
    | b :: bs => some (boundFault kind (bs.foldl min b))

/-- Check 5: the translations of a global side, row by row. -/
def State.sidePages (s : State) (c : Nat) (g : Group) (h : CopyShape) (kind : Access) (x : Side) : List Translated :=
  if x.scratch.isSome then [] else (runs h x).map fun r => s.translateGroup c g kind r.1 r.2

/-- The fault of the lowest byte among translations (R344). -/
def lowestFault (ts : List Translated) : Option (XFault × Nat) :=
  ts.foldl (fun acc t => match t, acc with
    | .fault f a, none => some (f, a)
    | .fault f a, some (f0, a0) => if a < a0 then some (f, a) else some (f0, a0)
    | _, _ => acc) none

def missed (ts : List Translated) : List Nat := ts.flatMap fun t => match t with
  | .miss ps => ps
  | _ => []

def pagesOf (ts : List Translated) : List Page := (ts.flatMap fun t => match t with
  | .ok ps => ps.map (·.page)
  | _ => []).eraseDups

/-- The first of some checks that fails. -/
def firstRaise (l : List (Option Raise)) : Option Raise := (l.filterMap id).head?

/-- Checks 2 to 5 of R344 in order, the source first. -/
def State.checkCopy (s : State) (c : Nat) (g : Group) (h : CopyShape) (src : Side) (dsts : List Side) : CopyCheck :=
  match firstRaise (dsts.map (alignFault h.q) ++ [canonFault h .load src] ++ dsts.map (canonFault h .store)
      ++ [s.sideBound h .load src] ++ dsts.map (s.sideBound h .store)) with
  | some r => .raise r
  | none =>
    let ts := s.sidePages c g h .load src
    let us := dsts.flatMap (s.sidePages c g h .store)
    match missed (ts ++ us) with
    | m :: ms => .miss (m :: ms)
    | [] =>
      match lowestFault ts, lowestFault us with
      | some (f, a), _ => .raise (f.raises .load 0 a)
      | none, some (f, a) => .raise (f.raises .store 0 a)
      | none, none => .ok (pagesOf (ts ++ us))

/-- The latch entry of a side (R120). -/
def sideLatch (vd : Nat) (h : CopyShape) (x : Side) (dest : Bool) (own : Nat) : Nat × Latch :=
  let r := bounding h x
  match x.scratch with
  | some (c, n) => (c, scratchLatch n r.1 r.2 dest false)
  | none => (own, globalLatch vd r.1 r.2 dest)

/-- The pages of the global sides of a copy have been used (R28). -/
def State.useSides (s : State) (c : Nat) (g : Group) (h : CopyShape) (xs : List Side) : State :=
  s.usePages c (s.vdOf g) ((xs.filter fun x => x.scratch.isNone).flatMap fun x => runs h x)

/-- A copy whose checks have failed (R344). -/
def State.refuseCopy (s : State) (c k : Nat) (g : Group) (h : CopyShape) (src : Side) (dsts : List Side) (e : Raise) : State :=
  (s.useSides c g h (src :: dsts)).setGroup c k (g.raiseAll e)

/-- A copy that has passed its checks issues, when the L2 has accepted the group's earlier stores (R117, R343). One of no units moves
nothing and is complete at once. -/
def State.issueCopy (s : State) (c k : Nat) (g : Group) (h : CopyShape) (src : Side) (dsts : List Side) (pages : List Page) : State :=
  let s := s.useSides c g h (src :: dsts)
  match s.engineWait c g with
  | some w => s.setGroup c k (g.waitOn w)
  | none =>
    if h.units = 0 ∨ dsts.isEmpty then (s.newOp).setGroup c k (g.count .copies s.nextOp true)
    else s.engage c k g (.copy h src dsts none) .copies pages
    (sideLatch (s.vdOf g) h src false c :: dsts.map fun d => sideLatch (s.vdOf g) h d true c)

/-- A copy from one side to one side. -/
def copyOp (dims : Nat) (srcGlobal dstGlobal : Bool) (o : CopyOp) (s : State) : Result :=
  asGroup s fun c k g =>
    let r := o.g.toNat
    let side (isGlobal : Bool) (reg unit : Nat) : Side :=
      let p := if isGlobal then g.globalPitch dims r else g.scratchPitch dims r
      { scratch := if isGlobal then none else some (c, g.gang), base := if isGlobal then (g.spair reg).toNat else (g.sreg reg).toNat,
        rowPitch := p.1, planePitch := p.2, unit := unit }
    match g.shape dims r o.q with
    | none => s.setGroup c k g.illegal
    | some h =>
      let src := side srcGlobal o.s.toNat (unitIn h.q h.len)
      let dst := side dstGlobal o.d.toNat (unitOut h.q h.len)
      if (srcGlobal = false ∧ 2 ^ 21 ≤ src.base) ∨ (dstGlobal = false ∧ 2 ^ 21 ≤ dst.base) then s.setGroup c k g.illegal
      else
        match s.checkCopy c g h src [dst] with
        | .raise e => s.refuseCopy c k g h src [dst] e
        | .miss ps => s.sendMisses c k (s.vdOf g) ps
        | .ok pages => s.issueCopy c k g h src [dst] pages

/-- `cpyin1`, `cpyin2`, `cpyin3`. -/
def execCpyin1 (o : CopyOp) (s : State) : Result := copyOp 1 true false o s
def execCpyin2 (o : CopyOp) (s : State) : Result := copyOp 2 true false o s
def execCpyin3 (o : CopyOp) (s : State) : Result := copyOp 3 true false o s
/-- `cpyout1`, `cpyout2`, `cpyout3`. -/
def execCpyout1 (o : CopyOp) (s : State) : Result := copyOp 1 false true o s
def execCpyout2 (o : CopyOp) (s : State) : Result := copyOp 2 false true o s
def execCpyout3 (o : CopyOp) (s : State) : Result := copyOp 3 false true o s
/-- `cpyg` and `cpys`. -/
def execCpyg (o : CopyOp) (s : State) : Result := copyOp 1 true true o s
def execCpys (o : CopyOp) (s : State) : Result := copyOp 1 false false o s

/-- `mcast` (R346). With a mask of 0 the source range is neither looked at nor translated; a mask bit that names no gang records sD as its
offset (DESIGN CHOICE, log 76). -/
def execMcast (o : FabricOp) (s : State) : Result :=
  asGroup s fun c k g =>
    let y := s.gangOf c g
    let w1 := (g.sreg (o.g.toNat + 1)).toNat
    let base := (g.sreg o.d.toNat).toNat
    let wanted := maskCores (ent w1 0 8)
    let found := wanted.filterMap fun i => s.setGang c g.gang y i
    match g.shape 1 o.g.toNat .none with
    | none => s.setGroup c k g.illegal
    | some h =>
      if ent w1 8 24 ≠ 0 ∨ 2 ^ 21 ≤ base then s.setGroup c k g.illegal
      else
        let src : Side := { scratch := none, base := (g.spair o.s.toNat).toNat, rowPitch := 0, planePitch := 0, unit := 1 }
        let dsts := found.map fun t : Nat × Nat × Gang =>
          ({ scratch := some (t.1, t.2.1), base := base, rowPitch := 0, planePitch := 0, unit := 1 } : Side)
        let h2 := if wanted.isEmpty then { h with units := 0 } else h
        match canonFault h2 .load src with
        | some e => s.setGroup c k (g.raiseAll e)
        | none =>
          if found.length < wanted.length then s.setGroup c k (g.raiseAll (boundFault .store base))
          else
            match s.checkCopy c g h2 src dsts with
            | .raise e => s.refuseCopy c k g h2 src dsts e
            | .miss ps => s.sendMisses c k (s.vdOf g) ps
            | .ok pages => s.issueCopy c k g h2 src dsts pages

/-! ## Performing a copy (R343) -/

/-- The page of an operation that holds a global address, and the module address. -/
def State.opAddr (s : State) (o : EngOp) (a : Nat) : Option (Page × Nat) :=
  (o.pages.find? fun p => decide (p.base ≤ a ∧ a < p.base + p.size)).map fun p => (p, s.reloc o.vd p.tier (p.frame + (a - p.base)))

/-- A byte of a side. -/
def State.sideByte (s : State) (o : EngOp) (x : Side) (a : Nat) : Byte :=
  match x.scratch with
  | some (c, n) =>
    match s.gang? c n with
    | some y => (s.core c).scratchByte y a
    | none => 0
  | none =>
    match s.opAddr o a with
    | some (p, m) => (s.readMem p.tier m 1).headD 0
    | none => 0

/-- The L2 that accepts what an operation writes to a page: that of the issuing core's die; none for a host-tier or versioned page (R54,
R80), or for a hinge processor, which writes at the homes (R138). -/
def EngOp.writer (o : EngOp) (p : Page) : Option Nat :=
  if p.tier = .host ∨ p.ver = true ∨ Config.cores ≤ o.core then none else some (dieOf o.core)

/-- The keeper that a line which an operation writes matches: a fabric transfer's matches none (R59). -/
def State.writeKeeper (s : State) (o : EngOp) (die va : Nat) : Option Nat :=
  match o.kind with
  | .copy _ _ _ _ => ((s.die die).keeperFor o.vd va).map (·.1)
  | _ => none

/-- Bytes written to a side, in order: to a gang's scratchpad, or page by page to global lines, for which the L2 of the issuing die takes
the right to write (R55). The L1 of the issuing core keeps no line of them, since an access that follows a wait for the operation finds
what it wrote (R110, R118). -/
def State.writeSide (s : State) (o : EngOp) (x : Side) (bs : List (Nat × Byte)) : State :=
  match x.scratch with
  | some (c, n) =>
    match s.gang? c n with
    | some y => s.withCore c fun z => { z with scratch := writeList z.scratch (bs.map fun b => (148 * y.base + b.1, b.2)) }
    | none => s
  | none =>
    o.pages.foldl (fun acc p =>
      let mine := bs.filter fun b => decide (p.base ≤ b.1 ∧ b.1 < p.base + p.size)
      if mine.isEmpty then acc
      else
        let place (va : Nat) : Nat := acc.reloc o.vd p.tier (p.frame + (va - p.base))
        let written := mine.map fun b => (place b.1, b.2)
        let lines := if p.tier = .host then [] else linesOf (written.map (·.1))
        let w := o.writer p
        let ready := match w with
          | some d => lines.foldl (fun (t : State) line =>
              let first : Option (Nat × Byte) := mine.find? fun b => lineOf (place b.1) == line
              t.takeRight o.vd d line (t.writeKeeper o d ((first.map Prod.fst).getD 0)) p.ef) acc
          | none => acc
        (ready.writeMem { vd := o.vd, carried := none, ver := p.ver, die := w, release := none } p.tier written).l1Drop o.core lines) s

/-- A source byte lies in a word of 4 bytes at which an operation met an uncorrectable error. -/
def State.badByte (s : State) (o : EngOp) (x : Side) (a : Nat) : Bool :=
  let m := if x.scratch.isSome then a else ((s.opAddr o a).map (·.2)).getD 0
  o.bad.any fun b => b / 4 == m / 4

/-- The source bytes of a unit that feed byte i of what is written for it (R341, R344): its element and scale, and the header of a code
block; not the other digits of a block, whose test for a malformed one is taken to be no feeding (DESIGN CHOICE, log 73). -/
def feeds (q : Widen) (len i : Nat) : List Nat :=
  let code (ternary : Bool) : List Nat :=
    let n := Num.payloadBytes ternary len
    [i / 4 / (if ternary then 5 else 8), n, n + 1, n + 2, n + 3]
  match q with
  | .none => [i]
  | .e4m3 => [i / 4, 32]
  | .e5m2 => [i / 4, 32]
  | .bf16 => [0, 1]
  | .sgn => code false
  | .ter => code true

/-- The units of a copy, in ascending order (R343). -/
def CopyShape.unitsOf (h : CopyShape) : List (Nat × Nat × Nat) :=
  h.rowsOf.flatMap fun (p, r) => (List.range h.units).map fun i => (p, r, i)

/-- What a unit leaves: its converted bytes by their place in the unit, without those that bad source bytes feed (R344). -/
def State.unitBytes (s : State) (o : EngOp) (h : CopyShape) (src : Side) (u : Nat × Nat × Nat) : List (Nat × Byte) :=
  let a := src.at u.1 u.2.1 u.2.2
  let out := (convertUnit h.q h.len ((List.range src.unit).map fun b => s.sideByte o src (a + b))).zipIdx.map fun (b, i) => (i, b)
  if o.bad.isEmpty then out else out.filter fun x => !(feeds h.q h.len x.1).any fun b => s.badByte o src (a + b)

/-- Some units of a copy performed: the whole source is read, then every unit is written in order (R343). -/
def State.performUnits (s : State) (o : EngOp) (h : CopyShape) (src : Side) (dsts : List Side) (us : List (Nat × Nat × Nat)) : State :=
  let data := us.map fun u => (u, s.unitBytes o h src u)
  dsts.foldl (fun a d => a.writeSide o d (data.flatMap fun u =>
    u.2.map fun x => (d.at u.1.1 u.1.2.1 u.1.2.2 + x.1, x.2))) s

/-- The lines of module memory that a side touches. -/
def State.sideLines (s : State) (o : EngOp) (h : CopyShape) (x : Side) : List Nat :=
  if x.scratch.isSome then []
  else (runs h x).flatMap fun r =>
    ((pieces r.1 r.2).filterMap fun q => (s.opAddr o q.1).bind fun m =>
      if m.1.tier = .host then none else some (linesOf ((List.range q.2).map (m.2 + ·)))).flatten

/-- HBM lines that the home reads for a copy's source are charged to its device (R412). -/
def State.chargeSource (s : State) (o : EngOp) (h : CopyShape) (src : Side) : State :=
  (s.sideLines o h src).eraseDups.foldl (fun a line => a.chargeLine o.vd line) s

/-- A copy performed, from the unit at which it goes on (R343, R424). What it reads it reads at the homes, and no L2 is filled with it
(DESIGN CHOICE, log 72). -/
def State.performCopy (s : State) (o : EngOp) (h : CopyShape) (src : Side) (dsts : List Side) : State :=
  (s.chargeSource o h src).performUnits o h src dsts (h.unitsOf.drop o.done)

/-- An operation of a throttled device waits before its next HBM request (R412). -/
def State.held (s : State) (vd : Nat) (lines : List Nat) : Bool := (s.device vd).throttled && lines.any fun l => decide (l < hbmLines)

/-- Nothing keeps a copy from its bytes: no line it touches is locked (R78), its device is not throttled, and its gangs are in place. -/
def State.copyFree (s : State) (o : EngOp) (h : CopyShape) (src : Side) (dsts : List Side) : Bool :=
  (src :: dsts).all fun x => !((s.sideLines o h x).any s.locked) && !s.held o.vd (s.sideLines o h x) && (match x.scratch with
    | some (c, n) => !s.gangAway c n
    | none => true)

/-- A copy can be performed; one of a device that is being moved has been cancelled (R422). -/
def State.copyReady (s : State) (o : EngOp) (h : CopyShape) (src : Side) (dsts : List Side) : Bool :=
  !(s.device o.vd).moving && s.copyFree o h src dsts

end Sys2Proof.Machine
end

