-- ==== Sys2Proof/Machine/Ring.lean ====
section
/-! DEFINITION. Scratch rings (R43 to R46, R347 to R350) and the completion of copies (COPY_COMPLETE). -/

namespace Sys2Proof.Machine

open Sys2Proof

/-! ## Transitions (R44) -/

def Ring.slotRec (x : Ring) (i : Nat) : RingSlotRec :=
  x.recs.get i { state := .free, phase := false, lap := 0, pushed := false, marked := false }
def Ring.setRec (x : Ring) (i : Nat) (r : RingSlotRec) : Ring := { x with recs := x.recs.put i r }

/-- The next index of a ring. -/
def Ring.succ (x : Ring) (i : Nat) : Nat := if i + 1 < x.slots then i + 1 else 0

/-- Reserve: slot P becomes filling, tagged with the lap of P. -/
def Ring.reserve (x : Ring) (pushed : Bool) : Ring :=
  { x.setRec x.p { x.slotRec x.p with state := .filling, lap := x.lap, pushed := pushed, marked := false } with
    e := x.e - 1, p := x.succ x.p, lap := if x.p + 1 < x.slots then x.lap else x.lap + 1 }

/-- Publish, repeated while the next slot is complete. -/
def Ring.publish : Nat → Ring → Ring
  | 0, x => x
  | n + 1, x =>
    let i := (x.c + x.f) % x.slots
    let r := x.slotRec i
    if x.f < x.slots ∧ r.state = .complete then
      Ring.publish n { x.setRec i { r with state := .filled, phase := r.lap % 2 == 0 } with f := x.f + 1 }
    else x

/-- Fill complete, with the publication that follows. -/
def Ring.fillComplete (x : Ring) (i : Nat) : Ring :=
  if (x.slotRec i).state = .filling then
    (x.setRec i { x.slotRec i with state := .complete, marked := false }).publish x.slots
  else x

/-- Acquire: slot C becomes draining. -/
def Ring.acquire (x : Ring) : Ring :=
  { x.setRec x.c { x.slotRec x.c with state := .draining, marked := false } with f := x.f - 1, c := x.succ x.c }

/-- Release. -/
def Ring.release (x : Ring) (i : Nat) : Ring :=
  if (x.slotRec i).state = .draining then { x.setRec i { x.slotRec i with state := .free, marked := false } with e := x.e + 1 } else x

/-- The first group that waits to reserve, or to acquire (R45). -/
def Ring.first (x : Ring) (reserving : Bool) : Option Nat := (x.waiters.find? fun w => w.2 == reserving).map (·.1)

/-- A group may go ahead of the others that wait: none does, or it is the first (R45). -/
def Ring.turn (x : Ring) (k : Nat) (reserving : Bool) : Bool := (x.first reserving).isNone || x.first reserving == some k

/-- A group begins to wait, once. -/
def Ring.queue (x : Ring) (k : Nat) (reserving : Bool) : Ring :=
  if x.waiters.contains (k, reserving) then x else { x with waiters := x.waiters ++ [(k, reserving)] }

/-- A group waits no longer. -/
def Ring.leave (x : Ring) (k : Nat) : Ring := { x with waiters := x.waiters.filter fun w => w.1 != k }

/-- The offset of a slot, and its slot word (R347). -/
def Ring.offset (x : Ring) (i : Nat) : Nat := 148 * (x.base + i * x.srows)
def Ring.slotWord (x : Ring) (i : Nat) (ph : Bool) : Word :=
  BitVec.ofNat 32 ((if ph then 2 ^ 31 else 0) + i % 256 * 2 ^ 21 + x.offset i % 2 ^ 21)

/-- A ring of a gang changed. -/
def State.withRing (s : State) (c n r : Nat) (f : Ring → Ring) : State :=
  s.withGang c n fun y => { y with rings := y.rings.change r f }

/-- A slot can be reserved by a group; a slot can be acquired by it. -/
def Ring.canReserve (x : Ring) (k : Nat) : Bool := (x.slotRec x.p).state == .free && x.turn k true
def Ring.canAcquire (x : Ring) (k : Nat) : Bool := decide (0 < x.f) && x.turn k false

/-! ## Instructions -/

/-- An operation on a used ring; an unused one is an illegal instruction (R43, R350). -/
def withUsedRing (n : BitVec 4) (s : State) (f : Nat → Nat → Group → Gang → Ring → State) : Result :=
  asGroup s fun c k g =>
    let y := s.gangOf c g
    match y.rings.look n.toNat with
    | some x => f c k g y x
    | none => s.setGroup c k g.illegal

/-- The fault of a push that does not fit its slot (R347). -/
def pushFault (h : CopyShape) (x : Ring) : Option Raise :=
  if 148 * x.srows < h.units * unitOut h.q h.len then some (boundFault .store (x.offset x.p + 148 * x.srows)) else none

/-- `rpush` (R347). The slot is reserved, the copy issued and its entries registered in one step; while one of them must wait, the group
keeps its place among those that reserve; a group that meets a fault leaves it (R350). -/
def execRpush (o : RingPush) (s : State) : Result :=
  withUsedRing o.n s fun c k g _ x =>
    let n := o.n.toNat
    let refuse (t : State) (e : Raise) : State := (t.withRing c g.gang n fun r => r.leave k).setGroup c k (g.raiseAll e)
    match g.shape 1 o.g.toNat o.q with
    | none => refuse s (.trap .illegal 0 0)
    | some h =>
      let src : Side := { scratch := none, base := (g.spair o.s.toNat).toNat, rowPitch := 0, planePitch := 0, unit := unitIn h.q h.len }
      let dst : Side := { scratch := some (c, g.gang), base := x.offset x.p, rowPitch := 0, planePitch := 0, unit := unitOut h.q h.len }
      match firstRaise [canonFault h .load src, pushFault h x] with
      | some e => refuse s e
      | none =>
        match s.checkCopy c g h src [dst] with
        | .raise e => refuse (s.useSides c g h [src, dst]) e
        | .miss ps => s.sendMisses c k (s.vdOf g) ps
        | .ok pages =>
          let s := s.useSides c g h [src, dst]
          let ls := if h.units = 0 then []
            else [sideLatch (s.vdOf g) h src false c, (c, scratchLatch g.gang dst.base (dst.base + 148 * x.srows) true false)]
          match s.engineWait c g with
          | some w => s.setGroup c k (g.waitOn w)
          | none =>
          if !x.canReserve k then (s.withRing c g.gang n fun r => r.queue k true).setGroup c k (g.waitOn (.ringReserve n))
          else if !s.latchesOk ls then (s.withRing c g.gang n fun r => r.queue k true).setGroup c k (g.waitOn (.latch ls))
          else
            let s1 := s.withRing c g.gang n fun r => (r.leave k).reserve true
            if h.units = 0 then
              ((s1.newOp).setGroup c k (g.count .copies s.nextOp true)).withRing c g.gang n fun r => r.fillComplete x.p
            else s1.issueOp c k g (.copy h src [dst] (some (n, x.p))) .copies pages ls

/-- `rresv` (R348). -/
def execRresv (o : RingSlot) (s : State) : Result :=
  withUsedRing o.n s fun c k g _ x =>
    let n := o.n.toNat
    if !x.canReserve k then (s.withRing c g.gang n fun r => r.queue k true).setGroup c k (g.waitOn (.ringReserve n))
    else (s.withRing c g.gang n fun r => (r.leave k).reserve false).setGroup c k (g.setSreg o.r.toNat (x.slotWord x.p false))

/-- SLOT of a slot word. -/
def slotOf (w : Word) : Nat := ent w.toNat 21 8

/-- The copies of a group whose destination overlaps a slot of its gang (R348). -/
def State.fillingOps (s : State) (c k : Nat) (g : Group) (lo hi : Nat) : List Nat :=
  (s.ops.filter fun o => o.2.core == c && o.2.slot == k && o.2.launch == g.launch && o.2.gang == g.gang && (match o.2.kind with
    | .copy h _ ds _ => ds.any fun d => d.scratch == some (c, g.gang) && (let r := bounding h d; decide (r.1 < hi ∧ lo < r.2))
    | _ => false)).map (·.1)

/-- The engine operations of a group with a source entry over a slot of its gang (R349). -/
def State.drainingOps (s : State) (c k : Nat) (g : Group) (lo hi : Nat) : List Nat :=
  ((s.core c).latches.filter fun e => !e.2.dest && !e.2.global && e.2.gang == g.gang && decide (e.2.lo < hi ∧ lo < e.2.hi)
    && (match s.ops.look e.2.op with
      | some o => o.core == c && o.slot == k && o.launch == g.launch && o.gang == g.gang
      | none => false)).map fun e => e.2.op

/-- `rdone` (R348). -/
def execRdone (o : RingSlot) (s : State) : Result :=
  withUsedRing o.n s fun c k g _ x =>
    let i := slotOf (g.sreg o.r.toNat)
    let r := x.slotRec i
    if x.slots ≤ i ∨ r.state ≠ .filling ∨ r.pushed = true ∨ r.marked = true then s.setGroup c k g.illegal
    else
      let ops := s.fillingOps c k g (x.offset i) (x.offset (i + 1))
      s.withRing c g.gang o.n.toNat fun z =>
        { z.setRec i { r with marked := true } with
          deferred := z.deferred ++ [({ release := false, slot := i, group := k }, ops)] }

/-- `rpop` (R349): counted on the copies counter, and complete at its acquire. -/
def execRpop (o : RingSlot) (s : State) : Result :=
  withUsedRing o.n s fun c k g _ x =>
    let n := o.n.toNat
    if !x.canAcquire k then (s.withRing c g.gang n fun r => r.queue k false).setGroup c k (g.waitOn (.ringAcquire n))
    else
      ((s.newOp).withRing c g.gang n fun r => (r.leave k).acquire).setGroup c k
        ((g.setSreg o.r.toNat (x.slotWord x.c (x.slotRec x.c).phase)).count .copies s.nextOp true)

/-- `rrel` (R349). -/
def execRrel (o : RingSlot) (s : State) : Result :=
  withUsedRing o.n s fun c k g _ x =>
    let i := slotOf (g.sreg o.r.toNat)
    let r := x.slotRec i
    if x.slots ≤ i ∨ r.state ≠ .draining ∨ r.marked = true then s.setGroup c k g.illegal
    else
      let ops := s.drainingOps c k g (x.offset i) (x.offset (i + 1))
      s.withRing c g.gang o.n.toNat fun z =>
        { z.setRec i { r with marked := true } with
          deferred := z.deferred ++ [({ release := true, slot := i, group := k }, ops)] }

/-! ## Effects -/

/-- An accepted `rdone` or `rrel` whose operations have completed takes effect. -/
def takeEffect (release : Bool) (s : State) : Result :=
  let (c, n, r) := s.object
  match (s.gang? c n).bind fun y => y.rings.look r with
  | some x =>
    match takeFirst (fun d : Deferred × List Nat => d.1.release == release && d.2.all fun i => (s.ops.look i).isNone) x.deferred with
    | some (d, rest) =>
      let s1 := s.withRing c n r fun z =>
        let z1 := { z with deferred := rest }
        if release then z1.release d.1.slot else z1.fillComplete d.1.slot
      .next (match s.gang? c n with
        | some y => s1.settleGangs y.launch
        | none => s1)
    | none => .next s
  | none => .next s

/-- RDONE_TAKE_EFFECT (R348); the object is the core, the gang and the ring. -/
def execRdoneTakeEffect (s : State) : Result := takeEffect false s
/-- RREL_TAKE_EFFECT (R349). -/
def execRrelTakeEffect (s : State) : Result := takeEffect true s

/-- COPY_COMPLETE (R343, R347); the object is the operation. -/
def execCopyComplete (s : State) : Result :=
  let (id, _, _) := s.object
  match s.ops.look id with
  | some o =>
    match o.kind with
    | .copy h src dsts ring =>
      if s.copyReady o h src dsts then
        let s1 := s.performCopy o h src dsts
        let s2 := match ring with
          | some (r, i) => s1.withRing o.core o.gang r fun x => x.fillComplete i
          | none => s1
        .next (s2.finishOp id)
      else .next s
    | _ => .next s
  | none => .next s

end Sys2Proof.Machine
end

