-- ==== Sys2Proof/Machine/Fabric.lean ====
section
/-! DEFINITION. One-sided fabric traffic (spec/14, R351 to R363; spec/04, R127 to R133; spec/06, R168, R169; R415): the routes to ranks,
the instructions of a group, close markers and give-up notices, and what a target does with an operation. -/

namespace Sys2Proof.Machine

open Sys2Proof

/-! ## Routes (R415) -/

/-- A byte string of the route table is used: V = 1, and no reserved bit or byte is set. -/
def routeUsable (b : List Byte) : Bool :=
  ent (field b 0x15 1) 0 1 == 1 && ent (field b 0x15 1) 2 6 == 0 && field b 0x16 10 == 0

/-- A route entry as the device reads it. -/
def routeOf (b : List Byte) (ports : Bool) : Route :=
  if !routeUsable b then .absent
  else if ent (field b 0x15 1) 1 1 == 1 then (if field b 0x14 1 < Config.vds then .here (field b 0x14 1) else .absent)
  else if ports then .away (b.take 20) else .absent

/-- The partition owns a fabric port. -/
def State.hasPort (s : State) (part : Nat) : Bool :=
  (s.partition part).ctl.get 0x18 0 != 0 || (s.partition part).ctl.get 0x20 0 != 0

/-- The route of a device to a rank: itself for its own rank, which has no entry (R169, R450); else the connection that is open, else the
entry of the route table, read at device scope. -/
def State.route (s : State) (vd rank : Nat) : Route :=
  let d := s.device vd
  match d.job with
  | none => (d.conns.look rank).getD .absent
  | some j =>
    if rank = j.rank then .here vd
    else
      match d.conns.look rank with
      | some r => r
      | none => routeOf (s.readMem .hbm (s.reloc vd .hbm (j.routes + 32 * rank)) 32) (s.hasPort d.part)

/-- The module address of the entry of the route table that a use of a rank reads: none where no connection has to be opened. -/
def State.routeEntry (s : State) (vd rank : Nat) : Option Nat :=
  let d := s.device vd
  match d.job with
  | none => none
  | some j => if rank = j.rank ∨ (d.conns.look rank).isSome = true then none else some (s.reloc vd .hbm (j.routes + 32 * rank))

/-- The locked line of that entry: its reader waits (R78). -/
def State.routeHeld (s : State) (vd rank : Nat) : Option Nat := (s.routeEntry vd rank).bind fun a => s.lockedAt .hbm a 32

/-- The entry is read and charged (R412), and the connection that it opens stays open (log 24). -/
def State.openConn (s : State) (vd rank : Nat) : State :=
  let t := match s.routeEntry vd rank with
    | some a => s.chargeRead vd a 32
    | none => s
  match s.route vd rank with
  | .absent => t
  | r => t.withDevice vd fun d => { d with conns := d.conns.put rank r }

/-- A connection is closed, so that the next operation reads the entry again. -/
def State.closeConn (s : State) (vd rank : Nat) : State := s.withDevice vd fun d => { d with conns := d.conns.del rank }

/-! ## Sending -/

/-- The key of a window and a rank in the tables of operations sent and performed. -/
def winRank (w rank : Nat) : Nat := w % winMod * 2 ^ 16 + rank % 2 ^ 16

/-- An operation is a fabric write, which counts in close markers (R128). -/
def FabKind.writes : FabKind → Bool
  | .get _ => false
  | _ => true

/-- An operation leaves its device (R128, R415): refused with status 2 where there is no route, else sent, and counted if it is a
write. -/
def State.sendFab (s : State) (vd : Nat) (x : FabOp) : State :=
  let counted (t : State) : State :=
    if x.kind.writes then t.withDevice vd fun d =>
      { d with sent := d.sent.update (winRank x.window x.dst) 0 (· + 1) } else t
  let s1 := s.openConn vd x.dst
  match s.route vd x.dst with
  | .absent => { s1 with acks := s1.acks ++ [{ id := x.id, status := 2, detail := 0, data := [] }] }
  | .here v => counted { s1 with wire := s1.wire ++ [{ x with vd := v }] }
  | .away a => counted { s1 with outbox := s1.outbox ++ [.op a x] }

/-! ## Checks of a group's instruction (R10, R352, R353) -/

/-- The rank and offset of a fabric address (R9). -/
def fabRank (a : DWord) : Nat := bits a 48 16
def fabOff (a : DWord) : Nat := bits a 0 48

/-- A fabric range that R10 refuses: its rank is beyond the job, or a byte of it lies at or beyond the window's end. Its address is
what is recorded (R32). -/
def fabricBad (d : Device) (a : DWord) (n : Nat) : Option DWord :=
  match d.job with
  | none => some a
  | some j => if j.last < fabRank a ∨ (n ≠ 0 ∧ 2 ^ j.wlog < fabOff a + n) then some a else none

/-- The fabric-address fault (R10, R31). -/
def fabricFault (kind : Access) (a : DWord) : Raise := (⟨0x0C, noLevel, 0⟩ : XFault).raises kind 4 a.toNat

/-- What the six data instructions differ in: the opcode (R257), the access kind at the target, the unit in bytes. -/
structure FabForm where
  opcode : Nat
  kind : Access
  unit : Nat
  deriving DecidableEq, Repr

/-- The operands of a fabric instruction (R352): the fabric address, the local address, SIZE, SOP, VALUE and SIGNAL. -/
structure FabArgs where
  fab : DWord
  loc : Nat
  size : Nat
  sop : Nat
  value : Word
  sig : DWord
  deriving DecidableEq, Repr

/-- The operands as the registers give them; for a `get` the local pair is D. -/
def Group.fabArgs (g : Group) (opcode : Nat) (o : FabricOp) : FabArgs :=
  let r := o.g.toNat
  let (f, l) := if opcode = 0x12 then (o.s.toNat, o.d.toNat) else (o.d.toNat, o.s.toNat)
  { fab := g.spair f, loc := (g.spair l).toNat, size := ent (g.sreg r).toNat 0 30, sop := ent (g.sreg r).toNat 30 2,
    value := g.sreg (r + 1), sig := g.spair (r + 2) }

/-- Check 1 of R353: the instruction is illegal with these operands. -/
def FabArgs.illegal (a : FabArgs) (opcode : Nat) : Bool :=
  if opcode = 0x11 then
    a.sop == 3 || fabRank a.sig != fabRank a.fab || (a.sop == 2 && (a.value.toNat == 0 || decide (2 ^ 16 ≤ a.value.toNat)))
  else a.sop != 0

/-- The bytes of a signal, and the kind of its access at the target; at issue its checks record the kind of the instruction (R32). -/
def FabArgs.sigSize (a : FabArgs) : Nat := if a.sop = 2 then 16 else 4
def sigKind (sop : Nat) : Access := if sop = 0 then .store else .atomic

/-- Check 2 of R353. -/
def FabArgs.misaligned (a : FabArgs) (f : FabForm) : Option Raise :=
  if f.unit ≠ 1 ∧ (a.size % f.unit ≠ 0 ∨ fabOff a.fab % f.unit ≠ 0) then some (alignTrap f.kind 4 a.fab.toNat)
  else if f.unit ≠ 1 ∧ a.loc % f.unit ≠ 0 then some (alignTrap .load 0 a.loc)
  else if f.opcode = 0x11 ∧ fabOff a.sig % a.sigSize ≠ 0 then some (alignTrap f.kind 4 a.sig.toNat)
  else none

/-- Check 3 of R353: the data range, then the signal. -/
def FabArgs.beyond (a : FabArgs) (d : Device) (f : FabForm) : Option Raise :=
  match fabricBad d a.fab a.size with
  | some x => some (fabricFault f.kind x)
  | none => if f.opcode = 0x11 then (fabricBad d a.sig a.sigSize).map (fabricFault f.kind) else none

/-- The local range as one side of a copy of SIZE bytes. -/
def localSide (loc : Nat) : Side := { scratch := none, base := loc, rowPitch := 0, planePitch := 0, unit := 1 }
def localShape (size : Nat) : CopyShape := { planes := 1, rows := 1, units := size, q := .none, len := 16 }

/-- Check 4 of R353, step 3 of R344; the address of an empty range is looked at too (R351). -/
def localBad (kind : Access) (loc size : Nat) : Option Raise :=
  if size = 0 ∧ canonical loc = false then some ((⟨1, noLevel, 0⟩ : XFault).raises kind 0 loc)
  else canonFault (localShape size) kind (localSide loc)

/-- What an operation sends to its target; the source bytes are read when it issues. -/
def fabKind (opcode : Nat) (data : List Byte) (a : FabArgs) : FabKind :=
  match opcode with
  | 0x11 => .putsig data a.sop a.value.toNat (fabOff a.sig)
  | 0x12 => .get a.size
  | 0x13 => .radd data
  | 0x14 => .rmax data
  | 0x15 => .rsmx data
  | _ => .put data

/-- SOP, VALUE and offset of the signal of a put-with-signal. -/
def FabArgs.signal (a : FabArgs) (opcode : Nat) : Option (Nat × Nat × Nat) :=
  if opcode = 0x11 then some (a.sop, a.value.toNat, fabOff a.sig) else none

/-- The bytes of a unit of a fabric transfer, and its units: the elements of its data, and then its signal (R359, R361, R422). -/
def fabUnit (opcode : Nat) : Nat := if opcode = 0x13 ∨ opcode = 0x14 then 4 else if opcode = 0x15 then 16 else 1
def fabUnits (opcode size : Nat) (sig : Option (Nat × Nat × Nat)) : Nat := size / fabUnit opcode + (if sig.isSome then 1 else 0)

/-- The first n units of what an operation asks for; without its signal a put-with-signal is a put. -/
def FabKind.firstUnits (n : Nat) : FabKind → FabKind
  | .put d => .put (d.take n)
  | .putsig d sop value sig => if n ≤ d.length then .put (d.take n) else .putsig d sop value sig
  | .get m => .get (min n m)
  | .radd d => .radd (d.take (4 * n))
  | .rmax d => .rmax (d.take (4 * n))
  | .rsmx d => .rsmx (d.take (16 * n))
  | .contrib c k es => .contrib c k es

/-- A fabric instruction that has passed its checks (R351, R117, R119): it waits for its stores, its latch entries and for locked lines of
its source or its route entry, then issues. -/
def State.issueFab (s : State) (c k : Nat) (g : Group) (f : FabForm) (a : FabArgs) (ps : List Piece) : State :=
  let vd := s.vdOf g
  let d := s.device vd
  let get := f.opcode = 0x12
  let ls := if a.size = 0 then [] else [(c, globalLatch vd a.loc (a.loc + a.size) get)]
  match s.engineWait c g with
  | some w => s.setGroup c k (g.waitOn w)
  | none =>
  if a.size = 0 ∧ f.opcode ≠ 0x11 then (s.newOp).setGroup c k (g.count .copies s.nextOp true)
  else if !s.latchesOk ls then s.setGroup c k (g.waitOn (.latch ls))
  else
    match (match s.routeHeld vd (fabRank a.fab) with
      | some line => some line
      | none => if get then none else s.lockedIn ps) with
    | some line => s.setGroup c k (g.waitOn (.line line))
    | none =>
      let data := if get then [] else s.homeBytes ps
      let x : FabOp := { id := s.nextOp, from? := some vd, src := (d.job.map (·.rank)).getD 0, dst := fabRank a.fab,
                         window := d.window, vd := 0, off := fabOff a.fab, kind := fabKind f.opcode data a, forwarded := false }
      ((if get then s else s.chargePieces vd ps).issueOp c k g (.fabric f.opcode a.fab x.dst a.loc a.size (a.signal f.opcode)) .copies
        (ps.map (·.page)).eraseDups ls).sendFab vd x

/-- A fabric instruction that moves data (R351, R353). -/
def fabricOp (f : FabForm) (o : FabricOp) (s : State) : Result :=
  asGroup s fun c k g =>
    let a := g.fabArgs f.opcode o
    let vd := s.vdOf g
    let kind : Access := if f.opcode = 0x12 then .store else .load
    if a.illegal f.opcode then s.setGroup c k g.illegal
    else
      match firstRaise [a.misaligned f, a.beyond (s.device vd) f, localBad kind a.loc a.size] with
      | some e => s.setGroup c k (g.raiseAll e)
      | none =>
        let s0 := s.usePages c vd [(a.loc, a.size)]
        match s.translateGroup c g kind a.loc a.size with
        | .miss ps => s.sendMisses c k vd ps
        | .fault e x => s0.setGroup c k (g.raiseAll (e.raises kind 0 x))
        | .ok ps => s0.issueFab c k g f a ps

/-- `put` (R357). -/
def execPut (o : FabricOp) (s : State) : Result := fabricOp { opcode := 0x10, kind := .store, unit := 1 } o s
/-- `putsig` (R358). -/
def execPutsig (o : FabricOp) (s : State) : Result := fabricOp { opcode := 0x11, kind := .store, unit := 1 } o s
/-- `get` (R357). -/
def execGet (o : FabricOp) (s : State) : Result := fabricOp { opcode := 0x12, kind := .load, unit := 1 } o s
/-- `radd.f32` (R359). -/
def execRaddF32 (o : FabricOp) (s : State) : Result := fabricOp { opcode := 0x13, kind := .atomic, unit := 4 } o s
/-- `rmax.f32` (R359). -/
def execRmaxF32 (o : FabricOp) (s : State) : Result := fabricOp { opcode := 0x14, kind := .atomic, unit := 4 } o s
/-- `rsmx` (R360, R361). -/
def execRsmx (o : FabricOp) (s : State) : Result := fabricOp { opcode := 0x15, kind := .atomic, unit := 16 } o s

/-- The source entries of fabric writes that have been sent are released (R120). Data are read and sent at the issue; their entry stands
until time passes (log 32). -/
def State.releaseSent (s : State) : State :=
  let sent (id : Nat) : Bool := match s.ops.look id with
    | some o => (match o.kind with
        | .fabric op _ _ _ _ _ => op != 0x12
        | _ => false)
    | none => false
  { s with cores := s.cores.mapAll fun _ x => { x with latches := x.latches.filter fun e => e.2.dest || !sent e.2.op } }

/-- The windows by which a device lags the latest nominal start not after the present (R362). -/
def windowLag (d : Device) (ptp : Nat) : Nat :=
  if ptp < d.wStart then 0
  else
    let w := winAdd d.wFirst ((ptp - d.wStart) / d.wLen : Nat)
    if winLe d.window w then (w + winMod - d.window % winMod) % winMod else 0

/-- `winq` (R362). -/
def execWinq (r : BitVec 6) (s : State) : Result :=
  asGroup s fun c k g =>
    let d := s.device (s.vdOf g)
    s.setGroup c k ((g.setSreg r.toNat (BitVec.ofNat 32 d.window)).setSreg (r.toNat + 1) (BitVec.ofNat 32 (windowLag d s.ptp)))

/-! ## Close markers and give-up notices (R128) -/

/-- A signal for a device of this module has arrived there. -/
def State.deliverSignal (s : State) (v : Nat) : Signal → State
  | .marker x => { s with markersIn := s.markersIn ++ [{ x with vd := v }] }
  | .notice x => { s with noticesIn := s.noticesIn ++ [{ x with vd := v }] }

/-- A signal on its way to another module. -/
def Signal.out (t : List Byte) (rank : Nat) : Signal → OutMsg
  | .marker x => .marker t rank x
  | .notice x => .notice t rank x

/-- A signal has no way to its rank now: no usable route leads there, or the entry that would tell is locked. -/
def State.stranded (s : State) (vd rank : Nat) : Bool := (s.routeHeld vd rank).isSome || s.route vd rank == .absent

/-- A signal goes to a rank; while it has no way there, the device keeps it (log 29). -/
def State.sendSignal (s : State) (vd : Nat) (m : Nat × Signal) : State :=
  if s.stranded vd m.1 then s.withDevice vd fun d => { d with unsent := d.unsent ++ [m] }
  else
    let b := s.openConn vd m.1
    match s.route vd m.1 with
    | .absent => b
    | .here v => b.deliverSignal v m.2
    | .away t => { b with outbox := b.outbox ++ [m.2.out t m.1] }

/-- The signals that a device has kept go, in their order, when their routes have become usable. -/
def State.retrySignals (s : State) (vd : Nat) : State :=
  match (s.device vd).unsent with
  | [] => s
  | ms => ms.foldl (fun a m => a.sendSignal vd m) (s.withDevice vd fun d => { d with unsent := [] })

/-- The marker for a window goes to every member of the job, itself included. -/
def State.sendMarkers (s : State) (vd w : Nat) : State :=
  match (s.device vd).job with
  | none => s
  | some j =>
    (List.range (j.last + 1)).foldl (fun a r =>
      a.sendSignal vd (r, .marker { vd := 0, src := j.rank, window := w, count := (a.device vd).sent.get (winRank w r) 0 })) s

/-- A complete close marker of a rank for a window is held (R128, R129). -/
def Device.markerComplete (d : Device) (w rank : Nat) : Bool :=
  d.markers.any fun m => m.src == rank && m.window == w && decide (m.count ≤ d.performed.get (winRank w rank) 0)

/-- CLOSE_MARKER_RECEIVE (R128); the object is the place of the marker among those that have arrived. -/
def execCloseMarkerReceive (s : State) : Result :=
  let (i, _, _) := s.object
  match s.markersIn[i]? with
  | none => .next s
  | some m =>
    let s1 := { s with markersIn := s.markersIn.eraseIdx i }
    .next (if (s.device m.vd).job.isSome then s1.withDevice m.vd fun d => { d with markers := d.markers ++ [m] } else s1)

/-- The operation is with its target on this module, or its completion is on the way. -/
def State.withTarget (s : State) (id : Nat) : Bool :=
  s.acks.any (fun a => a.id == id) || s.wire.any (fun x => x.id == id && x.from?.isSome)
    || s.devices.any fun d => d.2.held.any (fun x => x.1.id == id && x.1.from?.isSome)

/-- DELIVERY_GIVE_UP (R128, R354): the transport gives up an operation that has left the module; it completes with status 2, and for a
write a notice follows, on the path of the close markers (log 29). The object is the operation. -/
def execDeliveryGiveUp (s : State) : Result :=
  let (id, _, _) := s.object
  match s.ops.look id with
  | none => .next s
  | some o =>
    let target : Option (Nat × Bool) := match o.kind with
      | .fabric op _ r _ _ _ => some (r, op != 0x12)
      | .channel _ _ r _ _ get => some (r, !get)
      | _ => none
    match target with
    | none => .next s
    | some (r, write) =>
      if s.withTarget id then .next s
      else
        let s1 := { s with acks := s.acks ++ [{ id := id, status := 2, detail := 0, data := [] }] }
        match (s.device o.vd).job with
        | none => .next s1
        | some j =>
          let x : Notice := { vd := 0, src := j.rank, id := id, window := o.window }
          .next (if write then s1.sendSignal o.vd (r, .notice x) else s1)

/-- An operation counts as performed at its target (R128). -/
def Device.countPerformed (d : Device) (src id window : Nat) : Device :=
  { d with performed := d.performed.update (winRank window src) 0 (· + 1), done := d.done ++ [(src, id)] }

/-- GIVE_UP_NOTICE_RECEIVE (R128): the operation is counted once, and discarded if it arrives later. The object is the place of the
notice. -/
def execGiveUpNoticeReceive (s : State) : Result :=
  let (i, _, _) := s.object
  match s.noticesIn[i]? with
  | none => .next s
  | some n =>
    let s1 := { s with noticesIn := s.noticesIn.eraseIdx i }
    .next (if (s.device n.vd).job.isNone || (s.device n.vd).done.contains (n.src, n.id) || (s.device n.vd).given.contains (n.src, n.id)
      then s1
      else s1.withDevice n.vd fun d => { d with performed := d.performed.update (winRank n.window n.src) 0 (· + 1),
                                                given := d.given ++ [(n.src, n.id)] })

/-! ## At the target -/

/-- The completion of an operation goes back to its issuer. -/
def State.answer (s : State) (x : FabOp) (status detail : Nat) (data : List Byte) : State :=
  let a : Ack := { id := x.id, status := status, detail := detail, data := data }
  if x.from?.isSome then { s with acks := s.acks ++ [a] } else { s with outbox := s.outbox ++ [.ack x.src a] }

/-- A migrating device keeps an operation for its destination (R422, R424): from entering M + 1 on those that carry M + 1 or later, and
all of them once it is frozen. -/
def Device.keepsFor (d : Device) (x : FabOp) : Bool :=
  d.state == .frozen || (match d.cut with
    | some m => winLe (winAdd m 1) d.window && winLe (winAdd m 1) x.window
    | none => false)

/-- FABRIC_OP_ARRIVE (R130, R419, R422, R425); the object is the place of the operation on the wire. -/
def execFabricOpArrive (s : State) : Result :=
  let (i, _, _) := s.object
  match s.wire[i]? with
  | none => .next s
  | some x =>
    let s0 := { s with wire := s.wire.eraseIdx i }
    let s1 := if x.forwarded then s0.withDevice x.vd fun y => { y with forward := y.forward.filter fun z => !(z.src == x.src && z.id == x.id) }
      else s0
    let d := s1.device x.vd
    let hold (asleep : Bool) (y : Device) : Device := { y with held := y.held ++ [(x, asleep)] }
    .next (
      if d.state = .forwarding then { s1 with outbox := s1.outbox ++ [OutMsg.forward { x with forwarded := true }] }.withDevice x.vd fun y =>
        { y with forwarded := y.forwarded + 1 }
      else if d.state = .none ∨ d.state = .lost ∨ d.job.isNone then s1.answer x 5 0 []
      else if d.given.contains (x.src, x.id) then s1
      else if d.keepsFor x then s1.withDevice x.vd fun y => { y with forward := y.forward ++ [x] }
      else if d.state = .collapsed then s1.withDevice x.vd fun y => { hold true y with state := .waking }
      else if d.state = .collapsing then s1.withDevice x.vd fun y => { hold true y with wakeHeld := true }
      else s1.withDevice x.vd (hold (d.state == .waking)))

/-- The module address of a global address under translated pieces, with its piece. -/
def pieceAt (ps : List Piece) (va : Nat) : Option (Nat × Piece) :=
  (ps.find? fun p => decide (p.va ≤ va ∧ va < p.va + p.n)).map fun p => (p.addr + (va - p.va), p)

/-- A fabric write of bytes at translated pieces: stamped with the carried window (R79, R169). -/
def State.fabWrite (s : State) (x : FabOp) (ps : List Piece) (va : Nat) (data : List Byte) : State :=
  ps.foldl (fun a p => a.writeMem { vd := x.vd, carried := some x.window, ver := p.page.ver, die := none, release := none } p.page.tier
    (addressed p.addr ((data.drop (p.va - va)).take p.n))) s

/-- The merge of one `rsmx` record: m, l and y, 4 bytes each (R361). -/
def mergeRecord (old src : List Byte) : List Byte :=
  let tr (b : List Byte) : Nat × Nat × Nat := (field b 0 4, field b 4 4, field b 8 4)
  let (m, l, y) := Num.smxMerge (tr old) (tr src)
  toBytes 4 m ++ toBytes 4 l ++ toBytes 4 y

/-- One element of a remote add, maximum or merge (R359, R361): an atomic at the home of the destination. -/
def State.fabAtomic (s : State) (x : FabOp) (ps : List Piece) (va : Nat) (src : List Byte) : State :=
  match pieceAt ps va with
  | none => s
  | some (a, p) =>
    let old (n : Nat) : List Byte := s.readMem p.page.tier a n
    let new : List Byte := match x.kind with
      | .radd _ => toBytes 4 (Num.addNE32 (ofBytes (old 4)) (ofBytes src))
      | .rmax _ => toBytes 4 (Num.maxNan32 (ofBytes (old 4)) (ofBytes src))
      | _ => mergeRecord (old 12) src
    (if p.page.tier = .hbm then s.chargeLine x.vd (lineOf a) else s).writeMem
      { vd := x.vd, carried := some x.window, ver := p.page.ver, die := none, release := none } p.page.tier (addressed a new)

/-- The elements of n bytes of an operation, with their places. -/
def elements (n : Nat) (data : List Byte) : List (Nat × List Byte) :=
  (List.range (data.length / n)).map fun i => (i * n, (data.drop (i * n)).take n)

/-- The data range of an operation: its size and access kind (R168). -/
def FabKind.range : FabKind → Nat × Access
  | .put d => (d.length, .store)
  | .putsig d _ _ _ => (d.length, .store)
  | .get n => (n, .load)
  | .radd d => (d.length, .atomic)
  | .rmax d => (d.length, .atomic)
  | .rsmx d => (d.length, .atomic)
  | .contrib _ _ _ => (0, .store)

/-- An atomic of R359 or R361 reaches the host tier, where the device accepts no such function (R13). -/
def hostRefused (kind : Access) (ps : List Piece) : Bool := kind == .atomic && ps.any fun p => p.page.tier == .host

/-- How the translations of an operation at its target end (R168): the pieces of the data and of the signal, the fault code of the first
page that fails, or a wait for a table (R78). -/
inductive FabTarget where
  | ok (data signal : List Piece)
  | fault (code : Nat)
  | wait
  deriving DecidableEq, Repr

/-- The address and the bytes of an operation's data, and of its signal (R168, R358). -/
def State.fabSpans (s : State) (x : FabOp) : (Nat × Nat) × (Nat × Nat) :=
  let w := ((s.device x.vd).fabric.get 0x08 0).toNat
  (((w + x.off) % 2 ^ 64, x.kind.range.1), match x.kind with
    | .putsig _ sop _ sig => ((w + sig) % 2 ^ 64, if sop = 2 then 16 else 4)
    | _ => (0, 0))

def State.fabPieces (s : State) (x : FabOp) : FabTarget :=
  let (data, signal) := s.fabSpans x
  let kind := x.kind.range.2
  match s.translateAgent x.vd kind data.1 data.2 with
  | .fault f _ => .fault f.code
  | .miss _ => .wait
  | .ok ps =>
    if hostRefused kind ps then .fault 9
    else
      match x.kind with
      | .putsig _ sop _ _ =>
        (match s.translateAgent x.vd (sigKind sop) signal.1 signal.2 with
        | .fault f _ => .fault f.code
        | .miss _ => .wait
        | .ok qs => if sop = 1 ∧ qs.any (fun p => p.page.tier == .host && !p.page.sa) then .fault 9 else .ok ps qs)
      | _ => .ok ps []

/-- What the walks of an operation at its target leave behind them. -/
def State.fabWalks (s : State) (x : FabOp) : State :=
  let (data, signal) := s.fabSpans x
  (s.agentWalks none x.vd data.1 data.2).agentWalks none x.vd signal.1 signal.2

/-- The signal of a put-with-signal (R132, R358), after its data: the status and detail of the operation. -/
def State.fabSignal (s : State) (x : FabOp) (qs : List Piece) (sop value sig : Nat) : State × Nat × Nat :=
  let va := (((s.device x.vd).fabric.get 0x08 0).toNat + sig) % 2 ^ 64
  if sop = 2 then
    match s.haspAddr x.vd va qs with
    | none => (s, 3, 4)
    | some a =>
      let (s1, st, _) : State × Nat × Nat := (s.chargePieces x.vd qs).haspArrive a value x.vd (s.device x.vd).part none
      (s1, if st = 0 then 0 else 3, st)
  else
    let old := match qs with
      | p :: _ => s.readNat p.page.tier p.addr 4
      | [] => 0
    ((if sop = 0 then s else s.chargePieces x.vd qs).fabWrite x qs va (toBytes 4 (if sop = 0 then value else (old + value) % 2 ^ 32)), 0, 0)

/-- An operation performed at its target (R132, R133, R168, R357 to R361): the new state, the status, the detail, the bytes returned. -/
def State.fabPerform (s : State) (x : FabOp) (ps qs : List Piece) : State × Nat × Nat × List Byte :=
  let va := (((s.device x.vd).fabric.get 0x08 0).toNat + x.off) % 2 ^ 64
  match x.kind with
  | .get _ => (s.chargePieces x.vd ps, 0, 0, s.homeBytes ps)
  | .put data => (s.fabWrite x ps va data, 0, 0, [])
  | .putsig data sop value sig =>
    let (s1, st, dt) : State × Nat × Nat := (s.fabWrite x ps va data).fabSignal x qs sop value sig
    (s1, st, dt, [])
  | .radd data => ((elements 4 data).foldl (fun a e => a.fabAtomic x ps (va + e.1) e.2) s, 0, 0, [])
  | .rmax data => ((elements 4 data).foldl (fun a e => a.fabAtomic x ps (va + e.1) e.2) s, 0, 0, [])
  | .rsmx data => ((elements 16 data).foldl (fun a e => a.fabAtomic x ps (va + e.1) e.2) s, 0, 0, [])
  | .contrib _ _ _ => (s, 0, 0, [])

/-- A forwarded operation of a device that carries window m or earlier is still to be performed: one that the image announced and that
has not come, one on the way, or one that is held (R424). -/
def State.forwardedBefore (s : State) (vd m : Nat) : Bool :=
  let early (x : FabOp) : Bool := x.vd == vd && x.forwarded && winLe x.window m
  (s.device vd).forward.any (fun x => winLe x.window m) || s.wire.any early || (s.device vd).held.any fun x => early x.1

/-- A held operation may be performed: its device is active and has entered its window (R130), among those that arrived during a
collapse no earlier window is left (R419), and one that came direct waits for the forwarded ones (R424). -/
def State.mayRelease (s : State) (vd : Nat) (x : FabOp × Bool) : Bool :=
  let d := s.device vd
  d.state == .active && winLe x.1.window d.window
    && !(x.2 && d.held.any fun y => y.2 && winBefore y.1.window x.1.window)
    && (x.1.forwarded || !s.forwardedBefore vd x.1.window)

/-- FABRIC_OP_RELEASE (R130 to R133, R168, R354, R355): a held operation is performed or refused, and answered. One
whose give-up notice came while it was held is discarded, as one that comes after its notice is (R128; DESIGN CHOICE, log 76). The object is
the device and the place of the operation among those it holds. -/
def execFabricOpRelease (s : State) : Result :=
  let (vd, i, _) := s.object
  let d := s.device vd
  match d.held[i]? with
  | none => .next s
  | some (x, asleep) =>
    match x.kind with
    | .contrib _ _ _ => .next s
    | _ =>
      let s1 := s.withDevice vd fun y => { y with held := y.held.eraseIdx i }
      let counted (t : State) : State :=
        if x.kind.writes then t.withDevice vd fun y => y.countPerformed x.src x.id x.window else t
      if !s.mayRelease vd (x, asleep) then .next s
      else if d.given.contains (x.src, x.id) then .next s1
      else
        match s.fabPieces x with
        | .wait => .next s
        | .fault code => .next ((counted (s1.fabWalks x)).answer x 1 code [])
        | .ok ps qs =>
          if (s.lockedIn (ps ++ qs)).isSome then .next s
          else
            let (s2, st, dt, data) : State × Nat × Nat × List Byte := (s1.fabWalks x).fabPerform x ps qs
            .next ((counted s2).answer x st dt data)

end Sys2Proof.Machine
end

