-- ==== Sys2Proof/Machine/Ending.lean ====
section
/-! DEFINITION. Endings: of a group (R202, R223, R356), of a collective (R181, R384), of a launch (R223). -/

namespace Sys2Proof.Machine

open Sys2Proof

/-! ## Groups -/

/-- What a group holds is released: its transaction and its key registers, but for a copy of its launch's binding (R84, R85, R91). -/
def State.releaseHeld (s : State) (g : Group) : State :=
  let part := s.partOf g
  let s1 := match g.tx with
    | some t => (if t.held then s.dropHold part t.entry else s).unlockLines t.locked
    | none => s
  (List.range 4).foldl (fun a z => if g.bound && z == 0 then a else a.releaseKey part (g.keys.get z 0)) s1

/-- A remote-fault record that is left is reported (R356). -/
def State.reportRemote (s : State) (g : Group) : State :=
  match g.remote with
  | some r => { s with driver := s.driver ++ [.remoteLeft g.launch r.status] }
  | none => s

/-- A group ends (R202): what it holds is released, it leaves its slot, and the barriers of its gang are checked (R277). -/
def State.endGroup (s : State) (c k : Nat) : State :=
  match s.group? c k with
  | none => s
  | some g =>
    let s1 := ((s.releaseHeld g).reportRemote g).dropWaiter (.lanes c k) |>.dropWaiter (.group c k)
    let s2 := s1.withCore c fun x =>
      { x with groups := x.groups.del k, order := x.order.change (k % Config.issueSlots) (List.filter (· != k)) }
    let s3 := s2.withGang c g.gang fun y => { y with rings := y.rings.mapAll fun _ r => r.leave k }
    ((List.range 16).foldl (fun a b => a.checkBar c g.gang b) s3).settleGangs g.launch

/-- A group that has been spilled ends. -/
def State.endSaved (s : State) (c n k : Nat) (g : Group) : State :=
  ((s.releaseHeld g).reportRemote g).withGang c n fun y => { y with saved := { y.saved with groups := y.saved.groups.del k } }

/-! ## Collectives -/

def State.channel? (s : State) (h n : Nat) : Option Channel := (s.hinge h).chans.look n
def State.withChannel (s : State) (h n : Nat) (f : Channel → Channel) : State :=
  s.withHinge h fun x => { x with chans := x.chans.change n f }

/-- The header of an object cannot be written now: a line of it, or of the tables that lead to it, is locked (R78). -/
def State.headerLocked (s : State) (vd va : Nat) : Bool :=
  match s.translateAgent vd .store va 256 with
  | .ok ps => (s.lockedIn ps).isSome
  | .miss _ => true
  | .fault _ _ => false

/-- The header of a residual object at the end of its collective (R181): one release at device scope. A header that no longer
translates is not written (log 25). -/
def State.writeHeader (old : State) (vd va : Nat) : State :=
  let s := old.agentWalks none vd va 256
  match old.translateAgent vd .store va 256 with
  | .ok [p] =>
    let uses := s.readNat p.page.tier (p.addr + 0x20) 8
    let flags := s.readNat p.page.tier (p.addr + 6) 1
    let w : Source := { vd := vd, carried := none, ver := p.page.ver, die := none, release := none }
    s.writeMem w p.page.tier (addressed (p.addr + 6) (toBytes 1 (flags / 2 * 2))
      ++ addressed (p.addr + 0x18) (toBytes 8 ((s.device vd).window * 2 ^ 16))
      ++ addressed (p.addr + 0x20) (toBytes 8 ((uses + 1) % 2 ^ 64)))
  | _ => s

/-- The combining slots of a communicator of a device are released; contributions that were staged there have been performed (R379). -/
def State.freeSlots (s : State) (vd comm : Nat) : State :=
  let mine (x : Nat × CombSlot) : Bool := x.2.vd == vd && x.2.comm == comm
  let staged := (s.comb.filter mine).flatMap fun x => x.2.staged
  staged.foldl (fun a x => a.answer x 0 0 []) { s with comb := s.comb.filter fun x => !mine x }

/-- The end of a channel waits for a locked line of its object's header (R78, R181). -/
def State.endHeld (s : State) (h n : Nat) : Bool :=
  match s.channel? h n with
  | some ch => (match ch.obj with
      | some o => (s.device ch.vd).state != DevState.lost && s.headerLocked ch.vd o.1
      | none => false)
  | none => false

/-- A channel of an ended launch stops for good (R223); what it has under way completes, and then its collective ends. -/
def State.killChannel (s : State) (h n : Nat) : State :=
  ((s.withChannel h n fun ch => { ch with killed := true, word := none }).withHinge h fun x =>
    { x with running := if x.running = some n then none else x.running }).dropWaiter (.channel h n)

/-- A collective retires or ends (R181, R384): its slots and its channel are released. A lost device writes no header. -/
def State.endChannel (s : State) (h n : Nat) : State :=
  match s.channel? h n with
  | none => s
  | some ch =>
    let s1 := match ch.obj with
      | some o => if (s.device ch.vd).state = DevState.lost then s else s.writeHeader ch.vd o.1
      | none => s
    let s2 := (s1.freeSlots ch.vd ch.comm).withHinge h fun x =>
      { x with chans := x.chans.del n, running := if x.running = some n then none else x.running }
    s2.withLaunch ch.launch fun l => { l with coll := none }

/-! ## Launches -/

/-- Steps 1 and 2 of the ending of a launch (R223) with DETAIL `detail`: unplaced gangs are discarded, every lane is killed, and its
channel stops. Engine operations under way complete, and then its collective ends as the launch retires. -/
def State.endLaunch (s : State) (l detail : Nat) : State :=
  match s.launches.look l with
  | none => s
  | some x =>
    if x.ended.isSome then s
    else
      let s1 := s.withLaunch l fun y => { y with ended := some detail, blocked := false }
      let s2 := (s1.allGroups.filter fun z => z.2.2.launch == l).foldl (fun a z => a.endGroup z.1 z.2.1) s1
      let saved := (s2.allGangs.filter fun z => z.2.2.launch == l).flatMap fun z => z.2.2.saved.groups.map fun g => (z.1, z.2.1, g.1, g.2)
      let s3 := saved.foldl (fun a z => a.endSaved z.1 z.2.1 z.2.2.1 z.2.2.2) s2
      let s4 := { s3 with cores := s3.cores.mapAll fun _ c => { c with gangs := c.gangs.mapAll fun _ y =>
        if y.launch = l then { y with claims := [], populated := true } else y } }.settleGangs l
      match x.coll with
      | some (h, n) => s4.killChannel h n
      | none => s4

end Sys2Proof.Machine
end

