-- ==== Sys2Proof/Machine/Hinge.lean ====
section
/-! DEFINITION. Hinge processors (spec/14, R364, R369 to R384): the instructions of a channel, the ends of a program, combining slots, and
the choice of a channel. The rows of the hinge instructions carry no operands; the meanings read the fields of the channel's
instruction in progress. -/

namespace Sys2Proof.Machine

open Sys2Proof

/-! ## The executing channel -/

/-- An operation of the executing channel, given the fields of its instruction. -/
def onChannel (s : State) (f : Nat → Nat → Channel → HingeFields → State) : Result :=
  match s.actor with
  | .channel h n =>
    match s.channel? h n with
    | some ch =>
      match ch.word with
      | some w => .next (f h n ch (hingeFieldsOf w))
      | none => .refused .noIssuer
    | none => .refused .noIssuer
  | _ => .refused .noIssuer

def Channel.reg (ch : Channel) (i : BitVec 4) : DWord := ch.x.get i.toNat 0
def Channel.setReg (ch : Channel) (i : BitVec 4) (v : DWord) : Channel := { ch with x := ch.x.put i.toNat v }

/-- An entry of a buffer. -/
def Channel.entry (ch : Channel) (b : BitVec 4) (i : Nat) : DWord := (ch.bufs.get b.toNat []).get i 0
def Channel.setEntry (ch : Channel) (b : BitVec 4) (i : Nat) (v : DWord) : Channel :=
  { ch with bufs := ch.bufs.update b.toNat [] fun t => t.put i v }

/-- Values written to the entries of a buffer from entry `at` on. -/
def Channel.setEntries (ch : Channel) (b : BitVec 4) (at_ : Nat) (vs : List DWord) : Channel :=
  vs.zipIdx.foldl (fun a x => a.setEntry b (at_ + x.2) x.1) ch

/-- The FP32 bits of an entry. -/
def Channel.bits32 (ch : Channel) (b : BitVec 4) (i : Nat) : Nat := (ch.entry b i).toNat % 2 ^ 32

/-- The channel goes on at an address, or at the next word. -/
def Channel.goto (ch : Channel) (pc : DWord) : Channel := { ch with pc := pc, word := none, wait := none }
def Channel.go (ch : Channel) : Channel := ch.goto (ch.pc + 4)

/-- The target of a displacement (R370). -/
def Channel.target (ch : Channel) (imm : BitVec 14) : DWord := ch.pc + BitVec.ofInt 64 (4 * imm.toInt)

/-- The sign-extended immediate. -/
def sextImm (imm : BitVec 14) : DWord := BitVec.ofInt 64 imm.toInt

/-- A register operation: it sets no flag and never faults (R372). -/
def chanOp (s : State) (f : Channel → HingeFields → Channel) : Result :=
  onChannel s fun h n ch w => s.withChannel h n fun _ => f ch w

/-- A channel begins to wait; the hinge processor switches (R382). -/
def State.chanWait (s : State) (h n : Nat) (w : ChanWait) : State :=
  (s.withChannel h n fun ch => { ch with wait := some w }).withHinge h fun x => { x with switch := true }

/-! ## Ends of a program (R384) -/

/-- The `get` that a channel has under way. -/
def Channel.getting (ch : Channel) : Option Nat :=
  match ch.wait with
  | some (.get id) => some id
  | _ => none

/-- A failed program whose operations have completed is recorded for the guest driver, its object's header is written, and firmware ends
its launch; a header on a locked line is written as the launch retires (R78), and so is that of a launch which was ended meanwhile
(R223). -/
def State.settleChannel (s : State) (h n : Nat) : State :=
  match s.channel? h n with
  | none => s
  | some ch =>
    match ch.failed with
    | none => s
    | some (status, detail) =>
      if !ch.sends.isEmpty || ch.getting.isSome then s
      else
        let s1 := { s with driver := s.driver ++ [Notification.program ch.vd status detail ch.pc] }.withChannel h n fun y =>
          { y with failed := none, killed := true }
        (if ch.killed || s.endHeld h n then s1 else s1.endChannel h n).endLaunch ch.launch 2

/-- A program status: the channel stops at the word, and a `get` that it has under way still completes (R384); a status already there
stays. -/
def State.chanFail (s : State) (h n status detail : Nat) : State :=
  ((s.withChannel h n fun ch => { ch with
      failed := some (ch.failed.getD (status, detail)), word := none, wait := ch.getting.map ChanWait.get }).withHinge h
    fun x => if x.running = some n then { x with switch := true } else x).settleChannel h n

/-! ## Local memory (R373) -/

/-- The die of a hinge processor, whose walkers its channels use (R364, R373). -/
def hingeDie (h : Nat) : Nat := h / 8

/-- How an access of a channel ends: its pieces, a line to wait for, or the code that program status 2 records. -/
inductive ChanAccess where
  | ok (ps : List Piece)
  | locked
  | fault (code : Nat)
  deriving DecidableEq, Repr

/-- An access of n bytes; elements of z bytes must be aligned. -/
def State.chanAccess (s : State) (h vd : Nat) (kind : Access) (va n z : Nat) : ChanAccess :=
  if n ≠ 0 ∧ va % z ≠ 0 then .fault 0
  else
    match s.translateOn (some (hingeDie h)) vd kind va n with
    | .fault f _ => .fault f.code
    | .miss _ => .locked
    | .ok ps => if (s.lockedIn ps).isSome then .locked else .ok ps

/-- What the walks of a channel's access leave behind them. -/
def State.chanWalks (s : State) (h vd va n : Nat) : State := s.agentWalks (some (hingeDie h)) vd va n

/-- An access of a channel and what follows it: a program status 2, another try while a line is locked, or the use of its pieces. -/
def State.withAccess (s : State) (h n : Nat) (ch : Channel) (kind : Access) (va bytes z : Nat) (f : State → List Piece → State) : State :=
  match s.chanAccess h ch.vd kind va bytes z with
  | .fault c => (if bytes ≠ 0 ∧ va % z ≠ 0 then s else s.chanWalks h ch.vd va bytes).chanFail h n 2 c
  | .locked => s
  | .ok ps => f ((s.chanWalks h ch.vd va bytes).chargePieces ch.vd (if kind = .store then [] else ps)) ps

/-- Bytes written by a channel at their homes. -/
def State.chanWrite (s : State) (vd : Nat) (ps : List Piece) (va : Nat) (data : List Byte) : State :=
  ps.foldl (fun a p => a.writeMem { vd := vd, carried := none, ver := p.page.ver, die := none, release := none } p.page.tier
    (addressed p.addr ((data.drop (p.va - va)).take p.n))) s

/-- The numbers of z bytes each that bytes hold. -/
def numbers (z : Nat) (bs : List Byte) : List Nat := (elements z bs).map fun e => ofBytes e.2

/-! ## Control and integers (R371) -/

/-- `br`. -/
def execHingeBr (s : State) : Result := chanOp s fun ch w => ch.goto (ch.target w.imm)

/-- `bnz`. -/
def execHingeBnz (s : State) : Result := chanOp s fun ch w => if ch.reg w.a ≠ 0 then ch.goto (ch.target w.imm) else ch.go

/-- `loop`. -/
def execHingeLoop (s : State) : Result :=
  chanOp s fun ch w =>
    let v := ch.reg w.a - 1
    if v ≠ 0 then (ch.setReg w.a v).goto (ch.target w.imm) else (ch.setReg w.a v).go

/-- `movi`. -/
def execHingeMovi (s : State) : Result := chanOp s fun ch w => (ch.setReg w.a (sextImm w.imm)).go

/-- `add`. -/
def execHingeAdd (s : State) : Result := chanOp s fun ch w => (ch.setReg w.a (ch.reg w.b + ch.reg w.c)).go

/-- `addi`. -/
def execHingeAddi (s : State) : Result := chanOp s fun ch w => (ch.setReg w.a (ch.reg w.b + sextImm w.imm)).go

/-- `muli`. -/
def execHingeMuli (s : State) : Result := chanOp s fun ch w => (ch.setReg w.a (ch.reg w.b * sextImm w.imm)).go

/-- `shli`. -/
def execHingeShli (s : State) : Result := chanOp s fun ch w => (ch.setReg w.a (ch.reg w.b <<< (w.imm.toNat % 64))).go

/-- `nop`. -/
def execHingeNop (s : State) : Result := chanOp s fun ch _ => ch.go

/-- `len` (R372). -/
def execHingeLen (s : State) : Result :=
  onChannel s fun h n ch w =>
    let v := (ch.reg w.a).toNat
    if 4096 < v then s.chanFail h n 4 0 else s.withChannel h n fun _ => { ch with blen := v }.go

/-- `ld` (R373). -/
def execHingeLd (s : State) : Result :=
  onChannel s fun h n ch w =>
    let va := (ch.reg w.b + 8 * sextImm w.imm).toNat
    s.withAccess h n ch .load va 8 8 fun s ps =>
      s.withChannel h n fun _ => (ch.setReg w.a (BitVec.ofNat 64 (ofBytes (s.homeBytes ps)))).go

/-! ## Hasps (R374) -/

/-- The record that an address names, for a channel: a program status 2 or 3 where it names none. -/
def State.withHasp (s : State) (h n : Nat) (ch : Channel) (va : Nat) (f : State → Nat → State) :
    State :=
  let t := s.chanWalks h ch.vd va 16
  match s.translateOn (some (hingeDie h)) ch.vd .atomic va 16 with
  | .fault e _ => t.chanFail h n 2 e.code
  | .miss _ => s
  | .ok ps =>
    match s.haspAddr ch.vd va ps with
    | none => t.chanFail h n 3 4
    | some a => if (s.lockedIn ps).isSome then s else f (t.chargePieces ch.vd ps) a

/-- `arrive`: a release at device scope. -/
def execHingeArrive (s : State) : Result :=
  onChannel s fun h n ch w =>
    s.withHasp h n ch (ch.reg w.a).toNat fun s a =>
      let (s1, st, _) : State × Nat × Nat := s.haspArrive a w.imm.toNat ch.vd ch.part none
      if st = 0 then s1.withChannel h n Channel.go else s1.chanFail h n 3 st

/-- A hasp read for a channel's wait (R173): it goes on waiting, or completes with the phase last read. -/
def State.chanHasp (s : State) (h n : Nat) (ch : Channel) (b : BitVec 4) (a p : Nat) : State :=
  match s.haspWait a ch.vd ch.part p with
  | none => (s.chanWait h n (.hasp a (BitVec.ofNat 32 p) false)).placeWard (lineOf a) (.channel h n)
  | some (0, ph) => s.withChannel h n fun x => (x.setReg b (BitVec.ofNat 64 ph)).go
  | some (st, _) => s.chanFail h n 3 st

/-- `await`: a wait that has begun reads the same record again. -/
def execHingeAwait (s : State) : Result :=
  onChannel s fun h n ch w =>
    match ch.wait with
    | some (.hasp a p _) => if s.locked (lineOf a) then s else (s.chargeLine ch.vd (lineOf a)).chanHasp h n ch w.b a p.toNat
    | _ => s.withHasp h n ch (ch.reg w.a).toNat fun s a => s.chanHasp h n ch w.b a ((ch.reg w.b).toNat % 2 ^ 32)

/-! ## Sends (R375, R379, R381) -/

/-- The port that a send to a rank leaves by: a port of the hinge processor that the partition does not own ends the program (R381). -/
def State.portOwned (s : State) (part h p : Nat) : Bool :=
  let port := 4 * h + p
  if port < 64 then ((s.partition part).ctl.get 0x18 0).getLsbD port else ((s.partition part).ctl.get 0x20 0).getLsbD (port - 64)

/-- The route leaves the module. -/
def Route.leaves : Route → Bool
  | .away _ => true
  | _ => false

/-- An operation of a channel issues (R375, R379): it carries the window, is counted, and goes to the rank. `get` names the local
destination of a `get`, whose pages are kept for its data. An operation that leaves by a port for which the channel has no credits is held, and
the channel waits (R382, R383). A channel of a device that is being moved goes on sending until its next `ckpt` or `stop` (R422, log 69). -/
def State.chanSend (s : State) (h n : Nat) (ch : Channel) (rank off dest size : Nat) (pages : List Page) (get : Bool) (kind : FabKind) :
    State :=
  let port := if ch.port = 4 then rank % 4 else ch.port
  if (s.route ch.vd rank).leaves && !s.portOwned ch.part h port then s.chanFail h n 9 0
  else if (s.route ch.vd rank).leaves && ch.nocredit.contains port then s.chanWait h n (.credit port)
  else
    let id := s.nextOp
    let d := s.device ch.vd
    let o : EngOp := { kind := .channel h n rank dest size get, core := Config.cores, slot := 0, launch := ch.launch, gang := 0,
                       vd := ch.vd, ctr := .copies, pages := pages, bad := [], window := d.window, done := 0 }
    let x : FabOp := { id := id, from? := some ch.vd, src := (d.job.map (·.rank)).getD 0, dst := rank, window := d.window, vd := 0,
                       off := off, kind := kind, forwarded := false }
    let s1 := { (s.newOp) with ops := s.ops.put id o }
    let s2 := if get then s1.chanWait h n (.get id) else s1.withChannel h n fun y => { y.go with sends := y.sends ++ [id] }
    s2.sendFab ch.vd x

/-- Program status 2 with code 0x0C for a fabric range that R10 refuses. -/
def State.fabOk (s : State) (ch : Channel) (a : DWord) (n : Nat) : Bool := (fabricBad (s.device ch.vd) a n).isNone

/-- `put`, `putsig` and `radd`: checks, the read of the source, the send, for which a locked line of the route entry is waited for (R78).
`sig` is the address and count of a signal. -/
def chanPut (radd : Bool) (sig : Option (DWord × Nat)) (h n : Nat) (ch : Channel) (w : HingeFields) (s : State) : State :=
  let fab := ch.reg w.a
  let loc := (ch.reg w.b).toNat
  let size := (ch.reg w.c).toNat
  if radd ∧ size % 4 ≠ 0 then s.chanFail h n 4 0
  else if radd ∧ (loc % 4 ≠ 0 ∨ fabOff fab % 4 ≠ 0) then s.chanFail h n 2 0
  else if (sig.map fun x => fabRank x.1 != fabRank fab) = some true then s.chanFail h n 2 0x0C
  else if (sig.map fun x => fabOff x.1 % 16 != 0) = some true then s.chanFail h n 2 0
  else if !s.fabOk ch fab size || (sig.map fun x => !s.fabOk ch x.1 16) = some true then s.chanFail h n 2 0x0C
  else if size = 0 ∧ sig.isNone then s.withChannel h n Channel.go
  else if (s.routeHeld ch.vd (fabRank fab)).isSome then s
  else
    s.withAccess h n ch .load loc size 1 fun s ps =>
      let data := s.homeBytes ps
      let kind : FabKind := match sig with
        | some (x, c) => .putsig data 2 c (fabOff x)
        | none => if radd then .radd data else .put data
      s.chanSend h n ch (fabRank fab) (fabOff fab) 0 size [] false kind

/-- `put`. -/
def execHingePut (s : State) : Result := onChannel s fun h n ch w => chanPut false none h n ch w s

/-- `putsig`. -/
def execHingePutsig (s : State) : Result :=
  onChannel s fun h n ch w => chanPut false (some (ch.reg (w.c + 1), w.imm.toNat)) h n ch w s

/-- `radd`. -/
def execHingeRadd (s : State) : Result := onChannel s fun h n ch w => chanPut true none h n ch w s

/-- `get`. -/
def execHingeGet (s : State) : Result :=
  onChannel s fun h n ch w =>
    let fab := ch.reg w.b
    let loc := (ch.reg w.a).toNat
    let size := (ch.reg w.c).toNat
    if !s.fabOk ch fab size then s.chanFail h n 2 0x0C
    else if size = 0 then s.withChannel h n Channel.go
    else if (s.routeHeld ch.vd (fabRank fab)).isSome then s
    else
      let t := s.chanWalks h ch.vd loc size
      match s.translateOn (some (hingeDie h)) ch.vd .store loc size with
      | .fault f _ => t.chanFail h n 2 f.code
      | .miss _ => s
      | .ok ps => t.chanSend h n ch (fabRank fab) (fabOff fab) loc size (ps.map (·.page)).eraseDups true (.get size)

/-! ## Buffers (R376 to R378) -/

/-- `bld` and `bld.w`. -/
def bufLoad (z : Nat) (s : State) : Result :=
  onChannel s fun h n ch w =>
    s.withAccess h n ch .load (ch.reg w.b).toNat (z * ch.blen) z fun s ps =>
      s.withChannel h n fun _ => (ch.setEntries w.a 0 ((numbers z (s.homeBytes ps)).map (BitVec.ofNat 64))).go

/-- `bld`. -/
def execHingeBld (s : State) : Result := bufLoad 4 s
/-- `bld.w`. -/
def execHingeBldW (s : State) : Result := bufLoad 8 s

/-- `bst` and `bst.w`. -/
def bufStore (z : Nat) (s : State) : Result :=
  onChannel s fun h n ch w =>
    let va := (ch.reg w.b).toNat
    s.withAccess h n ch .store va (z * ch.blen) z fun s ps =>
      (s.chanWrite ch.vd ps va ((List.range ch.blen).flatMap fun i => toBytes z (ch.entry w.a i).toNat)).withChannel h n Channel.go

/-- `bst`. -/
def execHingeBst (s : State) : Result := bufStore 4 s
/-- `bst.w`. -/
def execHingeBstW (s : State) : Result := bufStore 8 s

/-- L of the collective, and whether its code is ternary (R366). -/
def Channel.blockLen (ch : Channel) : Nat := Num.blockLen ch.len
def Channel.ternary (ch : Channel) : Bool := ch.form == 2

/-- `dec` (R376). -/
def execHingeDec (s : State) : Result :=
  onChannel s fun h n ch w =>
    let l := ch.blockLen
    let bs := Num.blockBytes ch.ternary l
    if !ch.compressed then s.chanFail h n 1 0
    else if ch.blen % l ≠ 0 then s.chanFail h n 4 0
    else
      s.withAccess h n ch .load (ch.reg w.b).toNat (bs * (ch.blen / l)) 1 fun s ps =>
        let vs := (elements bs (s.homeBytes ps)).flatMap fun e => Num.decodeBlock ch.ternary l (e.2.map (·.toNat))
        s.withChannel h n fun _ => (ch.setEntries w.a 0 (vs.map (BitVec.ofNat 64))).go

/-- `fadd` (R377). -/
def execHingeFadd (s : State) : Result :=
  chanOp s fun ch w =>
    (ch.setEntries w.a 0 ((List.range ch.blen).map fun i =>
      BitVec.ofNat 64 (Num.addNE32 (ch.bits32 w.b i) (ch.bits32 w.c i)))).go

/-- One block of `cmpr` (R377): the code, the decoded values and the new residuals. -/
def compressBlock (ternary : Bool) (hops : Nat) (bs res : List Nat) : List Nat × List Nat × List Nat :=
  let xs := (bs.zip res).map fun (b, r) => Num.addNE32 b r
  let code := Num.compress ternary hops xs
  let ds := Num.decodeBlock ternary xs.length code
  (code, ds, (xs.zip ds).map fun (x, d) =>
    Num.roundNE Num.f32 (Num.sub .ne (Num.decode Num.f32 x) (Num.decode Num.f32 d)).1)

/-- `cmpr` (R377, R182), block after block. -/
def execHingeCmpr (s : State) : Result :=
  onChannel s fun h n ch w =>
    let l := ch.blockLen
    let bs := Num.blockBytes ch.ternary l
    let va := (ch.reg w.a).toNat
    let e := (ch.reg w.c).toNat
    match (if ch.compressed then ch.obj else none) with
    | none => s.chanFail h n 1 0
    | some (obj, count) =>
      if ch.blen % l ≠ 0 then s.chanFail h n 4 0
      else if count < e + ch.blen then s.chanFail h n 5 0
      else
        let body := obj + 256 + 4 * e
        s.withAccess h n ch .store va (bs * (ch.blen / l)) 1 fun s ps =>
          s.withAccess h n ch .store body (4 * ch.blen) 4 fun s qs =>
            let (s2, ch2) : State × Channel := (List.range (ch.blen / l)).foldl (fun acc j =>
              let (t, c) : State × Channel := acc
              let res := numbers 4 (((t.homeBytes qs).drop (4 * j * l)).take (4 * l))
              let (code, ds, errs) : List Nat × List Nat × List Nat := compressBlock ch.ternary w.imm.toNat
                ((List.range l).map fun i => c.bits32 w.b (j * l + i)) res
              let t1 := t.chanWrite ch.vd (ps.filterMap fun p => cutPiece p (va + j * bs) bs) (va + j * bs) (code.map (BitVec.ofNat 8))
              let t2 := t1.chanWrite ch.vd (qs.filterMap fun p => cutPiece p (body + 4 * j * l) (4 * l)) (body + 4 * j * l)
                (errs.flatMap (toBytes 4))
              (t2, c.setEntries w.b (j * l) (ds.map (BitVec.ofNat 64)))) (s.chargePieces ch.vd qs, ch)
            s2.withChannel h n fun _ => ch2.go
where
  /-- The part of a piece within [va, va + n). -/
  cutPiece (p : Piece) (va n : Nat) : Option Piece :=
    let lo := max p.va va
    let hi := min (p.va + p.n) (va + n)
    if lo < hi then some { p with va := lo, n := hi - lo, addr := p.addr + (lo - p.va) } else none

/-- A buffer instruction of exact mode, for which LEN must be a multiple of 32 (R378). -/
def exactOp (s : State) (f : Channel → HingeFields → Option Channel) : Result :=
  onChannel s fun h n ch w =>
    if ch.blen % 32 ≠ 0 then s.chanFail h n 4 0
    else
      match f ch w with
      | some c => s.withChannel h n fun _ => c.go
      | none => s.chanFail h n 7 0

/-- `emax` (R378). -/
def execHingeEmax (s : State) : Result :=
  exactOp s fun ch w => some (ch.setEntries w.a 0 ((List.range (ch.blen / 32)).map fun j =>
    BitVec.ofNat 64 (((List.range 32).map fun i => bits (ch.entry w.b (32 * j + i)) 23 8).foldl max 0)))

/-- `imax` (R378). -/
def execHingeImax (s : State) : Result :=
  chanOp s fun ch w => (ch.setEntries w.a 0 ((List.range ch.blen).map fun i =>
    let x := ch.entry w.b i
    let y := ch.entry w.c i
    if x.toInt < y.toInt then y else x)).go

/-- `iadd` (R378). -/
def execHingeIadd (s : State) : Result :=
  chanOp s fun ch w => (ch.setEntries w.a 0 ((List.range ch.blen).map fun i => ch.entry w.b i + ch.entry w.c i)).go

/-- One element aligned to an exponent entry (R378): none when it is too large for it. -/
def alignElem (bits e : DWord) : Option DWord :=
  let e1 := max e.toInt 1
  if e.toInt = 255 then some 0
  else
    match Num.decode Num.f32 (bits.toNat % 2 ^ 32) with
    | .fin neg m q =>
      if m ≠ 0 ∧ e1 - 126 ≤ Num.expo m q then none
      else some (BitVec.ofInt 64 (Num.roundInt .ne neg m (q + 173 - e1)).1)
    | _ => none

/-- `align` (R378), entry after entry. -/
def execHingeAlign (s : State) : Result :=
  exactOp s fun ch w => (List.range ch.blen).foldl (fun acc i => acc.bind fun c =>
    (alignElem (c.entry w.b i) (c.entry w.c (i / 32))).map fun v => c.setEntry w.a i v) (some ch)

/-- One sum converted back with one rounding (R378). -/
def convertElem (v e : DWord) : DWord :=
  if e.toInt = 255 then BitVec.ofNat 64 Num.f32.nanc
  else BitVec.ofNat 64 (Num.roundNE Num.f32 (Num.ofInt false v.toInt (max e.toInt 1 - 173)))

/-- `cvtb` (R378), entry after entry. -/
def execHingeCvtb (s : State) : Result :=
  exactOp s fun ch w => some ((List.range ch.blen).foldl (fun c i =>
    c.setEntry w.a i (convertElem (c.entry w.b i) (c.entry w.c (i / 32)))) ch)

/-! ## Combining slots (R379, R380) -/

/-- n, OP and NC of a configuration, when it is acceptable (R379). -/
def slotConf (v : DWord) : Option (Nat × Nat × Nat) :=
  let n := bits v 0 13
  let op := bits v 16 2
  let nc := bits v 32 16
  if bits v 13 3 ≠ 0 ∨ bits v 18 14 ≠ 0 ∨ bits v 48 16 ≠ 0 ∨ op = 3 ∨ n = 0 ∨ 4096 < n ∨ nc = 0 ∨ 256 < nc
      ∨ 2 ^ 20 < nc * n * (if op = 2 then 12 else 4) then none
  else some (n, op, nc)

/-- The entries of a full contribution. -/
def slotLen (n op : Nat) : Nat := if op = 2 then 3 * n else n

/-- Expand of R380. -/
def expandContrib (n op : Nat) (c : List DWord) : List DWord :=
  if !c.isEmpty then c
  else if op = 0 then List.replicate n 0
  else if op = 1 then List.replicate n (BitVec.ofNat 64 0xFF800000)
  else (List.replicate n [BitVec.ofNat 64 0xFF800000, 0, 0]).flatten

/-- The triples of a list, merged one by one (R360). -/
def mergeTriples : List Nat → List Nat → List Nat
  | m1 :: l1 :: y1 :: r1, m2 :: l2 :: y2 :: r2 =>
    let (m, l, y) := Num.smxMerge (m1, l1, y1) (m2, l2, y2)
    m :: l :: y :: mergeTriples r1 r2
  | _, _ => []

/-- Op of R380 on two expanded contributions. -/
def combineTwo (op : Nat) (a b : List DWord) : List DWord :=
  let xs := a.map fun v => v.toNat % 2 ^ 32
  let ys := b.map fun v => v.toNat % 2 ^ 32
  let r := if op = 0 then (xs.zip ys).map fun (x, y) => Num.addNE32 x y
    else if op = 1 then (xs.zip ys).map fun (x, y) => Num.maxNan32 x y
    else mergeTriples xs ys
  r.map (BitVec.ofNat 64)

/-- An FP32 value whose NaN is NaNc (R145). -/
def canonNan (v : DWord) : DWord :=
  if Num.decode Num.f32 (v.toNat % 2 ^ 32) = .nan then BitVec.ofNat 64 Num.f32.nanc else v

/-- Combine of R380, in ascending order of rank. No NaN of a contribution passes unchanged into the result (R145, log 21). -/
def combineAll (n op : Nat) (cs : List (Nat × List DWord)) : List DWord :=
  match (cs.mergeSort fun a b => a.1 ≤ b.1).map fun c => expandContrib n op c.2 with
  | [] => []
  | c :: rest => (rest.foldl (combineTwo op) c).map canonNan

/-- The result of an open slot once its contributions are all there. -/
def CombSlot.settle (x : CombSlot) : CombSlot :=
  match x.conf.bind slotConf with
  | some (n, op, nc) => if x.result.isNone ∧ x.contribs.length = nc then { x with result := some (combineAll n op x.contribs) } else x
  | none => x

/-- The slot of a communicator of a device, by its place in the package. -/
def State.slotOf (s : State) (vd comm k : Nat) : Option (Nat × CombSlot) :=
  s.comb.find? fun x => x.2.vd == vd && x.2.comm == comm && x.2.k == k

/-- A contribution has the length that a slot wants, or is empty. -/
def lengthOk (n op : Nat) (es : List DWord) : Bool := es.isEmpty || es.length == slotLen n op

/-- The entries of a contribution on its way. -/
def FabOp.entries (x : FabOp) : List DWord :=
  match x.kind with
  | .contrib _ _ es => es
  | _ => []

/-- An instruction on a slot of the collective; k at or above NSLOT is a slot error. -/
def onSlot (s : State) (f : Nat → Nat → Channel → HingeFields → Nat → CombSlot → State) : Result :=
  onChannel s fun h n ch w =>
    match (if w.imm.toNat < ch.nslot then s.slotOf ch.vd ch.comm w.imm.toNat else none) with
    | some (i, x) => f h n ch w i x
    | none => s.chanFail h n 6 0

/-- `csa`: the staged contributions beyond the first NC are refused; one of the wrong length is a slot error. -/
def execHingeCsa (s : State) : Result :=
  onSlot s fun h n ch w i x =>
    match (if x.conf.isSome then none else slotConf (ch.reg w.a)) with
    | none => s.chanFail h n 6 0
    | some (m, op, nc) =>
      let kept := x.staged.take nc
      let s1 := (x.staged.drop nc).foldl (fun a y => a.answer y 4 0 []) s
      let s2 := kept.foldl (fun a y => a.answer y (if lengthOk m op y.entries then 0 else 4) 0 []) s1
      let y : CombSlot := { x with conf := some (ch.reg w.a), staged := [], contribs := kept.map fun z => (z.src, z.entries) }
      let s3 := { s2 with comb := s2.comb.put i y.settle }
      if kept.all fun z => lengthOk m op z.entries then s3.withChannel h n Channel.go else s3.chanFail h n 6 0

/-- `csc`: a fabric write of the first LEN entries to a slot of the rank. -/
def execHingeCsc (s : State) : Result :=
  onChannel s fun h n ch w =>
    let rank := (ch.reg w.a).toNat % 2 ^ 16
    if !s.fabOk ch (BitVec.ofNat 64 (rank * 2 ^ 48)) 0 then s.chanFail h n 2 0x0C
    else if (s.routeHeld ch.vd rank).isSome then s
    else s.chanSend h n ch rank 0 0 0 [] false
      (.contrib ch.comm w.imm.toNat ((List.range ch.blen).map fun i => BitVec.ofNat 64 (ch.bits32 w.b i)))

/-- `csg`. -/
def execHingeCsg (s : State) : Result :=
  onSlot s fun h n ch w _ x =>
    if x.conf.isNone then s.chanFail h n 6 0
    else
      match x.result with
      | some r => s.withChannel h n fun _ => { ch.setEntries w.a 0 r with blen := r.length }.go
      | none => s.chanWait h n (.slot w.imm.toNat)

/-- `csr`. -/
def execHingeCsr (s : State) : Result :=
  onSlot s fun h n _ _ i x =>
    if x.conf.isNone then s.chanFail h n 6 0
    else { s with comb := s.comb.put i { x with conf := none, contribs := [], result := none } }.withChannel h n Channel.go

/-! ## Boundaries and ends (R381, R384) -/

/-- `ckpt`: the channel waits until every earlier send has completed, and only then may the hinge processor switch. -/
def execHingeCkpt (s : State) : Result :=
  onChannel s fun h n ch _ =>
    if !ch.sends.isEmpty then s.withChannel h n fun _ => { ch with wait := some .sends }
    else (s.withChannel h n fun _ => { ch.go with atCkpt := true }).withHinge h fun x => { x with switch := true }

/-- `sel`. -/
def execHingeSel (s : State) : Result :=
  onChannel s fun h n ch w =>
    let p := w.imm.toNat
    if p < 4 ∧ s.portOwned ch.part h p = false then s.chanFail h n 9 0 else s.withChannel h n fun _ => { ch with port := p }.go

/-- `stop`: the collective retires once every send of the channel has completed, and its object's header can be written. -/
def execHingeStop (s : State) : Result :=
  onChannel s fun h n ch _ =>
    if !ch.sends.isEmpty then s.withChannel h n fun _ => { ch with wait := some .sends }
    else if s.endHeld h n then s
    else (s.endChannel h n).withHinge h fun x => { x with switch := true }

/-! ## Completions -/

/-- A completion for the operation of a channel (R375): a failed one ends the program with status 8. The channel goes on behind a `get`,
unless its program has failed meanwhile (R384 step 2). -/
def State.chanDone (s : State) (o : EngOp) (h n : Nat) (dest : Nat) (x : Ack) : State :=
  match s.channel? h n with
  | none => s
  | some ch =>
    if ch.launch ≠ o.launch then s
    else
      let get := ch.getting == some x.id
      let s1 := if get && x.status == 0 then s.writeSide o (localSide dest) (addressed dest x.data) else s
      let s2 := s1.withChannel h n fun y =>
        if get then { y with wait := none } else { y with sends := y.sends.filter (· != x.id) }
      if x.status ≠ 0 then s2.chanFail h n 8 x.status
      else if get && ch.failed.isNone then s2.withChannel h n Channel.go
      else s2.settleChannel h n

/-- The pages of an operation's local destination hold no locked line, and its device is not throttled (R412). -/
def State.destFree (s : State) (o : EngOp) (dest size : Nat) : Bool :=
  let lines := s.sideLines o (localShape size) (localSide dest)
  !(lines.any s.locked) && !s.held o.vd lines

/-- FABRIC_OP_COMPLETE (R118, R354, R356, R375): a completion reaches the issuer. That of the part which an operation had
sent when a migration cancelled it completes nothing (R422, log 69). The object is the place of the completion. -/
def execFabricOpComplete (s : State) : Result :=
  let (i, _, _) := s.object
  match s.acks[i]? with
  | none => .next s
  | some x =>
    let s1 := { s with acks := s.acks.eraseIdx i }
    match s.ops.look x.id with
    | none => .next s1
    | some o =>
      let close (rank : Nat) (t : State) : State := if x.status = 2 ∨ x.status = 5 then t.closeConn o.vd rank else t
      match o.kind with
      | .fabric op a rank dest size sig =>
        let get := op = 0x12 ∧ x.status = 0
        if (s.device o.vd).moving = true ∧ x.status = 0 ∧ o.done < fabUnits op size sig then .next s1
        else if get ∧ s.destFree o dest size = false then .next s
        else
          let s2 := if get then s1.writeSide o (localSide dest) (addressed (dest + o.done) x.data) else s1
          let s3 := if x.status = 0 then s2 else s2.withIssuer o fun g => { g with remote := some (match g.remote with
            | none => { status := x.status, detail := x.detail % 256, opcode := op, addr := a, count := 1 }
            | some r => { r with count := min (r.count + 1) 255 }) }
          .next ((close rank s3).finishOp x.id)
      | .channel h n rank dest size _ =>
        if x.status = 0 ∧ s.destFree o dest size = false then .next s
        else .next ((close rank { s1 with ops := s1.ops.del x.id }).chanDone o h n dest x)
      | _ => .next s1

/-- SLOT_CONTRIBUTION_ARRIVE (R379, R380, R383): a held contribution is staged, accepted or refused at the owner. The object is the
device and the place of the contribution among the operations it holds. -/
def execSlotContributionArrive (s : State) : Result :=
  let (vd, i, _) := s.object
  let d := s.device vd
  match d.held[i]? with
  | none => .next s
  | some (x, asleep) =>
    match x.kind with
    | .contrib comm k es =>
      if !s.mayRelease vd (x, asleep) then .next s
      else
        let s1 := s.withDevice vd fun y => { y with held := y.held.eraseIdx i }
        if d.given.contains (x.src, x.id) then .next s1
        else
          let s2 := s1.withDevice vd fun y => y.countPerformed x.src x.id x.window
          match s2.slotOf vd comm k with
          | none => .next (s2.answer x 4 0 [])
          | some (j, slot) =>
            let put (y : CombSlot) : State := { s2 with comb := s2.comb.put j y }
            match slot.conf.bind slotConf with
            | none =>
              let size := (slot.staged.map fun y => 4 * y.entries.length).foldl (· + ·) 0
              if slot.staged.any (fun y => y.src == x.src) || decide (2 ^ 20 < size + 4 * es.length) then .next (s2.answer x 4 0 [])
              else .next (put { slot with staged := slot.staged ++ [x] })
            | some (n, op, nc) =>
              if slot.contribs.any (fun c => c.1 == x.src) || decide (nc ≤ slot.contribs.length) || !lengthOk n op es then
                .next (s2.answer x 4 0 [])
              else .next ((put { slot with contribs := slot.contribs ++ [(x.src, es)] }.settle).answer x 0 0 [])
    | _ => .next s

/-! ## The choice of a channel (R382) -/

/-- A channel of a hinge processor is ready: it has started, has not ended, and does not wait. -/
def State.chanReady (s : State) (ch : Channel) : Bool :=
  ch.started && ch.failed.isNone && !ch.killed && !(ch.atCkpt && (s.device ch.vd).moving) && (s.device ch.vd).state != .frozen
    && match ch.wait with
      | none => true
      | some (.hasp a p fired) => fired && !s.locked (lineOf a) && (s.haspWait a ch.vd ch.part p.toNat).isSome
      | some (.get _) => false
      | some (.slot k) => (match s.slotOf ch.vd ch.comm k with
        | some x => x.2.result.isSome
        | none => true)
      | some .sends => ch.sends.isEmpty
      | some (.credit p) => !ch.nocredit.contains p

/-- The better of two ready channels: one passed over 64 times, then the higher PRIO, then the one that has not run for longest. -/
def betterChannel (a b : Nat × Channel) : Bool :=
  let late (c : Nat × Channel) : Bool := decide (64 ≤ c.2.passed)
  if late a != late b then late a
  else decide (b.2.prio < a.2.prio ∨ (a.2.prio = b.2.prio ∧ a.2.last < b.2.last))

/-- The channel that a switch chooses. -/
def State.chosenChannel (s : State) (h : Nat) : Option (Nat × Channel) :=
  ((s.hinge h).chans.filter fun c => s.chanReady c.2).foldl (fun acc c => match acc with
    | none => some c
    | some b => if betterChannel c b then some c else some b) none

/-- CHANNEL_SWITCH; the object is the hinge processor. -/
def execChannelSwitch (s : State) : Result :=
  let (h, _, _) := s.object
  let x := s.hinge h
  if !x.switch && x.running.isSome then .next s
  else
    match s.chosenChannel h with
    | none => .next s
    | some (n, _) =>
      .next (s.withHinge h fun y => { y with
        running := some n, ran := 0, choices := y.choices + 1, switch := false,
        chans := y.chans.mapAll fun k ch =>
          if k = n then { ch with last := y.choices + 1, passed := 0, atCkpt := false }
          else if s.chanReady ch then { ch with passed := ch.passed + 1 } else { ch with passed := 0 } })

/-- The running channel has run 2^20 hinge cycles, and stands at an instruction boundary: not inside a `ckpt` or `stop` that waits. -/
def Hinge.atLimit (x : Hinge) : Bool :=
  decide (2 ^ 21 ≤ x.ran) && (match x.running.bind fun n => x.chans.look n with
    | some ch => ch.wait != some .sends
    | none => false)

/-- CHANNEL_RUN_LIMIT: the running channel has run 2^20 hinge cycles; the object is the hinge processor. -/
def execChannelRunLimit (s : State) : Result :=
  let (h, _, _) := s.object
  let x := s.hinge h
  if x.running.isSome && !x.switch && x.atLimit then .next (s.withHinge h fun y => { y with switch := true })
  else .next s

end Sys2Proof.Machine
end

