-- ==== Sys2Proof/Machine/Accept.lean ====
section
/-! DEFINITION. Acceptance of launches (spec/08, R211 to R214, R222; spec/17, R429, R430) and of their collectives (spec/14, R365 to R369;
spec/06, R178 to R180), completion records, retirement (R224, R225). -/

namespace Sys2Proof.Machine

open Sys2Proof

/-! ## Work of a device (R411) -/

/-- HEAD and TAIL of a shadow queue (R429). -/
def Device.sqTail (d : Device) (q : Nat) : Nat := bits (d.queue.get (0x20 * q + 8) 0) 0 32
def Device.sqHead (d : Device) (q : Nat) : Nat := bits (d.queue.get (0x20 * q + 0x10) 0) 0 32

/-- One of the queues of a device holds a packet. -/
def Device.hasPacket (d : Device) : Bool := !d.launchQueue.isEmpty || (List.range 4).any fun q => d.sqHead q != d.sqTail q

/-- A gang of a launch is still to be placed. -/
def Launch.unplaced (l : Launch) : Bool := l.ended.isNone && (nextGang l.pkt l.next).isSome

/-- The device has work (R411). -/
def State.hasWork (s : State) (vd : Nat) : Bool :=
  (s.device vd).hasPacket || s.launches.any fun l => l.2.vd == vd && (l.2.unplaced
    || s.allGroups.any (fun g => g.2.2.launch == l.1 && g.2.2.cause.isNone)
    || s.allGangs.any fun y => y.2.2.launch == l.1 && (!y.2.2.populated || y.2.2.saved.groups.any fun g => g.2.cause.isNone))

/-- A device becomes one that has work at this step: its pass rises to the least pass of the other active devices of the partition
that already have work (R411). `old` is the state before. -/
def State.noteWork (s old : State) (vd : Nat) : State :=
  if old.hasWork vd || !s.hasWork vd then s
  else
    let others := s.devices.filter fun x => x.1 != vd && x.2.part == (s.device vd).part && x.2.state == .active && s.hasWork x.1
    match others.map fun x => x.2.pass with
    | [] => s
    | p :: ps => s.withDevice vd fun d => { d with pass := max d.pass (ps.foldl min p) }

/-! ## Completion records (R211) -/

/-- The completion record of a packet, or what firmware reports where none can be written. -/
def State.writeRecord (s : State) (vd : Nat) (p : Packet) (status detail : Nat) : State :=
  if pkDone p = 0 then s
  else if doneBad p then { s with driver := s.driver ++ [.badDone vd] }
  else
    let t := s.agentWalks none vd (pkDone p) 16
    match s.translateAgent vd .store (pkDone p) 16 with
    | .ok [x] =>
      t.writeMem { vd := vd, carried := none, ver := x.page.ver, die := none, release := none } x.page.tier
        (addressed x.addr (toBytes 4 status ++ toBytes 4 detail ++ toBytes 8 ((s.device vd).window * 2 ^ 16)))
    | _ => { t with driver := t.driver ++ [.lostRecord vd] }

/-- The line of a packet's record, or of the tables that lead to it, is locked, and the write must wait (R78). -/
def State.recordLocked (s : State) (vd : Nat) (p : Packet) : Bool :=
  pkDone p != 0 && !doneBad p && (match s.translateAgent vd .store (pkDone p) 16 with
    | .ok ps => (s.lockedIn ps).isSome
    | .miss _ => true
    | .fault _ _ => false)

/-- What an agent's read of [va, va + n) leaves behind: its walks, and the charge for what HBM gives (R412). -/
def State.agentRead (s : State) (vd va n : Nat) : State :=
  match s.translateAgent vd .load va n with
  | .ok ps => (s.agentWalks none vd va n).chargePieces vd ps
  | _ => s.agentWalks none vd va n

/-! ## Residual objects at acceptance (R178 to R180) -/

/-- How the check of an object ends: its header's address and COUNT, a code of R180, or a locked line to wait for. -/
inductive ObjectCheck where
  | ok (va count : Nat)
  | refused (code : Nat)
  | locked
  deriving DecidableEq, Repr

/-- Pages that a residual object may lie in (R180). -/
def objectPages (t : Translated) : Bool :=
  match t with
  | .ok ps => ps.all fun p => p.page.ver && p.page.tier == .hbm && p.page.w
  | _ => false

/-- The translation waits for a locked line of a table. -/
def Translated.waits : Translated → Bool
  | .miss _ => true
  | _ => false

/-- Codes 3 to 5 of R180 for a header's bytes: its form, its fit to the collective, BUSY. Bits 63:48 of STAMP, which R179 gives as 0, count
among the reserved fields (DESIGN CHOICE, log 76). -/
def headerCode (b : List Byte) (form len rank count : Nat) : Option Nat :=
  let n := field b 0x08 8
  if field b 0 4 ≠ 0x4A565245 ∨ field b 4 2 ≠ 1 ∨ 3 < field b 0x11 1 ∨ (field b 0x10 1 ≠ 1 ∧ field b 0x10 1 ≠ 2) ∨ n = 0 ∨ 2 ^ 40 < n
      ∨ 1 < field b 6 2 ∨ field b 0x12 2 ≠ 0 ∨ field b 0x16 2 ≠ 0 ∨ field b 0x1E 2 ≠ 0 ∨ field b 0x28 216 ≠ 0 then some 3
  else if field b 0x10 1 ≠ form ∨ field b 0x11 1 ≠ len ∨ field b 0x14 2 ≠ rank ∨ n < count then some 4
  else if field b 6 2 = 1 then some 5
  else none

/-- The object that a handle names, checked in the order of R180. -/
def State.checkObject (s : State) (vd handle form len rank count : Nat) : ObjectCheck :=
  let r := (s.device vd).fabric.get 0x28 0
  if r.getLsbD 0 = false ∨ 2 ^ min (bits r 1 4) 12 ≤ handle then .refused 1
  else
    match s.translateAgent vd .load ((r &&& ~~~0xFFF#64).toNat + 16 * handle) 16 with
    | .ok es =>
      let e := s.homeBytes es
      let va := field e 8 8
      if (s.lockedIn es).isSome then .locked
      else if field e 0 8 ≠ 2 ^ 62 ∨ va % 256 ≠ 0 then .refused 1
      else
        let t := s.translateAgent vd .store va 256
        if t.waits then .locked
        else if !objectPages t then .refused 2
        else
          let ps := match t with
            | .ok x => x
            | _ => []
          let b := s.homeBytes ps
          let n := field b 0x08 8
          let stamps := s.translateAgent vd .store ((va + 256) % 2 ^ 64) (4 * n)
          if (s.lockedIn ps).isSome || (decide (1 ≤ n ∧ n ≤ 2 ^ 40) && stamps.waits) then .locked
          else if 1 ≤ n ∧ n ≤ 2 ^ 40 ∧ objectPages stamps = false then .refused 2
          else
            match headerCode b form len rank count with
            | some c => .refused c
            | none => .ok va n
    | .miss _ => .locked
    | .fault _ _ => .refused 1

/-- BUSY set in a header (R180). -/
def State.setBusy1 (s : State) (vd va : Nat) : State :=
  match s.translateAgent vd .store va 256 with
  | .ok [p] =>
    s.writeMem { vd := vd, carried := none, ver := p.page.ver, die := none, release := none } p.page.tier
      (addressed (p.addr + 6) (toBytes 1 (s.readNat p.page.tier (p.addr + 6) 1 / 2 * 2 + 1)))
  | _ => s

/-! ## Collectives (R365 to R368) -/

/-- How the acceptance of a collective ends: a status of R367, the channel and slots it takes, or a locked line to wait for. -/
inductive CollCheck where
  | refused (status : Nat)
  | taken (hinge chan : Nat) (slots : List Nat) (obj : Option (Nat × Nat))
  | locked
  deriving DecidableEq, Repr

/-- Status 1 of R367 for a descriptor's bytes and the launch's level. -/
def descriptorBad (b : List Byte) (level : Nat) : Bool :=
  let c := field b 0x08 8
  let mode := ent c 62 2
  let prog := field b 0 8
  decide (2 ≤ mode) || (mode == 0 && (ent c 60 2 != 0 || ent c 58 2 != 0 || field b 0x10 4 != 0))
    || (mode == 1 && (ent c 58 2 == 0 || ent c 58 2 == 3)) || decide (8 < ent c 51 4) || ent c 48 3 != 0 || ent c 0 16 != 0
    || (decide (31 < ent c 40 8) && ent c 40 8 != 255) || !([2, 3].contains (ent c 32 8)) || decide (level < ent c 32 8)
    || field b 0x14 4 != 0 || !canonical prog || prog % 4 != 0 || field b 0x18 8 == 0 || decide (2 ^ 40 < field b 0x18 8)

/-- The partition owns a port of a hinge processor (R364). -/
def State.hingeAllowed (s : State) (part h : Nat) : Bool := (List.range 4).any fun p => s.portOwned part h p

/-- The lowest free channel of a hinge processor. -/
def State.freeChannel (s : State) (h : Nat) : Option Nat := (s.hinge h).chans.freshFrom 8 0

/-- The free combining slots of the package, lowest first (R368). -/
def State.freeSlotNumbers (s : State) : List Nat := (List.range 64).filter fun i => (s.comb.look i).isNone

/-- The checks of R367 in order. -/
def State.checkCollective (s : State) (vd part : Nat) (p : Packet) : CollCheck :=
  if s.module.svc ≠ 2 then .refused 1
  else
    match s.translateAgent vd .load (pkColl p) 96 with
    | .ok ps =>
      let b := s.homeBytes ps
      let c := field b 0x08 8
      let hs := if ent c 40 8 = 255 then (List.range Config.hinges).filter (s.hingeAllowed part) else [ent c 40 8]
      let spot := (hs.filterMap fun h => (s.freeChannel h).map fun n => (h, n)).head?
      let slots := s.freeSlotNumbers.take (ent c 51 4)
      if (s.lockedIn ps).isSome then .locked
      else if descriptorBad b (pkMajor p) then .refused 1
      else if ent c 40 8 ≠ 255 ∧ s.hingeAllowed part (ent c 40 8) = false then .refused 2
      else
        match spot with
        | none => .refused 3
        | some (h, n) =>
          if slots.length < ent c 51 4 then .refused 4
          else if s.hinges.any fun x => x.2.chans.any fun y => y.2.vd == vd && y.2.comm == ent c 16 16 then .refused 5
          else
            match (s.device vd).job with
            | none => .refused 6
            | some j =>
              if ent c 62 2 = 0 then .taken h n slots none
              else
                match s.checkObject vd (field b 0x10 4) (ent c 58 2) (ent c 60 2) j.rank (field b 0x18 8) with
                | .refused k => .refused (16 + k)
                | .locked => .locked
                | .ok va count => .taken h n slots (some (va, count))
    | .miss _ => .locked
    | .fault _ _ => .refused 1

/-- What the checks of a collective leave behind: its descriptor, the entry of its object's handle and the object's header are read. -/
def State.collReads (s : State) (vd : Nat) (p : Packet) : State :=
  match s.translateAgent vd .load (pkColl p) 96 with
  | .ok ps =>
    let b := s.homeBytes ps
    let s1 := s.agentRead vd (pkColl p) 96
    if ent (field b 0x08 8) 62 2 ≠ 1 then s1
    else
      let table := ((s.device vd).fabric.get 0x28 0 &&& ~~~0xFFF#64).toNat + 16 * field b 0x10 4
      let s2 := s1.agentRead vd table 16
      match s.translateAgent vd .load table 16 with
      | .ok es => s2.agentRead vd (field (s.homeBytes es) 8 8) 256
      | _ => s2
  | _ => s.agentWalks none vd (pkColl p) 96

/-- The channel of an accepted collective, before it starts. -/
def newChannel (vd part launch : Nat) (b : List Byte) (obj : Option (Nat × Nat)) : Channel :=
  let c := field b 0x08 8
  { vd := vd, part := part, launch := launch, comm := ent c 16 16, prio := ent c 55 3, hlev := ent c 32 8, compressed := ent c 62 2 == 1,
    len := ent c 60 2, form := ent c 58 2, nslot := ent c 51 4, obj := obj, prog := BitVec.ofNat 64 (field b 0 8),
    count := field b 0x18 8, args := (List.range 8).map fun i => BitVec.ofNat 64 (field b (0x20 + 8 * i) 8), started := false, pc := 0,
    x := [], blen := 0, bufs := [], port := 4, word := none, wait := none, sends := [], last := 0, passed := 0, atCkpt := false,
    nocredit := [], killed := false, failed := none }

/-- A collective takes its channel, its slots and its object (R367). -/
def State.takeCollective (s : State) (vd part launch : Nat) (p : Packet) (h n : Nat) (slots : List Nat) (obj : Option (Nat × Nat)) :
    State :=
  match s.translateAgent vd .load (pkColl p) 96 with
  | .ok ps =>
    let b := s.homeBytes ps
    let s1 := match obj with
      | some o => s.setBusy1 vd o.1
      | none => s
    let ch := newChannel vd part launch b obj
    let s2 := s1.withHinge h fun x => { x with chans := x.chans.put n ch }
    { s2 with comb := slots.zipIdx.foldl (fun t x => t.put x.1
        { vd := vd, comm := ch.comm, k := x.2, conf := none, staged := [], contribs := [], result := none }) s2.comb }
  | _ => s

/-! ## Acceptance (R212) -/

/-- The packet at the head of a queue: shadow queues 0 to 3 once read, the device-side launch queue as queue 4. -/
def Device.packet (d : Device) (q : Nat) : Option Packet := if q = 4 then d.launchQueue.head? else d.taken.look q

/-- The packet leaves its queue, and the rotation goes on behind it. -/
def Device.popPacket (d : Device) (q : Nat) : Device :=
  let d1 := { d with rotation := (q + 1) % 5, granted := d.granted.filter (· != q) }
  if q = 4 then { d1 with launchQueue := d1.launchQueue.drop 1 }
  else { d1 with taken := d1.taken.del q, queue := d1.queue.put (0x20 * q + 0x10) (BitVec.ofNat 64 ((d1.sqHead q + 1) % 2 ^ 32)) }

/-- Launch-range entries of a partition in use (R214). -/
def State.rangesUsed (s : State) (part : Nat) : Nat :=
  (s.launches.filter fun l => l.2.part == part).foldl (fun n l => n + pkRanges l.2.pkt) 0
    + (s.devices.filter fun d => d.2.part == part).foldl
        (fun n d => n + (d.2.granted.map fun q => ((d.2.packet q).map pkRanges).getD 0).foldl (· + ·) 0) 0

/-- A packet may take its range entries: it needs none, or none waits before it and they suffice (R214). -/
def State.mayTake (s : State) (part vd q : Nat) (p : Packet) : Bool :=
  pkRanges p == 0 || ((s.partition part).waiting.head?.getD (vd, q) == (vd, q) && decide (s.rangesUsed part + pkRanges p ≤ 1024))

/-- A packet is refused: its record is written, and it leaves its queue and waits for no range entries any more (R212, R214). -/
def State.refusePacket (s : State) (vd q : Nat) (p : Packet) (status detail : Nat) : State :=
  ((s.withPartition (s.device vd).part fun x => { x with waiting := x.waiting.filter (· != (vd, q)) }).withDevice vd fun d =>
    d.popPacket q).writeRecord vd p status detail

/-- The launches in flight on which a packet depends (R126, R213). -/
def State.depsOf (s : State) (vd : Nat) (p : Packet) : List Nat :=
  (s.launches.filter fun l => l.2.vd == vd && dependsOn p l.2.pkt).map (·.1)

/-- A packet that has passed every step is accepted with its age (R212). -/
def State.addLaunch (s : State) (vd part q : Nat) (p : Packet) (snap : Option DWord) (coll : Option (Nat × Nat)) : State :=
  let l : Launch := { vd := vd, part := part, pkt := p, age := (s.partition part).accepted, deps := s.depsOf vd p, snap := snap, coll := coll,
                      next := 0, passed := 0, blocked := false, ended := none }
  let s1 := { s with launches := s.launches.put s.nextLaunch l, nextLaunch := s.nextLaunch + 1 }
  (s1.withPartition part fun x => { x with accepted := x.accepted + 1 }).withDevice vd fun d => d.popPacket q

/-- Step 4 of R212, with the snapshot that step 3 has opened. -/
def State.acceptColl (s : State) (vd part q : Nat) (p : Packet) (snap : Option DWord) : Option State :=
  if pkColl p = 0 then some (s.addLaunch vd part q p snap none)
  else
    match s.checkCollective vd part p with
    | .locked => none
    | .refused st => some ((match snap with
        | some z => (s.collReads vd p).releaseKey part z
        | none => s.collReads vd p).refusePacket vd q p 9 st)
    | .taken h n slots obj =>
      some (((s.collReads vd p).takeCollective vd part s.nextLaunch p h n slots obj).addLaunch vd part q p snap (some (h, n)))

/-- Step 3 of R212: the snapshot binding, one hold for the whole launch (R85, R210). None while the queue waits. -/
def State.acceptSnap (s : State) (vd part q : Nat) (p : Packet) : Option State :=
  let n := pkSnap p
  if ent n 63 1 = 0 then s.acceptColl vd part q p none
  else
    let cur := (s.device vd).window
    let m := if ent n 62 1 = 1 then winAdd cur (-2) else keyWindow (ent n 0 48)
    match s.openResult part cur m with
    | .wait _ => none
    | .refused st => some (s.refusePacket vd q p 8 st)
    | .opened e => (s.addHold part e (keyOf m)).acceptColl vd part q p (some (keyRegister e (keyOf m)))

/-- A packet of a queue goes as far as it can: none when nothing of it can happen now. -/
def State.acceptFrom (s : State) (vd q : Nat) : Option State :=
  let d := s.device vd
  match d.packet q with
  | none => none
  | some p =>
    let part := d.part
    match packetStatus p vd ((d.xlate.get 0 0).getLsbD 0) with
    | some (st, dt) => if s.recordLocked vd p then none else some (s.refusePacket vd q p st dt)
    | none =>
      if d.granted.contains q || s.mayTake part vd q p then
        let s1 := s.withPartition part fun x => { x with waiting := x.waiting.filter (· != (vd, q)) }
        match s1.acceptSnap vd part q p with
        | some t => if s.recordLocked vd p then none else some t
        | none =>
          if d.granted.contains q then none
          else some (s1.withDevice vd fun x => { x with granted := x.granted ++ [q], rotation := (q + 1) % 5 })
      else if (s.partition part).waiting.contains (vd, q) then none
      else some (s.withPartition part fun x => { x with waiting := x.waiting ++ [(vd, q)] })

/-- The first queue in the rotation of which a packet can be taken further. -/
def State.acceptNext (s : State) (vd : Nat) : Option State :=
  ((List.range 5).filterMap fun i => s.acceptFrom vd (((s.device vd).rotation + i) % 5)).head?

/-- The request for combining slots that the next acceptance of a device makes: the collective's PRIO, highest first, the partition, the
device (R368). None when it takes no slot. -/
def State.slotBid (s : State) (vd : Nat) : Option (Nat × Nat × Nat) :=
  match s.acceptNext vd with
  | none => none
  | some t =>
    match ((t.launches.look s.nextLaunch).bind fun l => l.coll).bind fun x => t.channel? x.1 x.2 with
    | some ch => if ch.nslot = 0 then none else some (7 - ch.prio, ch.part, vd)
    | none => none

/-- One request comes before another (R368). -/
def bidBefore (a b : Nat × Nat × Nat) : Bool :=
  decide (a.1 < b.1 ∨ (a.1 = b.1 ∧ (a.2.1 < b.2.1 ∨ (a.2.1 = b.2.1 ∧ a.2.2 < b.2.2))))

/-- Another device asks for combining slots now, and comes first (R212, R368): acceptances that can be made at one moment fall in one
core cycle (log 75). -/
def State.outbid (s : State) (vd : Nat) : Bool :=
  match s.slotBid vd with
  | none => false
  | some b => s.devices.any fun d => d.1 != vd && d.2.takes && (match s.slotBid d.1 with
    | some x => bidBefore x b
    | none => false)

/-- ACCEPT_PACKET (R212); the object is the device. -/
def execAcceptPacket (s : State) : Result :=
  let (vd, _, _) := s.object
  if !(s.device vd).takes || s.outbid vd then .next s
  else
    match s.acceptNext vd with
    | some t => .next t
    | none => .next s

/-! ## Shadow queues (R429, R430) -/

/-- 2^LOG of a shadow queue. -/
def Device.sqSlots (d : Device) (q : Nat) : Nat := 2 ^ min (bits (d.queue.get (0x20 * q) 0) 0 4) 12
/-- The partition-relative address of slot 0. -/
def Device.sqBase (d : Device) (q : Nat) : Nat := bits (d.queue.get (0x20 * q) 0) 10 36 * 1024

/-- SHADOW_QUEUE_READ (R430): the slot at HEAD is read once; the object is the device and the queue. -/
def execShadowQueueRead (s : State) : Result :=
  let (vd, q, _) := s.object
  let d := s.device vd
  let base := d.sqBase q
  let a := s.reloc vd .hbm (base + 1024 * (d.sqHead q % d.sqSlots q))
  if d.takes = true ∧ q < 4 ∧ d.sqHead q ≠ d.sqTail q ∧ (d.taken.look q).isNone
      ∧ s.inWindow vd .hbm base (1024 * d.sqSlots q) = true ∧ s.lockedAt .hbm a 1024 = none then
    .next ((s.chargeRead vd a 1024).withDevice vd fun x => { x with taken := x.taken.put q (s.readMem .hbm a 1024) })
  else .next s

/-! ## Retirement (R224, R225) -/

/-- A write-back belongs to no launch. -/
def HomeReq.ofLaunch (r : HomeReq) (l : Nat) : Bool :=
  match r.kind with
  | .writeBack _ _ => false
  | _ => r.launch == l

/-- The collective of a launch has retired, or its channel was stopped with the launch and is only to be ended (R223, R224). -/
def State.collOver (s : State) (x : Launch) : Bool :=
  match x.coll with
  | none => true
  | some (h, n) => match s.channel? h n with
    | some ch => ch.killed && !s.endHeld h n
    | none => true

/-- Everything of a launch is over: its gangs, its collective, its engine operations, and the acceptance of its writes. -/
def State.launchOver (s : State) (l : Nat) (x : Launch) : Bool :=
  !x.unplaced && s.collOver x && !(s.allGangs.any fun y => y.2.2.launch == l) && !(s.ops.any fun o => o.2.launch == l)
    && !(s.requests.any fun r => r.ofLaunch l) && !(s.cores.any fun c => c.2.stores.any fun e => e.launch == l)

/-- The collective of a launch that was ended is ended in its turn, and its object's header is written (R223 step 4, R181). -/
def State.endColl (s : State) (x : Launch) : State :=
  match x.coll with
  | some (h, n) => s.endChannel h n
  | none => s

/-- LAUNCH_RETIRE: a collective that is left ends, the holds and range entries are released, the record is written, and dependants may
become ready. The record of a lost device is not written (R401). The object is the launch. -/
def execLaunchRetire (s : State) : Result :=
  let (l, _, _) := s.object
  match s.launches.look l with
  | none => .next s
  | some x =>
    if !s.launchOver l x || s.recordLocked x.vd x.pkt then .next s
    else
      let s0 := s.endColl x
      let s1 := match x.snap with
        | some z => s0.releaseKey x.part z
        | none => s0
      let s2 := { s1 with launches := (s1.launches.del l).mapAll fun _ y => { y with deps := y.deps.filter (· != l) } }
      .next (if (s.device x.vd).state = .lost then s2
        else match x.ended with
          | some dt => s2.writeRecord x.vd x.pkt 10 dt
          | none => s2.writeRecord x.vd x.pkt 0 0)

/-- LAUNCH_END (R223): firmware ends a launch after an error or a watchdog; the object is the launch. -/
def execLaunchEnd (s : State) : Result :=
  let (l, _, _) := s.object
  match s.launches.look l with
  | some x => if x.ended.isSome then .next s else .next (s.endLaunch l 2)
  | none => .next s

end Sys2Proof.Machine
end

