-- ==== Sys2Proof/Machine/Scalar.lean ====
section
/-! DEFINITION. The scalar class (spec/10, R261 to R270). A scalar instruction is performed once for each issue of its clause. -/

namespace Sys2Proof.Machine

open Sys2Proof

/-- D := f n a b (R262, R264); the illegal-instruction trap when the literal does not exist (R230). -/
def scalarBinaryOp (o : ScalarBinary) (f : Nat → Nat → Nat → Nat) (_ : Ctx) (g : Group) : Group :=
  match g.scalarSrc o.wide o.b with
  | none => g.illegal
  | some b => g.setSval o.wide o.d.toNat (f (widthOf o.wide) (g.sval o.wide o.a.toNat) b)

/-- D := f n a (R264, R266). -/
def scalarUnaryOp (o : ScalarUnary) (f : Nat → Nat → Nat) (_ : Ctx) (g : Group) : Group :=
  g.setSval o.wide o.d.toNat (f (widthOf o.wide) (g.sval o.wide o.a.toNat))

/-- Bit `bit` of `cond` := a cc b (R267). -/
def scalarCompareOp (o : ScalarCompare) (signed : Bool) (_ : Ctx) (g : Group) : Group :=
  match g.scalarSrc o.wide o.b with
  | none => g.illegal
  | some b =>
    let rd (x : Nat) : Int := if signed then Num.sint (widthOf o.wide) x else x
    { g with cond := setCond g.cond o.bit.toNat (icondHolds o.cond (rd (g.sval o.wide o.a.toNat)) (rd b)) }

/-! ## The results of R264 to R266, on n-bit naturals -/

def sAdd (n a b : Nat) : Nat := (a + b) % 2 ^ n
def sSub (n a b : Nat) : Nat := Num.wrap n ((a : Int) - b)
def sMul (n a b : Nat) : Nat := a * b % 2 ^ n
/-- floor(sa × sb ÷ 2^n), as n bits. -/
def sMulhiSigned (n a b : Nat) : Nat := Num.wrap n (Num.sint n a * Num.sint n b / 2 ^ n)
def sMulhiNatural (n a b : Nat) : Nat := a * b / 2 ^ n % 2 ^ n
def sAnd (_ a b : Nat) : Nat := a &&& b
def sOr (_ a b : Nat) : Nat := a ||| b
def sXor (_ a b : Nat) : Nat := a ^^^ b
def sNot (n a : Nat) : Nat := 2 ^ n - 1 - a % 2 ^ n
def sShl (n a b : Nat) : Nat := a * 2 ^ (b % n) % 2 ^ n
def sShrNatural (n a b : Nat) : Nat := a / 2 ^ (b % n)
def sShrSigned (n a b : Nat) : Nat := Num.wrap n (Num.sint n a / 2 ^ (b % n))
def sMinSigned (n a b : Nat) : Nat := if Num.sint n a ≤ Num.sint n b then a else b
def sMaxSigned (n a b : Nat) : Nat := if Num.sint n a ≤ Num.sint n b then b else a
def sMinNatural (_ a b : Nat) : Nat := if a ≤ b then a else b
def sMaxNatural (_ a b : Nat) : Nat := if a ≤ b then b else a
def sLea (n a b : Nat) : Nat := (a + 4 * b) % 2 ^ n

/-- The position p and the effective length k of a bit field (R265). -/
def fieldPos (b : Nat) : Nat := b % 64
def fieldLen (n b : Nat) : Nat := if b % 64 < n then min (b / 64 % 128) (n - b % 64) else 0

def sBfxNatural (n a b : Nat) : Nat := a / 2 ^ fieldPos b % 2 ^ fieldLen n b
def sBfxSigned (n a b : Nat) : Nat :=
  if fieldLen n b = 0 then 0 else Num.wrap n (Num.sint (fieldLen n b) (sBfxNatural n a b))
/-- `sbfi` replaces the field of the old destination d. -/
def sBfi (n d a b : Nat) : Nat :=
  let p := fieldPos b
  let k := fieldLen n b
  d % 2 ^ p + a % 2 ^ k * 2 ^ p + d / 2 ^ (p + k) * 2 ^ (p + k)

/-- The number of 1 bits among the low n bits. -/
def popCount : Nat → Nat → Nat
  | 0, _ => 0
  | n + 1, a => a % 2 + popCount n (a / 2)
def sPopc (n a : Nat) : Nat := popCount n a
/-- 0 bits above the highest 1 bit, or n (R266). -/
def sClz (n a : Nat) : Nat := if a = 0 then n else n - 1 - Nat.log2 a
/-- The index of the lowest 1 bit from bit i on, among n bits; i + n when there is none. -/
def lowestOne : Nat → Nat → Nat → Nat
  | 0, i, _ => i
  | n + 1, i, a => if a % 2 = 1 then i else lowestOne n (i + 1) (a / 2)
def sFfs (n a : Nat) : Nat := lowestOne n 0 a

/-! ## The instructions -/

/-- R264. -/
def execSadd (o : ScalarBinary) (s : State) : Result := onGroup s (scalarBinaryOp o sAdd)

/-- R264. -/
def execSsub (o : ScalarBinary) (s : State) : Result := onGroup s (scalarBinaryOp o sSub)

/-- R264. -/
def execSmul (o : ScalarBinary) (s : State) : Result := onGroup s (scalarBinaryOp o sMul)

/-- R264. -/
def execSmulhiI (o : ScalarBinary) (s : State) : Result := onGroup s (scalarBinaryOp o sMulhiSigned)

/-- R264. -/
def execSmulhiN (o : ScalarBinary) (s : State) : Result := onGroup s (scalarBinaryOp o sMulhiNatural)

/-- R264. -/
def execSand (o : ScalarBinary) (s : State) : Result := onGroup s (scalarBinaryOp o sAnd)

/-- R264. -/
def execSor (o : ScalarBinary) (s : State) : Result := onGroup s (scalarBinaryOp o sOr)

/-- R264. -/
def execSxor (o : ScalarBinary) (s : State) : Result := onGroup s (scalarBinaryOp o sXor)

/-- R264. -/
def execSnot (o : ScalarUnary) (s : State) : Result := onGroup s (scalarUnaryOp o sNot)

/-- R264. -/
def execSshl (o : ScalarBinary) (s : State) : Result := onGroup s (scalarBinaryOp o sShl)

/-- R264. -/
def execSshrN (o : ScalarBinary) (s : State) : Result := onGroup s (scalarBinaryOp o sShrNatural)

/-- R264. -/
def execSshrI (o : ScalarBinary) (s : State) : Result := onGroup s (scalarBinaryOp o sShrSigned)

/-- R264. -/
def execSminI (o : ScalarBinary) (s : State) : Result := onGroup s (scalarBinaryOp o sMinSigned)

/-- R264. -/
def execSminN (o : ScalarBinary) (s : State) : Result := onGroup s (scalarBinaryOp o sMinNatural)

/-- R264. -/
def execSmaxI (o : ScalarBinary) (s : State) : Result := onGroup s (scalarBinaryOp o sMaxSigned)

/-- R264. -/
def execSmaxN (o : ScalarBinary) (s : State) : Result := onGroup s (scalarBinaryOp o sMaxNatural)

/-- R265. -/
def execSbfxN (o : ScalarBinary) (s : State) : Result := onGroup s (scalarBinaryOp o sBfxNatural)

/-- R265. -/
def execSbfxI (o : ScalarBinary) (s : State) : Result := onGroup s (scalarBinaryOp o sBfxSigned)

/-- R265: the old destination is read before it is written. -/
def execSbfi (o : ScalarBinary) (s : State) : Result :=
  onGroup s fun x g => scalarBinaryOp o (fun n a b => sBfi n (g.sval o.wide o.d.toNat) a b) x g

/-- R266. -/
def execSpopc (o : ScalarUnary) (s : State) : Result := onGroup s (scalarUnaryOp o sPopc)

/-- R266. -/
def execSclz (o : ScalarUnary) (s : State) : Result := onGroup s (scalarUnaryOp o sClz)

/-- R266. -/
def execSffs (o : ScalarUnary) (s : State) : Result := onGroup s (scalarUnaryOp o sFfs)

/-- R264: D := b. -/
def execSmov (o : ScalarMove) (s : State) : Result :=
  onGroup s fun _ g =>
    match g.scalarSrc o.wide o.b with
    | none => g.illegal
    | some b => g.setSval o.wide o.d.toNat b

/-- R267, signed. -/
def execScmpI (o : ScalarCompare) (s : State) : Result := onGroup s (scalarCompareOp o true)

/-- R267, natural. -/
def execScmpN (o : ScalarCompare) (s : State) : Result := onGroup s (scalarCompareOp o false)

/-- R264. -/
def execSlea (o : ScalarBinary) (s : State) : Result := onGroup s (scalarBinaryOp o sLea)

/-- R268: the value of `v`V in lane L, whatever the lane's state; a register outside the budget is illegal (R193). -/
def execSfromv (o : ScalarFromLane) (s : State) : Result :=
  onGroup s fun x g =>
    if g.inBudget o.v.toNat (if o.wide then 2 else 1) then
      g.setSval o.wide o.d.toNat (g.velem x.tick o.wide o.v.toNat 0 o.lane.toNat)
    else g.illegal

/-- R269. -/
def execSfromk (o : ScalarFromMask) (s : State) : Result :=
  onGroup s fun _ g => g.setSreg o.d.toNat (g.mask o.k.toNat)

/-- R269: `k`D := ub mod 2^32. -/
def execStok (o : ScalarToMask) (s : State) : Result :=
  onGroup s fun _ g =>
    match g.scalarSrc false o.b with
    | none => g.illegal
    | some b => g.setMask o.k.toNat (BitVec.ofNat 32 b)

/-- The outstanding operations of a counter (R118, R229). -/
def outstanding (l : List Counted) : Nat := l.length

/-- `cnt` (R249). -/
def Group.cntWord (g : Group) : Word :=
  BitVec.ofNat 32 (min (outstanding g.tiles) 255 * 2 ^ 24 + min (outstanding g.copies) 255 * 2 ^ 16
    + min (outstanding g.stores) 255 * 2 ^ 8 + min (outstanding g.loads) 255)

/-- The value of a uniform system register (R248, R249, R270). -/
def Group.sysRead (g : Group) (x : Ctx) (num : Nat) : Nat :=
  match num with
  | 0x00 => g.fmode.toNat
  | 0x01 => g.tsz
  | 0x02 => g.cond.toNat
  | 0x03 => g.txs.toNat
  | 0x04 => g.ginfo.toNat
  | 0x05 => x.window
  | 0x06 => g.cntWord.toNat
  | 0x08 => Config.feat0.toNat
  | 0x09 => Config.feat1.toNat
  | 0x10 => (g.keys.get 0 0).toNat
  | 0x11 => (g.keys.get 1 0).toNat
  | 0x12 => (g.keys.get 2 0).toNat
  | 0x13 => (g.keys.get 3 0).toNat
  | _ => 0

/-- R270: D := the register. -/
def execSsysrd (o : ScalarSystem) (s : State) : Result :=
  onGroup s fun x g => g.setSval o.wide o.r.toNat (g.sysRead x o.num.toNat)

/-- A write of `fmode` (R152), `part` (R189) or `cond` (R249); reserved bits are ignored. -/
def Group.sysWrite (g : Group) (num : Nat) (v : Word) : Group :=
  match num with
  | 0x00 => { g with fmode := v &&& fmodeWritable }
  | 0x01 =>
    let t := v.toNat % 8
    if 1 ≤ t ∧ t ≤ 5 then { g with tsz := t } else g.illegal
  | _ => { g with cond := BitVec.ofNat 8 v.toNat }

/-- R270. -/
def execSsyswr (o : ScalarSystem) (s : State) : Result :=
  onGroup s fun _ g => g.sysWrite o.num.toNat (g.sreg o.r.toNat)

end Sys2Proof.Machine
end

