-- ==== Sys2Proof/Machine/Vector.lean ====
section
/-! DEFINITION. The vector class without the cross-lane instructions (spec/11, R283 to R295). -/

namespace Sys2Proof.Machine

open Sys2Proof

/-- The results of one lane written, or its floating-point trap (R156): a lane with an enabled exception writes nothing and merges
no flag. -/
def laneCommit (x : Ctx) (g0 : Group) (d64 : Bool) (d : Nat) (rs : List (Nat × Num.Exc)) (acc : Group) (l : Nat) : Group :=
  let exc := rs.foldl (fun (e : Num.Exc) r => e ||| r.2) Num.excNone
  if excTraps g0.fmode exc then acc.raiseLane l (.trap .floating (excInfo exc) 0)
  else
    let w := (rs.zipIdx).foldl (fun (a : Group) r => a.setVelem x.tick d64 d r.2 l r.1.1) acc
    { w with fmode := mergeFlags w.fmode exc }

/-- A vector instruction of E elements: f gives the result of an element of a lane from the registers as they stood before (R283,
R285). Masked lanes write zero when ZERO = 1. -/
def vectorRun (x : Ctx) (c : VectorCtl) (E : Nat) (d64 : Bool) (d : Nat) (f : Nat → Nat → Nat × Num.Exc) (g : Group) : Group :=
  let g1 := (lanesOf (g.computing c)).foldl (fun acc l => laneCommit x g d64 d ((List.range E).map (f l)) acc l) g
  g1.zeroSpan x.tick d (if d64 then 2 * E else E) (g.zeroing c)

/-- A one-source instruction. -/
def vectorUnaryOp (o : VectorUnary) (f : Group → Nat → Nat × Num.Exc) (x : Ctx) (g : Group) : Group :=
  let E := elemsOf false o.wid
  if g.inBudget o.d.toNat E && g.inBudget o.a.toNat E then
    vectorRun x o.ctl E false o.d.toNat (fun l e => f g (g.velem x.tick false o.a.toNat e l)) g
  else g.illegal

/-- A two-source instruction on operands of one width. -/
def vectorBinaryOp (is64 : Bool) (o : VectorBinary) (f : Group → Nat → Nat → Nat × Num.Exc) (x : Ctx) (g : Group) : Group :=
  let E := elemsOf is64 o.wid
  let span := operandSpan is64 is64 o.wid
  if g.inBudget o.d.toNat span && g.inBudget o.a.toNat span && g.srcOk is64 span o.b then
    vectorRun x o.ctl E is64 o.d.toNat
      (fun l e => f g (g.velem x.tick is64 o.a.toNat e l) (g.srcElem x.tick is64 e l o.b)) g
  else g.illegal

/-- A three-source instruction. -/
def vectorTernaryOp (o : VectorTernary) (f : Group → Nat → Nat → Nat → Nat × Num.Exc) (x : Ctx) (g : Group) : Group :=
  let E := elemsOf false o.wid
  if g.inBudget o.d.toNat E && g.inBudget o.a.toNat E && g.srcOk false E o.b && g.inBudget o.c.toNat E then
    vectorRun x o.ctl E false o.d.toNat
      (fun l e => f g (g.velem x.tick false o.a.toNat e l) (g.srcElem x.tick false e l o.b)
        (g.velem x.tick false o.c.toNat e l)) g
  else g.illegal

/-- The bits of a mask destination: computing lanes take their test, masked lanes 0 when ZERO = 1, and every other bit stays
(R290). -/
def Group.writeMaskBits (g : Group) (c : VectorCtl) (m : Nat) (t : Nat → Bool) : Group :=
  let m1 := (lanesOf (g.computing c)).foldl (fun acc l => setMaskBit acc l (t l)) (g.mask m)
  g.setMask m (m1 &&& ~~~(g.zeroing c))

/-! ## Floating-point results (R286, R287) -/

/-- FZ applies to every format but `.f16` (R150). -/
def fzFor (f : Num.Fmt) (fz : Bool) : Bool := fz && f.fbits != 10

/-- An operand decoded and flushed. -/
def fpIn (f : Num.Fmt) (fz : Bool) (bits : Nat) : Num.Fp := Num.flushIn (fzFor f fz) f (Num.decode f bits)

/-- The rounding, FlushOut and exceptions of an exact result. -/
def fpOut (f : Num.Fmt) (rm : RoundMode) (fz : Bool) (r : Num.Fp × Bool) : Nat × Num.Exc :=
  let (bits, e) := Num.finish f rm (fzFor f fz) r.1
  (bits, if r.2 then e ||| Num.excInvalid else e)

def fpAdd (f : Num.Fmt) (rm : RoundMode) (fz : Bool) (a b : Nat) : Nat × Num.Exc :=
  fpOut f rm fz (Num.add rm (fpIn f fz a) (fpIn f fz b))
def fpSub (f : Num.Fmt) (rm : RoundMode) (fz : Bool) (a b : Nat) : Nat × Num.Exc :=
  fpOut f rm fz (Num.sub rm (fpIn f fz a) (fpIn f fz b))
def fpMul (f : Num.Fmt) (rm : RoundMode) (fz : Bool) (a b : Nat) : Nat × Num.Exc :=
  fpOut f rm fz (Num.mul (fpIn f fz a) (fpIn f fz b))
def fpFma (f : Num.Fmt) (rm : RoundMode) (fz : Bool) (a b c : Nat) : Nat × Num.Exc :=
  fpOut f rm fz (Num.fma rm (fpIn f fz a) (fpIn f fz b) (fpIn f fz c))
def fpMin (f : Num.Fmt) (_ : RoundMode) (fz : Bool) (a b : Nat) : Nat × Num.Exc :=
  (Num.minMax f false (fpIn f fz a) (fpIn f fz b), Num.excNone)
def fpMax (f : Num.Fmt) (_ : RoundMode) (fz : Bool) (a b : Nat) : Nat × Num.Exc :=
  (Num.minMax f true (fpIn f fz a) (fpIn f fz b), Num.excNone)

/-- A special function of one operand (R288). -/
def fpSpecial (exact : Num.Fp → Num.SpecialRes) (g : Group) (a : Nat) : Nat × Num.Exc :=
  Num.finishSpecial g.flush (exact (fpIn Num.f32 g.flush a))

/-- `fdiv` (R288, R289). -/
def fpDiv (g : Group) (a b : Nat) : Nat × Num.Exc :=
  Num.finishSpecial g.flush (Num.fdivExact (fpIn Num.f32 g.flush a) (fpIn Num.f32 g.flush b))

/-- The class bit of an operand (R291); never flushed. -/
def fpClass (f : Num.Fmt) (a : Nat) : Nat :=
  match Num.decode f a with
  | .nan => 2 ^ 8
  | .inf true => 2 ^ 0
  | .inf false => 2 ^ 7
  | .fin true m e => if m == 0 then 2 ^ 3 else if Num.isSubnormal f (.fin true m e) then 2 ^ 2 else 2 ^ 1
  | .fin false m e => if m == 0 then 2 ^ 4 else if Num.isSubnormal f (.fin false m e) then 2 ^ 5 else 2 ^ 6

/-- Two-source arithmetic of a format, under RM or the prefix override. -/
def fpBinaryOp (f : Num.Fmt) (op : Num.Fmt → RoundMode → Bool → Nat → Nat → Nat × Num.Exc) (o : VectorBinary) :
    Ctx → Group → Group :=
  vectorBinaryOp false o fun g a b => op f (g.roundMode o.ctl) g.flush a b

/-- Fused multiply-add of a format. -/
def fpTernaryOp (f : Num.Fmt) (o : VectorTernary) : Ctx → Group → Group :=
  vectorTernaryOp o fun g a b c => fpFma f (g.roundMode o.ctl) g.flush a b c

/-- `fcmp` (R290): no exception. -/
def fcmpOp (f : Num.Fmt) (o : VectorFCompare) (x : Ctx) (g : Group) : Group :=
  if g.inBudget o.a.toNat 1 && g.srcOk false 1 o.b then
    g.writeMaskBits o.ctl o.m.toNat fun l =>
      fcondHolds o.cond (fpIn f g.flush (g.velem x.tick false o.a.toNat 0 l)) (fpIn f g.flush (g.srcElem x.tick false 0 l o.b))
  else g.illegal

/-- `icmp` (R290), on registers or aligned pairs. -/
def icmpOp (is64 signed : Bool) (o : VectorICompare) (x : Ctx) (g : Group) : Group :=
  let n := if is64 then 2 else 1
  if g.inBudget o.a.toNat n && g.srcOk is64 n o.b then
    let rd (v : Nat) : Int := if signed then Num.sint (if is64 then 64 else 32) v else v
    g.writeMaskBits o.ctl o.m.toNat fun l =>
      icondHolds o.cond (rd (g.velem x.tick is64 o.a.toNat 0 l)) (rd (g.srcElem x.tick is64 0 l o.b))
  else g.illegal

/-! ## Integer results (R293) -/

/-- A result without exceptions. -/
def plain (r : Nat) : Nat × Num.Exc := (r, Num.excNone)

def iAddSatSigned (a b : Nat) : Nat :=
  Num.wrap 32 (Num.clampInt (-(2 ^ 31)) (2 ^ 31 - 1) (Num.sint 32 a + Num.sint 32 b))
def iAddSatNatural (a b : Nat) : Nat := min (a + b) (2 ^ 32 - 1)
def iSubSatSigned (a b : Nat) : Nat :=
  Num.wrap 32 (Num.clampInt (-(2 ^ 31)) (2 ^ 31 - 1) (Num.sint 32 a - Num.sint 32 b))
def iSubSatNatural (a b : Nat) : Nat := a - b
def iMad (a b c : Nat) : Nat := (a * b + c) % 2 ^ 32
/-- Bit i of the result is bit 31 − i of a. -/
def bitReverse : Nat → Nat → Nat
  | 0, _ => 0
  | n + 1, a => a % 2 * 2 ^ n + bitReverse n (a / 2)

/-- A two-source integer instruction. -/
def intBinaryOp (is64 : Bool) (o : VectorBinary) (f : Nat → Nat → Nat) : Ctx → Group → Group :=
  vectorBinaryOp is64 o fun _ a b => plain (f a b)

/-- A one-source integer instruction. -/
def intUnaryOp (o : VectorUnary) (f : Nat → Nat) : Ctx → Group → Group := vectorUnaryOp o fun _ a => plain (f a)

/-! ## The instructions -/

/-- `fadd.f32` (R286). -/
def execFaddF32 (o : VectorBinary) (s : State) : Result := onGroup s (fpBinaryOp Num.f32 fpAdd o)

/-- `fadd.bf16` (R286). -/
def execFaddBf16 (o : VectorBinary) (s : State) : Result := onGroup s (fpBinaryOp Num.bf16 fpAdd o)

/-- `fadd.f16` (R286). -/
def execFaddF16 (o : VectorBinary) (s : State) : Result := onGroup s (fpBinaryOp Num.f16 fpAdd o)

/-- `fsub.f32` (R286). -/
def execFsubF32 (o : VectorBinary) (s : State) : Result := onGroup s (fpBinaryOp Num.f32 fpSub o)

/-- `fsub.bf16` (R286). -/
def execFsubBf16 (o : VectorBinary) (s : State) : Result := onGroup s (fpBinaryOp Num.bf16 fpSub o)

/-- `fsub.f16` (R286). -/
def execFsubF16 (o : VectorBinary) (s : State) : Result := onGroup s (fpBinaryOp Num.f16 fpSub o)

/-- `fmul.f32` (R286). -/
def execFmulF32 (o : VectorBinary) (s : State) : Result := onGroup s (fpBinaryOp Num.f32 fpMul o)

/-- `fmul.bf16` (R286). -/
def execFmulBf16 (o : VectorBinary) (s : State) : Result := onGroup s (fpBinaryOp Num.bf16 fpMul o)

/-- `fmul.f16` (R286). -/
def execFmulF16 (o : VectorBinary) (s : State) : Result := onGroup s (fpBinaryOp Num.f16 fpMul o)

/-- `ffma.f32` (R286). -/
def execFfmaF32 (o : VectorTernary) (s : State) : Result := onGroup s (fpTernaryOp Num.f32 o)

/-- `ffma.bf16` (R286). -/
def execFfmaBf16 (o : VectorTernary) (s : State) : Result := onGroup s (fpTernaryOp Num.bf16 o)

/-- `ffma.f16` (R286). -/
def execFfmaF16 (o : VectorTernary) (s : State) : Result := onGroup s (fpTernaryOp Num.f16 o)

/-- `fmin.f32` (R287). -/
def execFminF32 (o : VectorBinary) (s : State) : Result := onGroup s (fpBinaryOp Num.f32 fpMin o)

/-- `fmin.bf16` (R287). -/
def execFminBf16 (o : VectorBinary) (s : State) : Result := onGroup s (fpBinaryOp Num.bf16 fpMin o)

/-- `fmin.f16` (R287). -/
def execFminF16 (o : VectorBinary) (s : State) : Result := onGroup s (fpBinaryOp Num.f16 fpMin o)

/-- `fmax.f32` (R287). -/
def execFmaxF32 (o : VectorBinary) (s : State) : Result := onGroup s (fpBinaryOp Num.f32 fpMax o)

/-- `fmax.bf16` (R287). -/
def execFmaxBf16 (o : VectorBinary) (s : State) : Result := onGroup s (fpBinaryOp Num.bf16 fpMax o)

/-- `fmax.f16` (R287). -/
def execFmaxF16 (o : VectorBinary) (s : State) : Result := onGroup s (fpBinaryOp Num.f16 fpMax o)

/-- `fdiv.f32` (R288). -/
def execFdiv (o : VectorBinary) (s : State) : Result := onGroup s (vectorBinaryOp false o fpDiv)

/-- `frcp.f32` (R288). -/
def execFrcp (o : VectorUnary) (s : State) : Result := onGroup s (vectorUnaryOp o (fpSpecial Num.frcpExact))

/-- `frsq.f32` (R288). -/
def execFrsq (o : VectorUnary) (s : State) : Result := onGroup s (vectorUnaryOp o (fpSpecial Num.frsqExact))

/-- `fsqrt.f32` (R288). -/
def execFsqrt (o : VectorUnary) (s : State) : Result := onGroup s (vectorUnaryOp o (fpSpecial Num.fsqrtExact))

/-- `fexp2.f32` (R288). -/
def execFexp2 (o : VectorUnary) (s : State) : Result := onGroup s (vectorUnaryOp o (fpSpecial Num.fexp2Exact))

/-- `flog2.f32` (R288). -/
def execFlog2 (o : VectorUnary) (s : State) : Result := onGroup s (vectorUnaryOp o (fpSpecial Num.flog2Exact))

/-- `fsin.f32` (R288). -/
def execFsin (o : VectorUnary) (s : State) : Result := onGroup s (vectorUnaryOp o (fpSpecial Num.fsinExact))

/-- `fcos.f32` (R288). -/
def execFcos (o : VectorUnary) (s : State) : Result := onGroup s (vectorUnaryOp o (fpSpecial Num.fcosExact))

/-- `fcmp.f32` (R290). -/
def execFcmpF32 (o : VectorFCompare) (s : State) : Result := onGroup s (fcmpOp Num.f32 o)

/-- `fcmp.bf16` (R290). -/
def execFcmpBf16 (o : VectorFCompare) (s : State) : Result := onGroup s (fcmpOp Num.bf16 o)

/-- `fcmp.f16` (R290). -/
def execFcmpF16 (o : VectorFCompare) (s : State) : Result := onGroup s (fcmpOp Num.f16 o)

/-- `fclass.f32` (R291). -/
def execFclassF32 (o : VectorUnary) (s : State) : Result := onGroup s (intUnaryOp o (fpClass Num.f32))

/-- `fclass.bf16` (R291). -/
def execFclassBf16 (o : VectorUnary) (s : State) : Result := onGroup s (intUnaryOp o (fpClass Num.bf16))

/-- `fclass.f16` (R291). -/
def execFclassF16 (o : VectorUnary) (s : State) : Result := onGroup s (intUnaryOp o (fpClass Num.f16))

/-- `iadd.b32` (R293). -/
def execIaddB32 (o : VectorBinary) (s : State) : Result := onGroup s (intBinaryOp false o (sAdd 32))

/-- `iadd.b64` (R293). -/
def execIaddB64 (o : VectorBinary) (s : State) : Result := onGroup s (intBinaryOp true o (sAdd 64))

/-- `isub.b32` (R293). -/
def execIsubB32 (o : VectorBinary) (s : State) : Result := onGroup s (intBinaryOp false o (sSub 32))

/-- `isub.b64` (R293). -/
def execIsubB64 (o : VectorBinary) (s : State) : Result := onGroup s (intBinaryOp true o (sSub 64))

/-- `imul.b32` (R293). -/
def execImulB32 (o : VectorBinary) (s : State) : Result := onGroup s (intBinaryOp false o (sMul 32))

/-- `imulhi.i32` (R293). -/
def execImulhiI32 (o : VectorBinary) (s : State) : Result := onGroup s (intBinaryOp false o (sMulhiSigned 32))

/-- `imulhi.n32` (R293). -/
def execImulhiN32 (o : VectorBinary) (s : State) : Result := onGroup s (intBinaryOp false o (sMulhiNatural 32))

/-- `imad.b32` (R293). -/
def execImadB32 (o : VectorTernary) (s : State) : Result := onGroup s (vectorTernaryOp o fun _ a b c => plain (iMad a b c))

/-- `iadds.i32` (R293). -/
def execIaddsI32 (o : VectorBinary) (s : State) : Result := onGroup s (intBinaryOp false o iAddSatSigned)

/-- `iadds.n32` (R293). -/
def execIaddsN32 (o : VectorBinary) (s : State) : Result := onGroup s (intBinaryOp false o iAddSatNatural)

/-- `isubs.i32` (R293). -/
def execIsubsI32 (o : VectorBinary) (s : State) : Result := onGroup s (intBinaryOp false o iSubSatSigned)

/-- `isubs.n32` (R293). -/
def execIsubsN32 (o : VectorBinary) (s : State) : Result := onGroup s (intBinaryOp false o iSubSatNatural)

/-- `imin.i32` (R293). -/
def execIminI32 (o : VectorBinary) (s : State) : Result := onGroup s (intBinaryOp false o (sMinSigned 32))

/-- `imin.n32` (R293). -/
def execIminN32 (o : VectorBinary) (s : State) : Result := onGroup s (intBinaryOp false o (sMinNatural 32))

/-- `imax.i32` (R293). -/
def execImaxI32 (o : VectorBinary) (s : State) : Result := onGroup s (intBinaryOp false o (sMaxSigned 32))

/-- `imax.n32` (R293). -/
def execImaxN32 (o : VectorBinary) (s : State) : Result := onGroup s (intBinaryOp false o (sMaxNatural 32))

/-- `and.b32` (R293). -/
def execAndB32 (o : VectorBinary) (s : State) : Result := onGroup s (intBinaryOp false o (sAnd 32))

/-- `or.b32` (R293). -/
def execOrB32 (o : VectorBinary) (s : State) : Result := onGroup s (intBinaryOp false o (sOr 32))

/-- `xor.b32` (R293). -/
def execXorB32 (o : VectorBinary) (s : State) : Result := onGroup s (intBinaryOp false o (sXor 32))

/-- `not.b32` (R293). -/
def execNotB32 (o : VectorUnary) (s : State) : Result := onGroup s (intUnaryOp o (sNot 32))

/-- `shl.b32` (R293). -/
def execShlB32 (o : VectorBinary) (s : State) : Result := onGroup s (intBinaryOp false o (sShl 32))

/-- `shr.n32` (R293). -/
def execShrN32 (o : VectorBinary) (s : State) : Result := onGroup s (intBinaryOp false o (sShrNatural 32))

/-- `shr.i32` (R293). -/
def execShrI32 (o : VectorBinary) (s : State) : Result := onGroup s (intBinaryOp false o (sShrSigned 32))

/-- `icmp.i32` (R290). -/
def execIcmpI32 (o : VectorICompare) (s : State) : Result := onGroup s (icmpOp false true o)

/-- `icmp.n32` (R290). -/
def execIcmpN32 (o : VectorICompare) (s : State) : Result := onGroup s (icmpOp false false o)

/-- `icmp.i64` (R290). -/
def execIcmpI64 (o : VectorICompare) (s : State) : Result := onGroup s (icmpOp true true o)

/-- `icmp.n64` (R290). -/
def execIcmpN64 (o : VectorICompare) (s : State) : Result := onGroup s (icmpOp true false o)

/-- `popc.b32` (R293). -/
def execPopcB32 (o : VectorUnary) (s : State) : Result := onGroup s (intUnaryOp o (sPopc 32))

/-- `clz.b32` (R293). -/
def execClzB32 (o : VectorUnary) (s : State) : Result := onGroup s (intUnaryOp o (sClz 32))

/-- `brev.b32` (R293). -/
def execBrevB32 (o : VectorUnary) (s : State) : Result := onGroup s (intUnaryOp o (bitReverse 32))

/-- `cvt` (R292): rounding by the prefix override, else NE; never a flush. -/
def execCvt (o : VectorConvert) (s : State) : Result :=
  onGroup s fun x g =>
    let any := o.dt.is64 || o.st.is64
    let E := elemsOf any o.wid
    if g.inBudget o.d.toNat (operandSpan any o.dt.is64 o.wid) && g.inBudget o.a.toNat (operandSpan any o.st.is64 o.wid) then
      vectorRun x o.ctl E o.dt.is64 o.d.toNat
        (fun l e => Num.convert o.dt o.st (o.ctl.rnd.getD .ne) (g.velem x.tick o.st.is64 o.a.toNat e l)) g
    else g.illegal

/-- `mov.b32` (R294): the second source, read through its pattern; bits never change. -/
def execMovB32 (o : VectorMove) (s : State) : Result :=
  onGroup s fun x g =>
    let E := elemsOf false o.wid
    if g.inBudget o.d.toNat E && g.srcOk false E o.b then
      vectorRun x o.ctl E false o.d.toNat (fun l e => plain (g.srcElem x.tick false e l o.b)) g
    else g.illegal

/-- The value of a per-lane register: `pcv` is the address of the clause, which is the lane's entry until completion (R295); the
trap registers are those of R387. -/
def Group.laneReg (g : Group) (num l : Nat) : DWord :=
  match num with
  | 0x40 => g.clause.addr
  | 0x41 => (g.lane l).wid
  | 0x48 => (g.lane l).tcause
  | 0x49 => (g.lane l).taddr
  | _ => (g.lane l).tepc

/-- The active lanes are in trap mode; an active set is wholly in one mode (R196). -/
def Group.inTrapMode (g : Group) : Bool := (lanesOf g.clause.active).any fun l => (g.lane l).trap

/-- `vsysrd` (R295); a trap register is illegal in normal mode (R387). -/
def execVsysrd (o : VectorSystem) (s : State) : Result :=
  onGroup s fun x g =>
    if g.inBudget o.d.toNat 2 && (decide (o.num.toNat < 0x48) || g.inTrapMode) then
      vectorRun x o.ctl 1 true o.d.toNat (fun l _ => plain (g.laneReg o.num.toNat l).toNat) g
    else g.illegal

end Sys2Proof.Machine
end

