-- ==== Sys2Proof/Machine/Cross.lean ====
section
/-! DEFINITION. The cross-lane instructions (spec/11, R296 to R301): shuffles, votes, ballots, reductions and scans within tiles. -/

namespace Sys2Proof.Machine

open Sys2Proof

/-- The lanes of lane l's tile. -/
def tileOf (T l : Nat) : List Nat := (List.range T).map fun i => l - l % T + i

/-- The participating lanes of l's tile, ascending (R283). -/
def partOf (g : Group) (c : VectorCtl) (l : Nat) : List Nat :=
  (tileOf g.tile l).filter fun j => (g.computing c).getLsbD j

/-- `shfl.b32` (R296): the source lane is read whatever its state. -/
def execShflB32 (o : VectorShuffle) (s : State) : Result :=
  onGroup s fun x g =>
    if g.inBudget o.d.toNat 1 && g.inBudget o.a.toNat 1 && g.srcOk false 1 o.b then
      vectorRun x o.ctl 1 false o.d.toNat
        (fun l _ => plain (g.velem x.tick false o.a.toNat 0
          (l - l % g.tile + g.srcElem x.tick false 0 l o.b % g.tile))) g
    else g.illegal

/-- `vany` (R297). -/
def execVany (o : VectorVote) (s : State) : Result :=
  onGroup s fun _ g =>
    g.writeMaskBits o.ctl o.m.toNat fun l => (partOf g o.ctl l).any fun j => (g.mask o.k.toNat).getLsbD j

/-- `vall` (R297). -/
def execVall (o : VectorVote) (s : State) : Result :=
  onGroup s fun _ g =>
    g.writeMaskBits o.ctl o.m.toNat fun l => (partOf g o.ctl l).all fun j => (g.mask o.k.toNat).getLsbD j

/-- A cross-lane instruction with one source and one destination register. -/
def crossOp (o : VectorCross) (f : Ctx → Group → Group) (x : Ctx) (g : Group) : Group :=
  if g.inBudget o.d.toNat 1 && g.inBudget o.a.toNat 1 then f x g else g.illegal

/-- `ballot.b32` (R298). -/
def execBallotB32 (o : VectorCross) (s : State) : Result :=
  onGroup s (crossOp o fun x g =>
    vectorRun x o.ctl 1 false o.d.toNat
      (fun l _ => plain (((partOf g o.ctl l).filter fun j => g.velem x.tick false o.a.toNat 0 j != 0).foldl
        (fun acc j => acc + 2 ^ j) 0)) g)

/-- One step of a fold (R299), with the exceptions it raises. -/
abbrev FoldStep := Group → Nat → Nat → Nat × Num.Exc

/-- The running values of a fold over operands, in order, and the union of the exceptions. -/
def foldValues (step : Nat → Nat → Nat × Num.Exc) : Nat → List Nat → List Nat × Num.Exc
  | acc, [] => ([acc], Num.excNone)
  | acc, v :: vs =>
    let (r, e) := step acc v
    let (rest, e2) := foldValues step r vs
    (acc :: rest, e ||| e2)

/-- What each participating lane of a fold receives (R299, R300). -/
inductive FoldKind where
  | reduce | scan | xscan
  deriving DecidableEq, Repr

/-- The value of the i-th participating lane. -/
def foldPick (k : FoldKind) (incs : List Nat) (i : Nat) : Nat :=
  match k with
  | .reduce => incs.getLastD 0
  | .scan => incs.getD i 0
  | .xscan => if i = 0 then 0 else incs.getD (i - 1) 0

/-- A reduction or a scan (R299 to R301). `init` prepares the first operand (FlushIn). Every participating lane of a tile raises the
union of the exceptions of its tile. -/
def foldOp (o : VectorCross) (k : FoldKind) (init : Group → Nat → Nat) (step : FoldStep) : Ctx → Group → Group :=
  crossOp o fun x g =>
    vectorRun x o.ctl 1 false o.d.toNat
      (fun l _ =>
        let ps := partOf g o.ctl l
        match ps.map (g.velem x.tick false o.a.toNat 0) with
        | [] => plain 0
        | v :: vs =>
          let (incs, e) := foldValues (step g) (init g v) vs
          (foldPick k incs (ps.idxOf l), e)) g

/-- An integer step. -/
def intStep (f : Nat → Nat → Nat) : FoldStep := fun _ a b => plain (f a b)

/-- The first operand of an integer fold. -/
def intInit (_ : Group) (v : Nat) : Nat := v

/-- The first operand of an FP32 fold: FlushIn of it (R299); the result of the operation carries no sign or payload of a NaN (R145,
log 21). -/
def fpInit (g : Group) (v : Nat) : Nat := Num.encode Num.f32 (fpIn Num.f32 g.flush v)

/-- `add.f32`: FlushOut(Round(acc + FlushIn(x))). The accumulator is a result and is not flushed again (R299). -/
def addStep (c : VectorCtl) : FoldStep := fun g acc v =>
  fpOut Num.f32 (g.roundMode c) g.flush
    (Num.add (g.roundMode c) (Num.decode Num.f32 acc) (fpIn Num.f32 g.flush v))

def minStep : FoldStep := fun g acc v => (Num.minMax Num.f32 false (fpIn Num.f32 g.flush acc) (fpIn Num.f32 g.flush v), Num.excNone)
def maxStep : FoldStep := fun g acc v => (Num.minMax Num.f32 true (fpIn Num.f32 g.flush acc) (fpIn Num.f32 g.flush v), Num.excNone)

/-- `redadd.i32` (R299). -/
def execRedaddI32 (o : VectorCross) (s : State) : Result := onGroup s (foldOp o .reduce intInit (intStep (sAdd 32)))

/-- `redadd.f32` (R299). -/
def execRedaddF32 (o : VectorCross) (s : State) : Result := onGroup s (foldOp o .reduce fpInit (addStep o.ctl))

/-- `redmin.i32` (R299). -/
def execRedminI32 (o : VectorCross) (s : State) : Result := onGroup s (foldOp o .reduce intInit (intStep (sMinSigned 32)))

/-- `redmin.n32` (R299). -/
def execRedminN32 (o : VectorCross) (s : State) : Result := onGroup s (foldOp o .reduce intInit (intStep (sMinNatural 32)))

/-- `redmin.f32` (R299). -/
def execRedminF32 (o : VectorCross) (s : State) : Result := onGroup s (foldOp o .reduce fpInit minStep)

/-- `redmax.i32` (R299). -/
def execRedmaxI32 (o : VectorCross) (s : State) : Result := onGroup s (foldOp o .reduce intInit (intStep (sMaxSigned 32)))

/-- `redmax.n32` (R299). -/
def execRedmaxN32 (o : VectorCross) (s : State) : Result := onGroup s (foldOp o .reduce intInit (intStep (sMaxNatural 32)))

/-- `redmax.f32` (R299). -/
def execRedmaxF32 (o : VectorCross) (s : State) : Result := onGroup s (foldOp o .reduce fpInit maxStep)

/-- `redand.b32` (R299). -/
def execRedandB32 (o : VectorCross) (s : State) : Result := onGroup s (foldOp o .reduce intInit (intStep (sAnd 32)))

/-- `redor.b32` (R299). -/
def execRedorB32 (o : VectorCross) (s : State) : Result := onGroup s (foldOp o .reduce intInit (intStep (sOr 32)))

/-- `redxor.b32` (R299). -/
def execRedxorB32 (o : VectorCross) (s : State) : Result := onGroup s (foldOp o .reduce intInit (intStep (sXor 32)))

/-- `scanadd.i32` (R300). -/
def execScanaddI32 (o : VectorCross) (s : State) : Result := onGroup s (foldOp o .scan intInit (intStep (sAdd 32)))

/-- `scanadd.f32` (R300). -/
def execScanaddF32 (o : VectorCross) (s : State) : Result := onGroup s (foldOp o .scan fpInit (addStep o.ctl))

/-- `xscanadd.i32` (R300). -/
def execXscanaddI32 (o : VectorCross) (s : State) : Result := onGroup s (foldOp o .xscan intInit (intStep (sAdd 32)))

/-- `xscanadd.f32` (R300). -/
def execXscanaddF32 (o : VectorCross) (s : State) : Result := onGroup s (foldOp o .xscan fpInit (addStep o.ctl))

/-- `scanmax.f32` (R300). -/
def execScanmaxF32 (o : VectorCross) (s : State) : Result := onGroup s (foldOp o .scan fpInit maxStep)

/-- `scanmin.f32` (R300). -/
def execScanminF32 (o : VectorCross) (s : State) : Result := onGroup s (foldOp o .scan fpInit minStep)

end Sys2Proof.Machine
end

