-- ==== Sys2Proof/Machine/Place.lean ====
section
/-! DEFINITION. Gangs on cores (spec/08, R215 to R218; spec/15, R397 to R400; spec/16, R411): which units a gang needs and which are free,
placement, the claiming, spilling and reloading of units, the halt and the resumption of a virtual device, slices. -/

namespace Sys2Proof.Machine

open Sys2Proof

/-! ## Work of a slice (R411) -/

/-- A device that may be given a slice: active, not being moved away, with work. -/
def State.wantsSlice (s : State) (vd : Nat) : Bool :=
  (s.device vd).state == .active && !(s.device vd).moving && s.hasWork vd

/-- W of R411: the devices of a partition with work and a weight. -/
def State.weighted (s : State) (part : Nat) : List (Nat × Device) :=
  s.devices.filter fun d => d.2.part == part && d.2.weight != 0 && s.wantsSlice d.1

/-- The devices with work and WEIGHT 0. -/
def State.weightless (s : State) (part : Nat) : List (Nat × Device) :=
  s.devices.filter fun d => d.2.part == part && d.2.weight == 0 && s.wantsSlice d.1

/-- The least pass, the lower number on a tie; devices are listed in ascending number. -/
def leastPass : List (Nat × Device) → Option (Nat × Device)
  | [] => none
  | d :: rest =>
    match leastPass rest with
    | none => some d
    | some e => if e.2.pass < d.2.pass then some e else some d

/-- The device chosen at a slice boundary (R411). -/
def State.chooseDevice (s : State) (part : Nat) : Option Nat :=
  match leastPass (s.weighted part) with
  | some d => some d.1
  | none =>
    let zs := (s.weightless part).map (·.1)
    let last := (s.partition part).lastZero
    match zs.find? fun v => decide (last < v) with
    | some v => some v
    | none => zs.head?

/-- `VQUANT` as it applies in the present slice, in nanoseconds (R405). -/
def Device.quantum (d : Device) : Nat := 1000 * bits (d.live.get 8 0) 0 32

/-- The slice of the running device is over (R411). -/
def State.sliceOver (s : State) (part v : Nat) : Bool :=
  let d := s.device v
  decide (d.quantum ≤ s.ptp - (s.partition part).sliceAt) || !s.wantsSlice v || (d.weight == 0 && !(s.weighted part).isEmpty)

/-- The device is the running one of its partition, and is not stopped for its migration (R411, R422). -/
def State.runs (s : State) (vd : Nat) : Bool :=
  (s.partition (s.device vd).part).running == some vd && !(s.device vd).moving

/-! ## Units (R217, R398) -/

/-- Register rows of a gang's groups: one for each vector register (R192, R398). -/
def pkRegs (p : Packet) (gidx : List Nat) : Nat := (gidx.map (pkBudget p)).foldl (· + ·) 0

/-- The used rings of a packet. -/
def usedRings (p : Packet) : List Nat := (List.range 16).filter fun i => ringSlots (pkRing p i) != 0

/-- The packet of a gang's launch. -/
def State.packetOf (s : State) (y : Gang) : Packet :=
  match s.launches.look y.launch with
  | some l => l.pkt
  | none => []

/-- The units of a gang, by class, in ascending order. -/
def State.unitsOf (s : State) (y : Gang) : List GangUnit :=
  let p := s.packetOf y
  ((liveGroups p y.number).zip y.slots).flatMap (fun x => (List.range (pkBudget p x.1)).map fun v => .reg x.2 v)
    ++ (List.range y.rows).map (fun i => .row (y.base + i)) ++ y.tiles.map .tile ++ y.panels.map .panel ++ y.slots.map .slot
    ++ [.record] ++ (if y.rings.isEmpty then [] else [.rings])

/-- The device of a gang. -/
def State.gangVd (s : State) (y : Gang) : Nat :=
  match s.launches.look y.launch with
  | some l => l.vd
  | none => 0

/-- A gang holds units that a gang of another device may claim: those of halted groups of a device that is not running (R398). -/
def State.claimable (s : State) (c n : Nat) (y : Gang) : Bool :=
  y.populated && !s.runs (s.gangVd y) && !(s.gangGroups c n).isEmpty

/-- The gangs of a core whose units count as used for R217: spilled or not, those of the running device and those that cannot be
claimed. A gang whose units are not yet its own does not, while its device is not running. -/
def State.occupants (s : State) (c : Nat) : List (Nat × Gang) :=
  (s.core c).gangs.filter fun z => s.runs (s.gangVd z.2) || (z.2.populated && !s.claimable c z.1 z.2)

/-- The units of a claimable gang that are in place and not claimed. -/
def State.inPlace (s : State) (c n : Nat) (y : Gang) : List GangUnit :=
  let claimed := ((s.core c).gangs.flatMap fun z => z.2.claims.filter fun x => x.1 == n).map (·.2)
  (s.unitsOf y).filter fun u => !y.spilled.contains u && !claimed.contains u

def isReg : GangUnit → Bool
  | .reg _ _ => true
  | _ => false

/-- A unit lies where a gang's own units are to be. -/
def Gang.wants (y : Gang) : GangUnit → Bool
  | .row r => decide (y.base ≤ r ∧ r < y.base + y.rows)
  | .tile t => y.tiles.contains t
  | .panel p => y.panels.contains p
  | .slot k => y.slots.contains k
  | _ => false

/-- The units that a gang claims of others (R398): those in its places, and as many register rows and records as the core is short of. -/
def State.claimsFor (s : State) (c n : Nat) : List (Nat × GangUnit) :=
  match s.gang? c n with
  | none => []
  | some y =>
    let used := s.occupants c
    let others := ((s.core c).gangs.filter fun z => s.claimable c z.1 z.2).flatMap fun z => (s.inPlace c z.1 z.2).map fun u => (z.1, u)
    let short (need have_ limit : Nat) : Nat := need + have_ - limit
    let regs := others.filter fun u => isReg u.2
    let records := others.filter fun u => u.2 == .record
    let ringSets := others.filter fun u => u.2 == .rings
    let ringsIn (u : Nat × GangUnit) : Nat := match s.gang? c u.1 with
      | some z => z.rings.length
      | none => 0
    let needRegs := used.foldl (fun a z => a + z.2.regs) 0
    let needRings := used.foldl (fun a z => a + z.2.rings.length) 0
    let haveRings := ringSets.foldl (fun a u => a + ringsIn u) 0
    let takeRings := (ringSets.foldl (fun (a : Nat × List (Nat × GangUnit)) u =>
      if a.1 = 0 then a else (a.1 - ringsIn u, a.2 ++ [u])) (short needRings haveRings 256, [])).2
    others.filter (fun u => y.wants u.2) ++ regs.take (short needRegs regs.length 8192)
      ++ records.take (short used.length records.length 64) ++ takeRings

/-! ## Fit (R217) -/

/-- The lowest base row at which some rows fit among those in use. -/
def freeBase (used : List (Nat × Nat)) (rows : Nat) : Option Nat :=
  ((0 :: used.map fun u => u.1 + u.2).mergeSort (· ≤ ·)).find? fun b =>
    decide (b + rows ≤ 8192) && used.all fun u => rows == 0 || u.2 == 0 || decide (b + rows ≤ u.1 ∨ u.1 + u.2 ≤ b)

/-- Numbers below a limit that are not in use, lowest first. -/
def freeNumbers (limit : Nat) (used : List Nat) : List Nat := (List.range limit).filter fun i => !used.contains i

/-- Where a gang of a launch would stand on a core: base row, panels, tiles, group slots. -/
structure Spot where
  base : Nat
  panels : List Nat
  tiles : List Nat
  slots : List Nat
  deriving DecidableEq, Repr

/-- The place of gang m of a packet on a core, when it fits (R217, R218). -/
def State.spot (s : State) (c : Nat) (p : Packet) (m : Nat) : Option Spot :=
  let used := (s.occupants c).map (·.2)
  let slots := freeNumbers Config.groupSlots (used.flatMap (·.slots))
  let panels := freeNumbers 8 (used.flatMap (·.panels))
  let tiles := freeNumbers 48 (used.flatMap (·.tiles))
  if 8192 < used.foldl (fun a y => a + y.regs) 0 + pkRegs p (List.range (pkGroups p)) ∨ slots.length < pkGroups p
      ∨ panels.length < pkPanels p ∨ tiles.length < pkTiles p ∨ 64 ≤ used.length
      ∨ 256 < used.foldl (fun a y => a + y.rings.length) 0 + (usedRings p).length then none
  else (freeBase (used.map fun y => (y.base, y.rows)) (pkRows p)).map fun b =>
    { base := b, panels := panels.take (pkPanels p), tiles := tiles.take (pkTiles p), slots := slots.take (liveGroups p m).length }

/-- The groups of the running device on a core. -/
def State.groupsOn (s : State) (c : Nat) : Nat :=
  (s.occupants c).foldl (fun a z => a + (if z.2.populated then (s.gangGroups c z.1).length else z.2.slots.length)) 0

/-- The core of a single gang: the fitting one with the fewest groups, then the lowest (R218). -/
def State.coreFor (s : State) (part : Nat) (p : Packet) (m : Nat) : Option (Nat × Spot) :=
  (s.coresOf part).foldl (fun best c =>
    match s.spot c p m with
    | none => best
    | some x =>
      match best with
      | none => some (c, x)
      | some b => if s.groupsOn c < s.groupsOn b.1 then some (c, x) else best) none

/-- The cores of a cluster set: the lowest cluster in which it fits, ascending cores for ascending gangs (R187, R218). -/
def State.clusterFor (s : State) (part : Nat) (p : Packet) (gangs : List Nat) : Option (List (Nat × Nat × Spot)) :=
  let cores := s.coresOf part
  let clusters := (cores.map clusterOf).eraseDups
  (clusters.filterMap fun k =>
    let fitting := (cores.filter fun c => clusterOf c == k).filter fun c => (s.spot c p (gangs.headD 0)).isSome
    let pairs := (fitting.zip gangs).filterMap fun x => (s.spot x.1 p x.2).map fun t => (x.1, x.2, t)
    if pairs.length = gangs.length then some pairs else none).head?

/-- Where the next gang or cluster set of a launch goes: the cores with the gang numbers. -/
def State.placesFor (s : State) (l : Launch) : Option (List (Nat × Nat × Spot)) :=
  match Sys2Proof.Machine.nextGang l.pkt l.next with
  | none => none
  | some m =>
    if pkMark l.pkt 3 = 7 then (s.coreFor l.part l.pkt m).map fun x => [(x.1, m, x.2)]
    else s.clusterFor l.part l.pkt (setGangs l.pkt m)

/-! ## Creation of a gang -/

/-- A ring after its reset (R44). -/
def ringReset (d : Nat) : Ring :=
  { slots := ringSlots d, srows := ringRows d, base := ringBase d, p := 0, c := 0, e := ringSlots d, f := 0, lap := 0, recs := [],
    waiters := [], deferred := [] }

/-- A lane at its creation (R185, R195). -/
def newLane (p : Packet) (wid : Nat) (entry : Nat) : Lane :=
  if liveId p wid then
    { Lane.exited (BitVec.ofNat 64 wid) with state := .eligible, bankState := .eligible, pc := BitVec.ofNat 64 (pkCode p + entry) }
  else Lane.exited (BitVec.ofNat 64 wid)

/-- A group at its creation (R188, R192 to R195, R85): every register 0 (log 4). -/
def newGroup (launch gang number gidx : Nat) (p : Packet) (snap : Option DWord) : Group :=
  { launch := launch, gang := gang, ginfo := ginfoWord p gidx, budget := pkBudget p gidx, sregs := [], masks := [], cond := 0, fmode := 0,
    tsz := 3 + pkWW p, vregs := [], keys := (match snap with
      | some z => [(0, z)]
      | none => []), bound := snap.isSome, txs := 0, tx := none,
    lanes := (List.range 32).map fun l => (l, newLane p (workId p number gidx l) (roleEntry (pkRole p (roleOf p gidx).1))),
    normal := Bank.empty, trapBank := Bank.empty, phase := .resident, wait := none, loads := [], stores := [], copies := [], tiles := [],
    fenced := 0, asked := [], pend := [], remote := none, cause := none, entries := [], resumed := false, watchdog := 0, passed := 0,
    starved := false, seq := 0, walked := [], stage := 0, object := none, copied := [], clause := Clause.idle }

/-- The units of a gang cleared (R42): its rows hold 0, its panels and tiles are clear. -/
def Core.clearUnits (x : Core) (y : Gang) : Core :=
  { x with scratch := x.scratch.filter fun b => !decide (148 * y.base ≤ b.1 ∧ b.1 < 148 * (y.base + y.rows)),
           panels := x.panels.filter fun t => !y.panels.contains t.1, tiles := x.tiles.filter fun t => !y.tiles.contains t.1 }

/-- The issue slot of a group slot (R219). -/
def issueSlotOf (k : Nat) : Nat := k % Config.issueSlots

/-- A group joins the back of its issue slot's order (R219). -/
def Core.join (x : Core) (k : Nat) : Core := { x with order := x.order.update (issueSlotOf k) [] fun l => l ++ [k] }

/-- A gang whose claimed units have all been spilled gets its units: they are cleared, and its groups are created (R42, R218, R398). Their
`z0` share the hold of the launch (R85). The start is an acquire at device scope, which leaves nothing in the core's L1 (R53, R109,
R126). -/
def State.populate (s : State) (c n : Nat) : State :=
  match s.gang? c n with
  | none => s
  | some y =>
    match s.launches.look y.launch with
    | none => s
    | some l =>
      let made := (liveGroups l.pkt y.number).zip y.slots
      let s1 := s.withCore c fun x => made.foldl (fun a m =>
        ({ a with groups := a.groups.put m.2 (newGroup y.launch n y.number m.1 l.pkt l.snap) }).join m.2) (x.clearUnits y).l1Clear
      s1.withGang c n fun z => { z with populated := true }

/-- A gang on a core, before its units are its own. -/
def newGang (launch number set : Nat) (p : Packet) (x : Spot) : Gang :=
  { launch := launch, number := number, set := set, base := x.base, rows := pkRows p, panels := x.panels, tiles := x.tiles,
    slots := x.slots, created := (liveGroups p number).length, regs := pkRegs p (liveGroups p number), bars := [],
    rings := (usedRings p).map fun i => (i, ringReset (pkRing p i)), claims := [], populated := false, spilled := [],
    saved := Saved.empty }

/-- A gang placed on a core: it claims what it needs, and gets its units at once when it claims nothing. -/
def State.placeOn (s : State) (launch set : Nat) (p : Packet) (c m : Nat) (x : Spot) : State :=
  let n := s.nextGang
  let s1 := { s with nextGang := n + 1 }.withCore c fun z => { z with gangs := z.gangs.put n (newGang launch m set p x) }
  let s2 := s1.withGang c n fun z => { z with claims := s1.claimsFor c n }
  if ((s2.gang? c n).map fun z => z.claims.isEmpty) = some true then s2.populate c n else s2

/-- A collective starts with the first gang of its launch (R215, R369). -/
def State.startChannel (s : State) (h n : Nat) : State :=
  s.withChannel h n fun ch =>
    if ch.started then ch
    else
      let (rank, size) := match (s.device ch.vd).job with
        | some j => (j.rank, j.last + 1)
        | none => (0, 0)
      { ch with
        started := true, pc := ch.prog, blen := 0, bufs := [], port := 4,
        x := [(0, BitVec.ofNat 64 rank), (1, BitVec.ofNat 64 size), (2, BitVec.ofNat 64 ch.count), (3, BitVec.ofNat 64 h)]
          ++ ch.args.zipIdx.map fun a => (8 + a.2, a.1) }

/-! ## The placer (R216) -/

/-- Earlier in the placer's order. -/
def placesBefore (a b : Nat × Launch) : Bool :=
  let p := pkPrio a.2.pkt
  let q := pkPrio b.2.pkt
  decide (q < p ∨ (p = q ∧ a.2.age ≤ b.2.age))

/-- The ready launches of a partition's running device with a gang to place, in the placer's order. -/
def State.readyLaunches (s : State) (part : Nat) : List (Nat × Launch) :=
  (s.launches.filter fun l => l.2.part == part && s.runs l.2.vd && l.2.deps.isEmpty && l.2.unplaced).mergeSort placesBefore

/-- A launch whose next gang fits nowhere blocks the placer: its count has reached 65,536 (R216). -/
def Launch.blocks (l : Launch) : Bool := l.blocked || decide (65536 ≤ l.passed)

/-- The first launch in order whose next gang fits somewhere; none goes past one that blocks the placer. -/
def State.firstFit (s : State) : List (Nat × Launch) → Option (Nat × Launch × List (Nat × Nat × Spot))
  | [] => none
  | l :: rest =>
    match s.placesFor l.2 with
    | some x => some (l.1, l.2, x)
    | none => if l.2.blocks then none else s.firstFit rest

/-- PLACE_GANG (R215 to R218, R42): the object is the partition. -/
def execPlaceGang (s : State) : Result :=
  let (part, _, _) := s.object
  match s.firstFit (s.readyLaunches part) with
  | none => .next s
  | some (i, l, places) =>
    let set := setOf l.pkt ((places.map fun x => x.2.1).headD 0)
    let s1 := places.foldl (fun a x => a.placeOn i set l.pkt x.1 x.2.1 x.2.2) s
    let last := places.foldl (fun a x => max a x.2.1) 0
    let s2 := s1.withLaunch i fun x => { x with next := last + 1, passed := 0, blocked := false }
    .next (match l.coll with
      | some (h, n) => s2.startChannel h n
      | none => s2)

/-- A launch whose next gang fits nowhere, and past which the placer tries a later one: every launch up to it fits nowhere and does not
block, and one comes after it (R216). -/
def passedIn (s : State) (i : Nat) : List (Nat × Launch) → Bool
  | [] => false
  | l :: rest => (s.placesFor l.2).isNone && !l.2.blocks && (if l.1 = i then !rest.isEmpty else passedIn s i rest)

/-- The placer goes past a launch in this cycle. -/
def State.passedOver (s : State) (i : Nat) : Bool :=
  match s.launches.look i with
  | none => false
  | some l => passedIn s i (s.readyLaunches l.part)

/-- PLACER_BLOCK (R216): 65,536 cycles passed over; the object is the launch. -/
def execPlacerBlock (s : State) : Result :=
  let (i, _, _) := s.object
  match s.launches.look i with
  | some l =>
    if 65536 ≤ l.passed ∧ l.blocked = false ∧ (s.placesFor l).isNone then .next (s.withLaunch i fun x => { x with blocked := true })
    else .next s
  | none => .next s

/-! ## Spilling (R398, R400) -/

/-- An engine operation reads or writes units of a gang: its scratchpad, its panels or tiles, its registers. -/
def EngOp.touches (o : EngOp) (c n : Nat) (y : Gang) : Bool :=
  let scratch (x : Side) : Bool := x.scratch == some (c, n)
  match o.kind with
  | .copy _ src dsts _ => scratch src || dsts.any scratch
  | .mld sc sg _ _ ts _ => (sc == c && sg == n) || ts.any fun t => t.1 == c && y.panels.contains t.2
  | .mul _ _ _ _ _ _ => o.core == c && o.gang == n
  | .zero _ _ => o.core == c && o.gang == n
  | .drain _ _ _ _ => o.core == c && o.gang == n
  | .rowRead _ _ _ _ _ => o.core == c && o.gang == n
  | .rowWrite _ _ _ _ _ => o.core == c && o.gang == n
  | _ => false

/-- Every operation of a gang on its units has completed: its engine operations, and its loads and requests. -/
def State.quietGang (s : State) (c n : Nat) (y : Gang) : Bool :=
  !(s.ops.any fun o => o.2.touches c n y)
    && (s.gangGroups c n).all fun g => g.2.pend.isEmpty && g.2.loads.all (·.done)
        && !(s.requests.any fun r => r.core == c && r.slot == g.1 && r.launch == g.2.launch && (match r.kind with
          | .load _ _ _ => false
          | .own _ _ _ => false
          | .writeBack _ _ => false
          | _ => true))

/-- `SAVEBASE` (R388). -/
def Device.saveBase (d : Device) : Nat := bits (d.trap.get 0x10 0) 21 25 * 2 ^ 21

/-- The place of a core in its partition, in ascending number (R400). -/
def State.coreIndex (s : State) (part c : Nat) : Nat := ((s.coresOf part).takeWhile fun x => x != c).length

/-- The module address of a device's save block for a core (R400). -/
def State.saveBlock (s : State) (vd c : Nat) : Nat :=
  let d := s.device vd
  s.reloc vd .hbm (d.saveBase + 6 * 2 ^ 20 * s.coreIndex d.part c)

/-- The ranges of a save block that hold a unit of a gang, by offset and bytes (R400). What the specification does not lay out, the order
of the register rows and the places in the records region, is the model's (DESIGN CHOICE, log 19). -/
def Gang.saved? (y : Gang) : GangUnit → List (Nat × Nat)
  | .reg k v => [(128 * ((128 * k + v) % 8192), 128)]
  | .row r => [(0x100000 + 148 * r, 148)]
  | .tile t => [(0x228000 + 65536 * t, 65536), (0x5B0000 + 16 * t, 16)]
  | .panel p => [(0x528000 + 36864 * p, 36864)]
  | .slot k => [(0x570000 + 4096 * k, 4096)]
  | .record => [(0x5B0400 + 960 * y.slots.headD 0, 512)]
  | .rings => [(0x5B0600 + 960 * y.slots.headD 0, 448)]

/-- The bytes of a unit in the save area. -/
def Gang.unitBytes (y : Gang) (u : GangUnit) : Nat := ((y.saved? u).map (·.2)).foldl (· + ·) 0

/-- The bytes of a unit written to the save block (R398, R400): their values belong to the device, and are free (log 19). -/
def State.writeSaved (s : State) (vd c : Nat) (y : Gang) (u : GangUnit) : State :=
  (y.saved? u).foldl (fun a x =>
    a.writeMem { vd := vd, carried := none, ver := false, die := none, release := none } .hbm
      ((List.range x.2).map fun i => (s.saveBlock vd c + x.1 + i, Config.saveByte s.tick (s.saveBlock vd c + x.1 + i)))) s

/-- A line of a unit's place in the save block is locked (R78). -/
def State.savedLocked (s : State) (vd c : Nat) (y : Gang) (u : GangUnit) : Bool :=
  (y.saved? u).any fun x => (s.lockedAt .hbm (s.saveBlock vd c + x.1) x.2).isSome

/-- The key of a register of the group in a slot, in the save area. -/
def savedKey (k v l : Nat) : Nat := k * 4096 + vkey v l

/-- The place that a gang's group keeps in its issue order while its slot holds another group. -/
def heldPlace (n k : Nat) : Nat := 64 * (n + 1) + k

/-- A place in an issue order renamed. -/
def Core.rename (x : Core) (k old new : Nat) : Core :=
  { x with order := x.order.change (issueSlotOf k) (List.map fun e => if e == old then new else e) }

/-- A register of the group in a slot moved to the save area. -/
def Core.saveReg (x : Core) (y : Gang) (n k v : Nat) : Core × Gang :=
  let move (g : Group) (sv : Saved) : Group × Saved :=
    ({ g with vregs := g.vregs.filter fun r => r.1 / 32 != v },
     { sv with regs := (g.vregs.filter fun r => r.1 / 32 == v).foldl (fun t r => t.put (savedKey k v (r.1 % 32)) r.2) sv.regs })
  match y.saved.groups.look k with
  | some g =>
    let (h, sv) := move g y.saved
    (x, { y with saved := { sv with groups := sv.groups.put k h } })
  | none =>
    match x.groups.look k with
    | some g =>
      if g.gang = n then
        let (h, sv) := move g y.saved
        ({ x with groups := x.groups.put k h }, { y with saved := sv })
      else (x, y)
    | none => (x, y)

/-- A unit written whole to its owner's save area, and taken from its place (R398). -/
def Core.saveUnit (x : Core) (n : Nat) (y : Gang) (u : GangUnit) : Core × Gang :=
  match u with
  | .reg k v => x.saveReg y n k v
  | .row r =>
    let mine (b : Host.Cell) : Bool := b.1 / 148 == r
    ({ x with scratch := x.scratch.filter fun b => !mine b },
     { y with saved := { y.saved with rows := writeList y.saved.rows (x.scratch.filter mine) } })
  | .tile t =>
    ({ x with tiles := x.tiles.del t }, match x.tiles.look t with
      | some v => { y with saved := { y.saved with tiles := y.saved.tiles.put t v } }
      | none => y)
  | .panel p =>
    ({ x with panels := x.panels.del p }, match x.panels.look p with
      | some v => { y with saved := { y.saved with panels := y.saved.panels.put p v } }
      | none => y)
  | .slot k =>
    (match x.groups.look k with
    | some g =>
      if g.gang = n then
        (({ x with groups := x.groups.del k }).rename k k (heldPlace n k),
         { y with saved := { y.saved with groups := y.saved.groups.put k g } })
      else (x, y)
    | none => (x, y))
  | .record => (x, y)
  | .rings => (x, y)

/-- A unit of a gang spilled: every group of the gang is spilled with it (R398, R206). -/
def State.spillUnit (s : State) (c n : Nat) (u : GangUnit) : State :=
  match s.gang? c n with
  | none => s
  | some y =>
    let (x, z) := (s.core c).saveUnit n y u
    let mark (g : Group) : Group := { g with phase := .spilled }
    let z1 := { z with spilled := z.spilled ++ [u],
                       saved := { z.saved with groups := z.saved.groups.mapAll fun _ g => mark g } }
    let x1 := { x with groups := x.groups.mapAll (fun _ g => if g.gang = n then mark g else g), gangs := x.gangs.put n z1 }
    (s.withCore c fun _ => x1).writeSaved (s.gangVd y) c y u

/-- Two gangs have a row, panel, tile or group slot in common. -/
def Gang.overlaps (y z : Gang) : Bool :=
  (y.rows != 0 && z.rows != 0 && decide (y.base < z.base + z.rows ∧ z.base < y.base + y.rows))
    || y.panels.any z.panels.contains || y.tiles.any z.tiles.contains || y.slots.any z.slots.contains

/-- A place of a gang is held by one that cannot be spilled, whose groups have ended and whose operations are still under way. -/
def State.crowded (s : State) (c n : Nat) (y : Gang) : Bool :=
  (s.core c).gangs.any fun z => z.1 != n && z.2.populated && !s.claimable c z.1 z.2 && z.2.spilled.isEmpty && y.overlaps z.2

/-- A gang that waits for its claims gets its units. -/
def State.claimsDone (s : State) (c n : Nat) : State :=
  match s.gang? c n with
  | some y => if y.claims.isEmpty && !y.populated && !s.crowded c n y then s.populate c n else s
  | none => s

/-- UNIT_SPILL (R398, R400): the first unit that a gang of a running device claims; with none left to claim, the gang gets its units. The
object is the core and the claiming gang. -/
def execUnitSpill (s : State) : Result :=
  let (c, n, _) := s.object
  match s.gang? c n with
  | none => .next s
  | some y =>
    match y.claims with
    | [] => if y.populated || s.crowded c n y || !s.runs (s.gangVd y) then .next s else .next (s.claimsDone c n)
    | (m, u) :: rest =>
      if !s.runs (s.gangVd y) then .next s
      else
        let s1 := s.withGang c n fun z => { z with claims := rest }
        match s.gang? c m with
        | none => .next (s1.claimsDone c n)
        | some z =>
          if s.quietGang c m z && !s.savedLocked (s.gangVd z) c z u then .next ((s1.spillUnit c m u).claimsDone c n) else .next s

/-! ## Reloading and resuming (R399) -/

/-- A group that runs again: its waits are tested again, and lanes whose wards were dropped act as if those had fired (R397). A
replayable one stays replayable (R396, R398). -/
def Group.resume (g : Group) : Group :=
  if g.cause.isSome then { g with phase := .replayable }
  else
    let g1 := g.freeHolds (BitVec.allOnes 32) (· == .fired)
    { g1 with phase := if g1.wait.isSome then .waiting else .resident }

/-- A spilled group with its registers back in place. -/
def restoreRegs (sv : Saved) (k : Nat) (g : Group) : Group :=
  { g with vregs := (sv.regs.filter fun r => r.1 / 4096 == k).foldl (fun t r => t.put (r.1 % 4096) r.2) g.vregs }

/-- Every spilled unit of a gang back in its place (R399). -/
def Core.reload (x : Core) (n : Nat) (y : Gang) : Core :=
  let x1 := y.saved.groups.foldl (fun a g => ({ a with groups := a.groups.put g.1 g.2 }).rename g.1 (heldPlace n g.1) g.1) x
  { x1 with
    groups := x1.groups.mapAll fun k g => if g.gang = n then (restoreRegs y.saved k g).resume else g,
    scratch := writeList (x1.scratch.filter fun b => !y.spilled.contains (.row (b.1 / 148))) y.saved.rows,
    tiles := y.saved.tiles.foldl (fun t v => t.put v.1 v.2) (x1.tiles.filter fun t => !y.spilled.contains (.tile t.1)),
    panels := y.saved.panels.foldl (fun t v => t.put v.1 v.2) (x1.panels.filter fun t => !y.spilled.contains (.panel t.1)),
    gangs := x1.gangs.put n { y with spilled := [], saved := Saved.empty } }

/-- GANG_RELOAD (R399): a spilled gang of the running device, every unit of which is free again; the object is the core and the gang. -/
def execGangReload (s : State) : Result :=
  let (c, n, _) := s.object
  match s.gang? c n with
  | none => .next s
  | some y =>
    if y.spilled.isEmpty ∨ !y.claims.isEmpty ∨ !y.populated ∨ s.runs (s.gangVd y) = false ∨ s.crowded c n y = true
        ∨ (s.core c).gangs.any (fun z => z.2.claims.any fun x => x.1 == n) then .next s
    else
      let bytes := y.spilled.foldl (fun a u => a + y.unitBytes u) 0
      .next ((s.withCore c fun x => x.reload n y).charge (s.gangVd y) bytes)

/-- Gangs of a device that starts to run claim what they lack; nothing is claimed of them any more. -/
def State.reclaim (s : State) (vd : Nat) : State :=
  let mine (y : Gang) : Bool := s.gangVd y == vd
  let s1 := { s with cores := s.cores.mapAll fun c x => { x with gangs := x.gangs.mapAll fun _ y =>
    { y with claims := if s.runs (s.gangVd y) then y.claims.filter (fun u => match s.gang? c u.1 with
        | some z => !mine z
        | none => false) else [] } } }
  (s1.allGangs.filter fun z => mine z.2.2 && (!z.2.2.populated || !z.2.2.spilled.isEmpty)).foldl (fun a z =>
    (a.withGang z.1 z.2.1 fun y => { y with claims := a.claimsFor z.1 z.2.1 }).claimsDone z.1 z.2.1) s1

/-- A device starts to run (R411, R399): the groups of its gangs in place resume at once. -/
def State.resumeDevice (s : State) (vd : Nat) : State :=
  (s.mapGroups fun c _ g => if s.vdOf g = vd ∧ g.phase = .halted ∧ s.spilledGang c g.gang = false then g.resume else g).reclaim vd

/-! ## Halting (R397) -/

/-- The holds of a lane on a ward are dropped, and act as fired when it runs again. -/
def Group.dropWards (g : Group) : Group :=
  let drop (h : Hold) : Hold := match h with
    | .ward _ => .fired
    | x => x
  (List.range 32).foldl (fun a l => a.setLane l { a.lane l with hold := drop (a.lane l).hold, bankHold := drop (a.lane l).bankHold }) g

/-- The ward entries of a group are dropped, and its hasp wait is tested again when it runs (R397). -/
def Group.unwatch (g : Group) : Group :=
  { g.dropWards with wait := match g.wait with
      | some (.hasp a p _) => some (.hasp a p true)
      | w => w }

/-- A resident or waiting group halts: an open transaction is doomed, and its ward entries are dropped. A replayable one, which stays
replayable, loses its ward entries too. -/
def Group.halt (g : Group) : Group :=
  if g.phase = .resident ∨ g.phase = .waiting then { (g.doom 6).unwatch with phase := .halted }
  else if g.phase = .replayable then g.unwatch
  else g

/-- A group is at a clause boundary, or waits. -/
def Group.atBoundary (g : Group) : Bool := !g.clause.live || g.phase != .resident

/-- Every group of a device may be halted now. -/
def State.haltable (s : State) (vd : Nat) : Bool := s.allGroups.all fun g => s.vdOf g.2.2 != vd || g.2.2.atBoundary

/-- The groups of a device halt in place (R397). The commit of a transaction that this dooms fails (R90). -/
def State.haltDevice (s : State) (vd : Nat) : State :=
  let mine := s.allGroups.filter fun g => s.vdOf g.2.2 == vd
  let s1 := mine.foldl (fun a g => (a.dropWaiter (.lanes g.1 g.2.1)).dropWaiter (.group g.1 g.2.1)) s
  let s2 := s1.mapGroups fun _ _ g => if s.vdOf g = vd then g.halt else g
  (mine.filter fun g => g.2.2.wait == some .commit).foldl (fun a g => a.commitInstall g.1 g.2.1) s2

/-! ## Slices (R411) -/

/-- The control registers take effect at a slice boundary (R405). -/
def State.applyControls (s : State) (part : Nat) : State :=
  { s with devices := s.devices.mapAll fun _ d => if d.part = part then { d with live := d.ctl } else d }

/-- The slice of a device is charged to its pass (R411). -/
def Device.endSlice (d : Device) (ns : Nat) : Device :=
  if d.weight = 0 then d else { d with pass := d.pass + 65536 * (ns / 1000) / d.weight }

/-- The next slice of a partition begins with the device chosen; the one that ran halts unless it is chosen again. -/
def State.nextSlice (s : State) (part : Nat) (old : Option Nat) : State :=
  let new := s.chooseDevice part
  let zero := match new with
    | some v => (s.device v).weight == 0
    | none => false
  let start (t : State) : State := t.withPartition part fun p =>
    { p with running := new, sliceAt := s.ptp, lastZero := if zero then new.getD p.lastZero else p.lastZero }
  if new = old then start s
  else
    let s1 := match old with
      | some v => s.haltDevice v
      | none => s
    let s2 := start s1
    match new with
    | some v => s2.resumeDevice v
    | none => s2

/-- QUANTUM_EXPIRY (R411, R397): a slice ends, or a partition that runs no device begins one; the object is the partition. -/
def execQuantumExpiry (s : State) : Result :=
  let (part, _, _) := s.object
  match (s.partition part).running with
  | none => if (s.chooseDevice part).isSome then .next ((s.applyControls part).nextSlice part none) else .next s
  | some v =>
    if s.sliceOver part v && s.haltable v then
      let s1 := s.withDevice v fun d => d.endSlice (s.ptp - (s.partition part).sliceAt)
      .next ((s1.applyControls part).nextSlice part (some v))
    else .next s

end Sys2Proof.Machine
end

