-- ==== Sys2Proof/Machine/Issue.lean ====
section
/-! DEFINITION. The issue and the completion of clauses (spec/07, R196, R197, R206; spec/09, R227 to R229, R233; spec/08, R219 to R221), the
ends of waits, replayable groups and their fault records (spec/15, R394 to R396), the watchdog (R226). -/

namespace Sys2Proof.Machine

open Sys2Proof

/-- A group meets R219: resident, with an eligible lane, its device running and not throttled. -/
def State.canIssue (s : State) (g : Group) : Bool :=
  let vd := s.vdOf g
  g.phase == .resident && g.anyEligible && s.runs vd && !(s.device vd).throttled

/-! ## Clause headers (R227, R228) -/

/-- The clause that a header word describes, without its words. -/
def headerClause (addr : DWord) (h : Nat) (cls : EngineClass) : Clause :=
  { Clause.idle with live := true, addr := addr, cls := cls, count := ent h 28 4, yld := ent h 12 1 == 1 }

/-- The class of a header; 6 and 7 are not used. -/
def classOf : Nat → Option EngineClass
  | 0 => some .scalar | 1 => some .vector | 2 => some .memory | 3 => some .control | 4 => some .matrix | 5 => some .copy
  | _ => none

/-- The bytes of a clause. -/
def clauseBytes (h : Nat) : Nat := 4 * (1 + ent h 28 4 + ent h 8 4)

/-- The header is illegal by itself: COUNT 0, a class that is not used, a reserved bit, or a class that reduced service refuses (R228,
R434). -/
def headerBad (h : Nat) (reduced : Bool) : Bool :=
  ent h 28 4 == 0 || (classOf (ent h 25 3)).isNone || ent h 0 8 != 0 || (reduced && (ent h 25 3 == 4 || ent h 25 3 == 5))

/-- The words that bytes hold. -/
def wordsOf (bs : List Byte) : List Word := (elements 4 bs).map fun e => BitVec.ofNat 32 (ofBytes e.2)

/-- The level of a group's launch (R3). -/
def State.levelOf (s : State) (g : Group) : Nat :=
  match s.launches.look g.launch with
  | some l => l.level
  | none => 0

/-- R197 is broken: an instruction that must end its clause stands before its end. An opcode above the launch's level is an unassigned
one, which ends nothing (R3, R251). -/
def misplaced (cls : EngineClass) (level : Nat) : List Word → Bool
  | [] => false
  | [_] => false
  | w :: rest => (match decode cls [w] with
      | .ok (i, _) => decide (i.level ≤ level) && i.endsClause
      | .error _ => false) || misplaced cls level rest

/-- The lanes stand at the end of the clause: their resume index is its COUNT, and nothing of it executes for them (R390). A COUNT of 0
is illegal whatever the index (R228, log 75). -/
def skips (h r : Nat) : Bool := r != 0 && r == ent h 28 4

/-- The clause is illegal as a whole for lanes at word r (R228, R390). -/
def clauseBad (h r level : Nat) (reduced : Bool) (ws : List Word) : Bool :=
  !skips h r && (headerBad h reduced || misplaced ((classOf (ent h 25 3)).getD .control) level (ws.take (ent h 28 4)))

/-! ## Issue (R196, R390) -/

/-- A lane's event at the issue of a clause: both resume words are given. -/
def Group.raiseAt (g : Group) (ls : LaneSet) (what : Raise) (rword sword : Nat) : Group :=
  ({ g with clause := { g.clause with active := ls } }).raiseLanes ls what rword sword

/-- The group is chosen: its counts of passing over start anew, and the issuing lanes have no entry left (R221, R396). -/
def Group.chosen (g : Group) (ls : LaneSet) : Group :=
  let es := g.entries.filter fun e => !ls.getLsbD e.lane
  { g with passed := 0, starved := false, walked := [], stage := 0, object := none, copied := [], entries := es,
           resumed := g.resumed && !es.isEmpty }

/-- A clause whose fetch faults: every lane at that address records the fault, also one that is held, parked or serialised there (R34). -/
def Group.fetchFault (g : Group) (pc : DWord) (f : XFault) (a : Nat) : Group :=
  let ls := laneSetOf fun l => (g.lane l).state != .exited && (g.lane l).pc == pc
  let g1 := { g.chosen ls with clause := { Clause.idle with live := true, addr := pc } }
  (lanesOf ls).foldl (fun h l =>
    let r := (g.lane l).r
    ({ h with clause := { h.clause with idx := r } }).raiseAt (laneBit l) (f.raises .fetch 0 a) r r) g1

/-- A clause issues for some lanes from word r on: it is illegal as a whole (R228), or a remote fault is taken at its header (R356), or
its words begin to execute. -/
def Group.issueClause (g : Group) (pc : DWord) (r : Nat) (ls : LaneSet) (h level : Nat) (reduced : Bool) (ws : List Word) : Group :=
  let n := ent h 28 4
  let cls := (classOf (ent h 25 3)).getD .control
  let c := { headerClause pc h cls with words := ws.take n, lits := ws.drop n, idx := r, active := ls }
  let g1 := { g.chosen ls with clause := c }
  if clauseBad h r level reduced ws then
    ({ g1 with clause := { c with idx := 0 } }).raiseAt ls (.trap .illegalClause 0 0) 0 n
  else
    match (if ent h 16 3 = 7 then none else g.remote) with
    | some x => g1.raiseAt ls (.trap .remote x.info x.addr) r r
    | none => g1

/-- The bytes of a fetch, and what it leaves behind (R28, R412), or what becomes of the group instead. -/
def State.fetch (s : State) (c k : Nat) (g : Group) (pc : DWord) (n : Nat) (go : State → List Byte → State) : State :=
  match s.translateGroup c g .fetch pc.toNat n with
  | .miss ps => s.sendMisses c k (s.vdOf g) ps
  | .fault f a => (s.usePages c (s.vdOf g) [(pc.toNat, n)]).setGroup c k (g.fetchFault pc f a)
  | .ok ps =>
    match s.lockedIn ps with
    | some line => s.setGroup c k (g.waitOn (.line line))
    | none => go ((s.usePages c (s.vdOf g) [(pc.toNat, n)]).chargePieces (s.vdOf g) ps) (s.homeBytes ps)

/-- A group that an issue slot has chosen issues its clause (R196, R227 to R229, R233, R390). A header whose counts are not met makes it
wait, and the clause is read again when it is next chosen; the cycles of being passed over start anew in every case (R221). -/
def State.issue (s0 : State) (c k : Nat) (g0 : Group) : State :=
  match g0.issueSet with
  | none => s0
  | some (pcN, r, ls) =>
    let g := { g0 with passed := 0, starved := false }
    let s := s0.setGroup c k g
    let pc : DWord := BitVec.ofNat 64 pcN
    let reduced := s.module.svc != 2
    let level := s.levelOf g
    let go (t : State) (h : Nat) (ws : List Word) : State :=
      let (ld, st, cp, tl) := (ent h 22 3, ent h 19 3, ent h 16 3, ent h 13 3)
      if clauseBad h r level reduced ws || g.countsMet ld st cp tl then t.setGroup c k (g.issueClause pc r ls h level reduced ws)
      else t.setGroup c k ({ g with walked := [] }.waitOn (.counts ld st cp tl))
    s.fetch c k g pc 4 fun t hb =>
      let h := ofBytes hb
      if headerBad h reduced then go t h (List.replicate (ent h 28 4 + ent h 8 4) 0)
      else s.fetch c k g pc (clauseBytes h) fun u bs => go u h ((wordsOf bs).drop 1)

/-- WDOG of a group's launch, in cycles; 0 disables it. -/
def State.watchdogLimit (s : State) (g : Group) : Nat :=
  match s.launches.look g.launch with
  | some l => pkWdog l.pkt * 2 ^ 24
  | none => 0

/-- The watchdog of a group has expired: it issues no clause before it becomes replayable (R226). -/
def State.expired (s : State) (g : Group) : Bool := s.watchdogLimit g != 0 && decide (s.watchdogLimit g ≤ g.watchdog)

/-- The groups of an issue slot that it may choose, in its order (R219). -/
def State.issueOrder (s : State) (c q : Nat) : List (Nat × Group) :=
  ((s.core c).order.get q []).filterMap fun k =>
    if k < Config.groupSlots then
      match s.group? c k with
      | some g => if s.canIssue g && !g.clause.live && !s.expired g && !s.sliceOver (s.partOf g) (s.vdOf g) then some (k, g) else none
      | none => none
    else none

/-- The choice of an issue slot: a group that has been passed over too often, else the first in its order (R219, R221). -/
def State.issueChoice (s : State) (c q : Nat) : Option (Nat × Group) :=
  let l := s.issueOrder c q
  match l.find? fun x => x.2.starved || decide (4096 ≤ x.2.passed) with
  | some x => some x
  | none => l.head?

/-- A clause of some group of an issue slot is under way. A group that waits in mid-clause leaves its slot free for the others, and goes on
beside their clauses when its wait ends (DESIGN CHOICE, log 76). -/
def State.slotBusy (s : State) (c q : Nat) : Bool :=
  (s.core c).groups.any fun x => issueSlotOf x.1 == q && x.2.clause.live && x.2.phase == .resident

/-- CLAUSE_ISSUE (R196, R219); the object is the core and the issue slot. -/
def execClauseIssue (s : State) : Result :=
  let (c, q, _) := s.object
  if s.slotBusy c q then .next s
  else
    match s.issueChoice c q with
    | some (k, g) => .next (s.issue c k g)
    | none => .next s

/-- SLOT_STARVATION_LIMIT (R221): a group has been passed over for 4,096 cycles; the object is the core and its slot. -/
def execSlotStarvationLimit (s : State) : Result :=
  let (c, k, _) := s.object
  match s.group? c k with
  | some g => if 4096 ≤ g.passed ∧ g.starved = false then .next (s.setGroup c k { g with starved := true }) else .next s
  | none => .next s

/-! ## Fault records (R395, R400) -/

/-- What an event raises. -/
def Raise.info : Raise → Word
  | .trap _ i _ => i
  | .replay _ i _ => i
def Raise.addr : Raise → DWord
  | .trap _ _ a => a
  | .replay _ _ a => a

/-- The cause of R386 that an event has, or would have as a trap. -/
def Raise.ncause : Raise → Nat
  | .trap c _ _ => c.code
  | .replay .memory _ _ => 0x01
  | .replay .revoked _ _ => 0x0D
  | .replay _ _ _ => 0

/-- A lane entry of a fault record. -/
def laneEntry (g : Group) (e : LaneEvent) : List Byte :=
  let c := e.groupCause
  let both := c == .escalation || c == .noHandler
  toBytes 1 c.code ++ toBytes 1 (if both then e.what.ncause else 0) ++ toBytes 2 0
    ++ toBytes 4 (if both || c == .memory then e.what.info.toNat else 0) ++ toBytes 8 e.what.addr.toNat
    ++ toBytes 8 (if c == .escalation then (g.lane e.lane).tcause.toNat else 0) ++ toBytes 8 0

/-- The first 64 bytes of a fault record. -/
def recordHead (cause slot word : Nat) (lanes : LaneSet) (pc : DWord) (window seq : Nat) : List Byte :=
  toBytes 1 cause ++ toBytes 1 slot ++ toBytes 1 word ++ toBytes 1 0 ++ toBytes 4 lanes.toNat ++ toBytes 8 pc.toNat
    ++ toBytes 8 (window * 2 ^ 16) ++ toBytes 4 seq ++ toBytes 36 0

/-- The module address of the fault record of a group slot (R400). -/
def State.recordAddr (s : State) (vd c k : Nat) : Nat := s.saveBlock vd c + 0x5C0000 + 2048 * k

/-- A line is locked that the record of a fault with some lane entries is written to: the record waits (R78, R81). -/
def State.recordHeld (s : State) (c k : Nat) (g : Group) (es : List LaneEvent) : Bool :=
  let a := s.recordAddr (s.vdOf g) c k
  (s.lockedAt .hbm a 0x40).isSome || es.any fun e => (s.lockedAt .hbm (a + 0x40 + 32 * e.lane) 32).isSome

/-- A group that has become replayable: its record is written for the events of this time, it is descheduled, and firmware informs the
guest driver (R394). The entries of other lanes are not written. -/
def State.recordFault (s : State) (c k : Nat) (g : Group) (cause : ReplayCause) (word : Nat) (pc : DWord) (es : List LaneEvent) : State :=
  let vd := s.vdOf g
  let a := s.recordAddr vd c k
  let w : Source := { vd := vd, carried := none, ver := false, die := none, release := none }
  let lanes := laneSetOf fun l => es.any fun e => e.lane == l
  let s1 := s.writeMem w .hbm (addressed a (recordHead cause.code k word lanes pc (s.device vd).window g.seq))
  let s2 := es.foldl (fun t e => t.writeMem w .hbm (addressed (a + 0x40 + 32 * e.lane) (laneEntry g e))) s1
  { s2 with driver := s2.driver ++ [.replayable c k cause] }

/-! ## Completion (R197) -/

/-- A group moves to the back of its slot's order (R220). -/
def Core.toBack (x : Core) (k : Nat) : Core :=
  { x with order := x.order.change (issueSlotOf k) fun l => l.filter (· != k) ++ [k] }

/-- The length of the instruction in progress. -/
def Group.withLen (g : Group) (n : Nat) : Group := { g with clause := { g.clause with len := n } }

/-- A group behind its instruction: the next word, or the same one again after a wait that repeats it. -/
def Group.pass (g : Group) : Group :=
  if g.clause.redo then { g with clause := { g.clause with redo := false } }
  else { g with walked := [], stage := 0, object := none, copied := [], clause := { g.clause with idx := g.clause.idx + g.clause.len } }

/-- A clause is at its end: every word has executed, or no lane is left in it. -/
def Group.clauseOver (g : Group) : Bool :=
  g.clause.live && g.phase == .resident && !g.clause.redo && (decide (g.clause.count ≤ g.clause.idx) || g.clause.active == 0)

/-- The completion of a group's clause: trap entries and replayable events doom an open transaction (R89), a replayable group leaves its
record (R394), and a group without lanes ends (R202). -/
def State.completeClause (s : State) (c k : Nat) (g : Group) : State :=
  let tvec := (s.device (s.vdOf g)).handler
  let done := g.complete tvec
  let trapped := g.clause.haltAt.isSome || !g.applyEnding.clause.events.isEmpty
  let g1 := if trapped || done.cause.isSome then done.doom 6 else done
  let stops := done.clause.events.filter fun e => e.replays tvec.isSome
  let s1 := s.setGroup c k { g1 with clause := { g1.clause with events := [], haltAt := none } }
  let s2 := if g.clause.yld || g.clause.ending == .yield then s1.withCore c fun x => x.toBack k else s1
  if done.exitedSet = BitVec.allOnes 32 then s2.endGroup c k
  else
    match done.cause with
    | none => s2
    | some cause =>
      let word := match stops, g.clause.haltAt with
        | e :: _, some h => min e.word h
        | e :: _, none => e.word
        | [], some h => h
        | [], none => 0
      s2.recordFault c k g1 cause word g.clause.addr stops

/-- The completion of a group's clause waits: it would write a fault record to a locked line. -/
def State.completionHeld (s : State) (c k : Nat) (g : Group) : Bool :=
  let tvec := (s.device (s.vdOf g)).handler
  let done := g.complete tvec
  done.cause.isSome && s.recordHeld c k g (done.clause.events.filter fun e => e.replays tvec.isSome)

/-- CLAUSE_COMPLETE (R197, R389 to R394); the object is the core and the group's slot. -/
def execClauseComplete (s : State) : Result :=
  let (c, k, _) := s.object
  match s.group? c k with
  | some g => if g.clauseOver && !s.completionHeld c k g then .next (s.completeClause c k g) else .next s
  | none => .next s

/-! ## The ends of waits (R206) -/

/-- The store queues named have accepted as many entries as named (R115). -/
def State.drained (s : State) (ts : List (Nat × Nat)) : Bool := ts.all fun t => decide (t.2 ≤ (s.core t.1).accepted)

/-- A request of an operation is still on its way. -/
def HomeReq.ofOp (r : HomeReq) (op : Nat) : Bool :=
  match r.kind with
  | .atomic o _ _ _ _ _ _ _ _ _ => o == op
  | .hasp o _ _ _ => o == op
  | _ => false

/-- A waiting group's wait ends, or its hasp is read again; none while the wait goes on. -/
def State.waitEnd (s : State) (c k : Nat) (g : Group) (w : Wait) : Option State :=
  let vd := s.vdOf g
  let d := s.device vd
  let ended (cond : Bool) : Option State := if cond then some (s.setGroup c k g.endWait) else none
  let ring (r : Nat) (f : Ring → Bool) : Bool :=
    match (s.gang? c g.gang).bind fun y => y.rings.look r with
    | some x => f x
    | none => true
  match w with
  | .counts ld st cp tl => ended (g.countsMet ld st cp tl)
  | .op id wide targets =>
    if s.requests.any fun r => r.ofOp id then none
    else some ((s.setGroup c k g.endWait).acquired c k wide targets)
  | .queues targets => if s.drained targets then some ((s.setGroup c k g.endWait).withCore c Core.l1Clear) else none
  | .ringReserve r => ended (ring r fun x => x.canReserve k)
  | .ringAcquire r => ended (ring r fun x => x.canAcquire k)
  | .barrier _ => none
  | .hasp a p fired =>
    if !fired || s.locked (lineOf a) then none
    else
      let s1 := s.chargeLine vd (lineOf a)
      match s.haspWait a vd (s.partOf g) p.toNat with
      | some _ => some ((s1.setGroup c k g.endWait).withCore c Core.l1Clear)
      | none => some ((s1.setGroup c k { g with wait := some (.hasp a p false) }).placeWard (lineOf a) (.group c k))
  | .latch ls => ended (s.latchesOk ls)
  | .matrix => ended (decide (s.matrixOps c < 16))
  | .tile t => ended (!s.tileBusy c t s.nextOp)
  | .launchQueue => ended (decide (d.launchQueue.length < 64))
  | .walk =>
    let q := (s.die (dieOf c)).misses
    ended (!(q.any fun m => m.core == c && m.slot == k && m.vd == vd) && decide (q.length < 256))
  | .snapshot m => ended (winLe (winAdd m 2) d.window)
  | .commit => ended g.tx.isNone
  | .fence m => ended (winLe m d.window)
  | .line l => ended (!s.locked l && !(s.requests.any fun r => r.core == c && r.line == l && r.span.isSome))
  | .behind n => ended (decide (n ≤ (s.core c).accepted))

/-- GROUP_WAIT_END (R206); the object is the core and the group's slot. -/
def execGroupWaitEnd (s : State) : Result :=
  let (c, k, _) := s.object
  match s.group? c k with
  | some g =>
    match (if g.phase = .waiting then g.wait.bind (s.waitEnd c k g) else none) with
    | some t => .next t
    | none => .next s
  | none => .next s

/-! ## The watchdog (R226) -/

/-- WATCHDOG_EXPIRY (R226, R394, R395): the group becomes replayable between clauses; the object is the core and its slot. -/
def execWatchdogExpiry (s : State) : Result :=
  let (c, k, _) := s.object
  match s.group? c k with
  | some g =>
    match g.issueSet with
    | some (pc, r, _) =>
      if g.phase = .resident ∧ g.clause.live = false ∧ s.expired g = true ∧ s.recordHeld c k g [] = false then
        let g1 := { g.doom 6 with phase := .replayable, cause := some .watchdog, resumed := false, seq := (g.seq + 1) % 2 ^ 32 }
        .next ((s.setGroup c k g1).recordFault c k g1 .watchdog r (BitVec.ofNat 64 pc) [])
      else .next s
    | none => .next s
  | none => .next s

/-! ## Resumption by firmware (R396) -/

/-- The lane's entry is of a revoked snapshot (R87, R396). -/
def LaneEvent.revoked (e : LaneEvent) : Bool :=
  !e.escalates && (match e.what with
    | .replay .revoked _ _ => true
    | _ => false)

/-- The entry as the trap 0x0D. -/
def LaneEvent.asTrap (e : LaneEvent) : LaneEvent := { e with what := .trap .snapshotRevoked e.what.info e.what.addr }

/-- A replayable group resumed: the lanes of revoked snapshots enter trap state, or without a handler make it replayable again; the
others with an entry re-execute alone. Lanes whose wards were dropped act as if those had fired, once the group runs (R397). `runs` says
that its device is the running one: a slice that has just ended halts the group with the others. -/
def Group.firmwareResume (g : Group) (tvec : Option DWord) (runs spilled : Bool) : Group :=
  let revoked := (g.entries.filter LaneEvent.revoked).map LaneEvent.asTrap
  let rest := g.entries.filter fun e => !e.revoked
  let g0 := if runs && !spilled then g.freeHolds (BitVec.allOnes 32) (· == .fired) else g
  let g1 := { g0 with watchdog := 0, cause := none }
  let phase : Phase := if spilled then .spilled else if !runs then .halted else if g.wait.isSome then .waiting else .resident
  match tvec with
  | none =>
    if revoked.isEmpty then
      { g1 with resumed := !rest.isEmpty, phase := phase }
    else { g1 with cause := some .noHandler, entries := rest ++ revoked, resumed := false, seq := (g.seq + 1) % 2 ^ 32 }
  | some t =>
    let g2 := if revoked.isEmpty then g1 else (revoked.foldl (fun a e =>
      if (a.lane e.lane).state == .exited then a else a.trapLane t e) g1.freshTrapBank).doom 6
    { g2 with entries := rest, resumed := !rest.isEmpty, phase := phase }

/-- FIRMWARE_RESUME_GROUP (R396, R398); the object is the core, the slot, and for a group whose slot is spilled its gang plus 1. -/
def execFirmwareResumeGroup (s : State) : Result :=
  let (c, k, n) := s.object
  let found : Option Group := match n with
    | 0 => s.group? c k
    | m + 1 => (s.gang? c m).bind fun y => y.saved.groups.look k
  match found with
  | none => .next s
  | some g =>
    if g.cause.isNone then .next s
    else
      let vd := s.vdOf g
      let runs := s.runs vd
      let g1 := g.firmwareResume (s.device vd).handler runs (g.phase == .spilled)
      let s1 := match n with
        | 0 => s.setGroup c k g1
        | m + 1 => s.withGang c m fun y => { y with saved := { y.saved with groups := y.saved.groups.put k g1 } }
      let es := (g.entries.filter LaneEvent.revoked).map LaneEvent.asTrap
      match g1.cause with
      | some cause =>
        if s.recordHeld c k g es then .next s
        else .next (s1.recordFault c k g1 cause ((es.map (·.word)).headD 0) g.clause.addr es)
      | none => .next s1

end Sys2Proof.Machine
end

