-- ==== Sys2Proof/Machine/Traffic.lean ====
section
/-! DEFINITION. Traffic below the groups: the return of loads and the acceptance of stores (spec/04, R113 to R118), page walks (spec/01,
R27 to R30), requests at the homes and fills (spec/02, R55, R56, R64, R65), host accesses (R13, R138), the collector (spec/03, R93, R94). -/

namespace Sys2Proof.Machine

open Sys2Proof

/-! ## Loads and stores -/

/-- A loads operation of a group on a core may return: its requests have been performed, the die's L2 has been filled with the lines that
it missed (R56, R113), and the group is not still draining store queues for it (R115). -/
def State.loadReady1 (s : State) (c : Nat) (g : Group) (op : Nat) : Bool :=
  (g.loads.any fun x => x.op == op && !x.done) && !(s.requests.any fun r => r.ofOp op)
    && ((g.asked.get op []).all fun line => !s.asking (dieOf c) line) && (match g.wait with
      | some (.queues ts) => s.drained ts
      | some (.op id _ _) => id != op
      | _ => true)

/-- LOAD_DATA_RETURN (R118): a load writes its registers and is complete. The object is the core, the slot and the operation. -/
def execLoadDataReturn (s : State) : Result :=
  let (c, k, op) := s.object
  match s.group? c k with
  | some g => if s.loadReady1 c g op then .next (s.setGroup c k ((g.deliver op).finish .loads op)) else .next s
  | none => .next s

/-- The group in a slot whose store an entry belongs to, in its place or spilled, notes its completion. -/
def Core.finishStore (x : Core) (k op : Nat) : Core :=
  { x with groups := x.groups.change k fun g => g.finish .stores op,
           gangs := x.gangs.mapAll fun _ y =>
             { y with saved := { y.saved with groups := y.saved.groups.change k fun g => g.finish .stores op } } }

/-- The L2 of a die holds the right to write a line (R55). -/
def Die.owns (d : Die) (line : Nat) : Bool := (d.l2.get (l2Set line) []).any fun y => y.line == line && y.own

/-- A store entry goes to no L2: its page is of the host's tier, or versioned, and then its home stamps it (R54, R79). -/
def StoreEntry.direct (e : StoreEntry) : Bool := e.tier == .host || e.ver

/-- The first line of a store entry that the L2 of a die has not the right to write. -/
def StoreEntry.lacks (e : StoreEntry) (d : Die) : Option Nat :=
  if e.direct then none else (linesOf (e.bytes.map (·.1))).find? fun line => !d.owns line

/-- The right to write a line asked for by the L2 of a core's die, unless it is asking for the line already (R55, R64). A store that misses
fills its line into the L2 so (DESIGN CHOICE, log 72). -/
def State.wantOwn (s : State) (c : Nat) (e : StoreEntry) (line : Nat) : State :=
  let d := dieOf c
  if s.asking d line then s
  else { s with requests := s.requests ++ [{ line := line, core := c, slot := e.slot, launch := e.launch, vd := e.vd,
                                             kind := .own d (((s.die d).keeperFor e.vd e.va).map (·.1)) e.ef }] }

/-- An entry of a store queue accepted, the oldest one: its bytes are written, and its L2 lines move as a hit does (R55, R56). -/
def State.acceptStore (s : State) (c : Nat) (e : StoreEntry) (rest : List StoreEntry) : State :=
  let w : Source := { vd := e.vd, carried := none, ver := e.ver, die := if e.direct then none else some (dieOf c),
                      release := if e.rel then some c else none }
  let s1 := (s.withCore c fun x => { x with stores := rest, accepted := x.accepted + 1 }).writeMem w e.tier e.bytes
  let s2 := if e.direct then s1 else (linesOf (e.bytes.map (·.1))).foldl (fun a line => a.touchL2 (dieOf c) line e.ef) s1
  if rest.any fun y => y.op == e.op then s2 else s2.withCore c fun x => x.finishStore e.slot e.op

/-- STORE_ACCEPT (R55, R113, R118): the L2 accepts the oldest entry of a core's store queue once it has the right to write the line, for
which it asks first; the object is the core. -/
def execStoreAccept (s : State) : Result :=
  let (c, _, _) := s.object
  match (s.core c).stores with
  | [] => .next s
  | e :: rest =>
    if e.tier != .host && (linesOf (e.bytes.map (·.1))).any s.locked then .next s
    else
      .next (match e.lacks (s.die (dieOf c)) with
        | some line => s.wantOwn c e line
        | none => s.acceptStore c e rest)

/-! ## Page walks (R27 to R30) -/

/-- The 64 KiB region of a miss. -/
def Miss.region (m : Miss) : Nat × Nat := (m.vd, m.page / 16)

/-- The oldest miss that may be dispatched. -/
def nextMiss (ms : List Miss) : Option Miss :=
  let going := ms.filter (·.walking)
  if 16 ≤ going.length then none else ms.find? fun m => !m.walking && !(going.any fun w => w.region == m.region)

/-- WALK_DISPATCH (R30); the object is the die. -/
def execWalkDispatch (s : State) : Result :=
  let (d, _, _) := s.object
  match nextMiss (s.die d).misses with
  | none => .next s
  | some m =>
    .next (s.withDie d fun x => { x with misses := x.misses.map fun y => if y = m then { y with walking := true } else y })


/-- The result of a walk reaches the group that sent a miss, while it waits for it. -/
def State.giveWalk (s : State) (m : Miss) (r : WalkResult) : State :=
  s.withGroup m.core m.slot fun g => if s.vdOf g = m.vd ∧ g.wait = some .walk then { g with walked := g.walked.put m.page r } else g

/-- A walk that has ended: with a page, every queued miss in that page completes from it and fills its core's TLBs; with a fault, only
its own miss does. -/
def State.endWalk (s : State) (d : Nat) (m : Miss) : State :=
  let va := m.page * 4096
  let w := s.walkOn (some d) m.vd va
  let s1 := s.afterWalk (some d) m.vd va w
  match w.result with
  | .error f => ((s1.withDie d fun x => { x with misses := x.misses.filter (· != m) })).giveWalk m (.fault f)
  | .ok p =>
    let served (y : Miss) : Bool := y.vd == m.vd && decide (p.base ≤ y.page * 4096 ∧ y.page * 4096 < p.base + p.size)
    let s2 := s1.withDie d fun x => { x with misses := x.misses.filter fun y => !served y }
    ((s1.die d).misses.filter served).foldl (fun a y =>
      (a.withCore y.core fun x => x.tlbFill { vd := y.vd, page := p }).giveWalk y (.page p)) s2

/-- WALK_COMPLETE (R27 to R30): a walk that has to read a locked line waits (R78). The object is the die and the place of the miss in its
queue. -/
def execWalkComplete (s : State) : Result :=
  let (d, i, _) := s.object
  match (s.die d).misses[i]? with
  | some m =>
    if m.walking && !s.walkLocked (s.walkOn (some d) m.vd (m.page * 4096)) then .next (s.endWalk d m) else .next s
  | none => .next s

/-! ## Homes (R64) -/

/-- A request is the first of those for its line. -/
def State.firstOfLine (s : State) (i : Nat) (r : HomeReq) : Bool := !((s.requests.take i).any fun x => x.line == r.line)

/-- A line that the home gives to an L2, which is to be filled with it; the LLC holds it then, and what HBM gives is charged (R55, R65,
R412). -/
def State.giveLine (s : State) (r : HomeReq) (die : Nat) (keeper : Option Nat) (ef own : Bool) : State :=
  ((s.chargeLine r.vd r.line).fillLlc r.vd r.line (s.releaseTag r.line) ef).withDie die fun d =>
    { d with fills := d.fills ++ [{ line := r.line, vd := r.vd, keeper := keeper, ef := ef, own := own }] }

/-- A load that missed the die's L2, at its home: the other dies keep their copies, and may no longer write the line (R55). -/
def State.performLoad (s : State) (r : HomeReq) (die : Nat) (keeper : Option Nat) (ef : Bool) : State :=
  (s.shareCopies r.line die).giveLine r die keeper ef false

/-- The right to write a line, granted by its home: the copies in the other dies are removed first (R55). -/
def State.performOwn (s : State) (r : HomeReq) (die : Nat) (keeper : Option Nat) (ef : Bool) : State :=
  (s.dropCopies r.line (some die)).giveLine r die keeper ef true

/-- HOME_REQUEST (R64); the object is the place of the request. Requests to a locked line wait (R78, R90). -/
def execHomeRequest (s : State) : Result :=
  let (i, _, _) := s.object
  match s.requests[i]? with
  | none => .next s
  | some r =>
    let host := match r.kind with
      | .atomic _ _ _ .host _ _ _ _ _ _ => true
      | _ => false
    if !s.firstOfLine i r || (!host && s.locked r.line) then .next s
    else
      let s1 := { s with requests := s.requests.eraseIdx i }
      .next (match r.kind with
        | .load die keeper ef => s1.performLoad r die keeper ef
        | .own die keeper ef => s1.performOwn r die keeper ef
        | .writeBack _ tag => s1.fillLlc r.vd r.line tag false
        | .atomic op f z t ver a steps reg rel rp => s1.performAtomic r op f z t ver a steps reg rel rp
        | .hasp op a steps reg => s1.performHasp r op a steps reg
        | .lock => s1.performLock r)

/-- L2_FILL (R56): an L2 is filled in the order in which its lines have come; the object is the die. -/
def execL2Fill (s : State) : Result :=
  let (d, _, _) := s.object
  match (s.die d).fills with
  | f :: rest => .next ((s.withDie d fun x => { x with fills := rest }).fillL2 d f)
  | [] => .next s

/-! ## Host accesses (R13, R138) -/

/-- The bytes of the second tier, 6,144 GB, a GB being 2^30 bytes as for HBM (R1, R21, log 64). -/
def secondBytes : Nat := 6144 * 2 ^ 30

/-- Every byte of an access is at a module address that memory backs (R21). -/
def backed (a n : Nat) : Bool :=
  decide (a + n ≤ 2 ^ 39 ∨ (2 ^ 44 ≤ a ∧ a + n ≤ 2 ^ 44 + secondBytes))

/-- The bytes of a host access. -/
def HostAccess.size : HostAccess → Nat
  | .read n => n
  | .write d => d.length
  | .atomic _ z _ _ => z

/-- A host access performed at the homes of its lines. -/
def State.performHost (s : State) (r : HostReq) : State :=
  let w : Source := { vd := r.vd, carried := none, ver := r.ver, die := none, release := none }
  match r.what with
  | .read n => { s.chargeRead r.vd r.addr n with hostReplies := s.hostReplies ++ [s.readMem .hbm r.addr n] }
  | .write data => s.writeMem w .hbm (addressed r.addr data)
  | .atomic f z v x =>
    let old := s.readNat .hbm r.addr z
    { s.chargeRead r.vd r.addr z with hostReplies := s.hostReplies ++ [toBytes z old] }.writeMem w .hbm
      (addressed r.addr (toBytes z (f.apply (8 * z) old v x)))

/-- HOST_REQUEST: the oldest access of the host, once the register writes that arrived before it have been performed (R138, R430). -/
def execHostRequest (s : State) : Result :=
  match s.hostq with
  | [] => .next s
  | r :: rest =>
    if s.arrivals.head? = some false then .next s
    else if !backed r.addr r.what.size then .fault .unbacked
    else if (s.lockedAt .hbm r.addr r.what.size).isSome then .next s
    else .next ({ s with hostq := rest, arrivals := s.arrivals.tail }.performHost r)

/-! ## The collector (R93, R94) -/

/-- COLLECTOR_RECLAIM (R93): the reclaimable versions of a line go; the object is the line. -/
def execCollectorReclaim (s : State) : Result :=
  let (line, _, _) := s.object
  match s.versions.look line with
  | none => .next s
  | some vs =>
    match s.partWindow vs.part with
    | none => .next s
    | some c =>
      if (s.keepVersions vs.part c vs.newest vs.older).length < vs.older.length then .next (s.reclaimLine c line) else .next s

/-- COLLECTOR_SETTLE (R76, R94): the oldest version of a line is settled; the object is the line. -/
def execCollectorSettle (s : State) : Result :=
  let (line, _, _) := s.object
  match s.versions.look line with
  | none => .next s
  | some vs =>
    match s.partWindow vs.part with
    | none => .next s
    | some c =>
      if aged c vs.oldest then .next { s with versions := s.versions.put line vs.settle } else .next s

end Sys2Proof.Machine
end

