-- ==== Sys2Proof/Machine/Registers.lean ====
section
/-! DEFINITION. The register space (spec/17, R426 to R431, with R22 to R26, R67 to R73, R97 to R100, R165 to R167, R170, R175, R388, R402 to
R409, R420, R429, R436): what each register reads as, which writes are refused, and what an accepted write leaves. -/

namespace Sys2Proof.Machine

open Sys2Proof

/-! ## Fields -/

/-- The bits of a register that can be written; the others read 0. -/
def lowMask (n : Nat) : DWord := BitVec.ofNat 64 (2 ^ n - 1)
def bitsMask (lo n : Nat) : DWord := lowMask n <<< lo
/-- Addresses in units of 2 MiB, below 2^46. -/
def mib2Mask : DWord := bitsMask 21 25

/-- The devices of a partition that exist (R404). -/
def State.devicesOf (s : State) (part : Nat) : List (Nat × Device) :=
  s.devices.filter fun d => d.2.part == part && d.2.state != .none

/-- The cores of a partition's mask of clusters. -/
def maskCount (m : DWord) : Nat := Config.coresPerCluster * ((List.range 24).filter fun i => m.getLsbD i).length

/-! ## The bound on saving (R408, R409) and the groups of class 3 (R420) -/

/-- The channel groups that a module range touches (R403). -/
def groupsOf (lo n : Nat) : List Nat := if n = 0 then [] else (List.range 32).filter fun g => decide (lo < (g + 1) * 2 ^ 34 ∧ g * 2 ^ 34 < lo + n)

/-- The save area of a device, by module address (R388). -/
def State.saveArea (s : State) (d : Device) : Nat × Nat :=
  (s.pbase d.part .hbm + d.saveBase, 2 ^ 21 * bits (d.trap.get 0x18 0) 0 32)

/-- `VSAVEB` for n cores (R408). -/
def State.saveBound (s : State) (d : Device) (n : Nat) : Nat :=
  let a := s.saveArea d
  let full := 768000 * (groupsOf a.1 a.2).length
  let lim := d.ctl.get 0x18 0
  let b := if lim.getLsbD 63 then min full (bits lim 0 32) else full
  if b = 0 then 2 ^ 32 - 1 else min (2 + (n * 6291456 + b - 1) / b) (2 ^ 32 - 1)

/-- The cores that a partition's `PCLU` names. -/
def State.coreCount (s : State) (part : Nat) : Nat := maskCount ((s.partition part).ctl.get 0 0)

/-- `VQUANT` US as written. -/
def Device.quantumUs (d : Device) : Nat := bits (d.ctl.get 8 0) 0 32

/-- The quantum suffices for the bound (R409). -/
def State.quantumOk (s : State) (d : Device) (n : Nat) : Bool := decide (4 * s.saveBound d n ≤ d.quantumUs)

/-- No other device of class 3 of its partition holds a channel group of a device's `VGRP` (R420). -/
def State.groupsFree (s : State) (v : Nat) (d : Device) : Bool :=
  (s.devicesOf d.part).all fun x => x.1 == v || x.2.cls != 3 || x.2.ctl.get 0x30 0 &&& d.ctl.get 0x30 0 == 0

/-- R420: the requirements of class 3. `v` is the device's own number. -/
def State.classOk (s : State) (v : Nat) (d : Device) : Bool :=
  let vgrp := d.ctl.get 0x30 0
  let pb := s.pbase d.part .hbm
  let lo (r : DWord) : Nat := r.toNat
  let range (a b : DWord) : List Nat := groupsOf (pb + lo a) (lo b - lo a)
  let sa := s.saveArea d
  vgrp &&& ~~~((s.partition d.part).ctl.get 8 0) == 0
    && (s.devicesOf d.part).all (fun x => x.1 == v || x.2.ctl.get 0x30 0 &&& vgrp == 0)
    && (range (d.xlate.get 0x10 0) (d.xlate.get 0x18 0) ++ groupsOf sa.1 sa.2
          ++ range (d.fabric.get 0x10 0) (d.fabric.get 0x18 0)).all fun g => vgrp.getLsbD g

/-- A change of a device keeps R409 and R420: of a device that exists. `before` is the device as it was. -/
def State.changeOk (s : State) (v : Nat) (before after : Device) : Bool :=
  let n := s.coreCount after.part
  before.state == .none
    || ((s.quantumOk after n || (decide (s.saveBound after n ≤ s.saveBound before n ∧ before.quantumUs ≤ after.quantumUs)))
        && (after.cls != 3 || s.classOk v after))

/-! ## Reading (R426 to R431) -/

/-- The oldest live key of a partition (R100). -/
def Partition.oldestWord (p : Partition) : DWord :=
  match oldestEntry p.snaps with
  | some e => BitVec.ofNat 64 (2 ^ 63 + e.2.key)
  | none => 0

/-- The version control block (R97 to R100). -/
def State.versionReg (s : State) (p off : Nat) : DWord :=
  let x := s.partition p
  match off with
  | 0x20 => BitVec.ofNat 64 (s.recordsUsed p true)
  | 0x28 => BitVec.ofNat 64 (s.recordsUsed p false)
  | 0x38 => (match x.floor with
    | some f => BitVec.ofNat 64 (2 ^ 63 + f)
    | none => 0)
  | 0x40 => x.oldestWord
  | 0x48 => BitVec.ofNat 64 (x.revoked * 2 ^ 48 + x.lastKey)
  | _ => x.ver.get off 0

/-- A keeper's registers (R71 to R73). -/
def Keeper.reg (k : Keeper) (off : Nat) : DWord :=
  match off with
  | 0 => BitVec.ofNat 64 k.base
  | 8 => BitVec.ofNat 64 k.limit
  | 0x10 => BitVec.ofNat 64 ((if k.en then 2 ^ 63 else 0) + k.vd * 2 ^ 56 + k.part * 2 ^ 48
      + (k.ways.foldl (fun a w => a + 2 ^ w) 0) * 2 ^ 32)
  | _ => 0

/-- The virtual-device control block (R405, R406). -/
def State.vdevReg (s : State) (v off : Nat) : DWord :=
  let d := s.device v
  match off with
  | 0x00 => d.ctl.get 0 0 ||| BitVec.ofNat 64 (d.state.code * 2 ^ 60 + d.window)
  | 0x10 => BitVec.ofNat 64 (s.saveBound d (s.coreCount d.part))
  | 0x38 => BitVec.ofNat 64 ((if d.busy then 2 ^ 63 else 0) + d.status * 2 ^ 40) ||| d.ctl.get 0x38 0
  | 0x48 => 0
  | _ => d.ctl.get off 0

/-- The translation control block (R22 to R25). -/
def State.xlateReg (s : State) (v off : Nat) : DWord :=
  let d := s.device v
  match off with
  | 0x40 => BitVec.ofNat 64 ((if d.tinv.isSome then 2 ^ 63 else 0) + (if d.tinvErr then 2 ^ 60 else 0)) ||| d.xlate.get 0x40 0
  | _ => d.xlate.get off 0

/-- The cache control block (R67 to R70). -/
def State.cacheReg (s : State) (v off : Nat) : DWord :=
  if 0x20 ≤ off ∧ off < 0x40 then BitVec.ofNat 64 ((s.die ((off - 0x20) / 8)).occupancy v)
  else if 0x60 ≤ off ∧ off < 0x80 then BitVec.ofNat 64 (s.llcOccupancy ((off - 0x60) / 8) v)
  else (s.device v).cache.get off 0

/-- The queue and checkpoint block (R429, R436). -/
def State.queueReg (s : State) (v off : Nat) : DWord :=
  let d := s.device v
  match off with
  | 0x98 => BitVec.ofNat 64 ((if d.ckpt.isSome then 2 ^ 63 else 0) + d.ckStatus * 2 ^ 40) ||| d.queue.get 0x98 0
  | _ => d.queue.get off 0

/-- The module block (R431). -/
def State.moduleReg (s : State) (off : Nat) : DWord :=
  let m := s.module
  match off with
  | 0x00 => BitVec.ofNat 64 (m.svc * 2 ^ 62 + m.sag * 2 ^ 44)
  | 0x08 => BitVec.ofNat 64 (m.refused * 2 ^ 32 + m.corrected)
  | 0x10 => m.elogHead
  | 0x18 => m.elogBase
  | _ => if 0x100 ≤ off ∧ off < 0x1000 then BitVec.ofNat 64 (ofBytes (m.mbox.readAll (off - 0x100) 8)) else 0

/-- The guest block (R428). -/
def State.guestReg (s : State) (v off : Nat) : DWord :=
  if off = 0x18 then BitVec.ofNat 64 ((s.device v).state.code * 2 ^ 60) else 0

/-- The entries of a block (R426). -/
def blockEntries : RegBlock → Nat
  | .module => 1
  | .partition => Config.partitions
  | .version => Config.partitions
  | .keeper => Config.dies
  | _ => Config.vds

/-- The bytes of a block's entry (R426, R431). -/
def blockBytes : RegBlock → Nat
  | .module => 0x1000
  | _ => 0x100

/-- The base of a block of the physical function's BAR0 (R426). -/
def blockBase : RegBlock → Option Nat
  | .module => some 0
  | .partition => some 0x10000
  | .version => some 0x12000
  | .keeper => some 0x14000
  | .vdev => some 0x20000
  | .xlate => some 0x28000
  | .cache => some 0x30000
  | .fabric => some 0x38000
  | .trap => some 0x40000
  | .queue => some 0x48000
  | .guest => none

/-- The blocks that the physical function reaches. -/
def pfBlocks : List RegBlock := [.module, .partition, .version, .keeper, .vdev, .xlate, .cache, .fabric, .trap, .queue]

/-- The register at an offset of the physical function's BAR0: its block, entry and offset in the entry (R426). -/
def pfPlace (off : Nat) : Option (RegBlock × Nat × Nat) :=
  (pfBlocks.filterMap fun b => (blockBase b).bind fun base =>
    if base ≤ off ∧ off < base + blockEntries b * blockBytes b then some (b, (off - base) / blockBytes b, (off - base) % blockBytes b)
    else none).head?

/-- The register at an offset of the BAR0 of the virtual function of a device (R427). -/
def vfPlace (v off : Nat) : Option (RegBlock × Nat × Nat) :=
  let view (b : RegBlock) : Option (RegBlock × Nat × Nat) := if off % 0x1000 < 0x100 then some (b, v, off % 0x1000) else none
  match off / 0x1000 with
  | 0 => view .guest
  | 1 => view .xlate
  | 2 => view .cache
  | 3 => view .fabric
  | 4 => view .trap
  | _ => none

/-- What a register reads as, by block, entry and offset; one that is not there reads 0 (R426). -/
def State.readReg (s : State) (b : RegBlock) (i off : Nat) : DWord :=
  if blockEntries b ≤ i ∨ blockBytes b ≤ off then 0
  else match b with
  | .module => s.moduleReg off
  | .partition => (s.partition i).ctl.get off 0
  | .version => s.versionReg i off
  | .keeper => ((s.die i).keepers.get (off / 0x20) Keeper.free).reg (off % 0x20)
  | .vdev => s.vdevReg i off
  | .xlate => s.xlateReg i off
  | .cache => s.cacheReg i off
  | .fabric => (s.device i).fabric.get off 0
  | .trap => (s.device i).trap.get off 0
  | .queue => s.queueReg i off
  | .guest => s.guestReg i off

/-- A guest may read the register (R427, R428). -/
def guestReads (b : RegBlock) (off : Nat) : Bool :=
  match b with
  | .guest => true
  | .cache => decide ((0x20 ≤ off ∧ off < 0x40) ∨ (0x60 ≤ off ∧ off < 0x80))
  | .fabric => off == 0
  | _ => false

/-- A refused access is counted (R427, R431). -/
def State.countRefused (s : State) : State := s.withModule fun m => { m with refused := min (m.refused + 1) (2 ^ 32 - 1) }

/-- A block belongs to the tenant of a plug-in: the version block of its partition, and those of the partition's devices (R432). -/
def State.tenantBlock (s : State) (part : Nat) (b : RegBlock) (i : Nat) : Bool :=
  match b with
  | .module => false
  | .partition => false
  | .keeper => false
  | .guest => false
  | .version => i == part
  | _ => (s.device i).part == part

/-- The plug-in of a partition has been stopped (R432). -/
def Module.isStopped (m : Module) (part : Nat) : Bool := m.stopped.get part false

/-- An access of a plug-in outside its confinement: it is refused, and PLUGIN_VIOLATION follows (R432). -/
def State.violates (s : State) (part : Nat) : State := s.withModule fun m => { m with violations := m.violations ++ [part] }

/-- A read by the host, a guest or firmware: its value goes back, and a refused one reads 0. One refused to a guest is counted (R427);
one that a plug-in makes outside its confinement is a violation (R432). -/
def State.hostRead (s : State) (r : RegRead) : State :=
  let reply (v : DWord) (t : State) : State := { t with hostReplies := t.hostReplies ++ [toBytes 8 v.toNat] }
  let v := s.readReg r.block r.index r.offset
  match r.writer with
  | .guest => if guestReads r.block r.offset then reply v s else reply 0 s.countRefused
  | .plugin p =>
    if s.module.isStopped p then reply 0 s
    else if s.tenantBlock p r.block r.index then reply v s else reply 0 (s.violates p)
  | _ => reply v s

/-! ## Writing -/

/-- The write may reach its block (R402, R405, R427, R428): the monitor writes the partition blocks, a guest its own block, the hypervisor
and, within their confinement, the plug-ins of its firmware the rest, the fabric blocks too (DESIGN CHOICE, log 57). -/
def writeAllowed (w : RegWrite) : Bool :=
  match w.block, w.writer with
  | .partition, .monitor => true
  | .guest, .guest => true
  | .partition, _ => false
  | .guest, _ => false
  | _, .hypervisor => true
  | _, .plugin _ => true
  | _, _ => false

/-- In recovery firmware serves nothing but command 1 of the mailbox: no command of `VCMD`, and no write of the monitor (R432). -/
def State.served (s : State) (w : RegWrite) : Bool := s.module.svc != 0 || !(w.block == .partition || (w.block == .vdev && w.offset == 0x38))

/-- The write is the host's through the physical function, and has its place among the host's posted writes (R138, R430). -/
def posted (w : RegWrite) : Bool := w.writer == .hypervisor

/-- A write leaves the queue of those that have arrived. -/
def State.takeWrite (s : State) (w : RegWrite) : State :=
  { s with regWrites := s.regWrites.erase w, arrivals := if posted w then s.arrivals.tail else s.arrivals }

/-- What becomes of a write: one that may not reach its block is counted (R427), a plug-in's outside its confinement is a violation and
one of a stopped plug-in does nothing (R432), and so does one that recovery does not serve. -/
def State.passWrite (s : State) (w : RegWrite) (f : RegWrite → State → State) : State :=
  match w.writer with
  | .plugin p =>
    if s.module.isStopped p then s
    else if !(writeAllowed w && s.tenantBlock p w.block w.index) then s.violates p
    else if s.served w then f w s else s
  | _ => if !writeAllowed w then s.countRefused else if s.served w then f w s else s

/-- A write that an event takes, once the memory accesses of the host that arrived before it have been performed (R138). `mine` says that
the event is the one for this register. -/
def onWrite (s : State) (mine : RegWrite → Bool) (f : RegWrite → State → State) : Result :=
  match s.actor with
  | .access w => if mine w && !(posted w && s.arrivals.head? == some true) then .next ((s.takeWrite w).passWrite w f) else .next s
  | _ => .next s

/-- A register of a partition or a device replaced. -/
def State.setPctl (s : State) (p off : Nat) (v : DWord) : State := s.withPartition p fun x => { x with ctl := x.ctl.put off v }

/-- Another partition sets one of the bits of a mask register (R404). -/
def State.maskTaken (s : State) (p off : Nat) (v : DWord) : Bool :=
  s.partitions.any fun x => x.1 != p && x.2.ctl.get off 0 &&& v != 0

/-- The memory ranges of a partition obey R404: HBM within its channel groups, the second tier within its range of module addresses and
apart from every other partition's. -/
def State.tiersOk (s : State) (p : Nat) : Bool :=
  let hb := s.pbase p .hbm
  let hn := s.pbound p .hbm
  let sb := s.pbase p .second
  let sn := s.pbound p .second
  let grp := (s.partition p).ctl.get 8 0
  (hn == 0 || (decide (hb + hn ≤ 2 ^ 39) && (groupsOf hb hn).all fun g => grp.getLsbD g))
    && (sn == 0 || (decide (2 ^ 44 ≤ sb ∧ sb + sn ≤ 2 ^ 44 + secondBytes)
          && s.partitions.all fun x => x.1 == p || s.pbound x.1 .second == 0
                || decide (sb + sn ≤ s.pbase x.1 .second ∨ s.pbase x.1 .second + s.pbound x.1 .second ≤ sb)))

/-- The windows of a device lie inside the bounds of a partition (R20). -/
def State.windowsFit (s : State) (d : Device) (p : Nat) : Bool :=
  [Tier.hbm, Tier.second, Tier.host].all fun t =>
    let lo := (d.xlate.get (0x10 + 0x10 * t.code) 0).toNat
    let hi := (d.xlate.get (0x18 + 0x10 * t.code) 0).toNat
    decide (hi ≤ lo ∨ hi ≤ s.pbound p t)

/-- Every window of the devices that name a partition lies inside its bounds (R20). -/
def State.windowsOk (s : State) (p : Nat) : Bool := (s.devices.filter fun d => d.2.part == p).all fun d => s.windowsFit d.2 p

/-- A checkpoint of a device of a partition is running. -/
def State.checkpointing (s : State) (p : Nat) : Bool := s.devices.any fun d => d.2.part == p && d.2.ckpt.isSome

/-- The shares of the checkpoint store obey R404. -/
def State.sharesOk (s : State) (p : Nat) : Bool :=
  let share (q : Nat) : Nat × Nat := (bits ((s.partition q).ctl.get 0x60 0) 0 12, bits ((s.partition q).ctl.get 0x68 0) 0 12)
  let me := share p
  decide (me.1 + me.2 ≤ 1862) && s.partitions.all fun x =>
    x.1 == p || me.2 == 0 || (share x.1).2 == 0 || decide (me.1 + me.2 ≤ (share x.1).1 ∨ (share x.1).1 + (share x.1).2 ≤ me.1)

/-- A write to a partition block (R403, R404), `PLLCW` apart. -/
def State.writePartition (s : State) (w : RegWrite) : State :=
  let p := w.index
  let x := s.partition p
  let used := !(s.devicesOf p).isEmpty
  let put (m : DWord) : State := s.setPctl p w.offset (w.value &&& m)
  let keepIf (ok : Bool) (t : State) : State := if ok then t else s
  let old := x.ctl.get w.offset 0
  let clears (m : DWord) : Bool := used && old &&& ~~~(w.value &&& m) != 0
  let mask (m : DWord) (more : State → Bool) : State :=
    let t := put m
    keepIf (!s.maskTaken p w.offset (w.value &&& m) && !clears m && more t) t
  if Config.partitions ≤ p then s
  else match w.offset with
  | 0x00 => mask (lowMask 24) fun t =>
      decide (maskCount (w.value &&& lowMask 24) ≤ maskCount old)
        || (t.devicesOf p).all fun d => t.quantumOk d.2 (t.coreCount p)
            && decide (3 * t.coreCount p ≤ bits (d.2.trap.get 0x18 0) 0 32)
  | 0x08 => mask (lowMask 32) fun t => t.tiersOk p
  | 0x18 => mask (lowMask 64) fun _ => true
  | 0x20 => mask (lowMask 64) fun _ => true
  | 0x60 => let t := put (lowMask 12); keepIf (t.sharesOk p && !s.checkpointing p) t
  | 0x68 => let t := put (lowMask 12); keepIf (t.sharesOk p && !s.checkpointing p) t
  | o =>
    if o = 0x30 ∨ o = 0x40 ∨ o = 0x50 then
      let t := put mib2Mask
      keepIf (t.tiersOk p && !(used && old != w.value &&& mib2Mask)) t
    else if o = 0x38 ∨ o = 0x48 ∨ o = 0x58 then
      let t := put mib2Mask
      keepIf (t.tiersOk p && t.windowsOk p) t
    else s

/-- A write to a version control block (R98, R99). -/
def State.writeVersion (s : State) (w : RegWrite) : State :=
  let p := w.index
  let used := s.recordsUsed p true != 0 || s.recordsUsed p false != 0
  let put (m : DWord) : State := s.withPartition p fun x => { x with ver := x.ver.put w.offset (w.value &&& m) }
  let inside (t : State) (base count : Nat) (tier : Tier) : Bool :=
    let v := (t.partition p).ver
    let n := 256 * bits (v.get count 0) 0 32
    n == 0 || decide ((v.get base 0).toNat + n ≤ t.pbound p tier)
  let keepIf (ok : State → Bool) (t : State) : State := if ok t then t else s
  if Config.partitions ≤ p then s
  else match w.offset with
  | 0x00 => keepIf (fun t => !used && inside t 0 8 .hbm) (put mib2Mask)
  | 0x08 => keepIf (fun t => !used && inside t 0 8 .hbm) (put (lowMask 32))
  | 0x10 => keepIf (fun t => !used && inside t 0x10 0x18 .second) (put mib2Mask)
  | 0x18 => keepIf (fun t => decide (s.recordsUsed p false ≤ bits w.value 0 32) && inside t 0x10 0x18 .second) (put (lowMask 32))
  | 0x30 => put (lowMask 8)
  | _ => s

/-- A control register of a device replaced; while its partition runs nothing it applies at once. -/
def State.setCtl (s : State) (v off : Nat) (x : DWord) : State :=
  s.withDevice v fun d =>
    let d1 := { d with ctl := d.ctl.put off x }
    if (s.partition d.part).running.isNone then { d1 with live := d1.ctl } else d1

/-- A write of `VCTL` (R405): PART and CLASS only in state none, and no PART above 23; nor one under whose bounds a window of the device
would not lie (R20, log 58). -/
def State.writeVctl (s : State) (v : Nat) (x : DWord) : State :=
  let d := s.device v
  let old := d.ctl.get 0 0
  let weight := x &&& bitsMask 40 8
  let moves := decide (bits x 32 5 < Config.partitions) && s.windowsFit d (bits x 32 5)
  let setup := if d.state = .none then
      (x &&& bitsMask 48 2) ||| (if moves then x &&& bitsMask 32 5 else old &&& bitsMask 32 5)
    else old &&& (bitsMask 48 2 ||| bitsMask 32 5)
  s.setCtl v 0 (weight ||| setup)

/-- A write to a virtual-device control block (R405, R409, R420), commands and wakes apart. -/
def State.writeVdev (s : State) (w : RegWrite) : State :=
  let v := w.index
  let d := s.device v
  let checked (m : DWord) : State :=
    let x := w.value &&& m
    if s.changeOk v d { d with ctl := d.ctl.put w.offset x } then s.setCtl v w.offset x else s
  if Config.vds ≤ v then s
  else match w.offset with
  | 0x00 => s.writeVctl v w.value
  | 0x08 => checked (lowMask 32)
  | 0x18 => checked (bitsMask 63 1 ||| lowMask 32)
  | 0x20 => s.setCtl v 0x20 (w.value &&& (bitsMask 63 1 ||| lowMask 32))
  | 0x28 => s.setCtl v 0x28 (w.value &&& lowMask 32)
  | 0x30 =>
    let x := w.value &&& lowMask 32
    let d1 := { d with ctl := d.ctl.put 0x30 x }
    if (d.state = .none ∨ (d.state = .active ∧ s.groupsFree v d1 = true)) ∧ (d.cls ≠ 3 ∨ s.classOk v d1 = true) then s.setCtl v 0x30 x
    else s
  | 0x40 => s.setCtl v 0x40 w.value
  | _ => s

/-- A write to a translation control block (R20, R24, R25), `GROOT` and `TINV` apart. `TINVVA` takes any address, and reads back all its
bits, the ignored ones too (DESIGN CHOICE, log 73). -/
def State.writeXlate (s : State) (w : RegWrite) : State :=
  let v := w.index
  let d := s.device v
  if Config.vds ≤ v then s
  else if w.offset = 0x48 then s.withDevice v fun x => { x with xlate := x.xlate.put 0x48 w.value }
  else if 0x10 ≤ w.offset ∧ w.offset < 0x40 ∧ w.offset % 8 = 0 then
    let d1 := { d with xlate := d.xlate.put w.offset (w.value &&& mib2Mask) }
    let t := s.withDevice v fun _ => d1
    let tier := (tierOf (w.offset / 0x10 - 1)).getD .hbm
    let lo := (d1.xlate.get (0x10 + 0x10 * tier.code) 0).toNat
    let hi := (d1.xlate.get (0x18 + 0x10 * tier.code) 0).toNat
    if (hi ≤ lo ∨ hi ≤ s.pbound d.part tier) ∧ (tier ≠ .hbm ∨ s.changeOk v d d1 = true) then t else s
  else s

/-- A write to a cache control block (R68 to R70). -/
def State.writeCache (s : State) (w : RegWrite) : State :=
  let put (m : DWord) : State := s.withDevice w.index fun d => { d with cache := d.cache.put w.offset (w.value &&& m) }
  if Config.vds ≤ w.index then s
  else if (w.offset < 0x20 ∨ (0x40 ≤ w.offset ∧ w.offset < 0x60)) ∧ w.offset % 8 = 0 then put (bitsMask 63 1 ||| lowMask 22)
  else if w.offset = 0x80 then put (bitsMask 8 4 ||| lowMask 4)
  else s

/-- A partition-relative HBM range lies in a device's window as its registers give it, or is empty (R19, R170, R388). -/
def Device.inHbm (d : Device) (lo hi : Nat) : Bool :=
  decide (hi ≤ lo ∨ ((d.xlate.get 0x10 0).toNat ≤ lo ∧ hi ≤ (d.xlate.get 0x18 0).toNat))

/-- A write to a fabric control block (R166, R167, R170, R175). -/
def State.writeFabric (s : State) (w : RegWrite) : State :=
  let v := w.index
  let d := s.device v
  let set (m : DWord) : Device := { d with fabric := d.fabric.put w.offset (w.value &&& m) }
  let keep (ok : Bool) (x : Device) : State := if ok then s.withDevice v fun _ => x else s
  let hasp : State :=
    let x := set (bitsMask 12 34)
    keep (x.inHbm (x.fabric.get 0x10 0).toNat (x.fabric.get 0x18 0).toNat && s.changeOk v d x) x
  if Config.vds ≤ v then s
  else match w.offset with
  | 0x08 => keep (d.job.isNone && canonical (w.value &&& ~~~(lowMask 21)).toNat) (set (~~~(lowMask 21)))
  | 0x10 => hasp
  | 0x18 => hasp
  | 0x20 => keep (canonical (w.value &&& ~~~(lowMask 12)).toNat) (set (~~~(lowMask 12) ||| 1#64))
  | 0x28 => keep (canonical (w.value &&& ~~~(lowMask 12)).toNat) (set (~~~(lowMask 12) ||| lowMask 5))
  | _ => s

/-- A group of a device exists: resident, waiting, halted, spilled or replayable (R23, R388). -/
def State.hasGroups (s : State) (v : Nat) : Bool :=
  s.allGroups.any (fun g => s.vdOf g.2.2 == v) || s.allGangs.any fun y => s.gangVd y.2.2 == v && !y.2.2.saved.groups.isEmpty

/-- A write to a trap control block (R388, R409, R420). -/
def State.writeTrap (s : State) (w : RegWrite) : State :=
  let v := w.index
  let d := s.device v
  let set (m : DWord) : Device := { d with trap := d.trap.put w.offset (w.value &&& m) }
  let save (m : DWord) : State :=
    let x := set m
    let a := x.saveBase
    if s.hasGroups v = false ∧ x.inHbm a (a + 2 ^ 21 * bits (x.trap.get 0x18 0) 0 32) = true ∧ s.changeOk v d x = true then
      s.withDevice v fun _ => x
    else s
  if Config.vds ≤ v then s
  else match w.offset with
  | 0x00 => if canonical (w.value &&& ~~~3#64).toNat then s.withDevice v fun _ => set (~~~2#64) else s
  | 0x08 => s.withDevice v fun _ => set 1#64
  | 0x10 => save mib2Mask
  | 0x18 => save (lowMask 32)
  | _ => s

/-- A write to a queue and checkpoint block (R429, R436), `SQTAIL` and the start of a checkpoint apart. -/
def State.writeQueue (s : State) (w : RegWrite) : State :=
  let v := w.index
  let d := s.device v
  let put (x : DWord) : State := s.withDevice v fun y => { y with queue := y.queue.put w.offset x }
  if Config.vds ≤ v then s
  else if w.offset < 0x80 ∧ w.offset % 0x20 = 0 then
    let q := w.offset / 0x20
    if d.sqHead q = d.sqTail q then put (w.value &&& (bitsMask 10 36 ||| lowMask 4)) else s
  else match w.offset with
  | 0x80 => put (w.value &&& (bitsMask 63 1 ||| lowMask 48))
  | 0x88 => put w.value
  | 0x90 => put w.value
  | _ => s

/-- Bytes of the mailbox written (R431). -/
def Module.setMbox (m : Module) (off : Nat) (bs : List Byte) : Module := { m with mbox := m.mbox.writeAll off bs }

/-- A command written to the mailbox (R433): while another is in progress it is answered with status 4, and one that firmware does not
know with status 2; else it begins. In recovery only command 1 is served (R432). -/
def Module.command (m : Module) (c : Nat) : Module :=
  if m.cmd.isSome then m.setMbox 4 (toBytes 4 4)
  else if c = 1 ∨ (c = 2 ∧ m.svc ≠ 0) then { m.setMbox 4 (toBytes 4 0) with cmd := some c }
  else if m.svc = 0 then m
  else m.setMbox 4 (toBytes 4 2)

/-- The answer to the command in progress: firmware writes the status last (R433). -/
def Module.answer (m : Module) (status : Nat) : Module := { m.setMbox 4 (toBytes 4 status) with cmd := none }

/-- A write to the module block (R431, R433). -/
def State.writeModule (s : State) (w : RegWrite) : State :=
  if w.offset = 0x18 then s.withModule fun m => { m with elogBase := w.value &&& (~~~(lowMask 13) ||| 1#64) }
  else if 0x100 ≤ w.offset ∧ w.offset + 8 ≤ 0x1000 then
    s.withModule fun m =>
      let m1 := m.setMbox (w.offset - 0x100) (toBytes 8 w.value.toNat)
      if w.offset = 0x100 then m1.command (bits w.value 0 32) else m1
  else s

/-- The commands of `VCMD` that have an event of their own (R406). -/
def knownCmd (v : DWord) : Bool := decide (1 ≤ bits v 0 8 ∧ bits v 0 8 ≤ 9)

/-- An unassigned command, or any command while another runs (R406, R407). -/
def State.badCommand (s : State) (w : RegWrite) : State :=
  if Config.vds ≤ w.index then s
  else s.withDevice w.index fun d => { d with status := 1, ctl := if d.busy then d.ctl else d.ctl.put 0x38 (w.value &&& lowMask 8) }

/-- The write has an event of its own. -/
def writeSpecial (w : RegWrite) : Bool :=
  match w.block, w.offset with
  | .partition, 0x10 => true
  | .keeper, _ => true
  | .xlate, 0x00 => true
  | .xlate, 0x40 => true
  | .vdev, 0x38 => knownCmd w.value
  | .vdev, 0x48 => true
  | .guest, 0x00 => true
  | .guest, 0x08 => true
  | .guest, 0x10 => true
  | .queue, o => o == 0x08 || o == 0x28 || o == 0x48 || o == 0x68 || (o == 0x98 && bits w.value 0 8 == 1)
  | _, _ => false

/-- REGISTER_WRITE: a write of a register without an event of its own. -/
def execRegisterWrite (s : State) : Result :=
  onWrite s (fun w => !writeSpecial w) fun w t =>
    match w.block with
    | .module => t.writeModule w
    | .partition => t.writePartition w
    | .version => t.writeVersion w
    | .vdev => if w.offset = 0x38 then t.badCommand w else t.writeVdev w
    | .xlate => t.writeXlate w
    | .cache => t.writeCache w
    | .fabric => t.writeFabric w
    | .trap => t.writeTrap w
    | .queue => t.writeQueue w
    | _ => t

/-! ## Registers with events of their own -/

/-- KCTL_WRITE (R72, R73): writing EN = 0 ends the keeper; the other keeper registers ignore writes. -/
def execKctlWrite (s : State) : Result :=
  onWrite s (fun w => w.block == .keeper) fun w t =>
    if w.offset % 0x20 = 0x10 ∧ w.offset < 0x100 ∧ w.index < Config.dies ∧ w.value.getLsbD 63 = false then
      t.endKeeper w.index (w.offset / 0x20)
    else t

/-- PLLCW_WRITE (R404): lines in ways that the mask loses are written back and invalidated. -/
def execPllcwWrite (s : State) : Result :=
  onWrite s (fun w => w.block == .partition && w.offset == 0x10) fun w t =>
    let v := w.value &&& lowMask 24
    let lost := (t.partition w.index).ctl.get 0x10 0 &&& ~~~v
    if Config.partitions ≤ w.index ∨ t.maskTaken w.index 0x10 v = true then t
    else
      { (t.setPctl w.index 0x10 v) with slices := t.slices.mapAll fun _ x =>
          { x with sets := x.sets.mapAll fun _ ls => ls.filter fun y => !lost.getLsbD y.way } }

/-- The page of a walk's result, or the 4 KiB page that it was made for, lies in a range. -/
def walkedIn (lo hi : Nat) (r : Nat × WalkResult) : Bool :=
  match r.2 with
  | .page p => decide (p.base < hi ∧ lo < p.base + p.size)
  | .fault _ => decide (r.1 * 4096 < hi ∧ lo < r.1 * 4096 + 4096)

/-- Every translation of a device in a range of pages removed (R23, R26): from the TLBs, the non-leaf caches and the results that groups,
in their places or spilled, hold. -/
def State.dropTranslations (s : State) (v lo hi : Nat) : State :=
  let s1 := { s with
    cores := s.cores.mapAll fun _ x => x.tlbRemove v lo hi,
    dies := s.dies.mapAll fun _ d =>
      { d with nonleaf := d.nonleaf.filter fun e =>
          !(e.vd == v && decide (e.index * 2 ^ (12 + 9 * e.level) < hi ∧ lo < (e.index + 1) * 2 ^ (12 + 9 * e.level))) } }
  s1.mapAllGroups fun g => if s.vdOf g = v then { g with walked := g.walked.filter fun r => !walkedIn lo hi r } else g

/-- TINV_WRITE (R25, R26). -/
def execTinvWrite (s : State) : Result :=
  onWrite s (fun w => w.block == .xlate && w.offset == 0x40) fun w t =>
    let v := w.index
    let mode := bits w.value 61 2
    if Config.vds ≤ v then t
    else if (t.device v).tinv.isSome ∨ 2 ≤ mode then t.withDevice v fun d => { d with tinvErr := true }
    else
      let base := ((t.device v).xlate.get 0x48 0).toNat / 4096 * 4096
      let n := bits w.value 0 32
      let r : Nat × Nat := if mode = 0 then (0, 2 ^ 64) else if n = 0 then (0, 0) else (base, base + 4096 * n)
      (t.dropTranslations v r.1 r.2).withDevice v fun d =>
        { d with tinv := some r, tinvErr := false, xlate := d.xlate.put 0x40 (w.value &&& (bitsMask 61 2 ||| lowMask 32)) }

/-- Every access of a device that was translated through a removed entry has performed: no store waits in a queue, no request is on its
way, no commit that has locked its lines waits for the next window, and no engine operation holds a page of the range. -/
def State.translationsOver (s : State) (v lo hi : Nat) : Bool :=
  !(s.cores.any fun c => c.2.stores.any fun e => e.vd == v)
    && !(s.requests.any fun r => r.vd == v && (match r.kind with
      | .load _ _ _ => false
      | .writeBack _ _ => false
      | _ => true))
    && !(s.cores.any fun c =>
      let commits (g : Nat × Group) : Bool := s.vdOf g.2 == v && g.2.wait == some .commit
      c.2.groups.any commits || c.2.gangs.any fun y => y.2.saved.groups.any commits)
    && !(s.ops.any fun o => o.2.vd == v && o.2.pages.any fun p => decide (p.base < hi ∧ lo < p.base + p.size))

/-- TINV_COMPLETE (R26); the object is the device. A walk reads its entries only when it ends, so none is left to restart. Ranges that
are no longer mapped with VER = 1 are forgotten (R78, log 74). -/
def execTinvComplete (s : State) : Result :=
  let (v, _, _) := s.object
  match (s.device v).tinv with
  | some (lo, hi) =>
    if s.translationsOver v lo hi then .next ((s.recheckPages v).withDevice v fun d => { d with tinv := none }) else .next s
  | none => .next s

/-- GROOT_WRITE (R23). -/
def execGrootWrite (s : State) : Result :=
  onWrite s (fun w => w.block == .xlate && w.offset == 0x00) fun w t =>
    let v := w.index
    if Config.vds ≤ v ∨ t.hasGroups v = true ∨ t.launches.any (fun l => l.2.vd == v) = true then t
    else (t.dropTranslations v 0 (2 ^ 64)).withDevice v fun d => { d with xlate := d.xlate.put 0 (w.value &&& (bitsMask 10 36 ||| 1#64)) }

/-- A wake write (R419): it wakes a collapsed device, is held by a collapsing one, and is ignored otherwise. -/
def Device.wake (d : Device) : Device :=
  match d.state with
  | .collapsed => { d with state := .waking }
  | .collapsing => { d with wakeHeld := true }
  | _ => d

/-- VWAKE_WRITE (R419). -/
def execVwakeWrite (s : State) : Result :=
  onWrite s (fun w => w.block == .vdev && w.offset == 0x48) fun w t =>
    if w.index < Config.vds then t.withDevice w.index Device.wake else t

/-- GWAKE_WRITE (R428). -/
def execGwakeWrite (s : State) : Result :=
  onWrite s (fun w => w.block == .guest && w.offset == 0x00) fun w t =>
    if w.index < Config.vds then t.withDevice w.index Device.wake else t

/-- GEND_WRITE (R428, R223). -/
def execGendWrite (s : State) : Result :=
  onWrite s (fun w => w.block == .guest && w.offset == 0x08) fun w t =>
    ((t.launches.filter fun l => l.2.vd == w.index && pkDone l.2.pkt == w.value.toNat).map (·.1)).foldl (fun a l => a.endLaunch l 1) t

/-- GDOOR_WRITE (R428): the vectors at the physical function are numbered 4 × device + queue. -/
def execGdoorWrite (s : State) : Result :=
  onWrite s (fun w => w.block == .guest && w.offset == 0x10) fun w t => { t with msix := t.msix ++ [4 * w.index + bits w.value 0 2] }

/-- SQTAIL_WRITE (R429, R430, R419). -/
def execSqtailWrite (s : State) : Result :=
  onWrite s (fun w => w.block == .queue && writeSpecial w && w.offset != 0x98) fun w t =>
    let v := w.index
    let q := w.offset / 0x20
    let d := t.device v
    let tail := bits w.value 0 32
    if Config.vds ≤ v ∨ d.sqSlots q < (tail + 2 ^ 32 - d.sqHead q) % 2 ^ 32 then t
    else
      t.withDevice v fun x =>
        let y := { x with queue := x.queue.put w.offset (BitVec.ofNat 64 tail) }
        if (List.range 4).any fun i => y.sqHead i != y.sqTail i then y.wake else y

end Sys2Proof.Machine
end

