-- ==== Sys2Proof/Machine/Devices.lean ====
section
/-! DEFINITION. The commands of a virtual device (spec/16, R406 to R410, R413, R414), idle collapse and wakes (R416 to R419), budgets
(R412), the entry of windows by a join or a device without one (R127, R414), and the fence of a device (R401). Windows entered one by
one and migration follow in the next file. -/

namespace Sys2Proof.Machine

open Sys2Proof

/-! ## Commands (R406, R407) -/

/-- A command that ends: BUSY clears and STATUS is set. -/
def State.cmdDone (s : State) (v status : Nat) : State := s.withDevice v fun d => { d with busy := false, status := status }

/-- A command that goes on: BUSY is set. -/
def State.cmdBusy (s : State) (v : Nat) : State := s.withDevice v fun d => { d with busy := true }

/-- A write of command n to `VCMD`: with BUSY = 1 it only sets STATUS to 1. -/
def onCommand (s : State) (n : Nat) (f : Nat → State → State) : Result :=
  onWrite s (fun w => w.block == .vdev && w.offset == 0x38 && bits w.value 0 8 == n) fun w t =>
    let v := w.index
    if Config.vds ≤ v then t
    else if (t.device v).busy then t.withDevice v fun d => { d with status := 1 }
    else f v (t.withDevice v fun d => { d with ctl := d.ctl.put 0x38 (w.value &&& lowMask 8) })

/-! ## Create (R408, R409, R420) -/

/-- The status of a create: conditions 2 to 5 in order. -/
def State.createStatus (s : State) (v : Nat) : Nat :=
  let d := s.device v
  let n := s.coreCount d.part
  if d.quantumUs = 0 then 2
  else if !s.quantumOk d n then 3
  else if bits (d.trap.get 0x18 0) 0 32 < 3 * n then 4
  else if d.cls = 0 ∨ s.groupsFree v d = false ∨ (d.cls = 3 ∧ s.classOk v d = false) then 5
  else 0

/-- A device as a create finds it and a destroy leaves it: its registers stay as written. -/
def Device.cleared (d : Device) : Device :=
  { Device.reset with xlate := d.xlate, cache := d.cache, fabric := d.fabric.del 0, trap := d.trap, ctl := d.ctl, queue := d.queue,
                      busy := d.busy, status := d.status, tinv := d.tinv, tinvErr := d.tinvErr, ckStatus := d.ckStatus }

/-- VD_CREATE: the window counter starts at window 0 with a nominal start now (R414). -/
def execVdCreate (s : State) : Result :=
  onCommand s 1 fun v t =>
    let d := t.device v
    if d.state ≠ .none then t.cmdDone v 6
    else if t.createStatus v ≠ 0 then t.cmdDone v (t.createStatus v)
    else (t.withDevice v fun x => { x.cleared with state := .active, wStart := t.ptp, budgetAt := t.ptp, live := x.ctl }).cmdDone v 0

/-! ## Destroy (R410) and fencing (R401) -/

/-- Operations that a device holds are refused (R354, status 5); forwarded ones that have not come are answered when they do. -/
def State.answerHeld (s : State) (v : Nat) : State :=
  let d := s.device v
  (d.held.map (·.1) ++ d.forward.filter fun x => !x.forwarded).foldl (fun a x => a.answer x 5 0 [])
    (s.withDevice v fun y => { y with held := [], forward := [] })

/-- A device leaves its job: `FJOB` is cleared, its connections are closed, and no traffic of the job is left. -/
def State.leaveJob (s : State) (v : Nat) : State :=
  (s.answerHeld v).withDevice v fun d => { d with
    job := none, fabric := d.fabric.del 0, conns := [], markers := [], performed := [], sent := [], given := [], unsent := [],
    done := [] }

/-- The keepers of a device end (R60). -/
def State.endKeepers (s : State) (v : Nat) : State :=
  (s.dies.flatMap fun d => (d.2.keepers.filter fun k => k.2.en && k.2.vd == v).map fun k => (d.1, k.1)).foldl
    (fun a k => a.endKeeper k.1 k.2) s

/-- A checkpoint ends with a status; its key is released (R437). -/
def State.endCheckpoint (s : State) (v status : Nat) : State :=
  let d := s.device v
  match d.ckpt with
  | none => s
  | some k => (if k.opened then s.dropHold d.part k.entry else s).withDevice v fun x => { x with ckpt := none, ckStatus := status }

/-- Every launch of a device is ended with a DETAIL (R223). -/
def State.endLaunches (s : State) (v detail : Nat) : State :=
  ((s.launches.filter fun l => l.2.vd == v).map (·.1)).foldl (fun a l => a.endLaunch l detail) s

/-- The queues of a device hold nothing any more. -/
def State.dropQueues (s : State) (v : Nat) : State :=
  let p := (s.device v).part
  (s.withPartition p fun x => { x with waiting := x.waiting.filter fun w => w.1 != v }).withDevice v fun d =>
    { d with launchQueue := [], taken := [], granted := [] }

/-- The states in which a destroy is valid. -/
def DevState.destroyable : DevState → Bool
  | .active => true
  | .collapsed => true
  | .frozen => true
  | .lost => true
  | _ => false

/-- VD_DESTROY: the command goes on until the removal of translations is complete. -/
def execVdDestroy (s : State) : Result :=
  onCommand s 2 fun v t =>
    if !(t.device v).state.destroyable then t.cmdDone v 6
    else (((((t.endLaunches v 3).dropQueues v).endKeepers v).endCheckpoint v 5).leaveJob v).dropTranslations v 0 (2 ^ 64) |>.cmdBusy v

/-- Nothing of a destroyed device is left: its launches have retired, and its operations have completed. -/
def State.destroyOver (s : State) (v : Nat) : Bool :=
  !(s.launches.any fun l => l.2.vd == v) && !(s.ops.any fun o => o.2.vd == v) && s.translationsOver v 0 (2 ^ 64)

/-- VD_DESTROY_COMPLETE: STATE becomes none; the object is the device. -/
def execVdDestroyComplete (s : State) : Result :=
  let (v, _, _) := s.object
  if (s.device v).dying && s.destroyOver v then
    let s1 := s.dropTranslations v 0 (2 ^ 64)
    let s2 := { s1 with dies := s1.dies.mapAll fun _ d => { d with misses := d.misses.filter fun m => m.vd != v } }
    .next (({ s2 with verPages := s2.verPages.filter fun x => x.1 != v }.withDevice v fun d => d.cleared).cmdDone v 0)
  else .next s

/-- A device is fenced and lost (R401, R435): every launch ends without a record or a header, and firmware reports it. A destroy that runs
goes on. -/
def State.fence (s : State) (v : Nat) : State :=
  let d := s.device v
  if d.state = .none ∨ d.state = .lost then s
  else
    let s1 := s.withDevice v fun x => { x with state := .lost, cut := none, busy := x.dying }
    let s2 := (((s1.endLaunches v 2).dropQueues v).endCheckpoint v 5).answerHeld v
    { s2 with driver := s2.driver ++ [.fenced v] }

/-! ## Windows entered directly, and what every entry of a window does -/

/-- Live keys that lie 2^30 windows behind are revoked (R94). -/
def State.revokeAged (s : State) (part : Nat) : State :=
  match s.partWindow part with
  | none => s
  | some c =>
    ((s.partition part).snaps.filter fun e => farBehind c (keyWindow e.2.key)).foldl (fun a e => a.revokeEntry part e) s

/-- The collector goes round a partition whenever its window enters another multiple of 2^16, so that no reclaimable version stands for
2^16 windows, and no stamp 2^31 windows behind is left (R93, R94). `old` is the window before. -/
def State.sweepAt (s : State) (part : Nat) (old : Option Nat) : State :=
  if (s.partWindow part).map (· / 2 ^ 16) = old.map (· / 2 ^ 16) then s else s.sweep part

/-- A checkpoint ends, or does not begin, with a status. -/
def State.ckptStatus (s : State) (v status : Nat) : State := s.withDevice v fun d => { d with ckpt := none, ckStatus := status }

/-- Pages that a shard may lie in, with the pieces. -/
def State.shardPieces (s : State) (v : Nat) (x : Nat × Nat) : Option (List Piece) :=
  match s.translateAgent v .snapshot x.1 x.2 with
  | .ok ps => if ps.all fun p => p.page.ver then some ps else none
  | _ => none

/-- The shard list of a device (R436): none when it is not of the stated form or a shard fails (status 2). -/
def State.shardList (s : State) (v : Nat) : Option (List (Nat × Nat)) :=
  let a := ((s.device v).queue.get 0x88 0).toNat
  let bytes (off n : Nat) : List Byte := s.readMem .hbm (s.reloc v .hbm (a + off)) n
  let n := ofBytes (bytes 0 8)
  if a % 64 ≠ 0 ∨ !s.inWindow v .hbm a 8 ∨ n = 0 ∨ 4096 < n ∨ !s.inWindow v .hbm a (8 + 16 * n) then none
  else
    let xs := (List.range n).map fun i => (ofBytes (bytes (8 + 16 * i) 8), ofBytes (bytes (16 + 16 * i) 8))
    if xs.all fun x => decide (128 ≤ x.2) && x.2 % 128 == 0 && (s.shardPieces v x).isSome then some xs else none

/-- A walk for a shard waits for a locked line of a table (R78). -/
def State.shardsWait (s : State) (v : Nat) (xs : List (Nat × Nat)) : Bool := xs.any fun x => (s.translateAgent v .snapshot x.1 x.2).waits

/-- The shards that the list of a device names, whether they pass their checks or not. -/
def State.listed (s : State) (v : Nat) : List (Nat × Nat) :=
  let a := s.reloc v .hbm ((s.device v).queue.get 0x88 0).toNat
  (List.range (min (s.readNat .hbm a 8) 4096)).map fun i => (s.readNat .hbm (a + 8 + 16 * i) 8, s.readNat .hbm (a + 16 + 16 * i) 8)

/-- The bytes of the list that `CKLIST` names, as far as the partition has them. -/
def State.listSpan (s : State) (v : Nat) : Nat × Nat :=
  let a := ((s.device v).queue.get 0x88 0).toNat
  let m := s.reloc v .hbm a
  if !s.inWindow v .hbm a 8 then (m, 0)
  else
    let n := 8 + 16 * min (s.readNat .hbm m 8) 4096
    (m, if s.inWindow v .hbm a n then n else 8)

/-- The window of the key that `CKKEY` names. -/
def Device.ckWindow (d : Device) : Nat :=
  let r := d.queue.get 0x80 0
  if r.getLsbD 63 then winAdd d.window (-2) else keyWindow (bits r 0 48)

/-- Steps 3 and 4 of R437, under the key that step 2 holds: the shards are checked, once no line of the list or of a table that they
need is locked (R78). -/
def State.checkShards (s : State) (v : Nat) : State :=
  let d := s.device v
  let share := bits ((s.partition d.part).ctl.get 0x68 0) 0 12 * 2 ^ 30
  let sp := s.listSpan v
  if (s.lockedAt .hbm sp.1 sp.2).isSome || s.shardsWait v (s.listed v) then s
  else
    let t := s.chargeRead v sp.1 sp.2
    match s.shardList v with
    | none => t.endCheckpoint v 2
    | some xs =>
      if share < xs.foldl (fun a x => a + x.2) 0 then t.endCheckpoint v 3
      else t.withDevice v fun x => { x with ckpt := x.ckpt.map fun k => { k with checked := true, shards := xs } }

/-- Steps 2 to 4 of R437: the key is opened, or waited for; once it is held, the shards are checked. -/
def State.openCheckpoint (s : State) (v m : Nat) : State :=
  let d := s.device v
  let k : Checkpoint := { opened := false, checked := false, entry := 0, key := keyOf m, shards := [], dst := (d.queue.get 0x90 0).toNat }
  match s.openResult d.part d.window m with
  | .refused st => s.ckptStatus v (16 + st)
  | .wait _ => s.withDevice v fun x => { x with ckpt := some k }
  | .opened e =>
    ((s.addHold d.part e (keyOf m)).withDevice v fun x => { x with ckpt := some { k with opened := true, entry := e } }).checkShards v

/-- A `snapo` that waits for a window to close is performed when it has (R83). -/
def State.serveSnapo (s : State) (c k : Nat) (g : Group) : State :=
  match decode g.clause.cls (g.clause.words.drop g.clause.idx) with
  | .ok (.snapo o, n) =>
    match execSnapo o { s.setGroup c k (g.endWait.withLen n) with actor := .group c k } with
    | .next t => { t.withGroup c k Group.pass with actor := s.actor }
    | _ => s
  | _ => s

/-- A group waits for the window of a key that a device has closed. -/
def Group.keyReady (g : Group) (window : Nat) : Bool :=
  g.phase == .waiting && (match g.wait with
    | some (.snapshot m) => winLe (winAdd m 2) window
    | _ => false)

/-- The opens of a device that wait for a window are performed once it is closed, before a further window is entered (R83): those of
groups, of acceptances, of a checkpoint. -/
def State.serveOpens (s : State) (v : Nat) : State :=
  let d := s.device v
  let s1 := (s.allGroups.filter fun g => s.vdOf g.2.2 == v && g.2.2.keyReady d.window).foldl (fun a g => a.serveSnapo g.1 g.2.1 g.2.2) s
  let s2 := if d.takes then d.granted.foldl (fun a q => (a.acceptFrom v q).getD a) s1 else s1
  match (s2.device v).ckpt with
  | some k =>
    if !k.opened && winLe (winAdd (keyWindow k.key) 2) d.window then s2.openCheckpoint v (keyWindow k.key) else s2
  | none => s2

/-- A device is in a new window: its commit sequence starts anew, old keys are revoked, the collector has kept its times, commits that
waited for a number are installed, and opens that waited for the window are performed (R83, R90, R93, R94). -/
def State.inNewWindow (s : State) (v m : Nat) : State :=
  let part := (s.device v).part
  let s1 := ((s.withDevice v fun d => { d with window := m, commitSeq := 1 }).revokeAged part).sweepAt part (s.partWindow part)
  let s2 := (s1.allGroups.filter fun g => s1.vdOf g.2.2 == v && g.2.2.wait == some .commit).foldl (fun a g => a.commitInstall g.1 g.2.1) s1
  s2.serveOpens v

/-! ## Join and leave (R413, R414) -/

/-- The fields of a job descriptor (R413). -/
structure JobDesc where
  jobid : Nat
  rank : Nat
  last : Nat
  wlog : Nat
  k : Nat
  t0 : Nat
  w0 : Nat
  routes : Nat
  deriving DecidableEq, Repr

def jobDesc (b : List Byte) : JobDesc :=
  { jobid := field b 0 8, rank := field b 8 2, last := field b 0x0A 2, wlog := field b 0x0C 1, k := field b 0x0D 1, t0 := field b 0x10 8,
    w0 := field b 0x18 4, routes := field b 0x20 8 }

/-- A join is refused with status 7. -/
def State.joinRefused (s : State) (v : Nat) (b : List Byte) : Bool :=
  let d := s.device v
  let j := jobDesc b
  let base := (d.fabric.get 0x08 0).toNat
  let ahead := (j.w0 + winMod - d.window) % winMod
  d.job.isSome || s.module.svc != 2 || field b 0x0E 2 != 0 || field b 0x1C 4 != 0 || field b 0x28 24 != 0
    || !decide (21 ≤ j.wlog ∧ j.wlog ≤ 48) || decide (10 < j.k) || decide (j.last < j.rank) || !canonicalRange base (2 ^ j.wlog)
    || j.routes % 32 != 0 || decide (s.pbound d.part .hbm < j.routes + 32 * (j.last + 1))
    || !decide (2 ≤ ahead ∧ ahead ≤ 2 ^ 30)

/-- `FJOB` of a member (R166). -/
def fjobWord (j : JobDesc) : DWord := BitVec.ofNat 64 (2 ^ 63 + j.wlog * 2 ^ 48 + j.rank * 2 ^ 32 + j.last * 2 ^ 16)

/-- A device joins: `FJOB` is set, and it is in W0 at once (R127, R414). -/
def State.join (s : State) (v : Nat) (j : JobDesc) : State :=
  (s.withDevice v fun d => { d with
    fabric := d.fabric.put 0 (fjobWord j), wStart := j.t0, wFirst := j.w0, wLen := 1000 * 2 ^ j.k, conns := [], markers := [],
    performed := [], sent := [], given := [], unsent := [], done := [],
    job := some { jobid := BitVec.ofNat 64 j.jobid, rank := j.rank, last := j.last, wlog := j.wlog, routes := j.routes, fresh := true } })
  |>.inNewWindow v j.w0

/-- The descriptor that a join is to read has a locked line, and the join waits (R78). -/
def State.joinHeld (s : State) : Bool :=
  match s.actor with
  | .access w =>
    let d := s.device w.index
    let a := (d.ctl.get 0x40 0).toNat
    d.state == .active && !d.busy && decide (a + 64 ≤ s.pbound d.part .hbm) && (s.lockedAt .hbm (s.reloc w.index .hbm a) 64).isSome
  | _ => false

/-- VD_JOIN. Every commit of an earlier window is installed already, since a commit takes its stamp and installs in one step. -/
def execVdJoin (s : State) : Result :=
  if s.joinHeld then .next s else
  onCommand s 3 fun v t =>
    let d := t.device v
    let a := (d.ctl.get 0x40 0).toNat
    if d.state ≠ .active then t.cmdDone v 6
    else if t.pbound d.part .hbm < a + 64 then t.cmdDone v 7
    else
      let b := t.readMem .hbm (t.reloc v .hbm a) 64
      let u := t.chargeRead v (t.reloc v .hbm a) 64
      if t.joinRefused v b then u.cmdDone v 7 else (u.join v (jobDesc b)).cmdDone v 0

/-- VD_LEAVE: the private counter goes on from c + 1, whose nominal start is now. -/
def execVdLeave (s : State) : Result :=
  onCommand s 4 fun v t =>
    let d := t.device v
    if d.state ≠ .active ∨ t.launches.any (fun l => l.2.vd == v) = true then t.cmdDone v 6
    else if d.job.isNone then t.cmdDone v 0
    else ((t.leaveJob v).withDevice v fun x => { x with wStart := t.ptp, wFirst := winAdd x.window 1, wLen := 8000 }).cmdDone v 0

/-! ## Idle collapse (R416 to R419) -/

/-- A device is idle: active, without work, engine operation or channel. -/
def State.idle (s : State) (v : Nat) : Bool :=
  let d := s.device v
  d.takes && d.cut.isNone && !s.hasWork v && !(s.ops.any fun o => o.2.vd == v)
    && !(s.hinges.any fun h => h.2.chans.any fun c => c.2.vd == v)

/-- The time at which a device became idle is kept up. -/
def State.noteIdle (s : State) (v : Nat) : State :=
  s.withDevice v fun d => { d with idleSince := if s.idle v then some (d.idleSince.getD s.ptp) else none }

/-- A device begins to collapse. -/
def State.startCollapse (s : State) (v : Nat) : State :=
  s.withDevice v fun d => { d with state := .collapsing, wakeHeld := false, idleSince := none }

/-- VD_COLLAPSE. -/
def execVdCollapse (s : State) : Result :=
  onCommand s 5 fun v t =>
    if (t.device v).state ≠ .active ∨ t.hasWork v = true then t.cmdDone v 6 else (t.startCollapse v).cmdBusy v

/-- IDLE_TIMEOUT; the object is the device. -/
def execIdleTimeout (s : State) : Result :=
  let (v, _, _) := s.object
  let d := s.device v
  let us := bits (d.live.get 0x28 0) 0 32
  match (if s.idle v then d.idleSince else none) with
  | some t => if us ≠ 0 ∧ t + 1000 * us ≤ s.ptp then .next (s.startCollapse v) else .next s
  | none => .next s

/-- The cached lines that a wake class drops: of the L2s from class 2 on, of the LLC in class 3 (R416). Their data are in memory
already. -/
def State.dropCached (s : State) (v : Nat) : State :=
  let cls := (s.device v).cls
  let s1 := if 2 ≤ cls then
      { s with dies := s.dies.mapAll fun _ d => { d with l2 := d.l2.mapAll fun _ ls => ls.filter fun y => y.vd != v } }.noteAllHolders
    else s
  if cls = 3 then
    { s1 with slices := s1.slices.mapAll fun _ x => { x with sets := x.sets.mapAll fun _ ls => ls.filter fun y => y.vd != v } }
  else s1

/-- A command that runs ends with status 0. -/
def Device.endBusy (d : Device) : Device := if d.busy then { d with busy := false, status := 0 } else d

/-- COLLAPSE_COMPLETE: a wake that was held acts at once; the object is the device. -/
def execCollapseComplete (s : State) : Result :=
  let (v, _, _) := s.object
  if (s.device v).state = .collapsing then
    .next ((s.dropCached v).withDevice v fun d =>
      { d.endBusy with state := if d.wakeHeld then .waking else .collapsed, wakeHeld := false })
  else .next s

/-- VD_WAKE. -/
def execVdWake (s : State) : Result :=
  onCommand s 6 fun v t =>
    if (t.device v).state ≠ .collapsed then t.cmdDone v 6 else (t.withDevice v Device.wake).cmdBusy v

/-- WAKE_COMPLETE; the object is the device. The operations that it holds may then be performed, in window order. -/
def execWakeComplete (s : State) : Result :=
  let (v, _, _) := s.object
  if (s.device v).state = .waking then .next (s.withDevice v fun d => { d.endBusy with state := .active }) else .next s

/-! ## Budgets (R412) -/

/-- A budget after a µs, with what was used in it: the limit is added, and 16 times the limit is its cap. -/
def budgetTick (r : DWord) (budget : Int) (used : Nat) : Int :=
  if r.getLsbD 63 then min (budget - used + bits r 0 32) (16 * bits r 0 32) else budget

/-- BUDGET_TICK: each µs; the object is the device. -/
def execBudgetTick (s : State) : Result :=
  let (v, _, _) := s.object
  let d := s.device v
  if d.state ≠ .none ∧ d.budgetAt + 1000 ≤ s.ptp then
    .next (s.withDevice v fun x => { x with
      bytes := budgetTick (x.live.get 0x18 0) x.bytes 0, energy := budgetTick (x.live.get 0x20 0) x.energy (Config.energyUsed s.tick v),
      budgetAt := x.budgetAt + 1000 })
  else .next s

end Sys2Proof.Machine
end

