-- ==== Sys2Proof/Machine/Digest.lean ====
section
/-! DEFINITION. SHA-256, which firmware computes over images, partition blocks and shards (spec/17, R432, R433, R437). The specification
names the function; its definition is the public standard FIPS 180-4 (log 26). -/

namespace Sys2Proof.Machine

open Sys2Proof

/-- The round constants. -/
def shaRounds : List Word :=
  [0x428a2f98#32, 0x71374491#32, 0xb5c0fbcf#32, 0xe9b5dba5#32, 0x3956c25b#32, 0x59f111f1#32, 0x923f82a4#32, 0xab1c5ed5#32]
    ++ [0xd807aa98#32, 0x12835b01#32, 0x243185be#32, 0x550c7dc3#32, 0x72be5d74#32, 0x80deb1fe#32, 0x9bdc06a7#32, 0xc19bf174#32]
    ++ [0xe49b69c1#32, 0xefbe4786#32, 0x0fc19dc6#32, 0x240ca1cc#32, 0x2de92c6f#32, 0x4a7484aa#32, 0x5cb0a9dc#32, 0x76f988da#32]
    ++ [0x983e5152#32, 0xa831c66d#32, 0xb00327c8#32, 0xbf597fc7#32, 0xc6e00bf3#32, 0xd5a79147#32, 0x06ca6351#32, 0x14292967#32]
    ++ [0x27b70a85#32, 0x2e1b2138#32, 0x4d2c6dfc#32, 0x53380d13#32, 0x650a7354#32, 0x766a0abb#32, 0x81c2c92e#32, 0x92722c85#32]
    ++ [0xa2bfe8a1#32, 0xa81a664b#32, 0xc24b8b70#32, 0xc76c51a3#32, 0xd192e819#32, 0xd6990624#32, 0xf40e3585#32, 0x106aa070#32]
    ++ [0x19a4c116#32, 0x1e376c08#32, 0x2748774c#32, 0x34b0bcb5#32, 0x391c0cb3#32, 0x4ed8aa4a#32, 0x5b9cca4f#32, 0x682e6ff3#32]
    ++ [0x748f82ee#32, 0x78a5636f#32, 0x84c87814#32, 0x8cc70208#32, 0x90befffa#32, 0xa4506ceb#32, 0xbef9a3f7#32, 0xc67178f2#32]

/-- The initial chaining value. -/
def shaStart : List Word :=
  [0x6a09e667#32, 0xbb67ae85#32, 0x3c6ef372#32, 0xa54ff53a#32, 0x510e527f#32, 0x9b05688c#32, 0x1f83d9ab#32, 0x5be0cd19#32]

def rotr (x : Word) (n : Nat) : Word := x.rotateRight n

/-- One word of the message schedule, from the words before it, newest first. -/
def shaNext (ws : List Word) : Word :=
  let a := ws.getD 1 0
  let b := ws.getD 14 0
  let s1 := rotr a 17 ^^^ rotr a 19 ^^^ (a >>> 10)
  let s0 := rotr b 7 ^^^ rotr b 18 ^^^ (b >>> 3)
  s1 + ws.getD 6 0 + s0 + ws.getD 15 0

/-- The schedule of n further words, newest first. -/
def shaSchedule : Nat → List Word → List Word
  | 0, ws => ws
  | n + 1, ws => shaSchedule n (shaNext ws :: ws)

/-- One round on the eight working variables. -/
def shaRound (v : List Word) (k w : Word) : List Word :=
  match v with
  | [a, b, c, d, e, f, g, h] =>
    let t1 := h + (rotr e 6 ^^^ rotr e 11 ^^^ rotr e 25) + ((e &&& f) ^^^ (~~~e &&& g)) + k + w
    let t2 := (rotr a 2 ^^^ rotr a 13 ^^^ rotr a 22) + ((a &&& b) ^^^ (a &&& c) ^^^ (b &&& c))
    [t1 + t2, a, b, c, d + t1, e, f, g]
  | _ => v

/-- A number from bytes, most significant byte first, and back. -/
def ofBytesBE (bs : List Byte) : Nat := ofBytes bs.reverse
def toBytesBE (n x : Nat) : List Byte := (toBytes n x).reverse

/-- One block of 64 bytes. -/
def shaBlock (v : List Word) (block : List Byte) : List Word :=
  let ws := (List.range 16).map fun i => BitVec.ofNat 32 (ofBytesBE ((block.drop (4 * i)).take 4))
  let all := (shaSchedule 48 ws.reverse).reverse
  let r := (shaRounds.zip all).foldl (fun a kw => shaRound a kw.1 kw.2) v
  (v.zip r).map fun x => x.1 + x.2

/-- The message with its padding. -/
def shaPadded (bs : List Byte) : List Byte :=
  bs ++ [0x80#8] ++ List.replicate ((119 - bs.length % 64) % 64) 0 ++ toBytesBE 8 (8 * bs.length)

/-- SHA-256 of bytes: 32 bytes. -/
def sha256 (bs : List Byte) : List Byte :=
  let m := shaPadded bs
  ((List.range (m.length / 64)).foldl (fun v i => shaBlock v ((m.drop (64 * i)).take 64)) shaStart).flatMap fun w => toBytesBE 4 w.toNat

end Sys2Proof.Machine
end

