-- ==== Sys2Proof/Machine/Migrate.lean ====
section
/-! DEFINITION. The entry of windows (spec/04, R127 to R131) and the migration of a device between modules (spec/16, R421 to R425). -/

namespace Sys2Proof.Machine

open Sys2Proof

/-! ## When a window is due (R129) -/

/-- The nominal start of the window after the current one. -/
def Device.nextStart (d : Device) : Nat := d.wStart + (winAdd d.window 1 + winMod - d.wFirst % winMod) % winMod * d.wLen

/-- A complete close marker for window c − 1 is held from every member (R129). In a job's first window the markers for the two windows
before it count as held and complete (R127); a device without a job has no peers (R74). -/
def Device.gateOpen (d : Device) : Bool :=
  match d.job with
  | none => true
  | some j => j.fresh || (List.range (j.last + 1)).all fun r => d.markerComplete (winAdd d.window (-1)) r

/-! ## The image of a device (R421, R422) -/

/-- An operation that a migration cancels and records, with the units it has delivered, to be restarted (R422): a copy, a ring push or a
fabric transfer of a group. -/
def EngKind.restarts : EngKind → Bool
  | .copy _ _ _ _ => true
  | .fabric _ _ _ _ _ _ => true
  | _ => false

/-- The source entry of an operation stands: it has not read every unit yet (R120). -/
def State.reading (s : State) (id : Nat) : Bool := s.cores.any fun c => c.2.latches.any fun e => e.2.op == id && !e.2.dest

/-- A fabric write cancelled (R422 step 3): how many of the units that were left it has delivered, the device chooses while the operation is
within the module and its source entry stands; else all of them have been sent (log 69). -/
def State.cancelWrite (s : State) (id : Nat) (o : EngOp) (units : Nat) : State :=
  let rest := units - o.done
  let mine (x : FabOp) : Bool := x.id == id && x.from?.isSome
  let n := if s.reading id && s.wire.any mine then Config.delivered s.tick id % (rest + 1) else rest
  { s with wire := s.wire.map fun x => if mine x && n != rest then { x with kind := x.kind.firstUnits n } else x,
           ops := s.ops.change id fun y => { y with done := y.done + n } }

/-- A `get` cancelled (R422 step 3): a prefix of what has come for it is written, the rest is asked for again. -/
def State.cancelGet (s : State) (id : Nat) (o : EngOp) (loc size : Nat) : State :=
  match s.acks.find? fun a => a.id == id with
  | some a =>
    let lines := s.sideLines o (localShape size) (localSide loc)
    if a.status ≠ 0 ∨ lines.any s.locked = true ∨ s.held o.vd lines = true then s
    else
      let n := Config.delivered s.tick id % (a.data.length + 1)
      let t := s.writeSide o (localSide loc) (addressed (loc + o.done) (a.data.take n))
      { t with acks := t.acks.filter fun b => b.id != id, ops := t.ops.change id fun y => { y with done := y.done + n } }
  | none => s

/-- The copies and fabric transfers of a device are cancelled, each with a prefix of its units delivered (R422 step 3): how long a prefix,
the device chooses. -/
def State.cancelCopies (s : State) (v : Nat) : State :=
  (s.ops.filter fun o => o.2.vd == v).foldl (fun a o =>
    match o.2.kind with
    | .copy h src dsts _ =>
      let rest := h.unitsOf.drop o.2.done
      let n := Config.delivered s.tick o.1 % (rest.length + 1)
      if a.copyFree o.2 h src dsts then
        let b := (a.chargeSource o.2 h src).performUnits o.2 h src dsts (rest.take n)
        { b with ops := b.ops.change o.1 fun y => { y with done := y.done + n } }
      else a
    | .fabric op _ _ loc size sig => if op = 0x12 then a.cancelGet o.1 o.2 loc size else a.cancelWrite o.1 o.2 (fabUnits op size sig)
    | _ => a) s

/-- The tier of a line of the module (R21). -/
def tierOfLine (line : Nat) : Tier := if line < hbmLines then .hbm else .second

/-- The wards of the lanes of a device, as a migration records them (R423): by tier and partition-relative address, core number and
slot. -/
def State.wardsOf (s : State) (v : Nat) : List (Tier × Nat × Nat × Nat) :=
  s.slices.flatMap fun x => x.2.wards.flatMap fun w => w.waiters.filterMap fun y =>
    match y with
    | .lanes c k => (match s.group? c k with
      | some g => if s.vdOf g = v then
          some (tierOfLine w.line, w.line * lineBytes - s.reloc v (tierOfLine w.line) 0, s.coreIndex (s.device v).part c, k)
        else none
      | none => none)
    | _ => none

/-- What a device still has under way when its image is to be taken: an operation that is not restarted, a request, a store, a load, or a
channel that has not come to its boundary. -/
def State.quietDevice (s : State) (v : Nat) : Bool :=
  let load (k : ReqKind) : Bool := match k with
    | .load _ _ _ => true
    | .own _ _ _ => true
    | .writeBack _ _ => true
    | _ => false
  s.ops.all (fun o => o.2.vd != v || o.2.kind.restarts)
    && s.requests.all (fun r => r.vd != v || load r.kind)
    && s.cores.all (fun c => c.2.stores.all fun e => e.vd != v)
    && s.allGroups.all (fun g => s.vdOf g.2.2 != v || g.2.2.loads.all (·.done))
    && s.hinges.all fun h => h.2.chans.all fun c => c.2.vd != v || !s.chanReady c.2

/-- The entries of the snapshot table that a device holds (R82, R422). -/
def State.entriesOf (s : State) (v : Nat) : List Nat :=
  let ofKey (z : DWord) : List Nat := if keyValid z && !keyRevoked z then [keyEntry z] else []
  let ofGroup (g : Group) : List Nat := g.keys.flatMap (fun z => ofKey z.2) ++ (match g.tx with
    | some t => if t.held then [t.entry] else []
    | none => [])
  ((s.allGroups.filter fun g => s.vdOf g.2.2 == v).flatMap (fun g => ofGroup g.2.2)
    ++ (s.allGangs.filter fun y => s.gangVd y.2.2 == v).flatMap (fun y => y.2.2.saved.groups.flatMap fun g => ofGroup g.2)
    ++ (s.launches.filter fun l => l.2.vd == v).flatMap fun l => match l.2.snap with
      | some z => ofKey z
      | none => []).eraseDups

/-- Keepers end, a checkpoint ends with status 5, and the live keys of a device are revoked. -/
def State.endHolds (s : State) (v : Nat) : State :=
  let part := (s.device v).part
  let s1 := (s.endKeepers v).endCheckpoint v 5
  (s1.entriesOf v).foldl (fun a e => match (a.partition part).snaps.look e with
    | some x => a.revokeEntry part (e, x)
    | none => a) s1

/-- The bytes of the HBM and second-tier windows of a device, by partition-relative address. -/
def State.windowBytes (s : State) (v : Nat) : List (Tier × Nat × Byte) :=
  [Tier.hbm, Tier.second].flatMap fun t =>
    let w := s.window v t
    let base := s.reloc v t 0
    (s.mem.filter fun b => decide (base + w.1 ≤ b.1 ∧ b.1 < base + w.2)).map fun b => (t, b.1 - base, b.2)

/-- A group or a channel that waits for a hasp, with the address moved; the hasp is read again when it runs (R423). -/
def Group.moveHasp (g : Group) (f : Nat → Nat) : Group :=
  { g with wait := match g.wait with
      | some (.hasp a p _) => some (.hasp (f a) p true)
      | some (.queues _) => some (.queues [])
      | some (.behind _) => some (.behind 0)
      | some (.op i w _) => some (.op i w [])
      | x => x }
def Channel.moveHasp (c : Channel) (f : Nat → Nat) : Channel :=
  { c with wait := match c.wait with
      | some (.hasp a p _) => some (.hasp (f a) p true)
      | x => x }

/-- Groups of a gang changed in the save area. -/
def Gang.mapSaved (y : Gang) (f : Group → Group) : Gang :=
  { y with saved := { y.saved with groups := y.saved.groups.mapAll fun _ g => f g } }

/-- How numbers change when an image is taken or restored. -/
structure Renumber where
  core : Nat → Nat
  gang : Nat → Nat
  launch : Nat → Nat
  op : Nat → Nat
  vd : Nat

/-- An engine operation of a device under other numbers. -/
def EngOp.renumber (o : EngOp) (r : Renumber) : EngOp :=
  let side (x : Side) : Side := { x with scratch := x.scratch.map fun p => (r.core p.1, r.gang p.2) }
  { o with core := r.core o.core, gang := r.gang o.gang, launch := r.launch o.launch, vd := r.vd,
           kind := match o.kind with
             | .copy sh src dsts ring => .copy sh (side src) (dsts.map side) ring
             | k => k }

/-- A group under other numbers. -/
def Group.renumber (g : Group) (r : Renumber) : Group :=
  let ops (l : List Counted) : List Counted := l.map fun x => { x with op := r.op x.op }
  { g with launch := r.launch g.launch, gang := r.gang g.gang, loads := ops g.loads, stores := ops g.stores, copies := ops g.copies,
           tiles := ops g.tiles, pend := g.pend.map (fun x => { x with op := r.op x.op }), walked := [],
           wait := match g.wait with
             | some (.op i w t) => some (.op (r.op i) w t)
             | some (.latch ls) =>
               some (.latch (ls.map fun x => (r.core x.1, { x.2 with gang := r.gang x.2.gang, vd := if x.2.global then r.vd else x.2.vd })))
             | x => x }

/-- A gang under other numbers. -/
def Gang.renumber (y : Gang) (r : Renumber) : Gang :=
  { y.mapSaved (fun g => g.renumber r) with
    launch := r.launch y.launch, claims := [],
    rings := y.rings.mapAll fun _ x => { x with deferred := x.deferred.map fun d => (d.1, d.2.map r.op) } }

/-- The numbers of an image: cores by their place in the partition. -/
def State.outward (s : State) (v : Nat) : Renumber :=
  { core := s.coreIndex (s.device v).part, gang := id, launch := id, op := id, vd := v }

/-- Every unit of the gangs of a device written to the save area (R398, R422). -/
def State.spillDevice (s : State) (v : Nat) : State :=
  (s.allGangs.filter fun y => s.gangVd y.2.2 == v && y.2.2.populated).foldl (fun a y =>
    ((a.unitsOf y.2.2).filter fun u => !y.2.2.spilled.contains u).foldl (fun b u => b.spillUnit y.1 y.2.1 u) a) s

/-- The image of a device whose gangs are all spilled. -/
def State.imageOf (s : State) (v : Nat) : Image :=
  let base := s.reloc v .hbm 0
  let r := s.outward v
  let copies : Tab EngOp := s.ops.filter fun o => o.2.vd == v
  { bytes := s.windowBytes v, device := s.device v,
    launches := s.launches.filter fun l => l.2.vd == v,
    gangs := (s.allGangs.filter fun y => s.gangVd y.2.2 == v).map fun y =>
      (r.core y.1, y.2.1, (y.2.2.mapSaved fun g => g.moveHasp (· - base)).renumber r),
    channels := s.hinges.flatMap fun h => (h.2.chans.filter fun c => c.2.vd == v).map fun c => (h.1, c.1, c.2.moveHasp (· - base)),
    slots := (s.comb.filter fun x => x.2.vd == v).map (·.2),
    copies := copies.mapAll fun _ o => o.renumber r,
    latches := s.cores.flatMap fun c => (c.2.latches.filter fun e => copies.any fun o => o.1 == e.2.op).map fun e => (r.core c.1, e.2) }

/-- What an image has taken leaves the source: gangs, launches, channels, slots, copies and their latch entries. -/
def State.removeDevice (s : State) (v : Nat) : State :=
  let mine := (s.allGangs.filter fun y => s.gangVd y.2.2 == v).map fun y => (y.1, y.2.1)
  let ops := (s.ops.filter fun o => o.2.vd == v).map (·.1)
  let chans := s.hinges.flatMap fun h => (h.2.chans.filter fun c => c.2.vd == v).map fun c => Waiter.channel h.1 c.1
  let s1 := chans.foldl (fun a w => a.dropWaiter w) s
  let s2 := { s1 with
    cores := s1.cores.mapAll fun c x => { x with
      gangs := x.gangs.filter fun y => !mine.contains (c, y.1),
      latches := x.latches.filter fun e => !ops.contains e.2.op,
      order := x.order.mapAll fun _ l => l.filter fun k => !(mine.any fun m => m.1 == c && k / 64 == m.2 + 1) },
    dies := s1.dies.mapAll fun _ d => { d with misses := d.misses.filter fun m => m.vd != v },
    verPages := s1.verPages.filter fun x => x.1 != v,
    ops := s1.ops.filter fun o => o.2.vd != v,
    comb := s1.comb.filter fun x => x.2.vd != v,
    hinges := s1.hinges.mapAll fun _ h => { h with
      chans := h.chans.filter fun c => c.2.vd != v,
      running := h.running.bind fun n => (match h.chans.look n with
        | some c => if c.vd = v then none else some n
        | none => none) } }
  { s2 with launches := s2.launches.filter fun l => l.2.vd != v }

/-- Window M + 2 of a migration (R422 steps 5 and 6): the image is taken, the device is frozen, and the command is done. -/
def State.freeze (s : State) (v : Nat) : State :=
  let s1 := (s.endHolds v).spillDevice v
  let s2 := { s1.removeDevice v with images := s1.images.put v (s1.imageOf v) }
  ((s2.dropQueues v).withDevice v fun d => { d with state := .frozen }).cmdDone v 0

/-! ## The entry of a window (R128 to R131, R422) -/

/-- The migration allows the entry of window m: at M every group is at a boundary, at M + 2 nothing but what is restarted is under way. -/
def State.cutAllows (s : State) (v m : Nat) : Bool :=
  match (s.device v).cut with
  | none => true
  | some c => (m != c || s.haltable v) && (m != winAdd c 2 || (s.device v).state == .frozen || s.quietDevice v)

/-- What a migration does at the entry of window m (R422). -/
def State.cutAt (s : State) (v m : Nat) : State :=
  match (s.device v).cut with
  | none => s
  | some c =>
    if m = c then ((s.withDevice v fun d => { d with wards := s.wardsOf v }).haltDevice v).cancelCopies v
    else if m = winAdd c 1 then s.withDevice v fun d =>
      { d with held := d.held.filter fun x => !winLe m x.1.window,
               forward := d.forward ++ (d.held.filter fun x => winLe m x.1.window).map (·.1) }
    else if m = winAdd c 2 ∧ (s.device v).state ≠ .frozen then s.freeze v
    else s

/-- The tables of traffic without the windows that are over: markers and counts of performed operations up to window c − 1, counts of
sent operations up to window c; `c` is the window that is left. -/
def Device.pruned (d : Device) (c : Nat) : Device :=
  { d with markers := d.markers.filter fun m => m.window != winAdd c (-1),
           performed := d.performed.filter fun x => x.1 / 2 ^ 16 != winAdd c (-1),
           sent := d.sent.filter fun x => x.1 / 2 ^ 16 != c }

/-- A device enters its next window (R128, R129): its close markers for the window it leaves, and what follows from the new one. -/
def State.enterWindow (s : State) (v : Nat) : State :=
  let d := s.device v
  let m := winAdd d.window 1
  let s1 := ((s.retrySignals v).sendMarkers v d.window).withDevice v fun x =>
    { x.pruned d.window with wStart := d.nextStart, wFirst := m, job := x.job.map fun j => { j with fresh := false } }
  (s1.inNewWindow v m).cutAt v m

/-- WINDOW_ENTER (R129); the object is the device. A device that forwards has left the counter to its destination (R424). One that cannot
enter a window yet sends the signals that it has kept, once they have a way (log 29). -/
def execWindowEnter (s : State) : Result :=
  let (v, _, _) := s.object
  let d := s.device v
  if d.state ≠ .none ∧ d.state ≠ .forwarding ∧ d.nextStart ≤ s.ptp ∧ d.gateOpen = true ∧ s.cutAllows v (winAdd d.window 1) = true then
    .next (s.enterWindow v)
  else .next (s.retrySignals v)

/-! ## The commands of a migration -/

/-- VD_MIGRATE_OUT (R422). The command is done when the device is frozen. -/
def execVdMigrateOut (s : State) : Result :=
  onCommand s 7 fun v t =>
    let d := t.device v
    let m := bits (d.ctl.get 0x40 0) 0 32
    if d.state ≠ .active then t.cmdDone v 6
    else if d.job.isNone ∨ winBefore m (winAdd d.window 2) = true then t.cmdDone v 8
    else (t.withDevice v fun x => { x with cut := some m }).cmdBusy v

/-- The device of an image at its destination: its own control registers are those of the destination, and the operations kept at the
source are announced ones. -/
def Device.restored (x own : Device) (ptp : Nat) : Device :=
  { x with ctl := own.ctl, live := own.ctl, state := .active, busy := own.busy, status := own.status, pass := 0, conns := [],
           held := [], forward := x.forward.map fun y => { y with forwarded := true }, forwarded := 0, wards := [], cut := none, granted := [],
           tinv := none, ckpt := none, bytes := 0, energy := 0, budgetAt := ptp, idleSince := none, wakeHeld := false }

/-- A free channel for a channel of an image: at its own hinge processor when the partition may use it, else at the lowest. -/
def State.channelSpot (s : State) (part h : Nat) : Option (Nat × Nat) :=
  let spot (i : Nat) : Option (Nat × Nat) := if s.hingeAllowed part i then (s.freeChannel i).map fun n => (i, n) else none
  match spot h with
  | some x => some x
  | none => ((List.range Config.hinges).filterMap spot).head?

/-- The channels of an image placed, with their old and new places; none when they do not all fit. -/
def State.placeChannels (s : State) (part : Nat) : List (Nat × Nat × Channel) → Option (State × List ((Nat × Nat) × (Nat × Nat)))
  | [] => some (s, [])
  | (h, n, c) :: rest =>
    match s.channelSpot part h with
    | none => none
    | some (i, k) =>
      match (s.withHinge i fun x => { x with chans := x.chans.put k { c with last := 0, passed := 0 } }).placeChannels part rest with
      | none => none
      | some (t, m) => some (t, ((h, n), (i, k)) :: m)

/-- The greatest of some numbers, plus 1. -/
def above (l : List Nat) : Nat := l.foldl (fun a x => max a (x + 1)) 0

/-- The numbers that the objects of an image get in this module. -/
def State.inward (s : State) (v part : Nat) : Renumber :=
  { core := fun i => (s.coresOf part).getD i 0, gang := (· + s.nextGang), launch := (· + s.nextLaunch), op := (· + s.nextOp), vd := v }

/-- The bytes of an image in the memory of its destination: its windows hold nothing else, and no cache or version of theirs is left. -/
def State.restoreBytes (s : State) (v : Nat) (bytes : List (Tier × Nat × Byte)) : State :=
  let ws := [Tier.hbm, Tier.second].map fun t => let w := s.window v t; (s.reloc v t w.1, s.reloc v t w.2)
  let inside (a : Nat) : Bool := ws.any fun w => decide (w.1 ≤ a ∧ a < w.2)
  let gone (line : Nat) : Bool := inside (line * lineBytes)
  State.noteAllHolders { s with
    mem := writeList (s.mem.filter fun b => !inside b.1) (bytes.map fun b => (s.reloc v b.1 b.2.1, b.2.2)),
    poisoned := s.poisoned.filter fun a => !inside a,
    versions := s.versions.filter fun x => !gone x.1,
    cores := s.cores.mapAll fun _ c => { c with l1 := c.l1.mapAll fun _ ls => ls.filter fun y => !gone y.line },
    dies := s.dies.mapAll fun _ d => { d with l2 := d.l2.mapAll fun _ ls => ls.filter fun y => !gone y.line,
                                              fills := d.fills.filter fun f => !gone f.line },
    slices := s.slices.mapAll fun _ x => { x with sets := x.sets.mapAll fun _ ls => ls.filter fun y => !gone y.line } }

/-- A gang of an image on its core: spilled whole, its groups at the back of their issue slots' orders. -/
def State.restoreGang (s : State) (c n : Nat) (y : Gang) : State :=
  s.withCore c fun x => y.saved.groups.foldl (fun a g =>
    { a with order := a.order.update (issueSlotOf g.1) [] fun l => l ++ [heldPlace n g.1] }) { x with gangs := x.gangs.put n y }

/-- What a fabric transfer sends when it goes on at its unit D: the bytes that are left of its source, and its signal. -/
def State.restOf (s : State) (o : EngOp) (op loc size : Nat) (sig : Option (Nat × Nat × Nat)) : FabKind :=
  let from' := min (o.done * fabUnit op) size
  let data := (List.range (size - from')).map fun i => s.sideByte o (localSide loc) (loc + from' + i)
  match op, sig with
  | 0x11, some (sop, value, off) => .putsig data sop value off
  | 0x12, _ => .get (size - from')
  | 0x13, _ => .radd data
  | 0x14, _ => .rmax data
  | 0x15, _ => .rsmx data
  | _, _ => .put data

/-- A fabric transfer of an image goes on at its unit D (R424): it is sent again, and carries the window that its device is in now (log 69);
one that has delivered every unit is complete. -/
def State.reissue (s : State) (id : Nat) (o : EngOp) : State :=
  match o.kind with
  | .fabric op a rank loc size sig =>
    if fabUnits op size sig ≤ o.done then s.finishOp id
    else
      let d := s.device o.vd
      let t := if op = 0x12 then s else s.chargeSource o (localShape size) (localSide loc)
      t.sendFab o.vd { id := id, from? := some o.vd, src := (d.job.map (·.rank)).getD 0, dst := rank, window := d.window, vd := 0,
                       off := fabOff a + min (o.done * fabUnit op) size, kind := s.restOf o op loc size sig, forwarded := false }
  | _ => s

/-- A line of a route entry that a restored transfer is to be sent by is locked: the restoration waits (R78). -/
def State.reissueHeld (s : State) (v : Nat) (x : Image) : Bool :=
  x.copies.any fun o => match o.2.kind with
    | .fabric _ _ rank _ _ _ => (s.routeHeld v rank).isSome
    | _ => false

/-- The pending wards of an image are placed again; the lanes go on as if they had fired (R423). -/
def State.replaceWards (s : State) (v : Nat) (ws : List (Tier × Nat × Nat × Nat)) : State :=
  ws.foldl (fun a w => a.placeWard (lineOf (w.2.1 + s.reloc v w.1 0))
    (.lanes ((s.coresOf (s.device v).part).getD w.2.2.1 0) w.2.2.2)) s

/-- The restoration of an image (R424), once its channels are placed. `moved` gives the new places of channels. -/
def State.restore (s : State) (v : Nat) (x : Image) (moved : List ((Nat × Nat) × (Nat × Nat))) : State :=
  let part := (s.device v).part
  let r := s.inward v part
  let base := s.reloc v .hbm 0
  let s1 := s.restoreBytes v x.bytes
  let age := (s.partition part).accepted
  let newLaunch (l : Launch) : Launch := { l with
    vd := v, part := part, age := l.age + age, deps := l.deps.map r.launch,
    coll := l.coll.bind fun p => (moved.find? fun m => m.1 == p).map (·.2) }
  let newChan (c : Channel) : Channel := { c.moveHasp (· + base) with vd := v, part := part, launch := r.launch c.launch, nocredit := [] }
  let counted (g : Group) : List Nat := (g.loads ++ g.stores ++ g.copies ++ g.tiles).map (·.op)
  let s2 : State := { s1 with
    launches := x.launches.foldl (fun t l => t.put (r.launch l.1) (newLaunch l.2)) s1.launches,
    hinges := moved.foldl (fun t m => t.change m.2.1 fun h => { h with chans := h.chans.change m.2.2 newChan }) s1.hinges,
    comb := (s1.freeSlotNumbers.zip x.slots).foldl (fun t k => t.put k.1 { k.2 with vd := v }) s1.comb,
    ops := x.copies.foldl (fun t o => t.put (r.op o.1) (o.2.renumber r)) s1.ops,
    nextOp := s1.nextOp + above (x.copies.map (·.1) ++ x.gangs.flatMap fun y => y.2.2.saved.groups.flatMap fun g => counted g.2),
    nextGang := s1.nextGang + above (x.gangs.map fun y => y.2.1),
    nextLaunch := s1.nextLaunch + above (x.launches.map (·.1)) }
  let s3 := s2.withPartition part fun p => { p with accepted := p.accepted + above (x.launches.map fun l => l.2.age) }
  let s4 := x.gangs.foldl (fun a y =>
    a.restoreGang (r.core y.1) (r.gang y.2.1) ((y.2.2.mapSaved fun g => g.moveHasp (· + base)).renumber r)) s3
  let s5 := x.latches.foldl (fun a l => a.withCore (r.core l.1) fun c =>
    c.addLatch { l.2 with op := r.op l.2.op, vd := v, gang := r.gang l.2.gang }) s4
  let s6 := x.copies.foldl (fun a o => a.reissue (r.op o.1) (o.2.renumber r)) s5
  s6.replaceWards v x.device.wards

/-- VD_MIGRATE_IN (R424). The launches are restored whatever range entries the partition has left (DESIGN CHOICE, log 76). -/
def execVdMigrateIn (s : State) : Result :=
  onCommand s 8 fun v t =>
    let own := t.device v
    match t.images.look (own.ctl.get 0x40 0).toNat with
    | none => t.cmdDone v (if own.state = .none then 8 else 6)
    | some x =>
      let t1 := t.withDevice v fun d => x.device.restored d t.ptp
      if own.state ≠ .none then t.cmdDone v 6
      else if t1.createStatus v ≠ 0 ∨ t1.windowsFit (t1.device v) own.part = false ∨ (t1.coresOf own.part).length < above (x.gangs.map (·.1))
          ∨ t1.freeSlotNumbers.length < x.slots.length then t.cmdDone v 8
      else if t1.reissueHeld v x then s
      else
        match t1.placeChannels own.part x.channels with
        | none => t.cmdDone v 8
        | some (t2, moved) => (t2.restore v x moved).cmdDone v 0

/-! ## Forwarding (R424, R425) -/

/-- FORWARDING_ENTRY: the destination has taken the device in, and the operations held for it are sent in window order; the object is the
device. -/
def execForwardingEntry (s : State) : Result :=
  let (v, _, _) := s.object
  let d := s.device v
  if d.state = .frozen then
    let xs := d.forward.mergeSort fun a b => winLe a.window b.window
    .next ({ s with outbox := s.outbox ++ xs.map (fun (x : FabOp) => OutMsg.forward { x with forwarded := true }) }.withDevice v fun y =>
      { y with state := .forwarding, forward := [], forwarded := xs.length })
  else .next s

/-- VD_END_FORWARDING: the command waits until every forwarded operation is acknowledged, and then STATE becomes none. Its end has the
device as its object. -/
def execVdEndForwarding (s : State) : Result :=
  match s.actor with
  | .object v _ _ =>
    let d := s.device v
    if d.state = .forwarding ∧ d.busy = true ∧ bits (d.ctl.get 0x38 0) 0 8 = 9 ∧ d.forwarded = 0 then
      .next ((s.withDevice v Device.cleared).cmdDone v 0)
    else .next s
  | _ => onCommand s 9 fun v t => if (t.device v).state ≠ .forwarding then t.cmdDone v 6 else t.cmdBusy v

end Sys2Proof.Machine
end

