-- ==== Sys2Proof/Machine/Firmware.lean ====
section
/-! DEFINITION. The firmware (spec/17, R432 to R437): the mailbox, reset and training, supply sag, errors and their records, plug-ins, and
checkpoints. -/

namespace Sys2Proof.Machine

open Sys2Proof

/-! ## The mailbox (R431, R433) -/

/-- Bytes of the mailbox, counted from its start. -/
def Module.mboxAt (m : Module) (off n : Nat) : List Byte := m.mbox.readAll off n

/-- A command of the mailbox is answered: the output at byte 8, then the status, and no command is in progress any more. -/
def State.mboxAnswer (s : State) (out : List Byte) (status : Nat) : State := s.withModule fun m => (m.setMbox 8 out).answer status

/-- Firmware serves the mailbox command in progress, when it is command n. -/
def onMailbox (s : State) (n : Nat) (f : State → State) : Result := if s.module.cmd = some n then .next (f s) else .next s

/-- Exactly n bytes of a value that the model does not fix. -/
def exactly (n : Nat) (bs : List Byte) : List Byte := (bs ++ List.replicate n 0).take n

/-- LOAD_IMAGE (R433, R432). -/
def execLoadImage (s : State) : Result :=
  onMailbox s 1 fun t =>
    let image := t.host.readAll (ofBytes (t.module.mboxAt 8 8)) (ofBytes (t.module.mboxAt 16 8))
    if Config.imageSigned image then (t.withModule fun m => { m with image := image }).mboxAnswer [] 1 else t.mboxAnswer [] 3

/-- The bytes of all partition blocks, as their registers read. -/
def State.partitionBytes (s : State) : List Byte :=
  (List.range Config.partitions).flatMap fun p => (List.range 32).flatMap fun i => toBytes 8 (s.readReg .partition p (8 * i)).toNat

/-- The report of an attestation (R433). -/
def State.report (s : State) : List Byte :=
  let body := s.module.mboxAt 8 32 ++ sha256 s.module.image ++ sha256 s.partitionBytes ++ exactly 64 Config.identityKey
  body ++ exactly 64 (Config.signature (sha256 body))

/-- ATTEST (R433). It is not in progress in recovery, where a write of it begins no command (R432). -/
def execAttest (s : State) : Result := onMailbox s 2 fun t => t.mboxAnswer t.report 1

/-! ## Reset, training, sag (R432, R434) -/

/-- MODULE_RESET (R432): every part of the module is at its reset values, and boot ROM verifies the image. Memory keeps its bytes, the clock
of the network goes on, and what has left the module stays outside. -/
def execModuleReset (s : State) : Result :=
  let ok := Config.imageAuthentic s.module.image
  .next { State.reset with
    tick := s.tick, agenda := s.agenda, actor := s.actor, ptp := s.ptp, cycles := s.cycles, clockPart := s.clockPart,
    mem := s.mem, host := s.host, store := s.store, poisoned := s.poisoned,
    nextOp := s.nextOp, nextGang := s.nextGang, nextLaunch := s.nextLaunch, outbox := s.outbox, hostReplies := s.hostReplies,
    msix := s.msix, driver := s.driver, images := s.images,
    module := { Module.reset with svc := if ok then 1 else 0, image := s.module.image, booting := false } }

/-- LINK_TRAINING_COMPLETE (R434): full service begins when every group, resident or spilled, is at a clause boundary; one that waits
inside a clause is not. -/
def execLinkTrainingComplete (s : State) : Result :=
  if s.module.svc = 1 ∧ s.allGroups.all (fun g => !g.2.2.clause.live) = true
      ∧ s.allGangs.all (fun y => y.2.2.saved.groups.all fun g => !g.2.clause.live) = true then .next (s.withModule fun m => { m with svc := 2 })
  else .next s

/-- SUPPLY_SAG (R434). -/
def execSupplySag (s : State) : Result :=
  .next (s.withModule fun m => { m with sag := min (m.sag + 1) 8, sagReported := true, sagAt := s.ptp })

/-- SAG_RECOVERY (R434): each 10 µs without a report. -/
def execSagRecovery (s : State) : Result :=
  let m := s.module
  if m.sagReported = false ∧ 0 < m.sag ∧ m.sagAt + 10000 ≤ s.ptp then
    .next (s.withModule fun x => { x with sag := x.sag - 1, sagAt := x.sagAt + 10000 })
  else .next s

/-! ## Errors (R401, R435) -/

/-- The MSI-X vector of the error ring, behind the 4 × 128 of the guest queues. -/
def errorVector : Nat := 512

/-- The record of an error: scope, partition, virtual device, window. -/
def errorRecord (seq scope part vd window : Nat) (addr : DWord) : List Byte :=
  toBytes 8 seq ++ toBytes 1 scope ++ toBytes 1 part ++ toBytes 1 vd ++ toBytes 5 0 ++ toBytes 8 addr.toNat
    ++ toBytes 8 (window * 2 ^ 16)

/-- An error record is written where the ring is enabled, `ELOGHEAD` advances, and the vector is raised. -/
def State.logError (s : State) (scope part vd : Nat) (addr : DWord) : State :=
  let m := s.module
  let seq := (m.elogHead.toNat + 1) % 2 ^ 64
  let a := bits m.elogBase 13 51 * 2 ^ 13 + 32 * ((seq + 2 ^ 64 - 1) % 256)
  let s1 := s.withModule fun x => { x with elogHead := BitVec.ofNat 64 seq }
  if m.elogBase.getLsbD 0 then
    { s1 with host := writeList s1.host (addressed a (errorRecord seq scope part vd (s.device vd).window addr)),
              msix := s1.msix ++ [errorVector] }
  else s1

/-- Where a group stands between clauses: the address and resume index of the lanes that would issue, else of its last clause. -/
def Group.standsAt (g : Group) : Nat × Nat :=
  match g.issueSet with
  | some (pc, r, _) => (pc, r)
  | none => (g.clause.addr.toNat, g.clause.idx)

/-- The events of lanes that meet an uncorrectable error between clauses: each at its own resume index (R394). -/
def Group.errorEvents (g : Group) (ls : LaneSet) (addr : DWord) : List LaneEvent :=
  (lanesOf ls).map fun l => { lane := l, what := .replay .uncorrectable 0 addr, escalates := false, word := (g.lane l).r,
                              rword := (g.lane l).r, sword := (g.lane l).r }

/-- A group made replayable between clauses by an uncorrectable error (R394); a spilled one stays spilled, with its cause (R398). -/
def Group.stopped (g : Group) (es : List LaneEvent) : Group :=
  { g.doom 6 with phase := if g.phase = .spilled then .spilled else .replayable, cause := some .uncorrectable, resumed := false,
                  seq := (g.seq + 1) % 2 ^ 32, entries := g.entries.filter (fun x => !es.any fun e => e.lane == x.lane) ++ es }

/-- A group with its place: in its slot, or in what has been saved of its gang (R398). -/
structure FoundGroup where
  group : Group
  put : Option Nat

/-- The group that issued an engine operation, while it has not ended. -/
def State.groupOf (s : State) (o : EngOp) : Option FoundGroup :=
  match s.group? o.core o.slot with
  | some g => if g.gang = o.gang then some ⟨g, none⟩ else saved
  | none => saved
where
  /-- The group in the save area. -/
  saved : Option FoundGroup := (s.gang? o.core o.gang).bind fun y => (y.saved.groups.look o.slot).map fun g => ⟨g, some o.gang⟩

/-- A group put back at its place. -/
def State.putGroup (s : State) (c k : Nat) (put : Option Nat) (g : Group) : State :=
  match put with
  | none => s.setGroup c k g
  | some n => s.withGang c n fun y => { y with saved := { y.saved with groups := y.saved.groups.put k g } }

/-- A group that stops between clauses leaves its record (R394). -/
def State.stopGroup (s : State) (c k : Nat) (x : FoundGroup) (es : List LaneEvent) : State :=
  let g := x.group.stopped es
  (s.putGroup c k x.put g).recordFault c k g .uncorrectable x.group.standsAt.2 (BitVec.ofNat 64 x.group.standsAt.1) es

/-- An error in data that lanes of a group read (R394): within a clause, those of them that are active take it at the current word, and
the other lanes go on; between clauses the group stops. None where no lane can meet it, or while a line of its record is locked (R78). -/
def State.lanesError (s : State) (c k : Nat) (ls : LaneSet) (addr : DWord) : Option State :=
  match s.group? c k with
  | none => none
  | some g =>
    if !g.clause.live then
      if ls = 0 ∨ g.cause.isSome ∨ s.recordHeld c k g (g.errorEvents ls addr) then none
      else some (s.stopGroup c k ⟨g, none⟩ (g.errorEvents ls addr))
    else if g.clause.idx < g.clause.count ∧ g.clause.active &&& ls ≠ 0 then
      some (s.setGroup c k (g.raiseLanes (g.clause.active &&& ls) (.replay .uncorrectable 0 addr) g.clause.idx
        (g.clause.idx + g.clause.len)))
    else none

/-- An error in data that an engine operation reads (R332, R335, R344, R394): the operation is marked, wherever its group is; the group,
if it has not ended, stops at once between clauses, or when its clause completes. -/
def State.operationError (s : State) (id : Nat) (o : EngOp) (addr : DWord) : State :=
  let s1 := { s with ops := s.ops.change id fun x => { x with bad := x.bad ++ [addr.toNat] } }
  match s.groupOf o with
  | none => s1
  | some x =>
    if x.group.cause.isSome then s1
    else if x.group.clause.live then
      s1.putGroup o.core o.slot x.put { x.group with clause := { x.group.clause with opError := true } }
    else s1.stopGroup o.core o.slot x []

/-- The group that an operation's error is to stop cannot leave its record yet: a line of it is locked (R78). -/
def State.errorHeld (s : State) (o : EngOp) : Bool :=
  match s.groupOf o with
  | some x => x.group.cause.isNone && !x.group.clause.live && s.recordHeld o.core o.slot x.group []
  | none => false

/-- UNCORRECTABLE_ERROR (R401, R435, R437): contained to a group, through its lanes, its engine operations or a table that its walks read
(R31); to a device, a partition, or the version read of a checkpoint. -/
def execUncorrectableError (s : State) : Result :=
  match s.actor with
  | .report e =>
    match e.target with
    | .group c k ls =>
      match s.lanesError c k ls e.addr, s.group? c k with
      | some t, some g => .next (t.logError 1 (s.partOf g) (s.vdOf g) e.addr)
      | _, _ => .next s
    | .operation id =>
      match s.ops.look id with
      | some o =>
        if o.kind.readDone || s.errorHeld o then .next s
        else .next ((s.operationError id o e.addr).logError 1 (s.device o.vd).part o.vd e.addr)
      | none => .next s
    | .table v => .next ({ s with poisoned := s.poisoned ++ [e.addr.toNat] }.logError 1 (s.device v).part v e.addr)
    | .device v => .next ((s.fence v).logError 2 (s.device v).part v e.addr)
    | .partition p =>
      .next ((((s.devicesOf p).map (·.1)).foldl (fun a v => a.fence v) s).logError 3 p e.source e.addr)
    | .checkpoint v => .next ((s.endCheckpoint v 4).logError 2 (s.device v).part v e.addr)
  | _ => .next s

/-- CORRECTED_ERROR (R435). -/
def execCorrectedError (s : State) : Result :=
  .next (s.withModule fun m => { m with corrected := min (m.corrected + 1) (2 ^ 32 - 1) })

/-- PLUGIN_VIOLATION (R432): the plug-in of a tenant, which has made an access outside its confinement, is stopped and the tenant's
devices are fenced; the object is the tenant, which is a partition. -/
def execPluginViolation (s : State) : Result :=
  let (p, _, _) := s.object
  let s1 := s.withModule fun m => { m with stopped := m.stopped.put p true, violations := m.violations.filter (· != p) }
  if s.module.isStopped p then .next (s.withModule fun m => { m with violations := m.violations.filter (· != p) })
  else .next (((s.devicesOf p).map (·.1)).foldl (fun a v => a.fence v) s1)

/-! ## Checkpoints (R436, R437) -/

/-- CHECKPOINT_START (R437): a write of command 1 to `CKCMD`; or, with the device as its object, the going on of a checkpoint that waited
for its key, or for a locked line. -/
def execCheckpointStart (s : State) : Result :=
  match s.actor with
  | .object v _ _ =>
    let d := s.device v
    match d.ckpt with
    | some k =>
      .next (if !k.opened then s.openCheckpoint v (keyWindow k.key) else if k.checked then s else s.checkShards v)
    | none => .next s
  | _ =>
    onWrite s (fun w => w.block == .queue && w.offset == 0x98 && bits w.value 0 8 == 1) fun w t =>
      let v := w.index
      if Config.vds ≤ v then t
      else if (t.device v).ckpt.isSome then t.withDevice v fun d => { d with ckStatus := 1 }
      else (t.withDevice v fun d => { d with queue := d.queue.put 0x98 1 }).openCheckpoint v (t.device v).ckWindow

/-- The bytes of a shard under a key (R86): each byte from the version of its line that the key selects. -/
def State.shardBytes (s : State) (part key : Nat) (ps : List Piece) : List Byte :=
  ps.flatMap fun p => (linesOf ((List.range p.n).map (p.addr + ·))).flatMap fun line =>
    let lo := max p.addr (line * lineBytes)
    let hi := min (p.addr + p.n) (line * lineBytes + lineBytes)
    ((s.lineUnder part line key).drop (lo - line * lineBytes)).take (hi - lo)

/-- The reads of a checkpoint wait: for a locked line of a table, for one of a shard whose pending stamp the key does not precede (R78), or
for the device's budget (R412). -/
def State.checkpointWaits (s : State) (v key : Nat) (shards : List (Nat × Nat)) : Bool :=
  (s.device v).throttled || s.shardsWait v shards
    || shards.any fun x => match s.shardPieces v x with
      | some ps => (s.snapHeld key ps).isSome
      | none => false

/-- The manifest of a checkpoint (R437 step 6, log 18). -/
def manifest (job : Option Job) (key : Nat) (shards : List ((Nat × Nat) × List Byte)) : List Byte :=
  let (id, rank) := match job with
    | some j => (j.jobid.toNat, j.rank)
    | none => (0, 0)
  let body := [0x4A#8, 0x56#8, 0x43#8, 0x4B#8] ++ toBytes 4 1 ++ toBytes 8 id ++ toBytes 8 rank ++ toBytes 8 key ++ toBytes 8 shards.length
    ++ shards.flatMap fun x => toBytes 8 x.1.1 ++ toBytes 8 x.1.2 ++ sha256 x.2
  body ++ exactly 64 (Config.signature (sha256 body))

/-- CHECKPOINT_COMPLETE (R437): the shards are in the store, the manifest and the shards are at `CKDST`, and the key is released; the object
is the device. A shard that does not translate any more ends the checkpoint with status 2. The reads are charged (R412). -/
def execCheckpointComplete (s : State) : Result :=
  let (v, _, _) := s.object
  let d := s.device v
  match d.ckpt with
  | none => .next s
  | some k =>
    if !k.opened || !k.checked || s.checkpointWaits v k.key k.shards then .next s
    else
      let pieces := k.shards.map fun x => s.shardPieces v x
      if pieces.any Option.isNone then .next (s.endCheckpoint v 2)
      else
        let shards := (k.shards.zip pieces).map fun x => (x.1, s.shardBytes d.part k.key (x.2.getD []))
        let data := shards.flatMap (·.2)
        let base := bits ((s.partition d.part).ctl.get 0x60 0) 0 12 * 2 ^ 30
        let t := pieces.foldl (fun a p => a.chargePieces v (p.getD [])) s
        .next ({ t with store := writeList s.store (addressed base data),
                        host := writeList s.host (addressed k.dst (manifest d.job k.key shards ++ data)) }.endCheckpoint v 0)

end Sys2Proof.Machine
end

