-- ==== Sys2Proof/Machine/MemScratch.lean ====
section
/-! DEFINITION. Scratchpad loads and stores and the transposing load (spec/12, R308 to R310). Scratchpad accesses are performed in the
core's issue order (R113), so each takes its values and leaves its bytes when it issues. -/

namespace Sys2Proof.Machine

open Sys2Proof

/-- A scratchpad load of elements of z bytes (R308). -/
def loadScratch (z : Nat) (signed : Bool) (o : ScratchAccess) (s : State) : Result :=
  asGroup s fun c k g =>
    let n := z * elemsOf (z == 8) o.wid
    if !g.addrOk o.addr || !g.inBudget o.data.toNat (spanRegs z n) then s.setGroup c k g.illegal
    else
      let y := s.gangOf c g
      let (g1, live) := g.sortScratch (s.core c) g.gang y n .load false (g.laneAddrs s.tick false o.addr)
      if live.isEmpty then s.setGroup c k g1
      else
        let op := s.nextOp
        let g2 := g1.expect (live.flatMap fun x => loadWrites op o.data.toNat x.1 z signed ((s.core c).scratchRead y x.2 n))
        (s.newOp).setGroup c k (g2.count .loads op false)

/-- A scratchpad store of elements of z bytes (R308): the highest lane's byte stands (R36). A 16-byte or unaligned access, which another
agent may observe partly done (R37), is performed whole in one step (DESIGN CHOICE, log 73). -/
def storeScratch (z : Nat) (o : ScratchAccess) (s : State) : Result :=
  asGroup s fun c k g =>
    let n := z * elemsOf (z == 8) o.wid
    if !g.addrOk o.addr || !g.inBudget o.data.toNat (spanRegs z n) then s.setGroup c k g.illegal
    else
      match s.writeHold c k g (isRelease o.ord) false false with
      | some w => s.setGroup c k (g.waitOn w)
      | none =>
      let y := s.gangOf c g
      let (g1, live) := g.sortScratch (s.core c) g.gang y n .store true (g.laneAddrs s.tick false o.addr)
      if live.isEmpty then s.setGroup c k g1
      else
        ((s.newOp).setGroup c k (g1.count .stores s.nextOp true)).withCore c fun x =>
          live.foldl (fun a l => a.scratchWrite y l.2 (g.storeBytes s.tick o.data.toNat l.1 z n)) x

/-- The offsets of the elements of the block of a transposing load, by row and column (R309). -/
def blockOffset (o p z r col : Nat) : Nat := o + 4 * p * r + z * col

/-- The transposing load of elements of z bytes (R309, R310). A latch trap names the first element in row-major order that an entry stops
(DESIGN CHOICE, log 76). -/
def loadTranspose (z : Nat) (o : TransposeLoad) (s : State) : Result :=
  asGroup s fun c k g =>
    let d := o.data.toNat
    if !g.inBudget d (if z = 4 then 2 else 1) then s.setGroup c k g.illegal
    else
      let y := s.gangOf c g
      let o0 := (((g.sreg o.base.toNat).toNat + o.off.toInt) % (2 ^ 64 : Nat)).toNat
      let p := (g.sreg (o.base.toNat + 1)).toNat
      let cells := (List.range 16).flatMap fun r => (List.range 4).map fun col => blockOffset o0 p z r col
      let beyond := (cells.filter fun a => decide (y.bound < a + z)).map fun a => max a y.bound
      if o0 % 4 ≠ 0 then s.setGroup c k (g.raiseAll (alignTrap .load 1 o0))
      else
        match beyond with
        | b :: bs => s.setGroup c k (g.raiseAll (boundFault .load (bs.foldl min b)))
        | [] =>
          match (cells.filterMap fun a => ((s.core c).latchHit (some g.gang) 0 a z false).map fun e => (a, e)).head? with
          | some (a, e) => s.setGroup c k (g.raiseAll (.trap .latch (g.latchInfo e) (BitVec.ofNat 64 a)))
          | none =>
            let elem (r col : Nat) : Nat := ofBytes ((s.core c).scratchRead y (blockOffset o0 p z r col) z)
            let op := s.nextOp
            let writes := (lanesOf g.clause.active).flatMap fun l =>
              let col := l / 8
              let r := 2 * (l % 8)
              if z = 4 then
                [{ op := op, key := vkey d l, val := BitVec.ofNat 32 (elem r col) },
                 { op := op, key := vkey (d + 1) l, val := BitVec.ofNat 32 (elem (r + 1) col) }]
              else [{ op := op, key := vkey d l, val := BitVec.ofNat 32 (elem r col + 2 ^ (8 * z) * elem (r + 1) col) : PendingReg }]
            let g2 := g.expect writes
            (s.newOp).setGroup c k (g2.count .loads op false)

/-- `lds.b8`. -/
def execLdsB8 (o : ScratchAccess) (s : State) : Result := loadScratch 1 false o s
/-- `lds.i8`. -/
def execLdsI8 (o : ScratchAccess) (s : State) : Result := loadScratch 1 true o s
/-- `lds.b16`. -/
def execLdsB16 (o : ScratchAccess) (s : State) : Result := loadScratch 2 false o s
/-- `lds.i16`. -/
def execLdsI16 (o : ScratchAccess) (s : State) : Result := loadScratch 2 true o s
/-- `lds.b32`. -/
def execLdsB32 (o : ScratchAccess) (s : State) : Result := loadScratch 4 false o s
/-- `lds.b64`. -/
def execLdsB64 (o : ScratchAccess) (s : State) : Result := loadScratch 8 false o s
/-- `sts.b8`. -/
def execStsB8 (o : ScratchAccess) (s : State) : Result := storeScratch 1 o s
/-- `sts.b16`. -/
def execStsB16 (o : ScratchAccess) (s : State) : Result := storeScratch 2 o s
/-- `sts.b32`. -/
def execStsB32 (o : ScratchAccess) (s : State) : Result := storeScratch 4 o s
/-- `sts.b64`. -/
def execStsB64 (o : ScratchAccess) (s : State) : Result := storeScratch 8 o s
/-- `ldt.b8`. -/
def execLdtB8 (o : TransposeLoad) (s : State) : Result := loadTranspose 1 o s
/-- `ldt.b16`. -/
def execLdtB16 (o : TransposeLoad) (s : State) : Result := loadTranspose 2 o s
/-- `ldt.b32`. -/
def execLdtB32 (o : TransposeLoad) (s : State) : Result := loadTranspose 4 o s

end Sys2Proof.Machine
end

