-- ==== Sys2Proof/Machine/Dispatch.lean ====
section
/-! DEFINITION. The dispatch of every instruction and event to its meaning. -/

namespace Sys2Proof.Machine

open Sys2Proof

/-- The meaning of an instruction or event. -/
def exec (i : Instr) (s : State) : Host.Outcome State Fault Refusal :=
  match i with
  | .sadd o => Sys2Proof.Machine.execSadd o s
  | .ssub o => Sys2Proof.Machine.execSsub o s
  | .smul o => Sys2Proof.Machine.execSmul o s
  | .smulhiI o => Sys2Proof.Machine.execSmulhiI o s
  | .smulhiN o => Sys2Proof.Machine.execSmulhiN o s
  | .sand o => Sys2Proof.Machine.execSand o s
  | .sor o => Sys2Proof.Machine.execSor o s
  | .sxor o => Sys2Proof.Machine.execSxor o s
  | .snot o => Sys2Proof.Machine.execSnot o s
  | .sshl o => Sys2Proof.Machine.execSshl o s
  | .sshrN o => Sys2Proof.Machine.execSshrN o s
  | .sshrI o => Sys2Proof.Machine.execSshrI o s
  | .sminI o => Sys2Proof.Machine.execSminI o s
  | .sminN o => Sys2Proof.Machine.execSminN o s
  | .smaxI o => Sys2Proof.Machine.execSmaxI o s
  | .smaxN o => Sys2Proof.Machine.execSmaxN o s
  | .sbfxN o => Sys2Proof.Machine.execSbfxN o s
  | .sbfxI o => Sys2Proof.Machine.execSbfxI o s
  | .sbfi o => Sys2Proof.Machine.execSbfi o s
  | .spopc o => Sys2Proof.Machine.execSpopc o s
  | .sclz o => Sys2Proof.Machine.execSclz o s
  | .sffs o => Sys2Proof.Machine.execSffs o s
  | .smov o => Sys2Proof.Machine.execSmov o s
  | .scmpI o => Sys2Proof.Machine.execScmpI o s
  | .scmpN o => Sys2Proof.Machine.execScmpN o s
  | .slea o => Sys2Proof.Machine.execSlea o s
  | .sfromv o => Sys2Proof.Machine.execSfromv o s
  | .sfromk o => Sys2Proof.Machine.execSfromk o s
  | .stok o => Sys2Proof.Machine.execStok o s
  | .ssysrd o => Sys2Proof.Machine.execSsysrd o s
  | .ssyswr o => Sys2Proof.Machine.execSsyswr o s
  | .faddF32 o => Sys2Proof.Machine.execFaddF32 o s
  | .faddBf16 o => Sys2Proof.Machine.execFaddBf16 o s
  | .faddF16 o => Sys2Proof.Machine.execFaddF16 o s
  | .fsubF32 o => Sys2Proof.Machine.execFsubF32 o s
  | .fsubBf16 o => Sys2Proof.Machine.execFsubBf16 o s
  | .fsubF16 o => Sys2Proof.Machine.execFsubF16 o s
  | .fmulF32 o => Sys2Proof.Machine.execFmulF32 o s
  | .fmulBf16 o => Sys2Proof.Machine.execFmulBf16 o s
  | .fmulF16 o => Sys2Proof.Machine.execFmulF16 o s
  | .ffmaF32 o => Sys2Proof.Machine.execFfmaF32 o s
  | .ffmaBf16 o => Sys2Proof.Machine.execFfmaBf16 o s
  | .ffmaF16 o => Sys2Proof.Machine.execFfmaF16 o s
  | .fminF32 o => Sys2Proof.Machine.execFminF32 o s
  | .fminBf16 o => Sys2Proof.Machine.execFminBf16 o s
  | .fminF16 o => Sys2Proof.Machine.execFminF16 o s
  | .fmaxF32 o => Sys2Proof.Machine.execFmaxF32 o s
  | .fmaxBf16 o => Sys2Proof.Machine.execFmaxBf16 o s
  | .fmaxF16 o => Sys2Proof.Machine.execFmaxF16 o s
  | .fdiv o => Sys2Proof.Machine.execFdiv o s
  | .frcp o => Sys2Proof.Machine.execFrcp o s
  | .frsq o => Sys2Proof.Machine.execFrsq o s
  | .fsqrt o => Sys2Proof.Machine.execFsqrt o s
  | .fexp2 o => Sys2Proof.Machine.execFexp2 o s
  | .flog2 o => Sys2Proof.Machine.execFlog2 o s
  | .fsin o => Sys2Proof.Machine.execFsin o s
  | .fcos o => Sys2Proof.Machine.execFcos o s
  | .fcmpF32 o => Sys2Proof.Machine.execFcmpF32 o s
  | .fcmpBf16 o => Sys2Proof.Machine.execFcmpBf16 o s
  | .fcmpF16 o => Sys2Proof.Machine.execFcmpF16 o s
  | .fclassF32 o => Sys2Proof.Machine.execFclassF32 o s
  | .fclassBf16 o => Sys2Proof.Machine.execFclassBf16 o s
  | .fclassF16 o => Sys2Proof.Machine.execFclassF16 o s
  | .cvt o => Sys2Proof.Machine.execCvt o s
  | .iaddB32 o => Sys2Proof.Machine.execIaddB32 o s
  | .iaddB64 o => Sys2Proof.Machine.execIaddB64 o s
  | .isubB32 o => Sys2Proof.Machine.execIsubB32 o s
  | .isubB64 o => Sys2Proof.Machine.execIsubB64 o s
  | .imulB32 o => Sys2Proof.Machine.execImulB32 o s
  | .imulhiI32 o => Sys2Proof.Machine.execImulhiI32 o s
  | .imulhiN32 o => Sys2Proof.Machine.execImulhiN32 o s
  | .imadB32 o => Sys2Proof.Machine.execImadB32 o s
  | .iaddsI32 o => Sys2Proof.Machine.execIaddsI32 o s
  | .iaddsN32 o => Sys2Proof.Machine.execIaddsN32 o s
  | .isubsI32 o => Sys2Proof.Machine.execIsubsI32 o s
  | .isubsN32 o => Sys2Proof.Machine.execIsubsN32 o s
  | .iminI32 o => Sys2Proof.Machine.execIminI32 o s
  | .iminN32 o => Sys2Proof.Machine.execIminN32 o s
  | .imaxI32 o => Sys2Proof.Machine.execImaxI32 o s
  | .imaxN32 o => Sys2Proof.Machine.execImaxN32 o s
  | .andB32 o => Sys2Proof.Machine.execAndB32 o s
  | .orB32 o => Sys2Proof.Machine.execOrB32 o s
  | .xorB32 o => Sys2Proof.Machine.execXorB32 o s
  | .notB32 o => Sys2Proof.Machine.execNotB32 o s
  | .shlB32 o => Sys2Proof.Machine.execShlB32 o s
  | .shrN32 o => Sys2Proof.Machine.execShrN32 o s
  | .shrI32 o => Sys2Proof.Machine.execShrI32 o s
  | .icmpI32 o => Sys2Proof.Machine.execIcmpI32 o s
  | .icmpN32 o => Sys2Proof.Machine.execIcmpN32 o s
  | .icmpI64 o => Sys2Proof.Machine.execIcmpI64 o s
  | .icmpN64 o => Sys2Proof.Machine.execIcmpN64 o s
  | .popcB32 o => Sys2Proof.Machine.execPopcB32 o s
  | .clzB32 o => Sys2Proof.Machine.execClzB32 o s
  | .brevB32 o => Sys2Proof.Machine.execBrevB32 o s
  | .movB32 o => Sys2Proof.Machine.execMovB32 o s
  | .shflB32 o => Sys2Proof.Machine.execShflB32 o s
  | .vany o => Sys2Proof.Machine.execVany o s
  | .vall o => Sys2Proof.Machine.execVall o s
  | .ballotB32 o => Sys2Proof.Machine.execBallotB32 o s
  | .redaddI32 o => Sys2Proof.Machine.execRedaddI32 o s
  | .redaddF32 o => Sys2Proof.Machine.execRedaddF32 o s
  | .redminI32 o => Sys2Proof.Machine.execRedminI32 o s
  | .redminN32 o => Sys2Proof.Machine.execRedminN32 o s
  | .redminF32 o => Sys2Proof.Machine.execRedminF32 o s
  | .redmaxI32 o => Sys2Proof.Machine.execRedmaxI32 o s
  | .redmaxN32 o => Sys2Proof.Machine.execRedmaxN32 o s
  | .redmaxF32 o => Sys2Proof.Machine.execRedmaxF32 o s
  | .redandB32 o => Sys2Proof.Machine.execRedandB32 o s
  | .redorB32 o => Sys2Proof.Machine.execRedorB32 o s
  | .redxorB32 o => Sys2Proof.Machine.execRedxorB32 o s
  | .scanaddI32 o => Sys2Proof.Machine.execScanaddI32 o s
  | .scanaddF32 o => Sys2Proof.Machine.execScanaddF32 o s
  | .xscanaddI32 o => Sys2Proof.Machine.execXscanaddI32 o s
  | .xscanaddF32 o => Sys2Proof.Machine.execXscanaddF32 o s
  | .scanmaxF32 o => Sys2Proof.Machine.execScanmaxF32 o s
  | .scanminF32 o => Sys2Proof.Machine.execScanminF32 o s
  | .vsysrd o => Sys2Proof.Machine.execVsysrd o s
  | .ldgB8 o => Sys2Proof.Machine.execLdgB8 o s
  | .ldgI8 o => Sys2Proof.Machine.execLdgI8 o s
  | .ldgB16 o => Sys2Proof.Machine.execLdgB16 o s
  | .ldgI16 o => Sys2Proof.Machine.execLdgI16 o s
  | .ldgB32 o => Sys2Proof.Machine.execLdgB32 o s
  | .ldgB64 o => Sys2Proof.Machine.execLdgB64 o s
  | .stgB8 o => Sys2Proof.Machine.execStgB8 o s
  | .stgB16 o => Sys2Proof.Machine.execStgB16 o s
  | .stgB32 o => Sys2Proof.Machine.execStgB32 o s
  | .stgB64 o => Sys2Proof.Machine.execStgB64 o s
  | .ldsB8 o => Sys2Proof.Machine.execLdsB8 o s
  | .ldsI8 o => Sys2Proof.Machine.execLdsI8 o s
  | .ldsB16 o => Sys2Proof.Machine.execLdsB16 o s
  | .ldsI16 o => Sys2Proof.Machine.execLdsI16 o s
  | .ldsB32 o => Sys2Proof.Machine.execLdsB32 o s
  | .ldsB64 o => Sys2Proof.Machine.execLdsB64 o s
  | .stsB8 o => Sys2Proof.Machine.execStsB8 o s
  | .stsB16 o => Sys2Proof.Machine.execStsB16 o s
  | .stsB32 o => Sys2Proof.Machine.execStsB32 o s
  | .stsB64 o => Sys2Proof.Machine.execStsB64 o s
  | .ldtB8 o => Sys2Proof.Machine.execLdtB8 o s
  | .ldtB16 o => Sys2Proof.Machine.execLdtB16 o s
  | .ldtB32 o => Sys2Proof.Machine.execLdtB32 o s
  | .ldzB32 o => Sys2Proof.Machine.execLdzB32 o s
  | .ldzB64 o => Sys2Proof.Machine.execLdzB64 o s
  | .atomAddB32 o => Sys2Proof.Machine.execAtomAddB32 o s
  | .atomMinI32 o => Sys2Proof.Machine.execAtomMinI32 o s
  | .atomMinN32 o => Sys2Proof.Machine.execAtomMinN32 o s
  | .atomMaxI32 o => Sys2Proof.Machine.execAtomMaxI32 o s
  | .atomMaxN32 o => Sys2Proof.Machine.execAtomMaxN32 o s
  | .atomAndB32 o => Sys2Proof.Machine.execAtomAndB32 o s
  | .atomOrB32 o => Sys2Proof.Machine.execAtomOrB32 o s
  | .atomXorB32 o => Sys2Proof.Machine.execAtomXorB32 o s
  | .atomExchB32 o => Sys2Proof.Machine.execAtomExchB32 o s
  | .atomCasB32 o => Sys2Proof.Machine.execAtomCasB32 o s
  | .atomFaddF32 o => Sys2Proof.Machine.execAtomFaddF32 o s
  | .atomIncwN32 o => Sys2Proof.Machine.execAtomIncwN32 o s
  | .atomBfaddN32 o => Sys2Proof.Machine.execAtomBfaddN32 o s
  | .atomAddB64 o => Sys2Proof.Machine.execAtomAddB64 o s
  | .atomMinI64 o => Sys2Proof.Machine.execAtomMinI64 o s
  | .atomMinN64 o => Sys2Proof.Machine.execAtomMinN64 o s
  | .atomMaxI64 o => Sys2Proof.Machine.execAtomMaxI64 o s
  | .atomMaxN64 o => Sys2Proof.Machine.execAtomMaxN64 o s
  | .atomAndB64 o => Sys2Proof.Machine.execAtomAndB64 o s
  | .atomOrB64 o => Sys2Proof.Machine.execAtomOrB64 o s
  | .atomXorB64 o => Sys2Proof.Machine.execAtomXorB64 o s
  | .atomExchB64 o => Sys2Proof.Machine.execAtomExchB64 o s
  | .atomCasB64 o => Sys2Proof.Machine.execAtomCasB64 o s
  | .atomIncwN64 o => Sys2Proof.Machine.execAtomIncwN64 o s
  | .atomBfaddN64 o => Sys2Proof.Machine.execAtomBfaddN64 o s
  | .wardw o => Sys2Proof.Machine.execWardw o s
  | .fence o => Sys2Proof.Machine.execFence o s
  | .snapo o => Sys2Proof.Machine.execSnapo o s
  | .snapc o => Sys2Proof.Machine.execSnapc o s
  | .txb o => Sys2Proof.Machine.execTxb o s
  | .txc => Sys2Proof.Machine.execTxc s
  | .txa => Sys2Proof.Machine.execTxa s
  | .keep o => Sys2Proof.Machine.execKeep o s
  | .unkeep o => Sys2Proof.Machine.execUnkeep o s
  | .pf o => Sys2Proof.Machine.execPf o s
  | .harr o => Sys2Proof.Machine.execHarr o s
  | .hwait o => Sys2Proof.Machine.execHwait o s
  | .bra disp => Sys2Proof.Machine.execBra disp s
  | .brc neg c disp => Sys2Proof.Machine.execBrc neg c disp s
  | .brd neg k disp => Sys2Proof.Machine.execBrd neg k disp s
  | .brx pair => Sys2Proof.Machine.execBrx pair s
  | .call pair disp => Sys2Proof.Machine.execCall pair disp s
  | .ret pair => Sys2Proof.Machine.execRet pair s
  | .join j => Sys2Proof.Machine.execJoin j s
  | .jwait j => Sys2Proof.Machine.execJwait j s
  | .exit => Sys2Proof.Machine.execExit s
  | .yield => Sys2Proof.Machine.execYield s
  | .serb => Sys2Proof.Machine.execSerb s
  | .sere => Sys2Proof.Machine.execSere s
  | .bar a => Sys2Proof.Machine.execBar a s
  | .trap code => Sys2Proof.Machine.execTrap code s
  | .brk tag => Sys2Proof.Machine.execBrk tag s
  | .cwait ld st cp tl => Sys2Proof.Machine.execCwait ld st cp tl s
  | .launch pair => Sys2Proof.Machine.execLaunch pair s
  | .halt => Sys2Proof.Machine.execHalt s
  | .nop => Sys2Proof.Machine.execNop s
  | .mld o => Sys2Proof.Machine.execMld o s
  | .mma o => Sys2Proof.Machine.execMma o s
  | .mmar o => Sys2Proof.Machine.execMmar o s
  | .mzero tile => Sys2Proof.Machine.execMzero tile s
  | .mdrain o => Sys2Proof.Machine.execMdrain o s
  | .mrowrd o => Sys2Proof.Machine.execMrowrd o s
  | .mrowwr o => Sys2Proof.Machine.execMrowwr o s
  | .cpyin1 o => Sys2Proof.Machine.execCpyin1 o s
  | .cpyin2 o => Sys2Proof.Machine.execCpyin2 o s
  | .cpyin3 o => Sys2Proof.Machine.execCpyin3 o s
  | .cpyout1 o => Sys2Proof.Machine.execCpyout1 o s
  | .cpyout2 o => Sys2Proof.Machine.execCpyout2 o s
  | .cpyout3 o => Sys2Proof.Machine.execCpyout3 o s
  | .cpyg o => Sys2Proof.Machine.execCpyg o s
  | .cpys o => Sys2Proof.Machine.execCpys o s
  | .rpush o => Sys2Proof.Machine.execRpush o s
  | .rresv o => Sys2Proof.Machine.execRresv o s
  | .rdone o => Sys2Proof.Machine.execRdone o s
  | .rpop o => Sys2Proof.Machine.execRpop o s
  | .rrel o => Sys2Proof.Machine.execRrel o s
  | .mcast o => Sys2Proof.Machine.execMcast o s
  | .put o => Sys2Proof.Machine.execPut o s
  | .putsig o => Sys2Proof.Machine.execPutsig o s
  | .get o => Sys2Proof.Machine.execGet o s
  | .raddF32 o => Sys2Proof.Machine.execRaddF32 o s
  | .rmaxF32 o => Sys2Proof.Machine.execRmaxF32 o s
  | .rsmx o => Sys2Proof.Machine.execRsmx o s
  | .winq d => Sys2Proof.Machine.execWinq d s
  | .jfence => Sys2Proof.Machine.execJfence s
  | .hingeStop => Sys2Proof.Machine.execHingeStop s
  | .hingeBr => Sys2Proof.Machine.execHingeBr s
  | .hingeBnz => Sys2Proof.Machine.execHingeBnz s
  | .hingeLoop => Sys2Proof.Machine.execHingeLoop s
  | .hingeMovi => Sys2Proof.Machine.execHingeMovi s
  | .hingeAdd => Sys2Proof.Machine.execHingeAdd s
  | .hingeAddi => Sys2Proof.Machine.execHingeAddi s
  | .hingeMuli => Sys2Proof.Machine.execHingeMuli s
  | .hingeShli => Sys2Proof.Machine.execHingeShli s
  | .hingeLd => Sys2Proof.Machine.execHingeLd s
  | .hingeAwait => Sys2Proof.Machine.execHingeAwait s
  | .hingeArrive => Sys2Proof.Machine.execHingeArrive s
  | .hingePut => Sys2Proof.Machine.execHingePut s
  | .hingePutsig => Sys2Proof.Machine.execHingePutsig s
  | .hingeGet => Sys2Proof.Machine.execHingeGet s
  | .hingeRadd => Sys2Proof.Machine.execHingeRadd s
  | .hingeBld => Sys2Proof.Machine.execHingeBld s
  | .hingeBldW => Sys2Proof.Machine.execHingeBldW s
  | .hingeBst => Sys2Proof.Machine.execHingeBst s
  | .hingeBstW => Sys2Proof.Machine.execHingeBstW s
  | .hingeDec => Sys2Proof.Machine.execHingeDec s
  | .hingeFadd => Sys2Proof.Machine.execHingeFadd s
  | .hingeCmpr => Sys2Proof.Machine.execHingeCmpr s
  | .hingeLen => Sys2Proof.Machine.execHingeLen s
  | .hingeEmax => Sys2Proof.Machine.execHingeEmax s
  | .hingeImax => Sys2Proof.Machine.execHingeImax s
  | .hingeAlign => Sys2Proof.Machine.execHingeAlign s
  | .hingeIadd => Sys2Proof.Machine.execHingeIadd s
  | .hingeCvtb => Sys2Proof.Machine.execHingeCvtb s
  | .hingeCsa => Sys2Proof.Machine.execHingeCsa s
  | .hingeCsc => Sys2Proof.Machine.execHingeCsc s
  | .hingeCsg => Sys2Proof.Machine.execHingeCsg s
  | .hingeCsr => Sys2Proof.Machine.execHingeCsr s
  | .hingeCkpt => Sys2Proof.Machine.execHingeCkpt s
  | .hingeSel => Sys2Proof.Machine.execHingeSel s
  | .hingeNop => Sys2Proof.Machine.execHingeNop s
  | .acceptPacket => Sys2Proof.Machine.execAcceptPacket s
  | .placeGang => Sys2Proof.Machine.execPlaceGang s
  | .placerBlock => Sys2Proof.Machine.execPlacerBlock s
  | .clauseIssue => Sys2Proof.Machine.execClauseIssue s
  | .slotStarvationLimit => Sys2Proof.Machine.execSlotStarvationLimit s
  | .clauseComplete => Sys2Proof.Machine.execClauseComplete s
  | .groupWaitEnd => Sys2Proof.Machine.execGroupWaitEnd s
  | .watchdogExpiry => Sys2Proof.Machine.execWatchdogExpiry s
  | .firmwareResumeGroup => Sys2Proof.Machine.execFirmwareResumeGroup s
  | .launchEnd => Sys2Proof.Machine.execLaunchEnd s
  | .launchRetire => Sys2Proof.Machine.execLaunchRetire s
  | .loadDataReturn => Sys2Proof.Machine.execLoadDataReturn s
  | .storeAccept => Sys2Proof.Machine.execStoreAccept s
  | .copyComplete => Sys2Proof.Machine.execCopyComplete s
  | .tileOpComplete => Sys2Proof.Machine.execTileOpComplete s
  | .mldReachEngine => Sys2Proof.Machine.execMldReachEngine s
  | .fabricOpComplete => Sys2Proof.Machine.execFabricOpComplete s
  | .walkDispatch => Sys2Proof.Machine.execWalkDispatch s
  | .walkComplete => Sys2Proof.Machine.execWalkComplete s
  | .homeRequest => Sys2Proof.Machine.execHomeRequest s
  | .hostRequest => Sys2Proof.Machine.execHostRequest s
  | .l2Fill => Sys2Proof.Machine.execL2Fill s
  | .collectorReclaim => Sys2Proof.Machine.execCollectorReclaim s
  | .collectorSettle => Sys2Proof.Machine.execCollectorSettle s
  | .windowEnter => Sys2Proof.Machine.execWindowEnter s
  | .closeMarkerReceive => Sys2Proof.Machine.execCloseMarkerReceive s
  | .deliveryGiveUp => Sys2Proof.Machine.execDeliveryGiveUp s
  | .giveUpNoticeReceive => Sys2Proof.Machine.execGiveUpNoticeReceive s
  | .fabricOpArrive => Sys2Proof.Machine.execFabricOpArrive s
  | .fabricOpRelease => Sys2Proof.Machine.execFabricOpRelease s
  | .slotContributionArrive => Sys2Proof.Machine.execSlotContributionArrive s
  | .channelSwitch => Sys2Proof.Machine.execChannelSwitch s
  | .channelRunLimit => Sys2Proof.Machine.execChannelRunLimit s
  | .rdoneTakeEffect => Sys2Proof.Machine.execRdoneTakeEffect s
  | .rrelTakeEffect => Sys2Proof.Machine.execRrelTakeEffect s
  | .unitSpill => Sys2Proof.Machine.execUnitSpill s
  | .gangReload => Sys2Proof.Machine.execGangReload s
  | .quantumExpiry => Sys2Proof.Machine.execQuantumExpiry s
  | .budgetTick => Sys2Proof.Machine.execBudgetTick s
  | .idleTimeout => Sys2Proof.Machine.execIdleTimeout s
  | .collapseComplete => Sys2Proof.Machine.execCollapseComplete s
  | .wakeComplete => Sys2Proof.Machine.execWakeComplete s
  | .tinvWrite => Sys2Proof.Machine.execTinvWrite s
  | .tinvComplete => Sys2Proof.Machine.execTinvComplete s
  | .grootWrite => Sys2Proof.Machine.execGrootWrite s
  | .kctlWrite => Sys2Proof.Machine.execKctlWrite s
  | .pllcwWrite => Sys2Proof.Machine.execPllcwWrite s
  | .registerWrite => Sys2Proof.Machine.execRegisterWrite s
  | .vdCreate => Sys2Proof.Machine.execVdCreate s
  | .vdDestroy => Sys2Proof.Machine.execVdDestroy s
  | .vdJoin => Sys2Proof.Machine.execVdJoin s
  | .vdLeave => Sys2Proof.Machine.execVdLeave s
  | .vdCollapse => Sys2Proof.Machine.execVdCollapse s
  | .vdWake => Sys2Proof.Machine.execVdWake s
  | .vdMigrateOut => Sys2Proof.Machine.execVdMigrateOut s
  | .vdMigrateIn => Sys2Proof.Machine.execVdMigrateIn s
  | .vdEndForwarding => Sys2Proof.Machine.execVdEndForwarding s
  | .vwakeWrite => Sys2Proof.Machine.execVwakeWrite s
  | .gwakeWrite => Sys2Proof.Machine.execGwakeWrite s
  | .gendWrite => Sys2Proof.Machine.execGendWrite s
  | .gdoorWrite => Sys2Proof.Machine.execGdoorWrite s
  | .sqtailWrite => Sys2Proof.Machine.execSqtailWrite s
  | .shadowQueueRead => Sys2Proof.Machine.execShadowQueueRead s
  | .loadImage => Sys2Proof.Machine.execLoadImage s
  | .attest => Sys2Proof.Machine.execAttest s
  | .checkpointStart => Sys2Proof.Machine.execCheckpointStart s
  | .checkpointComplete => Sys2Proof.Machine.execCheckpointComplete s
  | .moduleReset => Sys2Proof.Machine.execModuleReset s
  | .linkTrainingComplete => Sys2Proof.Machine.execLinkTrainingComplete s
  | .supplySag => Sys2Proof.Machine.execSupplySag s
  | .sagRecovery => Sys2Proof.Machine.execSagRecovery s
  | .uncorrectableError => Sys2Proof.Machine.execUncorrectableError s
  | .correctedError => Sys2Proof.Machine.execCorrectedError s
  | .pluginViolation => Sys2Proof.Machine.execPluginViolation s
  | .vdDestroyComplete => Sys2Proof.Machine.execVdDestroyComplete s
  | .forwardingEntry => Sys2Proof.Machine.execForwardingEntry s

end Sys2Proof.Machine
end

