-- ==== Sys2Proof/Machine/Schedule.lean ====
section
/-! DEFINITION. The turns that the machine can take, and what each does: a word of a clause, a word of a hinge program, an event, the
passing of time, an input. The choice among turns that no rule orders is free (log 1). -/

namespace Sys2Proof.Machine

open Sys2Proof

/-! ## A word of a clause (R196, R227, R251) -/

/-- The words that an illegal instruction takes, of those that its clause still has: two in the memory class, and with a vector prefix
(R227, R242). -/
def illegalLen (c : EngineClass) (ws : List Word) : Nat :=
  match c with
  | .memory => min 2 ws.length
  | .vector => match ws with
    | w :: _ => if fldN w 25 7 == pfxOp then min 2 ws.length else 1
    | [] => 1
  | _ => 1

/-- A group executes the next word of its clause. -/
def Group.executing (g : Group) : Bool :=
  g.clause.live && g.phase == .resident && decide (g.clause.idx < g.clause.count) && g.clause.active != 0

/-- The instruction that a group executes next: decoded, of a level that its launch admits, and its length; else the length of what is
illegal. -/
def State.nextInstr (s : State) (g : Group) : Except Nat (Instr × Nat) :=
  let ws := g.clause.words.drop g.clause.idx
  match decode g.clause.cls ws with
  | .ok (i, n) => if i.level ≤ s.levelOf g then .ok (i, n) else .error n
  | .error _ => .error (illegalLen g.clause.cls ws)

/-- The state in which a group executes its instruction. -/
def State.executes (s : State) (c k n : Nat) : State := { s.withGroup c k (fun g => g.withLen n) with actor := .group c k }

/-- What an instruction leaves, and then the group behind it. -/
def finishWord (c k : Nat) : Result → Result
  | .next t => .next (t.withGroup c k Group.pass)
  | .fault f => .fault f
  | .refused r => .refused r

/-- The next word of a group's clause. -/
def runWord (s : State) (c k : Nat) : Result :=
  match s.group? c k with
  | none => .refused .noIssuer
  | some g =>
    if !g.executing then .next s
    else
      match s.nextInstr g with
      | .ok (i, n) => finishWord c k (exec i (s.executes c k n))
      | .error n => finishWord c k (.next ((s.executes c k n).withGroup c k Group.illegal))

/-! ## A word of a hinge program (R370, R373, R382, R412) -/

/-- A channel's word fetched from its program. -/
def State.fetchHinge (s : State) (h n : Nat) (ch : Channel) : State :=
  s.withAccess h n ch .fetch ch.pc.toNat 4 1 fun t ps =>
    t.withChannel h n fun c => { c with word := some (BitVec.ofNat 32 (ofBytes (t.homeBytes ps))), wait := none }

/-- A channel's word executed: an illegal one, or one above the collective's level, ends the program with status 1. -/
def State.executeHinge (s : State) (h n : Nat) (ch : Channel) (w : Word) : Result :=
  match decodeHingeWord w with
  | .ok i => if i.level ≤ ch.hlev then exec i { s with actor := .channel h n } else .next (s.chanFail h n 1 0)
  | .error _ => .next (s.chanFail h n 1 0)

/-- The running channel of a hinge processor fetches its next word, or executes the one it has, until a switch is due. -/
def runHinge (s : State) (h : Nat) : Result :=
  let x := s.hinge h
  match x.running with
  | none => .next s
  | some n =>
    match x.chans.look n with
    | none => .next s
    | some ch =>
      if x.switch || x.atLimit || !s.chanReady ch || (s.device ch.vd).throttled then .next s
      else
        match ch.word with
        | none => .next (s.fetchHinge h n ch)
        | some w => s.executeHinge h n ch w

/-! ## Time (R1, R120, R127, R216, R221, R226, R382, R434) -/

/-- Core cycles in 64 nanoseconds: of the arithmetic clock at 2.25 GHz with s of its sixteenths lost to sag, or at 1.125 GHz before full
service (R434). -/
def Module.clockRate (m : Module) : Nat := if m.svc = 2 then 9 * (16 - m.sag) else 72

/-- What the passing of `cy` core cycles does to a group: its watchdog counts while it meets R219, and its wait for a choice too,
which starts anew when it does not (R221). -/
def State.ageGroup (s : State) (cy : Nat) (g : Group) : Group :=
  if s.canIssue g then { g with watchdog := g.watchdog + cy, passed := if g.clause.live then 0 else g.passed + cy }
  else { g with passed := 0, starved := false }

/-- Time passes: `ns` nanoseconds and the core cycles in them; a hinge processor makes 3 half cycles in a nanosecond. -/
def State.passTime (s : State) (ns : Nat) : State :=
  let parts := s.clockPart + ns * s.module.clockRate
  let cy := parts / 64
  let s1 := s.releaseSent.mapGroups fun _ _ g => s.ageGroup cy g
  { s1 with
    ptp := s.ptp + ns, cycles := s.cycles + cy, clockPart := parts % 64,
    launches := s.launches.mapAll fun i l => if s.passedOver i then { l with passed := l.passed + cy } else l,
    hinges := s.hinges.mapAll fun _ h => if h.running.isSome then { h with ran := h.ran + 3 * ns } else h }

/-! ## Inputs -/

/-- A write of a register has arrived; one through the physical function has its place among the host's memory accesses (R138, R430). -/
def State.arriveWrite (s : State) (w : RegWrite) : State :=
  { s with regWrites := s.regWrites ++ [w], arrivals := if posted w then s.arrivals ++ [false] else s.arrivals }

/-- An access at an offset of the BAR0 of the physical function, or of the virtual function of a device: an unlisted offset reads 0 and
ignores writes (R426, R427). -/
def State.barAccess (s : State) (vf : Option Nat) (off : Nat) (value : Option DWord) : State :=
  let writer : Writer := if vf.isSome then .guest else .hypervisor
  let place := match vf with
    | none => pfPlace off
    | some v => vfPlace v off
  match place, value with
  | some (b, i, o), none => s.hostRead { writer := writer, block := b, index := i, offset := o }
  | some (b, i, o), some x => s.arriveWrite { writer := writer, block := b, index := i, offset := o, value := x }
  | none, none => { s with hostReplies := s.hostReplies ++ [toBytes 8 0] }
  | none, some _ => s

/-- A channel has run out of credits for a port, or has them again (R382, R383). -/
def Channel.credit (x : Channel) (port : Nat) (available : Bool) : Channel :=
  { x with nocredit := if available then x.nocredit.filter (· != port) else if x.nocredit.contains port then x.nocredit else x.nocredit ++ [port] }

/-- An input joins the queue from which the step of the table takes it. -/
def State.accept (s : State) : Input → State
  | .fabric x => { s with wire := s.wire ++ [x] }
  | .marker x => { s with markersIn := s.markersIn ++ [x] }
  | .notice x => { s with noticesIn := s.noticesIn ++ [x] }
  | .ack x => { s with acks := s.acks ++ [x] }
  | .host x => { s with hostq := s.hostq ++ [x], arrivals := s.arrivals ++ [true] }
  | .regRead x => s.hostRead x
  | .regWrite x => s.arriveWrite x
  | .bar vf off x => s.barAccess vf off x
  | .credit h n port b => s.withChannel h n fun x => x.credit port b
  | .sag b => s.withModule fun m => { m with sagReported := b, sagAt := s.ptp }
  | .image k x => { s with images := s.images.put k x }
  | .forwardAck v => s.withDevice v fun d => { d with forwarded := d.forwarded - 1 }

/-! ## Turns -/

/-- The event of a command of `VCMD` (R406). -/
def commandEvent (n : Nat) : Instr :=
  match n with
  | 1 => .vdCreate | 2 => .vdDestroy | 3 => .vdJoin | 4 => .vdLeave | 5 => .vdCollapse | 6 => .vdWake | 7 => .vdMigrateOut
  | 8 => .vdMigrateIn | 9 => .vdEndForwarding | _ => .registerWrite

/-- The event that takes a write of a register. -/
def writeEvent (w : RegWrite) : Instr :=
  if !writeSpecial w then .registerWrite
  else
    match w.block with
    | .partition => .pllcwWrite
    | .keeper => .kctlWrite
    | .xlate => if w.offset = 0 then .grootWrite else .tinvWrite
    | .vdev => if w.offset = 0x38 then commandEvent (bits w.value 0 8) else .vwakeWrite
    | .guest => if w.offset = 0 then .gwakeWrite else if w.offset = 8 then .gendWrite else .gdoorWrite
    | .queue => if w.offset = 0x98 then .checkpointStart else .sqtailWrite
    | _ => .registerWrite

/-- What a turn does. An event of the table has no words, so no turn runs an instruction of a group or a channel out of its place. -/
def perform (t : Turn) (s : State) : Result :=
  match t with
  | .word c k => runWord s c k
  | .hinge h => runHinge s h
  | .event i a => if i.engineClass.isSome then .next s else exec i { s with actor := a }
  | .time => .next (s.passTime (Config.elapsedNs s.tick))
  | .input x => .next (s.accept x)

/-- The events of an object. -/
def eventsOf (a b c : Nat) (is : List Instr) : List Turn := is.map fun i => .event i (.object a b c)

/-- The places of a list. -/
def places {α : Type} (l : List α) : List Nat := List.range l.length

/-- The turns of a core. -/
def coreTurns (c : Nat) (x : Core) : List Turn :=
  (List.range Config.issueSlots).map (fun q => .event .clauseIssue (.object c q 0))
    ++ eventsOf c 0 0 [.storeAccept]
    ++ x.groups.flatMap (fun g => .word c g.1
        :: eventsOf c g.1 0 [.clauseComplete, .groupWaitEnd, .watchdogExpiry, .slotStarvationLimit]
        ++ g.2.loads.flatMap fun o => eventsOf c g.1 o.op [.loadDataReturn])
    ++ x.gangs.flatMap fun y => eventsOf c y.1 0 [.unitSpill, .gangReload]
        ++ y.2.rings.flatMap fun r => eventsOf c y.1 r.1 [.rdoneTakeEffect, .rrelTakeEffect]

/-- The turns of a die. -/
def dieTurns (d : Nat) (x : Die) : List Turn :=
  eventsOf d 0 0 [.walkDispatch] ++ (places x.misses).flatMap (fun i => eventsOf d i 0 [.walkComplete])
    ++ eventsOf d 0 0 [.l2Fill]

/-- The turns of a virtual device. -/
def deviceTurns (v : Nat) (d : Device) : List Turn :=
  eventsOf v 0 0 [.acceptPacket, .windowEnter, .idleTimeout, .collapseComplete, .wakeComplete, .budgetTick, .tinvComplete,
      .vdDestroyComplete, .vdEndForwarding, .checkpointStart, .checkpointComplete]
    ++ (List.range 4).flatMap (fun q => eventsOf v q 0 [.shadowQueueRead])
    ++ (places d.held).flatMap fun i => eventsOf v i 0 [.fabricOpRelease, .slotContributionArrive]

/-- The turns of an engine operation. -/
def opTurns (id : Nat) (o : EngOp) : List Turn :=
  eventsOf id 0 0 [.copyComplete, .tileOpComplete] ++ (match o.kind with
    | .mld _ _ _ _ ts _ => ts.flatMap fun t => eventsOf id t.1 0 [.mldReachEngine]
    | _ => [])

/-- The writes of registers that may be performed next: the first of each writer (R138). -/
def firstWrites : List RegWrite → List RegWrite
  | [] => []
  | w :: rest => w :: (firstWrites rest).filter fun x => x.writer != w.writer

/-- The turns of firmware: a mailbox command in progress, and plug-ins that have made an access outside their confinement (R432, R433). -/
def moduleTurns (m : Module) : List Turn :=
  (match m.cmd with
    | some c => eventsOf 0 0 0 [if c = 1 then .loadImage else .attest]
    | none => [])
    ++ m.violations.flatMap (fun p => eventsOf p 0 0 [.pluginViolation])
    ++ eventsOf 0 0 0 (if m.booting then [.moduleReset] else [])

/-- Every turn that might be taken now without an input: one whose condition fails changes nothing. Of the events, those that come from
firmware, the sensors, the transport or another module stand in the agenda instead. -/
def State.candidates (s : State) : List Turn :=
  .time :: s.cores.flatMap (fun c => coreTurns c.1 c.2) ++ s.dies.flatMap (fun d => dieTurns d.1 d.2)
    ++ s.devices.flatMap (fun d => deviceTurns d.1 d.2) ++ s.ops.flatMap (fun o => opTurns o.1 o.2)
    ++ s.launches.flatMap (fun l => eventsOf l.1 0 0 [.placerBlock, .launchRetire])
    ++ (List.range Config.partitions).flatMap (fun p => eventsOf p 0 0 [.placeGang, .quantumExpiry])
    ++ s.hinges.flatMap (fun h => .hinge h.1 :: eventsOf h.1 0 0 [.channelSwitch, .channelRunLimit])
    ++ s.versions.flatMap (fun x => eventsOf x.1 0 0 [.collectorReclaim, .collectorSettle])
    ++ (places s.requests).flatMap (fun i => eventsOf i 0 0 [.homeRequest])
    ++ (places s.markersIn).flatMap (fun i => eventsOf i 0 0 [.closeMarkerReceive])
    ++ (places s.noticesIn).flatMap (fun i => eventsOf i 0 0 [.giveUpNoticeReceive])
    ++ (places s.wire).flatMap (fun i => eventsOf i 0 0 [.fabricOpArrive])
    ++ (places s.acks).flatMap (fun i => eventsOf i 0 0 [.fabricOpComplete])
    ++ eventsOf 0 0 0 [.hostRequest, .sagRecovery] ++ moduleTurns s.module
    ++ (firstWrites s.regWrites).map fun w => .event (writeEvent w) (.access w)

/-- A turn does something: it changes the machine, whoever acts apart. -/
def State.changes (s : State) (t : Turn) : Bool :=
  match perform t s with
  | .next x => decide ({ x with actor := s.actor } ≠ s)
  | .fault _ => true
  | .refused _ => false

/-- The turns that can be taken now. -/
def State.ready (s : State) : List Turn := s.candidates.filter s.changes

/-- The turn that is taken: the next of the agenda, else a free choice among those that can be taken. -/
def State.turn (s : State) : Turn :=
  match s.agenda with
  | t :: _ => t
  | [] => let l := s.ready; l.getD (Config.schedule s.tick % l.length) .time

/-- What is noted after every step: a device that has come to have work, and since when a device has been idle (R411, R418). -/
def State.note (s old : State) : State :=
  s.devices.foldl (fun a d => (a.noteWork old d.1).noteIdle d.1) s

/-- One step of the machine. -/
def State.advance (s : State) : Result :=
  match perform s.turn { s with agenda := s.agenda.tail, tick := s.tick + 1 } with
  | .next t => .next (t.note s)
  | .fault f => .fault f
  | .refused r => .refused r

/-! ## A program from outside (log 9) -/

/-- The packet of the launch under which a placed word runs: level 3, and nothing else. -/
def bareLaunch (part : Nat) : Launch :=
  { vd := 0, part := part, pkt := List.replicate 9 0 ++ [3#8], age := 0, deps := [], snap := none, coll := none, next := 0, passed := 0,
    blocked := false, ended := none }

/-- The clause that holds a placed instruction as its first. -/
def bareClause (cls : EngineClass) (ws : List Word) : Clause :=
  { Clause.idle with live := true, cls := cls, count := ws.length, words := ws, lits := List.replicate 15 0, active := BitVec.allOnes 32 }

/-- A group with every lane eligible in the middle of a clause. -/
def bareGroup (launch gang : Nat) (cl : Clause) : Group :=
  { launch := launch, gang := gang, ginfo := 0, budget := 128, sregs := [], masks := [], cond := 0, fmode := 0, tsz := 0, vregs := [],
    keys := [], bound := false, txs := 0, tx := none,
    lanes := (List.range 32).map fun l => (l, { Lane.exited (BitVec.ofNat 64 l) with state := .eligible, bankState := .eligible, pc := 0 }),
    normal := Bank.empty, trapBank := Bank.empty, phase := .resident, wait := none, loads := [], stores := [], copies := [], tiles := [],
    pend := [], remote := none, cause := none, entries := [], resumed := false, watchdog := 0, passed := 0, starved := false, seq := 0,
    walked := [], stage := 0, fenced := 0, asked := [], object := none, copied := [], clause := cl }

/-- The gang of that group. -/
def bareGang (launch : Nat) : Gang :=
  { launch := launch, number := 0, set := 0, base := 0, rows := 8192, panels := List.range 8, tiles := List.range 48, slots := [0],
    created := 1, regs := 128, bars := [], rings := [], claims := [], populated := true, spilled := [], saved := Saved.empty }

/-- The channel that has a placed word as its instruction in progress. -/
def bareChannel (launch : Nat) (w : Word) : Channel :=
  { vd := 0, part := 0, launch := launch, comm := 0, prio := 0, hlev := 3, compressed := false, len := 0, form := 0, nslot := 0, obj := none,
    prog := 0, count := 0, args := [], started := true, pc := 0, x := [], blen := 0, bufs := [], port := 4, word := some w, wait := none,
    sends := [], last := 0, passed := 0, atCkpt := false, nocredit := [], killed := false, failed := none }

/-- A machine whose next turn is a word placed in core 0 or hinge processor 0. -/
def State.place (s : State) (cls : EngineClass) (ws : List Word) : State :=
  let s1 := { s with launches := s.launches.put s.nextLaunch (bareLaunch 0), nextLaunch := s.nextLaunch + 1, nextGang := s.nextGang + 1 }
  match cls with
  | .hinge =>
    { s1.withHinge 0 (fun h => { h with chans := h.chans.put 0 (bareChannel s.nextLaunch (ws.headD 0)), running := some 0, switch := false })
      with agenda := [.hinge 0] }
  | _ =>
    { s1.withCore 0 (fun x => { x with groups := x.groups.put 0 (bareGroup s.nextLaunch s.nextGang (bareClause cls ws)),
                                       gangs := x.gangs.put s.nextGang (bareGang s.nextLaunch) })
      with agenda := [.word 0 0] }

end Sys2Proof.Machine
end

