-- ==== Sys2Proof/Machine/Step.lean ====
section
/-! DEFINITION. The step of the machine, and a word placed where it is executed next. -/

namespace Sys2Proof.Machine

open Sys2Proof

/-- One step: the next turn of the agenda, else one of those that can be taken. -/
def step (s : State) : Host.Outcome State Fault Refusal := s.advance

/-- A state whose next step executes the instruction that nbits bits hold, in the class that its words decode in. -/
def State.withFetchWord (s : State) (nbits w : Nat) : State := s.place ((tableWordClass nbits w).getD .scalar) (tableWords nbits w)

end Sys2Proof.Machine
end

