-- ==== Sys2Proof/Safety.lean ====
section
/-! DEFINITION. What counts as a safe run: a step that the hardware could make, and the form that every state keeps. -/

namespace Sys2Proof

open Sys2Proof.Machine

/-- A step ends in a next state. -/
def Safe (s : State) : Prop := ∃ t, core.step s = .next t

/-- A run of k steps from a state ends in a next state. -/
def SafeRun (k : Nat) (s : State) : Prop := ∃ t, core.run k s = .next t

/-- The memories of the machine are in their canonical form (log 3). -/
def MemoryForm (s : State) : Prop := s.mem.wf = true ∧ s.host.wf = true ∧ s.store.wf = true

end Sys2Proof
end

