-- ==== Sys2Proof/Certificates/Slice0/Terms.lean ====
section
/-! DEFINITION. The terms in which the statements are made: who executes, what an instruction inside one group may change, what a
vector instruction does to its lanes, what the memory reads. -/

namespace Sys2Proof.Claim

open Sys2Proof Sys2Proof.Machine

/-! ## Who executes, and what stays -/

/-- The step's issuer is the group g in slot k of core c. -/
def Runs (s : State) (c k : Nat) (g : Group) : Prop := s.actor = .group c k ∧ s.group? c k = some g

/-- The instruction ends in a next state that differs from the old one in its group alone, for which P holds. Every byte of every
memory, every other group, every device and every queue stays as it was. -/
def InGroup (s : State) (c k : Nat) (i : Instr) (P : Group → Prop) : Prop :=
  ∃ g', exec i s = .next (s.setGroup c k g') ∧ P g'

/-- Every byte of the module's memory, of host memory and of the checkpoint store reads as before. -/
def SameMemory (s t : State) : Prop :=
  ∀ a, t.mem.read a = s.mem.read a ∧ t.host.read a = s.host.read a ∧ t.store.read a = s.store.read a

/-- Every byte of every core's scratchpad reads as before. -/
def SameScratch (s t : State) : Prop := ∀ c a, (t.core c).scratch.read a = (s.core c).scratch.read a

/-- Every group but one is as before. -/
def OtherGroups (s t : State) (c k : Nat) : Prop := ∀ c' k', ¬ (c' = c ∧ k' = k) → t.group? c' k' = s.group? c' k'

/-! ## Scalar results -/

/-- The scalar registers of the destination hold a value of 32 or 64 bits, low word first; every other scalar register and everything
else of the group is as before. -/
structure ScalarWrote (g g' : Group) (wide : Bool) (d : BitVec 6) (v : Nat) : Prop where
  low : g'.sreg d.toNat = BitVec.ofNat 32 v
  high : wide = true → g'.sreg (d.toNat + 1) = BitVec.ofNat 32 (v / 2 ^ 32)
  others : ∀ r, r ≠ d.toNat → ¬ (wide = true ∧ r = d.toNat + 1) → g'.sreg r = g.sreg r
  frame : { g' with sregs := g.sregs } = g

/-- The operand of a scalar register or pair, at the width of the instruction. -/
def operand (g : Group) (wide : Bool) (r : BitVec 6) : BitVec (widthOf wide) := BitVec.ofNat _ (g.sval wide r.toNat)

/-- The scalar instructions with a second operand (R262): the result is a function of the operands, and a literal that the clause does
not have traps. -/
def ScalarBinaryLaw (mk : ScalarBinary → Instr)
    (f : (n : Nat) → (old a b : BitVec n) → BitVec n) : Prop :=
  ∀ s c k g o, Runs s c k g →
    (∀ b, g.scalarSrc o.wide o.b = some b → InGroup s c k (mk o) fun g' =>
      ScalarWrote g g' o.wide o.d
        (f (widthOf o.wide) (operand g o.wide o.d) (operand g o.wide o.a) (BitVec.ofNat _ b)).toNat)
    ∧ (g.scalarSrc o.wide o.b = none → exec (mk o) s = .next (s.setGroup c k g.illegal))

/-- The scalar instructions with one operand. -/
def ScalarUnaryLaw (mk : ScalarUnary → Instr) (rel : (n : Nat) → (a : BitVec n) → Nat → Prop) : Prop :=
  ∀ s c k g o, Runs s c k g →
    InGroup s c k (mk o) fun g' => ∃ v, rel (widthOf o.wide) (operand g o.wide o.a) v ∧ ScalarWrote g g' o.wide o.d v

/-- One bit of `cond` written, the others and everything else as before (R267). -/
structure CondWrote (g g' : Group) (i : BitVec 3) (b : Bool) : Prop where
  bit : g'.cond.getLsbD i.toNat = b
  others : ∀ j, j ≠ i.toNat → g'.cond.getLsbD j = g.cond.getLsbD j
  frame : { g' with cond := g.cond } = g

/-- A relation on integers, as a proposition. -/
def relation (c : ICond) (x y : Int) : Prop :=
  match c with
  | .eq => x = y | .ne => x ≠ y | .lt => x < y | .le => x ≤ y | .gt => x > y | .ge => x ≥ y

/-! ## Vector results -/

/-- What an instruction computes for a lane: each element with its exceptions. -/
abbrev LaneFn := Nat → Nat → Nat × Num.Exc

/-- The exceptions of a lane: those of any of its elements. -/
def laneExc (E : Nat) (f : LaneFn) (l : Nat) : Num.Exc := (List.range E).foldl (fun e i => e ||| (f l i).2) Num.excNone

/-- The lane computes. -/
def computes (g : Group) (ctl : VectorCtl) (l : Nat) : Prop := (g.computing ctl).getLsbD l = true

/-- The lane raises an exception whose trap enable is set (R156). -/
def fpTraps (g : Group) (ctl : VectorCtl) (E : Nat) (f : LaneFn) (l : Nat) : Prop :=
  computes g ctl l ∧ (trapEnables g.fmode &&& laneExc E f l) ≠ 0#5

/-- The lane writes its results. -/
def completes (g : Group) (ctl : VectorCtl) (E : Nat) (f : LaneFn) (l : Nat) : Prop :=
  computes g ctl l ∧ (trapEnables g.fmode &&& laneExc E f l) = 0#5

/-- The number of registers of E elements. -/
def spanOfElems (is64 : Bool) (E : Nat) : Nat := if is64 then 2 * E else E

/-- Element e of a span as the registers stand. -/
def elemRaw (g : Group) (is64 : Bool) (v e l : Nat) : Nat :=
  if is64 then (g.vraw (v + 2 * e) l).toNat + 2 ^ 32 * (g.vraw (v + 2 * e + 1) l).toNat else (g.vraw (v + e) l).toNat

/-- Register v of lane l is written by an instruction with destination d. -/
def written (g : Group) (ctl : VectorCtl) (is64 : Bool) (d E : Nat) (f : LaneFn) (v l : Nat) : Prop :=
  d ≤ v ∧ v < d + spanOfElems is64 E ∧ (completes g ctl E f l ∨ (g.zeroing ctl).getLsbD l = true)

/-- The floating-point trap of a lane (R156, R386). -/
def fpEvent (g : Group) (E : Nat) (f : LaneFn) (l : Nat) : LaneEvent :=
  { lane := l, what := .trap .floating (excInfo (laneExc E f l)) 0, escalates := (g.lane l).trap, word := g.clause.idx,
    rword := g.clause.idx, sword := g.clause.idx + g.clause.len }

/-- What a vector instruction does (R283, R285, R156): computing lanes write their results and merge their flags, or take the
floating-point trap and write nothing; masked lanes write zero where ZERO is 1; nothing else changes but that a write ends what was to
be delivered to its register. -/
structure VectorEffect (g g' : Group) (ctl : VectorCtl) (is64 : Bool) (d E : Nat) (f : LaneFn) : Prop where
  results : ∀ l, l < 32 → completes g ctl E f l → ∀ e, e < E →
    elemRaw g' is64 d e l = (f l e).1 % 2 ^ (if is64 then 64 else 32)
  zeros : ∀ l, l < 32 → (g.zeroing ctl).getLsbD l = true → ∀ i, i < spanOfElems is64 E → g'.vraw (d + i) l = 0#32
  others : ∀ v l, l < 32 → ¬ written g ctl is64 d E f v l → g'.vraw v l = g.vraw v l
  flags : ∀ i, g'.fmode.getLsbD i = true ↔
    g.fmode.getLsbD i = true ∨ (11 ≤ i ∧ i < 16 ∧ ∃ l, l < 32 ∧ completes g ctl E f l ∧ (laneExc E f l).getLsbD (i - 11) = true)
  active : ∀ l, l < 32 → (g'.clause.active.getLsbD l = true ↔ g.clause.active.getLsbD l = true ∧ ¬ fpTraps g ctl E f l)
  events : ∃ ls : List Nat, ls.Pairwise (· < ·) ∧ (∀ l, l ∈ ls ↔ l < 32 ∧ fpTraps g ctl E f l)
    ∧ g'.clause.events = g.clause.events ++ ls.map (fpEvent g E f)
  clauseFrame : { g'.clause with active := g.clause.active, events := g.clause.events } = g.clause
  pending : ∀ p, p ∈ g'.pend → p ∈ g.pend
  kept : ∀ p v l, p ∈ g.pend → l < 32 → p.key = vkey v l → ¬ written g ctl is64 d E f v l → p ∈ g'.pend
  frame : { g' with vregs := g.vregs, pend := g.pend, fmode := g.fmode, clause := g.clause } = g

/-- Two-source vector instructions: their operands are registers of the group, and a register beyond the budget or a missing literal
traps (R193, R230, R285). -/
def VectorBinaryLaw (mk : VectorBinary → Instr) (is64 : Bool) (f : Group → VectorBinary → Nat → Nat → Nat × Num.Exc) : Prop :=
  ∀ s c k g o, Runs s c k g →
    (if g.inBudget o.d.toNat (operandSpan is64 is64 o.wid) = true ∧ g.inBudget o.a.toNat (operandSpan is64 is64 o.wid) = true
        ∧ g.srcOk is64 (operandSpan is64 is64 o.wid) o.b = true then
      InGroup s c k (mk o) fun g' => VectorEffect g g' o.ctl is64 o.d.toNat (elemsOf is64 o.wid)
        fun l e => f g o (g.velem s.tick is64 o.a.toNat e l) (g.srcElem s.tick is64 e l o.b)
    else exec (mk o) s = .next (s.setGroup c k g.illegal))

/-- One-source vector instructions. -/
def VectorUnaryLaw (mk : VectorUnary → Instr) (f : Group → VectorUnary → Nat → Nat × Num.Exc) : Prop :=
  ∀ s c k g o, Runs s c k g →
    (if g.inBudget o.d.toNat (elemsOf false o.wid) = true ∧ g.inBudget o.a.toNat (elemsOf false o.wid) = true then
      InGroup s c k (mk o) fun g' => VectorEffect g g' o.ctl false o.d.toNat (elemsOf false o.wid)
        fun l e => f g o (g.velem s.tick false o.a.toNat e l)
    else exec (mk o) s = .next (s.setGroup c k g.illegal))

/-- Three-source vector instructions. -/
def VectorTernaryLaw (mk : VectorTernary → Instr) (f : Group → VectorTernary → Nat → Nat → Nat → Nat × Num.Exc) : Prop :=
  ∀ s c k g o, Runs s c k g →
    (if g.inBudget o.d.toNat (elemsOf false o.wid) = true ∧ g.inBudget o.a.toNat (elemsOf false o.wid) = true
        ∧ g.srcOk false (elemsOf false o.wid) o.b = true ∧ g.inBudget o.c.toNat (elemsOf false o.wid) = true then
      InGroup s c k (mk o) fun g' => VectorEffect g g' o.ctl false o.d.toNat (elemsOf false o.wid)
        fun l e => f g o (g.velem s.tick false o.a.toNat e l) (g.srcElem s.tick false e l o.b) (g.velem s.tick false o.c.toNat e l)
    else exec (mk o) s = .next (s.setGroup c k g.illegal))

/-- A result of 32 or 64 bits that raises nothing. -/
def quiet {n : Nat} (x : BitVec n) : Nat × Num.Exc := (x.toNat, Num.excNone)

/-- A two-source integer instruction on words. -/
def IntLaw (mk : VectorBinary → Instr) (f : BitVec 32 → BitVec 32 → BitVec 32) : Prop :=
  VectorBinaryLaw mk false fun _ _ a b => quiet (f (BitVec.ofNat 32 a) (BitVec.ofNat 32 b))

/-- The bits and exceptions of FlushOut(RoundNE(±r, .f32)) of a positive real number r (R149, R154, R155): k × 2^q is the multiple of the
unit in the last place that is nearest to r, the even one where two are as near. -/
def NearestF32 (fz neg : Bool) (r : ℝ) (res : Nat × Num.Exc) : Prop :=
  ∃ (q : Int) (k : Nat),
    let v : ℝ := (k : ℝ) * 2 ^ q
    let delivers (x : ℝ) : Prop := ∃ m e, Num.decode Num.f32 res.1 = .fin neg m e ∧ (m : ℝ) * 2 ^ e = x
    q ≥ -149 ∧ (q = -149 ∨ (2 : ℝ) ^ (q + 23) ≤ r) ∧ r < 2 ^ (q + 24) ∧ abs (r - v) ≤ 2 ^ q / 2 ∧ (abs (r - v) = 2 ^ q / 2 → k % 2 = 0)
    ∧ res.1 < 2 ^ 32
    ∧ (2 ^ 128 ≤ v → Num.decode Num.f32 res.1 = .inf neg ∧ res.2 = Num.excOverflow ||| Num.excInexact)
    ∧ (v < 2 ^ 128 → (2 : ℝ) ^ (-126 : Int) ≤ v →
        delivers v ∧ (r = v → res.2 = Num.excNone) ∧ (r ≠ v → res.2 = Num.excInexact))
    ∧ (v < (2 : ℝ) ^ (-126 : Int) →
        (fz = true → 0 < v → delivers 0 ∧ res.2 = Num.excUnderflow ||| Num.excInexact)
        ∧ (fz = false ∨ v = 0 → delivers v ∧ (r = v → res.2 = Num.excNone) ∧ (r ≠ v → res.2 = Num.excUnderflow ||| Num.excInexact)))

/-! ## Numbers of the engines and the fabric -/

/-- The exact value of a finite number. -/
def worth : Num.Fp → ℚ
  | .fin s m e => (if s then -1 else 1) * (m : ℚ) * 2 ^ e
  | _ => 0

/-- The five floating-point formats (R143). -/
def formats : List Num.Fmt := [Num.f32, Num.bf16, Num.f16, Num.e4m3, Num.e5m2]

/-- The largest finite value of a format (R143, R149). -/
def greatest (F : Num.Fmt) : ℚ := if F.hasInf then (2 - (2 : ℚ) ^ (-(F.fbits : Int))) * 2 ^ F.bias else 448

/-- The smallest normal value of a format. -/
def leastNormal (F : Num.Fmt) : ℚ := (2 : ℚ) ^ (1 - (F.bias : Int))

/-- The canonical NaN of a format (R145). -/
def canonicalNaN (F : Num.Fmt) : Nat :=
  if F = Num.f32 then 0x7FC00000 else if F = Num.bf16 then 0x7FC0 else if F = Num.f16 then 0x7E00 else if F = Num.e4m3 then 0x7F else 0x7E

/-- k is the integer that a mode takes for the magnitude r of a number with a sign (R149). -/
def Chosen (m : RoundMode) (neg : Bool) (r : ℚ) (k : Nat) : Prop :=
  match m with
  | .ne => abs (r - k) ≤ 1 / 2 ∧ (abs (r - k) = 1 / 2 → k % 2 = 0)
  | .tz => (k : ℚ) ≤ r ∧ r < k + 1
  | .up => if neg then (k : ℚ) ≤ r ∧ r < k + 1 else r ≤ k ∧ (k : ℚ) < r + 1
  | .dn => if neg then r ≤ k ∧ (k : ℚ) < r + 1 else (k : ℚ) ≤ r ∧ r < k + 1

/-- An encoding stands for a finite number with a sign. -/
def Means (F : Num.Fmt) (w : Nat) (neg : Bool) (v : ℚ) : Prop :=
  w < 2 ^ F.width ∧ ∃ m e, Num.decode F w = .fin neg m e ∧ (m : ℚ) * 2 ^ e = v

/-- An encoding stands for an infinity. -/
def MeansInf (F : Num.Fmt) (w : Nat) (neg : Bool) : Prop := w < 2 ^ F.width ∧ Num.decode F w = .inf neg

/-- Bits and exceptions of FlushOut(Round(±r, F, m)) for a rational number r above 0 (R149, R154, R155): k × 2^q is the multiple of the
spacing at r that the mode takes. -/
def RoundedTo (F : Num.Fmt) (m : RoundMode) (fz neg : Bool) (r : ℚ) (res : Nat × Num.Exc) : Prop :=
  let low : Int := 1 - (F.bias : Int) - F.fbits
  ∃ (q : Int) (k : Nat),
    let v : ℚ := (k : ℚ) * 2 ^ q
    low ≤ q ∧ (q = low ∨ (2 : ℚ) ^ (q + F.fbits) ≤ r) ∧ r < 2 ^ (q + F.fbits + 1) ∧ Chosen m neg (r / 2 ^ q) k
    ∧ (greatest F < v → res.2 = Num.excOverflow ||| Num.excInexact
        ∧ if F.hasInf = true ∧ (m = .ne ∨ (m = .up ∧ neg = false) ∨ (m = .dn ∧ neg = true)) then MeansInf F res.1 neg
          else Means F res.1 neg (greatest F))
    ∧ (v ≤ greatest F → leastNormal F ≤ v →
        Means F res.1 neg v ∧ (r = v → res.2 = Num.excNone) ∧ (r ≠ v → res.2 = Num.excInexact))
    ∧ (v < leastNormal F →
        (fz = true → 0 < v → Means F res.1 neg 0 ∧ res.2 = Num.excUnderflow ||| Num.excInexact)
        ∧ (fz = false ∨ v = 0 → Means F res.1 neg v ∧ (r = v → res.2 = Num.excNone)
            ∧ (r ≠ v → res.2 = Num.excUnderflow ||| Num.excInexact)))

/-- The same for any value: a NaN is canonical, an infinity stays where the format has one and overflows where it has none, and a zero keeps
its sign (R145, R149, R155, R157). -/
def Rounds (F : Num.Fmt) (m : RoundMode) (fz : Bool) (x : Num.Fp) (res : Nat × Num.Exc) : Prop :=
  match x with
  | .nan => res = (canonicalNaN F, Num.excNone)
  | .inf neg =>
    if F.hasInf then MeansInf F res.1 neg ∧ res.2 = Num.excNone
    else Means F res.1 neg (greatest F) ∧ res.2 = Num.excOverflow ||| Num.excInexact
  | .fin neg n e => if n = 0 then Means F res.1 neg 0 ∧ res.2 = Num.excNone else RoundedTo F m fz neg ((n : ℚ) * 2 ^ e) res

/-- The width of an integer type, and whether it is signed (R142). -/
def integerType : NumType → Option (Nat × Bool)
  | .i8 => some (8, true) | .i16 => some (16, true) | .i32 => some (32, true) | .i64 => some (64, true)
  | .n8 => some (8, false) | .n16 => some (16, false) | .n32 => some (32, false) | .n64 => some (64, false)
  | _ => none

/-- The format of a floating-point type. -/
def floatType : NumType → Option Num.Fmt
  | .f32 => some Num.f32 | .bf16 => some Num.bf16 | .f16 => some Num.f16 | .e4m3 => some Num.e4m3 | .e5m2 => some Num.e5m2
  | _ => none

/-- The range of an integer type (R142). -/
def lowest (w : Nat) (signed : Bool) : Int := if signed then -(2 ^ (w - 1)) else 0
def highest (w : Nat) (signed : Bool) : Int := if signed then 2 ^ (w - 1) - 1 else 2 ^ w - 1

/-- An integer as its register or pair holds it (R140): `.i` types with copies of their sign above them, `.n` types with zeros. -/
def placed (w : Nat) (signed : Bool) (k : Int) : Nat := if signed then (BitVec.ofInt (max w 32) k).toNat else (BitVec.ofInt w k).toNat

/-- The integer in the low bits of a register or pair (R140). -/
def integerIn (w : Nat) (signed : Bool) (x : Nat) : Int := if signed then (BitVec.ofNat w x).toInt else (BitVec.ofNat w x).toNat

/-- What a conversion of a real number to an integer type gives (R158). -/
def RoundedToInteger (w : Nat) (signed : Bool) (m : RoundMode) (x : Num.Fp) (res : Nat × Num.Exc) : Prop :=
  let lo := (placed w signed (lowest w signed), Num.excInvalid)
  let hi := (placed w signed (highest w signed), Num.excInvalid)
  match x with
  | .nan => res = (0, Num.excInvalid)
  | .inf neg => res = if neg then lo else hi
  | .fin neg n e => ∃ j : Nat, Chosen m neg ((n : ℚ) * 2 ^ e) j ∧
      let k : Int := if neg then -(j : Int) else j
      (k < lowest w signed → res = lo) ∧ (highest w signed < k → res = hi)
      ∧ (lowest w signed ≤ k → k ≤ highest w signed →
          res = (placed w signed k, if (n : ℚ) * 2 ^ e = j then Num.excNone else Num.excInexact))

/-- The lane whose second source lane l reads, in tiles of T lanes (R238), with the permutations by the families of R239. -/
def sourceLane (T : Nat) (p : Pattern) (l : Nat) : Nat :=
  let b := l / T * T
  let bits (x y z i : Nat) : Nat := i % 2 * x + i / 2 % 2 * y + i / 4 % 2 * z
  let perm (n i : Nat) : Nat :=
    if n < 8 then i ^^^ n
    else if n < 14 then (i + (if n < 11 then n - 7 else n - 6)) % 8
    else if n < 16 then i / 4 * 4 + (i + (if n = 14 then 1 else 3)) % 4
    else if n = 16 then bits 2 4 1 i else if n = 17 then bits 4 1 2 i else if n = 18 then bits 4 2 1 i
    else if n = 19 then bits 2 1 4 i else if n = 20 then bits 1 4 2 i
    else if n < 28 then bits 4 2 1 i ^^^ (n - 20)
    else (if n % 2 = 0 then bits 2 4 1 i else bits 4 1 2 i) ^^^ (if n < 30 then 1 else 4)
  match p with
  | .none => l
  | .rev => b + T - 1 - (l - b)
  | .low => b
  | .swap => l ^^^ 1
  | .rot n => b + (l - b + n.toNat) % T
  | .lane n => b + n.toNat % T
  | .perm n => b + (8 * (l / 8) + perm n.toNat (l % 8)) % T

/-- An FP32 word stands for a finite number with a sign. -/
def MeansF32 (w : Nat) (neg : Bool) (v : ℚ) : Prop := w < 2 ^ 32 ∧ ∃ m e, Num.decode Num.f32 w = .fin neg m e ∧ (m : ℚ) * 2 ^ e = abs v

/-- The number format of a matrix format (R333), and whether its images are those of two-byte elements (R329). -/
def formatOf : MatFormat → Num.Fmt
  | .e4m3 => Num.e4m3 | .e5m2 => Num.e5m2 | .bf16 => Num.bf16 | .f16 => Num.f16
def wideFormat (f : MatFormat) : Bool := f == .bf16 || f == .f16

/-- An element of an image, by its row of the image and its place in that row (R329). -/
def element (f : MatFormat) (get : Nat → Byte) (major minor : Nat) : Num.Fp :=
  let i := 128 * major + minor
  Num.decode (formatOf f) (if wideFormat f then ofBytes [get (2 * i), get (2 * i + 1)] else (get i).toNat)

/-- p is BlockDot of 32 pairs (R334); `sx` is the sum of the two scales less 254, 0 without scales, and none if one of them is NaN. -/
def BlockDot (sx : Option Int) (a b : Nat → Num.Fp) (p : Num.Fp) : Prop :=
  let t (k : Nat) : Num.Fp := (Num.mul (a k) (b k)).1
  let bad : Prop := sx = none ∨ (∃ k, k < 32 ∧ (a k = .nan ∨ b k = .nan ∨ t k = .nan))
    ∨ ∃ j k, j < 32 ∧ k < 32 ∧ t j = .inf true ∧ t k = .inf false
  (bad → p = .nan)
  ∧ (¬ bad → ∀ neg k, k < 32 → t k = .inf neg → p = .inf neg)
  ∧ (¬ bad → (∀ k neg, k < 32 → t k ≠ .inf neg) → ∀ x, sx = some x → ∃ neg m e, p = .fin neg m e
      ∧ worth p = ((List.range 32).map fun k => worth (t k)).sum * 2 ^ x
      ∧ (m = 0 → (neg = true ↔ ∀ k, k < 32 → worth (t k) = 0 ∧ (t k).sign = true)))

/-- FP32 words xs are encoded with truncation as 32 elements q and a scale X of an MX block (R148). -/
def EncodedMX (f : MatFormat) (xs : Nat → Word) (q : Nat → Nat) (x : Nat) : Prop :=
  let v (i : Nat) : Num.Fp := Num.decode Num.f32 (xs i).toNat
  let special : Prop := ∃ i, i < 32 ∧ (v i = .nan ∨ ∃ s, v i = .inf s)
  (special → x = 255 ∧ ∀ i, i < 32 → q i = 0)
  ∧ (¬ special → (∀ i, i < 32 → worth (v i) = 0) → x = 0)
  ∧ (¬ special → ∀ k : Int, (∃ i, i < 32 ∧ (2 : ℚ) ^ k ≤ abs (worth (v i))) → (∀ i, i < 32 → abs (worth (v i)) < (2 : ℚ) ^ (k + 1)) →
      (x : Int) = max 0 (min 254 (k - (if f = .e4m3 then 8 else 15) + 127)))
  ∧ (¬ special → ∀ i s m e, i < 32 → v i = .fin s m e →
      q i = Num.encode (formatOf f) (Num.round (formatOf f) .tz (.fin s m (e + 127 - x))).val)

/-- w is the FP32 value of an element under a scale (R147). -/
def DecodedMX (F : Num.Fmt) (q x w : Nat) : Prop :=
  let top : ℚ := (2 ^ 24 - 1) * 2 ^ 104
  (x = 255 ∨ Num.decode F q = .nan → w = 0x7FC00000)
  ∧ (x < 255 → ∀ s, Num.decode F q = .inf s → Num.decode Num.f32 w = .inf s)
  ∧ (x < 255 → ∀ s m e, Num.decode F q = .fin s m e →
      let v := worth (.fin s m e) * 2 ^ ((x : Int) - 127)
      (abs v ≤ top → MeansF32 w s v) ∧ (top < abs v → Num.decode Num.f32 w = .inf s))

/-- A code block of L elements with its bytes is malformed (R164). -/
def MalformedBlock (ter : Bool) (l : Nat) (byte : Nat → Nat) : Prop :=
  let n := if ter then (l + 4) / 5 else l / 8
  let h := byte (n + 2) + 256 * byte (n + 3)
  h / 2 ^ 14 ≠ (if ter then 2 else 1) ∨ 16 * 2 ^ (h / 2 ^ 12 % 4) ≠ l ∨ h / 2 ^ 8 % 16 ≠ 0 ∨ 128 ≤ byte (n + 1)
  ∨ (ter = true ∧ ((∃ i, i < n ∧ 242 < byte i) ∨ 3 ^ (l - 5 * (n - 1)) ≤ byte (n - 1)))

/-- The L words that a code block of L = 16, 32, 64 or 128 elements decodes to (R161, R164). -/
def DecodedBlock (ter : Bool) (l : Nat) (byte w : Nat → Nat) : Prop :=
  let n := if ter then (l + 4) / 5 else l / 8
  let sc := byte n + 256 * byte (n + 1)
  ∀ i, i < l →
    (MalformedBlock ter l byte ∨ 0x7F80 < sc → w i = 0x7FC00000)
    ∧ (¬ MalformedBlock ter l byte → sc ≤ 0x7F80 →
        w i = if ter then (match byte (i / 5) / 3 ^ (i % 5) % 3 with | 1 => 2 ^ 16 * sc | 2 => 2 ^ 31 + 2 ^ 16 * sc | _ => 0)
              else if byte (i / 8) / 2 ^ (i % 8) % 2 = 1 then 2 ^ 31 + 2 ^ 16 * sc else 2 ^ 16 * sc)

/-- The bytes of the code block that Compress makes of L = 16, 32, 64 or 128 words, with a hop count (R159 to R163). -/
def CompressedBlock (ter : Bool) (l hops : Nat) (x byte : Nat → Nat) : Prop :=
  let n := if ter then (l + 4) / 5 else l / 8
  let sc := byte n + 256 * byte (n + 1)
  let h := byte (n + 2) + 256 * byte (n + 3)
  let v (i : Nat) : Num.Fp := Num.decode Num.f32 (x i)
  let special : Prop := ∃ i, i < l ∧ (v i = .nan ∨ ∃ s, v i = .inf s)
  let neg (i : Nat) : Prop := x i / 2 ^ 31 % 2 = 1
  let small (i : Nat) : Prop := ¬ special ∧ abs (worth (v i)) < worth (Num.decode Num.bf16 sc) / 2
  (special → sc = 0x7FC0)
  ∧ (¬ special → ∃ m e, worth (.fin false m e) = ((List.range l).map fun i => abs (worth (v i))).sum / l
      ∧ let r := Num.encode Num.bf16 (Num.round Num.bf16 .ne (.fin false m e)).val
        sc = if r = 0x7F80 then 0x7F7F else r)
  ∧ (∃ len, len < 4 ∧ 16 * 2 ^ len = l ∧ h = (if ter then 2 else 1) * 2 ^ 14 + len * 2 ^ 12 + hops % 256)
  ∧ (∀ i, i < n + 4 → byte i < 256)
  ∧ (ter = false → ∀ i, i < l → (byte (i / 8) / 2 ^ (i % 8) % 2 = 1 ↔ neg i))
  ∧ (ter = true → (∀ i, i < n → byte i < 243) ∧ ∀ i, i < 5 * n → ∃ d, d = byte (i / 5) / 3 ^ (i % 5) % 3
      ∧ (l ≤ i → d = 0) ∧ (i < l → (small i → d = 0) ∧ (¬ small i → neg i → d = 2) ∧ (¬ small i → ¬ neg i → d = 1)))

/-- The bits of a mask destination (R290): computing lanes take a truth value, masked lanes 0 where ZERO is 1; every other bit, every
other mask and everything else stays. -/
structure MaskWrote (g g' : Group) (ctl : VectorCtl) (m : BitVec 3) (t : Nat → Prop) : Prop where
  bits : ∀ l, l < 32 → computes g ctl l → ((g'.masks.get m.toNat 0).getLsbD l = true ↔ t l)
  zeros : ∀ l, l < 32 → (g.zeroing ctl).getLsbD l = true → (g'.masks.get m.toNat 0).getLsbD l = false
  others : ∀ l, l < 32 → ¬ computes g ctl l → (g.zeroing ctl).getLsbD l = false →
    (g'.masks.get m.toNat 0).getLsbD l = (g.masks.get m.toNat 0).getLsbD l
  masks : ∀ k, k ≠ m.toNat → g'.masks.get k 0 = g.masks.get k 0
  frame : { g' with masks := g.masks } = g

/-! ## Transfers of control -/

/-- Lane l is in the active set of the clause. -/
def active (g : Group) (l : Nat) : Prop := g.clause.active.getLsbD l = true

/-- The target of a displacement (R244, R271): the clause's own address plus 4 × sext(B). -/
def displaced (g : Group) (d : BitVec 20) : DWord := g.clause.addr + 4 * d.signExtend 64

/-- The address after the clause (R197). -/
def afterClause (g : Group) : DWord := g.clause.addr + BitVec.ofNat 64 (4 * (1 + g.clause.count + g.clause.lits.length))

/-- Every lane of a set has a target recorded, the others keep theirs, and nothing else changes. -/
structure Targets (g g' : Group) (ls : Nat → Prop) (t : DWord) : Prop where
  taken : ∀ l, l < 32 → ls l → g'.clause.next.look l = some t
  kept : ∀ l, ¬ (l < 32 ∧ ls l) → g'.clause.next.look l = g.clause.next.look l
  clauseFrame : { g'.clause with next := g.clause.next } = g.clause
  frame : { g' with clause := g.clause } = g

/-- Only the clause of a group changed, and of it only what its last word asks for at completion. -/
def Asks (g g' : Group) (e : Ending) : Prop := g' = { g with clause := { g.clause with ending := e } }

/-- Lanes of a set have an event recorded at the current instruction and leave the clause; nothing else changes (R196, R389). -/
structure Raised (g g' : Group) (ls : Nat → Prop) (e : Nat → LaneEvent) : Prop where
  left : ∀ l, l < 32 → (active g' l ↔ active g l ∧ ¬ ls l)
  events : ∃ L : List Nat, L.Pairwise (· < ·) ∧ (∀ l, l ∈ L ↔ l < 32 ∧ ls l) ∧ g'.clause.events = g.clause.events ++ L.map e
  clauseFrame : { g'.clause with active := g.clause.active, events := g.clause.events } = g.clause
  frame : { g' with clause := g.clause } = g

/-- The event of a lane for a trap at the current instruction, with its two resume words (R387). -/
def trapEvent (g : Group) (cause : TrapCause) (info : Word) (addr : DWord) (rword sword : Nat) (l : Nat) : LaneEvent :=
  { lane := l, what := .trap cause info addr, escalates := (g.lane l).trap, word := g.clause.idx, rword := rword, sword := sword }

/-! ## Memory -/

/-- The execution ends in a next state that meets P. -/
def Completes (s : State) (i : Instr) (P : State → Prop) : Prop := ∃ t, exec i s = .next t ∧ P t

/-- No byte of memory, no scratchpad and no group but one is changed. -/
structure Local (s t : State) (c k : Nat) : Prop where
  memory : SameMemory s t
  scratch : SameScratch s t
  groups : OtherGroups s t c k

/-- One more operation is counted, behind the older ones; a complete one retires when no older one is left (R118). -/
def counted (l : List Counted) (op : Nat) (done : Bool) : List Counted := (l ++ [(⟨op, done⟩ : Counted)]).dropWhile (·.done)

/-- The n bytes from position i on of a sequence of bytes, least significant first (R141). -/
def littleEndian (byte : Nat → Byte) (i n : Nat) : Nat := ofBytes ((List.range n).map fun j => byte (i + j))

/-- What a load of E elements of z bytes is to deliver (R304): to register d + e, or to pair d + 2e, of each of its lanes, element e of the
lane's bytes, extended with its sign or with zeros. -/
def Delivers (op d z E : Nat) (signed : Bool) (lanes : Nat → Prop) (byte : Nat → Nat → Byte) (ps : List PendingReg) : Prop :=
  ∀ p, p ∈ ps ↔ ∃ l e, l < 32 ∧ lanes l ∧ e < E ∧
    if z = 8 then
      p = { op := op, key := vkey (d + 2 * e) l, val := BitVec.ofNat 32 (littleEndian (byte l) (8 * e) 8) }
      ∨ p = { op := op, key := vkey (d + 2 * e + 1) l, val := BitVec.ofNat 32 (littleEndian (byte l) (8 * e) 8 / 2 ^ 32) }
    else p = { op := op, key := vkey (d + e) l,
               val := if signed then (BitVec.ofNat (8 * z) (littleEndian (byte l) (z * e) z)).signExtend 32
                      else BitVec.ofNat 32 (littleEndian (byte l) (z * e) z) }

/-- Byte i of what lane l stores from register d on: the low z bytes of each element (R304). -/
def storedByte (g : Group) (tick d z l i : Nat) : Byte :=
  BitVec.ofNat 8 (g.velem tick (z == 8) d (i / z) l / 256 ^ (i % z))

/-- What makes a lane in trap mode escalate: everything but an uncorrectable memory error (R393). -/
def escalating : Raise → Bool
  | .replay .uncorrectable _ _ => false
  | _ => true

/-- The memory fault of a lane at the current instruction (R31, R32, R394): a lane trap or a replayable event by its code. -/
def faultEvent (g : Group) (f : XFault) (kind : Access) (space addr : Nat) (l : Nat) : LaneEvent :=
  { lane := l, what := f.raises kind space addr, escalates := (g.lane l).trap && escalating (f.raises kind space addr),
    word := g.clause.idx, rword := g.clause.idx, sword := g.clause.idx + g.clause.len }

/-- The active lanes, lowest first. -/
def actives (g : Group) : List Nat := (List.range 32).filter fun l => g.clause.active.getLsbD l

/-- How the access of a lane ends: it reaches its bytes, it has a fault with the address recorded, or it matches a latch entry. -/
inductive LaneEnd where
  | reaches (ps : List Piece)
  | faults (f : XFault) (addr : Nat)
  | latched (e : Nat × Latch)

/-- The pieces that an access reaches. -/
def LaneEnd.pieces : LaneEnd → List Piece
  | .reaches ps => ps
  | _ => []

/-- The access reaches its bytes. -/
def LaneEnd.goes : LaneEnd → Bool
  | .reaches _ => true
  | _ => false

/-- What a lane takes that does not reach its bytes: its memory fault (R31, R33), or the latch trap, with the information word of R123 and
the lane's address (R122). -/
def LaneEnd.event (g : Group) (kind : Access) (a : Nat → Nat) (l : Nat) : LaneEnd → LaneEvent
  | .latched e => trapEvent g .latch (g.latchInfo e) (BitVec.ofNat 64 (a l)) g.clause.idx (g.clause.idx + g.clause.len) l
  | .faults f b => faultEvent g f kind 0 b l
  | .reaches _ => faultEvent g ⟨0, 7, 0⟩ kind 0 (a l) l

/-- The active lanes of a set have their global accesses of n bytes end as r says (R33, R121, R122). -/
def Ends (s : State) (c : Nat) (g : Group) (kind : Access) (writes : Bool) (n : Nat) (a : Nat → Nat) (lanes : Nat → Prop)
    (r : Nat → LaneEnd) : Prop :=
  ∀ l, l < 32 → active g l → lanes l →
    match r l with
    | .reaches ps => s.translateGroup c g kind (a l) n = .ok ps ∧ (s.core c).latchHit none (s.vdOf g) (a l) n writes = none
    | .faults f b => s.translateGroup c g kind (a l) n = .fault f b
    | .latched e => (∃ ps, s.translateGroup c g kind (a l) n = .ok ps) ∧ (s.core c).latchHit none (s.vdOf g) (a l) n writes = some e

/-- Every lane. -/
def all : Nat → Prop := fun _ => True

/-- The active lanes that reach their bytes, lowest first. -/
def going (g : Group) (r : Nat → LaneEnd) : List Nat := (actives g).filter fun l => (r l).goes

/-- The lanes of a set that do not reach their bytes take what stops them; the others stay (R33, R122). -/
def Stopped (g g' : Group) (kind : Access) (a : Nat → Nat) (r : Nat → LaneEnd) : Prop :=
  Raised g g' (fun l => active g l ∧ (r l).goes = false) fun l => (r l).event g kind a l

/-- As `Raised`, with the events in any order of the lanes. -/
structure RaisedSome (g g' : Group) (ls : Nat → Prop) (e : Nat → LaneEvent) : Prop where
  left : ∀ l, l < 32 → (active g' l ↔ active g l ∧ ¬ ls l)
  events : ∃ L : List Nat, L.Nodup ∧ (∀ l, l ∈ L ↔ l < 32 ∧ ls l) ∧ g'.clause.events = g.clause.events ++ L.map e
  clauseFrame : { g'.clause with active := g.clause.active, events := g.clause.events } = g.clause
  frame : { g' with clause := g.clause } = g

/-- The group waits and performs its instruction again: for the translation of a lane's page that nothing is known of (R29), sent to the
miss queue of its die when that has room. No lane does anything before. -/
def MissesWait (s : State) (c k : Nat) (g : Group) (i : Instr) (kind : Access) (n : Nat) (a : Nat → Nat) (lanes : Nat → Prop) : Prop :=
  let missed (p : Nat) : Prop := ∃ l pages, l < 32 ∧ active g l ∧ lanes l ∧ s.translateGroup c g kind (a l) n = .miss pages ∧ p ∈ pages
  (∃ p, missed p) → Completes s i fun t => Local s t c k
    ∧ t.group? c k = some { g with phase := .waiting, wait := some .walk, clause := { g.clause with redo := true } }
    ∧ t.requests = s.requests ∧ (t.core c).stores = (s.core c).stores ∧ (t.core c).l1 = (s.core c).l1
    ∧ (∃ ms, (t.die (dieOf c)).misses = (s.die (dieOf c)).misses ++ ms)
    ∧ ((s.die (dieOf c)).misses.length + 64 ≤ 256 → ∀ p, missed p →
        ∃ m ∈ (t.die (dieOf c)).misses, m.core = c ∧ m.slot = k ∧ m.vd = s.vdOf g ∧ m.page = p)

/-- Byte i of translated pieces: its module address and its piece. -/
def byteIn (ps : List Piece) (i : Nat) : Nat × Piece :=
  (byteAddrs ps).getD i (0, ⟨0, 0, ⟨0, 0, 0, false, false, false, .hbm, false, false, 0⟩, 0, 0⟩)

/-- The module address of byte i of translated pieces. -/
def byteAt (ps : List Piece) (i : Nat) : Nat := (byteIn ps i).1

/-- A byte at its home. -/
def homeByte (s : State) (t : Tier) (a : Nat) : Byte :=
  match t with
  | .host => s.host.read a
  | _ => s.mem.read a

/-- A byte as a core finds it (R113): the newest of its store queue, else that of its L1 where it may serve and has the line, else the
home's. -/
def nearByte (s : State) (c : Nat) (t : Tier) (a : Nat) (l1 : Bool) : Byte :=
  let queue := ((s.core c).stores.filter fun e => (e.tier == .host) == (t == .host)).flatMap (·.bytes)
  match queue.reverse.find? fun b => b.1 == a with
  | some b => b.2
  | none =>
    match (if l1 && t != .host then (s.core c).l1Look (a / 128) else none) with
    | some y => y.data.getD (a % 128) 0
    | none => homeByte s t a

/-- Byte i that a lane's load returns: on a versioned page within a transaction the buffered byte, else that of the version under its
start key (R88); elsewhere the byte that the core finds. -/
def loadedByte (s : State) (c : Nat) (g : Group) (l1 : Bool) (ps : List Piece) (i : Nat) : Byte :=
  let x := byteIn ps i
  match (if x.2.page.ver then g.tx else none) with
  | some t => ((t.lines.look (x.1 / 128)).bind fun y => y.bytes.look (x.1 % 128)).getD
      ((s.lineUnder (s.partOf g) (x.1 / 128) t.key).getD (x.1 % 128) 0)
  | none => nearByte s c x.2.page.tier x.1 l1

/-- A request to a home is an atomic or a hasp arrival. -/
def Underway (r : HomeReq) : Prop :=
  match r.kind with
  | .atomic _ _ _ _ _ _ _ _ _ _ => True
  | .hasp _ _ _ _ => True
  | _ => False

/-- No request of a core's groups is on its way, and where it is said its store queue is empty (R110, R113, log 28). -/
def CoreQuiet (s : State) (c : Nat) (queue : Prop) : Prop :=
  (∀ r ∈ s.requests, r.core = c → ¬ Underway r) ∧ (queue → (s.core c).stores = [])

/-- No request of the group in a slot of a core is on its way: a later write of it may follow (R110 rule 5). -/
def GroupQuiet (s : State) (c k : Nat) : Prop := ∀ r ∈ s.requests, r.core = c → r.slot = k → ¬ Underway r

/-- The group waits and performs the instruction again; nothing else changes. -/
def WaitsAgain (s : State) (c k : Nat) (g : Group) (i : Instr) : Prop :=
  InGroup s c k i fun g' => g'.phase = .waiting ∧ g'.clause.redo = true ∧ { g' with phase := g.phase, wait := g.wait, clause := g.clause } = g
    ∧ { g'.clause with redo := g.clause.redo } = g.clause

/-- Scratchpad loads of elements of z bytes (R304, R308, R7, R122): lanes within the gang's bound read their bytes, a lane beyond it takes
the scratchpad-bound fault, and one that matches a latched destination the latch trap. -/
def ScratchLoadLaw (mk : ScratchAccess → Instr) (z : Nat) (signed : Bool) : Prop :=
  ∀ s c k g o y, Runs s c k g → s.gang? c g.gang = some y →
    let E := elemsOf (z == 8) o.wid
    let a (l : Nat) : Nat := g.laneAddr s.tick false o.addr l
    let stop (l : Nat) : Option LaneEvent :=
      if 148 * y.rows < a l + z * E then some (faultEvent g ⟨0x0A, 7, 0⟩ .load 1 (a l) l)
      else ((s.core c).latchHit (some g.gang) 0 (a l) (z * E) false).map fun e =>
        trapEvent g .latch (g.latchInfo e) (BitVec.ofNat 64 (a l)) g.clause.idx (g.clause.idx + g.clause.len) l
    let event (l : Nat) : LaneEvent := (stop l).getD (faultEvent g ⟨0, 7, 0⟩ .load 1 (a l) l)
    if g.addrOk o.addr = true ∧ g.inBudget o.data.toNat (if z = 8 then 2 * E else E) = true then
      ((∃ l, l < 32 ∧ active g l ∧ stop l = none) → ∃ g' ps, exec (mk o) s = .next ((s.newOp).setGroup c k g')
        ∧ Delivers s.nextOp o.data.toNat z E signed (fun l => active g l ∧ stop l = none)
            (fun l i => (s.core c).scratch.read (148 * y.base + a l + i)) ps
        ∧ g'.pend = g.pend ++ ps ∧ g'.loads = counted g.loads s.nextOp false
        ∧ Raised g { g' with pend := g.pend, loads := g.loads } (fun l => active g l ∧ stop l ≠ none) event)
      ∧ ((∀ l, l < 32 → active g l → stop l ≠ none) → InGroup s c k (mk o) fun g' => Raised g g' (active g) event)
    else exec (mk o) s = .next (s.setGroup c k g.illegal)

/-- Scratchpad stores of elements of z bytes (R304, R308, R36, R305, R122): each lane's bytes at its offset, the highest lane last; a
release waits for the group's loads and the requests of the core, every store for the requests of its group (R110, log 28); lanes that
stop take their event and store nothing. -/
def ScratchStoreLaw (mk : ScratchAccess → Instr) (z : Nat) : Prop :=
  ∀ s c k g o y, Runs s c k g → s.gang? c g.gang = some y →
    let E := elemsOf (z == 8) o.wid
    let n := z * E
    let a (l : Nat) : Nat := g.laneAddr s.tick false o.addr l
    let stop (l : Nat) : Option LaneEvent :=
      if 148 * y.rows < a l + n then some (faultEvent g ⟨0x0A, 7, 0⟩ .store 1 (a l) l)
      else ((s.core c).latchHit (some g.gang) 0 (a l) n true).map fun e =>
        trapEvent g .latch (g.latchInfo e) (BitVec.ofNat 64 (a l)) g.clause.idx (g.clause.idx + g.clause.len) l
    let event (l : Nat) : LaneEvent := (stop l).getD (faultEvent g ⟨0, 7, 0⟩ .store 1 (a l) l)
    let ready : Prop := ((o.ord = .rel ∨ o.ord = .ar) → CoreQuiet s c False) ∧ GroupQuiet s c k
    if g.addrOk o.addr = true ∧ g.inBudget o.data.toNat (if z = 8 then 2 * E else E) = true then
      ((o.ord = .rel ∨ o.ord = .ar) → g.loads ≠ [] → InGroup s c k (mk o) fun g' =>
          g' = { g with phase := .waiting, wait := some (.counts 0 7 7 7), clause := { g.clause with redo := true } })
      ∧ (((o.ord = .rel ∨ o.ord = .ar) → g.loads = []) → ¬ ready → WaitsAgain s c k g (mk o))
      ∧ (((o.ord = .rel ∨ o.ord = .ar) → g.loads = []) → ready →
          ((∃ l, l < 32 ∧ active g l ∧ stop l = none) → ∃ g' t, exec (mk o) s = .next t
            ∧ t = ((s.newOp).setGroup c k g').withCore c (fun x => { x with
                scratch := ((actives g).filter fun l => decide (stop l = none)).foldl
                  (fun m l => m.writeAll (148 * y.base + a l) ((List.range n).map (storedByte g s.tick o.data.toNat z l))) x.scratch })
            ∧ (∀ c' x, ¬ (c' = c ∧ ∃ l, l < 32 ∧ active g l ∧ stop l = none ∧ 148 * y.base + a l ≤ x ∧ x < 148 * y.base + a l + n) →
                (t.core c').scratch.read x = (s.core c').scratch.read x)
            ∧ g'.stores = counted g.stores s.nextOp true
            ∧ Raised g { g' with stores := g.stores } (fun l => active g l ∧ stop l ≠ none) event)
          ∧ ((∀ l, l < 32 → active g l → stop l ≠ none) → InGroup s c k (mk o) fun g' => Raised g g' (active g) event))
    else exec (mk o) s = .next (s.setGroup c k g.illegal)

/-- Transposing loads of elements of z bytes (R309, R310, R122): lane l takes rows 2 × (l mod 8) and the next of column l div 8 of the
block; a misaligned block, one beyond the bound (at its lowest such byte), and one on a latched destination stop every active lane. -/
def TransposeLaw (mk : TransposeLoad → Instr) (z : Nat) : Prop :=
  ∀ s c k g o y, Runs s c k g → s.gang? c g.gang = some y →
    let d := o.data.toNat
    let o0 := ((g.sreg o.base.toNat).setWidth 64 + o.off.signExtend 64).toNat
    let place (r col : Nat) : Nat := o0 + 4 * (g.sreg (o.base.toNat + 1)).toNat * r + z * col
    let elem (r col : Nat) : Nat := littleEndian (fun i => (s.core c).scratch.read (148 * y.base + i)) (place r col) z
    let beyond (b : Nat) : Prop := 148 * y.rows ≤ b ∧ ∃ r col, r < 16 ∧ col < 4 ∧ place r col ≤ b ∧ b < place r col + z
    if g.inBudget d (if z = 4 then 2 else 1) = true then
      (o0 % 4 ≠ 0 → InGroup s c k (mk o) fun g' => Raised g g' (active g)
        (trapEvent g .alignment ((⟨0, 7, 0⟩ : XFault).info .load 1) (BitVec.ofNat 64 o0) g.clause.idx (g.clause.idx + g.clause.len)))
      ∧ (o0 % 4 = 0 → ∀ b, beyond b → (∀ x, x < b → ¬ beyond x) → InGroup s c k (mk o) fun g' =>
          Raised g g' (active g) (faultEvent g ⟨0x0A, 7, 0⟩ .load 1 b))
      ∧ (o0 % 4 = 0 → (∀ b, ¬ beyond b) →
          ((∃ r col, r < 16 ∧ col < 4 ∧ (s.core c).latchHit (some g.gang) 0 (place r col) z false ≠ none) →
            ∃ r col e, r < 16 ∧ col < 4 ∧ (s.core c).latchHit (some g.gang) 0 (place r col) z false = some e
              ∧ InGroup s c k (mk o) fun g' => Raised g g' (active g) (trapEvent g .latch (g.latchInfo e)
                  (BitVec.ofNat 64 (place r col)) g.clause.idx (g.clause.idx + g.clause.len)))
          ∧ ((∀ r col, r < 16 → col < 4 → (s.core c).latchHit (some g.gang) 0 (place r col) z false = none) →
            ∃ g' ps, exec (mk o) s = .next ((s.newOp).setGroup c k g')
              ∧ (∀ p, p ∈ ps ↔ ∃ l, l < 32 ∧ active g l ∧
                  if z = 4 then
                    p = { op := s.nextOp, key := vkey d l, val := BitVec.ofNat 32 (elem (2 * (l % 8)) (l / 8)) }
                    ∨ p = { op := s.nextOp, key := vkey (d + 1) l, val := BitVec.ofNat 32 (elem (2 * (l % 8) + 1) (l / 8)) }
                  else p = { op := s.nextOp, key := vkey d l,
                             val := BitVec.ofNat 32 (elem (2 * (l % 8)) (l / 8) + 2 ^ (8 * z) * elem (2 * (l % 8) + 1) (l / 8)) })
              ∧ g' = { g with pend := g.pend ++ ps, loads := counted g.loads s.nextOp false }))
    else exec (mk o) s = .next (s.setGroup c k g.illegal)

/-- The queue of a core is among those that an acquire with `.rp` of some pieces waits for (R115): the core is the one that the tag of a
line names as its last releaser, or the tag does not say, or the page is of the host tier, and the core is one of the partition. -/
def LastReleaser (s : State) (part : Nat) (ps : List Piece) (n : Nat) : Prop :=
  ∃ p ∈ ps, (p.page.tier = .host ∧ n ∈ s.coresOf part)
    ∨ (p.page.tier ≠ .host ∧ ∃ i, i < p.n ∧
        let tag := s.releaseTag ((p.addr + i) / 128)
        tag = .core n ∨ (tag = .unknown ∧ n ∈ s.coresOf part))

/-- Global loads of elements of z bytes (R304, R307, R33, R122, R88): each active lane that reaches its bytes is to be given them, and every
other takes its fault or latch trap; a lane whose page is not known, and a line that is locked or to which the core has a request on the
way, make the group wait. An acquire at a wide scope leaves the L1 empty, and one with `.rp` goes on when what the queues of the last
releasers hold now is accepted (R115). Nothing is stored. -/
def GlobalLoadLaw (mk : GlobalLoad → Instr) (z : Nat) (signed : Bool) : Prop :=
  ∀ s c k g o, Runs s c k g →
    let E := elemsOf (z == 8) o.wid
    let a (l : Nat) : Nat := g.laneAddr s.tick true o.addr l
    let nearest : Bool := decide (o.ord = .weak ∨ o.scope = .grp ∨ o.scope = .gang)
    let acquires : Prop := o.ord = .acq ∨ o.ord = .ar
    if g.addrOk o.addr = true ∧ g.inBudget o.data.toNat (if z = 8 then 2 * E else E) = true then
      MissesWait s c k g (mk o) .load (z * E) a all
      ∧ ∀ r, Ends s c g .load false (z * E) a all r →
        let ps := (going g r).flatMap fun l => (r l).pieces
        (∀ line, s.loadHeld c g ps = some line → exec (mk o) s = .next (s.setGroup c k
            { g with phase := .waiting, wait := some (.line line), clause := { g.clause with redo := true } }))
        ∧ (s.loadHeld c g ps = none → going g r = [] →
            Completes s (mk o) fun t => Local s t c k ∧ ∃ g', t.group? c k = some g' ∧ Stopped g g' .load a r)
        ∧ (s.loadHeld c g ps = none → going g r ≠ [] →
            Completes s (mk o) fun t => Local s t c k ∧ ∃ g' qs, t.group? c k = some g'
              ∧ Delivers s.nextOp o.data.toNat z E signed (fun l => active g l ∧ (r l).goes = true)
                  (fun l i => loadedByte s c g nearest (r l).pieces i) qs
              ∧ g'.pend = g.pend ++ qs ∧ g'.loads = counted g.loads s.nextOp false
              ∧ Stopped g { g' with pend := g.pend, loads := g.loads, phase := g.phase, wait := g.wait, asked := g.asked } .load a r
              ∧ (let drains (n q : Nat) : Prop := acquires ∧ o.rp = true ∧ LastReleaser s (s.partOf g) ps n
                    ∧ q = (s.core n).queued ∧ (s.core n).accepted < q
                 ((∀ n q, ¬ drains n q) → g'.phase = g.phase ∧ g'.wait = g.wait)
                 ∧ ((∃ n q, drains n q) → g'.phase = .waiting
                    ∧ ∃ ts, g'.wait = some (.queues ts) ∧ ∀ n q, (n, q) ∈ ts ↔ drains n q))
              ∧ (acquires → nearest = false → (t.core c).l1 = []))
    else exec (mk o) s = .next (s.setGroup c k g.illegal)

/-- The keys of a table rise: no number stands twice. -/
def Rising {α : Type} (t : Tab α) : Prop := t.Pairwise fun a b => a.1 < b.1

/-- The lines of 128 bytes among some addresses that a table does not list, each once. -/
def newLines {α : Type} (lines : Tab α) (as : List Nat) : List Nat := ((as.map (· / 128)).filter fun x => (lines.look x).isNone).eraseDups

/-- What the stores of an instruction to versioned pages leave of the group's open transaction (R88, R89): a doomed one takes nothing;
one that would exceed the 256 lines that the core's groups share is doomed with cause 2 and its lines are discarded; else the bytes
are buffered, later ones over earlier ones. `others` are the lines of the other groups. Lines stand once in a table (GroupsKept). -/
def Buffered (t t' : Tx) (others : Nat) (bs : List (Nat × Byte)) : Prop :=
  let n := t.lines.length + (newLines t.lines (bs.map (·.1))).length
  (t.doom ≠ none → t' = t)
  ∧ (Rising t.lines → t.doom = none → 256 < others + n → newLines t.lines (bs.map (·.1)) ≠ [] → t' = { t with doom := some 2, lines := [] })
  ∧ (Rising t.lines → t.doom = none → others + n ≤ 256 → { t' with lines := t.lines } = t ∧ t'.lines.length = n
      ∧ ∀ line i, i < 128 → ((t'.lines.look line).bind fun y => y.bytes.look i) =
          match bs.reverse.find? fun b => b.1 == 128 * line + i with
          | some b => some b.2
          | none => (t.lines.look line).bind fun y => y.bytes.look i)

/-- Global stores of elements of z bytes, of a width that R304 accepts (R307, R113, R102, R33, R88, R122): the bytes of each lane that
reaches them stand at the end of the core's store queue, in one entry where the access is single-copy atomic, or in its transaction's
buffer where the page is versioned; every other lane takes its fault or latch trap; memory itself changes only when the queue is
accepted. A release waits for its group's loads, at a wide scope its stores, and the requests of the core, and every store for the requests
of its group (R110, log 28); a release, or a synchronising store behind a release fence, marks its entries (R105, R106). -/
def GlobalStoreLaw (mk : GlobalStore → Instr) (z : Nat) : Prop :=
  ∀ s c k g o, Runs s c k g → widthOk (z == 8) o.wid = true →
    let E := elemsOf (z == 8) o.wid
    let n := z * E
    let a (l : Nat) : Nat := g.laneAddr s.tick true o.addr l
    let releases : Prop := o.ord = .rel ∨ o.ord = .ar
    let wide : Prop := o.scope ≠ .grp ∧ o.scope ≠ .gang
    let ready : Prop := (releases → g.loads = [] ∧ (wide → g.stores = []) ∧ CoreQuiet s c False) ∧ GroupQuiet s c k
    if g.addrOk o.addr = true ∧ g.inBudget o.data.toNat (if z = 8 then 2 * E else E) = true then
      (¬ ready → WaitsAgain s c k g (mk o))
      ∧ (ready → MissesWait s c k g (mk o) .store n a all)
      ∧ (ready → ∀ r, Ends s c g .store true n a all r →
        let keeps (p : Piece) : Bool := p.page.ver && g.tx.isSome
        let mine (l : Nat) (buffer : Bool) : List (Nat × Byte) :=
          ((List.range n).filter fun i => keeps (byteIn (r l).pieces i).2 == buffer).map fun i =>
            (byteAt (r l).pieces i, storedByte g s.tick o.data.toNat z l i)
        let entries (l : Nat) : List (List (Nat × Byte)) :=
          if n ≤ 8 ∧ a l % n = 0 then (if mine l false = [] then [] else [mine l false]) else (mine l false).map fun b => [b]
        let ps := (going g r).flatMap fun l => (r l).pieces
        (∀ line, s.ownPending c ps = some line → exec (mk o) s = .next (s.setGroup c k
            { g with phase := .waiting, wait := some (.line line), clause := { g.clause with redo := true } }))
        ∧ (s.ownPending c ps = none → going g r = [] → Completes s (mk o) fun t => Local s t c k
            ∧ (t.core c).stores = (s.core c).stores ∧ ∃ g', t.group? c k = some g' ∧ Stopped g g' .store a r)
        ∧ (s.ownPending c ps = none → going g r ≠ [] →
            Completes s (mk o) fun t => Local s t c k ∧ ∃ es g', (t.core c).stores = (s.core c).stores ++ es
              ∧ es.map (·.bytes) = (going g r).flatMap entries
              ∧ es.map (·.rel) = ((going g r).flatMap fun l => (entries l).map fun _ =>
                  decide (releases ∨ (o.ord ≠ .weak ∧ g.fenced.getLsbD l = true)))
              ∧ (∀ e ∈ es, e.op = s.nextOp ∧ e.slot = k ∧ e.launch = g.launch ∧ e.vd = s.vdOf g
                  ∧ ∀ b ∈ e.bytes, ∃ p ∈ ps, p.addr ≤ b.1 ∧ b.1 < p.addr + p.n ∧ e.tier = p.page.tier ∧ e.ver = p.page.ver)
              ∧ t.group? c k = some g' ∧ g'.stores = counted g.stores s.nextOp (decide (es = []))
              ∧ (g.tx = none → g'.tx = none ∧ g'.txs = g.txs)
              ∧ (∀ x, g.tx = some x → ∃ x', g'.tx = some x'
                  ∧ Buffered x x' ((s.core c).txLines - x.lines.length) ((going g r).flatMap fun l => mine l true))
              ∧ Stopped g { g' with stores := g.stores, tx := g.tx, txs := g.txs } .store a r))
    else exec (mk o) s = .next (s.setGroup c k g.illegal)

/-- What stops a lane of an access that must be aligned to z bytes (R306): the alignment trap; what the access itself meets; or the
atomic-scope fault where the lane's location is barred (R13, R31). -/
def laneStop (g : Group) (kind : Access) (z : Nat) (a : Nat → Nat) (r : Nat → LaneEnd) (p : Nat → Piece) (barred : Nat → Bool) (l : Nat) :
    Option LaneEvent :=
  if a l % z ≠ 0 then
    some (trapEvent g .alignment ((⟨0, 7, 0⟩ : XFault).info kind 0) (BitVec.ofNat 64 (a l)) g.clause.idx (g.clause.idx + g.clause.len) l)
  else if (r l).goes = false then some ((r l).event g kind a l)
  else if barred l then some (faultEvent g ⟨9, (p l).level, (p l).page.tier.code⟩ kind 0 (a l) l)
  else none

/-- The event of a lane that stops. -/
def laneEventOf (g : Group) (kind : Access) (z : Nat) (a : Nat → Nat) (r : Nat → LaneEnd) (p : Nat → Piece) (barred : Nat → Bool) (l : Nat) :
    LaneEvent :=
  (laneStop g kind z a r p barred l).getD (faultEvent g ⟨0, 7, 0⟩ kind 0 (a l) l)

/-- Atomics on z bytes (R312, R314, R315, R33, R306, R122, R88): a lane whose address is misaligned takes the alignment trap; one that does
not reach its location its fault or latch trap; one on a page of the host tier that R13 excludes the atomic-scope fault; for the
others one request for each location stands among those of the homes. Within a transaction an atomic on a versioned page is not
performed, gives 0, and dooms the transaction with cause 5. Memory changes when the homes perform the requests. What an atomic waits for
is as for a store, and entries of the core's queue on its bytes or, for a versioned page, on versioned pages are accepted before it (R136,
log 28). -/
def AtomicLaw (mk : AtomicAccess → Instr) (f : AtomFn) (z : Nat) (second host : Bool) : Prop :=
  ∀ s c k g o, Runs s c k g →
    let d := o.data.toNat
    let w := z / 4
    let a (l : Nat) : Nat := g.laneAddr s.tick true o.addr l
    let aligned (l : Nat) : Prop := a l % z = 0
    let acquires : Prop := o.ord = .acq ∨ o.ord = .ar
    let releases : Prop := o.ord = .rel ∨ o.ord = .ar
    let wide : Prop := o.ord = .weak ∨ (o.scope ≠ .grp ∧ o.scope ≠ .gang)
    let ready : Prop := (releases → g.loads = [] ∧ (wide → g.stores = []) ∧ CoreQuiet s c wide) ∧ GroupQuiet s c k
    if g.addrOk o.addr = true ∧ g.inBudget d (if second then 2 * w else w) = true then
      (¬ ready → WaitsAgain s c k g (mk o))
      ∧ (ready → MissesWait s c k g (mk o) .atomic z a aligned)
      ∧ (ready → ∀ (r : Nat → LaneEnd) (p : Nat → Piece), Ends s c g .atomic true z a aligned r →
        (∀ l, l < 32 → active g l → aligned l → (r l).goes = true → (r l).pieces = [p l]) →
        let barred (l : Nat) : Bool := decide ((p l).page.tier = .host ∧ ((p l).page.sa = false ∨ host = false))
        let stop (l : Nat) : Option LaneEvent := laneStop g .atomic z a r p barred l
        let event (l : Nat) : LaneEvent := laneEventOf g .atomic z a r p barred l
        let live := (actives g).filter fun l => decide (stop l = none)
        let mine (l : Nat) : Bool := (p l).page.ver && g.tx.isSome
        let step (l : Nat) : AtomStep := { lane := l, v := g.velem s.tick (z == 8) d 0 l,
                                           w := if second then g.velem s.tick (z == 8) d 1 l else 0 }
        (∀ n, (s.core c).queuedOn (live.map p) = some n → exec (mk o) s = .next (s.setGroup c k
            { g with phase := .waiting, wait := some (.behind n), clause := { g.clause with redo := true } }))
        ∧ ((s.core c).queuedOn (live.map p) = none → live = [] → Completes s (mk o) fun t => Local s t c k ∧ t.requests = s.requests
            ∧ ∃ g', t.group? c k = some g' ∧ RaisedSome g g' (active g) event)
        ∧ ((s.core c).queuedOn (live.map p) = none → live ≠ [] →
            let reqs := (atomRequests f ((live.filter fun l => !mine l).map fun l => (l, p l, step l))).map fun x =>
              { line := x.1.addr / 128, core := c, slot := k, launch := g.launch, vd := s.vdOf g,
                kind := .atomic s.nextOp f z x.1.page.tier x.1.page.ver x.1.addr x.2 (if o.nr then none else some d)
                  (x.2.any fun q => decide releases || g.fenced.getLsbD q.lane) o.rp : HomeReq }
            Completes s (mk o) fun t => Local s t c k ∧ t.requests = s.requests ++ reqs
              ∧ ∃ g', t.group? c k = some g'
                ∧ g'.loads = (if o.nr then g.loads else counted g.loads s.nextOp false)
                ∧ g'.stores = (if o.nr then counted g.stores s.nextOp (decide (reqs = [])) else g.stores)
                ∧ (∃ qs, g'.pend = g.pend ++ qs
                    ∧ if o.nr then qs = []
                      else Delivers s.nextOp d z 1 false (fun l => l ∈ live ∧ mine l = true) (fun _ _ => 0) qs)
                ∧ ((∃ l, l ∈ live ∧ mine l = true) → g'.tx = (g.doom 5).tx ∧ g'.txs = (g.doom 5).txs)
                ∧ ((∀ l, l ∈ live → mine l = false) → g'.tx = g.tx ∧ g'.txs = g.txs)
                ∧ (acquires → g'.phase = .waiting ∧ ∃ b, g'.wait = some (.op s.nextOp b []) ∧ (b = true ↔ wide))
                ∧ (¬ acquires → g'.phase = g.phase ∧ g'.wait = g.wait)
                ∧ RaisedSome g { g' with loads := g.loads, stores := g.stores, phase := g.phase, wait := g.wait, pend := g.pend,
                                         tx := g.tx, txs := g.txs } (fun l => active g l ∧ stop l ≠ none) event))
    else exec (mk o) s = .next (s.setGroup c k g.illegal)

/-- Snapshot loads of elements of z bytes (R311, R86, R87, R33, R122): under the key of the key register; without one they trap, under a
revoked one they are replayable. A locked line whose pending stamp the key does not precede makes the group wait (R78). -/
def SnapshotLoadLaw (mk : SnapshotLoad → Instr) (z : Nat) : Prop :=
  ∀ s c k g o, Runs s c k g →
    let E := elemsOf (z == 8) o.wid
    let a (l : Nat) : Nat := g.laneAddr s.tick true o.addr l
    let key := g.keys.get o.key.toNat 0
    let value (ps : List Piece) (i : Nat) : Byte :=
      let x := byteIn ps i
      if x.2.page.ver then (s.lineUnder (s.partOf g) (x.1 / 128) (key.toNat % 2 ^ 48)).getD (x.1 % 128) 0
      else nearByte s c x.2.page.tier x.1 false
    if g.addrOk o.addr = true ∧ g.inBudget o.data.toNat (if z = 8 then 2 * E else E) = true ∧ key.getLsbD 63 = true then
      (key.getLsbD 62 = true → InGroup s c k (mk o) fun g' => Raised g g' (active g) fun l =>
        { lane := l, what := .replay .revoked ((⟨0, 7, 0⟩ : XFault).info .snapshot 0) (BitVec.ofNat 64 (a l)),
          escalates := (g.lane l).trap, word := g.clause.idx, rword := g.clause.idx, sword := g.clause.idx + g.clause.len })
      ∧ (key.getLsbD 62 = false → MissesWait s c k g (mk o) .snapshot (z * E) a all)
      ∧ (key.getLsbD 62 = false → ∀ r, Ends s c g .snapshot false (z * E) a all r →
        let ps := (going g r).flatMap fun l => (r l).pieces
        let plain := ps.filter fun p => !p.page.ver
        let held := s.snapHeld (key.toNat % 2 ^ 48) ps
        (∀ line, held = some line ∨ (held = none ∧ s.ownPending c plain = some line) → exec (mk o) s = .next (s.setGroup c k
            { g with phase := .waiting, wait := some (.line line), clause := { g.clause with redo := true } }))
        ∧ (held = none → s.ownPending c plain = none → going g r = [] →
            Completes s (mk o) fun t => Local s t c k ∧ ∃ g', t.group? c k = some g' ∧ Stopped g g' .snapshot a r)
        ∧ (held = none → s.ownPending c plain = none → going g r ≠ [] →
            Completes s (mk o) fun t => Local s t c k ∧ ∃ g' qs, t.group? c k = some g'
              ∧ Delivers s.nextOp o.data.toNat z E false (fun l => active g l ∧ (r l).goes = true) (fun l => value (r l).pieces) qs
              ∧ g'.pend = g.pend ++ qs ∧ g'.loads = counted g.loads s.nextOp false
              ∧ Stopped g { g' with pend := g.pend, loads := g.loads } .snapshot a r))
    else exec (mk o) s = .next (s.setGroup c k g.illegal)

/-- What a wait of lanes leaves (R316, R327): a lane that has its result writes it to its registers and goes on; every other active lane is
held on the ward of its line, leaves the clause, and issues it again from this instruction (R200, R390). -/
structure Waited (g g' : Group) (res : Nat → Option (List (Nat × Word))) (line : Nat → Nat) : Prop where
  regs : ∀ v l, l < 32 → g'.vraw v l =
    if g.clause.active.getLsbD l = true then ((((res l).getD []).find? fun w => w.1 == v).map (·.2)).getD (g.vraw v l) else g.vraw v l
  stays : ∀ l, l < 32 → (active g' l ↔ active g l ∧ (res l).isSome = true)
  held : ∀ l, l < 32 → active g l → res l = none →
    g'.lane l = { g.lane l with state := .held, hold := .ward (line l), pc := g.clause.addr, r := g.clause.idx }
  lanes : ∀ l, ¬ (l < 32 ∧ active g l ∧ res l = none) → g'.lane l = g.lane l
  clauseFrame : { g'.clause with active := g.clause.active } = g.clause
  frame : { g' with vregs := g.vregs, pend := g.pend, lanes := g.lanes, clause := g.clause } = g

/-- Every slice has room for the wards of a group's lanes, so that none is displaced (R66). -/
def WardRoom (s : State) : Prop := ∀ n, (s.slice n).wards.length + 32 ≤ 512

/-- A ward on the line is placed for the lanes of the group. -/
def Warded (t : State) (c k line : Nat) : Prop := ∃ w ∈ (t.slice (sliceOf line)).wards, w.line = line ∧ .lanes c k ∈ w.waiters

/-! ## Engines -/

/-- An engine operation has issued (R118, R120): it is under way with its group, device, pages and window, its counter counts it, each of
its latch entries stands in a free place of its core's table, and what the group is to be given is noted. No byte of memory or
scratchpad, no other group, no other operation and no latch that was held is changed. -/
structure Issued (s t : State) (c k : Nat) (g : Group) (kind : EngKind) (ctr : Counter) (pages : List Page) (ls : List (Nat × Latch))
    (later : List PendingReg) : Prop where
  op : t.ops.look s.nextOp = some { kind := kind, core := c, slot := k, launch := g.launch, gang := g.gang, vd := s.vdOf g, ctr := ctr,
                                    pages := pages, bad := [], window := (s.device (s.vdOf g)).window, done := 0 }
  rest : ∀ i, i ≠ s.nextOp → t.ops.look i = s.ops.look i
  next : t.nextOp = s.nextOp + 1
  group : ∃ g', t.group? c k = some g' ∧ g'.counted ctr = counted (g.counted ctr) s.nextOp false ∧ g'.pend = g.pend ++ later
    ∧ (∀ x, x ≠ ctr → g'.counted x = g.counted x)
    ∧ { g' with loads := g.loads, stores := g.stores, copies := g.copies, tiles := g.tiles, pend := g.pend } = g
  latches : ∀ x ∈ ls, ∃ i, i < 64 ∧ (s.core x.1).latches.look i = none
    ∧ (t.core x.1).latches.look i = some { x.2 with op := s.nextOp, slot := k }
  held : ∀ c' i e, (s.core c').latches.look i = some e → (t.core c').latches.look i = some e
  others : Local s t c k

/-- The typed-buffer fault of an active lane (R31, R328). -/
def bufferEvent (g : Group) (space : Nat) (kind : Access) (n l : Nat) : LaneEvent := faultEvent g ⟨0x0B, 7, 0⟩ kind space n l

/-- The group waits for something and performs the instruction again; nothing else changes. -/
def Waits (s : State) (c k : Nat) (g : Group) (i : Instr) (w : Wait) : Prop :=
  exec i s = .next (s.setGroup c k { g with phase := .waiting, wait := some w, clause := { g.clause with redo := true } })

/-- The event of a lane for what a check found (R344). -/
def copyEvent (g : Group) (e : Raise) (l : Nat) : LaneEvent :=
  { lane := l, what := e, escalates := (g.lane l).trap && escalating e, word := g.clause.idx, rword := g.clause.idx,
    sword := g.clause.idx + g.clause.len }

/-- What a copy of a shape between its sides does at issue (R117, R119, R120, R343, R344): the first failed check stops every active lane;
an unknown page, what must be performed before, or its latch entries make the group wait; one that moves nothing is complete at once. -/
def CopyLaw (s : State) (c k : Nat) (g : Group) (i : Instr) (h : CopyShape) (src : Side) (dsts : List Side) : Prop :=
  let ls := sideLatch (s.vdOf g) h src false c :: dsts.map fun d => sideLatch (s.vdOf g) h d true c
  let waits (w : Wait) : Prop := Completes s i fun t => Local s t c k ∧ t.ops = s.ops ∧ t.requests = s.requests
    ∧ t.group? c k = some { g with phase := .waiting, wait := some w, clause := { g.clause with redo := true } }
  (∀ e, s.checkCopy c g h src dsts = .raise e → Completes s i fun t => Local s t c k ∧ t.ops = s.ops ∧ t.requests = s.requests
      ∧ ∃ g', t.group? c k = some g' ∧ Raised g g' (active g) (copyEvent g e))
  ∧ (∀ ps, s.checkCopy c g h src dsts = .miss ps → waits .walk)
  ∧ ∀ pages, s.checkCopy c g h src dsts = .ok pages →
    (∀ w, s.engineWait c g = some w → waits w)
    ∧ (s.engineWait c g = none → (h.units = 0 ∨ dsts = []) → Completes s i fun t => Local s t c k ∧ t.ops = s.ops
        ∧ t.nextOp = s.nextOp + 1 ∧ t.group? c k = some { g with copies := counted g.copies s.nextOp true })
    ∧ (s.engineWait c g = none → h.units ≠ 0 → dsts ≠ [] →
        (s.latchesOk ls = false → waits (.latch ls))
        ∧ (s.latchesOk ls = true → Completes s i fun t => Issued s t c k g (.copy h src dsts none) .copies pages ls []))

/-- A slot of a ring that was filling is complete, and filled slots are published in the order of reservation with the phase of their lap
(R44); the ring's other places are as before. -/
def SlotFilled (x x' : Ring) (i : Nat) : Prop :=
  let old (j : Nat) : RingSlotRec := x.recs.get j ⟨.free, false, 0, false, false⟩
  let new (j : Nat) : RingSlotRec := x'.recs.get j ⟨.free, false, 0, false, false⟩
  let next := (x.c + x.f) % x.slots
  x'.p = x.p ∧ x'.c = x.c ∧ x'.e = x.e ∧ x'.waiters = x.waiters
  ∧ (i ≠ next → (old next).state ≠ .complete → x'.f = x.f ∧ (new i).state = .complete)
  ∧ (i = next → x.f < x'.f ∧ (new i).state = .filled ∧ (new i).phase = ((old i).lap % 2 == 0))

/-- Bytes have been written in order at the places of translated pieces, and no other byte of any memory is changed. -/
def Placed (s t : State) (xs : List (Nat × Piece × Byte)) : Prop :=
  (∀ a, t.store.read a = s.store.read a) ∧ ∀ tier a, homeByte t tier a =
    ((((xs.filter fun x => (x.2.1.page.tier == .host) == (tier == .host)).reverse.find? fun x => x.1 == a).map (·.2.2)).getD
      (homeByte s tier a))

/-- Bytes at translated pieces, in rising order. -/
def placing (ps : List Piece) (data : List Byte) : List (Nat × Piece × Byte) :=
  (List.range data.length).map fun i => ((byteIn ps i).1, (byteIn ps i).2, data.getD i 0)

/-- The memories of the module and of the host are in their canonical form (MemoryFormKept). -/
def FormedMemory (s : State) : Prop := s.mem.wf = true ∧ s.host.wf = true

/-- s0 is s after walks and reads of an agent: only the caches, the byte budgets of devices and what is known of versioned pages show it
(R27, R29, R65, R78, R412). -/
structure Walked (s s0 : State) : Prop where
  rest : ∃ dies devices slices versions pages,
    s0 = { s with dies := dies, devices := devices, slices := slices, versions := versions, verPages := pages }
  devices : ∀ u, ∃ b, s0.device u = { s.device u with bytes := b }
  wards : ∀ n, (s0.slice n).wards = (s.slice n).wards

/-- What the home has at an address after bytes have been written in order. -/
def afterBytes (old : Nat → Byte) (bs : List (Nat × Byte)) (a : Nat) : Byte :=
  ((bs.reverse.find? fun b => b.1 == a).map (·.2)).getD (old a)

/-- Bytes have been written to a tier at the home, and no other byte of any memory is changed. -/
def Stored (s t : State) (tier : Tier) (bs : List (Nat × Byte)) : Prop :=
  match tier with
  | .host => ∀ a, t.host.read a = afterBytes s.host.read bs a ∧ t.mem.read a = s.mem.read a ∧ t.store.read a = s.store.read a
  | _ => ∀ a, t.mem.read a = afterBytes s.mem.read bs a ∧ t.host.read a = s.host.read a ∧ t.store.read a = s.store.read a

/-- The global addresses of some bytes that an operation writes have each a place of its own, by the translations of its issue. -/
def Landable (s : State) (o : EngOp) (bs : List (Nat × Byte)) : Prop :=
  (o.pages.Pairwise fun p q => p.base + p.size ≤ q.base ∨ q.base + q.size ≤ p.base) ∧ FormedMemory s
  ∧ (∀ x ∈ bs, ∃ z, s.opAddr o x.1 = some z)
  ∧ ∀ x ∈ bs, ∀ x' ∈ bs, ∀ z z', s.opAddr o x.1 = some z → s.opAddr o x'.1 = some z' → z.2 = z'.2 → x.1 = x'.1

/-- An operation has written bytes at global addresses, by the translations of its issue, and no other byte of any memory is changed. -/
def Landed (s t : State) (o : EngOp) (bs : List (Nat × Byte)) : Prop :=
  (∀ a, t.store.read a = s.store.read a) ∧ ∀ tier a, homeByte t tier a = afterBytes (homeByte s tier)
    (bs.filterMap fun x => (s.opAddr o x.1).bind fun z => if (z.1.tier == .host) == (tier == .host) then some (z.2, x.2) else none) a

/-- One number format's value is above another's. -/
def Above (x y : Num.Fp) : Prop :=
  match x, y with
  | .fin _ _ _, .fin _ _ _ => worth y < worth x
  | .inf false, .inf false => False
  | .inf false, .inf true => True
  | .inf false, .fin _ _ _ => True
  | .fin _ _ _, .inf true => True
  | _, _ => False

/-- r is the greater of two FP32 words (R359): NaN for any NaN, and −0 below +0. -/
def Greater (a b r : Nat) : Prop :=
  let x := Num.decode Num.f32 a
  let y := Num.decode Num.f32 b
  let below : Prop := Above y x ∨ (worth x = 0 ∧ worth y = 0 ∧ x.sign = true ∧ y.sign = false ∧ ∃ m e n f, x = .fin true m e ∧ y = .fin false n f)
  (x = .nan ∨ y = .nan → r = 0x7FC00000) ∧ (x ≠ .nan → y ≠ .nan → (below → r = b) ∧ (¬ below → r = a))

/-- r is SmxMerge of two triples of FP32 words (R360). -/
def Merged (p q r : Nat × Nat × Nat) : Prop :=
  let v (w : Nat) : Num.Fp := Num.decode Num.f32 w
  let x := v p.1
  let y := v q.1
  let round (z : Num.Fp) : Nat := Num.encode Num.f32 (Num.round Num.f32 .ne z).val
  let mixed (a b : Num.Fp) (u w : Nat) : Nat := round (Num.add .ne (Num.mul (v u) a).1 (Num.mul (v w) b).1).1
  let one : Num.Fp := .fin false 1 0
  let factor (a b f : Num.Fp) : Prop :=
    let d := v (round (Num.sub .ne a b).1)
    (d = .inf true → f = v 0) ∧ (∀ s m e, d = .fin s m e → ∃ w, NearestF32 false false ((2 : ℝ) ^ ((worth d : ℚ) : ℝ)) w ∧ f = v w.1)
  let equal : Prop := ¬ Above x y ∧ ¬ Above y x
  (x = .nan ∨ y = .nan → r = (0x7FC00000, 0x7FC00000, 0x7FC00000))
  ∧ (x ≠ .nan → y ≠ .nan →
      (equal → r = (if x.isZero then 0 else p.1, mixed one one p.2.1 q.2.1, mixed one one p.2.2 q.2.2))
      ∧ (Above x y → ∃ f, factor y x f ∧ r = (p.1, mixed one f p.2.1 q.2.1, mixed one f p.2.2 q.2.2))
      ∧ (Above y x → ∃ f, factor x y f ∧ r = (q.1, mixed f one p.2.1 q.2.1, mixed f one p.2.2 q.2.2)))

/-- No forwarded operation of a device that carries window m or earlier is still to be performed (R424). -/
def NoneForwarded (s : State) (v m : Nat) : Prop :=
  (∀ y ∈ (s.device v).forward, winLe y.window m = false)
  ∧ (∀ y ∈ s.wire, y.vd = v → y.forwarded = true → winLe y.window m = false)
  ∧ ∀ y ∈ (s.device v).held, y.1.vd = v → y.1.forwarded = true → winLe y.1.window m = false

/-- A held operation may be performed (R130, R419, R424). -/
def MayPerform (s : State) (v : Nat) (x : FabOp) (asleep : Bool) : Prop :=
  (s.device v).state = .active ∧ winLe x.window (s.device v).window = true
  ∧ ¬ (asleep = true ∧ ∃ e ∈ (s.device v).held, e.2 = true ∧ winBefore e.1.window x.window = true)
  ∧ (x.forwarded = true ∨ NoneForwarded s v x.window)

/-- A held operation has left the device's list, and is counted so many times as performed (R128). -/
def Performed (s t : State) (v i : Nat) (x : FabOp) (n : Nat) : Prop :=
  let key := x.window % 2 ^ 32 * 2 ^ 16 + x.src % 2 ^ 16
  (t.device v).held = (s.device v).held.eraseIdx i ∧ (t.device v).performed.get key 0 = (s.device v).performed.get key 0 + n

/-- A fabric operation has left its device (R128, R415): it is on the wire to a device of this module, or it leaves by its route, or it
is answered with status 2 where there is none. -/
def Sent (s t : State) (vd : Nat) (x : FabOp) : Prop :=
  match s.route vd x.dst with
  | .absent => t.acks = s.acks ++ [{ id := x.id, status := 2, detail := 0, data := [] }] ∧ t.wire = s.wire ∧ t.outbox = s.outbox
  | .here v => t.wire = s.wire ++ [{ x with vd := v }] ∧ t.acks = s.acks ∧ t.outbox = s.outbox
  | .away b => t.outbox = s.outbox ++ [.op b x] ∧ t.acks = s.acks ∧ t.wire = s.wire

/-! ## Hinge channels -/

/-- The step's issuer is the channel n of hinge processor h, whose word has the fields w. -/
def OnHinge (s : State) (h n : Nat) (ch : Channel) (w : HingeFields) : Prop :=
  s.actor = .channel h n ∧ s.channel? h n = some ch ∧ ∃ x, ch.word = some x ∧ hingeFieldsOf x = w

/-- The instruction ends in a next state that differs from the old one in its channel alone. -/
def ChannelBecomes (s : State) (h n : Nat) (i : Instr) (ch : Channel) : Prop := exec i s = .next (s.withChannel h n fun _ => ch)

/-- The channel with its buffers, at its next word. -/
def nextWord (ch : Channel) : Channel := { ch with pc := ch.pc + 4, word := none, wait := none }

/-- An entry of a buffer of a channel. -/
def bufEntry (ch : Channel) (b : BitVec 4) (i : Nat) : DWord := (ch.bufs.get b.toNat []).get i 0

/-- The channel goes on at its next word with the first entries of a buffer written; its other entries, its other buffers and everything
else are as before. -/
def BufferWritten (s : State) (h n : Nat) (ch : Channel) (i : Instr) (b : BitVec 4) (k : Nat) (f : Nat → DWord) : Prop :=
  ∃ ch', ChannelBecomes s h n i ch' ∧ (∀ j, bufEntry ch' b j = if j < k then f j else bufEntry ch b j)
    ∧ (∀ b' j, b' ≠ b → bufEntry ch' b' j = bufEntry ch b' j) ∧ { ch' with bufs := ch.bufs } = nextWord ch

/-- The instruction ends in a next state that differs from the old one, after walks and reads, in its channel alone. -/
def ChannelAfter (s : State) (h n : Nat) (i : Instr) (ch : Channel) : Prop :=
  ∃ s0, Walked s s0 ∧ exec i s = .next (s0.withChannel h n fun _ => ch)

/-- As `BufferWritten`, after walks and reads. -/
def BufferLoaded (s : State) (h n : Nat) (ch : Channel) (i : Instr) (b : BitVec 4) (k : Nat) (f : Nat → DWord) : Prop :=
  ∃ ch', ChannelAfter s h n i ch' ∧ (∀ j, bufEntry ch' b j = if j < k then f j else bufEntry ch b j)
    ∧ (∀ b' j, b' ≠ b → bufEntry ch' b' j = bufEntry ch b' j) ∧ { ch' with bufs := ch.bufs } = nextWord ch

/-- The translation of an access of a channel of hinge processor h, by the walkers of its die (R364, R373). -/
def channelPieces (s : State) (h vd : Nat) (kind : Access) (va n : Nat) : Translated := s.translateOn (some (h / 8)) vd kind va n

/-- An element aligned to an exponent entry (R378): none where it is too large for it. -/
def Aligned (x e : DWord) (r : Option DWord) : Prop :=
  let e1 : Int := max e.toInt 1
  let v := Num.decode Num.f32 (x.toNat % 2 ^ 32)
  let y : ℚ := worth v * 2 ^ (173 - e1)
  (e.toInt = 255 → r = some 0)
  ∧ (e.toInt ≠ 255 → (v = .nan ∨ (∃ s, v = .inf s) ∨ (2 : ℚ) ^ (e1 - 126) ≤ abs (worth v)) → r = none)
  ∧ (e.toInt ≠ 255 → (∃ s m d, v = .fin s m d) → abs (worth v) < (2 : ℚ) ^ (e1 - 126) → ∃ k : BitVec 64, r = some k
      ∧ abs (y - k.toInt) ≤ 1 / 2 ∧ (abs (y - k.toInt) = 1 / 2 → k.toInt % 2 = 0))

/-- A sum converted back under an exponent entry, with one rounding (R378). -/
def convertedBack (v e : DWord) : DWord :=
  if e.toInt = 255 then 0x7FC00000#64
  else BitVec.ofNat 64 (Num.encode Num.f32 (Num.round Num.f32 .ne
    (.fin (decide (v.toInt < 0)) v.toInt.natAbs (max e.toInt 1 - 173))).val)

/-- The collective of a channel has ended (R181, R379, R384): its channel and its slots are released, and its object's header has been
written: BUSY 0, the window of now as its stamp, one more use. A lost device writes no header, and one that does not translate any more is
not written (log 25). No other byte of any memory is changed. -/
structure CollectiveEnded (s t : State) (h n : Nat) (ch : Channel) : Prop where
  channel : t.channel? h n = none
  slots : ∀ y ∈ t.comb, ¬ (y.2.vd = ch.vd ∧ y.2.comm = ch.comm)
  others : ∀ y ∈ s.comb, ¬ (y.2.vd = ch.vd ∧ y.2.comm = ch.comm) → y ∈ t.comb
  header : FormedMemory s → ∀ va count p, ch.obj = some (va, count) → (s.device ch.vd).state ≠ .lost →
    s.translateAgent ch.vd .store va 256 = .ok [p] →
    let uses := s.readNat p.page.tier (p.addr + 0x20) 8
    let flags := s.readNat p.page.tier (p.addr + 6) 1
    Stored s t p.page.tier ((p.addr + 6, BitVec.ofNat 8 (flags / 2 * 2))
      :: ((List.range 8).map fun i => (p.addr + 0x18 + i, BitVec.ofNat 8 ((s.device ch.vd).window * 2 ^ 16 / 256 ^ i)))
      ++ (List.range 8).map fun i => (p.addr + 0x20 + i, BitVec.ofNat 8 ((uses + 1) / 256 ^ i)))
  bare : (ch.obj = none ∨ (s.device ch.vd).state = .lost
      ∨ ∀ va count p, ch.obj = some (va, count) → s.translateAgent ch.vd .store va 256 ≠ .ok [p]) → SameMemory s t

/-- A failed program whose operations have all completed has ended (R384): the status and the address of its word are recorded for the
guest driver, its launch is ended with DETAIL 2 (R223), and its collective has ended; that of a launch which had been ended before, and one
whose header has a locked line, ends as the launch retires. -/
structure ProgramEnded (s t : State) (h n : Nat) (ch : Channel) (status detail : Nat) : Prop where
  recorded : ∃ more, t.driver = s.driver ++ Notification.program ch.vd status detail ch.pc :: more
  launch : ∀ l, s.launches.look ch.launch = some l → ∃ m, t.launches.look ch.launch = some m ∧ m.ended = some (l.ended.getD 2)
  collective : ∃ s0, Walked s s0
    ∧ (ch.killed = false → s0.endHeld h n = false → CollectiveEnded s0 t h n ch)
    ∧ (ch.killed = true ∨ s0.endHeld h n = true → SameMemory s t
        ∧ ∃ x, t.channel? h n = some x ∧ x.failed = none ∧ x.killed = true ∧ x.word = none)

/-- The program of the channel has failed (R384): while a send or a `get` of it is under way, the channel stops at its word with the status, and
a switch is due if it was running. Else it has ended. -/
def Fails (s : State) (h n : Nat) (ch : Channel) (status detail : Nat) (t : State) : Prop :=
  ch.failed = none →
    (ch.sends ≠ [] ∨ ch.getting ≠ none → ∃ s0, Walked s s0
      ∧ t = (s0.withChannel h n fun x =>
          { x with failed := some (status, detail), word := none, wait := ch.getting.map ChanWait.get }).withHinge h
        fun x => if x.running = some n then { x with switch := true } else x)
    ∧ (ch.sends = [] → ch.getting = none → ProgramEnded s t h n ch status detail)

/-! ## Events -/

/-- The step is an event of an object with up to three numbers. -/
def OfObject (s : State) (a b c : Nat) : Prop := s.actor = .object a b c

/-- A packet has left its queue, and the rotation goes on behind it (R212, R429). -/
structure Popped (d d' : Device) (q : Nat) : Prop where
  rotation : d'.rotation = (q + 1) % 5
  device : q = 4 → d'.launchQueue = d.launchQueue.drop 1 ∧ d'.taken = d.taken ∧ d'.queue = d.queue
  shadow : q ≠ 4 → d'.launchQueue = d.launchQueue ∧ d'.taken = d.taken.del q
    ∧ d'.queue = d.queue.put (32 * q + 0x10) (BitVec.ofNat 64 ((((d.queue.get (32 * q + 0x10) 0).extractLsb' 0 32).toNat + 1) % 2 ^ 32))

/-- The fields of a clause header (R227). -/
structure Header where
  count : Nat
  cls : Nat
  ld : Nat
  st : Nat
  cp : Nat
  tl : Nat
  yld : Bool
  lits : Nat
  zero : Nat

/-- The header in a word. -/
def headerOf (w : Word) : Header :=
  { count := (w.extractLsb' 28 4).toNat, cls := (w.extractLsb' 25 3).toNat, ld := (w.extractLsb' 22 3).toNat, st := (w.extractLsb' 19 3).toNat,
    cp := (w.extractLsb' 16 3).toNat, tl := (w.extractLsb' 13 3).toNat, yld := w.getLsbD 12, lits := (w.extractLsb' 8 4).toNat,
    zero := (w.extractLsb' 0 8).toNat }

/-- A line of the fault record of a group is locked (R78, R400): of its head, or of the entries of some lanes. -/
def RecordLocked (s : State) (c k : Nat) (g : Group) (lanes : Nat → Prop) : Prop :=
  let a := s.recordAddr (s.vdOf g) c k
  ∃ b, s.locked (b / 128) = true
    ∧ ((a ≤ b ∧ b < a + 0x40) ∨ ∃ l, lanes l ∧ a + 0x40 + 32 * l ≤ b ∧ b < a + 0x40 + 32 * l + 32)

/-- A close marker or a give-up notice of a device has gone to its rank (R128): to a device of this module or to another module, by the
route of the rank. While none is usable, or the entry that would tell is locked, the device keeps it (log 29). -/
def SignalGone (s t : State) (v : Nat) (m : Nat × Signal) : Prop :=
  match s.routeHeld v m.1, s.route v m.1, m.2 with
  | none, .here u, .marker x => { x with vd := u } ∈ t.markersIn
  | none, .here u, .notice x => { x with vd := u } ∈ t.noticesIn
  | none, .away b, .marker x => OutMsg.marker b m.1 x ∈ t.outbox
  | none, .away b, .notice x => OutMsg.notice b m.1 x ∈ t.outbox
  | _, _, _ => m ∈ (t.device v).unsent

/-- The group without its wait: resident again. -/
def unwaiting (g : Group) : Group := { g with wait := none, phase := .resident }

/-- The line of a set in its order that satisfies P and was used longest ago. -/
def LastOf (set : List L2Line) (P : L2Line → Prop) (y : L2Line) : Prop := ∃ a b, set = a ++ y :: b ∧ P y ∧ ∀ z ∈ b, ¬ P z

/-- The way of an ordinary fill of a device into a set (R56 step 2): the lowest one that holds no line; else that of the line used longest
ago among those that are not kept, and of these among the device's own when it is at its limit and has any. -/
def OrdinaryWay (set : List L2Line) (vd : Nat) (limited : Prop) (w : Nat) : Prop :=
  let free (x : Nat) : Prop := x < 16 ∧ ∀ y ∈ set, y.way ≠ x
  let plain (y : L2Line) : Prop := y.kept = none
  let own (y : L2Line) : Prop := y.kept = none ∧ y.vd = vd
  (free w ∧ ∀ x, x < w → ¬ free x)
  ∨ ((∀ x, ¬ free x) ∧ ∃ y, y.way = w ∧ ((limited ∧ LastOf set own y) ∨ (¬ (limited ∧ ∃ z ∈ set, own z) ∧ LastOf set plain y)))

/-- The way of a fill that matches keeper k into its ways (R56 step 1): of those that hold no line kept by it, the lowest one that holds
nothing; else that of the line used longest ago which is not kept. -/
def KeeperWay (set : List L2Line) (k : Nat) (ways : List Nat) (w : Nat) : Prop :=
  let may (x : Nat) : Prop := x ∈ ways ∧ ∀ y ∈ set, y.way = x → y.kept ≠ some k
  let free (x : Nat) : Prop := may x ∧ ∀ y ∈ set, y.way ≠ x
  (free w ∧ ∀ x, x < w → ¬ free x) ∨ ((∀ x, ¬ free x) ∧ ∃ y, y.way = w ∧ LastOf set (fun z => z.kept = none ∧ may z.way) y)

/-- What is left of a line's older versions, newest first, when those go that may (R93): whether one may go depends on the next newer
stamp that is left. -/
inductive KeptVersions (gone : Stamp → Stamp → Prop) : Stamp → List Version → List Version → Prop
  | nil (n : Stamp) : KeptVersions gone n [] []
  | goes (n : Stamp) (v : Version) (vs ks : List Version) : gone v.stamp n → KeptVersions gone n vs ks → KeptVersions gone n (v :: vs) ks
  | stays (n : Stamp) (v : Version) (vs ks : List Version) :
      ¬ gone v.stamp n → KeptVersions gone v.stamp vs ks → KeptVersions gone n (v :: vs) (v :: ks)

/-- A fabric operation is answered: to its issuer on this module, or to the other module (R354). -/
def Answered (s t : State) (x : FabOp) (status detail : Nat) (data : List Byte) : Prop :=
  let a : Ack := { id := x.id, status := status, detail := detail, data := data }
  if x.from?.isSome then t.acks = s.acks ++ [a] ∧ t.outbox = s.outbox else t.acks = s.acks ∧ t.outbox = s.outbox ++ [.ack x.src a]

/-- A register write has arrived and is taken by its event: the oldest of the host's accesses, if it is one of them (R138, R430). -/
def Arrived (s : State) (w : RegWrite) : Prop :=
  s.actor = .access w ∧ (w.writer = .hypervisor → s.arrivals.head? ≠ some true)

/-- The write has left the queue of those that have arrived. -/
def taken (s : State) (w : RegWrite) : State :=
  { s with regWrites := s.regWrites.erase w, arrivals := if w.writer = .hypervisor then s.arrivals.tail else s.arrivals }

/-- A register write that reaches its event leaves the queue of those that have arrived, and does what f says. -/
def Takes (s : State) (w : RegWrite) (i : Instr) (f : State → State) : Prop :=
  Arrived s w → exec i s = .next (f (taken s w))

/-- A block that belongs to a partition: its version block, and the blocks of its devices but for the guests' own (R432). -/
def BlockOf (s : State) (part : Nat) (w : RegWrite) : Prop :=
  (w.block = .version ∧ w.index = part)
  ∨ ((w.block = .vdev ∨ w.block = .xlate ∨ w.block = .cache ∨ w.block = .fabric ∨ w.block = .trap ∨ w.block = .queue)
      ∧ (s.device w.index).part = part)

/-- The writer of a register write may reach its block (R402, R405, R427, R428, R432): the monitor the partition blocks, a guest its own
block, the hypervisor the others, and a plug-in that has not been stopped the blocks of its partition; in recovery the partition
blocks and the commands of devices are not served. -/
def MayWrite (s : State) (w : RegWrite) : Prop :=
  (match w.writer with
    | .monitor => w.block = .partition
    | .guest => w.block = .guest
    | .hypervisor => w.block ≠ .partition ∧ w.block ≠ .guest
    | .plugin p => s.module.stopped.get p false = false ∧ BlockOf s p w)
  ∧ (s.module.svc ≠ 0 ∨ ¬ (w.block = .partition ∨ (w.block = .vdev ∧ w.offset = 0x38)))

/-- The write of a register leaves it reading as v, and every other register reading as before, but for save bounds (R408). -/
def RegisterReads (s : State) (w : RegWrite) (v : DWord) : Prop := Completes s .registerWrite fun t => SameMemory s t
  ∧ t.readReg w.block w.index w.offset = v
  ∧ ∀ b i o, ¬ (b = w.block ∧ i = w.index ∧ o = w.offset) → ¬ (b = .vdev ∧ o = 0x10) → t.readReg b i o = s.readReg b i o

/-- The write is refused or ignored: its register reads as before. -/
def RegisterKept (s : State) (w : RegWrite) : Prop := RegisterReads s w (s.readReg w.block w.index w.offset)

/-- The ranges of a partition are in order, by its registers (R404): HBM within its channel groups, the second tier within its module
addresses and apart from every other partition's. 6,144 GB is 6,144 × 2^30 bytes (log 64). -/
def TiersInOrder (s : State) (p : Nat) (reg : Nat → DWord) : Prop :=
  let lo (r : Nat → DWord) (t : Nat) : Nat := (r (0x30 + 16 * t)).toNat
  let n (r : Nat → DWord) (t : Nat) : Nat := (r (0x38 + 16 * t)).toNat
  (n reg 0 = 0 ∨ (lo reg 0 + n reg 0 ≤ 2 ^ 39
    ∧ ∀ g, g < 32 → lo reg 0 < (g + 1) * 2 ^ 34 → g * 2 ^ 34 < lo reg 0 + n reg 0 → (reg 8).getLsbD g = true))
  ∧ (n reg 1 = 0 ∨ (2 ^ 44 ≤ lo reg 1 ∧ lo reg 1 + n reg 1 ≤ 2 ^ 44 + 6144 * 2 ^ 30
    ∧ ∀ x ∈ s.partitions, x.1 ≠ p → let other (o : Nat) : DWord := (s.partition x.1).ctl.get o 0
      n other 1 = 0 ∨ lo reg 1 + n reg 1 ≤ lo other 1 ∨ lo other 1 + n other 1 ≤ lo reg 1))

/-- No core's TLB holds a translation of a device for a page of a range (R26). -/
def NoTranslation (t : State) (v lo hi : Nat) : Prop :=
  ∀ x ∈ t.cores, ∀ e : TlbEntry, (e ∈ x.2.tlb1 ∨ ∃ n, e ∈ x.2.tlb2.get n []) → e.vd = v →
    ¬ (e.page.base < hi ∧ lo < e.page.base + e.page.size)

/-- No access of a device is under way that was translated before: no store of it waits, no request of it but for a load's line or a
write-back is on its way, no commit of it waits, and no engine operation of it holds a page of the range (R26). -/
def NoneUnderWay (s : State) (v lo hi : Nat) : Prop :=
  (∀ x ∈ s.cores, ∀ e ∈ x.2.stores, e.vd ≠ v)
  ∧ (∀ r ∈ s.requests, r.vd ≠ v ∨ (∃ d k ef, r.kind = .load d k ef) ∨ ∃ d tag, r.kind = .writeBack d tag)
  ∧ (∀ x ∈ s.cores, (∀ g ∈ x.2.groups, s.vdOf g.2 = v → g.2.wait ≠ some .commit)
      ∧ ∀ y ∈ x.2.gangs, ∀ g ∈ y.2.saved.groups, s.vdOf g.2 = v → g.2.wait ≠ some .commit)
  ∧ ∀ o ∈ s.ops, o.2.vd = v → ∀ p ∈ o.2.pages, ¬ (p.base < hi ∧ lo < p.base + p.size)

/-- The hypervisor writes command n to `VCMD` of a device that runs none (R406, R407). -/
structure Command (s : State) (w : RegWrite) (n : Nat) : Prop where
  arrived : Arrived s w
  service : s.module.svc ≠ 0
  block : w.block = .vdev
  offset : w.offset = 0x38
  writer : w.writer = .hypervisor
  device : w.index < 128
  command : w.value.toNat % 256 = n
  idle : (s.device w.index).busy = false

/-- The state in which a command acts: the write has left the queue, and the command's number is in the register. -/
def begun (s : State) (w : RegWrite) : State :=
  (taken s w).withDevice w.index fun d => { d with ctl := d.ctl.put 0x38 (w.value &&& 0xFF#64) }

/-- The command ends at once with a status, and does nothing else (R406). -/
def EndsWith (s : State) (w : RegWrite) (i : Instr) (status : Nat) : Prop :=
  exec i s = .next ((begun s w).withDevice w.index fun d => { d with busy := false, status := status })

/-- The command ends with a status after reads of its device, and does nothing else. -/
def EndsAfter (s : State) (w : RegWrite) (i : Instr) (status : Nat) : Prop :=
  ∃ s0, Walked (begun s w) s0 ∧ exec i s = .next (s0.withDevice w.index fun d => { d with busy := false, status := status })

/-- No group waits for the number of a commit. -/
def NoCommitWaits (s : State) : Prop := ∀ g ∈ s.allGroups, g.2.2.wait ≠ some .commit

/-- No open of a device waits for a window: of a group, of a packet that is being accepted, of a checkpoint (R83). -/
structure NothingOpens (s : State) (v : Nat) : Prop where
  groups : ∀ g ∈ s.allGroups, s.vdOf g.2.2 = v → ∀ m, g.2.2.wait ≠ some (.snapshot m)
  packets : (s.device v).granted = []
  checkpoint : ∀ k, (s.device v).ckpt = some k → k.opened = true

/-- Every launch of a device that had not ended has ended with a DETAIL (R223). -/
def LaunchesEnded (s t : State) (v detail : Nat) : Prop :=
  ∀ i l, s.launches.look i = some l → l.vd = v → ∃ m, t.launches.look i = some m ∧ m.ended = some (l.ended.getD detail) ∧ m.pkt = l.pkt

/-- The other devices are as before. -/
def OtherDevices (s t : State) (v : Nat) : Prop := ∀ u, u ≠ v → t.device u = s.device u

/-- The status word of the mailbox (R431, R433). -/
def MboxStatus (t : State) (n : Nat) : Prop := t.module.mbox.readAll 4 4 = toBytes 4 n

/-- Steps 3 and 4 of a checkpoint k (R437), from a state u in which the key is held: while a line of the list or of a table that its shards
need is locked, they wait and the key stays held; then the list is checked, and its size against the share. A checkpoint that ends releases
its key. -/
def CheckpointChecks (s : State) (v : Nat) (k : Checkpoint) (u : State) : Prop :=
  let part := (u.device v).part
  let share := (((u.partition part).ctl.get 0x68 0).extractLsb' 0 12).toNat * 2 ^ 30
  let list := u.listSpan v
  let blocked : Prop := u.lockedAt .hbm list.1 list.2 ≠ none ∨ ∃ x ∈ u.listed v, (u.translateAgent v .snapshot x.1 x.2).waits = true
  let ends (st : Nat) : Prop := Completes s .checkpointStart fun t => SameMemory s t ∧ (t.device v).ckpt = none ∧ (t.device v).ckStatus = st
    ∧ (t.partition part).snaps = ((u.dropHold part k.entry).partition part).snaps
  (blocked → exec .checkpointStart s = .next u)
  ∧ (¬ blocked → u.shardList v = none → ends 2)
  ∧ (¬ blocked → ∀ xs, u.shardList v = some xs →
      (share < (xs.map (·.2)).sum → ends 3)
      ∧ ((xs.map (·.2)).sum ≤ share → Completes s .checkpointStart fun t => SameMemory s t
          ∧ (t.device v).ckpt = some { k with checked := true, shards := xs } ∧ (t.device v).ckStatus = (u.device v).ckStatus
          ∧ (t.partition part).snaps = (u.partition part).snaps))

/-- Steps 2 to 4 of a checkpoint (R437) whose key is the one of window m: the key is opened, or refused, or waited for; once it is held,
the list is checked. `b` is the state that the step begins with. -/
def CheckpointOpens (s : State) (v m : Nat) (b : State) : Prop :=
  let d := s.device v
  let becomes (st : Nat) (c : Option Checkpoint) : Prop := exec .checkpointStart s = .next
    (b.withDevice v fun x => { x with ckStatus := st, ckpt := c })
  let k : Checkpoint := { opened := false, checked := false, entry := 0, key := keyOf m, shards := [], dst := (d.queue.get 0x90 0).toNat }
  (∀ st, s.openResult d.part d.window m = .refused st → becomes (16 + st) none)
  ∧ (∀ u, s.openResult d.part d.window m = .wait u → becomes d.ckStatus (some k))
  ∧ ∀ e, s.openResult d.part d.window m = .opened e →
      CheckpointChecks s v { k with opened := true, entry := e }
        ((b.addHold d.part e (keyOf m)).withDevice v fun x => { x with ckpt := some { k with opened := true, entry := e } })

/-! ## The machine -/

/-- The saved rows of an image's gangs are in the canonical form. -/
def ImageForm (x : Image) : Prop := ∀ y ∈ x.gangs, y.2.2.saved.rows.wf = true

/-- The form of the tables: rising numbers of launches and devices, and bytes in their canonical form in every scratchpad, in what is
saved of gangs, in the mailbox, and in the images here and to come. -/
structure TablesForm (s : State) : Prop where
  launches : Rising s.launches
  devices : Rising s.devices
  scratch : ∀ x ∈ s.cores, x.2.scratch.wf = true
  saved : ∀ x ∈ s.cores, ∀ y ∈ x.2.gangs, y.2.saved.rows.wf = true
  mbox : s.module.mbox.wf = true
  images : ∀ x ∈ s.images, ImageForm x.2
  inputs : ∀ k x, Turn.input (.image k x) ∈ s.agenda → ImageForm x

/-- A group's tiles have at most 32 lanes, the cause of a doomed transaction has 3 bits, and the lines and bytes that it has buffered stand
once. -/
def GroupForm (g : Group) : Prop :=
  g.tsz ≤ 5 ∧ ∀ t, g.tx = some t → (∀ x, t.doom = some x → x < 8) ∧ Rising t.lines ∧ ∀ y ∈ t.lines, Rising y.2.bytes

/-- The same of an image, with the packets of its launches and the rotation of its device. -/
def ImageGroups (x : Image) : Prop :=
  (∀ y ∈ x.gangs, ∀ g ∈ y.2.2.saved.groups, GroupForm g.2) ∧ (∀ l ∈ x.launches, pkWW l.2.pkt < 3) ∧ x.device.rotation < 5

/-- The form of the groups, resident and saved, of the packets that are in flight, and of the rotation over a device's five queues. -/
structure GroupsForm (s : State) : Prop where
  resident : ∀ x ∈ s.cores, ∀ g ∈ x.2.groups, GroupForm g.2
  saved : ∀ x ∈ s.cores, ∀ y ∈ x.2.gangs, ∀ g ∈ y.2.saved.groups, GroupForm g.2
  packets : ∀ l ∈ s.launches, pkWW l.2.pkt < 3
  rotation : ∀ d ∈ s.devices, d.2.rotation < 5
  images : ∀ x ∈ s.images, ImageGroups x.2
  inputs : ∀ k x, Turn.input (.image k x) ∈ s.agenda → ImageGroups x

end Sys2Proof.Claim
end

