-- ==== Sys2Proof/Certificates/Slice0/Obligations.lean ====
section
/-! DEFINITION. The statements of this model for the provers. Each docstring names the rules of the specification that its statement
formalises, and the log entries on which a clause rests where there are any. -/

open Sys2Proof Sys2Proof.Machine Sys2Proof.Claim

/-! ## Scalar instructions (spec/10) -/

/-- R264: each scalar instruction of its table writes its result, as 32 or 64 bits, to its destination and to nothing else; shift amounts
are taken modulo n. A literal index that the clause does not have takes the illegal-instruction trap (R230, R262). -/
def Obligations.ScalarResults : Prop :=
  ScalarBinaryLaw .sadd (fun _ _ a b => a + b)
  ∧ ScalarBinaryLaw .ssub (fun _ _ a b => a - b)
  ∧ ScalarBinaryLaw .smul (fun _ _ a b => a * b)
  ∧ ScalarBinaryLaw .smulhiI (fun n _ a b => BitVec.ofInt n (a.toInt * b.toInt / 2 ^ n))
  ∧ ScalarBinaryLaw .smulhiN (fun n _ a b => BitVec.ofNat n (a.toNat * b.toNat / 2 ^ n))
  ∧ ScalarBinaryLaw .sand (fun _ _ a b => a &&& b)
  ∧ ScalarBinaryLaw .sor (fun _ _ a b => a ||| b)
  ∧ ScalarBinaryLaw .sxor (fun _ _ a b => a ^^^ b)
  ∧ ScalarUnaryLaw .snot (fun _ a v => v = (~~~a).toNat)
  ∧ ScalarBinaryLaw .sshl (fun n _ a b => a <<< (b.toNat % n))
  ∧ ScalarBinaryLaw .sshrN (fun n _ a b => a >>> (b.toNat % n))
  ∧ ScalarBinaryLaw .sshrI (fun n _ a b => a.sshiftRight (b.toNat % n))
  ∧ ScalarBinaryLaw .sminI (fun _ _ a b => if a.toInt ≤ b.toInt then a else b)
  ∧ ScalarBinaryLaw .smaxI (fun _ _ a b => if a.toInt ≤ b.toInt then b else a)
  ∧ ScalarBinaryLaw .sminN (fun _ _ a b => if a.toNat ≤ b.toNat then a else b)
  ∧ ScalarBinaryLaw .smaxN (fun _ _ a b => if a.toNat ≤ b.toNat then b else a)
  ∧ ScalarBinaryLaw .slea (fun _ _ a b => a + 4 * b)
  ∧ ∀ s c k g o, Runs s c k g →
    (∀ b, g.scalarSrc o.wide o.b = some b → InGroup s c k (.smov o) fun g' => ScalarWrote g g' o.wide o.d b)
    ∧ (g.scalarSrc o.wide o.b = none → exec (.smov o) s = .next (s.setGroup c k g.illegal))

/-- R265: position p is bits 5:0 of b and length m bits 12:6; the effective length k is min(m, n − p), or 0 for a position beyond the
operand. `sbfx` reads that field, natural or sign-extended; `sbfi` replaces it in the old destination.
R266: `spopc` counts the 1 bits, `sclz` the 0 bits above the highest 1 bit, `sffs` gives the index of the lowest 1 bit; the last two
give n for 0. -/
def Obligations.ScalarBits : Prop :=
  (
  let p (n : Nat) (b : BitVec n) : Nat := b.toNat % 64
  let k (n : Nat) (b : BitVec n) : Nat := if b.toNat % 64 < n then min (b.toNat / 64 % 128) (n - b.toNat % 64) else 0
  ScalarBinaryLaw .sbfxN (fun n _ a b => (a.extractLsb' (p n b) (k n b)).setWidth n)
  ∧ ScalarBinaryLaw .sbfxI (fun n _ a b => (a.extractLsb' (p n b) (k n b)).signExtend n)
  ∧ ScalarBinaryLaw .sbfi (fun n old a b =>
      let field := ((a.setWidth (k n b)).setWidth n) <<< (p n b)
      let hole := ((BitVec.allOnes (k n b)).setWidth n) <<< (p n b)
      (old &&& ~~~hole) ||| field))
  ∧ (
  ScalarUnaryLaw .spopc (fun n a v => v = (List.range n).countP fun i => a.getLsbD i)
  ∧ ScalarUnaryLaw .sclz (fun n a v =>
      (a = 0 → v = n) ∧ (a ≠ 0 → v < n ∧ a.getLsbD (n - 1 - v) = true ∧ ∀ i, n - 1 - v < i → a.getLsbD i = false))
  ∧ ScalarUnaryLaw .sffs (fun n a v =>
      (a = 0 → v = n) ∧ (a ≠ 0 → v < n ∧ a.getLsbD v = true ∧ ∀ i, i < v → a.getLsbD i = false)))

/-- R267: a compare writes 1 to its bit of `cond` when the relation holds, signed for `.i` and natural for `.n`, else 0; the other bits
and all else stay. -/
def Obligations.ScalarCompares : Prop :=
  (∀ s c k g o b, Runs s c k g → g.scalarSrc o.wide o.b = some b →
    (∀ r, (r = true ↔ relation o.cond (operand g o.wide o.a).toInt (BitVec.ofNat (widthOf o.wide) b).toInt) →
      InGroup s c k (.scmpI o) fun g' => CondWrote g g' o.bit r)
    ∧ (∀ r, (r = true ↔ relation o.cond (operand g o.wide o.a).toNat (BitVec.ofNat (widthOf o.wide) b).toNat) →
      InGroup s c k (.scmpN o) fun g' => CondWrote g g' o.bit r))
  ∧ ∀ s c k g o, Runs s c k g → g.scalarSrc o.wide o.b = none →
    exec (.scmpI o) s = .next (s.setGroup c k g.illegal) ∧ exec (.scmpN o) s = .next (s.setGroup c k g.illegal)

/-- R262: the value b of a scalar instruction: a register or an even pair, low word first; an 11-bit immediate, sign-extended; literal
words of the clause, low word first.
R268, R269: `sfromv` writes what the lane's register or pair holds, whatever the lane's state, and traps beyond the budget; `sfromk`
writes a mask, `k0` as the active lanes; `stok` writes a mask register. -/
def Obligations.ScalarSourcesAndMoves : Prop :=
  (
  ∀ (g : Group) (wide : Bool),
    (∀ r : BitVec 6, g.scalarSrc wide (.reg r) =
      some (if wide then (g.sregs.get r.toNat 0).toNat + 2 ^ 32 * (g.sregs.get (r.toNat + 1) 0).toNat else (g.sregs.get r.toNat 0).toNat))
    ∧ (∀ i : BitVec 11, g.scalarSrc wide (.imm i) = some (i.signExtend (widthOf wide)).toNat)
    ∧ ∀ i : BitVec 4, g.scalarSrc wide (.lit i) =
      if wide then (g.clause.lits[i.toNat]?).bind fun lo => (g.clause.lits[i.toNat + 1]?).map fun hi => lo.toNat + 2 ^ 32 * hi.toNat
      else (g.clause.lits[i.toNat]?).map fun lo => lo.toNat)
  ∧ (
  (∀ s c k g o, Runs s c k g →
    if o.v.toNat + (if o.wide then 2 else 1) ≤ g.budget then
      InGroup s c k (.sfromv o) fun g' => ScalarWrote g g' o.wide o.d
        (if o.wide then (g.vread s.tick o.v.toNat o.lane.toNat).toNat + 2 ^ 32 * (g.vread s.tick (o.v.toNat + 1) o.lane.toNat).toNat
         else (g.vread s.tick o.v.toNat o.lane.toNat).toNat)
    else exec (.sfromv o) s = .next (s.setGroup c k g.illegal))
  ∧ (∀ s c k g o, Runs s c k g → InGroup s c k (.sfromk o) fun g' =>
      ScalarWrote g g' false o.d (if o.k = 0 then g.clause.active else g.masks.get o.k.toNat 0).toNat)
  ∧ ∀ s c k g o, Runs s c k g →
    (∀ b, g.scalarSrc false o.b = some b → InGroup s c k (.stok o) fun g' =>
      g'.masks.get o.k.toNat 0 = BitVec.ofNat 32 b ∧ (∀ j, j ≠ o.k.toNat → g'.masks.get j 0 = g.masks.get j 0)
        ∧ { g' with masks := g.masks } = g)
    ∧ (g.scalarSrc false o.b = none → exec (.stok o) s = .next (s.setGroup c k g.illegal)))

/-- R270, R152, R189, R248, R249, R250: `ssyswr` of `fmode` keeps bits 7:0 and 15:11 of the value, `part` takes a tile size of 1 to 5 from bits 2:0 and
traps on any other, `cond` takes bits 7:0; `ssysrd` of a number that R248 gives writes the register's value and changes nothing else; an
instruction with any other number, with a width that is not the register's, or that writes an RO register, is ill-formed. -/
def Obligations.SystemRegisters : Prop :=
  (∀ o : ScalarSystem,
    ((Instr.ssysrd o).wf = true ↔ (((o.num.toNat ≤ 6 ∨ (8 ≤ o.num.toNat ∧ o.num.toNat ≤ 0x0B)) ∧ o.wide = false)
      ∨ (0x10 ≤ o.num.toNat ∧ o.num.toNat ≤ 0x13 ∧ o.wide = true ∧ o.r.toNat % 2 = 0)))
    ∧ ((Instr.ssyswr o).wf = true ↔ o.num.toNat ≤ 2 ∧ o.wide = false))
  ∧ (∀ s c k g o, Runs s c k g → (Instr.ssysrd o).wf = true → InGroup s c k (.ssysrd o) fun g' => ScalarWrote g g' o.wide o.r (g.sysRead (s.ctx c k) o.num.toNat))
  ∧ (∀ s c k g o, Runs s c k g → o.num = 0#8 → InGroup s c k (.ssyswr o) fun g' =>
      (∀ i, g'.fmode.getLsbD i = ((decide (i < 8) || decide (11 ≤ i ∧ i < 16)) && (g.sreg o.r.toNat).getLsbD i))
        ∧ { g' with fmode := g.fmode } = g)
  ∧ (∀ s c k g o, Runs s c k g → o.num = 1#8 →
      if 1 ≤ (g.sreg o.r.toNat).toNat % 8 ∧ (g.sreg o.r.toNat).toNat % 8 ≤ 5 then
        InGroup s c k (.ssyswr o) fun g' => g' = { g with tsz := (g.sreg o.r.toNat).toNat % 8 }
      else exec (.ssyswr o) s = .next (s.setGroup c k g.illegal))
  ∧ (∀ s c k g o, Runs s c k g → o.num = 2#8 → InGroup s c k (.ssyswr o) fun g' =>
      (∀ i, i < 8 → g'.cond.getLsbD i = (g.sreg o.r.toNat).getLsbD i) ∧ { g' with cond := g.cond } = g)
  ∧ ∀ g : Group, ∀ x : Ctx,
      g.sysRead x 0 = g.fmode.toNat ∧ g.sysRead x 1 = g.tsz ∧ g.sysRead x 2 = g.cond.toNat ∧ g.sysRead x 3 = g.txs.toNat
      ∧ g.sysRead x 4 = g.ginfo.toNat ∧ g.sysRead x 5 = x.window ∧ g.sysRead x 8 = 0x03000100 ∧ g.sysRead x 9 = 0xFF
      ∧ g.sysRead x 6 = (min g.tiles.length 255 * 2 ^ 24 + min g.copies.length 255 * 2 ^ 16 + min g.stores.length 255 * 2 ^ 8
          + min g.loads.length 255) ∧ g.sysRead x 10 = 0 ∧ g.sysRead x 11 = 0
      ∧ ∀ i, i < 4 → g.sysRead x (0x10 + i) = (g.keys.get i 0).toNat

/-! ## Vector instructions (spec/11) -/

/-- R286, R287: the arithmetic of `.f32`, `.bf16` and `.f16`: operands are flushed where FZ is 1 (never `.f16`), the exact result is
rounded once in the mode of the prefix or of `fmode`, and flushed again; `fmin` and `fmax` choose an operand and raise nothing. Lanes
with an enabled exception trap and write nothing.
R149, R151, R154, R155, R145: what the functions of the floating-point arithmetic give, in every format and mode: Round and FlushOut with
their exceptions, FlushIn, sums, products and fused products as exact rational numbers with the signs of zero of IEEE 754, and the cases of
infinities and NaNs; an operand that `fmin` or `fmax` chooses keeps its bits. -/
def Obligations.FloatArithmetic : Prop :=
  (
  let rm (g : Group) (c : VectorCtl) : RoundMode := c.rnd.getD (Sys2Proof.Num.modeOf g.fmode.toNat)
  let fz (F : Sys2Proof.Num.Fmt) (g : Group) : Bool := g.fmode.getLsbD 2 && decide (F ≠ Sys2Proof.Num.f16)
  let opd (F : Sys2Proof.Num.Fmt) (g : Group) (x : Nat) : Sys2Proof.Num.Fp := Sys2Proof.Num.flushIn (fz F g) F (Sys2Proof.Num.decode F x)
  let res (F : Sys2Proof.Num.Fmt) (g : Group) (m : RoundMode) (r : Sys2Proof.Num.Fp × Bool) : Nat × Sys2Proof.Num.Exc :=
    ((Sys2Proof.Num.finish F m (fz F g) r.1).1, (Sys2Proof.Num.finish F m (fz F g) r.1).2 ||| if r.2 then Sys2Proof.Num.excInvalid else Sys2Proof.Num.excNone)
  let add (F : Sys2Proof.Num.Fmt) (g : Group) (o : VectorBinary) (a b : Nat) := res F g (rm g o.ctl) (Sys2Proof.Num.add (rm g o.ctl) (opd F g a) (opd F g b))
  let sub (F : Sys2Proof.Num.Fmt) (g : Group) (o : VectorBinary) (a b : Nat) := res F g (rm g o.ctl) (Sys2Proof.Num.sub (rm g o.ctl) (opd F g a) (opd F g b))
  let mul (F : Sys2Proof.Num.Fmt) (g : Group) (o : VectorBinary) (a b : Nat) := res F g (rm g o.ctl) (Sys2Proof.Num.mul (opd F g a) (opd F g b))
  let fma (F : Sys2Proof.Num.Fmt) (g : Group) (o : VectorTernary) (a b c : Nat) :=
    res F g (rm g o.ctl) (Sys2Proof.Num.fma (rm g o.ctl) (opd F g a) (opd F g b) (opd F g c))
  let pick (F : Sys2Proof.Num.Fmt) (max : Bool) (g : Group) (_ : VectorBinary) (a b : Nat) : Nat × Sys2Proof.Num.Exc :=
    (Sys2Proof.Num.minMax F max (opd F g a) (opd F g b), Sys2Proof.Num.excNone)
  VectorBinaryLaw .faddF32 false (add Sys2Proof.Num.f32) ∧ VectorBinaryLaw .faddBf16 false (add Sys2Proof.Num.bf16) ∧ VectorBinaryLaw .faddF16 false (add Sys2Proof.Num.f16)
  ∧ VectorBinaryLaw .fsubF32 false (sub Sys2Proof.Num.f32) ∧ VectorBinaryLaw .fsubBf16 false (sub Sys2Proof.Num.bf16)
  ∧ VectorBinaryLaw .fsubF16 false (sub Sys2Proof.Num.f16)
  ∧ VectorBinaryLaw .fmulF32 false (mul Sys2Proof.Num.f32) ∧ VectorBinaryLaw .fmulBf16 false (mul Sys2Proof.Num.bf16)
  ∧ VectorBinaryLaw .fmulF16 false (mul Sys2Proof.Num.f16)
  ∧ VectorTernaryLaw .ffmaF32 (fma Sys2Proof.Num.f32) ∧ VectorTernaryLaw .ffmaBf16 (fma Sys2Proof.Num.bf16) ∧ VectorTernaryLaw .ffmaF16 (fma Sys2Proof.Num.f16)
  ∧ VectorBinaryLaw .fminF32 false (pick Sys2Proof.Num.f32 false) ∧ VectorBinaryLaw .fminBf16 false (pick Sys2Proof.Num.bf16 false)
  ∧ VectorBinaryLaw .fminF16 false (pick Sys2Proof.Num.f16 false)
  ∧ VectorBinaryLaw .fmaxF32 false (pick Sys2Proof.Num.f32 true) ∧ VectorBinaryLaw .fmaxBf16 false (pick Sys2Proof.Num.bf16 true)
  ∧ VectorBinaryLaw .fmaxF16 false (pick Sys2Proof.Num.f16 true))
  ∧ (
  (∀ F ∈ formats, ∀ m fz x, Rounds F m fz x (Sys2Proof.Num.finish F m fz x))
  ∧ (∀ F ∈ formats, ∀ fz s n e, Sys2Proof.Num.flushIn fz F (.fin s n e) =
      if fz = true ∧ n ≠ 0 ∧ (n : ℚ) * 2 ^ e < leastNormal F then .fin s 0 0 else .fin s n e)
  ∧ (∀ F ∈ formats, ∀ fz s, Sys2Proof.Num.flushIn fz F .nan = .nan ∧ Sys2Proof.Num.flushIn fz F (.inf s) = .inf s)
  ∧ (∀ b : BitVec 32, Sys2Proof.Num.modeOf b.toNat = match (b.extractLsb' 0 2).toNat with
      | 0 => .ne | 1 => .tz | 2 => .up | _ => .dn)
  ∧ (∀ (m : RoundMode) (x y : Sys2Proof.Num.Fp), Sys2Proof.Num.sub m x y = Sys2Proof.Num.add m x y.neg)
  ∧ (∀ m s a e t b d, ∃ u n q, Sys2Proof.Num.add m (.fin s a e) (.fin t b d) = (.fin u n q, false)
      ∧ worth (.fin u n q) = worth (.fin s a e) + worth (.fin t b d)
      ∧ (n = 0 → u = if s = t then s else decide (m = .dn)))
  ∧ (∀ s a e t b d, ∃ n q, Sys2Proof.Num.mul (.fin s a e) (.fin t b d) = (.fin (s != t) n q, false)
      ∧ worth (.fin (s != t) n q) = worth (.fin s a e) * worth (.fin t b d))
  ∧ (∀ m x y z, Sys2Proof.Num.fma m x y z =
      if (Sys2Proof.Num.mul x y).1 = .nan then Sys2Proof.Num.mul x y else Sys2Proof.Num.add m (Sys2Proof.Num.mul x y).1 z)
  ∧ (∀ m s t x n e d, Sys2Proof.Num.add m .nan x = (.nan, false) ∧ Sys2Proof.Num.add m x .nan = (.nan, false)
      ∧ Sys2Proof.Num.add m (.inf s) (.inf t) = (if s = t then (.inf s, false) else (.nan, true))
      ∧ Sys2Proof.Num.add m (.inf s) (.fin t n e) = (.inf s, false) ∧ Sys2Proof.Num.add m (.fin t n e) (.inf s) = (.inf s, false)
      ∧ Sys2Proof.Num.mul .nan x = (.nan, false) ∧ Sys2Proof.Num.mul x .nan = (.nan, false)
      ∧ Sys2Proof.Num.mul (.inf s) (.inf t) = (.inf (s != t), false)
      ∧ (n ≠ 0 → Sys2Proof.Num.mul (.inf s) (.fin t n e) = (.inf (s != t), false) ∧ Sys2Proof.Num.mul (.fin s n e) (.inf t) = (.inf (s != t), false))
      ∧ Sys2Proof.Num.mul (.inf s) (.fin t 0 d) = (.nan, true) ∧ Sys2Proof.Num.mul (.fin s 0 d) (.inf t) = (.nan, true))
  ∧ ∀ F ∈ formats, ∀ x y, x ≠ .nan → y ≠ .nan →
      let enc := Sys2Proof.Num.encode F
      let below (x y : Sys2Proof.Num.Fp) : Prop := Above y x ∨ (worth x = 0 ∧ worth y = 0 ∧ x.isZero = true ∧ y.isZero = true ∧ x.sign = true ∧ y.sign = false)
      Sys2Proof.Num.minMax F false .nan .nan = canonicalNaN F ∧ Sys2Proof.Num.minMax F true .nan .nan = canonicalNaN F
      ∧ (∀ b, Sys2Proof.Num.minMax F b .nan x = enc x ∧ Sys2Proof.Num.minMax F b x .nan = enc x)
      ∧ (below x y → Sys2Proof.Num.minMax F false x y = enc x ∧ Sys2Proof.Num.minMax F true x y = enc y)
      ∧ (below y x → Sys2Proof.Num.minMax F false x y = enc y ∧ Sys2Proof.Num.minMax F true x y = enc x)
      ∧ (¬ below x y → ¬ below y x → ∀ b, Sys2Proof.Num.minMax F b x y = enc x ∨ Sys2Proof.Num.minMax F b x y = enc y)
      ∧ ∀ w, w < 2 ^ F.width → Sys2Proof.Num.decode F w ≠ .nan → enc (Sys2Proof.Num.decode F w) = w)

/-- R288, R289, R149, R154, R155: `fdiv` and the special functions: the function of the flushed operands, with the special cases of the
table first, rounded to nearest even and flushed, whatever RM holds. Quotients and roots are the correctly rounded real values. How the
model finds the rounding of a transcendental value is log 7.
R288, R149, R154, R155: the quotients and roots of finite operands other than zero are the correctly rounded values of the exact
functions, and their exceptions are those of R155.
R289: the special cases of `fdiv` and the special functions, and the arguments at which the value of a transcendental function is a
dyadic number: each with the value before rounding and its exception. -/
def Obligations.SpecialFunctions : Prop :=
  (
  let opd (g : Group) (x : Nat) : Sys2Proof.Num.Fp := Sys2Proof.Num.flushIn (g.fmode.getLsbD 2) Sys2Proof.Num.f32 (Sys2Proof.Num.decode Sys2Proof.Num.f32 x)
  let fn (exact : Sys2Proof.Num.Fp → Sys2Proof.Num.SpecialRes) (g : Group) (_ : VectorUnary) (a : Nat) : Nat × Sys2Proof.Num.Exc :=
    Sys2Proof.Num.finishSpecial (g.fmode.getLsbD 2) (exact (opd g a))
  VectorBinaryLaw .fdiv false (fun g _ a b => Sys2Proof.Num.finishSpecial (g.fmode.getLsbD 2) (Sys2Proof.Num.fdivExact (opd g a) (opd g b)))
  ∧ VectorUnaryLaw .frcp (fn Sys2Proof.Num.frcpExact) ∧ VectorUnaryLaw .frsq (fn Sys2Proof.Num.frsqExact) ∧ VectorUnaryLaw .fsqrt (fn Sys2Proof.Num.fsqrtExact)
  ∧ VectorUnaryLaw .fexp2 (fn Sys2Proof.Num.fexp2Exact) ∧ VectorUnaryLaw .flog2 (fn Sys2Proof.Num.flog2Exact)
  ∧ VectorUnaryLaw .fsin (fn Sys2Proof.Num.fsinExact) ∧ VectorUnaryLaw .fcos (fn Sys2Proof.Num.fcosExact))
  ∧ (
  ∀ (fz s t : Bool) (m n : Nat) (e d : Int), m ≠ 0 → n ≠ 0 →
    let x : ℝ := (m : ℝ) * 2 ^ e
    let y : ℝ := (n : ℝ) * 2 ^ d
    NearestF32 fz (s != t) (x / y) (Sys2Proof.Num.finishSpecial fz (Sys2Proof.Num.fdivExact (.fin s m e) (.fin t n d)))
    ∧ NearestF32 fz s (1 / x) (Sys2Proof.Num.finishSpecial fz (Sys2Proof.Num.frcpExact (.fin s m e)))
    ∧ NearestF32 fz false (1 / Real.sqrt x) (Sys2Proof.Num.finishSpecial fz (Sys2Proof.Num.frsqExact (.fin false m e)))
    ∧ NearestF32 fz false (Real.sqrt x) (Sys2Proof.Num.finishSpecial fz (Sys2Proof.Num.fsqrtExact (.fin false m e))))
  ∧ (
  let zero (s : Bool) : Sys2Proof.Num.Fp := .fin s 0 0
  let is (r : Sys2Proof.Num.SpecialRes) (x : Sys2Proof.Num.Fp) : Prop := r = (x, Sys2Proof.Num.excNone)
  let invalid (r : Sys2Proof.Num.SpecialRes) : Prop := r = (.nan, Sys2Proof.Num.excInvalid)
  let byZero (r : Sys2Proof.Num.SpecialRes) (s : Bool) : Prop := r = (.inf s, Sys2Proof.Num.excDivZero)
  ∀ (s t : Bool) (m n : Nat) (e d : Int) (x : Sys2Proof.Num.Fp), m ≠ 0 →
    let a : Sys2Proof.Num.Fp := .fin s m e
    let v : ℚ := (m : ℚ) * 2 ^ e
    (is (Sys2Proof.Num.fdivExact .nan x) .nan ∧ is (Sys2Proof.Num.fdivExact x .nan) .nan ∧ is (Sys2Proof.Num.frcpExact .nan) .nan
      ∧ is (Sys2Proof.Num.frsqExact .nan) .nan ∧ is (Sys2Proof.Num.fsqrtExact .nan) .nan ∧ is (Sys2Proof.Num.fexp2Exact .nan) .nan
      ∧ is (Sys2Proof.Num.flog2Exact .nan) .nan ∧ is (Sys2Proof.Num.fsinExact .nan) .nan ∧ is (Sys2Proof.Num.fcosExact .nan) .nan)
    ∧ (byZero (Sys2Proof.Num.fdivExact a (.fin t 0 d)) (s != t) ∧ invalid (Sys2Proof.Num.fdivExact (.fin s 0 e) (.fin t 0 d))
      ∧ invalid (Sys2Proof.Num.fdivExact (.inf s) (.inf t)) ∧ is (Sys2Proof.Num.fdivExact (.inf s) (.fin t n d)) (.inf (s != t))
      ∧ is (Sys2Proof.Num.fdivExact (.fin s n e) (.inf t)) (zero (s != t)) ∧ is (Sys2Proof.Num.fdivExact (.fin s 0 e) (.fin t m d)) (zero (s != t)))
    ∧ (byZero (Sys2Proof.Num.frcpExact (.fin s 0 e)) s ∧ is (Sys2Proof.Num.frcpExact (.inf s)) (zero s))
    ∧ (byZero (Sys2Proof.Num.frsqExact (.fin s 0 e)) s ∧ is (Sys2Proof.Num.frsqExact (.inf false)) (zero false)
      ∧ invalid (Sys2Proof.Num.frsqExact (.fin true m e)) ∧ invalid (Sys2Proof.Num.frsqExact (.inf true)))
    ∧ (is (Sys2Proof.Num.fsqrtExact (.fin s 0 e)) (zero s) ∧ is (Sys2Proof.Num.fsqrtExact (.inf false)) (.inf false)
      ∧ invalid (Sys2Proof.Num.fsqrtExact (.fin true m e)) ∧ invalid (Sys2Proof.Num.fsqrtExact (.inf true)))
    ∧ (is (Sys2Proof.Num.fexp2Exact (.inf true)) (zero false) ∧ is (Sys2Proof.Num.fexp2Exact (.inf false)) (.inf false)
      ∧ is (Sys2Proof.Num.fexp2Exact (.fin s 0 e)) (.fin false 1 0)
      ∧ ∀ k : Nat, v = k → k < 512 → is (Sys2Proof.Num.fexp2Exact a) (.fin false 1 (if s then -(k : Int) else k)))
    ∧ (512 ≤ v → ∀ fz, Sys2Proof.Num.finishSpecial fz (Sys2Proof.Num.fexp2Exact a) =
        if s then (0, Sys2Proof.Num.excUnderflow ||| Sys2Proof.Num.excInexact) else (0x7F800000, Sys2Proof.Num.excOverflow ||| Sys2Proof.Num.excInexact))
    ∧ (byZero (Sys2Proof.Num.flog2Exact (.fin s 0 e)) true ∧ is (Sys2Proof.Num.flog2Exact (.inf false)) (.inf false)
      ∧ invalid (Sys2Proof.Num.flog2Exact (.fin true m e)) ∧ invalid (Sys2Proof.Num.flog2Exact (.inf true))
      ∧ ∀ k : Int, v = 2 ^ k → is (Sys2Proof.Num.flog2Exact (.fin false m e)) (if k = 0 then zero false else .fin (decide (k < 0)) k.natAbs 0))
    ∧ (invalid (Sys2Proof.Num.fsinExact (.inf s)) ∧ is (Sys2Proof.Num.fsinExact (.fin s 0 e)) (zero s)
      ∧ ∀ k : Nat, (v = k ∨ v = k + 1 / 2 → is (Sys2Proof.Num.fsinExact a) (zero s))
        ∧ (v = k + 1 / 4 → is (Sys2Proof.Num.fsinExact a) (.fin s 1 0)) ∧ (v = k + 3 / 4 → is (Sys2Proof.Num.fsinExact a) (.fin (!s) 1 0)))
    ∧ (invalid (Sys2Proof.Num.fcosExact (.inf s)) ∧ is (Sys2Proof.Num.fcosExact (.fin s 0 e)) (.fin false 1 0)
      ∧ ∀ k : Nat, (v = k → is (Sys2Proof.Num.fcosExact a) (.fin false 1 0)) ∧ (v = k + 1 / 2 → is (Sys2Proof.Num.fcosExact a) (.fin true 1 0))
        ∧ (v = k + 1 / 4 ∨ v = k + 3 / 4 → is (Sys2Proof.Num.fcosExact a) (zero false))))

/-- R293: the integer and logical instructions of one, two and three sources, the 64-bit forms on register pairs; none raises anything,
and each leaves every register but its destination, every flag and all else. -/
def Obligations.VectorIntegers : Prop :=
  let wide (f : BitVec 64 → BitVec 64 → BitVec 64) (_ : Group) (_ : VectorBinary) (a b : Nat) : Nat × Sys2Proof.Num.Exc :=
    quiet (f (BitVec.ofNat 64 a) (BitVec.ofNat 64 b))
  let clamp (x : Int) : BitVec 32 := BitVec.ofInt 32 (max (-(2 ^ 31)) (min (2 ^ 31 - 1) x))
  let unary (mk : VectorUnary → Instr) (rel : BitVec 32 → BitVec 32 → Prop) : Prop :=
    ∃ f : BitVec 32 → BitVec 32, (∀ a, rel a (f a)) ∧ VectorUnaryLaw mk fun _ _ a => quiet (f (BitVec.ofNat 32 a))
  IntLaw .iaddB32 (fun a b => a + b) ∧ VectorBinaryLaw .iaddB64 true (wide fun a b => a + b)
  ∧ IntLaw .isubB32 (fun a b => a - b) ∧ VectorBinaryLaw .isubB64 true (wide fun a b => a - b)
  ∧ IntLaw .imulB32 (fun a b => a * b)
  ∧ IntLaw .imulhiI32 (fun a b => BitVec.ofInt 32 (a.toInt * b.toInt / 2 ^ 32))
  ∧ IntLaw .imulhiN32 (fun a b => BitVec.ofNat 32 (a.toNat * b.toNat / 2 ^ 32))
  ∧ IntLaw .iaddsI32 (fun a b => clamp (a.toInt + b.toInt))
  ∧ IntLaw .iaddsN32 (fun a b => BitVec.ofNat 32 (min (a.toNat + b.toNat) (2 ^ 32 - 1)))
  ∧ IntLaw .isubsI32 (fun a b => clamp (a.toInt - b.toInt))
  ∧ IntLaw .isubsN32 (fun a b => BitVec.ofNat 32 (a.toNat - b.toNat))
  ∧ IntLaw .iminI32 (fun a b => if a.toInt ≤ b.toInt then a else b) ∧ IntLaw .iminN32 (fun a b => if a.toNat ≤ b.toNat then a else b)
  ∧ IntLaw .imaxI32 (fun a b => if a.toInt ≤ b.toInt then b else a) ∧ IntLaw .imaxN32 (fun a b => if a.toNat ≤ b.toNat then b else a)
  ∧ IntLaw .andB32 (fun a b => a &&& b) ∧ IntLaw .orB32 (fun a b => a ||| b) ∧ IntLaw .xorB32 (fun a b => a ^^^ b)
  ∧ IntLaw .shlB32 (fun a b => a <<< (b.toNat % 32)) ∧ IntLaw .shrN32 (fun a b => a >>> (b.toNat % 32))
  ∧ IntLaw .shrI32 (fun a b => a.sshiftRight (b.toNat % 32))
  ∧ VectorTernaryLaw .imadB32 (fun _ _ a b c => quiet (BitVec.ofNat 32 a * BitVec.ofNat 32 b + BitVec.ofNat 32 c))
  ∧ unary .notB32 (fun a r => r = ~~~a)
  ∧ unary .popcB32 (fun a r => r.toNat = (List.range 32).countP fun i => a.getLsbD i)
  ∧ unary .clzB32 (fun a r => (a = 0 → r.toNat = 32)
      ∧ (a ≠ 0 → r.toNat < 32 ∧ a.getLsbD (31 - r.toNat) = true ∧ ∀ i, 31 - r.toNat < i → a.getLsbD i = false))
  ∧ unary .brevB32 (fun a r => ∀ i, i < 32 → r.getLsbD i = a.getLsbD (31 - i))

/-- R290: `fcmp` and `icmp` write the bit of every computing lane, 0 for masked lanes where ZERO is 1, and nothing else; an unordered pair
meets `ne` and `uo` only.
R291: `fclass` gives the one bit of its operand's class, never flushes and raises nothing. -/
def Obligations.VectorComparesAndClasses : Prop :=
  (
  let fz (F : Sys2Proof.Num.Fmt) (g : Group) : Bool := g.fmode.getLsbD 2 && decide (F ≠ Sys2Proof.Num.f16)
  let opd (F : Sys2Proof.Num.Fmt) (g : Group) (x : Nat) : Sys2Proof.Num.Fp := Sys2Proof.Num.flushIn (fz F g) F (Sys2Proof.Num.decode F x)
  let fholds (c : FCond) (x y : Sys2Proof.Num.Fp) : Prop :=
    let un := x.isNan = true ∨ y.isNan = true
    match c with
    | .eq => ¬ un ∧ Sys2Proof.Num.cmp x y = 0 | .ne => un ∨ Sys2Proof.Num.cmp x y ≠ 0 | .lt => ¬ un ∧ Sys2Proof.Num.cmp x y < 0 | .le => ¬ un ∧ Sys2Proof.Num.cmp x y ≤ 0
    | .gt => ¬ un ∧ Sys2Proof.Num.cmp x y > 0 | .ge => ¬ un ∧ Sys2Proof.Num.cmp x y ≥ 0 | .uo => un | .ord => ¬ un
  let flaw (mk : VectorFCompare → Instr) (F : Sys2Proof.Num.Fmt) : Prop := ∀ s c k g o, Runs s c k g → o.m ≠ 0 →
    if g.inBudget o.a.toNat 1 = true ∧ g.srcOk false 1 o.b = true then
      InGroup s c k (mk o) fun g' => MaskWrote g g' o.ctl o.m fun l =>
        fholds o.cond (opd F g (g.velem s.tick false o.a.toNat 0 l)) (opd F g (g.srcElem s.tick false 0 l o.b))
    else exec (mk o) s = .next (s.setGroup c k g.illegal)
  let ilaw (mk : VectorICompare → Instr) (is64 : Bool) (rd : Nat → Int) : Prop := ∀ s c k g o, Runs s c k g → o.m ≠ 0 →
    if g.inBudget o.a.toNat (if is64 then 2 else 1) = true ∧ g.srcOk is64 (if is64 then 2 else 1) o.b = true then
      InGroup s c k (mk o) fun g' => MaskWrote g g' o.ctl o.m fun l =>
        relation o.cond (rd (g.velem s.tick is64 o.a.toNat 0 l)) (rd (g.srcElem s.tick is64 0 l o.b))
    else exec (mk o) s = .next (s.setGroup c k g.illegal)
  flaw .fcmpF32 Sys2Proof.Num.f32 ∧ flaw .fcmpBf16 Sys2Proof.Num.bf16 ∧ flaw .fcmpF16 Sys2Proof.Num.f16
  ∧ ilaw .icmpI32 false (fun x => (BitVec.ofNat 32 x).toInt) ∧ ilaw .icmpN32 false (fun x => (x : Int))
  ∧ ilaw .icmpI64 true (fun x => (BitVec.ofNat 64 x).toInt) ∧ ilaw .icmpN64 true (fun x => (x : Int)))
  ∧ (
  let cls (F : Sys2Proof.Num.Fmt) (a : Nat) : Nat :=
    match Sys2Proof.Num.decode F a with
    | .nan => 256
    | .inf true => 1
    | .inf false => 128
    | .fin true m e => if m = 0 then 8 else if Sys2Proof.Num.expo m e < F.emin then 4 else 2
    | .fin false m e => if m = 0 then 16 else if Sys2Proof.Num.expo m e < F.emin then 32 else 64
  VectorUnaryLaw .fclassF32 (fun _ _ a => (cls Sys2Proof.Num.f32 a, Sys2Proof.Num.excNone))
  ∧ VectorUnaryLaw .fclassBf16 (fun _ _ a => (cls Sys2Proof.Num.bf16 a, Sys2Proof.Num.excNone))
  ∧ VectorUnaryLaw .fclassF16 (fun _ _ a => (cls Sys2Proof.Num.f16 a, Sys2Proof.Num.excNone)))

/-- R292, R294, R295, R296: `cvt` converts in the mode of the prefix, else NE; `mov` copies its second source bit for bit; `shfl` reads the
lane of its tile that its index names, whatever that lane's state; `vsysrd` writes `pcv`, `wid` or, in trap mode only, a trap register,
low word first; one with any other number, an odd destination or a rounding override is ill-formed.
R157, R158, R292, R140, R142: what a conversion gives: to a floating-point type its source rounded once without a flush, an integer source
and an `.e8m0` scale being exact numbers; to an integer type as R158 says; between integer types the source clamped to the range. A `cvt`
to `.e8m0`, between a type and itself, or from `.e8m0` to another type than `.f32` and `.bf16` is ill-formed.
R237, R238, R239: what a lane reads as its second source: the element of the lane that the pattern names within the tile, a scalar
register or pair, or literal words of the clause, the same for every element and lane. -/
def Obligations.VectorMoves : Prop :=
  (
  (∀ o : VectorSystem, (Instr.vsysrd o).wf = true ↔ o.ctl.rnd = none ∧ o.d.toNat % 2 = 0
    ∧ (o.num = 0x40#7 ∨ o.num = 0x41#7 ∨ o.num = 0x48#7 ∨ o.num = 0x49#7 ∨ o.num = 0x4A#7)) ∧
  (∀ s c k g o, Runs s c k g →
    let any := o.dt.is64 || o.st.is64
    if g.inBudget o.d.toNat (operandSpan any o.dt.is64 o.wid) = true ∧ g.inBudget o.a.toNat (operandSpan any o.st.is64 o.wid) = true then
      InGroup s c k (.cvt o) fun g' => VectorEffect g g' o.ctl o.dt.is64 o.d.toNat (elemsOf any o.wid)
        fun l e => Sys2Proof.Num.convert o.dt o.st (o.ctl.rnd.getD .ne) (g.velem s.tick o.st.is64 o.a.toNat e l)
    else exec (.cvt o) s = .next (s.setGroup c k g.illegal))
  ∧ (∀ s c k g o, Runs s c k g →
    if g.inBudget o.d.toNat (elemsOf false o.wid) = true ∧ g.srcOk false (elemsOf false o.wid) o.b = true then
      InGroup s c k (.movB32 o) fun g' => VectorEffect g g' o.ctl false o.d.toNat (elemsOf false o.wid)
        fun l e => (g.srcElem s.tick false e l o.b, Sys2Proof.Num.excNone)
    else exec (.movB32 o) s = .next (s.setGroup c k g.illegal))
  ∧ (∀ s c k g o, Runs s c k g →
    if g.inBudget o.d.toNat 1 = true ∧ g.inBudget o.a.toNat 1 = true ∧ g.srcOk false 1 o.b = true then
      InGroup s c k (.shflB32 o) fun g' => VectorEffect g g' o.ctl false o.d.toNat 1
        fun l _ => ((g.vread s.tick o.a.toNat (l / 2 ^ g.tsz * 2 ^ g.tsz + g.srcElem s.tick false 0 l o.b % 2 ^ g.tsz)).toNat, Sys2Proof.Num.excNone)
    else exec (.shflB32 o) s = .next (s.setGroup c k g.illegal))
  ∧ ∀ s c k g o, Runs s c k g → (Instr.vsysrd o).wf = true →
    let trapMode := ∃ l, l < 32 ∧ g.clause.active.getLsbD l = true ∧ (g.lane l).trap = true
    (g.inBudget o.d.toNat 2 = true → (o.num.toNat < 0x48 ∨ trapMode) →
      InGroup s c k (.vsysrd o) fun g' => VectorEffect g g' o.ctl true o.d.toNat 1 fun l _ =>
        ((if o.num = 0x40#7 then g.clause.addr else if o.num = 0x41#7 then (g.lane l).wid else if o.num = 0x48#7 then (g.lane l).tcause
          else if o.num = 0x49#7 then (g.lane l).taddr else (g.lane l).tepc).toNat, Sys2Proof.Num.excNone))
    ∧ (¬ (g.inBudget o.d.toNat 2 = true ∧ (o.num.toNat < 0x48 ∨ trapMode)) → exec (.vsysrd o) s = .next (s.setGroup c k g.illegal)))
  ∧ (
  (∀ o : VectorConvert, (Instr.cvt o).wf = true → o.dt ≠ o.st ∧ o.dt ≠ .e8m0 ∧ (o.st = .e8m0 → o.dt = .f32 ∨ o.dt = .bf16))
  ∧ ∀ dt st m x,
    let res := Sys2Proof.Num.convert dt st m x
    (∀ F G, floatType dt = some F → floatType st = some G → Rounds F m false (Sys2Proof.Num.decode G x) res)
    ∧ (∀ F, floatType dt = some F → st = .e8m0 →
        Rounds F m false (if x % 256 = 255 then .nan else .fin false 1 ((x % 256 : Nat) - 127 : Int)) res)
    ∧ (∀ F w g, floatType dt = some F → integerType st = some (w, g) →
        Rounds F m false (.fin (decide (integerIn w g x < 0)) (integerIn w g x).natAbs 0) res)
    ∧ (∀ w g G, integerType dt = some (w, g) → floatType st = some G → RoundedToInteger w g m (Sys2Proof.Num.decode G x) res)
    ∧ ∀ w g v h, integerType dt = some (w, g) → integerType st = some (v, h) →
        res = (placed w g (max (lowest w g) (min (highest w g) (integerIn v h x))), Sys2Proof.Num.excNone))
  ∧ (
  ∀ (g : Group) (tick e l : Nat) (is64 : Bool), 1 ≤ g.tsz → g.tsz ≤ 5 → l < 32 →
    (∀ v p, g.srcElem tick is64 e l (.vec v p) = g.velem tick is64 v.toNat e (sourceLane (2 ^ g.tsz) p l)
      ∧ sourceLane (2 ^ g.tsz) p l / 2 ^ g.tsz = l / 2 ^ g.tsz)
    ∧ (∀ r : BitVec 6, g.srcElem tick is64 e l (.scalar r) =
        if is64 then (g.sregs.get r.toNat 0).toNat + 2 ^ 32 * (g.sregs.get (r.toNat + 1) 0).toNat else (g.sregs.get r.toNat 0).toNat)
    ∧ ∀ (i : BitVec 4) (a b : Word), g.clause.lits[i.toNat]? = some a →
        (is64 = false → g.srcElem tick is64 e l (.lit i) = a.toNat)
        ∧ (is64 = true → g.clause.lits[i.toNat + 1]? = some b → g.srcElem tick is64 e l (.lit i) = a.toNat + 2 ^ 32 * b.toNat))

/-- R297, R298: within each tile, `vany` and `vall` write for every computing lane whether some or every computing lane of its tile has its
bit in the source mask; `ballot` writes the set of the computing lanes of the tile whose operand is not zero. Tiles have
at most 32 lanes (GroupsKept). -/
def Obligations.VotesAndBallots : Prop :=
  let mate (g : Group) (c : VectorCtl) (l j : Nat) : Prop := j < 32 ∧ j / 2 ^ g.tsz = l / 2 ^ g.tsz ∧ computes g c j
  (∀ s c k g o, Runs s c k g → o.m ≠ 0 → g.tsz ≤ 5 →
    InGroup s c k (.vany o) (fun g' => MaskWrote g g' o.ctl o.m fun l => ∃ j, mate g o.ctl l j ∧ (g.mask o.k.toNat).getLsbD j = true)
    ∧ InGroup s c k (.vall o) (fun g' => MaskWrote g g' o.ctl o.m fun l => ∀ j, mate g o.ctl l j → (g.mask o.k.toNat).getLsbD j = true))
  ∧ ∀ s c k g o, Runs s c k g → g.tsz ≤ 5 →
    if g.inBudget o.d.toNat 1 = true ∧ g.inBudget o.a.toNat 1 = true then
      ∃ f : LaneFn, (∀ l, l < 32 → (f l 0).2 = Sys2Proof.Num.excNone ∧ (f l 0).1 < 2 ^ 32
          ∧ ∀ j, j < 32 → ((f l 0).1.testBit j = true ↔ mate g o.ctl l j ∧ g.vread s.tick o.a.toNat j ≠ 0#32))
        ∧ InGroup s c k (.ballotB32 o) fun g' => VectorEffect g g' o.ctl false o.d.toNat 1 f
    else exec (.ballotB32 o) s = .next (s.setGroup c k g.illegal)

/-- R299, R300, R301: reductions and scans combine the operands of the computing lanes of each tile one after another in ascending lane
order, and every one of them raises the exceptions of its tile. A sum of `.f32` is not flushed again between steps; the first operand is
flushed, and a NaN among the results is the canonical one also where nothing has been combined (R145, log 21). Tiles have at most
32 lanes (GroupsKept). -/
def Obligations.ReductionsAndScans : Prop :=
  let parts (g : Group) (c : VectorCtl) (l : Nat) : List Nat := (lanesOf (g.computing c)).filter fun j => j / 2 ^ g.tsz == l / 2 ^ g.tsz
  let running (init : Nat → Nat) (step : Nat → Nat → Nat × Sys2Proof.Num.Exc) : List Nat → List Nat × Sys2Proof.Num.Exc
    | [] => ([], Sys2Proof.Num.excNone)
    | v :: vs => vs.foldl (fun acc x => let r := step (acc.1.getLastD 0) x; (acc.1 ++ [r.1], acc.2 ||| r.2)) ([init v], Sys2Proof.Num.excNone)
  let law (mk : VectorCross → Instr) (init : Group → Nat → Nat) (step : Group → VectorCross → Nat → Nat → Nat × Sys2Proof.Num.Exc)
      (pick : List Nat → Nat → Nat) : Prop :=
    ∀ s c k g o, Runs s c k g → g.tsz ≤ 5 →
      if g.inBudget o.d.toNat 1 = true ∧ g.inBudget o.a.toNat 1 = true then
        ∃ f : LaneFn, (∀ l, l < 32 → computes g o.ctl l →
            let ps := parts g o.ctl l
            let r := running (init g) (step g o) (ps.map fun j => (g.vread s.tick o.a.toNat j).toNat)
            f l 0 = (pick r.1 (ps.idxOf l), r.2))
          ∧ InGroup s c k (mk o) fun g' => VectorEffect g g' o.ctl false o.d.toNat 1 f
      else exec (mk o) s = .next (s.setGroup c k g.illegal)
  let bits (f : BitVec 32 → BitVec 32 → BitVec 32) (_ : Group) (_ : VectorCross) (a b : Nat) : Nat × Sys2Proof.Num.Exc :=
    quiet (f (BitVec.ofNat 32 a) (BitVec.ofNat 32 b))
  let same (_ : Group) (v : Nat) : Nat := v
  let flushed (g : Group) (v : Nat) : Sys2Proof.Num.Fp := Sys2Proof.Num.flushIn (g.fmode.getLsbD 2) Sys2Proof.Num.f32 (Sys2Proof.Num.decode Sys2Proof.Num.f32 v)
  let sum (g : Group) (o : VectorCross) (a b : Nat) : Nat × Sys2Proof.Num.Exc :=
    let m := o.ctl.rnd.getD (Sys2Proof.Num.modeOf g.fmode.toNat)
    let r := Sys2Proof.Num.add m (Sys2Proof.Num.decode Sys2Proof.Num.f32 a) (flushed g b)
    let x := Sys2Proof.Num.finish Sys2Proof.Num.f32 m (g.fmode.getLsbD 2) r.1
    (x.1, x.2 ||| if r.2 then Sys2Proof.Num.excInvalid else Sys2Proof.Num.excNone)
  let choose (max : Bool) (g : Group) (_ : VectorCross) (a b : Nat) : Nat × Sys2Proof.Num.Exc :=
    (Sys2Proof.Num.minMax Sys2Proof.Num.f32 max (flushed g a) (flushed g b), Sys2Proof.Num.excNone)
  let first (g : Group) (v : Nat) : Nat := Sys2Proof.Num.encode Sys2Proof.Num.f32 (flushed g v)
  let last (l : List Nat) (_ : Nat) : Nat := l.getLastD 0
  let mine (l : List Nat) (i : Nat) : Nat := l.getD i 0
  let before (l : List Nat) (i : Nat) : Nat := if i = 0 then 0 else l.getD (i - 1) 0
  law .redaddI32 same (bits fun a b => a + b) last ∧ law .redaddF32 first sum last
  ∧ law .redminI32 same (bits fun a b => if a.toInt ≤ b.toInt then a else b) last
  ∧ law .redminN32 same (bits fun a b => if a.toNat ≤ b.toNat then a else b) last ∧ law .redminF32 first (choose false) last
  ∧ law .redmaxI32 same (bits fun a b => if a.toInt ≤ b.toInt then b else a) last
  ∧ law .redmaxN32 same (bits fun a b => if a.toNat ≤ b.toNat then b else a) last ∧ law .redmaxF32 first (choose true) last
  ∧ law .redandB32 same (bits fun a b => a &&& b) last ∧ law .redorB32 same (bits fun a b => a ||| b) last
  ∧ law .redxorB32 same (bits fun a b => a ^^^ b) last
  ∧ law .scanaddI32 same (bits fun a b => a + b) mine ∧ law .scanaddF32 first sum mine
  ∧ law .xscanaddI32 same (bits fun a b => a + b) before ∧ law .xscanaddF32 first sum before
  ∧ law .scanmaxF32 first (choose true) mine ∧ law .scanminF32 first (choose false) mine

/-! ## Control instructions (spec/10), lanes and traps (spec/07, spec/15) -/

/-- R271, R272: `bra`, `brc` and `brd` record the target, the clause's address plus 4 × sext(B), for all active lanes, for all or none of
them by one bit of `cond`, or lane by lane by a mask; a lane without a target falls through (R197).
R271, R273: `call` writes the address after the clause to the pair of every active lane, low word first, and records its target;
`brx` and `ret` record the value of the pair, of which the completion makes the next address; a pair that reaches the budget traps. -/
def Obligations.BranchesAndCalls : Prop :=
  (
  (∀ s c k g d, Runs s c k g → InGroup s c k (.bra d) fun g' => Targets g g' (active g) (displaced g d))
  ∧ (∀ s c k g neg i d, Runs s c k g → InGroup s c k (.brc neg i d) fun g' =>
      if g.cond.getLsbD i.toNat = !neg then Targets g g' (active g) (displaced g d) else g' = g)
  ∧ ∀ s c k g neg m d, Runs s c k g → InGroup s c k (.brd neg m d) fun g' =>
      Targets g g' (fun l => active g l ∧ (g.mask m.toNat).getLsbD l = !neg) (displaced g d))
  ∧ (
  (∀ s c k g p d, Runs s c k g →
    if 2 * p.toNat + 2 ≤ g.budget then
      InGroup s c k (.call p d) fun g' =>
        (∀ v l, l < 32 → g'.vraw v l =
          if g.clause.active.getLsbD l = true ∧ v = 2 * p.toNat then (afterClause g).setWidth 32
          else if g.clause.active.getLsbD l = true ∧ v = 2 * p.toNat + 1 then ((afterClause g) >>> 32).setWidth 32
          else g.vraw v l)
        ∧ (∀ l, l < 32 → active g l → g'.clause.next.look l = some (displaced g d))
        ∧ (∀ l, ¬ (l < 32 ∧ active g l) → g'.clause.next.look l = g.clause.next.look l)
        ∧ { g'.clause with next := g.clause.next } = g.clause
        ∧ { g' with vregs := g.vregs, pend := g.pend, clause := g.clause } = g
    else exec (.call p d) s = .next (s.setGroup c k g.illegal))
  ∧ ∀ s c k g p, Runs s c k g →
    if 2 * p.toNat + 2 ≤ g.budget then
      ∀ i, (i = Instr.brx p ∨ i = Instr.ret p) → InGroup s c k i fun g' =>
        (∀ l, l < 32 → active g l → g'.clause.raw.look l
          = some (g.vread s.tick (2 * p.toNat + 1) l ++ g.vread s.tick (2 * p.toNat) l : BitVec 64))
        ∧ (∀ l, ¬ (l < 32 ∧ active g l) → g'.clause.raw.look l = g.clause.raw.look l)
        ∧ { g'.clause with raw := g.clause.raw } = g.clause ∧ { g' with clause := g.clause } = g
    else exec (.brx p) s = .next (s.setGroup c k g.illegal) ∧ exec (.ret p) s = .next (s.setGroup c k g.illegal))

/-- R274, R275, R276, R279, R282: what ends a clause is noted for its completion and changes nothing else; `nop` changes nothing; `halt`
marks its word; `trap`, and `brk` where BRKEN is 1, make every active lane leave with its code or tag and resume behind the word; `brk`
does nothing where BRKEN is 0.
R280, R229, R206: `cwait` goes on when each counter has at most its count outstanding, 7 always met, and takes a recorded remote fault
when it names the copies counter (R356); else the group waits for the counts and performs it again. -/
def Obligations.ControlWords : Prop :=
  (
  (∀ s c k g j, Runs s c k g → InGroup s c k (.jwait j) fun g' => Asks g g' (.jwait j.toNat))
  ∧ (∀ s c k g, Runs s c k g →
      InGroup s c k .exit (fun g' => Asks g g' .exit) ∧ InGroup s c k .yield (fun g' => Asks g g' .yield)
      ∧ InGroup s c k .serb (fun g' => Asks g g' .serb) ∧ InGroup s c k .sere (fun g' => Asks g g' .sere)
      ∧ InGroup s c k .nop (fun g' => g' = g)
      ∧ InGroup s c k .halt fun g' =>
          (g.clause.haltAt = none → g'.clause.haltAt = some g.clause.idx) ∧ (g.clause.haltAt ≠ none → g' = g)
          ∧ { g' with clause := { g'.clause with haltAt := g.clause.haltAt } } = g)
  ∧ (∀ s c k g n, Runs s c k g → InGroup s c k (.trap n) fun g' => Raised g g' (active g)
      (trapEvent g .software (n.setWidth 32) 0 (g.clause.idx + g.clause.len) (g.clause.idx + g.clause.len)))
  ∧ ∀ s c k g n, Runs s c k g → InGroup s c k (.brk n) fun g' =>
      if (s.device (s.vdOf g)).brken = true then Raised g g' (active g)
        (trapEvent g .breakpoint (n.setWidth 32) 0 (g.clause.idx + g.clause.len) (g.clause.idx + g.clause.len))
      else g' = g)
  ∧ (
  ∀ s c k g ld st cp tl, Runs s c k g →
    let within (n : BitVec 3) (l : List Counted) : Prop := n = 7 ∨ l.length ≤ n.toNat
    InGroup s c k (.cwait ld st cp tl) fun g' =>
      (within ld g.loads ∧ within st g.stores ∧ within cp g.copies ∧ within tl g.tiles → (cp = 7 ∨ g.remote = none) → g' = g)
      ∧ (within ld g.loads ∧ within st g.stores ∧ within cp g.copies ∧ within tl g.tiles → ∀ r, cp ≠ 7 → g.remote = some r →
          Raised g g' (active g) (trapEvent g .remote r.info r.addr g.clause.idx (g.clause.idx + g.clause.len)))
      ∧ (¬ (within ld g.loads ∧ within st g.stores ∧ within cp g.copies ∧ within tl g.tiles) →
          g' = { g with phase := .waiting, wait := some (.counts ld.toNat st.toNat cp.toNat tl.toNat),
                        clause := { g.clause with redo := true } }))

/-- R389: taking a lane trap saves the cause, the resume words and INFO in `tcause`, the address in `taddr`, the clause in `tepc` and the
lane's state in its bank, and puts the lane into trap mode, eligible, at the handler's address and word 0; its identifier stays. The
fields of `tcause` are those of R387. -/
def Obligations.TrapEntry : Prop :=
  ∀ (tvec clause : DWord) (cause : TrapCause) (info : Word) (addr : DWord) (rword sword : Nat) (x : Lane),
    rword < 16 → sword < 16 →
    let y := enterTrap tvec clause cause info addr rword sword x
    y.tcause.extractLsb' 56 8 = BitVec.ofNat 8 cause.code ∧ y.tcause.extractLsb' 52 4 = BitVec.ofNat 4 rword
    ∧ y.tcause.extractLsb' 48 4 = BitVec.ofNat 4 sword ∧ y.tcause.extractLsb' 32 16 = 0#16 ∧ y.tcause.extractLsb' 0 32 = info
    ∧ y.taddr = addr ∧ y.tepc = clause ∧ y.bankState = x.state ∧ y.bankHold = x.hold ∧ y.trap = true ∧ y.state = .eligible
    ∧ y.pc = tvec ∧ y.r = 0 ∧ y.wid = x.wid

/-- R389, R394: the completion of a clause takes the lane traps that were recorded when a handler is installed: the lane of each
event that neither escalates nor is replayable enters trap mode as `TrapEntry` says. Here for a clause whose one event is a trap
of a lane in normal mode.
R389, R394: without a handler the same trap makes the group replayable with cause 0x07; the lane's address stays at the clause, with
its resume index at RWORD, and its trap registers stay.
R389, R393, R394, R200, R356: the completion of a clause with any events of its lanes, one for each. An event of a lane in normal
mode that is a trap, with a handler installed, enters the handler; a replayable event, one of a lane already in trap mode (an
escalation), and one without a handler leave the lane at the clause, at RWORD or at the escalating word, and make the group replayable
with the cause of the first of them, or of an earlier `halt`, or of an engine operation's error (log 67). The trap bank is emptied when
no lane is in trap mode, and a remote fault taken empties the record. -/
def Obligations.CompletionTakesTrap : Prop :=
  (
  ∀ (g : Group) (tvec : DWord) (l : Nat) (cause : TrapCause) (info : Word) (addr : DWord) (w rw sw : Nat),
    l < 32 → g.clause.ending = .fall → g.clause.haltAt = none → ¬ active g l → (g.lane l).trap = false → (g.lane l).state = .eligible →
    g.clause.events = [{ lane := l, what := .trap cause info addr, escalates := false, word := w, rword := rw, sword := sw }] →
    ((g.complete (some tvec)).lane l) = enterTrap tvec g.clause.addr cause info addr rw sw (g.lane l)
    ∧ (g.complete (some tvec)).cause = g.cause ∧ (g.complete (some tvec)).clause.live = false
    ∧ (g.complete (some tvec)).clause.events = [])
  ∧ (
  ∀ (g : Group) (l : Nat) (cause : TrapCause) (info : Word) (addr : DWord) (w rw sw : Nat),
    l < 32 → g.clause.ending = .fall → g.clause.haltAt = none → ¬ active g l → (g.lane l).trap = false → (g.lane l).state = .eligible →
    g.clause.events = [{ lane := l, what := .trap cause info addr, escalates := false, word := w, rword := rw, sword := sw }] →
    (g.complete none).phase = .replayable ∧ (g.complete none).cause = some .noHandler
    ∧ ((g.complete none).lane l) = { g.lane l with pc := g.clause.addr, r := rw })
  ∧ (
  ∀ (g : Group) (tvec : Option DWord), g.clause.ending = .fall → (g.clause.events.map (·.lane)).Nodup →
    (∀ e ∈ g.clause.events, e.lane < 32 ∧ ¬ active g e.lane) →
    let g' := g.complete tvec
    let woken (l : Nat) : Lane := (g.lane l).free fun h => h == .yielded
    let enters (e : LaneEvent) : Prop := e.escalates = false ∧ tvec ≠ none ∧ ∃ c i a, e.what = .trap c i a
    let cause (e : LaneEvent) : ReplayCause :=
      if e.escalates then .escalation else match e.what with
        | .replay c _ _ => c
        | .trap _ _ _ => .noHandler
    (∀ e ∈ g.clause.events, ∀ t c i a, tvec = some t → e.what = .trap c i a → e.escalates = false →
      g'.lane e.lane = enterTrap t g.clause.addr c i a e.rword e.sword (woken e.lane))
    ∧ (∀ e ∈ g.clause.events, ¬ enters e →
        g'.lane e.lane = { woken e.lane with pc := g.clause.addr, r := if e.escalates then e.word else e.rword })
    ∧ (∀ l, l < 32 → ¬ active g l → (∀ e ∈ g.clause.events, e.lane ≠ l) → g'.lane l = woken l)
    ∧ ((∀ e ∈ g.clause.events, enters e) → g.clause.haltAt = none → g.clause.opError = false →
        g'.phase = g.phase ∧ g'.cause = g.cause ∧ g'.entries = g.entries ∧ g'.seq = g.seq ∧ g'.clause.events = [])
    ∧ (∀ pre e post, g.clause.events = pre ++ e :: post → (∀ x ∈ pre, enters x) → ¬ enters e →
        g'.phase = .replayable ∧ g'.cause = some (match g.clause.haltAt with
            | some h => if h < e.word then .halt else cause e
            | none => cause e)
        ∧ g'.seq = (g.seq + 1) % 2 ^ 32
        ∧ (∀ x ∈ g.clause.events, ¬ enters x → x ∈ g'.entries)
        ∧ ∀ x, x ∈ g'.entries → (x ∈ g.entries ∨ x ∈ g.clause.events ∧ ¬ enters x))
    ∧ ((∀ e ∈ g.clause.events, enters e) → g.clause.haltAt ≠ none → g'.phase = .replayable ∧ g'.cause = some .halt)
    ∧ ((∀ e ∈ g.clause.events, enters e) → g.clause.haltAt = none → g.clause.opError = true →
        g'.phase = .replayable ∧ g'.cause = some .uncorrectable)
    ∧ ((∃ e ∈ g.clause.events, enters e) → (∀ l, l < 32 → (g.applyEnding.lane l).trap = false) → g'.trapBank = Bank.empty)
    ∧ (((∀ e ∈ g.clause.events, ¬ enters e) ∨ ∃ l, l < 32 ∧ (g.applyEnding.lane l).trap = true) → g'.trapBank = g.trapBank)
    ∧ ((∃ e ∈ g.clause.events, enters e ∧ ∃ i a, e.what = .trap .remote i a) → g'.remote = none)
    ∧ ((∀ e ∈ g.clause.events, enters e → ∀ i a, e.what ≠ .trap .remote i a) → g'.remote = g.remote)
    ∧ g'.normal = g.normal ∧ g'.clause.live = false)

/-- R198: Join gives its mask the active set as expected and nothing arrived, after lanes parked on it have been released; at a wait, lanes
of the expected set are parked and the others pass, and the mask is released, its lanes eligible and both sets empty, once every expected
lane has arrived or exited. Here in normal mode, for lanes in normal mode.
R202, R275: lanes that exit are exited, at the address of all ones and out of trap mode; they leave every rejoin mask of both banks. A
lane that stays keeps its address.
R201, R276, R200, R275: what the words that end a clause do at its completion. Serialise begin makes its lanes a pass, of which the
lowest runs alone; serialise end, by the current lane alone, gives the turn to the next lane, or with none left makes every lane of the
pass eligible; a nested begin and an end out of its pass trap at their word. A lane that yields is held until the next completion, or
goes on at once when no other lane of the group is eligible; lanes that had yielded before go on. -/
def Obligations.RejoinAndExit : Prop :=
  (
  (∀ s c k g j, Runs s c k g → (∀ l, l < 32 → (g.lane l).trap = false) →
    InGroup s c k (.join j) fun g' =>
      (g'.normal.mask j.toNat).m = g.clause.active ∧ (g'.normal.mask j.toNat).a = 0
      ∧ (∀ i, i ≠ j.toNat → g'.normal.mask i = g.normal.mask i) ∧ g'.trapBank = g.trapBank ∧ g'.normal.ser = g.normal.ser
      ∧ (∀ l, l < 32 → (g.normal.mask j.toNat).a.getLsbD l = true → (g.lane l).state ≠ .exited →
          (g'.lane l).state = .eligible)
      ∧ (∀ l, l < 32 → (g.normal.mask j.toNat).a.getLsbD l = false → g'.lane l = g.lane l)
      ∧ { g' with lanes := g.lanes, normal := g.normal } = g)
  ∧ ∀ (g : Group) (j : Nat), (∀ l, l < 32 → (g.lane l).trap = false) →
    (∀ l, l < 32 → active g l → (g.lane l).state ≠ .exited) →
    let r := g.normal.mask j
    let ls := g.clause.active
    let g' := g.waitMask false j ls (afterClause g)
    let arrived := r.a ||| (ls &&& r.m)
    let complete := (∀ l, l < 32 → r.m.getLsbD l = true → arrived.getLsbD l = true ∨ (g.lane l).state = .exited)
    (∀ l, l < 32 → active g l → (g'.lane l).pc = afterClause g ∧ (g'.lane l).r = 0)
    ∧ (∀ l, l < 32 → active g l → r.m.getLsbD l = false → r.a.getLsbD l = false → (g'.lane l).state = (g.lane l).state)
    ∧ (¬ complete → g'.normal.mask j = ⟨r.m, arrived⟩
        ∧ ∀ l, l < 32 → active g l → r.m.getLsbD l = true → (g'.lane l).state = .parked)
    ∧ (complete → g'.normal.mask j = ⟨0, 0⟩
        ∧ ∀ l, l < 32 → arrived.getLsbD l = true → (g.lane l).state ≠ .exited → (g'.lane l).state = .eligible))
  ∧ (
  ∀ (g : Group) (ls : LaneSet),
    (∀ l, l < 32 → ls.getLsbD l = true →
      ((g.exitLanes ls).lane l).state = .exited ∧ ((g.exitLanes ls).lane l).trap = false
        ∧ ((g.exitLanes ls).lane l).pc = BitVec.allOnes 64)
    ∧ (∀ l, l < 32 → ls.getLsbD l = false →
        ((g.exitLanes ls).lane l).pc = (g.lane l).pc ∧ ((g.exitLanes ls).lane l).trap = (g.lane l).trap)
    ∧ (∀ j l, l < 32 → ls.getLsbD l = true →
        ((g.exitLanes ls).normal.mask j).m.getLsbD l = false ∧ ((g.exitLanes ls).normal.mask j).a.getLsbD l = false
        ∧ ((g.exitLanes ls).trapBank.mask j).m.getLsbD l = false ∧ ((g.exitLanes ls).trapBank.mask j).a.getLsbD l = false))
  ∧ (
  ∀ (g : Group), (∃ l, active g l ∧ l < 32) → (∀ l, l < 32 → active g l → (g.lane l).trap = g.activeTrap ∧ (g.lane l).state ≠ .exited) →
    let t := g.activeTrap
    let b := g.bank t
    let g' := g.applyEnding
    let stateOf (x : Lane) : LaneState := if t = false ∧ x.trap = true then x.bankState else x.state
    let stands (h : Group) (l : Nat) : Prop := (h.lane l).pc = afterClause g ∧ (h.lane l).r = 0
    let low (q : LaneSet) (l : Nat) : Prop := l < 32 ∧ q.getLsbD l = true ∧ ∀ j, j < l → q.getLsbD j = false
    let traps : Prop :=
      let h : Group := { g with clause := { g.clause with idx := g.clause.count - 1, len := 1 } }
      Raised h g' (active g) (trapEvent h .illegal 0 0 (g.clause.count - 1) (g.clause.count - 1 + 1))
    let others (p : Nat → Prop) : Prop := (∀ l, l < 32 → ¬ p l → g'.lane l = g.lane l) ∧ g'.bank (!t) = g.bank (!t)
      ∧ (g'.bank t).rejoin = b.rejoin ∧ { g' with lanes := g.lanes, normal := g.normal, trapBank := g.trapBank } = g
    (g.clause.ending = .serb → b.ser.busy = true → traps)
    ∧ (g.clause.ending = .serb → b.ser.busy = false → ∃ c, low g.clause.active c
        ∧ (g'.bank t).ser = { busy := true, p := g.clause.active, q := g.clause.active, cur := c }
        ∧ (∀ l, l < 32 → active g l → stands g' l ∧ (g'.lane l).state = if l = c then .eligible else .serialised)
        ∧ others (active g))
    ∧ (g.clause.ending = .sere → ¬ (b.ser.busy = true ∧ ∀ l, l < 32 → (active g l ↔ l = b.ser.cur)) → traps)
    ∧ (g.clause.ending = .sere → b.ser.busy = true → (∀ l, l < 32 → (active g l ↔ l = b.ser.cur)) →
        let q := b.ser.q &&& ~~~g.clause.active
        stands g' b.ser.cur
        ∧ (∀ c, low q c → (g.lane c).state ≠ .exited → c ≠ b.ser.cur →
            (g'.bank t).ser = { b.ser with q := q, cur := c } ∧ stateOf (g'.lane c) = .eligible
            ∧ (g'.lane b.ser.cur).state = .serialised ∧ others fun l => l = c ∨ l = b.ser.cur)
        ∧ (q = 0 → (g'.bank t).ser = { b.ser with q := 0, busy := false }
            ∧ (∀ l, l < 32 → b.ser.p.getLsbD l = true → (g.lane l).state ≠ .exited → stateOf (g'.lane l) = .eligible)
            ∧ others fun l => b.ser.p.getLsbD l = true ∨ l = b.ser.cur))
    ∧ (g.clause.ending = .yield → g.clause.events = [] → ∀ tvec,
        let h := g.complete tvec
        let ready (l : Nat) : Prop := l < 32 ∧ ¬ active g l
          ∧ ((g.lane l).state = .eligible ∨ ((g.lane l).state = .held ∧ (g.lane l).hold = .yielded))
        (∀ l, l < 32 → active g l → stands h l)
        ∧ (∀ l, ready l → (h.lane l).state = .eligible)
        ∧ ((∃ l, ready l) → ∀ l, l < 32 → active g l → (h.lane l).state = .held ∧ (h.lane l).hold = .yielded)
        ∧ ((∀ l, ¬ ready l) → ∀ l, l < 32 → active g l → (h.lane l).state = .eligible)))

/-- R197, R273, R392: at completion a lane goes to its target, to the address that `brx` or `ret` named with bits 1:0 cleared, or past the
clause, at word 0; a lane in trap mode whose value has bit 1 set returns: to the retry or the skip word when it names `tepc`, else to
word 0, in normal mode, with its banked state.
R196, R390, R396: a group has something to issue exactly when it has an eligible lane. The lanes that issue are eligible, those in trap
mode alone when there are any, else in a group that was resumed those with an entry left alone, and they hold the lowest pair of address and
resume index among them. -/
def Obligations.NextIssue : Prop :=
  (
  ∀ (g : Group), g.clause.ending = .fall →
    (∀ l, l < 32 → active g l → g.clause.raw.look l = none →
      (g.applyEnding).lane l = { g.lane l with pc := (g.clause.next.look l).getD (afterClause g), r := 0 })
    ∧ (∀ l v, l < 32 → active g l → g.clause.raw.look l = some v → ((g.lane l).trap = false ∨ v.getLsbD 1 = false) →
      (g.applyEnding).lane l = { g.lane l with pc := v &&& ~~~3#64, r := 0 })
    ∧ (∀ l v, l < 32 → active g l → g.clause.raw.look l = some v → (g.lane l).trap = true → v.getLsbD 1 = true →
      (g.applyEnding).lane l = { g.lane l with
        pc := v &&& ~~~3#64, trap := false, state := (g.lane l).bankState, hold := (g.lane l).bankHold,
        r := if v &&& ~~~3#64 = (g.lane l).tepc then
            (if v.getLsbD 0 then ((g.lane l).tcause.extractLsb' 48 4).toNat else ((g.lane l).tcause.extractLsb' 52 4).toNat)
          else 0 })
    ∧ (∀ l, ¬ (l < 32 ∧ active g l) → (g.applyEnding).lane l = g.lane l)
    ∧ { g.applyEnding with lanes := g.lanes } = g)
  ∧ (
  ∀ (g : Group),
    let eligible (l : Nat) : Prop := l < 32 ∧ (g.lane l).state = .eligible
    let mode : Prop := ∃ l, eligible l ∧ (g.lane l).trap = true
    let entry (l : Nat) : Prop := ∃ e ∈ g.entries, e.lane = l
    let again : Prop := g.resumed = true ∧ ∃ l, eligible l ∧ entry l
    let cand (l : Nat) : Prop := eligible l ∧ (mode → (g.lane l).trap = true) ∧ (¬ mode → again → entry l)
    ((∃ x, g.issueSet = some x) ↔ ∃ l, eligible l)
    ∧ ∀ (pc r : Nat) (ls : LaneSet), g.issueSet = some (pc, r, ls) →
    (∀ l, l < 32 → (ls.getLsbD l = true ↔ cand l ∧ (g.lane l).pc.toNat = pc ∧ (g.lane l).r = r))
    ∧ (∀ l, cand l → pc < (g.lane l).pc.toNat ∨ (pc = (g.lane l).pc.toNat ∧ r ≤ (g.lane l).r))
    ∧ ∃ l, cand l ∧ (g.lane l).pc.toNat = pc ∧ (g.lane l).r = r)

/-! ## Memory instructions (spec/01, /04, /12) -/

/-- R243: a lane's address is BASE + sext(index) × scale + OFF in global space, and BASE + zext(index) × scale + OFF in the scratchpad,
modulo 2^64.
R11, R17 step 4, R19, R31, R34: the translation of an access within one 4 KiB page: an address that is not canonical faults; a page of
which nothing is known is a miss; a walk's fault is the access's; else the window, then the permission are checked, and the access
reaches the partition's base plus the page's frame plus the offset in the page. The address of a window fault is the lowest byte that
the window leaves out (R34). That the window is checked before the permission, and that LEVEL is 7 where a TLB gave the page, is the
model's reading (log 30, log 31).
R15, R16, R17, R18, R19, R23, R29, R31: a walk from the table of a level: where the die's non-leaf cache holds the next table, the walk goes
on there. Else the window is checked over the table, the entry is read that nine bits of the address index (at level 0 the one at the
aligned start of its sixteen first, which decides alone where it describes a 64 KiB page), and the checks come in their order: the
table's errors, P, the reserved cases, then for a leaf its alignment. Another entry leads to the next table, which the walk notes; a
leaf gives the page. The walk begins at the table of `GROOT`. That TIER is 0 for a failure before the leaf's frame is looked at is the
model's choice (log 73).
R34: an access that spans several 4 KiB pages is translated page by page: every page that nothing is known of is a miss; else the
first part that faults, from the lowest address on, is the access's fault; else its parts follow each other. -/
def Obligations.Translation : Prop :=
  (
  ∀ (g : Group) (tick : Nat) (a : MemAddr) (l : Nat),
    g.laneAddr tick true a l = (g.sreg (a.base.toNat + 1) ++ g.sreg a.base.toNat
      + (match a.idx with
         | none => 0#64
         | some i => (g.vread tick i.v.toNat l).signExtend 64 <<< i.scale.toNat)
      + a.off.signExtend 64 : BitVec 64).toNat
    ∧ g.laneAddr tick false a l = ((g.sreg a.base.toNat).setWidth 64
      + (match a.idx with
         | none => 0#64
         | some i => (g.vread tick i.v.toNat l).setWidth 64 <<< i.scale.toNat)
      + a.off.signExtend 64 : BitVec 64).toNat)
  ∧ (
  ∀ (s : State) (vd : Nat) (look : PageLook) (kind : Access) (va n : Nat),
    1 ≤ n → va < 2 ^ 64 → (va + n - 1) / 4096 = va / 4096 →
    (canonical va = false → s.translate look vd kind va n = .fault ⟨1, 7, 0⟩ va)
    ∧ (canonical va = true → look (va / 4096) = none → s.translate look vd kind va n = .miss [va / 4096])
    ∧ (canonical va = true → ∀ f tlb, look (va / 4096) = some (.fault f, tlb) → s.translate look vd kind va n = .fault f va)
    ∧ (canonical va = true → ∀ (p : Page) (tlb : Bool), look (va / 4096) = some (.page p, tlb) →
        let rel := p.frame + (va - p.base)
        let level := if tlb then 7 else p.level
        let w := s.window vd p.tier
        if w.1 ≤ rel ∧ rel + n ≤ w.2 then
          s.translate look vd kind va n =
            if kind ∈ [Access.store, .atomic, .commit] ∧ p.w = false then .fault ⟨3, level, p.tier.code⟩ va
            else if kind = .fetch ∧ p.x = false then .fault ⟨4, level, p.tier.code⟩ va
            else .ok [{ va := va, n := n, page := p, addr := s.pbase (s.device vd).part p.tier + rel, level := level }]
        else ∃ b, s.translate look vd kind va n = .fault ⟨7, level, p.tier.code⟩ b ∧ va ≤ b ∧ b < va + n
          ∧ ¬ (w.1 ≤ rel + (b - va) ∧ rel + (b - va) < w.2)
          ∧ ∀ x, va ≤ x → x < b → w.1 ≤ rel + (x - va) ∧ rel + (x - va) < w.2))
  ∧ (
  (∀ (s : State) (vd va L table : Nat) (t : Tier) (cached : Nat → Option (Tier × Nat)), L < 5 → va < 2 ^ 64 →
    let w := walkFrom s vd va cached (L + 1) t table
    let stops (r : Except XFault Page) (reads : List Nat) : Prop := w = ⟨r, [], reads⟩
    let win := s.window vd t
    let seen := if L = 0 then none else cached L
    (∀ t2 table2, seen = some (t2, table2) → w = walkFrom s vd va cached L t2 table2)
    ∧ (seen = none → ¬ (win.1 ≤ table ∧ table + 4096 ≤ win.2) → stops (.error ⟨7, L, 0⟩) [])
    ∧ (seen = none → win.1 ≤ table → table + 4096 ≤ win.2 →
      let entry (i : Nat) : DWord := BitVec.ofNat 64 (littleEndian (fun j => homeByte s t (s.pbase (s.device vd).part t + table + 8 * i + j)) 0 8)
      let place (i : Nat) : Nat := s.pbase (s.device vd).part t + table + 8 * i
      let i := va / 2 ^ (12 + 9 * L) % 2 ^ 9
      let i0 := i / 16 * 16
      let big : Prop := L = 0 ∧ (entry i0).getLsbD 0 = true ∧ (entry i0).getLsbD 56 = true
      let start : Prop := big ∨ i = i0
      ∀ (e : DWord) (reads : List Nat), (big → e = entry i0) → (¬ big → e = entry i) →
        (L ≠ 0 → reads = [place i]) → (L = 0 → start → reads = [place i0]) → (L = 0 → ¬ start → reads = [place i0, place i]) →
        let P := e.getLsbD 0
        let LEAF := e.getLsbD 1
        let FRAME := (e.extractLsb' 12 34).toNat * 4096
        let S64 := e.getLsbD 56
        let TIER := e.extractLsb' 59 2
        let tier := if TIER = 1#2 then Tier.second else if TIER = 2#2 then Tier.host else Tier.hbm
        let VER := e.getLsbD 63
        let reserved : Prop := e.extractLsb' 46 10 ≠ 0 ∨ e.extractLsb' 2 10 ≠ 0 ∨ (LEAF = true ∧ 3 ≤ L) ∨ (LEAF = false ∧ L = 0)
          ∨ (S64 = true ∧ L ≠ 0) ∨ (LEAF = false ∧ (e.extractLsb' 61 3 ≠ 0 ∨ e.extractLsb' 56 3 ≠ 0)) ∨ TIER = 3#2
          ∨ (LEAF = false ∧ TIER = 2#2) ∨ (VER = true ∧ TIER ≠ 0) ∨ (S64 = true ∧ L = 0 ∧ ¬ start)
        let size := if L = 0 then (if S64 then 2 ^ 16 else 2 ^ 12) else if L = 1 then 2 ^ 21 else 2 ^ 30
        let poisoned : Prop := ∃ a ∈ reads, ∃ x ∈ s.poisoned, a ≤ x ∧ x < a + 8
        (poisoned → stops (.error ⟨8, L, 0⟩) reads)
        ∧ (¬ poisoned → P = false → stops (.error ⟨2, L, 0⟩) reads)
        ∧ (¬ poisoned → P = true → reserved → stops (.error ⟨5, L, 0⟩) reads)
        ∧ (¬ poisoned → P = true → ¬ reserved → LEAF = false →
            let y := walkFrom s vd va cached L tier FRAME
            w = ⟨y.result, (L, tier, FRAME) :: y.tables, reads ++ y.reads⟩)
        ∧ (¬ poisoned → P = true → ¬ reserved → LEAF = true → FRAME % size ≠ 0 → stops (.error ⟨6, L, tier.code⟩) reads)
        ∧ (¬ poisoned → P = true → ¬ reserved → LEAF = true → FRAME % size = 0 →
            stops (.ok { base := va / size * size, size := size, frame := FRAME, ver := VER, sa := e.getLsbD 62, ef := e.getLsbD 61,
                         tier := tier, x := e.getLsbD 58, w := e.getLsbD 57, level := L }) reads)))
  ∧ ∀ (s : State) (vd va : Nat) (die : Option Nat),
    let groot : DWord := (s.device vd).xlate.get 0 0
    let cached (n L : Nat) (r : Option (Tier × Nat)) : Prop :=
      (∀ x, r = some x → ∃ e ∈ (s.die n).nonleaf, e.vd = vd ∧ e.level = L ∧ e.index = va / 2 ^ (12 + 9 * L) ∧ x = (e.tier, e.table))
      ∧ (r = none → ∀ e ∈ (s.die n).nonleaf, ¬ (e.vd = vd ∧ e.level = L ∧ e.index = va / 2 ^ (12 + 9 * L)))
    (groot.getLsbD 11 = true → s.walkOn die vd va = ⟨.error ⟨5, 4, 0⟩, [], []⟩)
    ∧ (groot.getLsbD 11 = false → ∃ f : Nat → Option (Tier × Nat),
        s.walkOn die vd va = walkFrom s vd va f 5 (if groot.getLsbD 10 then .second else .hbm) ((groot.extractLsb' 12 34).toNat * 4096)
        ∧ (∀ n, die = some n → ∀ L, cached n L (f L)) ∧ (die = none → ∀ L, f L = none)))
  ∧ (
  ∀ (s : State) (vd : Nat) (look : PageLook) (kind : Access) (va m n : Nat),
    1 ≤ m → m < n → (va + m) % 4096 = 0 → va + n ≤ 2 ^ 64 →
    s.translate look vd kind va n =
      match s.translate look vd kind va m, s.translate look vd kind (va + m) (n - m) with
      | .miss ps, .miss qs => .miss (ps ++ qs)
      | .miss ps, _ => .miss ps
      | _, .miss qs => .miss qs
      | .fault f a, _ => .fault f a
      | .ok _, .fault f a => .fault f a
      | .ok ps, .ok qs => .ok (ps ++ qs))

/-- R304, R308, R7, R122: scratchpad loads of every type. That an access is performed whole in one step is the model's choice (log 73).
R304, R308, R36, R122: scratchpad stores of every type, with what they leave unchanged. What they wait for is log 28.
R309, R310: the transposing loads. Which element a latch trap names is log 76, and of several entries at it log 32.
R121, R122, R123: an access meets a latch entry when bytes of both are the same, in the device's global memory or in the gang's
scratchpad, and the entry is a destination or the access writes; of several such entries the lowest-numbered is found, which is the
model's choice (log 32). The entries of an engine operation can be registered when none overlaps one that is held, unless both are sources,
and each core has places for its own among its 64 (R119, R125). The information word of a conflict tells whether the group has the
operation on its own counter, the side, the counter, the operations counted behind it, the entry, the slot and the space. -/
def Obligations.ScratchAccesses : Prop :=
  (
  ScratchLoadLaw .ldsB8 1 false ∧ ScratchLoadLaw .ldsI8 1 true ∧ ScratchLoadLaw .ldsB16 2 false ∧ ScratchLoadLaw .ldsI16 2 true
  ∧ ScratchLoadLaw .ldsB32 4 false ∧ ScratchLoadLaw .ldsB64 8 false)
  ∧ (
  ScratchStoreLaw .stsB8 1 ∧ ScratchStoreLaw .stsB16 2 ∧ ScratchStoreLaw .stsB32 4 ∧ ScratchStoreLaw .stsB64 8)
  ∧ (
  TransposeLaw .ldtB8 1 ∧ TransposeLaw .ldtB16 2 ∧ TransposeLaw .ldtB32 4)
  ∧ (
  (∀ (x : Core) (gang : Option Nat) (vd lo n : Nat) (writes : Bool),
    let meets (e : Nat × Latch) : Prop := (e.2.dest = true ∨ writes = true) ∧ lo < e.2.hi ∧ e.2.lo < lo + n
      ∧ match gang with
        | none => e.2.global = true ∧ e.2.vd = vd
        | some m => e.2.global = false ∧ e.2.gang = m
    (x.latchHit gang vd lo n writes = none ↔ ∀ e ∈ x.latches, ¬ meets e)
    ∧ ∀ e, x.latchHit gang vd lo n writes = some e → e ∈ x.latches ∧ meets e
      ∧ (Rising x.latches → ∀ f ∈ x.latches, meets f → e.1 ≤ f.1))
  ∧ (∀ (s : State) (ls : List (Nat × Latch)),
    let clash (new old : Latch) : Prop := (new.dest = true ∨ old.dest = true) ∧ new.lo < old.hi ∧ old.lo < new.hi
      ∧ if new.global then old.global = true ∧ old.vd = new.vd else old.global = false ∧ old.gang = new.gang
    s.latchesOk ls = true ↔ ∀ x ∈ ls, (∀ e ∈ (s.core x.1).latches, ¬ clash x.2 e.2)
      ∧ (s.core x.1).latches.length + (ls.filter fun y => y.1 == x.1).length ≤ 64)
  ∧ ∀ (g : Group) (e : Nat × Latch),
    let w := g.latchInfo e
    let ops := (if e.2.tile then g.tiles else g.copies).map (·.op)
    w.getLsbD 31 = decide (e.2.op ∈ ops)
    ∧ w.getLsbD 30 = e.2.dest
    ∧ w.extractLsb' 28 2 = (if e.2.tile then 3#2 else 2#2)
    ∧ (∀ pre post, ops = pre ++ e.2.op :: post → e.2.op ∉ pre → w.extractLsb' 25 3 = BitVec.ofNat 3 (min post.length 6))
    ∧ (e.2.op ∉ ops → w.extractLsb' 25 3 = 0#3)
    ∧ w.extractLsb' 19 6 = BitVec.ofNat 6 e.1
    ∧ w.extractLsb' 13 6 = BitVec.ofNat 6 e.2.slot
    ∧ w.extractLsb' 9 4 = (if e.2.global then 0#4 else 1#4)
    ∧ w.extractLsb' 0 9 = 0#9)

/-- R304, R307, R113, R88, R89, R106, R122: global stores of every type. That a release at a wide scope waits for the requests of all groups
of its core, and every store for those of its group, is the model's reading (log 28), as is that a latch is looked at only for an address
that has a translation (log 30). -/
def Obligations.GlobalStores : Prop :=
  GlobalStoreLaw .stgB8 1 ∧ GlobalStoreLaw .stgB16 2 ∧ GlobalStoreLaw .stgB32 4 ∧ GlobalStoreLaw .stgB64 8

/-- R312, R314, R315: every atomic sends one request for each location; `cas` and `bfadd` take a second operand; `add`, `exch` and `cas`
alone reach the host tier. That an atomic waits for the core's queued stores to its location, and a release for the core's queue, is the
model's reading (log 28), as is that a latch is looked at only for an address that has a translation (log 30). -/
def Obligations.Atomics : Prop :=
  AtomicLaw .atomAddB32 .add 4 false true ∧ AtomicLaw .atomMinI32 .minI 4 false false ∧ AtomicLaw .atomMinN32 .minN 4 false false
  ∧ AtomicLaw .atomMaxI32 .maxI 4 false false ∧ AtomicLaw .atomMaxN32 .maxN 4 false false ∧ AtomicLaw .atomAndB32 .and 4 false false
  ∧ AtomicLaw .atomOrB32 .or 4 false false ∧ AtomicLaw .atomXorB32 .xor 4 false false ∧ AtomicLaw .atomExchB32 .exch 4 false true
  ∧ AtomicLaw .atomCasB32 .cas 4 true true ∧ AtomicLaw .atomFaddF32 .fadd 4 false false
  ∧ AtomicLaw .atomIncwN32 .incw 4 false false ∧ AtomicLaw .atomBfaddN32 .bfadd 4 true false
  ∧ AtomicLaw .atomAddB64 .add 8 false true ∧ AtomicLaw .atomMinI64 .minI 8 false false ∧ AtomicLaw .atomMinN64 .minN 8 false false
  ∧ AtomicLaw .atomMaxI64 .maxI 8 false false ∧ AtomicLaw .atomMaxN64 .maxN 8 false false ∧ AtomicLaw .atomAndB64 .and 8 false false
  ∧ AtomicLaw .atomOrB64 .or 8 false false ∧ AtomicLaw .atomXorB64 .xor 8 false false ∧ AtomicLaw .atomExchB64 .exch 8 false true
  ∧ AtomicLaw .atomCasB64 .cas 8 true true ∧ AtomicLaw .atomIncwN64 .incw 8 false false ∧ AtomicLaw .atomBfaddN64 .bfadd 8 true false

/-- R313: the functions of the atomics on n bits.
R312, R315: the requests of one instruction name distinct locations, each with the steps of its lanes in their order; those of a `cas` on the
host tier are not combined: each lane sends its own, in their order. A home takes the steps of a request one after another, returning to
each lane what it found. -/
def Obligations.AtomicFunctions : Prop :=
  (
  (∀ n, n = 32 ∨ n = 64 → ∀ old v w : BitVec n,
    let is (f : AtomFn) (r : BitVec n) : Prop := f.apply n old.toNat v.toNat w.toNat = r.toNat
    is .add (old + v)
    ∧ is .minI (if v.toInt < old.toInt then v else old) ∧ is .maxI (if old.toInt < v.toInt then v else old)
    ∧ is .minN (if v.toNat < old.toNat then v else old) ∧ is .maxN (if old.toNat < v.toNat then v else old)
    ∧ is .and (old &&& v) ∧ is .or (old ||| v) ∧ is .xor (old ^^^ v) ∧ is .exch v
    ∧ is .cas (if old = w then v else old)
    ∧ is .incw (if v.toNat ≤ old.toNat then 0 else old + 1)
    ∧ is .bfadd (if w.toNat ≤ old.toNat then old else BitVec.ofNat n (min (old.toNat + v.toNat) w.toNat)))
  ∧ ∀ old v w : Nat, AtomFn.apply .fadd 32 old v w =
      Sys2Proof.Num.encode Sys2Proof.Num.f32 (Sys2Proof.Num.round Sys2Proof.Num.f32 .ne
        (Sys2Proof.Num.add .ne (Sys2Proof.Num.decode Sys2Proof.Num.f32 old) (Sys2Proof.Num.decode Sys2Proof.Num.f32 v)).1).val)
  ∧ (
  (∀ (f : AtomFn) (xs : List (Nat × Piece × AtomStep)), (∀ x ∈ xs, ¬ (x.2.1.page.tier = .host ∧ f = .cas)) →
    let same (p q : Piece) : Bool := p.addr == q.addr && p.page.tier == q.page.tier
    (∀ r ∈ atomRequests f xs, r.2 = (xs.filter fun x => same x.2.1 r.1).map (·.2.2))
    ∧ (∀ x ∈ xs, ∃ r ∈ atomRequests f xs, same x.2.1 r.1 = true)
    ∧ (atomRequests f xs).Pairwise fun r q => same r.1 q.1 = false)
  ∧ (∀ xs : List (Nat × Piece × AtomStep),
    let host (p : Piece) : Bool := p.page.tier == .host
    (atomRequests .cas xs).filter (fun r => host r.1) = (xs.filter fun x => host x.2.1).map (fun x => (x.2.1, [x.2.2]))
    ∧ (atomRequests .cas xs).filter (fun r => !host r.1) = atomRequests .cas (xs.filter fun x => !host x.2.1))
  ∧ ∀ (f : AtomFn) (n old : Nat) (xs : List AtomStep),
    let after (ys : List AtomStep) : Nat := ys.foldl (fun m x => f.apply n m x.v x.w) old
    atomSteps f n old xs = (after xs, xs.zipIdx.map fun x => (x.1.lane, after (xs.take x.2))))

/-- R64, R312, R118: the home performs the request of an atomic as one read and one write: its bytes take the last value, every other
byte of memory stays, and the group of the request is to be given the values found. The memories are in their canonical form
(MemoryFormKept). That no byte of a version area changes with it is the model's choice (log 12). -/
def Obligations.AtomicAtHome : Prop :=
  ∀ (s : State) (i : Nat) (r : HomeReq) (op : Nat) (f : AtomFn) (z : Nat) (t : Tier) (ver : Bool) (a : Nat) (xs : List AtomStep)
    (reg : Option Nat) (rel rp : Bool) (b c : Nat),
    s.actor = .object i b c → s.requests[i]? = some r → r.kind = .atomic op f z t ver a xs reg rel rp →
    (∀ j x, j < i → s.requests[j]? = some x → x.line ≠ r.line) → (t ≠ .host → s.locked r.line = false) →
    s.mem.wf = true → s.host.wf = true → z = 4 ∨ z = 8 →
    let old := ofBytes ((List.range z).map fun j => homeByte s t (a + j))
    Completes s .homeRequest fun u => u.requests = s.requests.eraseIdx i
      ∧ Stored s u t ((List.range z).map fun j => (a + j, BitVec.ofNat 8 ((atomSteps f (8 * z) old xs).1 / 256 ^ j)))
      ∧ ∀ g, s.group? r.core r.slot = some g → g.launch = r.launch → ∃ g', u.group? r.core r.slot = some g'
          ∧ g'.vregs = g.vregs ∧ g'.sregs = g.sregs
          ∧ g'.pend = g.pend ++ (match reg with
            | none => []
            | some d => (atomSteps f (8 * z) old xs).2.flatMap fun x =>
                if z = 8 then [{ op := op, key := vkey d x.1, val := BitVec.ofNat 32 x.2 },
                               { op := op, key := vkey (d + 1) x.1, val := BitVec.ofNat 32 (x.2 / 2 ^ 32) }]
                else [{ op := op, key := vkey d x.1, val := BitVec.ofNat 32 x.2 : PendingReg }])
          ∧ (∀ d, reg = some d → g'.loads = g.loads ∧ g'.stores = g.stores)
          ∧ (reg = none → g'.loads = g.loads ∧
              let others : Prop := ∃ q ∈ u.requests, ∃ f' z' t' v' a' xs' r' l' p', q.kind = .atomic op f' z' t' v' a' xs' r' l' p'
              (others → g'.stores = g.stores)
              ∧ (¬ others → g'.stores = (g.stores.map fun x => if x.op = op then { x with done := true } else x).dropWhile (·.done)))

/-! ## Waits of lanes, fences, snapshots, transactions, keepers (spec/02, /03, /04, /12) -/

/-- R304, R307, R33, R88, R122: global loads of every type. That a load takes its values when it issues is the model's choice (log 5), as
is that it waits for the core's own requests to its bytes (log 28), and that a latch is looked at only for an address that has a
translation (log 30).
R311, R86, R87: the snapshot loads. A page with VER = 0 is read as by an ordinary load, which sees the core's own store queue and takes its
bytes before the wait of `.rp` (log 42). That a latch is looked at only for an address that has a translation is log 30.
R86, R76, R78: the bytes that a key selects from a line of a versioned page: those of the newest version that is settled or whose
window does not follow the key's; a line without a version set has one settled version. Where no version qualifies, which only a
revoked key can bring about, the bytes are free (log 22). A read under a key waits for a locked line, unless its page is versioned and
the window of the key precedes that of the device whose commit has locked the line, so that the pending stamp follows the key; a load of an
open transaction reads versioned pages under its start key. -/
def Obligations.GlobalAndSnapshotLoads : Prop :=
  (
  GlobalLoadLaw .ldgB8 1 false ∧ GlobalLoadLaw .ldgI8 1 true ∧ GlobalLoadLaw .ldgB16 2 false ∧ GlobalLoadLaw .ldgI16 2 true
  ∧ GlobalLoadLaw .ldgB32 4 false ∧ GlobalLoadLaw .ldgB64 8 false)
  ∧ (
  SnapshotLoadLaw .ldzB32 4 ∧ SnapshotLoadLaw .ldzB64 8)
  ∧ (
  (∀ (s : State) (key : Nat) (ps : List Piece),
    let blocks (p : Piece) (line : Nat) : Prop := p.page.tier ≠ .host ∧ (∃ i, i < p.n ∧ line = (p.addr + i) / 128) ∧ s.locked line = true
      ∧ ¬ (p.page.ver = true ∧ s.keyPasses line key = true)
    (s.snapHeld key ps = none ↔ ∀ p ∈ ps, ∀ line, ¬ blocks p line)
    ∧ (∀ line, s.snapHeld key ps = some line → ∃ p ∈ ps, blocks p line)
    ∧ (∀ line vs c k g, s.versions.look line = some vs → vs.lock = some (c, k) → s.group? c k = some g →
        (s.keyPasses line key = true ↔ winBefore (key / 2 ^ 16 % 2 ^ 32) (s.device (s.vdOf g)).window = true))
    ∧ ∀ c g, s.loadHeld c g ps = none ↔ s.heldIn c (ps.filter (cacheable g)) ps = none
        ∧ ∀ t, g.tx = some t → s.snapHeld t.key (ps.filter fun p => p.page.ver) = none)
  ∧ ∀ (s : State) (part line key : Nat),
    let vs := s.versionsOf part line
    let qualifies (x : Stamp) : Prop := x.settled = true ∨ x.window = key / 2 ^ 16 % 2 ^ 32 ∨ winBefore x.window (key / 2 ^ 16 % 2 ^ 32) = true
    let byte (i : Nat) : Byte := (s.lineUnder part line key).getD i 0
    (s.versions.look line = none → ∀ i, i < 128 → byte i = s.mem.read (128 * line + i))
    ∧ (qualifies vs.newest → ∀ i, i < 128 → byte i = s.mem.read (128 * line + i))
    ∧ (¬ qualifies vs.newest → ∀ pre v post, vs.older = pre ++ v :: post → (∀ x ∈ pre, ¬ qualifies x.stamp) → qualifies v.stamp →
        s.lineUnder part line key = v.data)
    ∧ (¬ qualifies vs.newest → (∀ x ∈ vs.older, ¬ qualifies x.stamp) → ∀ i, i < 128 → byte i = Config.lostVersion s.tick (128 * line + i)))

/-- R316, R306, R33, R122: `wardw` compares the word at its home with the register of each lane that reaches it; a lane whose word differs
takes it and goes on, and such a lane acts as an acquire at device scope; the others are held on the ward of their line. A lane that is
misaligned, meets a fault or a latch, or whose page is of the host's tier takes its event. That the wait of a lane is not counted is the
model's reading (log 47), and so are the wait for the core's own requests (log 28) and that a latch is looked at only for an address that
has a translation (log 30). Here with room for the wards.
R171, R172: an arrival of n at a record: refused with 3 when the record is not the device's and 2 when it expects nobody; else the count
grows, and when it reaches the expected one the phase moves on by one and the count is 0, with status 1 when it went beyond.
R326, R327, R173: `hwait` reads the record of each lane: an address that names none gives 4, a record that is not the device's 3 and its
phase, one in another phase 0 and that phase, which is an acquire at device scope, and a lane whose phase still stands is held on the
record's ward; `harr`, a release at device scope, sends the arrivals to the records' homes and counts one load; a lane without a record
is to be given 4 and 0. What the waits cover is the model's reading (log 28), and so are that an address is translated and looked at for
latches over its 16 bytes before it gets status 4 (log 76), and that a latch is looked at only for an address with a translation (log
30). -/
def Obligations.WaitsOnRecords : Prop :=
  (
  ∀ s c k g o, Runs s c k g →
    let d := o.data.toNat
    let a (l : Nat) : Nat := g.laneAddr s.tick true o.addr l
    let aligned (l : Nat) : Prop := a l % 4 = 0
    if g.addrOk o.addr = true ∧ g.inBudget d 1 = true then
      MissesWait s c k g (.wardw o) .load 4 a aligned
      ∧ ∀ (r : Nat → LaneEnd) (p : Nat → Piece), Ends s c g .load false 4 a aligned r →
        (∀ l, l < 32 → active g l → aligned l → (r l).goes = true → (r l).pieces = [p l]) →
        let barred (l : Nat) : Bool := decide ((p l).page.tier = .host)
        let stop (l : Nat) : Option LaneEvent := laneStop g .load 4 a r p barred l
        let live := (actives g).filter fun l => decide (stop l = none)
        let word (l : Nat) : Word :=
          BitVec.ofNat 32 (littleEndian (fun i => nearByte s c (p l).page.tier ((p l).addr + i) false) 0 4)
        let passes (l : Nat) : Bool := word l != g.vread s.tick d l
        (∀ line, s.heldIn c (live.map p) (live.map p) = some line → Waits s c k g (.wardw o) (.line line))
        ∧ (s.heldIn c (live.map p) (live.map p) = none → WardRoom s →
            Completes s (.wardw o) fun t => Local s t c k
              ∧ (∃ g1 g', RaisedSome g g1 (fun l => active g l ∧ stop l ≠ none) (laneEventOf g .load 4 a r p barred)
                  ∧ t.group? c k = some g'
                  ∧ Waited g1 g' (fun l => if passes l then some [(d, word l)] else none) fun l => (p l).addr / 128)
              ∧ (∀ l ∈ live, passes l = false → Warded t c k ((p l).addr / 128))
              ∧ ((∃ l ∈ live, passes l = true) → (t.core c).l1 = []))
    else exec (.wardw o) s = .next (s.setGroup c k g.illegal))
  ∧ (
  ∀ (h : HaspRec) (n vd part : Nat),
    (h.owned vd part = true ↔ h.owner / 2 ^ 31 % 2 = 1 ∧ h.owner / 2 ^ 24 % 2 ^ 7 = vd ∧ h.owner / 2 ^ 16 % 2 ^ 8 = part)
    ∧ (h.owned vd part = false → h.arrive n vd part = (3, h.phase, h))
    ∧ (h.owned vd part = true → h.expected = 0 → h.arrive n vd part = (2, h.phase, h))
    ∧ (h.owned vd part = true → h.expected ≠ 0 → h.arrived + n < h.expected →
        h.arrive n vd part = (0, h.phase, { h with arrived := h.arrived + n }))
    ∧ (h.owned vd part = true → h.expected ≠ 0 → h.expected ≤ h.arrived + n →
        h.arrive n vd part = ((if h.arrived + n = h.expected then 0 else 1), h.phase,
          { h with arrived := 0, phase := (h.phase + 1) % 2 ^ 32 })))
  ∧ (
  (∀ s c k g o, Runs s c k g →
    let d := o.data.toNat
    let a (l : Nat) : Nat := g.laneAddr s.tick true o.addr l
    if g.addrOk o.addr = true ∧ g.inBudget d 2 = true then
      MissesWait s c k g (.hwait o) .atomic 16 a all
      ∧ ∀ r, Ends s c g .atomic false 16 a all r →
        let ps := (going g r).flatMap fun l => (r l).pieces
        let rec? (l : Nat) : Option Nat := s.haspAddr (s.vdOf g) (a l) (r l).pieces
        let phase (x : Nat) : Word := BitVec.ofNat 32 (s.hasp x).phase
        let res (l : Nat) : Option (List (Nat × Word)) :=
          match rec? l with
          | none => some [(d, 4)]
          | some x =>
            if (s.hasp x).owned (s.vdOf g) (s.partOf g) = false then some [(d, 3), (d + 1, phase x)]
            else if (s.hasp x).phase ≠ (g.vread s.tick (d + 1) l).toNat then some [(d, 0), (d + 1, phase x)]
            else none
        (∀ line, s.heldIn c ps ps = some line → Waits s c k g (.hwait o) (.line line))
        ∧ (s.heldIn c ps ps = none → WardRoom s →
            Completes s (.hwait o) fun t => Local s t c k
              ∧ (∃ g1 g', Stopped g g1 .atomic a r ∧ t.group? c k = some g' ∧ Waited g1 g' res fun l => ((rec? l).getD 0) / 128)
              ∧ (∀ l ∈ going g r, res l = none → Warded t c k (((rec? l).getD 0) / 128))
              ∧ ((∃ l ∈ going g r, ∃ v, res l = some [(d, 0), v]) → (t.core c).l1 = []))
    else exec (.hwait o) s = .next (s.setGroup c k g.illegal))
  ∧ ∀ s c k g o, Runs s c k g →
    let d := o.data.toNat
    let a (l : Nat) : Nat := g.laneAddr s.tick true o.addr l
    let ready : Prop := g.loads = [] ∧ g.stores = [] ∧ CoreQuiet s c True
    if g.addrOk o.addr = true ∧ g.inBudget d 2 = true then
      (¬ ready → WaitsAgain s c k g (.harr o))
      ∧ (ready → MissesWait s c k g (.harr o) .atomic 16 a all)
      ∧ (ready → ∀ r, Ends s c g .atomic true 16 a all r →
        let rec? (l : Nat) : Option Nat := s.haspAddr (s.vdOf g) (a l) (r l).pieces
        Completes s (.harr o) fun t => Local s t c k ∧ ∃ g' rs, t.group? c k = some g' ∧ t.requests = s.requests ++ rs
          ∧ Stopped g { g' with pend := g.pend, loads := g.loads } .atomic a r
          ∧ (going g r = [] → rs = [] ∧ g'.pend = g.pend ∧ g'.loads = g.loads)
          ∧ (going g r ≠ [] → g'.loads = counted g.loads s.nextOp false
            ∧ g'.pend = g.pend ++ ((going g r).filter fun l => (rec? l).isNone).flatMap (fun l =>
                [⟨s.nextOp, vkey d l, 4⟩, ⟨s.nextOp, vkey (d + 1) l, 0⟩])
            ∧ (∀ q ∈ rs, ∃ x steps, q = { line := x / 128, core := c, slot := k, launch := g.launch, vd := s.vdOf g,
                                          kind := .hasp s.nextOp x steps d }
                ∧ steps = ((going g r).filter fun l => rec? l == some x).map fun l => ⟨l, (g.vread s.tick d l).toNat % 2 ^ 16⟩)
            ∧ ∀ l ∈ going g r, ∀ x, rec? l = some x → ∃ q ∈ rs, ∃ steps, q.kind = .hasp s.nextOp x steps d))
    else exec (.harr o) s = .next (s.setGroup c k g.illegal))

/-- R75, R83: window a precedes window b when b − a modulo 2^32 is 1 to 2^31 − 1; an open is refused with status 3 for a window two or more
ahead, waits for one that is not closed, is refused with 2 below the floor or, for a key that is not live, beyond the hold, with 1 when
the table is full, and is granted otherwise, in the lowest-numbered free entry (log 73).
R318, R319: `snapo` releases what the key register holds, then opens the newest closed key or an explicit one and writes the status; a
granted open gives the register its valid bit, entry and key, any other leaves it 0; `snapc` releases a held key and clears the register.
The copy in `z0` of a launch's binding has no hold of its own (R85, log 52). -/
def Obligations.SnapshotKeys : Prop :=
  (
  (∀ a b : BitVec 32, winBefore a.toNat b.toNat = true ↔ 1 ≤ (b - a).toNat ∧ (b - a).toNat ≤ 2 ^ 31 - 1)
  ∧ ∀ (s : State) (part : Nat) (c m : BitVec 32),
    let le (a b : BitVec 32) : Prop := a = b ∨ winBefore a.toNat b.toNat = true
    let p := s.partition part
    let live (e : Nat × SnapEntry) : Prop := e.2.key = m.toNat * 2 ^ 16 + 0xFFFF
    let below : Prop := ∃ f, p.floor = some f ∧ winBefore m.toNat f = true
    let old : Prop := winBefore m.toNat (c - 2 - BitVec.ofNat 32 (s.hold part)).toNat = true
    let r := s.openResult part c.toNat m.toNat
    (le (c + 2) m → r = .refused 3)
    ∧ (¬ le (c + 2) m → le (c - 1) m → r = .wait m.toNat)
    ∧ (¬ le (c + 2) m → ¬ le (c - 1) m → below → r = .refused 2)
    ∧ (¬ le (c + 2) m → ¬ le (c - 1) m → ¬ below → (∃ e ∈ p.snaps, live e) → ∃ e, r = .opened e ∧ ∃ x, (e, x) ∈ p.snaps ∧ live (e, x))
    ∧ (¬ le (c + 2) m → ¬ le (c - 1) m → ¬ below → (∀ e ∈ p.snaps, ¬ live e) → old → r = .refused 2)
    ∧ (¬ le (c + 2) m → ¬ le (c - 1) m → ¬ below → (∀ e ∈ p.snaps, ¬ live e) → ¬ old →
        ((∀ n, n < 64 → (p.snaps.look n).isSome = true) → r = .refused 1)
        ∧ ∀ n, n < 64 → p.snaps.look n = none → (∀ m, m < n → (p.snaps.look m).isSome = true) → r = .opened n))
  ∧ (
  (∀ s c k g o, Runs s c k g →
    let z := o.key.toNat
    let cur := (s.device (s.vdOf g)).window
    let s1 := if g.bound = true ∧ z = 0 then s else s.releaseKey (s.partOf g) (g.keys.get z 0)
    let h : Group := { g with bound := g.bound && decide (z ≠ 0) }
    let m := match o.expl with
      | none => winAdd cur (-2)
      | some p => ((g.sreg (p.toNat + 1) ++ g.sreg p.toNat : BitVec 64).extractLsb' 16 32).toNat
    let keys (x : DWord) : Tab DWord := g.keys.put z x
    (∀ e, s1.openResult (s.partOf g) cur m = .opened e → ∃ x : DWord,
      exec (.snapo o) s = .next ((s1.addHold (s.partOf g) e (m % 2 ^ 32 * 2 ^ 16 + 0xFFFF)).setGroup c k
        { h with sregs := g.sregs.put o.status.toNat 0, keys := (keys 0).put z x })
      ∧ x.getLsbD 63 = true ∧ x.getLsbD 62 = false ∧ (x.extractLsb' 48 6).toNat = e % 64
      ∧ (x.extractLsb' 0 48).toNat = m % 2 ^ 32 * 2 ^ 16 + 0xFFFF)
    ∧ (∀ st, s1.openResult (s.partOf g) cur m = .refused st → exec (.snapo o) s = .next (s1.setGroup c k
        { h with sregs := g.sregs.put o.status.toNat (BitVec.ofNat 32 st), keys := keys 0 }))
    ∧ (∀ w, s1.openResult (s.partOf g) cur m = .wait w → exec (.snapo o) s = .next (s1.setGroup c k
        { h with phase := .waiting, wait := some (.snapshot w), clause := { g.clause with redo := true }, keys := keys 0 })))
  ∧ (∀ s c k g o, Runs s c k g →
    let n := o.key.toNat
    let z := g.keys.get n 0
    exec (.snapc o) s =
      if z.getLsbD 63 then .next ((if g.bound = true ∧ n = 0 then s else s.releaseKey (s.partOf g) z).setGroup c k
        { g with keys := g.keys.put n 0, bound := g.bound && decide (n ≠ 0) }) else .next s)
  ∧ ∀ (s : State) (part : Nat) (z : DWord),
    let e := (z.extractLsb' 48 6).toNat
    s.releaseKey part z =
      if z.getLsbD 63 = true ∧ z.getLsbD 62 = false then
        s.withPartition part fun p =>
          match p.snaps.look e with
          | none => p
          | some x => { p with snaps := if x.count ≤ 1 then p.snaps.del e else p.snaps.put e { x with count := x.count - 1 } }
      else s)

/-- R320, R321, R322, R91, R305: `txb` begins a transaction under the key of its register, dooms an open one with cause 7 and traps without a
key; `txc`, a release at device scope, ends a doomed transaction with its cause and one without lines with success; else it translates
its lines, the first that faults making the lanes replayable and dooming it with cause 6 (log 45), and asks for the lock of the lowest
line, each line with the bytes buffered for it; `txa` ends a transaction with cause 3. A transaction that has ended leaves `txs` with
its result and no lock. A doom's cause has 3 bits, and lines and bytes stand in rising order (GroupsKept). That `txc` waits for every
request and store of its core is the model's reading (log 28).
R79, R92, R96: a version that a new one replaces in its frame is kept as an older one: not at all where no live key can select it and
the hold is over; else in a resident record, of which a line has three and the partition as many as its resident area; for want of a
record the line's oldest resident version goes to the overflow area. Where that is full too and no key is left to revoke, the line's
oldest resident version is discarded and the floor rises. That no byte of memory changes with it is the model's choice (log 12).
R90, R91: the lock of a commit at the home of its line: a doomed transaction ends with its cause; one whose key a newer version of the
line follows ends with cause 1; else the line is locked and the next higher line of the transaction is asked for. With the last line
locked, every line takes its bytes under one stamp, the device's window and its commit number, which goes up; the locks go, and the
transaction has succeeded. A window that has no number left keeps the commit waiting. -/
def Obligations.Transactions : Prop :=
  (
  (∀ s c k g o, Runs s c k g →
    let z := g.keys.get o.key.toNat 0
    (z.getLsbD 63 = false → exec (.txb o) s = .next (s.setGroup c k g.illegal))
    ∧ (z.getLsbD 63 = true → ∀ t, g.tx = some t → t.doom = none → InGroup s c k (.txb o) fun g' =>
        g'.tx = some { t with doom := some 7, lines := [] } ∧ g'.txs.getLsbD 31 = true ∧ g'.txs.getLsbD 30 = true
        ∧ g'.txs.extractLsb' 27 3 = 7#3 ∧ g'.txs.extractLsb' 24 3 = g.txs.extractLsb' 24 3 ∧ g'.txs.extractLsb' 0 24 = 0#24
        ∧ { g' with tx := g.tx, txs := g.txs } = g)
    ∧ (z.getLsbD 63 = true → g.tx = none → Completes s (.txb o) fun u => SameMemory s u ∧ OtherGroups s u c k ∧ ∃ g',
        u.group? c k = some g'
        ∧ g'.tx = some { key := z.toNat % 2 ^ 48, entry := z.toNat / 2 ^ 48 % 64, held := !z.getLsbD 62, locked := [],
                         doom := if z.getLsbD 62 then some 4 else none, lines := [] }
        ∧ g'.txs.getLsbD 31 = true ∧ g'.txs.getLsbD 30 = z.getLsbD 62 ∧ g'.txs.extractLsb' 27 3 = (if z.getLsbD 62 then 4#3 else 0#3)
        ∧ g'.txs.getLsbD 26 = g.txs.getLsbD 26 ∧ g'.txs.extractLsb' 24 2 = o.key ∧ g'.txs.extractLsb' 0 24 = 0#24
        ∧ { g' with tx := g.tx, txs := g.txs } = g))
  ∧ (∀ s c k g, Runs s c k g → g.tx = none → exec .txc s = .next s ∧ exec .txa s = .next s)
  ∧ ∀ s c k g t, Runs s c k g → g.tx = some t →
    let ready : Prop := g.loads = [] ∧ g.stores = [] ∧ CoreQuiet s c True
    let ended (cause : Nat) (u : State) : Prop := SameMemory s u ∧ OtherGroups s u c k
      ∧ (∀ line ∈ t.locked, u.locked line = false)
      ∧ ∃ g', u.group? c k = some g' ∧ g'.tx = none ∧ g'.txs.getLsbD 31 = false ∧ g'.txs.getLsbD 30 = false
        ∧ g'.txs.extractLsb' 27 3 = BitVec.ofNat 3 cause ∧ g'.txs.getLsbD 26 = (cause == 0)
        ∧ g'.txs.extractLsb' 24 2 = g.txs.extractLsb' 24 2 ∧ g'.txs.extractLsb' 0 24 = 0#24 ∧ { g' with tx := g.tx, txs := g.txs } = g
    Completes s .txa (ended 3)
    ∧ (¬ ready → WaitsAgain s c k g .txc)
    ∧ (ready → ∀ cause, t.doom = some cause → cause < 8 → Completes s .txc (ended cause))
    ∧ (ready → t.doom = none → t.lines = [] → Completes s .txc (ended 0))
    ∧ (ready → t.doom = none → (∃ x ∈ t.lines, ∃ ps, s.translateGroup c g .commit x.2.va 128 = .miss ps) →
        Completes s .txc fun u => Local s u c k ∧ u.requests = s.requests
          ∧ u.group? c k = some { g with phase := .waiting, wait := some .walk, clause := { g.clause with redo := true } })
    ∧ (ready → t.doom = none → (∀ x ∈ t.lines, ∀ ps, s.translateGroup c g .commit x.2.va 128 ≠ .miss ps) →
        ∀ pre x post f a, t.lines = pre ++ x :: post → (∀ y ∈ pre, ∃ ps, s.translateGroup c g .commit y.2.va 128 = .ok ps) →
          s.translateGroup c g .commit x.2.va 128 = .fault f a →
          Completes s .txc fun u => Local s u c k ∧ u.requests = s.requests ∧ ∃ g', u.group? c k = some g'
            ∧ g'.tx = some { t with doom := some 6, lines := [] }
            ∧ g'.txs.extractLsb' 27 3 = 6#3 ∧ g'.txs.getLsbD 31 = true ∧ g'.txs.getLsbD 30 = true
            ∧ Raised g { g' with tx := g.tx, txs := g.txs } (active g) fun l =>
                { lane := l, what := .replay .memory (f.info .commit 0) (BitVec.ofNat 64 a), escalates := (g.lane l).trap,
                  word := g.clause.idx, rword := g.clause.idx, sword := g.clause.idx + g.clause.len })
    ∧ (ready → t.doom = none → Rising t.lines → (∀ x ∈ t.lines, Rising x.2.bytes) →
        ∀ p : Nat → Piece, (∀ x ∈ t.lines, s.translateGroup c g .commit x.2.va 128 = .ok [p x.1]) →
        ∀ low, (∀ x ∈ t.lines, low ≤ (p x.1).addr / 128) → (∃ x ∈ t.lines, (p x.1).addr / 128 = low) →
        Completes s .txc fun u => Local s u c k
          ∧ u.requests = s.requests ++ [{ line := low, core := c, slot := k, launch := g.launch, vd := s.vdOf g, kind := .lock }]
          ∧ ∃ g' ls, u.group? c k = some g' ∧ g'.phase = .waiting ∧ g'.wait = some .commit ∧ g'.tx = some { t with lines := ls }
            ∧ { g' with phase := g.phase, wait := g.wait, tx := g.tx } = g
            ∧ (∀ m, (ls.look m).isSome = true ↔ ∃ x ∈ t.lines, (p x.1).addr / 128 = m)
            ∧ ∀ m i, ((ls.look m).bind fun y => y.bytes.look i) =
                (t.lines.reverse.filterMap fun x => if (p x.1).addr / 128 = m then x.2.bytes.look i else none).head?))
  ∧ (
  ∀ (s : State) (part c line : Nat) (stamp : Stamp),
    let vs := s.versionsOf part line
    let old : Version := { stamp := vs.newest, data := (List.range 128).map fun i => s.mem.read (128 * line + i), resident := true }
    let u := s.demote part c line stamp
    let cap (o : Nat) : Nat := (((s.partition part).ver.get o 0).extractLsb' 0 32).toNat
    let used (r : Bool) : Nat := (s.versions.put line { vs with newest := stamp, older := old :: vs.older }).foldl
      (fun n x => if x.2.part = part then n + (x.2.older.filter fun v => v.resident == r).length else n) 0
    let fits : Prop := (vs.older.filter (·.resident)).length < 3 ∧ used true ≤ cap 0x08
    (∀ a, u.mem.read a = s.mem.read a)
    ∧ (∃ x, u.versions.look line = some x ∧ x.newest = stamp ∧ x.lock = vs.lock)
    ∧ (s.reclaimable part c vs.newest stamp = true → u.versions.look line = some { vs with newest := stamp })
    ∧ (s.reclaimable part c vs.newest stamp = false → fits →
        u.versions.look line = some { vs with newest := stamp, older := old :: vs.older })
    ∧ (s.reclaimable part c vs.newest stamp = false → ¬ fits → used false < cap 0x18 →
        ∀ pre v post, old :: vs.older = pre ++ v :: post → v.resident = true → (∀ x ∈ post, x.resident = false) →
          u.versions.look line = some { vs with newest := stamp, older := pre ++ { v with resident := false } :: post })
    ∧ (s.reclaimable part c vs.newest stamp = false → ¬ fits → cap 0x18 ≤ used false → (s.partition part).snaps = [] →
        ∀ pre v post, old :: vs.older = pre ++ v :: post → v.resident = true → (∀ x ∈ post, x.resident = false) →
          u.versions.look line = some { vs with newest := stamp, older := pre ++ post }
          ∧ ∃ f, (u.partition part).floor = some f ∧ winLe ((pre.getLast?.map (·.stamp)).getD stamp).window f = true))
  ∧ (
  ∀ (s : State) (i : Nat) (r : HomeReq) (b c : Nat) (g : Group) (t : Tx),
    s.actor = .object i b c → s.requests[i]? = some r → r.kind = .lock → (∀ j x, j < i → s.requests[j]? = some x → x.line ≠ r.line) →
    s.locked r.line = false → s.group? r.core r.slot = some g → g.launch = r.launch → g.wait = some .commit → g.tx = some t →
    let vs := s.versionsOf (s.partOf g) r.line
    let w := t.key / 2 ^ 16 % 2 ^ 32
    let follows : Prop := vs.newest.settled = false ∧ ¬ (vs.newest.window = w ∨ winBefore vs.newest.window w = true)
    let d := s.device (s.vdOf g)
    let ended (cause : Nat) (u : State) : Prop := (∀ line ∈ t.locked, u.locked line = false)
      ∧ ∃ g', u.group? r.core r.slot = some g' ∧ g'.tx = none ∧ g'.txs.getLsbD 31 = false ∧ g'.txs.getLsbD 30 = false
        ∧ g'.txs.extractLsb' 27 3 = BitVec.ofNat 3 cause ∧ g'.txs.getLsbD 26 = (cause == 0)
        ∧ g'.txs.extractLsb' 24 2 = g.txs.extractLsb' 24 2 ∧ g'.txs.extractLsb' 0 24 = 0#24
    (∀ cause, t.doom = some cause → cause < 8 → Completes s .homeRequest fun u =>
        u.requests = s.requests.eraseIdx i ∧ SameMemory s u ∧ ended cause u)
    ∧ (t.doom = none → follows → Completes s .homeRequest fun u => u.requests = s.requests.eraseIdx i ∧ SameMemory s u ∧ ended 1 u)
    ∧ (t.doom = none → ¬ follows → ∀ x rest, t.lines.map (·.1) = t.locked ++ r.line :: x :: rest → Rising t.lines →
        Completes s .homeRequest fun u => SameMemory s u
          ∧ u.requests = s.requests.eraseIdx i
              ++ [{ line := x, core := r.core, slot := r.slot, launch := g.launch, vd := r.vd, kind := .lock }]
          ∧ u.versions = s.versions.put r.line { vs with lock := some (r.core, r.slot) }
          ∧ u.group? r.core r.slot = some { g with tx := some { t with locked := t.locked ++ [r.line] } })
    ∧ (t.doom = none → ¬ follows → t.lines.map (·.1) = t.locked ++ [r.line] → Rising t.lines → 0xFFFE < d.commitSeq →
        Completes s .homeRequest fun u => SameMemory s u ∧ u.requests = s.requests.eraseIdx i
          ∧ u.versions = s.versions.put r.line { vs with lock := some (r.core, r.slot) }
          ∧ u.group? r.core r.slot = some { g with tx := some { t with locked := t.locked ++ [r.line] } })
    ∧ (t.doom = none → ¬ follows → t.lines.map (·.1) = t.locked ++ [r.line] → Rising t.lines → d.commitSeq ≤ 0xFFFE →
        s.mem.wf = true → (∀ x ∈ t.lines, Rising x.2.bytes ∧ ∀ y ∈ x.2.bytes, y.1 < 128) →
        Completes s .homeRequest fun u => u.requests = s.requests.eraseIdx i ∧ ended 0 u ∧ u.locked r.line = false
          ∧ (∀ a, u.mem.read a = ((t.lines.look (a / 128)).bind fun y => y.bytes.look (a % 128)).getD (s.mem.read a)
              ∧ u.host.read a = s.host.read a ∧ u.store.read a = s.store.read a)
          ∧ (∀ x ∈ t.lines, ∃ v, u.versions.look x.1 = some v ∧ v.newest = { window := d.window, seq := d.commitSeq, settled := false })
          ∧ (u.device (s.vdOf g)).commitSeq = d.commitSeq + 1))

/-- R58, R60, R323, R324: `keep` rounds its range to lines, refuses with the first status that applies, and else enables the lowest free
keeper with the highest ways that no keeper holds and writes 0 and its number; `unkeep` ends a keeper of its own device, whose lines
stay as ordinary ones and whose fills in flight become ordinary ones, and does nothing for any other number. When a fill begins is log
44.
R317, R305, R106: a fence waits until every earlier load of the group has its value; as a release until the requests of the core are
performed, and beyond the core until its group's stores are accepted and the core's queue is empty; as an acquire until the group's own
atomics are performed. A
release marks the lanes, whose later synchronising stores are releases; an acquire beyond the core empties the L1; nothing else
changes. What a release covers of other groups is the model's reading (log 28). `pf` (R325) changes no register and no byte, waits while
a line that it reaches is locked (R78), and has the lines that its lanes reach in the die's L2 or on their way to it; that of a line one
byte is translated and looked at for a latch is log 76, and that a latch is looked at only for an address with a translation log 30. -/
def Obligations.KeepersAndFences : Prop :=
  (
  (∀ s c k g o, Runs s c k g →
    let d := s.die (dieOf c)
    let vd := s.vdOf g
    let n := o.ways.toNat
    let q := (s.device vd).cache.get 0x80 0
    let b := (g.sreg (o.base.toNat + 1) ++ g.sreg o.base.toNat : BitVec 64).toNat / 128 * 128
    let l := ((g.sreg (o.d.toNat + 1) ++ g.sreg o.d.toNat : BitVec 64).toNat + 127) / 128 * 128
    let enabled (i : Nat) : Prop := (d.keepers.get i Keeper.free).en = true
    let full : Prop := ∀ i, i < 8 → enabled i
    let quota : Prop := min 8 (q.extractLsb' 0 4).toNat ≤ (d.keepers.filter fun x => x.2.en && x.2.vd == vd).length
      ∨ min 4 (q.extractLsb' 8 4).toNat < n
    let free : List Nat := [15, 14, 13, 12, 11, 10, 9, 8, 7, 6, 5, 4].filter fun w => !(d.keepers.any fun x => x.2.en && x.2.ways.contains w)
    let bad : Prop := n = 0 ∨ 4 < n ∨ l ≤ b ∨ canonical b = false ∨ canonical l = false ∨ 2 ^ 64 ≤ l
    let kept : Keeper := { base := b, limit := l, en := true, vd := vd, part := (s.device vd).part, ways := free.take n }
    let gives (st v : Word) (g' : Group) : Prop := g' = { g with sregs := (g.sregs.put o.d.toNat st).put (o.d.toNat + 1) v }
    (full → InGroup s c k (.keep o) (gives 1 (BitVec.allOnes 32)))
    ∧ (¬ full → quota → InGroup s c k (.keep o) (gives 2 (BitVec.allOnes 32)))
    ∧ (¬ full → ¬ quota → free.length < n → InGroup s c k (.keep o) (gives 3 (BitVec.allOnes 32)))
    ∧ (¬ full → ¬ quota → n ≤ free.length → bad → InGroup s c k (.keep o) (gives 4 (BitVec.allOnes 32)))
    ∧ (¬ full → ¬ quota → n ≤ free.length → ¬ bad → ∃ i g', i < 8 ∧ ¬ enabled i ∧ (∀ j, j < i → enabled j)
        ∧ gives 0 (BitVec.ofNat 32 i) g'
        ∧ exec (.keep o) s = .next ((s.withDie (dieOf c) fun x => { x with keepers := x.keepers.put i kept }).setGroup c k g')))
  ∧ ∀ s c k g o, Runs s c k g →
    let i := (g.sreg o.d.toNat).toNat
    let x := (s.die (dieOf c)).keepers.get i Keeper.free
    if i < 8 ∧ x.en = true ∧ x.vd = s.vdOf g ∧ x.part = (s.device (s.vdOf g)).part then
      let ordinary (q : HomeReq) : HomeReq :=
        { q with kind := match q.kind with
            | .load d (some j) ef => .load d (if d = dieOf c ∧ j = i then none else some j) ef
            | .own d (some j) ef => .own d (if d = dieOf c ∧ j = i then none else some j) ef
            | y => y }
      exec (.unkeep o) s = .next { s.withDie (dieOf c) (fun y => { y with
        keepers := y.keepers.put i { x with en := false, ways := [] },
        l2 := y.l2.map fun e => (e.1, e.2.map fun z => if z.kept = some i then { z with kept := none } else z),
        fills := y.fills.map fun f => if f.keeper = some i then { f with keeper := none } else f }) with
          requests := s.requests.map ordinary }
    else exec (.unkeep o) s = .next s)
  ∧ (
  (∀ s c k g o, Runs s c k g →
    let acquires : Prop := o.ord = .acq ∨ o.ord = .ar
    let releases : Prop := o.ord = .rel ∨ o.ord = .ar
    let wide : Prop := o.scope ≠ .grp ∧ o.scope ≠ .gang
    let ready : Prop := g.loads = [] ∧ (releases → (wide → g.stores = []) ∧ CoreQuiet s c wide) ∧ (acquires → GroupQuiet s c k)
    let marked : State := s.setGroup c k { g with fenced := g.fenced ||| g.clause.active }
    let clear (t : State) : State := t.withCore c fun x => { x with l1 := [] }
    (¬ ready → WaitsAgain s c k g (.fence o))
    ∧ (ready → ¬ releases → ¬ (acquires ∧ wide) → exec (.fence o) s = .next s)
    ∧ (ready → ¬ releases → acquires ∧ wide → exec (.fence o) s = .next (clear s))
    ∧ (ready → releases → ¬ (acquires ∧ wide) → exec (.fence o) s = .next marked)
    ∧ (ready → releases → acquires ∧ wide → exec (.fence o) s = .next (clear marked)))
  ∧ ∀ s c k g o, Runs s c k g →
    let a (l : Nat) : Nat := g.laneAddr s.tick true o.addr l
    (g.addrOk o.addr = false → exec (.pf o) s = .next (s.setGroup c k g.illegal))
    ∧ (g.addrOk o.addr = true → MissesWait s c k g (.pf o) .load 1 a all)
    ∧ (g.addrOk o.addr = true → ∀ r, Ends s c g .load false 1 a all r →
        let ps := ((going g r).flatMap fun l => (r l).pieces).filter (cacheable g)
        (∀ line, s.lockedIn ps = some line → Waits s c k g (.pf o) (.line line))
        ∧ (s.lockedIn ps = none → Completes s (.pf o) fun t => Local s t c k ∧ t.group? c k = some g
          ∧ ∀ l ∈ going g r, ∀ p ∈ (r l).pieces, cacheable g p = true →
              (t.die (dieOf c)).holds (p.addr / 128) = true ∨ t.asking (dieOf c) (p.addr / 128) = true)))

/-! ## Matrix instructions, copies, rings (spec/02, /04, /13) -/

/-- R328, R337, R340, R51: `mzero` and the row instructions: a tile that the gang does not have raises the typed-buffer fault of every
active lane, a full engine makes the group wait, and a row read also waits for the earlier operations on its tile and is refused for a
mismatch of an active lane; else the operation issues. A row read is to give each active lane eight values of its row. That a row read or
a drain waits for its tile at issue, and is refused there, is the model's choice (log 23).
R328, R329, R333, R336, R338, R339: `mma`, `mmar` and `mdrain` check, in this order, the unused bits of their operand, the tile, the
panel, the alignment and the bound of their image, and `mma` and `mmar` last the formats. A drain then waits for the earlier operations on
its tile, and traps on a mismatch of an active lane. A full engine, or latch entries that cannot be registered, make the group wait (R119,
R125); else the operation issues, with a latch entry over its image: the rows that a drain writes for its lanes (R120). That a drain waits
for its tile at issue, and is refused there, is the model's choice (log 23).
R330, R331, R332, R328: `mld` loads the panel of its own core, and of the cores that X names, from its own gang's scratchpad or, with
REM, from that of its cluster set on another core; every core named must have a gang of the set. A full engine, or latch entries that
cannot be registered, make the group wait. It has reached its own engine when it issues. -/
def Obligations.TileInstructions : Prop :=
  (
  (∀ s c k g y (t : BitVec 6), Runs s c k g → s.gang? c g.gang = some y →
    (y.tiles.length ≤ t.toNat → InGroup s c k (.mzero t) fun g' => Raised g g' (active g) (bufferEvent g 3 .store t.toNat))
    ∧ (t.toNat < y.tiles.length → 16 ≤ s.matrixOps c → Waits s c k g (.mzero t) .matrix)
    ∧ (t.toNat < y.tiles.length → s.matrixOps c < 16 → Completes s (.mzero t) fun u =>
        Issued s u c k g (.zero (y.tiles.getD t.toNat 0) g.clause.active) .tiles [] [] []))
  ∧ (∀ s c k g y o, Runs s c k g → s.gang? c g.gang = some y →
    let t := o.t.toNat
    let pt := y.tiles.getD t 0
    if g.inBudget o.v.toNat 8 = true then
      (y.tiles.length ≤ t → InGroup s c k (.mrowwr o) fun g' => Raised g g' (active g) (bufferEvent g 3 .store t))
      ∧ (t < y.tiles.length → 16 ≤ s.matrixOps c → Waits s c k g (.mrowwr o) .matrix)
      ∧ (t < y.tiles.length → s.matrixOps c < 16 → Completes s (.mrowwr o) fun u =>
          Issued s u c k g (.rowWrite pt o.q.toNat o.cb.toNat g.clause.active ((actives g).flatMap fun l => (List.range 8).map fun j =>
            (128 * (l + 32 * o.q.toNat) + 8 * o.cb.toNat + j, g.vread s.tick (o.v.toNat + j) l))) .tiles [] [] [])
      ∧ (y.tiles.length ≤ t → InGroup s c k (.mrowrd o) fun g' => Raised g g' (active g) (bufferEvent g 3 .load t))
      ∧ (t < y.tiles.length →
          let tile := (s.core c).tiles.get pt Tile.clear
          let busy : Prop := ∃ x ∈ s.ops, x.1 < s.nextOp ∧ x.2.core = c ∧ x.2.kind.tile = some pt
          (busy → Waits s c k g (.mrowrd o) (.tile pt))
          ∧ (¬ busy → (∃ l, l < 32 ∧ active g l ∧ tile.mismatch.getLsbD l = true) → InGroup s c k (.mrowrd o) fun g' =>
              Raised g g' (active g) (trapEvent g .redundancy (BitVec.ofNat 32 t) (tile.mismatch.setWidth 64) g.clause.idx
                (g.clause.idx + g.clause.len)))
          ∧ (¬ busy → (∀ l, l < 32 → active g l → tile.mismatch.getLsbD l = false) → 16 ≤ s.matrixOps c → Waits s c k g (.mrowrd o) .matrix)
          ∧ (¬ busy → (∀ l, l < 32 → active g l → tile.mismatch.getLsbD l = false) → s.matrixOps c < 16 →
              Completes s (.mrowrd o) fun u => Issued s u c k g (.rowRead pt o.q.toNat o.cb.toNat o.v.toNat g.clause.active) .tiles [] []
                ((actives g).flatMap fun l => (List.range 8).map fun j =>
                  ⟨s.nextOp, vkey (o.v.toNat + j) l, tile.vals.get (128 * (l + 32 * o.q.toNat) + (8 * o.cb.toNat + j)) 0⟩)))
    else exec (.mrowwr o) s = .next (s.setGroup c k g.illegal) ∧ exec (.mrowrd o) s = .next (s.setGroup c k g.illegal)))
  ∧ (
  let size (f : MatFormat) : Nat := if f = .e4m3 ∨ f = .e5m2 then 16896 else 32768
  let wide (f : MatFormat) : Prop := f = .bf16 ∨ f = .f16
  (∀ s c k g y o (red : Bool) i, Runs s c k g → s.gang? c g.gang = some y → i = (if red then Instr.mmar o else .mma o) →
    let w := g.sreg o.s.toNat
    let off := (w.extractLsb' 0 21).toNat
    let pp := y.panels.getD o.p.toNat 0
    let have' := ((s.core c).panels.get pp Panel.clear).fmt
    if w.extractLsb' 21 11 ≠ 0#11 then exec i s = .next (s.setGroup c k g.illegal)
    else if y.tiles.length ≤ o.t.toNat then InGroup s c k i fun g' => Raised g g' (active g) (bufferEvent g 3 .store o.t.toNat)
    else if y.panels.length ≤ o.p.toNat then InGroup s c k i fun g' => Raised g g' (active g) (bufferEvent g 2 .load o.p.toNat)
    else if off % 4 ≠ 0 then InGroup s c k i fun g' => Raised g g' (active g)
      (trapEvent g .alignment ((⟨0, 7, 0⟩ : XFault).info .load 1) (BitVec.ofNat 64 off) g.clause.idx (g.clause.idx + g.clause.len))
    else if 148 * y.rows < off + size o.f then InGroup s c k i fun g' =>
      Raised g g' (active g) (faultEvent g ⟨0x0A, 7, 0⟩ .load 1 (max off (148 * y.rows)))
    else
      (∀ f, have' = some f → ¬ (wide f ↔ wide o.f) → InGroup s c k i fun g' => Raised g g' (active g) (trapEvent g .operandFormat
          (BitVec.ofNat 32 (o.t.toNat + 2 ^ 8 * (if f = .e4m3 then 0 else if f = .e5m2 then 1 else 2))) 0 g.clause.idx
          (g.clause.idx + g.clause.len)))
      ∧ ((∀ f, have' = some f → (wide f ↔ wide o.f)) → 16 ≤ s.matrixOps c → Waits s c k g i .matrix)
      ∧ ((∀ f, have' = some f → (wide f ↔ wide o.f)) → s.matrixOps c < 16 →
          let l := (c, scratchLatch g.gang off (off + size o.f) false true)
          (s.latchesOk [l] = false → Waits s c k g i (.latch [l]))
          ∧ (s.latchesOk [l] = true → Completes s i fun u =>
            Issued s u c k g (.mul red (y.tiles.getD o.t.toNat 0) pp o.f off (if have'.isSome then g.clause.active else 0)) .tiles [] [l] []
            ∧ (u.core c).engine = (s.core c).engine ++ [s.nextOp])))
  ∧ ∀ s c k g y o, Runs s c k g → s.gang? c g.gang = some y →
    let w := g.sreg o.s.toNat
    let off := (w.extractLsb' 0 21).toNat
    let pt := y.tiles.getD o.t.toNat 0
    let i := Instr.mdrain o
    if w.extractLsb' 21 11 ≠ 0#11 then exec i s = .next (s.setGroup c k g.illegal)
    else if y.tiles.length ≤ o.t.toNat then InGroup s c k i fun g' => Raised g g' (active g) (bufferEvent g 3 .load o.t.toNat)
    else if off % 4 ≠ 0 then InGroup s c k i fun g' => Raised g g' (active g)
      (trapEvent g .alignment ((⟨0, 7, 0⟩ : XFault).info .store 1) (BitVec.ofNat 64 off) g.clause.idx (g.clause.idx + g.clause.len))
    else if 148 * y.rows < off + size o.f then InGroup s c k i fun g' =>
      Raised g g' (active g) (faultEvent g ⟨0x0A, 7, 0⟩ .store 1 (max off (148 * y.rows)))
    else
      let mismatch := ((s.core c).tiles.get pt Tile.clear).mismatch
      let busy : Prop := ∃ x ∈ s.ops, x.1 < s.nextOp ∧ x.2.core = c ∧ x.2.kind.tile = some pt
      let refused : Prop := ∃ l, l < 32 ∧ active g l ∧ mismatch.getLsbD l = true
      (busy → Waits s c k g i (.tile pt))
      ∧ (¬ busy → refused → InGroup s c k i fun g' => Raised g g' (active g) (trapEvent g .redundancy (BitVec.ofNat 32 o.t.toNat)
          (mismatch.setWidth 64) g.clause.idx (g.clause.idx + g.clause.len)))
      ∧ (¬ busy → ¬ refused → 16 ≤ s.matrixOps c → Waits s c k g i .matrix)
      ∧ (∀ lo hi, ¬ busy → ¬ refused → lo < 32 → hi < 32 →
        active g lo → active g hi → (∀ l, l < 32 → active g l → lo ≤ l ∧ l ≤ hi) → s.matrixOps c < 16 →
        let z := if wide o.f then (off + 256 * lo, off + 256 * (hi + 97)) else (off + 128 * lo, off + 16384 + 4 * (hi + 96) + 4)
        let l := (c, scratchLatch g.gang z.1 z.2 true true)
        (s.latchesOk [l] = false → Waits s c k g i (.latch [l]))
        ∧ (s.latchesOk [l] = true → Completes s i fun u => Issued s u c k g (.drain pt o.f off g.clause.active) .tiles [] [l] [])))
  ∧ (
  ∀ s c k g y o, Runs s c k g → s.gang? c g.gang = some y →
    let w := g.sreg o.s.toNat
    let off := (w.extractLsb' 0 21).toNat
    let size : Nat := if o.f = .e4m3 ∨ o.f = .e5m2 then 16896 else 32768
    let i := Instr.mld o
    let wanted := (List.range 8).filter fun j => o.x.getLsbD j
    let found := wanted.filterMap fun j => s.setGang c g.gang y j
    let source := if w.getLsbD 31 then s.setGang c g.gang y (w.extractLsb' 28 3).toNat else some (c, g.gang, y)
    if w.extractLsb' 21 7 ≠ 0#7 ∨ (w.getLsbD 31 = false ∧ w.extractLsb' 28 3 ≠ 0#3) then exec i s = .next (s.setGroup c k g.illegal)
    else if y.panels.length ≤ o.p.toNat ∨ found.length < wanted.length then
      InGroup s c k i fun g' => Raised g g' (active g) (bufferEvent g 2 .store o.p.toNat)
    else if off % 4 ≠ 0 then InGroup s c k i fun g' => Raised g g' (active g)
      (trapEvent g .alignment ((⟨0, 7, 0⟩ : XFault).info .load 1) (BitVec.ofNat 64 off) g.clause.idx (g.clause.idx + g.clause.len))
    else
      (source = none → InGroup s c k i fun g' => Raised g g' (active g) (faultEvent g ⟨0x0A, 7, 0⟩ .load 1 off))
      ∧ ∀ sc sg z, source = some (sc, sg, z) →
        if 148 * z.rows < off + size then InGroup s c k i fun g' =>
          Raised g g' (active g) (faultEvent g ⟨0x0A, 7, 0⟩ .load 1 (max off (148 * z.rows)))
        else
          let l := (sc, scratchLatch sg off (off + size) false true)
          (16 ≤ s.matrixOps c → Waits s c k g i .matrix)
          ∧ (s.matrixOps c < 16 → s.latchesOk [l] = false → Waits s c k g i (.latch [l]))
          ∧ (s.matrixOps c < 16 → s.latchesOk [l] = true → Completes s i fun u =>
            Issued s u c k g (.mld sc sg off o.f
              (((c, g.gang, y) :: found.filter fun x => x.1 != c).map fun x => (x.1, x.2.2.panels.getD o.p.toNat 0)) [c]) .tiles [] [l] []
            ∧ (u.core c).engine = (s.core c).engine ++ [s.nextOp]
            ∧ ((u.core c).panels.get (y.panels.getD o.p.toNat 0) Panel.clear).fmt = some o.f))

/-- R118, R330, R331, R332, R334 to R338, R340: a load fills the targets whose engines have taken it as the first on the panel, while its gangs
are in place (R398), and goes on for its other targets; any other operation that can be performed, and a load that has filled its last
target, is gone from those under way, and: a zeroed tile reads +0.0 in
the rows of its lanes, whose mismatch bits are 0; a row write leaves its values; a drain leaves its rows, truncated or encoded, in its
gang's scratchpad and nothing elsewhere; a multiply accumulates four BlockDots onto each value of its rows, and only the redundant
form sets mismatch bits; a load leaves its image in the panels that it fills; bad data leaves the tile, or empties the panels; a row read gives its group what it
was to be given. That sources are read and results appear in the one completing step is the model's choice (log 11).
R331, R49, R398: a stationary load that reaches the engine of another of its cores takes its place there and fixes the format of its panel;
while the units of the gang there are not in their places it does not reach it. -/
def Obligations.MatrixEngine : Prop :=
  (
  ∀ s id b d (o : EngOp), s.actor = .object id b d → s.ops.look id = some o → s.matrixReady id o = true →
    let tile (u : State) (pt m n : Nat) : Word := ((u.core o.core).tiles.get pt Tile.clear).vals.get (128 * m + n) 0
    let mis (u : State) (pt : Nat) : LaneSet := ((u.core o.core).tiles.get pt Tile.clear).mismatch
    let scratch (u : State) (y : Gang) (off i : Nat) : Byte := (u.core o.core).scratch.read (148 * y.base + off + i)
    let filled := s.fills id o
    let last : Prop := ∀ sc sg off f ts done, o.kind = .mld sc sg off f ts done → ∀ x ∈ ts, x ∈ filled
    (∀ sc sg off f ts done, o.kind = .mld sc sg off f ts done → ∀ x, x ∈ filled ↔ x ∈ ts ∧ x.1 ∈ done
        ∧ (s.panelQueue x.1 x.2).head? = some id ∧ s.gangAway sc sg = false ∧ s.panelAway o.launch x.1 x.2 = false)
    ∧ Completes s .tileOpComplete fun t => SameMemory s t ∧ (last → t.ops.look id = none)
      ∧ (∀ sc sg off f ts done, o.kind = .mld sc sg off f ts done → ¬ last →
          t.ops.look id = some { o with kind := .mld sc sg off f (ts.filter fun x => !filled.contains x) done }
          ∧ ∀ c k, t.group? c k = s.group? c k)
      ∧ (∀ pt lanes, o.kind = .zero pt lanes → ∀ m n, m < 128 → n < 128 →
          tile t pt m n = (if lanes.getLsbD (m % 32) then 0 else tile s pt m n)
          ∧ ∀ l, (mis t pt).getLsbD l = ((mis s pt).getLsbD l && !lanes.getLsbD l))
      ∧ (∀ red pt p f off lanes y pf, o.kind = .mul red pt p f off lanes → s.gang? o.core o.gang = some y →
          ((s.core o.core).panels.get p Panel.clear).state = .ready pf →
          let image := ((s.core o.core).panels.get p Panel.clear).image
          let scales (m n j : Nat) : Option Int :=
            let xa := (scratch s y off (16384 + 4 * m + j)).toNat
            let xb := (image.read (16384 + 4 * n + j)).toNat
            if wideFormat f then some 0 else if xa = 255 ∨ xb = 255 then none else some ((xa : Int) + xb - 254)
          (o.bad ≠ [] → ∀ m n, m < 128 → n < 128 → tile t pt m n = tile s pt m n)
          ∧ (o.bad = [] → ∀ m n, m < 128 → n < 128 →
              if lanes.getLsbD (m % 32) then ∃ acc : Nat → Nat, acc 0 = (tile s pt m n).toNat ∧ tile t pt m n = BitVec.ofNat 32 (acc 4)
                ∧ ∀ j, j < 4 → ∃ x, BlockDot (scales m n j) (fun i => element f (scratch s y off) m (32 * j + i))
                    (fun i => element pf image.read n (32 * j + i)) x
                  ∧ acc (j + 1) = Sys2Proof.Num.encode Sys2Proof.Num.f32 (Sys2Proof.Num.round Sys2Proof.Num.f32 .ne
                      (Sys2Proof.Num.add .ne (Sys2Proof.Num.decode Sys2Proof.Num.f32 (acc j)) x).1).val
              else tile t pt m n = tile s pt m n)
          ∧ ∀ l, l < 32 → ((mis s pt).getLsbD l = true → (mis t pt).getLsbD l = true)
            ∧ ((red = false ∨ lanes.getLsbD l = false) → (mis t pt).getLsbD l = (mis s pt).getLsbD l))
      ∧ (∀ pt q cb lanes vals, o.kind = .rowWrite pt q cb lanes vals → mis t pt = mis s pt ∧ ∀ key,
          ((t.core o.core).tiles.get pt Tile.clear).vals.get key 0 =
            (((vals.reverse.find? fun v => v.1 == key).map (·.2)).getD (((s.core o.core).tiles.get pt Tile.clear).vals.get key 0)))
      ∧ (∀ pt f off lanes y, o.kind = .drain pt f off lanes → s.gang? o.core o.gang = some y → (s.core o.core).scratch.wf = true →
          let row (m : Nat) : Prop := m < 128 ∧ lanes.getLsbD (m % 32) = true
          (wideFormat f = true → ∀ m n, row m → n < 128 →
            ofBytes [scratch t y off (2 * (128 * m + n)), scratch t y off (2 * (128 * m + n) + 1)] =
              Sys2Proof.Num.encode (formatOf f) (Sys2Proof.Num.round (formatOf f) .tz (Sys2Proof.Num.decode Sys2Proof.Num.f32 (tile s pt m n).toNat)).val)
          ∧ (wideFormat f = false → ∀ m j, row m → j < 4 → EncodedMX f (fun i => tile s pt m (32 * j + i))
              (fun i => (scratch t y off (128 * m + (32 * j + i))).toNat) (scratch t y off (16384 + 4 * m + j)).toNat)
          ∧ ∀ a, (∀ m, row m → ¬ (if wideFormat f then 148 * y.base + off + 256 * m ≤ a ∧ a < 148 * y.base + off + 256 * (m + 1)
                else (148 * y.base + off + 128 * m ≤ a ∧ a < 148 * y.base + off + 128 * (m + 1))
                  ∨ (148 * y.base + off + 16384 + 4 * m ≤ a ∧ a < 148 * y.base + off + 16384 + 4 * (m + 1)))) →
              (t.core o.core).scratch.read a = (s.core o.core).scratch.read a)
      ∧ (∀ c, (∀ pt f off lanes, o.kind = .drain pt f off lanes → c ≠ o.core) → (t.core c).scratch = (s.core c).scratch)
      ∧ (∀ sc sg off f ts done y, o.kind = .mld sc sg off f ts done → s.gang? sc sg = some y → (ts.map (·.1)).Nodup →
          (∀ x ∈ ts, x ∉ filled → (t.core x.1).panels.get x.2 Panel.clear = (s.core x.1).panels.get x.2 Panel.clear) ∧ ∀ x ∈ filled,
          let panel := (t.core x.1).panels.get x.2 Panel.clear
          (o.bad = [] → ∀ i, i < (if wideFormat f then 32768 else 16896) →
            panel.image.read i = (s.core sc).scratch.read (148 * y.base + off + i))
          ∧ (s.panelQueue x.1 x.2 = [id] → panel.state = if o.bad = [] then .ready f else .empty))
      ∧ (last → ∀ g, s.group? o.core o.slot = some g → g.launch = o.launch → g.gang = o.gang → ∃ g', t.group? o.core o.slot = some g'
          ∧ g'.vregs = (g.pend.filter fun p => p.op == id).foldl (fun m p => m.put p.key p.val) g.vregs
          ∧ g'.pend = g.pend.filter (fun p => p.op != id)
          ∧ (o.ctr = .tiles → g'.tiles = (g.tiles.map fun x => if x.op = id then { x with done := true } else x).dropWhile (·.done))))
  ∧ (
  ∀ s id c b (o : EngOp) sc sg off f ts done p, s.actor = .object id c b → s.ops.look id = some o →
    o.kind = .mld sc sg off f ts done → ts.find? (fun t => t.1 == c) = some (c, p) → c ∉ done →
    (s.panelAway o.launch c p = true → exec .mldReachEngine s = .next s)
    ∧ (s.panelAway o.launch c p = false → Completes s .mldReachEngine fun t => t.ops.look id = some { o with kind := .mld sc sg off f ts (done ++ [c]) }
      ∧ (t.core c).engine = (s.core c).engine ++ [id] ∧ ((t.core c).panels.get p Panel.clear).fmt = some f
      ∧ SameMemory s t ∧ SameScratch s t ∧ ∀ c' k, t.group? c' k = s.group? c' k))

/-- The copies that move between the two sides given (R341 to R345): where the registers give a shape, the scratchpad offsets fit, the
checks pass and nothing has to be waited for, the copy issues, or is complete at once when it moves nothing. A failed check stops every
active lane, and a page that nothing is known of makes the group wait. A copy waits for its group's stores (R117), for the atomics
and the store queue of its core (log 28), and so does `cpys` (log 48).
R346: `mcast` copies from global memory to the same offset of the scratchpads of the gangs of its cluster set on the cores it names;
with no core named it moves nothing. That the source is not looked at then, and the offset that a core without a gang of the set
records, are the model's choice (log 76). -/
def Obligations.CopyInstructions : Prop :=
  (
  let law (mk : CopyOp → Instr) (dims : Nat) (fromGlobal toGlobal : Bool) : Prop := ∀ s c k g o, Runs s c k g →
    let w (i : Nat) : Word := g.sreg (o.g.toNat + i)
    let len := (w 0).extractLsb' 30 2
    let bad : Prop := (len ≠ 0#2 ∧ o.q ≠ .sgn ∧ o.q ≠ .ter) ∨ (dims = 3 ∧ (w 2).extractLsb' 16 16 ≠ 0#16)
    let h : CopyShape :=
      { planes := if dims = 3 then ((w 2).extractLsb' 0 16).toNat + 1 else 1,
        rows := if dims = 1 then 1 else ((w 0).extractLsb' 16 14).toNat + 1,
        units := if dims = 1 then ((w 0).extractLsb' 0 30).toNat else ((w 0).extractLsb' 0 16).toNat + 1, q := o.q, len := 16 * 2 ^ len.toNat }
    let side (glob : Bool) (r unit : Nat) : Side :=
      if glob then { scratch := none, base := (g.sreg (r + 1) ++ g.sreg r : BitVec 64).toNat,
                     rowPitch := if dims = 1 then 0 else 16 * ((w 1).extractLsb' 16 16).toNat,
                     planePitch := if dims = 3 then 4096 * ((w 3).extractLsb' 16 16).toNat else 0, unit := unit }
      else { scratch := some (c, g.gang), base := (g.sreg r).toNat,
             rowPitch := if dims = 1 then 0 else ((w 1).extractLsb' 0 16).toNat,
             planePitch := if dims = 3 then 16 * ((w 3).extractLsb' 0 16).toNat else 0, unit := unit }
    let src := side fromGlobal o.s.toNat (unitIn o.q h.len)
    let dst := side toGlobal o.d.toNat (unitOut o.q h.len)
    if bad ∨ (fromGlobal = false ∧ 2 ^ 21 ≤ src.base) ∨ (toGlobal = false ∧ 2 ^ 21 ≤ dst.base) then
      exec (mk o) s = .next (s.setGroup c k g.illegal)
    else
      CopyLaw s c k g (mk o) h src [dst]
  law .cpyin1 1 true false ∧ law .cpyin2 2 true false ∧ law .cpyin3 3 true false ∧ law .cpyout1 1 false true ∧ law .cpyout2 2 false true
  ∧ law .cpyout3 3 false true ∧ law .cpyg 1 true true ∧ law .cpys 1 false false)
  ∧ (
  ∀ s c k g y o, Runs s c k g → s.gang? c g.gang = some y →
    let w (i : Nat) : Word := g.sreg (o.g.toNat + i)
    let base := (g.sreg o.d.toNat).toNat
    let wanted := (List.range 8).filter fun j => (w 1).getLsbD j
    let found := wanted.filterMap fun j => s.setGang c g.gang y j
    let h : CopyShape := { planes := 1, rows := 1, units := if wanted = [] then 0 else ((w 0).extractLsb' 0 30).toNat, q := .none, len := 16 }
    let src : Side := { scratch := none, base := (g.sreg (o.s.toNat + 1) ++ g.sreg o.s.toNat : BitVec 64).toNat,
                        rowPitch := 0, planePitch := 0, unit := 1 }
    let dsts := found.map fun x => ({ scratch := some (x.1, x.2.1), base := base, rowPitch := 0, planePitch := 0, unit := 1 } : Side)
    if (w 0).extractLsb' 30 2 ≠ 0#2 ∨ (w 1).extractLsb' 8 24 ≠ 0#24 ∨ 2 ^ 21 ≤ base then exec (.mcast o) s = .next (s.setGroup c k g.illegal)
    else
      (∀ e, canonFault h .load src = some e → InGroup s c k (.mcast o) fun g' => Raised g g' (active g) (copyEvent g e))
      ∧ (canonFault h .load src = none → found.length < wanted.length → InGroup s c k (.mcast o) fun g' =>
          Raised g g' (active g) (faultEvent g ⟨0x0A, 7, 0⟩ .store 1 base))
      ∧ (canonFault h .load src = none → wanted.length ≤ found.length → CopyLaw s c k g (.mcast o) h src dsts))

/-- R118, R341, R343, R344, R346, R347: a copy that can be performed writes every unit, converted, at its place on each side it is for, later
units over earlier ones, from the source as it stood, but for the bytes that bad data feeds; its entries are released, it is gone from
the operations under way and counted, its ring slot is complete, and no byte elsewhere changes. Where two addresses of a copy to global
memory stand for one module address, the order between them is left open here. That a copy is performed in one step is the model's choice
(log 11), and so are what feeds an element of a code block (log 73) and that no byte of a version area changes with it (log 12). -/
def Obligations.CopyCompletion : Prop :=
  (∀ s id b d (o : EngOp) h src dsts ring, s.actor = .object id b d → s.ops.look id = some o → o.kind = .copy h src dsts ring →
    o.done = 0 → s.copyReady o h src dsts = true →
    let place (x : Side) (p r i : Nat) : Nat := x.base + x.planePitch * p + x.rowPitch * r + i * x.unit
    let good (a i : Nat) : Bool := (feeds h.q h.len i).all fun f => !s.badByte o src (a + f)
    let written (dst : Side) : List (Nat × Byte) :=
      (List.range h.planes).flatMap fun p => (List.range h.rows).flatMap fun r => (List.range h.units).flatMap fun i =>
        let a := place src p r i
        (((convertUnit h.q h.len ((List.range src.unit).map fun j => s.sideByte o src (a + j))).zipIdx.filter fun x => good a x.2).map
          fun x => (place dst p r i + x.2, x.1))
    Completes s .copyComplete fun t => t.ops.look id = none
      ∧ (∀ c e, e ∈ (t.core c).latches → e.2.op ≠ id)
      ∧ ((∀ dst ∈ dsts, dst.scratch ≠ none) → SameMemory s t)
      ∧ ((dsts.Pairwise fun x y => x.scratch.map (·.1) ≠ y.scratch.map (·.1)) → ∀ dst ∈ dsts, ∀ c n y, dst.scratch = some (c, n) →
          s.gang? c n = some y → (t.core c).scratch = (written dst).foldl (fun m x => m.write (148 * y.base + x.1) x.2) (s.core c).scratch)
      ∧ (∀ c, (∀ dst ∈ dsts, dst.scratch.map (·.1) ≠ some c) → (t.core c).scratch = (s.core c).scratch)
      ∧ (∀ dst, dsts = [dst] → dst.scratch = none → Landable s o (written dst) → Landed s t o (written dst))
      ∧ (∀ g, s.group? o.core o.slot = some g → g.launch = o.launch → g.gang = o.gang → o.ctr = .copies →
          ∃ g', t.group? o.core o.slot = some g'
            ∧ g'.copies = (g.copies.map fun x => if x.op = id then { x with done := true } else x).dropWhile (·.done)
            ∧ ((∀ dst ∈ dsts, dst.scratch ≠ none) → { g' with copies := g.copies } = g))
      ∧ (∀ r i y x, ring = some (r, i) → s.gang? o.core o.gang = some y → s.gangGroups o.core o.gang ≠ [] → y.rings.look r = some x →
          (x.recs.get i ⟨.free, false, 0, false, false⟩).state = .filling → 0 < x.slots → x.f < x.slots →
          ∃ y' x', t.gang? o.core o.gang = some y' ∧ y'.rings.look r = some x' ∧ SlotFilled x x' i))
  ∧ (∀ len i, feeds .none len i = [i] ∧ feeds .bf16 len i = [0, 1] ∧ feeds .e4m3 len i = [i / 4, 32] ∧ feeds .e5m2 len i = [i / 4, 32])
  ∧ (∀ len bs, convertUnit .none len bs = bs)
  ∧ (∀ len, ∀ q ∈ [Widen.e4m3, .e5m2], ∀ bs : List Byte, bs.length = 33 → ∀ i, i < 32 →
      DecodedMX (if q = .e4m3 then Sys2Proof.Num.e4m3 else Sys2Proof.Num.e5m2) (bs.getD i 0).toNat (bs.getD 32 0).toNat
        (littleEndian (fun j => (convertUnit q len bs).getD j 0) (4 * i) 4))
  ∧ (∀ len (b0 b1 : Byte), littleEndian (fun j => (convertUnit .bf16 len [b0, b1]).getD j 0) 0 4 =
      if Sys2Proof.Num.decode Sys2Proof.Num.bf16 (ofBytes [b0, b1]) = .nan then 0x7FC00000 else 2 ^ 16 * ofBytes [b0, b1])
  ∧ (∀ q ∈ [Widen.sgn, .ter], ∀ len ∈ [16, 32, 64, 128], ∀ bs : List Byte, DecodedBlock (q == .ter) len (fun i => (bs.getD i 0).toNat)
      fun i => littleEndian (fun j => (convertUnit q len bs).getD j 0) (4 * i) 4)

/-- R43 to R46, R347, R348: an unused ring traps; `rresv` takes the next free slot in its group's turn and gives its slot word; `rpop` takes
the next filled slot likewise, counted as a copy complete at once; `rdone` and `rrel` accept a slot that was reserved by `rresv`, or
is draining, once, and trap otherwise; a group that cannot go on waits in its order. `rpush` takes the next free slot and issues its copy; a
shape whose fields must be 0 and are not, a source that is not canonical, a count beyond the slot and a page that faults stop every active
lane, and the group leaves the order; a page of which nothing is known and what must be performed before make it wait.
R44, R348, R349: a slot that a group has declared done is complete, and filled slots are published in the order of reservation with the
phase of their lap; a released slot is free; the groups are as before (a gang whose groups have all ended may leave its core then, R223). -/
def Obligations.Rings : Prop :=
  (
  let word (x : Ring) (i : Nat) (ph : Bool) : Word :=
    BitVec.ofNat 32 ((if ph then 2 ^ 31 else 0) + i % 256 * 2 ^ 21 + 148 * (x.base + i * x.srows) % 2 ^ 21)
  let succ (x : Ring) (i : Nat) : Nat := if i + 1 < x.slots then i + 1 else 0
  let queued (x : Ring) (k : Nat) (r : Bool) : Ring := if (k, r) ∈ x.waiters then x else { x with waiters := x.waiters ++ [(k, r)] }
  let turn (x : Ring) (k : Nat) (r : Bool) : Prop := (x.waiters.find? fun w => w.2 == r) = none ∨ ∃ b, (x.waiters.find? fun w => w.2 == r) = some (k, b)
  (∀ s c k g y (o : RingSlot), Runs s c k g → s.gang? c g.gang = some y → y.rings.look o.n.toNat = none →
    ∀ i, i ∈ [Instr.rresv o, .rdone o, .rpop o, .rrel o] → exec i s = .next (s.setGroup c k g.illegal))
  ∧ (∀ s c k g y (o : RingSlot) x, Runs s c k g → s.gang? c g.gang = some y → y.rings.look o.n.toNat = some x →
    let n := o.n.toNat
    let set (x' : Ring) : State := s.withGang c g.gang fun z => { z with rings := z.rings.put n x' }
    let slot (i : Nat) : RingSlotRec := x.recs.get i ⟨.free, false, 0, false, false⟩
    let i := ((g.sreg o.r.toNat).extractLsb' 21 8).toNat
    let start (j : Nat) : Nat := 148 * (x.base + j * x.srows)
    ((slot x.p).state = .free → turn x k true → exec (.rresv o) s = .next ((set { x with
        waiters := x.waiters.filter (fun w => w.1 != k), e := x.e - 1, p := succ x x.p,
        lap := (if x.p + 1 < x.slots then x.lap else x.lap + 1),
        recs := x.recs.put x.p { slot x.p with state := .filling, lap := x.lap, pushed := false, marked := false } }).setGroup c k
          { g with sregs := g.sregs.put o.r.toNat (word x x.p false) }))
    ∧ (¬ ((slot x.p).state = .free ∧ turn x k true) → exec (.rresv o) s = .next ((set (queued x k true)).setGroup c k
        { g with phase := .waiting, wait := some (.ringReserve n), clause := { g.clause with redo := true } }))
    ∧ (0 < x.f → turn x k false → ∃ t, exec (.rpop o) s = .next t ∧ t.nextOp = s.nextOp + 1
        ∧ t.gang? c g.gang = some { y with rings := y.rings.put n { x with
            waiters := x.waiters.filter (fun w => w.1 != k), f := x.f - 1, c := succ x x.c,
            recs := x.recs.put x.c { slot x.c with state := .draining, marked := false } } }
        ∧ t.group? c k = some { g with sregs := g.sregs.put o.r.toNat (word x x.c (slot x.c).phase), copies := counted g.copies s.nextOp true }
        ∧ Local s t c k)
    ∧ (¬ (0 < x.f ∧ turn x k false) → exec (.rpop o) s = .next ((set (queued x k false)).setGroup c k
        { g with phase := .waiting, wait := some (.ringAcquire n), clause := { g.clause with redo := true } }))
    ∧ ((i < x.slots ∧ (slot i).state = .filling ∧ (slot i).pushed = false ∧ (slot i).marked = false) →
        ∃ ids, (∀ n, n ∈ ids ↔ ∃ p h src ds r, (n, p) ∈ s.ops ∧ p.core = c ∧ p.slot = k ∧ p.launch = g.launch ∧ p.gang = g.gang
            ∧ p.kind = .copy h src ds r ∧ ∃ z ∈ ds, z.scratch = some (c, g.gang) ∧ z.base < start (i + 1)
              ∧ start i < z.base + z.planePitch * (h.planes - 1) + z.rowPitch * (h.rows - 1) + h.units * z.unit)
          ∧ exec (.rdone o) s = .next (set { x with
            recs := x.recs.put i { slot i with marked := true }, deferred := x.deferred ++ [(⟨false, i, k⟩, ids)] }))
    ∧ (¬ (i < x.slots ∧ (slot i).state = .filling ∧ (slot i).pushed = false ∧ (slot i).marked = false) →
        exec (.rdone o) s = .next (s.setGroup c k g.illegal))
    ∧ ((i < x.slots ∧ (slot i).state = .draining ∧ (slot i).marked = false) →
        ∃ ids, (∀ n, n ∈ ids ↔ ∃ p e, s.ops.look n = some p ∧ p.core = c ∧ p.slot = k ∧ p.launch = g.launch ∧ p.gang = g.gang
            ∧ e ∈ (s.core c).latches ∧ e.2.op = n ∧ e.2.dest = false ∧ e.2.global = false ∧ e.2.gang = g.gang
            ∧ e.2.lo < start (i + 1) ∧ start i < e.2.hi)
          ∧ exec (.rrel o) s = .next (set { x with
            recs := x.recs.put i { slot i with marked := true }, deferred := x.deferred ++ [(⟨true, i, k⟩, ids)] }))
    ∧ (¬ (i < x.slots ∧ (slot i).state = .draining ∧ (slot i).marked = false) → exec (.rrel o) s = .next (s.setGroup c k g.illegal)))
  ∧ (∀ s c k g y (o : RingPush), Runs s c k g → s.gang? c g.gang = some y → y.rings.look o.n.toNat = none →
    exec (.rpush o) s = .next (s.setGroup c k g.illegal))
  ∧ ∀ s c k g y (o : RingPush) x, Runs s c k g → s.gang? c g.gang = some y → y.rings.look o.n.toNat = some x →
    let w := g.sreg o.g.toNat
    let h : CopyShape := { planes := 1, rows := 1, units := (w.extractLsb' 0 30).toNat, q := o.q, len := 16 * 2 ^ (w.extractLsb' 30 2).toNat }
    let bad : Prop := w.extractLsb' 30 2 ≠ 0#2 ∧ o.q ≠ .sgn ∧ o.q ≠ .ter
    let left : Gang := { y with rings := y.rings.put o.n.toNat { x with waiters := x.waiters.filter fun w => w.1 != k } }
    let waits (v : Wait) : Prop := Completes s (.rpush o) fun t => Local s t c k ∧ t.ops = s.ops
      ∧ t.group? c k = some { g with phase := .waiting, wait := some v, clause := { g.clause with redo := true } }
    let lo := 148 * (x.base + x.p * x.srows)
    let src : Side := { scratch := none, base := (g.sreg (o.s.toNat + 1) ++ g.sreg o.s.toNat : BitVec 64).toNat, rowPitch := 0,
                        planePitch := 0, unit := unitIn h.q h.len }
    let dst : Side := { scratch := some (c, g.gang), base := lo, rowPitch := 0, planePitch := 0, unit := unitOut h.q h.len }
    let ls := [sideLatch (s.vdOf g) h src false c, (c, scratchLatch g.gang lo (lo + 148 * x.srows) true false)]
    let free : Prop := (x.recs.get x.p ⟨.free, false, 0, false, false⟩).state = .free ∧ turn x k true
    (bad → exec (.rpush o) s = .next ((s.withGang c g.gang fun _ => left).setGroup c k g.illegal))
    ∧ (¬ bad → ∀ e, canonFault h .load src = some e → ∃ g', exec (.rpush o) s = .next ((s.withGang c g.gang fun _ => left).setGroup c k g')
        ∧ Raised g g' (active g) (copyEvent g e))
    ∧ (¬ bad → canonFault h .load src = none → 148 * x.srows < h.units * unitOut h.q h.len → ∃ g', exec (.rpush o) s = .next ((s.withGang c g.gang fun z => { z with
          rings := z.rings.put o.n.toNat { x with waiters := x.waiters.filter fun w => w.1 != k } }).setGroup c k g')
        ∧ Raised g g' (active g) (faultEvent g ⟨0x0A, 7, 0⟩ .store 1 (lo + 148 * x.srows)))
    ∧ (¬ bad → canonFault h .load src = none → h.units * unitOut h.q h.len ≤ 148 * x.srows →
      (∀ e, s.checkCopy c g h src [dst] = .raise e → Completes s (.rpush o) fun t => Local s t c k ∧ t.ops = s.ops
        ∧ t.gang? c g.gang = some left ∧ ∃ g', t.group? c k = some g' ∧ Raised g g' (active g) (copyEvent g e))
      ∧ (∀ ps, s.checkCopy c g h src [dst] = .miss ps → waits .walk)
      ∧ ∀ pages v, s.checkCopy c g h src [dst] = .ok pages → s.engineWait c g = some v → waits v)
    ∧ ∀ pages, ¬ bad → canonFault h .load src = none → h.units * unitOut h.q h.len ≤ 148 * x.srows →
      s.checkCopy c g h src [dst] = .ok pages → s.engineWait c g = none →
      (h.units ≠ 0 → s.latchesOk ls = true → free → Completes s (.rpush o) fun t =>
        Issued s t c k g (.copy h src [dst] (some (o.n.toNat, x.p))) .copies pages ls []
        ∧ ∃ y' x', t.gang? c g.gang = some y' ∧ y'.rings.look o.n.toNat = some x' ∧ x'.p = succ x x.p ∧ x'.e = x.e - 1
          ∧ (x'.recs.get x.p ⟨.free, false, 0, false, false⟩).state = .filling
          ∧ (x'.recs.get x.p ⟨.free, false, 0, false, false⟩).pushed = true)
      ∧ (h.units = 0 → free → 0 < x.slots → x.f < x.slots → x.p < x.slots → Completes s (.rpush o) fun t => t.ops = s.ops
        ∧ t.group? c k = some { g with copies := counted g.copies s.nextOp true } ∧ Local s t c k
        ∧ ∃ y' x', t.gang? c g.gang = some y' ∧ y'.rings.look o.n.toNat = some x' ∧ x'.p = succ x x.p ∧ x'.e = x.e - 1
          ∧ ((x.c + x.f) % x.slots = x.p → x.f < x'.f ∧ (x'.recs.get x.p ⟨.free, false, 0, false, false⟩).state = .filled)
          ∧ ((x.c + x.f) % x.slots ≠ x.p → (x'.recs.get x.p ⟨.free, false, 0, false, false⟩).state ∈ [.complete, .filled]))
      ∧ (h.units ≠ 0 → s.latchesOk ls = false → free → Completes s (.rpush o) fun t => Local s t c k ∧ t.ops = s.ops
        ∧ t.group? c k = some { g with phase := .waiting, wait := some (.latch ls), clause := { g.clause with redo := true } })
      ∧ (¬ free → Completes s (.rpush o) fun t => Local s t c k
        ∧ t.group? c k = some { g with phase := .waiting, wait := some (.ringReserve o.n.toNat), clause := { g.clause with redo := true } }))
  ∧ (
  ∀ s c n r y x (d : Deferred) ids rest, s.actor = .object c n r → s.gang? c n = some y → y.rings.look r = some x →
    x.deferred = (d, ids) :: rest → (∀ i ∈ ids, s.ops.look i = none) →
    let slot (i : Nat) : RingSlotRec := x.recs.get i ⟨.free, false, 0, false, false⟩
    let freed : Ring := { x with deferred := rest, e := x.e + 1, recs := x.recs.put d.slot { slot d.slot with state := .free, marked := false } }
    s.gangGroups c n ≠ [] →
    (d.release = true → (slot d.slot).state = .draining → Completes s .rrelTakeEffect fun t =>
        SameMemory s t ∧ SameScratch s t ∧ (∀ c' k, t.group? c' k = s.group? c' k)
        ∧ t.gang? c n = some { y with rings := y.rings.put r freed })
    ∧ (d.release = false → (slot d.slot).state = .filling → 0 < x.slots → x.f < x.slots → Completes s .rdoneTakeEffect fun t =>
        SameMemory s t ∧ SameScratch s t ∧ (∀ c' k, t.group? c' k = s.group? c' k)
        ∧ ∃ y' x', t.gang? c n = some y' ∧ y'.rings.look r = some x' ∧ x'.deferred = rest ∧ SlotFilled x x' d.slot))

/-! ## Fabric instructions, barriers, launches (spec/06, /08, /10, /14) -/

/-- R352, R353, R10, R117, R128, R351: the six instructions that move data over the fabric: their operands, the illegal ones, the
fabric-address fault, and, where every check passes and nothing is waited for, the operation that leaves for the target's rank with the
bytes of its source, or completes with status 2 where there is no route. A transfer of no bytes that carries no signal is complete at
once. It waits for its group's stores, and for the atomics and the store queue of its core (log 28), for its latch entries (R119, R125), and
for a locked line of its route's entry or of its source (R78, R415); its source is read when it issues (log 32). The address, kind and space of its faults are log 34, and that a transfer of no bytes checks its local address is log 35.
R131, R362, R363, R356: `winq` writes the window and the lag; `jfence` waits for the group's loads and stores, empties the L1, waits for
the second window after the present one, empties the L1 again, and takes a remote fault that is recorded. As a release it covers what the
other groups of its core have done (log 28). -/
def Obligations.FabricInstructions : Prop :=
  (
  let law (mk : FabricOp → Instr) (opcode : Nat) (kind : Access) (unit : Nat) : Prop := ∀ s c k g o, Runs s c k g →
    let isGet : Bool := decide (opcode = 0x12)
    let isSig : Bool := decide (opcode = 0x11)
    let pair (r : BitVec 6) : DWord := g.sreg (r.toNat + 1) ++ g.sreg r.toNat
    let w := g.sreg o.g.toNat
    let a : FabArgs := { fab := pair (if isGet then o.s else o.d), loc := (pair (if isGet then o.d else o.s)).toNat,
                         size := (w.extractLsb' 0 30).toNat, sop := (w.extractLsb' 30 2).toNat, value := g.sreg (o.g.toNat + 1),
                         sig := g.sreg (o.g.toNat + 3) ++ g.sreg (o.g.toNat + 2) }
    let rank (x : DWord) : Nat := (x.extractLsb' 48 16).toNat
    let off (x : DWord) : Nat := (x.extractLsb' 0 48).toNat
    let vd := s.vdOf g
    let d := s.device vd
    let reach (x : DWord) (n : Nat) : Prop := ∃ j, d.job = some j ∧ rank x ≤ j.last ∧ (n = 0 ∨ off x + n ≤ 2 ^ j.wlog)
    let illegal : Prop := if isSig then a.sop = 3 ∨ rank a.sig ≠ rank a.fab ∨ (a.sop = 2 ∧ (a.value = 0 ∨ 2 ^ 16 ≤ a.value.toNat))
      else a.sop ≠ 0
    let sigBytes : Nat := if a.sop = 2 then 16 else 4
    let aligned : Prop := (unit ≠ 1 → a.size % unit = 0 ∧ off a.fab % unit = 0 ∧ a.loc % unit = 0) ∧ (isSig = true → off a.sig % sigBytes = 0)
    let local? : Option Raise := localBad (if isGet then .store else .load) a.loc a.size
    let side : Access := if isGet then .store else .load
    let waits (w : Wait) : Prop := Completes s (mk o) fun t => Local s t c k ∧ t.ops = s.ops ∧ t.wire = s.wire ∧ t.outbox = s.outbox
      ∧ t.group? c k = some { g with phase := .waiting, wait := some w, clause := { g.clause with redo := true } }
    (illegal → exec (mk o) s = .next (s.setGroup c k g.illegal))
    ∧ (¬ illegal → ¬ aligned → ∃ info addr, InGroup s c k (mk o) fun g' =>
        Raised g g' (active g) (trapEvent g .alignment info addr g.clause.idx (g.clause.idx + g.clause.len)))
    ∧ (¬ illegal → aligned → ¬ reach a.fab a.size → InGroup s c k (mk o) fun g' =>
        Raised g g' (active g) (faultEvent g ⟨0x0C, 7, 0⟩ kind 4 a.fab.toNat))
    ∧ (¬ illegal → aligned → reach a.fab a.size → isSig = true → ¬ reach a.sig sigBytes → InGroup s c k (mk o) fun g' =>
        Raised g g' (active g) (faultEvent g ⟨0x0C, 7, 0⟩ kind 4 a.sig.toNat))
    ∧ (¬ illegal → aligned → reach a.fab a.size → (isSig = true → reach a.sig sigBytes) →
        (∀ e, local? = some e → InGroup s c k (mk o) fun g' => Raised g g' (active g) (copyEvent g e))
        ∧ (local? = none → ∀ ps, s.translateGroup c g side a.loc a.size = .miss ps → waits .walk)
        ∧ (local? = none → ∀ f b, s.translateGroup c g side a.loc a.size = .fault f b → Completes s (mk o) fun t => Local s t c k
            ∧ t.ops = s.ops ∧ ∃ g', t.group? c k = some g' ∧ Raised g g' (active g) (faultEvent g f side 0 b))
        ∧ (local? = none → ∀ ps, s.translateGroup c g side a.loc a.size = .ok ps →
          (∀ w, s.engineWait c g = some w → waits w)
          ∧ (s.engineWait c g = none → a.size = 0 → isSig = false → Completes s (mk o) fun t => Local s t c k ∧ t.ops = s.ops
              ∧ t.nextOp = s.nextOp + 1 ∧ t.group? c k = some { g with copies := counted g.copies s.nextOp true })
          ∧ (s.engineWait c g = none → (a.size ≠ 0 ∨ isSig = true) →
            let ls := if a.size = 0 then [] else [(c, globalLatch vd a.loc (a.loc + a.size) isGet)]
            (s.latchesOk ls = false → waits (.latch ls))
            ∧ (s.latchesOk ls = true → ∀ line, s.routeHeld vd (rank a.fab) = some line → waits (.line line))
            ∧ (s.latchesOk ls = true → s.routeHeld vd (rank a.fab) = none → isGet = false → ∀ line, s.lockedIn ps = some line →
                waits (.line line))
            ∧ (s.latchesOk ls = true → s.routeHeld vd (rank a.fab) = none → (isGet = true ∨ s.lockedIn ps = none) →
              let x : FabOp := { id := s.nextOp, from? := some vd, src := (d.job.map (·.rank)).getD 0, dst := rank a.fab,
                                 window := d.window, vd := 0, off := off a.fab,
                                 kind := fabKind opcode (if isGet then [] else s.homeBytes ps) a, forwarded := false }
              Completes s (mk o) fun t =>
                Issued s t c k g (.fabric opcode a.fab x.dst a.loc a.size (if isSig then some (a.sop, a.value.toNat, off a.sig) else none)) .copies (ps.map (·.page)).eraseDups ls []
                ∧ Sent s t vd x))))
  law .put 0x10 .store 1 ∧ law .putsig 0x11 .store 1 ∧ law .get 0x12 .load 1 ∧ law .raddF32 0x13 .atomic 4 ∧ law .rmaxF32 0x14 .atomic 4
  ∧ law .rsmx 0x15 .atomic 16)
  ∧ (
  (∀ s c k g r, Runs s c k g → InGroup s c k (.winq r) fun g' =>
    let d := s.device (s.vdOf g)
    let nominal := winAdd d.wFirst ((s.ptp - d.wStart) / d.wLen : Nat)
    let lag : Word := if s.ptp < d.wStart then 0
      else if winLe d.window nominal then BitVec.ofNat 32 nominal - BitVec.ofNat 32 d.window else 0
    g' = { g with sregs := (g.sregs.put r.toNat (BitVec.ofNat 32 d.window)).put (r.toNat + 1) lag })
  ∧ ∀ s c k g, Runs s c k g →
    let cur := (s.device (s.vdOf g)).window
    let bare : State := s.withCore c fun x => { x with l1 := [] }
    let waits (g0 : Group) (m : Nat) : Group := { g0 with phase := .waiting, wait := some (.fence m), clause := { g.clause with redo := true } }
    let ready : Prop := g.loads = [] ∧ g.stores = [] ∧ CoreQuiet s c True
    let g1 : Group := { g with fenced := g.fenced ||| g.clause.active }
    (¬ ready → WaitsAgain s c k g .jfence)
    ∧ (ready → g.stage = 0 →
        exec .jfence s = .next (bare.setGroup c k (waits { g1 with stage := (cur + 2) % 2 ^ 32 + 1 } ((cur + 2) % 2 ^ 32))))
    ∧ (ready → ∀ m, g.stage = m + 1 → winLe m cur = false → exec .jfence s = .next (s.setGroup c k (waits g m)))
    ∧ (ready → ∀ m, g.stage = m + 1 → winLe m cur = true →
        (g.remote = none → exec .jfence s = .next (bare.setGroup c k g1))
        ∧ ∀ r, g.remote = some r → ∃ g', exec .jfence s = .next (bare.setGroup c k g')
            ∧ Raised g1 g' (active g) (trapEvent g .remote r.info r.addr g.clause.idx (g.clause.idx + g.clause.len))))

/-- R175 to R177, R277, R278: `bar` is illegal in trap mode, and its handle must name an entry of an installed table. An arrival at an
on-chip barrier that does not complete it makes the group wait behind the instruction; the arrival that completes it frees the barrier
and every group of the gang that waits on it; a count that disagrees with the arrivals before is a handle fault. An entry of a hasp is
read once, when no request of the group is on its way (log 28); the arrival is a release (log 28) and waits for a locked line (R78), a record that is no hasp of the device or expects nobody is a handle fault; the arrival
that moves the phase goes on with an empty L1, and any other makes the group wait for the phase that it returned. A group that ends
may complete a barrier.
R222, R281: `launch` refuses an address that is not canonical or not a multiple of 16; it is a release (log 28); it copies the packet,
waits for room with that copy, and appends it, with its priority at most the launch's own, to the device's launch queue. -/
def Obligations.BarriersAndLaunches : Prop :=
  (
  (∀ s c k g (r : BitVec 6), Runs s c k g → g.object = none →
    let h := g.sreg r.toNat
    let btab := (s.device (s.vdOf g)).fabric.get 0x20 0
    let entry := (btab &&& ~~~0xFFF#64).toNat + 16 * h.toNat
    let handle (g' : Group) : Prop := Raised g g' (active g) (trapEvent g .handle (h &&& 0xFF#32) 0 g.clause.idx (g.clause.idx + g.clause.len))
    let faults (P : Group → Prop) : Prop := Completes s (.bar r) fun t => Local s t c k ∧ ∃ g', t.group? c k = some g' ∧ P g'
    let waits (w : Wait) : Prop := faults fun g' =>
      g' = { g with phase := .waiting, wait := some w, clause := { g.clause with redo := true } }
    (g.activeTrap = true → exec (.bar r) s = .next (s.setGroup c k g.illegal))
    ∧ (g.activeTrap = false → 256 ≤ h.toNat ∨ btab.getLsbD 0 = false → InGroup s c k (.bar r) handle)
    ∧ (g.activeTrap = false → h.toNat < 256 → btab.getLsbD 0 = true → ¬ GroupQuiet s c k → WaitsAgain s c k g (.bar r))
    ∧ (g.activeTrap = false → h.toNat < 256 → btab.getLsbD 0 = true → GroupQuiet s c k →
      (∀ ps, s.translateGroup c g .load entry 16 = .miss ps → waits .walk)
      ∧ (∀ f b, s.translateGroup c g .load entry 16 = .fault f b → faults fun g' => Raised g g' (active g) (faultEvent g f .load 0 b))
      ∧ ∀ ps y, s.translateGroup c g .load entry 16 = .ok ps → s.gang? c g.gang = some y →
        (∀ line, s.lockedIn ps = some line → waits (.line line))
        ∧ (s.lockedIn ps = none →
          let bs := s.homeBytes ps
          let e := barEntry (ofBytes (bs.take 8)) (ofBytes ((bs.drop 8).take 8)) y.created
          (e = none → faults handle)
          ∧ ∀ cnt b, e = some (false, cnt, b) →
            let x := y.bars.get b ⟨0, 0⟩
            let need := if (if x.arrivals = 0 then cnt else x.expect) = 0 then (s.gangGroups c g.gang).length
              else if x.arrivals = 0 then cnt else x.expect
            (x.arrivals ≠ 0 → cnt ≠ x.expect → faults handle)
            ∧ ((x.arrivals = 0 ∨ cnt = x.expect) → x.arrivals + 1 < need → Completes s (.bar r) fun t => Local s t c k
                ∧ t.group? c k = some { g with phase := .waiting, wait := some (.barrier b) }
                ∧ t.gang? c g.gang = some { y with bars := y.bars.put b ⟨x.arrivals + 1, if x.arrivals = 0 then cnt else x.expect⟩ })
            ∧ ((x.arrivals = 0 ∨ cnt = x.expect) → need ≤ x.arrivals + 1 → Completes s (.bar r) fun t => SameMemory s t ∧ SameScratch s t
                ∧ t.group? c k = some { g with phase := .resident, wait := none }
                ∧ (∀ k' g1, k' ≠ k → s.group? c k' = some g1 → t.group? c k' = some (
                    if g1.gang = g.gang ∧ g1.wait = some (.barrier b) then
                      { g1 with wait := none, phase := if g1.phase = .waiting then .resident else g1.phase } else g1))
                ∧ (∀ c' k', c' ≠ c → t.group? c' k' = s.group? c' k')
                ∧ ∃ y', t.gang? c g.gang = some y' ∧ (y'.bars.get b ⟨0, 0⟩).arrivals = 0))))
  ∧ (∀ s c k g (r : BitVec 6) va, Runs s c k g → g.activeTrap = false →
    let h := g.sreg r.toNat
    let v := s.vdOf g
    let btab := (s.device v).fabric.get 0x20 0
    let ready : Prop := g.loads = [] ∧ g.stores = [] ∧ CoreQuiet s c True
    let g0 : Group := { g with object := some va }
    let leaves (P : Group → Prop) : Prop := Completes s (.bar r) fun t => Local s t c k ∧ ∃ g', t.group? c k = some g' ∧ P g'
    let handle (g' : Group) : Prop := Raised g0 g' (active g) (trapEvent g .handle (h &&& 0xFF#32) 0 g.clause.idx (g.clause.idx + g.clause.len))
    (g.object = none → h.toNat < 256 → btab.getLsbD 0 = true → GroupQuiet s c k → ∀ ps y,
      s.translateGroup c g .load ((btab &&& ~~~0xFFF#64).toNat + 16 * h.toNat) 16 = .ok ps → s.lockedIn ps = none →
      s.gang? c g.gang = some y →
      barEntry (ofBytes ((s.homeBytes ps).take 8)) (ofBytes (((s.homeBytes ps).drop 8).take 8)) y.created = some (true, 0, va) →
      ∃ s', exec (.bar r) s = exec (.bar r) s' ∧ Runs s' c k g0 ∧ Local s s' c k ∧ s'.ops = s.ops ∧ s'.requests = s.requests)
    ∧ (g.object = some va →
    (¬ ready → leaves fun g' => g'.phase = .waiting ∧ g'.clause.redo = true
        ∧ { g' with phase := g.phase, wait := g.wait, clause := g.clause } = g0 ∧ { g'.clause with redo := g.clause.redo } = g.clause)
    ∧ (ready → ∀ ps, s.translateGroup c g .atomic va 16 = .miss ps → leaves fun g' =>
        g' = { g0 with phase := .waiting, wait := some .walk, clause := { g.clause with redo := true } })
    ∧ (ready → ∀ f b, s.translateGroup c g .atomic va 16 = .fault f b → leaves fun g' => Raised g0 g' (active g) (faultEvent g f .atomic 0 b))
    ∧ (ready → ∀ ps, s.translateGroup c g .atomic va 16 = .ok ps →
        (s.haspAddr v va ps = none → leaves handle)
        ∧ (∀ a line, s.haspAddr v va ps = some a → s.lockedIn ps = some line → leaves fun g' =>
            g' = { g0 with phase := .waiting, wait := some (.line line), clause := { g.clause with redo := true } })
        ∧ ∀ a, s.haspAddr v va ps = some a → s.lockedIn ps = none →
          let x := s.hasp a
          let part := s.partOf g
          (x.owned v part = false ∨ x.expected = 0 → leaves handle)
          ∧ (x.owned v part = true → x.expected ≠ 0 → s.mem.wf = true → Completes s (.bar r) fun t => SameScratch s t
              ∧ t.hasp a = (x.arrive 1 v part).2.2
              ∧ (∀ b, (b < a ∨ a + 16 ≤ b → t.mem.read b = s.mem.read b) ∧ t.host.read b = s.host.read b ∧ t.store.read b = s.store.read b)
              ∧ (x.expected ≤ x.arrived + 1 → g.wait = none → (t.core c).l1 = []
                  ∧ ∃ g', t.group? c k = some g' ∧ { g' with lanes := g.lanes } = g0)
              ∧ (x.arrived + 1 < x.expected → WardRoom s → (∃ g', t.group? c k = some g' ∧ { g' with lanes := g.lanes } =
                    { g0 with phase := .waiting, wait := some (.hasp a (BitVec.ofNat 32 x.phase) false) })
                  ∧ ∃ w ∈ (t.slice (sliceOf (a / 128))).wards, w.line = a / 128 ∧ .group c k ∈ w.waiters)))))
  ∧ ∀ s c k b g y, s.actor = .object c k b → s.group? c k = some g → g.clauseOver = true →
    (g.complete (s.device (s.vdOf g)).handler).exitedSet = BitVec.allOnes 32 → s.gang? c g.gang = some y → Rising (s.core c).groups →
    let left := (s.gangGroups c g.gang).length - 1
    let full (j : Nat) : Prop := let x := y.bars.get j ⟨0, 0⟩
      x.arrivals ≠ 0 ∧ (if x.expect = 0 then left else x.expect) ≤ x.arrivals
    s.completionHeld c k g = false →
    Completes s .clauseComplete fun t => t.group? c k = none ∧ ∀ k' g1, k' ≠ k → s.group? c k' = some g1 →
      (∀ j, j < 16 → g1.gang = g.gang → g1.wait = some (.barrier j) → full j → t.group? c k' = some
        { g1 with wait := none, phase := if g1.phase = .waiting then .resident else g1.phase })
      ∧ ((∀ j, j < 16 → g1.gang = g.gang → g1.wait = some (.barrier j) → ¬ full j) → t.group? c k' = some g1))
  ∧ (
  ∀ s c k g (r : BitVec 6), Runs s c k g →
    let q := (g.sreg (r.toNat + 1) ++ g.sreg r.toNat : BitVec 64).toNat
    let v := s.vdOf g
    let ready : Prop := g.loads = [] ∧ g.stores = [] ∧ CoreQuiet s c True
    let leaves (P : Group → Prop) : Prop := Completes s (.launch r) fun t => Local s t c k
      ∧ (t.device v).launchQueue = (s.device v).launchQueue ∧ ∃ g', t.group? c k = some g' ∧ P g'
    let waits (w : Wait) : Prop := leaves fun g' => g' = { g with phase := .waiting, wait := some w, clause := { g.clause with redo := true } }
    let lowered (b : List Byte) (l : Launch) : List Byte :=
      b.set 0x0E (BitVec.ofNat 8 (min (ofBytes ((b.drop 0x0E).take 1)) (ofBytes ((l.pkt.drop 0x0E).take 1))))
    let second (ps : List Piece) : Nat × Nat := ((q + 0x180) % 2 ^ 64, 16 * min (ofBytes (((s.homeBytes ps).drop 0x80).take 2)) 32)
    (g.copied ≠ [] →
      (64 ≤ (s.device v).launchQueue.length → Waits s c k g (.launch r) .launchQueue)
      ∧ ((s.device v).launchQueue.length < 64 → ∀ l, s.launches.look g.launch = some l →
          exec (.launch r) s = .next (s.withDevice v fun d => { d with launchQueue := d.launchQueue ++ [lowered g.copied l] })))
    ∧ (g.copied = [] →
      (canonical q = false → InGroup s c k (.launch r) fun g' => Raised g g' (active g) (faultEvent g ⟨1, 7, 0⟩ .load 0 q))
      ∧ (canonical q = true → q % 16 ≠ 0 → exec (.launch r) s = .next (s.setGroup c k g.illegal))
      ∧ (canonical q = true → q % 16 = 0 → ¬ ready → WaitsAgain s c k g (.launch r))
      ∧ (canonical q = true → q % 16 = 0 → ready →
        (∀ ms, s.translateGroup c g .load q 0x180 = .miss ms → waits .walk)
        ∧ (∀ f b, s.translateGroup c g .load q 0x180 = .fault f b → leaves fun g' => Raised g g' (active g) (faultEvent g f .load 0 b))
        ∧ ∀ ps, s.translateGroup c g .load q 0x180 = .ok ps →
          (∀ ms, s.translateGroup c g .load (second ps).1 (second ps).2 = .miss ms → waits .walk)
          ∧ (∀ f b, s.translateGroup c g .load (second ps).1 (second ps).2 = .fault f b →
              leaves fun g' => Raised g g' (active g) (faultEvent g f .load 0 b))
          ∧ ∀ qs, s.translateGroup c g .load (second ps).1 (second ps).2 = .ok qs →
            (∀ line, s.lockedIn (ps ++ qs) = some line → waits (.line line))
            ∧ (s.lockedIn (ps ++ qs) = none →
              let b := s.homeBytes (ps ++ qs)
              (64 ≤ (s.device v).launchQueue.length → leaves fun g' =>
                g' = { g with copied := b, phase := .waiting, wait := some .launchQueue, clause := { g.clause with redo := true } })
              ∧ ((s.device v).launchQueue.length < 64 → ∀ l, s.launches.look g.launch = some l → Completes s (.launch r) fun t =>
                  Local s t c k ∧ t.group? c k = some g ∧ OtherDevices s t v
                  ∧ (t.device v).launchQueue = (s.device v).launchQueue ++ [lowered b l])))))

/-! ## Hinge instructions (spec/14) -/

/-- R370, R371, R372, R381: the register and branch instructions of a channel: targets are relative to the word, immediates are
sign-extended, `loop` counts down, and the other registers and buffers stay; `len` above 4,096 and `sel` of a port that the partition
does not own end the program. -/
def Obligations.HingeRegisters : Prop :=
  (∀ x : Word, hingeFieldsOf x = { a := x.extractLsb' 22 4, b := x.extractLsb' 18 4, c := x.extractLsb' 14 4, imm := x.extractLsb' 0 14 })
  ∧ ∀ s h n ch w, OnHinge s h n ch w →
    let r (i : BitVec 4) : DWord := ch.x.get i.toNat 0
    let imm : DWord := w.imm.signExtend 64
    let goes (i : Instr) (x : Tab DWord) (pc : DWord) : Prop := ChannelBecomes s h n i { ch with x := x, pc := pc, word := none, wait := none }
    let sets (i : Instr) (v : DWord) : Prop := goes i (ch.x.put w.a.toNat v) (ch.pc + 4)
    goes .hingeBr ch.x (ch.pc + 4 * imm)
    ∧ goes .hingeBnz ch.x (if r w.a ≠ 0 then ch.pc + 4 * imm else ch.pc + 4)
    ∧ goes .hingeLoop (ch.x.put w.a.toNat (r w.a - 1)) (if r w.a = 1 then ch.pc + 4 else ch.pc + 4 * imm)
    ∧ sets .hingeMovi imm ∧ sets .hingeAdd (r w.b + r w.c) ∧ sets .hingeAddi (r w.b + imm) ∧ sets .hingeMuli (r w.b * imm)
    ∧ sets .hingeShli (r w.b <<< (w.imm.toNat % 64)) ∧ goes .hingeNop ch.x (ch.pc + 4)
    ∧ (if 4096 < (r w.a).toNat then Completes s .hingeLen (Fails s h n ch 4 0)
       else ChannelBecomes s h n .hingeLen { nextWord ch with blen := (r w.a).toNat })
    ∧ (w.imm.toNat < 5 → if w.imm.toNat < 4 ∧ s.portOwned ch.part h w.imm.toNat = false then Completes s .hingeSel (Fails s h n ch 9 0)
       else ChannelBecomes s h n .hingeSel { nextWord ch with port := w.imm.toNat })

/-- R377, R378: the buffer arithmetic of a channel, entry by entry over its first LEN entries: rounded sums, the greater of two signed
entries, sums, the greatest exponent of each 32, alignment to an exponent and the conversion back. Those of exact mode need a LEN that
is a multiple of 32; an entry too large for its exponent ends the program. Where the destination holds the exponents, the entries are
taken one after another (log 46). -/
def Obligations.HingeArithmetic : Prop :=
  ∀ s h n ch w, OnHinge s h n ch w →
    let e (b : BitVec 4) (i : Nat) : DWord := bufEntry ch b i
    let low (b : BitVec 4) (i : Nat) : Nat := (e b i).toNat % 2 ^ 32
    let f32 := Sys2Proof.Num.f32
    let sum (a b : Nat) : Nat := Sys2Proof.Num.encode f32 (Sys2Proof.Num.round f32 .ne
      (Sys2Proof.Num.add .ne (Sys2Proof.Num.decode f32 a) (Sys2Proof.Num.decode f32 b)).1).val
    let exps (out : Nat → DWord) (i : Nat) : DWord := if w.a = w.c ∧ i ≠ 0 then out (i / 32) else e w.c (i / 32)
    BufferWritten s h n ch .hingeFadd w.a ch.blen (fun i => BitVec.ofNat 64 (sum (low w.b i) (low w.c i)))
    ∧ BufferWritten s h n ch .hingeImax w.a ch.blen (fun i => if (e w.b i).toInt < (e w.c i).toInt then e w.c i else e w.b i)
    ∧ BufferWritten s h n ch .hingeIadd w.a ch.blen (fun i => e w.b i + e w.c i)
    ∧ (ch.blen % 32 ≠ 0 → ∀ i, i ∈ [Instr.hingeEmax, .hingeAlign, .hingeCvtb] → Completes s i (Fails s h n ch 4 0))
    ∧ (ch.blen % 32 = 0 →
        (∃ m : Nat → Nat, (∀ j, (∀ i, i < 32 → ((e w.b (32 * j + i)).extractLsb' 23 8).toNat ≤ m j)
              ∧ ∃ i, i < 32 ∧ m j = ((e w.b (32 * j + i)).extractLsb' 23 8).toNat)
            ∧ BufferWritten s h n ch .hingeEmax w.a (ch.blen / 32) fun j => BitVec.ofNat 64 (m j))
        ∧ (∃ out, (∀ i, i < ch.blen → out i = convertedBack (e w.b i) (exps out i)) ∧ BufferWritten s h n ch .hingeCvtb w.a ch.blen out)
        ∧ (∀ out, (∀ i, i < ch.blen → Aligned (e w.b i) (exps out i) (some (out i))) → BufferWritten s h n ch .hingeAlign w.a ch.blen out)
        ∧ (w.a ≠ w.c → (∃ i, i < ch.blen ∧ Aligned (e w.b i) (e w.c (i / 32)) none) → Completes s .hingeAlign (Fails s h n ch 7 0)))

/-- R373, R376, R377: loads, stores and the codes of a channel: an access that is not aligned or has no translation ends the program with
status 2, a locked line makes the channel try again, and else the bytes move: `ld` to a register, `bld` and `dec` to the first LEN
entries of a buffer, `bst` from them, and `cmpr` writes a block's code and its new residuals and leaves the decoded values. A code block
may stand at any address (log 38). A line keeps its older versions beside its bytes, which change where the access writes and nowhere else
(log 12). -/
def Obligations.HingeMemory : Prop :=
  ∀ s h n ch w, OnHinge s h n ch w →
    let r (i : BitVec 4) : DWord := ch.x.get i.toNat 0
    let l := 16 * 2 ^ (ch.len % 4)
    let ter := ch.form == 2
    let bs := Sys2Proof.Num.blockBytes ter l
    let ends (i : Instr) (kind : Access) (va bytes z : Nat) : Prop :=
      let tr := channelPieces s h ch.vd kind va bytes
      (bytes ≠ 0 → va % z ≠ 0 → Completes s i (Fails s h n ch 2 0))
      ∧ (bytes = 0 ∨ va % z = 0 → ∀ f b, tr = .fault f b → Completes s i (Fails s h n ch 2 f.code))
      ∧ (bytes = 0 ∨ va % z = 0 → ∀ ps line, tr = .ok ps → s.lockedIn ps = some line → exec i s = .next s)
      ∧ (bytes = 0 ∨ va % z = 0 → ∀ ms, tr = .miss ms → exec i s = .next s)
    let free (kind : Access) (va bytes z : Nat) (ps : List Piece) : Prop :=
      (bytes = 0 ∨ va % z = 0) ∧ channelPieces s h ch.vd kind va bytes = .ok ps ∧ s.lockedIn ps = none
    let num (ps : List Piece) (i z : Nat) : Nat := littleEndian (fun j => (s.homeBytes ps).getD j 0) (z * i) z
    let va := (r w.b).toNat
    (let a := (r w.b + 8 * w.imm.signExtend 64).toNat
     ends .hingeLd .load a 8 8
     ∧ ∀ ps, free .load a 8 8 ps → ChannelAfter s h n .hingeLd { nextWord ch with x := ch.x.put w.a.toNat (BitVec.ofNat 64 (num ps 0 8)) })
    ∧ (∀ i z, (i = Instr.hingeBld ∧ z = 4) ∨ (i = Instr.hingeBldW ∧ z = 8) →
        ends i .load va (z * ch.blen) z
        ∧ ∀ ps, free .load va (z * ch.blen) z ps → BufferLoaded s h n ch i w.a ch.blen fun j => BitVec.ofNat 64 (num ps j z))
    ∧ (∀ i z, (i = Instr.hingeBst ∧ z = 4) ∨ (i = Instr.hingeBstW ∧ z = 8) →
        ends i .store va (z * ch.blen) z
        ∧ (∀ ps, free .store va (z * ch.blen) z ps → Completes s i fun t => t.channel? h n = some (nextWord ch)
            ∧ (∀ x, (∀ p ∈ ps, ¬ (p.addr ≤ x ∧ x < p.addr + p.n)) →
                t.mem.read x = s.mem.read x ∧ t.host.read x = s.host.read x ∧ t.store.read x = s.store.read x)
            ∧ (FormedMemory s → Placed s t (placing ps ((List.range (z * ch.blen)).map fun j =>
                BitVec.ofNat 8 ((bufEntry ch w.a (j / z)).toNat / 256 ^ (j % z)))))))
    ∧ ((ch.compressed = false → Completes s .hingeDec (Fails s h n ch 1 0) ∧ Completes s .hingeCmpr (Fails s h n ch 1 0))
       ∧ (ch.compressed = true → ch.blen % l ≠ 0 → Completes s .hingeDec (Fails s h n ch 4 0)))
    ∧ (ch.compressed = true → ch.blen % l = 0 →
        ends .hingeDec .load va (bs * (ch.blen / l)) 1
        ∧ ∀ ps, free .load va (bs * (ch.blen / l)) 1 ps → ∃ f : Nat → DWord, BufferLoaded s h n ch .hingeDec w.a ch.blen f
            ∧ ∀ j, j < ch.blen / l → DecodedBlock ter l (fun i => ((s.homeBytes ps).getD (bs * j + i) 0).toNat) fun i => (f (l * j + i)).toNat)
    ∧ ∀ obj count, ch.compressed = true → ch.obj = some (obj, count) →
        let e := (r w.c).toNat
        let f32 := Sys2Proof.Num.f32
        let rounded (x : Sys2Proof.Num.Fp) : Nat := Sys2Proof.Num.encode f32 (Sys2Proof.Num.round f32 .ne x).val
        let val (x : Nat) : Sys2Proof.Num.Fp := Sys2Proof.Num.decode f32 x
        (ch.blen % l ≠ 0 → Completes s .hingeCmpr (Fails s h n ch 4 0))
        ∧ (ch.blen % l = 0 → count < e + ch.blen → Completes s .hingeCmpr (Fails s h n ch 5 0))
        ∧ (ch.blen = l → e + l ≤ count → FormedMemory s →
            ∀ ps qs, free .store (r w.a).toNat bs 1 ps → free .store (obj + 256 + 4 * e) (4 * l) 4 qs →
            ∃ x code d left : Nat → Nat,
              (∀ i, i < l → x i = rounded (Sys2Proof.Num.add .ne (val ((bufEntry ch w.b i).toNat % 2 ^ 32)) (val (num qs i 4))).1)
              ∧ CompressedBlock ter l w.imm.toNat x code ∧ DecodedBlock ter l code d
              ∧ (∀ i, i < l → left i = rounded (Sys2Proof.Num.sub .ne (val (x i)) (val (d i))).1)
              ∧ Completes s .hingeCmpr fun t =>
                Placed s t (placing ps ((List.range bs).map fun i => BitVec.ofNat 8 (code i))
                  ++ placing qs ((List.range (4 * l)).map fun i => BitVec.ofNat 8 (left (i / 4) / 256 ^ (i % 4))))
                ∧ ∃ ch', t.channel? h n = some ch' ∧ (∀ j, bufEntry ch' w.b j = if j < l then BitVec.ofNat 64 (d j) else bufEntry ch w.b j)
                  ∧ (∀ b j, b ≠ w.b → bufEntry ch' b j = bufEntry ch b j) ∧ { ch' with bufs := ch.bufs } = nextWord ch)

/-- R374, R172, R173: `arrive` and `await` name a record; an address without a translation ends the program with status 2, one that names no
record with status 3, and a locked line is waited for. An arrival that the record accepts goes on; one that goes beyond the number expected
moves the phase, and ends the program with status 3. A wait goes on with the new phase when the record has left the phase, and else the
channel waits on the ward of the record's line, and reads the same record again when that fires. The phase is compared in 32 bits (log 40). -/
def Obligations.HingeHasps : Prop :=
  ∀ s h n ch w, OnHinge s h n ch w →
    let va := ((ch.x.get w.a.toNat 0 : DWord)).toNat
    let tr := channelPieces s h ch.vd .atomic va 16
    let begun : Prop := ∃ a p f, ch.wait = some (.hasp a p f)
    (∀ i, (i = Instr.hingeArrive ∧ w.imm ≠ 0 ∨ i = .hingeAwait ∧ ¬ begun) →
      (∀ f b, tr = .fault f b → Completes s i (Fails s h n ch 2 f.code))
      ∧ (∀ ms, tr = .miss ms → exec i s = .next s)
      ∧ (∀ ps, tr = .ok ps → s.haspAddr ch.vd va ps = none → Completes s i (Fails s h n ch 3 4))
      ∧ (∀ ps a line, tr = .ok ps → s.haspAddr ch.vd va ps = some a → s.lockedIn ps = some line → exec i s = .next s))
    ∧ ∀ ps a, tr = .ok ps → s.haspAddr ch.vd va ps = some a → s.lockedIn ps = none →
      let y := s.hasp a
      let res := y.arrive w.imm.toNat ch.vd ch.part
      (w.imm ≠ 0 → res.1 = 0 → Completes s .hingeArrive fun t => t.channel? h n = some (nextWord ch)
          ∧ (s.mem.wf = true → t.hasp a = res.2.2 ∧ ∀ b, b < a ∨ a + 16 ≤ b → t.mem.read b = s.mem.read b)
          ∧ ∀ b, t.host.read b = s.host.read b ∧ t.store.read b = s.store.read b)
      ∧ (w.imm ≠ 0 → (res.1 = 2 ∨ res.1 = 3) → Completes s .hingeArrive (Fails s h n ch 3 res.1))
      ∧ (w.imm ≠ 0 → res.1 = 1 → Completes s .hingeArrive fun t =>
          let written (u : State) : Prop := (s.mem.wf = true → u.hasp a = res.2.2 ∧ ∀ b, b < a ∨ a + 16 ≤ b → u.mem.read b = s.mem.read b)
            ∧ ∀ b, u.host.read b = s.host.read b ∧ u.store.read b = s.store.read b
          (∃ u, written u ∧ (FormedMemory s → FormedMemory u) ∧ u.launches = s.launches ∧ u.driver = s.driver ∧ Fails u h n ch 3 1 t)
          ∧ (ch.obj = none ∨ ch.sends ≠ [] → written t))
      ∧ (¬ begun →
          let p := ((ch.x.get w.b.toNat 0 : DWord)).toNat % 2 ^ 32
          (y.owned ch.vd ch.part = false → Completes s .hingeAwait (Fails s h n ch 3 3))
          ∧ (y.owned ch.vd ch.part = true → y.phase ≠ p → ChannelAfter s h n .hingeAwait
              { nextWord ch with x := ch.x.put w.b.toNat (BitVec.ofNat 64 y.phase) })
          ∧ (y.owned ch.vd ch.part = true → y.phase = p → (∀ i, (s.slice i).wards.length < 512) → Completes s .hingeAwait fun t =>
              SameMemory s t ∧ t.channel? h n = some { ch with wait := some (.hasp a (BitVec.ofNat 32 p) false) }
              ∧ (t.hinge h).switch = true
              ∧ ∃ wd ∈ (t.slice (sliceOf (a / 128))).wards, wd.line = a / 128 ∧ .channel h n ∈ wd.waiters))
    ∧ ∀ a p f, ch.wait = some (.hasp a p f) →
      let y := s.hasp a
      (s.locked (a / 128) = true → exec .hingeAwait s = .next s)
      ∧ (s.locked (a / 128) = false → y.owned ch.vd ch.part = false → Completes s .hingeAwait (Fails s h n ch 3 3))
      ∧ (s.locked (a / 128) = false → y.owned ch.vd ch.part = true → y.phase ≠ p.toNat → ChannelAfter s h n .hingeAwait
          { nextWord ch with x := ch.x.put w.b.toNat (BitVec.ofNat 64 y.phase) })
      ∧ (s.locked (a / 128) = false → y.owned ch.vd ch.part = true → y.phase = p.toNat → (∀ i, (s.slice i).wards.length < 512) →
          Completes s .hingeAwait fun t => SameMemory s t ∧ t.channel? h n = some { ch with wait := some (.hasp a p false) }
            ∧ (t.hinge h).switch = true
            ∧ ∃ wd ∈ (t.slice (sliceOf (a / 128))).wards, wd.line = a / 128 ∧ .channel h n ∈ wd.waiters)

/-- R375, R379, R381, R382, R10, R422: the sends of a channel. A range that the job refuses ends the program with status 2 and code 0x0C, an
empty transfer does nothing, a locked line of the route's entry or of the source is waited for, a local address without a translation ends
the program with status 2, a port that is not the partition's ends it with status 9, an operation that leaves by a port for which the
channel has no credits waits, and else the operation leaves and the channel goes on, or waits for the data of a `get`. The source is read
when the operation issues (log 32), and the channel of a device that is being moved goes on to its next `ckpt` or `stop` (log 61). The order of the checks and the
port at each send are log 37, and that a `get` counts as a send is log 36. -/
def Obligations.HingeSends : Prop :=
  ∀ s h n ch w, OnHinge s h n ch w →
    let r (i : BitVec 4) : DWord := ch.x.get i.toNat 0
    let size := (r w.c).toNat
    let d := s.device ch.vd
    let rank (x : DWord) : Nat := (x.extractLsb' 48 16).toNat
    let off (x : DWord) : Nat := (x.extractLsb' 0 48).toNat
    let reach (x : DWord) (m : Nat) : Prop := ∃ j, d.job = some j ∧ rank x ≤ j.last ∧ (m = 0 ∨ off x + m ≤ 2 ^ j.wlog)
    let sends (i : Instr) (q o dest size : Nat) (pages : List Page) (get : Bool) (kind : FabKind) : Prop :=
      let x : FabOp := { id := s.nextOp, from? := some ch.vd, src := (d.job.map (·.rank)).getD 0, dst := q, window := d.window,
                         vd := 0, off := o, kind := kind, forwarded := false }
      let away : Prop := ∃ b, s.route ch.vd q = .away b
      let port := if ch.port = 4 then q % 4 else ch.port
      let owned : Prop := s.portOwned ch.part h port = true
      let credit : Prop := port ∉ ch.nocredit
      (away → ¬ owned → Completes s i (Fails s h n ch 9 0))
      ∧ (away → owned → ¬ credit → ∃ s0, Walked s s0 ∧ exec i s = .next ((s0.withChannel h n fun y =>
          { y with wait := some (.credit port) }).withHinge h fun y => { y with switch := true }))
      ∧ ((away → owned ∧ credit) → Completes s i fun t => SameMemory s t ∧ Sent s t ch.vd x
          ∧ t.ops.look s.nextOp = some { kind := .channel h n q dest size get, core := Config.cores, slot := 0, launch := ch.launch, gang := 0,
                                         vd := ch.vd, ctr := .copies, pages := pages, bad := [], window := d.window, done := 0 }
          ∧ t.channel? h n = some (if get then { ch with wait := some (.get s.nextOp) }
              else { nextWord ch with sends := ch.sends ++ [s.nextOp] }))
    let fab := r w.a
    let loc := (r w.b).toNat
    let routed (i : Instr) (q : Nat) (P : Prop) : Prop :=
      ((s.routeHeld ch.vd q).isSome = true → exec i s = .next s) ∧ (s.routeHeld ch.vd q = none → P)
    let reads (i : Instr) (kind : Access) (va : Nat) (P : List Piece → Prop) : Prop :=
      let tr := channelPieces s h ch.vd kind va size
      (∀ f b, tr = .fault f b → Completes s i (Fails s h n ch 2 f.code)) ∧ (∀ ms, tr = .miss ms → exec i s = .next s)
      ∧ ∀ ps, tr = .ok ps → P ps
    let src (i : Instr) (kind : List Byte → FabKind) : Prop :=
      routed i (rank fab) (reads i .load loc fun ps => ((s.lockedIn ps).isSome = true → exec i s = .next s)
        ∧ (s.lockedIn ps = none → sends i (rank fab) (off fab) 0 size [] false (kind (s.homeBytes ps))))
    (¬ reach fab size → Completes s .hingePut (Fails s h n ch 2 0x0C))
    ∧ (reach fab size → size = 0 → ChannelBecomes s h n .hingePut (nextWord ch))
    ∧ (reach fab size → size ≠ 0 → src .hingePut .put)
    ∧ (size % 4 ≠ 0 → Completes s .hingeRadd (Fails s h n ch 4 0))
    ∧ (size % 4 = 0 → (loc % 4 ≠ 0 ∨ off fab % 4 ≠ 0) → Completes s .hingeRadd (Fails s h n ch 2 0))
    ∧ (size % 4 = 0 → loc % 4 = 0 → off fab % 4 = 0 → (¬ reach fab size → Completes s .hingeRadd (Fails s h n ch 2 0x0C))
        ∧ (reach fab size → size = 0 → ChannelBecomes s h n .hingeRadd (nextWord ch)) ∧ (reach fab size → size ≠ 0 → src .hingeRadd .radd))
    ∧ (w.imm ≠ 0 → w.c.toNat % 2 = 0 → let sig := r (w.c + 1)
       (rank sig ≠ rank fab → Completes s .hingePutsig (Fails s h n ch 2 0x0C))
       ∧ (rank sig = rank fab → off sig % 16 ≠ 0 → Completes s .hingePutsig (Fails s h n ch 2 0))
       ∧ (rank sig = rank fab → off sig % 16 = 0 → ¬ (reach fab size ∧ reach sig 16) → Completes s .hingePutsig (Fails s h n ch 2 0x0C))
       ∧ (rank sig = rank fab → off sig % 16 = 0 → reach fab size → reach sig 16 →
           src .hingePutsig fun b => .putsig b 2 w.imm.toNat (off sig)))
    ∧ (let from' := r w.b
       let dest := (r w.a).toNat
       (¬ reach from' size → Completes s .hingeGet (Fails s h n ch 2 0x0C))
       ∧ (reach from' size → size = 0 → ChannelBecomes s h n .hingeGet (nextWord ch))
       ∧ (reach from' size → size ≠ 0 → routed .hingeGet (rank from') (reads .hingeGet .store dest fun ps =>
           sends .hingeGet (rank from') (off from') dest size (ps.map (·.page)).eraseDups true (.get size))))
    ∧ (let q := (r w.a).toNat % 2 ^ 16
       ((∀ j, d.job = some j → j.last < q) → Completes s .hingeCsc (Fails s h n ch 2 0x0C))
       ∧ (∀ j, d.job = some j → q ≤ j.last → routed .hingeCsc q (sends .hingeCsc q 0 0 0 [] false
           (.contrib ch.comm w.imm.toNat ((List.range ch.blen).map fun i => BitVec.ofNat 64 ((bufEntry ch w.b i).toNat % 2 ^ 32))))))

/-- R379, R380, R381, R384: the combining slots and the ends of a channel: a slot beyond those of the collective, an open slot opened again
or a closed one used ends the program with status 6; `csa` opens a closed slot with an acceptable configuration; `csg` takes a result
or waits for it; `csr` closes a slot; `ckpt` and `stop` wait until the earlier sends are complete: then the hinge processor may switch, or
the collective retires, when no line of its object's header is locked, and its header is written. Of the contributions that came before
their slot, the first NC are kept and the others refused, and one of the wrong length ends the program with status 6; they are answered
at the `csa` (log 39). A channel that waits executes its word again (log 41), and a header that does not translate any more is not written (log 25). -/
def Obligations.HingeSlotsAndEnds : Prop :=
  ∀ s h n ch w, OnHinge s h n ch w →
    let k := w.imm.toNat
    let slots := [Instr.hingeCsa, .hingeCsg, .hingeCsr]
    (ch.nslot ≤ k → ∀ i ∈ slots, Completes s i (Fails s h n ch 6 0))
    ∧ (k < ch.nslot → ∀ i x, s.slotOf ch.vd ch.comm k = some (i, x) →
        (x.conf = none → Completes s .hingeCsg (Fails s h n ch 6 0) ∧ Completes s .hingeCsr (Fails s h n ch 6 0))
        ∧ (x.conf ≠ none ∨ slotConf (ch.x.get w.a.toNat 0) = none → Completes s .hingeCsa (Fails s h n ch 6 0))
        ∧ (x.conf ≠ none → exec .hingeCsr s = .next ({ s with comb := s.comb.put i { x with conf := none, contribs := [], result := none } }.withChannel
            h n fun y => nextWord y))
        ∧ (x.conf ≠ none → x.result = none → exec .hingeCsg s = .next ((s.withChannel h n fun y => { y with wait := some (.slot k) }).withHinge h
            fun y => { y with switch := true }))
        ∧ (∀ v, x.conf ≠ none → x.result = some v → ∃ ch', ChannelBecomes s h n .hingeCsg ch' ∧ ch'.blen = v.length
            ∧ (∀ j, bufEntry ch' w.a j = if j < v.length then v.getD j 0 else bufEntry ch w.a j)
            ∧ { ch' with bufs := ch.bufs, blen := ch.blen } = nextWord ch)
        ∧ (∀ m op nc, x.conf = none → slotConf (ch.x.get w.a.toNat 0) = some (m, op, nc) →
            let kept := x.staged.take nc
            let fits (y : FabOp) : Bool := y.entries.length == 0 || y.entries.length == (if op = 2 then 3 * m else m)
            let told := (x.staged.drop nc).map (fun y => (y, 4)) ++ kept.map fun y => (y, if fits y then 0 else 4)
            let ack (a : FabOp × Nat) : Ack := { id := a.1.id, status := a.2, detail := 0, data := [] }
            let taken := kept.map fun y => (y.src, y.entries)
            let opened (t : State) : Prop := SameMemory s t
              ∧ t.acks = s.acks ++ (told.filter fun a => a.1.from?.isSome).map ack
              ∧ t.outbox = s.outbox ++ (told.filter fun a => a.1.from?.isNone).map (fun a => .ack a.1.src (ack a))
              ∧ ∃ r, t.comb.look i = some { x with conf := some (ch.x.get w.a.toNat 0), staged := [], contribs := taken, result := r }
                ∧ (kept.length < nc → r = x.result) ∧ (kept.length = nc → x.result = none → r = some (combineAll m op taken))
            ((∀ y ∈ kept, fits y = true) → Completes s .hingeCsa fun t => opened t ∧ t.channel? h n = some (nextWord ch))
            ∧ ((∃ y ∈ kept, fits y = false) → Completes s .hingeCsa fun t =>
                ∃ u, opened u ∧ (FormedMemory s → FormedMemory u) ∧ u.channel? h n = some ch ∧ u.launches = s.launches ∧ u.driver = s.driver ∧ Fails u h n ch 6 0 t)))
    ∧ (∀ v : DWord, let m := (v.extractLsb' 0 13).toNat
        let op := (v.extractLsb' 16 2).toNat
        let nc := (v.extractLsb' 32 16).toNat
        let fits : Prop := v.extractLsb' 13 3 = 0#3 ∧ v.extractLsb' 18 14 = 0#14 ∧ v.extractLsb' 48 16 = 0#16 ∧ op < 3 ∧ 1 ≤ m ∧ m ≤ 4096
          ∧ 1 ≤ nc ∧ nc ≤ 256 ∧ nc * m * (if op = 2 then 12 else 4) ≤ 2 ^ 20
        (fits → slotConf v = some (m, op, nc)) ∧ (¬ fits → slotConf v = none))
    ∧ (ch.sends ≠ [] → ∀ i ∈ [Instr.hingeCkpt, .hingeStop], ChannelBecomes s h n i { ch with wait := some .sends })
    ∧ (ch.sends = [] → exec .hingeCkpt s = .next ((s.withChannel h n fun _ => { nextWord ch with atCkpt := true }).withHinge h
        fun x => { x with switch := true }))
    ∧ (ch.sends = [] → s.endHeld h n = true → exec .hingeStop s = .next s)
    ∧ (ch.sends = [] → s.endHeld h n = false → Completes s .hingeStop fun t => CollectiveEnded s t h n ch ∧ (t.hinge h).switch = true)

/-! ## Events: launches and gangs (spec/08, /15, /16, /17) -/

/-- R430, R429, R212, R213, R211, R223, R224: a shadow queue's slot at HEAD is read; a packet that has passed every check is accepted with the
next age and the launches that it depends on, one that fails a check of statuses 1 to 7 is not, and waits for no range entries any more
(R214); firmware ends a launch, whose groups
end; a launch that is over retires, its dependants no longer wait for it, and its record says how it ended. The
rotation is among five queues (GroupsKept). A record whose line is locked waits (log 43), and a collective left by a launch that was
ended ends with it (log 75). -/
def Obligations.LaunchEvents : Prop :=
  (∀ s v q z, OfObject s v q z →
    let d := s.device v
    let r (o : Nat) : DWord := d.queue.get (32 * q + o) 0
    let n := 2 ^ min ((r 0).extractLsb' 0 4).toNat 12
    let head := ((r 0x10).extractLsb' 0 32).toNat
    let base := 1024 * ((r 0).extractLsb' 10 36).toNat
    d.takes = true → q < 4 → head ≠ ((r 8).extractLsb' 0 32).toNat → d.taken.look q = none → s.inWindow v .hbm base (1024 * n) = true →
    let a := s.reloc v .hbm (base + 1024 * (head % n))
    s.lockedAt .hbm a 1024 = none → Completes s .shadowQueueRead fun t => SameMemory s t ∧ OtherDevices s t v
      ∧ { t.device v with bytes := d.bytes } = { d with taken := d.taken.put q ((List.range 1024).map fun i => s.mem.read (a + i)) })
  ∧ (∀ s v y z p, OfObject s v y z →
    let d := s.device v
    let q := d.rotation
    d.takes = true → q < 5 → (if q = 4 then d.launchQueue.head? else d.taken.look q) = some p → s.recordLocked v p = false →
    (∀ x, packetStatus p v ((d.xlate.get 0 0).getLsbD 0) = some x → pkDone p = 0 → s.launches.look s.nextLaunch = none →
      Completes s .acceptPacket fun t =>
        SameMemory s t ∧ t.launches = s.launches ∧ Popped d (t.device v) q ∧ (v, q) ∉ (t.partition d.part).waiting)
    ∧ (packetStatus p v ((d.xlate.get 0 0).getLsbD 0) = none → pkRanges p = 0 → pkSnap p < 2 ^ 63 → pkColl p = 0 →
        Completes s .acceptPacket fun t => SameMemory s t ∧ Popped d (t.device v) q ∧ t.nextLaunch = s.nextLaunch + 1
          ∧ (t.partition d.part).accepted = (s.partition d.part).accepted + 1
          ∧ ∃ deps, (∀ i, i ∈ deps ↔ ∃ l, (i, l) ∈ s.launches ∧ l.vd = v ∧ dependsOn p l.pkt = true)
            ∧ t.launches = s.launches.put s.nextLaunch
                { vd := v, part := d.part, pkt := p, age := (s.partition d.part).accepted, deps := deps, snap := none, coll := none, next := 0,
                  passed := 0, blocked := false, ended := none }))
  ∧ (∀ s l y z x, OfObject s l y z → s.launches.look l = some x → x.ended = none → x.coll = none → Completes s .launchEnd fun t =>
      SameMemory s t ∧ t.launches.look l = some { x with ended := some 2, blocked := false }
      ∧ ∀ c k g, t.group? c k = some g → g.launch ≠ l)
  ∧ ∀ s l y z x, OfObject s l y z → s.launches.look l = some x → s.launchOver l x = true → s.recordLocked x.vd x.pkt = false →
      Completes s .launchRetire fun t => t.launches.look l = none
        ∧ (∀ i, i ≠ l → (∀ h n ch, x.coll = some (h, n) → s.channel? h n = some ch → ch.launch = l) →
            t.launches.look i = (s.launches.look i).map fun m => { m with deps := m.deps.filter (· != l) })
        ∧ (∀ h n, x.coll = some (h, n) → t.channel? h n = none)
        ∧ let plain : Prop := ∀ h n ch, x.coll = some (h, n) → s.channel? h n = some ch → ch.obj = none
        ((pkDone x.pkt = 0 ∨ (s.device x.vd).state = .lost) → plain → SameMemory s t)
        ∧ ∀ p, plain → pkDone x.pkt ≠ 0 → doneBad x.pkt = false → (s.device x.vd).state ≠ .lost → s.mem.wf = true → s.host.wf = true →
            s.translateAgent x.vd .store (pkDone x.pkt) 16 = .ok [p] →
            Stored s t p.page.tier ((toBytes 4 (if x.ended.isSome then 10 else 0) ++ toBytes 4 (x.ended.getD 0)
              ++ toBytes 8 ((s.device x.vd).window * 2 ^ 16)).zipIdx.map fun b => (p.addr + b.2, b.1))

/-- R215 to R218, R42, R398, R399, R411, R397: the placer places the next gang of the first launch in its order that fits; a launch passed
over for 65,536 cycles blocks it; a claimed unit is spilled into its owner's save area, and the claiming gang gets its units when
none is left to claim; a spilled gang of a running device is reloaded; a slice ends with the choice of the next device, and the groups of
the old one halt. Which of equal units is claimed is log 53's choice, the registers of a new group are 0 by log 4, the places in a save
block are those of log 19, and the first device of WEIGHT 0 is that of log 20. -/
def Obligations.PlacementEvents : Prop :=
  (∀ s part y z i l c m x before after, OfObject s part y z → s.readyLaunches part = before ++ (i, l) :: after →
    (∀ e ∈ before, s.placesFor e.2 = none ∧ e.2.blocked = false ∧ e.2.passed < 65536) → s.placesFor l = some [(c, m, x)] → l.coll = none →
    s.launches.look i = some l →
    Completes s .placeGang fun t => SameMemory s t ∧ t.nextGang = s.nextGang + 1
      ∧ t.launches.look i = some { l with next := m + 1, passed := 0, blocked := false }
      ∧ ∃ w, t.gang? c s.nextGang = some w ∧ w.launch = i ∧ w.number = m ∧ w.base = x.base ∧ w.rows = pkRows l.pkt ∧ w.panels = x.panels
        ∧ w.tiles = x.tiles ∧ w.slots = x.slots
        ∧ (w.claims = [] → w.populated = true ∧ (t.core c).l1 = []
            ∧ (∀ a, 148 * x.base ≤ a → a < 148 * (x.base + pkRows l.pkt) → (t.core c).scratch.read a = 0)
            ∧ (x.slots.Nodup → ∀ gidx k, (gidx, k) ∈ (liveGroups l.pkt m).zip x.slots → ∃ g, t.group? c k = some g ∧ g.launch = i
                ∧ g.gang = s.nextGang ∧ g.budget = pkBudget l.pkt gidx ∧ g.sregs = [] ∧ g.vregs = [] ∧ g.phase = .resident
                ∧ ∀ a, a < 32 → (g.lane a).wid = BitVec.ofNat 64 (workId l.pkt m gidx a))))
  ∧ (∀ s part y z i l before after, OfObject s part y z → s.readyLaunches part = before ++ (i, l) :: after →
      (∀ e ∈ before, s.placesFor e.2 = none) → s.placesFor l = none → (l.blocked = true ∨ 65536 ≤ l.passed) →
      exec .placeGang s = .next s)
  ∧ (∀ s i y z l, OfObject s i y z → s.launches.look i = some l → 65536 ≤ l.passed → l.blocked = false → s.placesFor l = none →
      exec .placerBlock s = .next (s.withLaunch i fun x => { x with blocked := true }))
  ∧ (∀ s c n z y l, OfObject s c n z → s.gang? c n = some y → y.claims = [] → y.populated = false → s.crowded c n y = false →
      s.runs (s.gangVd y) = true → s.launches.look y.launch = some l → Completes s .unitSpill fun t => SameMemory s t
        ∧ t.gang? c n = some { y with populated := true } ∧ (t.core c).l1 = []
        ∧ ∀ a, 148 * y.base ≤ a → a < 148 * (y.base + y.rows) → (t.core c).scratch.read a = 0)
  ∧ (∀ s c n z y m u rest w, OfObject s c n z → s.gang? c n = some y → y.claims = (m, u) :: rest → m ≠ n → s.gang? c m = some w →
      s.runs (s.gangVd y) = true → s.quietGang c m w = true → s.savedLocked (s.gangVd w) c w u = false → s.mem.wf = true →
      (s.core c).scratch.wf = true → w.saved.rows.wf = true →
      let block := s.saveBlock (s.gangVd w) c
      Completes s .unitSpill fun t => (∀ a, t.host.read a = s.host.read a ∧ t.store.read a = s.store.read a)
        ∧ (∀ a, (∀ x ∈ w.saved? u, ¬ (block + x.1 ≤ a ∧ a < block + x.1 + x.2)) → t.mem.read a = s.mem.read a)
        ∧ ∃ w', t.gang? c m = some w' ∧ w'.spilled = w.spilled ++ [u]
        ∧ (∀ k g, t.group? c k = some g → g.gang = m → g.phase = .spilled)
        ∧ ∀ r, u = .row r → (∀ i, i < 148 → w.saved.rows.read (148 * r + i) = 0) →
            ∀ i, i < 148 → w'.saved.rows.read (148 * r + i) = (s.core c).scratch.read (148 * r + i))
  ∧ (∀ s c n z y, OfObject s c n z → s.gang? c n = some y → y.spilled ≠ [] → y.claims = [] → y.populated = true →
      s.runs (s.gangVd y) = true → s.crowded c n y = false → (∀ w ∈ (s.core c).gangs, ∀ x ∈ w.2.claims, x.1 ≠ n) →
      (s.core c).scratch.wf = true → y.saved.rows.wf = true →
      Completes s .gangReload fun t => SameMemory s t ∧ t.gang? c n = some { y with spilled := [], saved := Saved.empty }
        ∧ (∀ k g, t.group? c k = some g → g.gang = n → g.phase = .resident ∨ g.phase = .waiting ∨ g.phase = .replayable)
        ∧ ∀ r i, GangUnit.row r ∈ y.spilled → i < 148 → (t.core c).scratch.read (148 * r + i) = y.saved.rows.read (148 * r + i))
  ∧ ∀ s part y z, OfObject s part y z →
      let live (t : State) : State := { t with devices := t.devices.mapAll fun _ d => if d.part = part then { d with live := d.ctl } else d }
      (∀ v, (s.partition part).running = none → s.chooseDevice part = some v → Completes s .quantumExpiry fun t =>
          (t.partition part).running = (live s).chooseDevice part ∧ (t.partition part).sliceAt = s.ptp)
      ∧ ∀ v, (s.partition part).running = some v → s.sliceOver part v = true → s.haltable v = true → Completes s .quantumExpiry fun t =>
          let d := s.device v
          let s' := live (s.withDevice v fun x => if x.weight = 0 then x else
            { x with pass := x.pass + 65536 * ((s.ptp - (s.partition part).sliceAt) / 1000) / x.weight })
          (t.partition part).running = s'.chooseDevice part ∧ (t.partition part).sliceAt = s.ptp
          ∧ (t.device v).pass = (if d.weight = 0 then d.pass else
              d.pass + 65536 * ((s.ptp - (s.partition part).sliceAt) / 1000) / d.weight)
          ∧ (s'.chooseDevice part ≠ some v → ∀ c k g, t.group? c k = some g → t.vdOf g = v → g.phase ≠ .resident ∧ g.phase ≠ .waiting)

/-- R196, R219, R227 to R229, R34, R356, R390, R206, R221, R226, R396: an issue slot issues a clause of the group that it chooses: a fetch
that faults stops every lane at its address; a clause that is illegal raises the illegal-clause trap in the issuing lanes, but for
lanes behind its last word; counts that are not met make the group wait; a remote fault is taken at the header; and else the words begin
at the resume index. A slot chooses the first group in its order that may issue, unless one has been passed over for 4,096 cycles,
which goes first; in every case the chosen group is counted anew. A clause that is over completes, and the record that it may leave waits
for locked lines (R78); a wait whose condition holds ends; a watchdog that has run out makes the group replayable, and firmware resumes
one: lanes of a revoked snapshot take their trap, or without a handler make it replayable again (R396). Log 49 says which lanes a fetch fault concerns,
log 50 that the code is read from memory at issue, log 66 what counts as passed over, log 54 what of a record is written, and log 75 what
an event does whose condition fails. -/
def Obligations.GroupEvents : Prop :=
  (∀ s c q z k g pc r ls, OfObject s c q z → s.slotBusy c q = false → s.issueChoice c q = some (k, g) → g.issueSet = some (pc, r, ls) →
    s.group? c k = some g →
    let g1 : Group := { g with passed := 0, starved := false }
    let waits (g0 : Group) (w : Wait) : Prop := Completes s .clauseIssue fun t => Local s t c k
      ∧ t.group? c k = some { g0 with phase := .waiting, wait := some w, clause := { g.clause with redo := true } }
    let fetches (n : Nat) (P : List Piece → Prop) : Prop :=
      (∀ f a, s.translateGroup c g .fetch pc n = .fault f a → Completes s .clauseIssue fun t => Local s t c k ∧ ∃ g', t.group? c k = some g'
        ∧ g'.clause.active = 0 ∧ g'.clause.addr = BitVec.ofNat 64 pc ∧ g'.passed = 0 ∧ g'.starved = false
        ∧ ∃ L : List Nat, L.Pairwise (· < ·)
            ∧ (∀ l, l ∈ L ↔ l < 32 ∧ (g.lane l).state ≠ .exited ∧ (g.lane l).pc = BitVec.ofNat 64 pc)
            ∧ g'.clause.events = L.map fun l =>
                { lane := l, what := f.raises .fetch 0 a, escalates := (g.lane l).trap && escalating (f.raises .fetch 0 a),
                  word := (g.lane l).r, rword := (g.lane l).r, sword := (g.lane l).r })
      ∧ (∀ ms, s.translateGroup c g .fetch pc n = .miss ms → waits g1 .walk)
      ∧ ∀ ps, s.translateGroup c g .fetch pc n = .ok ps →
        (∀ line, s.lockedIn ps = some line → waits g1 (.line line)) ∧ (s.lockedIn ps = none → P ps)
    fetches 4 fun ps =>
        let h := headerOf (BitVec.ofNat 32 (ofBytes (s.homeBytes ps)))
        let bad : Prop := h.count = 0 ∨ 5 < h.cls ∨ h.zero ≠ 0 ∨ (s.module.svc ≠ 2 ∧ (h.cls = 4 ∨ h.cls = 5))
        let skip : Prop := r ≠ 0 ∧ r = h.count
        let cls : EngineClass := match h.cls with
          | 0 => .scalar | 1 => .vector | 2 => .memory | 4 => .matrix | 5 => .copy | _ => .control
        let met : Prop := (h.ld = 7 ∨ g.loads.length ≤ h.ld) ∧ (h.st = 7 ∨ g.stores.length ≤ h.st) ∧ (h.cp = 7 ∨ g.copies.length ≤ h.cp)
          ∧ (h.tl = 7 ∨ g.tiles.length ≤ h.tl)
        let refused : Prop := Completes s .clauseIssue fun t => Local s t c k ∧ ∃ g', t.group? c k = some g' ∧ g'.clause.active = 0
          ∧ ∃ L : List Nat, L.Pairwise (· < ·) ∧ (∀ l, l ∈ L ↔ l < 32 ∧ ls.getLsbD l = true) ∧ g'.clause.events = L.map fun l =>
              { lane := l, what := .trap .illegalClause 0 0, escalates := (g.lane l).trap, word := 0, rword := 0, sword := h.count }
        let begins (words lits : List Word) : Prop :=
          (¬ met → waits { g1 with walked := [] } (.counts h.ld h.st h.cp h.tl))
          ∧ (met → Completes s .clauseIssue fun t => Local s t c k ∧ ∃ g' es, t.group? c k = some g'
              ∧ g'.clause = { Clause.idle with
                  live := true, addr := BitVec.ofNat 64 pc, cls := cls, count := h.count, yld := h.yld, words := words,
                  lits := lits, idx := r, active := if es = [] then ls else 0, events := es }
              ∧ (h.cp = 7 ∨ g.remote = none → es = [])
              ∧ (h.cp ≠ 7 → ∀ x, g.remote = some x → ∃ L : List Nat, L.Pairwise (· < ·) ∧ (∀ l, l ∈ L ↔ l < 32 ∧ ls.getLsbD l = true)
                  ∧ es = L.map fun l =>
                      { lane := l, what := .trap .remote x.info x.addr, escalates := (g.lane l).trap, word := r, rword := r, sword := r })
              ∧ g'.passed = 0 ∧ g'.starved = false ∧ g'.object = none ∧ g'.copied = []
              ∧ { g' with clause := g.clause, passed := g.passed, starved := g.starved, walked := g.walked, stage := g.stage,
                          object := g.object, copied := g.copied, entries := g.entries, resumed := g.resumed } = g)
        (bad → ¬ skip → refused)
        ∧ (bad → skip → begins (List.replicate h.count 0) (List.replicate h.lits 0))
        ∧ (¬ bad → fetches (4 * (1 + h.count + h.lits)) fun qs =>
            let ws := (wordsOf (s.homeBytes qs)).drop 1
            (¬ skip → misplaced cls (s.levelOf g) (ws.take h.count) = true → refused)
            ∧ (skip ∨ misplaced cls (s.levelOf g) (ws.take h.count) = false → begins (ws.take h.count) (ws.drop h.count))))
  ∧ (∀ (s : State) (c q k : Nat) (g : Group), (k, g) ∈ s.issueOrder c q →
      g.phase = .resident ∧ g.clause.live = false ∧ s.runs (s.vdOf g) = true ∧ (s.device (s.vdOf g)).throttled = false
      ∧ (∃ l, l < 32 ∧ (g.lane l).state = .eligible)
      ∧ (∀ l, s.launches.look g.launch = some l → pkWdog l.pkt ≠ 0 → g.watchdog < pkWdog l.pkt * 2 ^ 24)
      ∧ (4096 ≤ g.passed → ∃ k' g', s.issueChoice c q = some (k', g') ∧ (g'.starved = true ∨ 4096 ≤ g'.passed))
      ∧ ((∀ x ∈ s.issueOrder c q, x.2.starved = false ∧ x.2.passed < 4096) → (s.issueOrder c q).head? = some (k, g) →
          s.issueChoice c q = some (k, g)))
  ∧ (∀ s c k z g, OfObject s c k z → s.group? c k = some g → g.clause.live = true → g.phase = .resident → g.clause.redo = false →
      (g.clause.count ≤ g.clause.idx ∨ g.clause.active = 0) →
      let done := g.complete (s.device (s.vdOf g)).handler
      let held : Prop := done.cause ≠ none
        ∧ RecordLocked s c k g fun l => ∃ e ∈ done.clause.events, e.replays (s.device (s.vdOf g)).handler.isSome = true ∧ e.lane = l
      (held → exec .clauseComplete s = .next s)
      ∧ (¬ held → done.exitedSet = BitVec.allOnes 32 → Completes s .clauseComplete fun t => t.group? c k = none)
      ∧ (done.exitedSet ≠ BitVec.allOnes 32 → done.cause = none → g.clause.haltAt = none → g.applyEnding.clause.events = [] →
          Completes s .clauseComplete fun t => Local s t c k ∧ t.group? c k = some done
            ∧ (g.clause.yld = false → g.clause.ending ≠ .yield → (t.core c).order = (s.core c).order))
      ∧ (∀ cause, ¬ held → done.exitedSet ≠ BitVec.allOnes 32 → done.cause = some cause → (∀ n, (s.slice n).wards = []) → Completes s .clauseComplete fun t =>
          t.driver = s.driver ++ [.replayable c k cause] ∧ OtherGroups s t c k
          ∧ ∃ g', t.group? c k = some g' ∧ g'.cause = some cause ∧ g'.lanes = done.lanes ∧ g'.vregs = g.vregs ∧ g'.sregs = g.sregs))
  ∧ (∀ s c k z g w, OfObject s c k z → s.group? c k = some g → g.phase = .waiting → g.wait = some w →
      let d := s.device (s.vdOf g)
      let ends (p : Prop) : Prop := (p → exec .groupWaitEnd s = .next (s.setGroup c k (unwaiting g)))
        ∧ (¬ p → exec .groupWaitEnd s = .next s)
      let acquires (p : Prop) : Prop := (p → Completes s .groupWaitEnd fun t =>
          Local s t c k ∧ t.group? c k = some (unwaiting g) ∧ (t.core c).l1 = []) ∧ (¬ p → exec .groupWaitEnd s = .next s)
      (∀ ld st cp tl, w = .counts ld st cp tl → ends ((ld = 7 ∨ g.loads.length ≤ ld) ∧ (st = 7 ∨ g.stores.length ≤ st)
          ∧ (cp = 7 ∨ g.copies.length ≤ cp) ∧ (tl = 7 ∨ g.tiles.length ≤ tl)))
      ∧ (∀ ls, w = .latch ls → ends (s.latchesOk ls = true))
      ∧ (∀ x, w = .tile x → ends (s.tileBusy c x s.nextOp = false))
      ∧ (w = .matrix → ends (s.matrixOps c < 16))
      ∧ (w = .launchQueue → ends (d.launchQueue.length < 64))
      ∧ (∀ m, w = .snapshot m → ends (winLe (winAdd m 2) d.window = true))
      ∧ (∀ m, w = .fence m → ends (winLe m d.window = true))
      ∧ (w = .commit → ends (g.tx = none))
      ∧ (∀ n, w = .behind n → ends (n ≤ (s.core c).accepted))
      ∧ (∀ b, w = .barrier b → ends False)
      ∧ (w = .walk → ends ((s.die (dieOf c)).misses.length < 256
          ∧ ∀ m ∈ (s.die (dieOf c)).misses, ¬ (m.core = c ∧ m.slot = k ∧ m.vd = s.vdOf g)))
      ∧ (∀ l, w = .line l → ends (s.locked l = false ∧ ∀ r ∈ s.requests, r.core = c → r.line = l → ¬ Underway r))
      ∧ (∀ r y x, w = .ringReserve r → s.gang? c g.gang = some y → y.rings.look r = some x → ends (x.canReserve k = true))
      ∧ (∀ r y x, w = .ringAcquire r → s.gang? c g.gang = some y → y.rings.look r = some x → ends (x.canAcquire k = true))
      ∧ (∀ id b, w = .op id b [] → (∃ r ∈ s.requests, r.ofOp id = true) → exec .groupWaitEnd s = .next s)
      ∧ (∀ id, w = .op id true [] → acquires (∀ r ∈ s.requests, r.ofOp id = false))
      ∧ (∀ id, w = .op id false [] → ends (∀ r ∈ s.requests, r.ofOp id = false))
      ∧ (∀ a p, w = .hasp a p false → exec .groupWaitEnd s = .next s)
      ∧ (∀ a p, w = .hasp a p true → s.locked (a / 128) = true → exec .groupWaitEnd s = .next s)
      ∧ (∀ a p, w = .hasp a p true → s.locked (a / 128) = false →
          let x := s.hasp a
          let done : Prop := ¬ x.owned (s.vdOf g) (s.partOf g) = true ∨ x.phase ≠ p.toNat
          (done → acquires True)
          ∧ (¬ done → WardRoom s → Completes s .groupWaitEnd fun t => Local s t c k
              ∧ t.group? c k = some { g with wait := some (.hasp a p false) }
              ∧ ∃ v ∈ (t.slice (sliceOf (a / 128))).wards, v.line = a / 128 ∧ .group c k ∈ v.waiters))
      ∧ (∀ ts, w = .queues ts → acquires (∀ x ∈ ts, x.2 ≤ (s.core x.1).accepted)))
  ∧ (∀ s c k z g, OfObject s c k z → s.group? c k = some g → 4096 ≤ g.passed → g.starved = false →
      exec .slotStarvationLimit s = .next (s.setGroup c k { g with starved := true }))
  ∧ (∀ s c k z g pc r ls l, OfObject s c k z → s.group? c k = some g → g.issueSet = some (pc, r, ls) → g.phase = .resident →
      g.clause.live = false → (∀ n, (s.slice n).wards = []) → s.launches.look g.launch = some l → pkWdog l.pkt ≠ 0 → pkWdog l.pkt * 2 ^ 24 ≤ g.watchdog →
      (RecordLocked s c k g (fun _ => False) → exec .watchdogExpiry s = .next s)
      ∧ (¬ RecordLocked s c k g (fun _ => False) → Completes s .watchdogExpiry fun t => OtherGroups s t c k ∧ t.driver = s.driver ++ [.replayable c k .watchdog]
        ∧ ∃ g', t.group? c k = some g' ∧ g'.phase = .replayable ∧ g'.cause = some .watchdog ∧ g'.lanes = g.lanes ∧ g'.vregs = g.vregs
          ∧ g'.sregs = g.sregs))
  ∧ (∀ s c k g, OfObject s c k 0 → s.group? c k = some g → g.cause ≠ none → g.phase ≠ .spilled → s.runs (s.vdOf g) = true →
      (∃ e ∈ g.entries, e.revoked = true) → (g.entries.map (·.lane)).Nodup → (∀ e ∈ g.entries, e.lane < 32) →
      let handler := (s.device (s.vdOf g)).handler
      let old (l : Nat) : Lane := (g.lane l).free (· == .fired)
      (∀ t, handler = some t → InGroup s c k .firmwareResumeGroup fun g' =>
        g'.cause = none ∧ g'.watchdog = 0 ∧ g'.phase = (if g.wait.isSome then .waiting else .resident)
        ∧ g'.entries = g.entries.filter (fun e => !e.revoked) ∧ g'.resumed = !g'.entries.isEmpty
        ∧ (∀ e ∈ g.entries, e.revoked = true → (old e.lane).state ≠ .exited →
            g'.lane e.lane = enterTrap t g.clause.addr .snapshotRevoked e.what.info e.what.addr e.rword e.sword (old e.lane))
        ∧ ∀ l, l < 32 → (∀ e ∈ g.entries, e.revoked = true → e.lane ≠ l) → g'.lane l = old l)
      ∧ (handler = none → let lanes (l : Nat) : Prop := ∃ e ∈ g.entries, e.revoked = true ∧ e.lane = l
          (RecordLocked s c k g lanes → exec .firmwareResumeGroup s = .next s)
          ∧ (¬ RecordLocked s c k g lanes → (∀ n, (s.slice n).wards = []) → Completes s .firmwareResumeGroup fun t => OtherGroups s t c k
              ∧ t.driver = s.driver ++ [.replayable c k .noHandler] ∧ ∃ g', t.group? c k = some g' ∧ g'.cause = some .noHandler
                ∧ g'.phase = g.phase ∧ ∀ l, l < 32 → g'.lane l = old l)))
  ∧ ∀ s c k g, OfObject s c k 0 → s.group? c k = some g → g.cause ≠ none → (∀ e ∈ g.entries, e.revoked = false) →
      let runs : Prop := s.runs (s.vdOf g) = true
      (g.phase = .spilled → exec .firmwareResumeGroup s = .next (s.setGroup c k { g with
        watchdog := 0, cause := none, resumed := !g.entries.isEmpty }))
      ∧ (g.phase ≠ .spilled → runs → InGroup s c k .firmwareResumeGroup fun g' =>
        { g' with lanes := g.lanes } = { g with
          watchdog := 0, cause := none, resumed := !g.entries.isEmpty, phase := if g.wait.isSome then .waiting else .resident }
        ∧ ∀ l, l < 32 → g'.lane l = (g.lane l).free (· == .fired))
      ∧ (g.phase ≠ .spilled → ¬ runs → exec .firmwareResumeGroup s = .next (s.setGroup c k { g with
        watchdog := 0, cause := none, resumed := !g.entries.isEmpty, phase := .halted }))

/-! ## Events: memory (spec/01 to /04) -/

/-- R118, R113, R55, R30, R29, R56, R62, R64, R93, R94: a load whose requests are performed and whose lines are in the L2 writes its registers
and is complete; the L2 accepts the oldest store of a core when it has the right to write its line, for which it asks first, and the bytes
then stand in memory and nowhere else; the oldest miss whose region no walker has is dispatched, and a walk ends for every miss of its
page; a home gives a line to a die; a fill enters the lowest free way, a matching keeper's first, or displaces the line used longest
ago; the host reads and writes memory in the order in which its accesses arrive; the collector drops what no key can select, and settles
the oldest when it lies 2^30 windows or more behind, and not ahead in the order of windows. The data of a line are in memory, whose bytes
change where an access writes and nowhere else, while older versions are kept beside them (logs 12 and 71); stores and walks that meet a locked line wait (log 43); a store that misses fills,
and the fills of a die take place in the order of their lines (log 72); the window of a partition is that of log 55; 6,144 GB is
6,144 × 2^30 bytes (log 64); an event whose condition fails does nothing (log 75). -/
def Obligations.MemoryEvents : Prop :=
  (∀ s c k op g, OfObject s c k op → s.group? c k = some g → (∃ x ∈ g.loads, x.op = op ∧ x.done = false) →
    (∀ r ∈ s.requests, r.ofOp op = false) → (∀ line ∈ g.asked.get op [], s.asking (dieOf c) line = false) →
    (∀ ts, g.wait = some (.queues ts) → ∀ x ∈ ts, x.2 ≤ (s.core x.1).accepted) → (∀ b ts, g.wait ≠ some (.op op b ts)) →
    exec .loadDataReturn s = .next (s.setGroup c k { g with
      vregs := (g.pend.filter fun p => p.op == op).foldl (fun m p => m.put p.key p.val) g.vregs,
      pend := g.pend.filter fun p => p.op != op,
      asked := g.asked.del op,
      loads := (g.loads.map fun x => if x.op = op then { x with done := true } else x).dropWhile (·.done) }))
  ∧ (∀ s c y z e rest, OfObject s c y z → (s.core c).stores = e :: rest →
      let d := s.die (dieOf c)
      let owned (line : Nat) : Prop := ∃ x ∈ d.l2.get (l2Set line) [], x.line = line ∧ x.own = true
      let free : Prop := e.tier = .host ∨ ∀ b ∈ e.bytes, s.locked (b.1 / 128) = false
      let may : Prop := e.tier = .host ∨ e.ver = true ∨ ∀ b ∈ e.bytes, owned (b.1 / 128)
      (¬ free → exec .storeAccept s = .next s)
      ∧ (free → ¬ may → ∃ b ∈ e.bytes, ¬ owned (b.1 / 128) ∧ exec .storeAccept s = .next (
          if s.asking (dieOf c) (b.1 / 128) then s
          else { s with requests := s.requests ++ [
            { line := b.1 / 128, core := c, slot := e.slot, launch := e.launch, vd := e.vd,
              kind := .own (dieOf c) ((d.keeperFor e.vd e.va).map (·.1)) e.ef }] }))
      ∧ (free → may → s.mem.wf = true → s.host.wf = true → Completes s .storeAccept fun t =>
          (t.core c).stores = rest ∧ (t.core c).accepted = (s.core c).accepted + 1 ∧ Stored s t e.tier e.bytes ∧ SameScratch s t
          ∧ ((∀ x ∈ rest, x.op ≠ e.op) → ∀ g, s.group? c e.slot = some g → ∃ g', t.group? c e.slot = some g'
              ∧ g'.stores = (g.stores.map fun x => if x.op = e.op then { x with done := true } else x).dropWhile (·.done))))
  ∧ (∀ s d y z m before after, OfObject s d y z →
      let region (x : Miss) : Nat × Nat := (x.vd, x.page / 16)
      (s.die d).misses = before ++ m :: after → ((s.die d).misses.filter (·.walking)).length < 16 → m.walking = false →
      (∀ x ∈ (s.die d).misses, x.walking = true → region x ≠ region m) →
      (∀ x ∈ before, x.walking = true ∨ ∃ y ∈ (s.die d).misses, y.walking = true ∧ region y = region x) →
      exec .walkDispatch s = .next (s.withDie d fun x => { x with
        misses := x.misses.map fun y => if y = m then { y with walking := true } else y }))
  ∧ (∀ s d i z m, OfObject s d i z → (s.die d).misses[i]? = some m → m.walking = true →
      let va := m.page * 4096
      let w := s.walkOn (some d) m.vd va
      ((∃ a ∈ w.reads, s.locked (a / 128) = true) → exec .walkComplete s = .next s)
      ∧ ((∀ a ∈ w.reads, s.locked (a / 128) = false) →
        (∀ p, w.result = .ok p → p.base ≤ va → va < p.base + p.size → Completes s .walkComplete fun t =>
          SameMemory s t ∧ SameScratch s t ∧ (t.core m.core).tlbLook m.vd va = some p
          ∧ (t.die d).misses = (s.die d).misses.filter fun x => !(x.vd == m.vd && decide (p.base ≤ x.page * 4096 ∧ x.page * 4096 < p.base + p.size)))
        ∧ (∀ f g, w.result = .error f → s.group? m.core m.slot = some g → s.vdOf g = m.vd → g.wait = some .walk →
            Completes s .walkComplete fun t => SameMemory s t ∧ (t.die d).misses = (s.die d).misses.filter (· != m)
              ∧ t.group? m.core m.slot = some { g with walked := g.walked.put m.page (.fault f) })))
  ∧ (∀ s i y z r, OfObject s i y z → s.requests[i]? = some r → (∀ x ∈ s.requests.take i, x.line ≠ r.line) → s.locked r.line = false →
      (∀ d kp ef, r.kind = .own d kp ef → Completes s .homeRequest fun t => SameMemory s t ∧ t.requests = s.requests.eraseIdx i
        ∧ (t.die d).fills = (s.die d).fills ++ [{ line := r.line, vd := r.vd, keeper := kp, ef := ef, own := true }]
        ∧ ∀ d', d' ≠ d → (t.die d').holds r.line = false ∧ ∀ f ∈ (t.die d').fills, f.line ≠ r.line)
      ∧ ∀ d kp ef, r.kind = .load d kp ef → Completes s .homeRequest fun t => SameMemory s t ∧ t.requests = s.requests.eraseIdx i
        ∧ (t.die d).fills = (s.die d).fills ++ [{ line := r.line, vd := r.vd, keeper := kp, ef := ef, own := false }]
        ∧ ∀ d', d' ≠ d → (t.die d').holds r.line = (s.die d').holds r.line
            ∧ (∀ x ∈ (t.die d').l2.get (l2Set r.line) [], x.line = r.line → x.own = false)
            ∧ ∀ f ∈ (t.die d').fills, f.line = r.line → f.own = false)
  ∧ (∀ s d y z f rest, OfObject s d y z → (s.die d).fills = f :: rest →
      let set := (s.die d).l2.get (l2Set f.line) []
      let limit := (s.device f.vd).cache.get (8 * d) 0
      let limited : Prop := limit.getLsbD 63 = true ∧ (limit.extractLsb' 0 22).toNat ≤ (s.die d).occupancy f.vd
      let entered (xs : List L2Line) (x : L2Line) : List L2Line := if f.ef then xs ++ [x] else x :: xs
      let filled (w : Nat) (kept : Option Nat) : Prop := Completes s .l2Fill fun t => SameMemory s t ∧ (t.die d).fills = rest
        ∧ (∃ x, x.line = f.line ∧ x.vd = f.vd ∧ x.kept = kept ∧ x.way = w ∧ x.own = f.own
            ∧ (t.die d).l2.get (l2Set f.line) [] = entered (set.filter fun v => decide (v.way ≠ w)) x)
        ∧ ((∀ v ∈ set, v.way = w → v.own = false) → t.requests = s.requests)
        ∧ (∀ v ∈ set, v.way = w → (∀ u ∈ set, u.way = w → u = v) → v.own = true → t.requests = s.requests ++ [
            { line := v.line, core := Config.cores, slot := 0, launch := 0, vd := v.vd, kind := .writeBack d v.tag }])
      ((∃ x ∈ set, x.line = f.line) → Completes s .l2Fill fun t => SameMemory s t ∧ (t.die d).fills = rest ∧ t.requests = s.requests
          ∧ (t.die d).l2.get (l2Set f.line) [] =
              (let gain (x : L2Line) : L2Line := if x.line == f.line then { x with own := x.own || f.own } else x
               if f.ef then set.map gain
               else (set.filter fun x => x.line == f.line).map gain ++ set.filter fun x => x.line != f.line))
      ∧ ((∀ x ∈ set, x.line ≠ f.line) →
          (∀ w, f.keeper = none → OrdinaryWay set f.vd limited w → filled w none)
          ∧ (∀ k w, f.keeper = some k → KeeperWay set k ((s.die d).keepers.get k Keeper.free).ways w → filled w (some k))
          ∧ (∀ k w, f.keeper = some k → (∀ x, ¬ KeeperWay set k ((s.die d).keepers.get k Keeper.free).ways x) →
              OrdinaryWay set f.vd limited w → filled w none)
          ∧ ((∀ k w, f.keeper = some k → ¬ KeeperWay set k ((s.die d).keepers.get k Keeper.free).ways w) →
              (∀ w, ¬ OrdinaryWay set f.vd limited w) → exec .l2Fill s = .next (s.withDie d fun x => { x with fills := rest }))))
  ∧ (∀ s r rest, s.hostq = r :: rest → s.arrivals.head? ≠ some false →
      let n := match r.what with
        | .read n => n
        | .write b => b.length
        | .atomic _ z _ _ => z
      let there : Prop := r.addr + n ≤ 2 ^ 39 ∨ (2 ^ 44 ≤ r.addr ∧ r.addr + n ≤ 2 ^ 44 + 6144 * 2 ^ 30)
      (¬ there → exec .hostRequest s = .fault .unbacked)
      ∧ (there → (∀ i, i < n → s.locked ((r.addr + i) / 128) = false) →
          (∀ n, r.what = .read n → Completes s .hostRequest fun t => SameMemory s t ∧ t.hostq = rest ∧ t.arrivals = s.arrivals.tail
              ∧ t.hostReplies = s.hostReplies ++ [(List.range n).map fun i => s.mem.read (r.addr + i)])
          ∧ (∀ b, r.what = .write b → s.mem.wf = true → Completes s .hostRequest fun t => t.hostq = rest ∧ t.arrivals = s.arrivals.tail
              ∧ Stored s t .hbm (b.zipIdx.map fun x => (r.addr + x.2, x.1)))
          ∧ (∀ f z v x, r.what = .atomic f z v x → s.mem.wf = true → Completes s .hostRequest fun t => t.hostq = rest
              ∧ t.arrivals = s.arrivals.tail
              ∧ (let old := ofBytes ((List.range z).map fun i => s.mem.read (r.addr + i))
                 t.hostReplies = s.hostReplies ++ [toBytes z old]
                 ∧ Stored s t .hbm ((toBytes z (f.apply (8 * z) old v x)).zipIdx.map fun b => (r.addr + b.2, b.1))))))
  ∧ ∀ s line y z vs cur, OfObject s line y z → s.versions.look line = some vs → s.partWindow vs.part = some cur →
      let gone (v next : Stamp) : Prop := winLe next.window (winAdd cur (-2 - (s.hold vs.part : Int))) = true
        ∧ ∀ e ∈ (s.partition vs.part).snaps, ¬ (v.under e.2.key = true ∧ next.under e.2.key = false)
      let far (w : Nat) : Prop := 2 ^ 30 ≤ (cur + 2 ^ 32 - w % 2 ^ 32) % 2 ^ 32 ∧ (cur + 2 ^ 32 - w % 2 ^ 32) % 2 ^ 32 < 2 ^ 31
      (∀ ks, KeptVersions gone vs.newest vs.older ks → exec .collectorReclaim s = .next (
          if ks = vs.older then s else { s with versions := s.versions.put line { vs with older := ks } }))
      ∧ (vs.older = [] → vs.newest.settled = false → far vs.newest.window →
          exec .collectorSettle s = .next { s with versions := s.versions.put line { vs with newest := { vs.newest with settled := true } } })
      ∧ (∀ vs0 v, vs.older = vs0 ++ [v] → v.stamp.settled = false → far v.stamp.window →
          let vs' := { vs with older := vs0 ++ [{ v with stamp := { v.stamp with settled := true } }] }
          exec .collectorSettle s = .next { s with versions := s.versions.put line vs' })
      ∧ (let oldest : Stamp := (vs.older.getLast?.map (·.stamp)).getD vs.newest
         oldest.settled = true ∨ ¬ far oldest.window → exec .collectorSettle s = .next s)

/-! ## Events: fabric and hinge processors (spec/04, /14, /16) -/

/-- R128, R354: a close marker is kept by a device of a job; an operation that the transport gives up completes with status 2, and for a
write a notice goes to its target, which counts the operation once; what has no usable route is kept (log 29). How long a connection stands
is log 24. -/
def Obligations.MarkersAndNotices : Prop :=
  (∀ s i y z m, OfObject s i y z → s.markersIn[i]? = some m →
    let s1 := { s with markersIn := s.markersIn.eraseIdx i }
    exec .closeMarkerReceive s = .next (if (s.device m.vd).job.isSome then s1.withDevice m.vd fun d => { d with markers := d.markers ++ [m] } else s1))
  ∧ (∀ s id y z o r write, OfObject s id y z → s.ops.look id = some o → s.withTarget id = false →
      ((∃ op a dest size sig, o.kind = .fabric op a r dest size sig ∧ write = decide (op ≠ 0x12))
        ∨ ∃ h n dest size get, o.kind = .channel h n r dest size get ∧ write = !get) →
      Completes s .deliveryGiveUp fun t => SameMemory s t ∧ t.acks = s.acks ++ [{ id := id, status := 2, detail := 0, data := [] }]
        ∧ t.ops = s.ops
        ∧ ∀ j, (s.device o.vd).job = some j →
            (write = true → SignalGone s t o.vd (r, .notice { vd := 0, src := j.rank, id := id, window := o.window }))
            ∧ t.noticesIn.length + t.outbox.length + (t.device o.vd).unsent.length
              = s.noticesIn.length + s.outbox.length + (s.device o.vd).unsent.length + if write then 1 else 0)
  ∧ ∀ s i y z n, OfObject s i y z → s.noticesIn[i]? = some n →
      let d := s.device n.vd
      let s1 := { s with noticesIn := s.noticesIn.eraseIdx i }
      exec .giveUpNoticeReceive s = .next (
        if d.job = none ∨ (n.src, n.id) ∈ d.done ∨ (n.src, n.id) ∈ d.given then s1
        else s1.withDevice n.vd fun x => { x with
          performed := x.performed.put (n.window % 2 ^ 32 * 2 ^ 16 + n.src % 2 ^ 16)
            (x.performed.get (n.window % 2 ^ 32 * 2 ^ 16 + n.src % 2 ^ 16) 0 + 1), given := x.given ++ [(n.src, n.id)] })

/-- R130 to R133, R168, R354, R357 to R361, R419, R422, R424, R425: a fabric operation that arrives is forwarded, refused with status 5,
discarded, kept for a migration's destination, or held, and wakes a collapsed device; a held one is performed once its device is active
and in its window, a direct one behind the forwarded ones: its bytes are written or read at the home, the signal follows the data, it
is counted, and it is answered; a range without its translation answers with status 1 and the fault's code. What a migrating device
keeps and forwards is in log 69, and that one whose notice came while it was held is discarded is log 76. A line keeps its older versions
beside its bytes, which change where the operation writes and nowhere else (log 12). -/
def Obligations.FabricOperations : Prop :=
  (∀ s i y z x, OfObject s i y z → s.wire[i]? = some x →
    let d := s.device x.vd
    let s0 := { s with wire := s.wire.eraseIdx i }
    let s1 := if x.forwarded then s0.withDevice x.vd fun y => { y with forward := y.forward.filter fun z => !(z.src == x.src && z.id == x.id) }
      else s0
    let after (e : Device → Device) : Prop := exec .fabricOpArrive s = .next (s1.withDevice x.vd e)
    let kept : Prop := d.state = .frozen ∨ ∃ m, d.cut = some m ∧ winLe (winAdd m 1) d.window = true ∧ winLe (winAdd m 1) x.window = true
    if d.state = .forwarding then Completes s .fabricOpArrive fun t =>
      t.outbox = s.outbox ++ [.forward { x with forwarded := true }] ∧ (t.device x.vd).forwarded = d.forwarded + 1
    else if d.state = .none ∨ d.state = .lost ∨ d.job = none then Completes s .fabricOpArrive fun t =>
      SameMemory s t ∧ t.wire = s.wire.eraseIdx i ∧ Answered s t x 5 0 []
    else if (x.src, x.id) ∈ d.given then exec .fabricOpArrive s = .next s1
    else
      (kept → after fun e => { e with forward := e.forward ++ [x] })
      ∧ (¬ kept → d.state = .collapsed → after fun e => { e with held := e.held ++ [(x, true)], state := .waking })
      ∧ (¬ kept → d.state = .collapsing → after fun e => { e with held := e.held ++ [(x, true)], wakeHeld := true })
      ∧ (¬ kept → d.state = .waking → after fun e => { e with held := e.held ++ [(x, true)] })
      ∧ (¬ kept → d.state = .active → after fun e => { e with held := e.held ++ [(x, false)] }))
  ∧ (∀ s v i z x asleep, OfObject s v i z → (s.device v).held[i]? = some (x, asleep) → (∀ c k es, x.kind ≠ .contrib c k es) → x.vd = v →
      let d := s.device v
      let fwbase := (d.fabric.get 0x08 0).toNat
      let base := (fwbase + x.off) % 2 ^ 64
      let tr (k : Access) (n : Nat) : Translated := s.translateAgent v k base n
      let waits : Prop := exec .fabricOpRelease s = .next s
      let ends (ps : List Piece) (st dt n : Nat) (data : List Byte) (xs : List (Nat × Piece × Byte)) : Prop :=
        (∀ line, s.lockedIn ps = some line → waits)
        ∧ (s.lockedIn ps = none → FormedMemory s → Completes s .fabricOpRelease fun t =>
            Placed s t xs ∧ Answered s t x st dt data ∧ Performed s t v i x n)
      let fails (code : Nat) : Prop := Completes s .fabricOpRelease fun t =>
        SameMemory s t ∧ Answered s t x 1 code [] ∧ Performed s t v i x (if x.kind.writes then 1 else 0)
      (¬ MayPerform s v x asleep → waits)
      ∧ (MayPerform s v x asleep → (x.src, x.id) ∈ d.given →
          exec .fabricOpRelease s = .next (s.withDevice v fun e => { e with held := e.held.eraseIdx i }))
      ∧ (MayPerform s v x asleep → (x.src, x.id) ∉ d.given → base + x.kind.range.1 ≤ 2 ^ 64 →
          (∀ f a, tr x.kind.range.2 x.kind.range.1 = .fault f a → fails f.code)
          ∧ (∀ pages, tr x.kind.range.2 x.kind.range.1 = .miss pages → waits)
          ∧ (∀ ps, x.kind.range.2 = .atomic → tr .atomic x.kind.range.1 = .ok ps → (∃ p ∈ ps, p.page.tier = .host) → fails 9)
          ∧ (∀ data ps, x.kind = .put data → tr .store data.length = .ok ps → ends ps 0 0 1 [] (placing ps data))
          ∧ (∀ n ps, x.kind = .get n → tr .load n = .ok ps →
              ends ps 0 0 0 ((byteAddrs ps).map fun b => homeByte s b.2.page.tier b.1) [])
          ∧ (∀ data sop value sig ps, x.kind = .putsig data sop value sig → tr .store data.length = .ok ps →
              let w := (fwbase + sig) % 2 ^ 64
              let m := if sop = 2 then 16 else 4
              let ts := s.translateAgent v (if sop = 0 then .store else .atomic) w m
              (∀ f a, ts = .fault f a → fails f.code)
              ∧ (∀ pages, ts = .miss pages → waits)
              ∧ ∀ q, ts = .ok [q] → w + m ≤ 2 ^ 64 →
                let placed (s' : State) : Prop := Placed s s' (placing ps data)
                let whole (u : State) (n : Nat) : Nat := ofBytes ((List.range 4).map fun j => homeByte u q.page.tier (q.addr + n + j))
                (sop = 0 → ends (ps ++ [q]) 0 0 1 [] (placing ps data ++ placing [q] (toBytes 4 value)))
                ∧ (sop = 1 → q.page.tier = .host → q.page.sa = false → fails 9)
                ∧ (sop = 1 → (q.page.tier ≠ .host ∨ q.page.sa = true) → ∀ u, placed u →
                    ends (ps ++ [q]) 0 0 1 [] (placing ps data ++ placing [q] (toBytes 4 ((whole u 0 + value) % 2 ^ 32))))
                ∧ (sop = 2 → s.haspAddr v w [q] = none → ends (ps ++ [q]) 3 4 1 [] (placing ps data))
                ∧ (sop = 2 → s.haspAddr v w [q] = some q.addr → ∀ u, placed u →
                    let h : HaspRec := { arrived := whole u 0, expected := whole u 4, phase := whole u 8, owner := whole u 12 }
                    let r := h.arrive value v d.part
                    ends (ps ++ [q]) (if r.1 = 0 then 0 else 3) r.1 1 [] (placing ps data ++
                      if r.1 = 2 ∨ r.1 = 3 then []
                      else placing [q] (toBytes 4 r.2.2.arrived ++ toBytes 4 r.2.2.expected ++ toBytes 4 r.2.2.phase
                        ++ toBytes 4 r.2.2.owner))))
          ∧ (∀ data ps, tr .atomic data.length = .ok ps → (∀ p ∈ ps, p.page.tier ≠ .host) → ((byteAddrs ps).map (·.1)).Nodup →
              let old (n i j : Nat) : Nat := ofBytes ((List.range 4).map fun b => homeByte s .hbm (byteAt ps (n * i + j + b)))
              let src (n i j : Nat) : Nat := ofBytes ((data.drop (n * i + j)).take 4)
              let each (n : Nat) (f : Nat → List Byte) : Prop := base % n = 0 → data.length % n = 0 →
                ends ps 0 0 1 [] (placing ps ((List.range (data.length / n)).flatMap f))
              (x.kind = .radd data → each 4 fun i => toBytes 4 (Sys2Proof.Num.addNE32 (old 4 i 0) (src 4 i 0)))
              ∧ (x.kind = .rmax data → each 4 fun i => toBytes 4 (Sys2Proof.Num.maxNan32 (old 4 i 0) (src 4 i 0)))
              ∧ (x.kind = .rsmx data → each 16 fun i =>
                  let r := Sys2Proof.Num.smxMerge (old 16 i 0, old 16 i 4, old 16 i 8) (src 16 i 0, src 16 i 4, src 16 i 8)
                  toBytes 4 r.1 ++ toBytes 4 r.2.1 ++ toBytes 4 r.2.2 ++ toBytes 4 (old 16 i 12)))))
  ∧ (∀ a b, a < 2 ^ 32 → b < 2 ^ 32 → Greater a b (Sys2Proof.Num.maxNan32 a b)
      ∧ Sys2Proof.Num.addNE32 a b = Sys2Proof.Num.encode Sys2Proof.Num.f32 (Sys2Proof.Num.round Sys2Proof.Num.f32 .ne (Sys2Proof.Num.add .ne (Sys2Proof.Num.decode Sys2Proof.Num.f32 a) (Sys2Proof.Num.decode Sys2Proof.Num.f32 b)).1).val)
  ∧ ∀ p q : Nat × Nat × Nat, p.1 < 2 ^ 32 → q.1 < 2 ^ 32 → Merged p q (Sys2Proof.Num.smxMerge p q)

/-- R118, R133, R354, R356, R375, R379, R380, R382: the completion of a fabric operation of a group counts it and records a remote fault, and
a get's bytes are written; that of the part which an operation of a moving device had sent when it was cancelled completes nothing (R422,
log 69). That of a channel's send takes it from those outstanding, or fails its program, and that of its get lets it go on; a program that
has failed ends with the last of them (R384). A contribution waits for its slot's configuration, is taken into an open slot, whose result is the combination of all of them in
the order of their ranks, or is refused with status 4. A hinge processor switches to the best ready channel: one passed over 64 times,
then the highest PRIO, then the one that ran longest ago; and one that has run for 2^20 of its cycles, counted in halves (log 65), is to
switch. A channel is ready that has started, has not ended, and does not wait, or whose wait is over; credits are its own (R383). When a
connection closes is log 24's choice; a contribution staged before its slot is open is answered later (log 39). A line keeps its older
versions beside its bytes, which change where an operation writes and nowhere else (log 12). -/
def Obligations.CompletionsAndSlots : Prop :=
  (∀ s i y z x o op a r dest size sig g, OfObject s i y z → s.acks[i]? = some x → s.ops.look x.id = some o →
    o.kind = .fabric op a r dest size sig →
    s.group? o.core o.slot = some g → g.launch = o.launch → g.gang = o.gang → o.ctr = .copies →
    let retired := (g.copies.map fun e => if e.op = x.id then { e with done := true } else e).dropWhile (·.done)
    let data := x.data.zipIdx.map fun b => (dest + o.done + b.2, b.1)
    let unit := if op = 0x13 ∨ op = 0x14 then 4 else if op = 0x15 then 16 else 1
    let part : Prop := (s.device o.vd).moving = true ∧ x.status = 0 ∧ o.done < size / unit + (if sig.isSome then 1 else 0)
    (part → exec .fabricOpComplete s = .next { s with acks := s.acks.eraseIdx i })
    ∧ (¬ part → op ≠ 0x12 ∨ x.status ≠ 0 → Completes s .fabricOpComplete fun t => SameMemory s t ∧ t.acks = s.acks.eraseIdx i ∧ t.ops.look x.id = none
      ∧ OtherGroups s t o.core o.slot ∧ t.group? o.core o.slot = some { g with
          copies := retired,
          remote := if x.status = 0 then g.remote else some (match g.remote with
            | none => { status := x.status, detail := x.detail % 256, opcode := op, addr := a, count := 1 }
            | some f => { f with count := min (f.count + 1) 255 }) }
      ∧ ((x.status = 2 ∨ x.status = 5) → (t.device o.vd).conns.look r = none))
    ∧ (¬ part → op = 0x12 → x.status = 0 → s.destFree o dest size = false → exec .fabricOpComplete s = .next s)
    ∧ (¬ part → op = 0x12 → x.status = 0 → s.destFree o dest size = true → (∀ n, (s.slice n).wards = []) → Landable s o data →
        Completes s .fabricOpComplete fun t => Landed s t o data ∧ t.acks = s.acks.eraseIdx i ∧ t.ops.look x.id = none
          ∧ t.group? o.core o.slot = some { g with copies := retired }))
  ∧ (∀ s i y z x o h n r dest size get ch, OfObject s i y z → s.acks[i]? = some x → s.ops.look x.id = some o →
      o.kind = .channel h n r dest size get → s.channel? h n = some ch → ch.launch = o.launch →
      let data := x.data.zipIdx.map fun b => (dest + b.2, b.1)
      let awaited : Prop := ch.wait = some (.get x.id)
      let ch' : Channel := if ch.wait = some (.get x.id) then { ch with wait := none } else { ch with sends := ch.sends.filter (· != x.id) }
      let stopped : Channel := { ch' with word := none, wait := ch'.getting.map ChanWait.get }
      let clear : Prop := ch'.sends = [] ∧ ch'.getting = none
      let ends (P : State → Prop) : Prop := Completes s .fabricOpComplete fun t => t.ops = s.ops.del x.id ∧ P t
      let before (u : State) : Prop := u.channel? h n = some ch' ∧ u.launches = s.launches ∧ u.driver = s.driver
      let same (u : State) : Prop := before u ∧ u.mem = s.mem ∧ u.host = s.host ∧ u.store = s.store
      (x.status = 0 → s.destFree o dest size = false → exec .fabricOpComplete s = .next s)
      ∧ (x.status = 0 → s.destFree o dest size = true → ¬ awaited →
          (ch.failed = none ∨ ¬ clear → ends fun t => SameMemory s t ∧ t.channel? h n = some ch')
          ∧ ∀ st dt, ch.failed = some (st, dt) → clear → ends fun t => ∃ u, same u ∧ ProgramEnded u t h n ch' st dt)
      ∧ (x.status = 0 → s.destFree o dest size = true → awaited → (∀ n, (s.slice n).wards = []) → Landable s o data →
          (ch.failed = none → ends fun t => Landed s t o data ∧ t.channel? h n = some (nextWord ch))
          ∧ (ch.failed ≠ none → ¬ clear → ends fun t => Landed s t o data ∧ t.channel? h n = some ch')
          ∧ ∀ st dt, ch.failed = some (st, dt) → clear → ends fun t =>
              ∃ u, before u ∧ Landed s u o data ∧ FormedMemory u ∧ ProgramEnded u t h n ch' st dt)
      ∧ (x.status ≠ 0 →
          (ch.failed = none → ends fun t => ∃ u, same u ∧ Fails u h n ch' 8 x.status t)
          ∧ (ch.failed ≠ none → ¬ clear → ends fun t => SameMemory s t ∧ t.channel? h n = some stopped)
          ∧ ∀ st dt, ch.failed = some (st, dt) → clear → ends fun t => ∃ u, same u ∧ ProgramEnded u t h n ch' st dt))
  ∧ (∀ s v i z x asleep comm k es, OfObject s v i z → (s.device v).held[i]? = some (x, asleep) → x.kind = .contrib comm k es →
      let refused : Prop := Completes s .slotContributionArrive fun t =>
        SameMemory s t ∧ t.comb = s.comb ∧ Answered s t x 4 0 [] ∧ Performed s t v i x 1
      (¬ MayPerform s v x asleep → exec .slotContributionArrive s = .next s)
      ∧ (MayPerform s v x asleep → (x.src, x.id) ∉ (s.device v).given →
        (s.slotOf v comm k = none → refused)
        ∧ ∀ j slot, s.slotOf v comm k = some (j, slot) →
          (slot.conf = none →
            let fits : Prop := (∀ y ∈ slot.staged, y.src ≠ x.src)
              ∧ (slot.staged.map fun y => 4 * y.entries.length).sum + 4 * es.length ≤ 2 ^ 20
            (fits → Completes s .slotContributionArrive fun t => SameMemory s t
              ∧ t.comb = s.comb.put j { slot with staged := slot.staged ++ [x] } ∧ t.acks = s.acks ∧ t.outbox = s.outbox
              ∧ Performed s t v i x 1)
            ∧ (¬ fits → refused))
          ∧ ∀ c n op nc, slot.conf = some c → slotConf c = some (n, op, nc) →
              let full := if op = 2 then 3 * n else n
              ((∃ e ∈ slot.contribs, e.1 = x.src) ∨ nc ≤ slot.contribs.length ∨ (es ≠ [] ∧ es.length ≠ full) → refused)
              ∧ ((∀ e ∈ slot.contribs, e.1 ≠ x.src) → slot.contribs.length < nc → (es = [] ∨ es.length = full) →
                  slot.result = none → Completes s .slotContributionArrive fun t => SameMemory s t ∧ Answered s t x 0 0 []
                    ∧ Performed s t v i x 1
                    ∧ t.comb = s.comb.put j { slot with
                        contribs := slot.contribs ++ [(x.src, es)],
                        result := if slot.contribs.length + 1 = nc then some (combineAll n op (slot.contribs ++ [(x.src, es)])) else none })))
  ∧ (∀ (n op : Nat) (cs : List (Nat × List DWord)) first rest, op < 3 → (first :: rest).Perm cs → (first :: rest).Pairwise (fun a b => a.1 < b.1) →
      (∀ c ∈ cs, c.2 = [] ∨ c.2.length = if op = 2 then 3 * n else n) →
      let word (c : Nat × List DWord) (i : Nat) : Nat :=
        if c.2 = [] then (if op = 1 ∨ (op = 2 ∧ i % 3 = 0) then 0xFF800000 else 0) else (c.2.getD i 0).toNat % 2 ^ 32
      let triple (c : Nat × List DWord) (i : Nat) : Nat × Nat × Nat := (word c (3 * i), word c (3 * i + 1), word c (3 * i + 2))
      let canon (w : Nat) : Nat := if Sys2Proof.Num.decode Sys2Proof.Num.f32 w = .nan then 0x7FC00000 else w
      let out (i : Nat) : Nat := ((combineAll n op cs).getD i 0).toNat % 2 ^ 32
      (op = 0 → ∀ i, i < n → out i = canon (rest.foldl (fun acc c => Sys2Proof.Num.addNE32 acc (word c i)) (word first i)))
      ∧ (op = 1 → ∀ i, i < n → out i = canon (rest.foldl (fun acc c => Sys2Proof.Num.maxNan32 acc (word c i)) (word first i)))
      ∧ (op = 2 → ∀ i, i < n →
          let r := rest.foldl (fun acc c => Sys2Proof.Num.smxMerge acc (triple c i)) (triple first i)
          out (3 * i) = canon r.1 ∧ out (3 * i + 1) = canon r.2.1 ∧ out (3 * i + 2) = canon r.2.2))
  ∧ (∀ s h y z n0 c0, OfObject s h y z → ((s.hinge h).switch = true ∨ (s.hinge h).running = none) →
      (n0, c0) ∈ (s.hinge h).chans → s.chanReady c0 = true → Completes s .channelSwitch fun t =>
        SameMemory s t ∧ (t.hinge h).ran = 0 ∧ (t.hinge h).switch = false
        ∧ ∃ n ch, (n, ch) ∈ (s.hinge h).chans ∧ s.chanReady ch = true ∧ (t.hinge h).running = some n
          ∧ ∀ m c, (m, c) ∈ (s.hinge h).chans → s.chanReady c = true →
              (64 ≤ c.passed → 64 ≤ ch.passed)
              ∧ ((64 ≤ c.passed ↔ 64 ≤ ch.passed) → c.prio ≤ ch.prio ∧ (c.prio = ch.prio → ch.last ≤ c.last)))
  ∧ (∀ (s : State) (ch : Channel), s.chanReady ch = true ↔ ch.started = true ∧ ch.failed = none ∧ ch.killed = false
      ∧ ¬ (ch.atCkpt = true ∧ (s.device ch.vd).moving = true) ∧ (s.device ch.vd).state ≠ .frozen ∧ (∀ id, ch.wait ≠ some (.get id))
      ∧ (ch.wait = some .sends → ch.sends = []) ∧ (∀ p, ch.wait = some (.credit p) → p ∉ ch.nocredit)
      ∧ (∀ k i x, ch.wait = some (.slot k) → s.slotOf ch.vd ch.comm k = some (i, x) → x.result ≠ none)
      ∧ ∀ a p f, ch.wait = some (.hasp a p f) → f = true ∧ s.locked (a / 128) = false
          ∧ ((s.hasp a).owned ch.vd ch.part = false ∨ (s.hasp a).phase ≠ p.toNat))
  ∧ (∀ (ch : Channel) (port : Nat) (b : Bool) (p : Nat), p ∈ (ch.credit port b).nocredit ↔
      if b then p ∈ ch.nocredit ∧ p ≠ port else p ∈ ch.nocredit ∨ p = port)
  ∧ ∀ s h y z n ch, OfObject s h y z → (s.hinge h).running = some n → s.channel? h n = some ch → ch.wait ≠ some .sends →
      (s.hinge h).switch = false → 2 ^ 21 ≤ (s.hinge h).ran →
      exec .channelRunLimit s = .next (s.withHinge h fun x => { x with switch := true })

/-! ## Events: registers, devices, the module (spec/16, /17) -/

/-- R427, R428, R388, R432, R73, R25, R26, R23, R419, R223, R430: a register write is taken once the host's accesses that arrived before it
have been performed (R138). One that may not reach its block is counted as refused and changes nothing else; one of a plug-in outside its
confinement is noted as a violation, one of a stopped plug-in and one that recovery does not serve do nothing; any other takes effect by
its register. Writing EN = 0 ends a keeper, and a fill of its range that is in flight completes as an ordinary one; a way that a
partition loses holds no line of the LLC; an invalidation leaves no translation of its range, and with a COUNT of 0 removes none; a wake
moves a collapsed device; an end and a doorbell of a guest reach its launches and the host; a queue's tail is taken when the queue has
room for it. No launch's number stands twice (TablesKept). That an invalidation ends in an event of its own is log 15, the vectors'
numbers are log 56, that a stopped plug-in's write and one in recovery do nothing and that a plug-in's stray write is noted and not
counted is log 57, and what TINVVA takes is log 73.
R20, R24, R67 to R70, R97 to R100, R165 to R167, R170, R175, R388, R402 to R405, R409, R429, R431, R436: what each register reads as after a
write that may reach it: the fields that can be written, or, for a refused or ignored write, what it read before. A device of class 3 has
further conditions (R420), and that a device moves to a partition only if its windows lie inside its bounds is log 58's reading; 6,144 GB is log 64. -/
def Obligations.RegisterEvents : Prop :=
  (
  (∀ s w, Arrived s w → writeSpecial w = false → Completes s .registerWrite fun t =>
      t.regWrites = s.regWrites.erase w ∧ SameMemory s t ∧ t.cores = s.cores ∧ t.launches = s.launches ∧ t.ops = s.ops
      ∧ (w.writer = .guest ∧ w.block ≠ .guest ∨ w.writer = .monitor ∧ w.block ≠ .partition
            ∨ w.writer = .hypervisor ∧ (w.block = .partition ∨ w.block = .guest) →
          t = { taken s w with module := { s.module with refused := min (s.module.refused + 1) (2 ^ 32 - 1) } })
      ∧ (∀ p, w.writer = .plugin p → s.module.stopped.get p false = true → t = taken s w)
      ∧ (∀ p, w.writer = .plugin p → s.module.stopped.get p false = false → ¬ BlockOf s p w →
          t = { taken s w with module := { s.module with violations := s.module.violations ++ [p] } })
      ∧ (s.module.svc = 0 → w.writer = .monitor → w.block = .partition → t = taken s w)
      ∧ (MayWrite s w → w.index < 128 →
          (w.block = .trap → w.offset = 0 →
            (canonical (w.value &&& ~~~3#64).toNat = true → t.readReg .trap w.index 0 = w.value &&& ~~~2#64)
            ∧ (canonical (w.value &&& ~~~3#64).toNat = false → t.devices = s.devices))
          ∧ (w.block = .trap → w.offset = 8 → t.readReg .trap w.index 8 = w.value &&& 1#64)
          ∧ (w.block = .queue → w.offset = 0x90 → t.readReg .queue w.index 0x90 = w.value)
          ∧ (w.block = .xlate → w.offset = 0x48 → t.readReg .xlate w.index 0x48 = w.value)
          ∧ (w.block = .vdev → w.offset = 0x28 → t.readReg .vdev w.index 0x28 = w.value &&& 0xFFFFFFFF#64)))
  ∧ (∀ s w, Arrived s w → w.block = .keeper → w.writer = .hypervisor →
      let ends : Prop := w.offset % 0x20 = 0x10 ∧ w.offset < 0x100 ∧ w.index < 4 ∧ w.value.getLsbD 63 = false
      (¬ ends → exec .kctlWrite s = .next (taken s w))
      ∧ (ends → Completes s .kctlWrite fun t => SameMemory s t
          ∧ (let k := (t.die w.index).keepers.get (w.offset / 0x20) Keeper.free
             k.en = false ∧ k.ways = [])
          ∧ (∀ n y, y ∈ (t.die w.index).l2.get n [] → y.kept ≠ some (w.offset / 0x20))
          ∧ (∀ y ∈ (t.die w.index).fills, y.keeper ≠ some (w.offset / 0x20))
          ∧ (∀ r ∈ t.requests, ∀ ef, r.kind ≠ .load w.index (some (w.offset / 0x20)) ef ∧ r.kind ≠ .own w.index (some (w.offset / 0x20)) ef)
          ∧ ∀ k, k ≠ w.offset / 0x20 → (t.die w.index).keepers.look k = (s.die w.index).keepers.look k))
  ∧ (∀ s w, Arrived s w → s.module.svc ≠ 0 → w.block = .partition → w.offset = 0x10 → w.writer = .monitor → w.index < 24 →
      let v := w.value &&& 0xFFFFFF#64
      let old := (s.partition w.index).ctl.get 0x10 0
      ((∃ x ∈ s.partitions, x.1 ≠ w.index ∧ x.2.ctl.get 0x10 0 &&& v ≠ 0) →
        exec .pllcwWrite s = .next (taken s w))
      ∧ ((∀ x ∈ s.partitions, x.1 ≠ w.index → x.2.ctl.get 0x10 0 &&& v = 0) → Completes s .pllcwWrite fun t => SameMemory s t
          ∧ (t.partition w.index).ctl.get 0x10 0 = v
          ∧ ∀ n m y, y ∈ (t.slice n).sets.get m [] → ¬ (old.getLsbD y.way = true ∧ v.getLsbD y.way = false)))
  ∧ (∀ s w, Arrived s w → w.block = .xlate → w.offset = 0x40 → w.writer = .hypervisor → w.index < 128 →
      let d := s.device w.index
      let mode := (w.value.extractLsb' 61 2).toNat
      let base := (d.xlate.get 0x48 0).toNat / 4096 * 4096
      let n := (w.value.extractLsb' 0 32).toNat
      let r : Nat × Nat := if mode = 0 then (0, 2 ^ 64) else if n = 0 then (0, 0) else (base, base + 4096 * n)
      (d.tinv ≠ none ∨ 2 ≤ mode → exec .tinvWrite s = .next ((taken s w).withDevice w.index fun x => { x with tinvErr := true }))
      ∧ (d.tinv = none → mode < 2 → Completes s .tinvWrite fun t => SameMemory s t ∧ OtherDevices s t w.index
          ∧ (t.device w.index).tinv = some r ∧ (t.device w.index).tinvErr = false ∧ NoTranslation t w.index r.1 r.2
          ∧ (mode = 1 → n = 0 → ∀ c, (t.core c).tlb1 = (s.core c).tlb1)))
  ∧ (∀ s v y z lo hi, OfObject s v y z → (s.device v).tinv = some (lo, hi) → NoneUnderWay s v lo hi →
      ∃ ps, exec .tinvComplete s = .next ({ s with verPages := ps }.withDevice v fun d => { d with tinv := none }))
  ∧ (∀ s v y z lo hi, OfObject s v y z → (s.device v).tinv = some (lo, hi) → ¬ NoneUnderWay s v lo hi → exec .tinvComplete s = .next s)
  ∧ (∀ s w, Arrived s w → w.block = .xlate → w.offset = 0 → w.writer = .hypervisor → w.index < 128 →
      ((∃ l ∈ s.launches, l.2.vd = w.index) ∨ (∃ g ∈ s.allGroups, s.vdOf g.2.2 = w.index)
          ∨ (∃ y ∈ s.allGangs, s.gangVd y.2.2 = w.index ∧ y.2.2.saved.groups ≠ []) → exec .grootWrite s = .next (taken s w))
      ∧ ((∀ l ∈ s.launches, l.2.vd ≠ w.index) → (∀ g ∈ s.allGroups, s.vdOf g.2.2 ≠ w.index)
          → (∀ y ∈ s.allGangs, s.gangVd y.2.2 = w.index → y.2.2.saved.groups = []) → Completes s .grootWrite fun t =>
          SameMemory s t ∧ OtherDevices s t w.index ∧ (t.device w.index).xlate.get 0 0 = w.value &&& 0x3FFFFFFFFC01#64
          ∧ NoTranslation t w.index 0 (2 ^ 64)))
  ∧ (∀ s w, w.index < 128 →
      let wakes (t : State) : State := t.withDevice w.index fun d =>
        if d.state = .collapsed then { d with state := .waking } else if d.state = .collapsing then { d with wakeHeld := true } else d
      (w.block = .vdev → w.offset = 0x48 → w.writer = .hypervisor → Takes s w .vwakeWrite wakes)
      ∧ (w.block = .guest → w.offset = 0 → w.writer = .guest → Takes s w .gwakeWrite wakes)
      ∧ (w.block = .guest → w.offset = 0x10 → w.writer = .guest → Takes s w .gdoorWrite fun t =>
          { t with msix := t.msix ++ [4 * w.index + w.value.toNat % 4] }))
  ∧ (∀ s w, Arrived s w → w.block = .guest → w.offset = 8 → w.writer = .guest → Rising s.launches → Completes s .gendWrite fun t =>
      SameMemory s t
      ∧ ∀ i l, s.launches.look i = some l → ∃ m, t.launches.look i = some m ∧ m.pkt = l.pkt
          ∧ m.ended = (if l.vd = w.index ∧ pkDone l.pkt = w.value.toNat then some (l.ended.getD 1) else l.ended))
  ∧ ∀ s w, Arrived s w → w.block = .queue → (w.offset = 8 ∨ w.offset = 0x28 ∨ w.offset = 0x48 ∨ w.offset = 0x68) →
      w.writer = .hypervisor → w.index < 128 →
      let d := s.device w.index
      let q := w.offset / 0x20
      let tail := (w.value.extractLsb' 0 32).toNat
      let head := ((d.queue.get (32 * q + 0x10) 0).extractLsb' 0 32).toNat
      let n := 2 ^ min ((d.queue.get (32 * q) 0).extractLsb' 0 4).toNat 12
      (n < (tail + 2 ^ 32 - head) % 2 ^ 32 → exec .sqtailWrite s = .next (taken s w))
      ∧ ((tail + 2 ^ 32 - head) % 2 ^ 32 ≤ n → Completes s .sqtailWrite fun t => SameMemory s t ∧ OtherDevices s t w.index
          ∧ (t.device w.index).queue.get w.offset 0 = BitVec.ofNat 64 tail
          ∧ (d.state = .collapsed → tail ≠ head → (t.device w.index).state = .waking)
          ∧ (d.state ≠ .collapsed → (t.device w.index).state = d.state)))
  ∧ (
  ∀ s w, Arrived s w → writeSpecial w = false → MayWrite s w → w.offset < 0x100 →
  let o := w.offset
  let old (x : Nat) : DWord := s.readReg w.block w.index x
  let after (v : DWord) (x : Nat) : DWord := if x = o then v else old x
  let sets (v : DWord) (ok : Prop) : Prop := (ok → RegisterReads s w v) ∧ (¬ ok → RegisterKept s w)
  let d := s.device w.index
  let window (t : Nat) : Nat × Nat := ((s.readReg .xlate w.index (0x10 + 16 * t)).toNat, (s.readReg .xlate w.index (0x18 + 16 * t)).toNat)
  let inHbm (lo hi : Nat) : Prop := hi ≤ lo ∨ ((window 0).1 ≤ lo ∧ hi ≤ (window 0).2)
  let plain : Prop := d.state = .none ∨ d.cls ≠ 3
  -- translation control: WINLO t and WINHI t
  (w.block = .xlate → w.index < 128 → ∀ t, t < 3 → o = 0x10 + 16 * t ∨ o = 0x18 + 16 * t → plain → d.part < 24 →
    let v := w.value &&& 0x3FFFFFE00000#64
    sets v ((after v (0x18 + 16 * t)).toNat ≤ (after v (0x10 + 16 * t)).toNat
      ∨ (after v (0x18 + 16 * t)).toNat ≤ (s.readReg .partition d.part (0x38 + 16 * t)).toNat))
  ∧ (w.block = .xlate → 0x50 ≤ o → RegisterKept s w)
  -- cache control: the limits, the counts, KEEPQ
  ∧ (w.block = .cache → w.index < 128 → ∀ i, i < 4 → o = 8 * i ∨ o = 0x40 + 8 * i → RegisterReads s w (w.value &&& 0x80000000003FFFFF#64))
  ∧ (w.block = .cache → w.index < 128 → o = 0x80 → RegisterReads s w (w.value &&& 0xF0F#64))
  ∧ (w.block = .cache → (0x20 ≤ o ∧ o < 0x40) ∨ (0x60 ≤ o ∧ o < 0x80) ∨ 0x88 ≤ o → RegisterKept s w)
  -- version control
  ∧ (w.block = .version → w.index < 24 →
      let used : Prop := s.recordsUsed w.index true ≠ 0 ∨ s.recordsUsed w.index false ≠ 0
      let area (v : DWord) (base size tier : Nat) : Prop := (after v size).toNat % 2 ^ 32 = 0
        ∨ (after v base).toNat + 256 * ((after v size).toNat % 2 ^ 32) ≤ (s.readReg .partition w.index (0x38 + 16 * tier)).toNat
      (o = 0 → let v := w.value &&& 0x3FFFFFE00000#64; sets v (¬ used ∧ area v 0 8 0))
      ∧ (o = 8 → let v := w.value &&& 0xFFFFFFFF#64; sets v (¬ used ∧ area v 0 8 0))
      ∧ (o = 0x10 → let v := w.value &&& 0x3FFFFFE00000#64; sets v (¬ used ∧ area v 0x10 0x18 1))
      ∧ (o = 0x18 → let v := w.value &&& 0xFFFFFFFF#64; sets v (s.recordsUsed w.index false ≤ v.toNat ∧ area v 0x10 0x18 1))
      ∧ (o = 0x30 → RegisterReads s w (w.value &&& 0xFF#64))
      ∧ (o ∉ [0, 8, 0x10, 0x18, 0x30] → RegisterKept s w)
      ∧ old 0x20 = BitVec.ofNat 64 (s.recordsUsed w.index true) ∧ old 0x28 = BitVec.ofNat 64 (s.recordsUsed w.index false))
  -- fabric control
  ∧ (w.block = .fabric → w.index < 128 →
      (o = 8 → let v := w.value &&& ~~~0x1FFFFF#64; sets v (d.job = none ∧ canonical v.toNat = true))
      ∧ (o = 0x10 ∨ o = 0x18 → plain → let v := w.value &&& 0x3FFFFFFFF000#64; sets v (inHbm (after v 0x10).toNat (after v 0x18).toNat))
      ∧ (o = 0x20 → sets (w.value &&& ~~~0xFFE#64) (canonical (w.value &&& ~~~0xFFF#64).toNat = true))
      ∧ (o = 0x28 → sets (w.value &&& ~~~0xFE0#64) (canonical (w.value &&& ~~~0xFFF#64).toNat = true))
      ∧ (o ∉ [8, 0x10, 0x18, 0x20, 0x28] → RegisterKept s w))
  -- trap control: the save area
  ∧ (w.block = .trap → w.index < 128 → o = 0x10 ∨ o = 0x18 →
      let v := if o = 0x10 then w.value &&& 0x3FFFFFE00000#64 else w.value &&& 0xFFFFFFFF#64
      let base := (after v 0x10 &&& 0x3FFFFFE00000#64).toNat
      let may : Prop := s.hasGroups w.index = false ∧ inHbm base (base + 2 ^ 21 * ((after v 0x18).toNat % 2 ^ 32))
      (d.state = .none → sets v may) ∧ (¬ may → RegisterKept s w))
  -- device control
  ∧ (w.block = .vdev → w.index < 128 →
      (o = 0 →
        let code : Nat := match d.state with
          | .none => 0 | .active => 1 | .collapsing => 2 | .collapsed => 3 | .waking => 4 | .frozen => 5 | .forwarding => 6 | .lost => 7
        let part := (w.value.extractLsb' 32 5).toNat
        let prior := d.ctl.get 0 0
        ∃ x : DWord, RegisterReads s w (BitVec.ofNat 64 (code * 2 ^ 60 + d.window) ||| x) ∧ x &&& ~~~0x3FF1F00000000#64 = 0
        ∧ x.extractLsb' 40 8 = w.value.extractLsb' 40 8
        ∧ (d.state ≠ .none → x.extractLsb' 48 2 = prior.extractLsb' 48 2 ∧ x.extractLsb' 32 5 = prior.extractLsb' 32 5)
        ∧ (d.state = .none → x.extractLsb' 48 2 = w.value.extractLsb' 48 2
            ∧ (24 ≤ part → x.extractLsb' 32 5 = prior.extractLsb' 32 5)
            ∧ (part < 24 → (∀ t, t < 3 → (window t).2 ≤ (window t).1 ∨ (window t).2 ≤ (s.readReg .partition part (0x38 + 16 * t)).toNat) →
                x.extractLsb' 32 5 = w.value.extractLsb' 32 5)))
      ∧ (o = 8 → plain → let v := w.value &&& 0xFFFFFFFF#64
          sets v (d.state = .none ∨ 4 * (old 0x10).toNat ≤ v.toNat ∨ ((d.ctl.get 8 0).extractLsb' 0 32).toNat ≤ v.toNat))
      ∧ (o = 0x18 → d.state = .none → RegisterReads s w (w.value &&& 0x80000000FFFFFFFF#64))
      ∧ (o = 0x20 → RegisterReads s w (w.value &&& 0x80000000FFFFFFFF#64))
      ∧ (o = 0x28 → RegisterReads s w (w.value &&& 0xFFFFFFFF#64))
      ∧ (o = 0x30 → d.cls ≠ 3 → let v := w.value &&& 0xFFFFFFFF#64
          let held : Prop := ∃ x ∈ s.devices, x.1 ≠ w.index ∧ x.2.part = d.part ∧ x.2.state ≠ .none ∧ x.2.cls = 3 ∧ x.2.ctl.get 0x30 0 &&& v ≠ 0
          sets v (d.state = .none ∨ (d.state = .active ∧ ¬ held)))
      ∧ (o = 0x40 → RegisterReads s w w.value)
      ∧ (o = 0x10 ∨ 0x50 ≤ o → RegisterKept s w))
  -- no write raises the save bound of a device above a quarter of its quantum, or lowers the quantum below four times the bound
  ∧ (w.block = .vdev ∨ w.block = .trap → w.index < 128 → d.state ≠ .none → Completes s .registerWrite fun t =>
      let bound (x : State) : Nat := (x.readReg .vdev w.index 0x10).toNat
      let us (x : State) : Nat := (x.readReg .vdev w.index 8).toNat % 2 ^ 32
      4 * bound t ≤ us t ∨ (bound t ≤ bound s ∧ us s ≤ us t))
  -- queues and checkpoints
  ∧ (w.block = .queue → w.index < 128 →
      (∀ q, q < 4 → o = 32 * q → sets (w.value &&& 0x3FFFFFFFFC0F#64) ((old (32 * q + 8)).extractLsb' 0 32 = (old (32 * q + 16)).extractLsb' 0 32))
      ∧ (o = 0x80 → RegisterReads s w (w.value &&& 0x8000FFFFFFFFFFFF#64))
      ∧ (o = 0x88 ∨ o = 0x90 → RegisterReads s w w.value)
      ∧ (o % 32 = 16 ∨ o % 32 = 24 ∨ 0xA0 ≤ o → o ≠ 0x90 → o ≠ 0x98 → RegisterKept s w))
  -- partitions
  ∧ (w.block = .partition → w.index < 24 →
      let used : Prop := ∃ x ∈ s.devices, x.2.part = w.index ∧ x.2.state ≠ .none
      let taken (v : DWord) : Prop := ∃ x ∈ s.partitions, x.1 ≠ w.index ∧ x.2.ctl.get o 0 &&& v ≠ 0
      let loses (v : DWord) : Prop := used ∧ old o &&& ~~~v ≠ 0
      let order (v : DWord) : Prop := TiersInOrder s w.index (after v)
      (o = 0 → let v := w.value &&& 0xFFFFFF#64
        (taken v ∨ loses v → RegisterKept s w) ∧ (¬ taken v → ¬ loses v → ¬ used → RegisterReads s w v))
      ∧ (o = 8 → let v := w.value &&& 0xFFFFFFFF#64; sets v (¬ taken v ∧ ¬ loses v ∧ order v))
      ∧ (o = 0x18 ∨ o = 0x20 → sets w.value (¬ taken w.value ∧ ¬ loses w.value))
      ∧ (∀ t, t < 3 → o = 0x30 + 16 * t → let v := w.value &&& 0x3FFFFFE00000#64; sets v (¬ (used ∧ old o ≠ v) ∧ order v))
      ∧ (∀ t, t < 3 → o = 0x38 + 16 * t → let v := w.value &&& 0x3FFFFFE00000#64
          sets v (order v ∧ ∀ x ∈ s.devices, x.2.part = w.index → ∀ u, u < 3 →
            let lo := (x.2.xlate.get (0x10 + 16 * u) 0).toNat
            let hi := (x.2.xlate.get (0x18 + 16 * u) 0).toNat
            hi ≤ lo ∨ hi ≤ (after v (0x38 + 16 * u)).toNat))
      ∧ (o = 0x60 ∨ o = 0x68 → let v := w.value &&& 0xFFF#64
          let share (r : Nat → DWord) : Nat × Nat := (((r 0x60).extractLsb' 0 12).toNat, ((r 0x68).extractLsb' 0 12).toNat)
          let me := share (after v)
          sets v (me.1 + me.2 ≤ 1862 ∧ (∀ x ∈ s.devices, x.2.part = w.index → x.2.ckpt = none)
            ∧ ∀ x ∈ s.partitions, x.1 ≠ w.index → let he := share fun r => (s.partition x.1).ctl.get r 0
              me.2 = 0 ∨ he.2 = 0 ∨ me.1 + me.2 ≤ he.1 ∨ he.1 + he.2 ≤ me.1))
      ∧ (o = 0x28 ∨ 0x70 ≤ o → RegisterKept s w))
  -- the module
  ∧ (w.block = .module → w.index = 0 → (o = 0x18 → RegisterReads s w (w.value &&& ~~~0x1FFE#64)) ∧ (o ≠ 0x18 → RegisterKept s w)))

/-- R406 to R410, R413, R414, R417 to R420, R422, R424, R425: a command to a device that runs one only sets STATUS to 1; else each ends with
the status of the first condition that it does not meet, or does what it is for. A join is stated where no open, acceptance or checkpoint
of the device waits for a window, and waits for a locked line of its descriptor; a restoration waits for a locked line of a route that a
transfer of the image is to be sent by (R78). That a command without anything to wait for ends at once is log 15; the image as a structure and what a
restoration reads of it are log 17; which status the corners of join, leave and migrate-out have is log 60. -/
def Obligations.DeviceCommands : Prop :=
  (∀ s w n i, (n, i) ∈ [(1, Instr.vdCreate), (2, .vdDestroy), (3, .vdJoin), (4, .vdLeave), (5, .vdCollapse), (6, .vdWake),
        (7, .vdMigrateOut), (8, .vdMigrateIn), (9, .vdEndForwarding)] →
      w.block = .vdev → w.offset = 0x38 → w.writer = .hypervisor → w.index < 128 → w.value.toNat % 256 = n →
      (s.device w.index).busy = true → Takes s w i fun t => t.withDevice w.index fun d => { d with status := 1 })
  ∧ (∀ s w, Command s w 1 →
      let d := s.device w.index
      let us := ((d.ctl.get 8 0).extractLsb' 0 32).toNat
      let n := s.coreCount d.part
      (d.state ≠ .none → EndsWith s w .vdCreate 6)
      ∧ (d.state = .none → us = 0 → EndsWith s w .vdCreate 2)
      ∧ (d.state = .none → us ≠ 0 → us < 4 * s.saveBound d n → EndsWith s w .vdCreate 3)
      ∧ (d.state = .none → us ≠ 0 → 4 * s.saveBound d n ≤ us →
          let cores := ((d.trap.get 0x18 0).extractLsb' 0 32).toNat
          let taken3 : Prop := ∃ x ∈ s.devices, x.1 ≠ w.index ∧ x.2.part = d.part ∧ x.2.state ≠ .none ∧ x.2.cls = 3
            ∧ x.2.ctl.get 0x30 0 &&& d.ctl.get 0x30 0 ≠ 0
          let bad3 : Prop := d.cls = 3 ∧ s.classOk w.index d = false
          (cores < 3 * n → EndsWith s w .vdCreate 4)
          ∧ (3 * n ≤ cores → (d.cls = 0 ∨ taken3 ∨ bad3) → EndsWith s w .vdCreate 5)
          ∧ (3 * n ≤ cores → d.cls ≠ 0 → ¬ taken3 → ¬ bad3 → Completes s .vdCreate fun t => SameMemory s t ∧ OtherDevices s t w.index
              ∧ (let x := t.device w.index
                 x.state = .active ∧ x.window = 0 ∧ x.wStart = s.ptp ∧ x.commitSeq = 1 ∧ x.job = none ∧ x.busy = false ∧ x.status = 0
                 ∧ x.xlate = d.xlate ∧ x.trap = d.trap ∧ x.queue = d.queue))))
  ∧ (∀ s w, Command s w 2 →
      let d := s.device w.index
      let may : Prop := d.state = .active ∨ d.state = .collapsed ∨ d.state = .frozen ∨ d.state = .lost
      (¬ may → EndsWith s w .vdDestroy 6)
      ∧ (may → Completes s .vdDestroy fun t => SameMemory s t ∧ OtherDevices s t w.index
          ∧ LaunchesEnded s t w.index 3 ∧ NoTranslation t w.index 0 (2 ^ 64)
          ∧ (let x := t.device w.index
             x.busy = true ∧ x.state = d.state ∧ x.job = none ∧ x.launchQueue = [] ∧ x.taken = [] ∧ x.granted = [] ∧ x.held = []
             ∧ x.forward = [] ∧ x.unsent = [] ∧ x.ckpt = none)))
  ∧ (∀ s w, Command s w 3 →
      let v := w.index
      let d := s.device v
      let a := (d.ctl.get 0x40 0).toNat
      let b := s.readMem .hbm (s.reloc v .hbm a) 64
      let f (o n : Nat) : Nat := ofBytes ((b.drop o).take n)
      (d.state ≠ .active → EndsWith s w .vdJoin 6)
      ∧ (d.state = .active → s.pbound d.part .hbm < a + 64 → EndsWith s w .vdJoin 7)
      ∧ (d.state = .active → a + 64 ≤ s.pbound d.part .hbm →
          let free : Prop := s.lockedAt .hbm (s.reloc v .hbm a) 64 = none
          (¬ free → exec .vdJoin s = .next s)
          ∧ (free → d.job ≠ none ∨ s.module.svc ≠ 2 ∨ f 0x0C 1 < 21 ∨ 48 < f 0x0C 1 ∨ 10 < f 0x0D 1 ∨ f 0x0A 2 < f 8 2 → EndsAfter s w .vdJoin 7)
          ∧ (free → s.joinRefused v b = false → NoCommitWaits s → NothingOpens s v → Completes s .vdJoin fun t => SameMemory s t
              ∧ (let x := t.device v
                 x.window = f 0x18 4 ∧ x.wStart = f 0x10 8 ∧ x.wFirst = f 0x18 4 ∧ x.wLen = 1000 * 2 ^ f 0x0D 1 ∧ x.commitSeq = 1
                 ∧ x.job = some { jobid := BitVec.ofNat 64 (f 0 8), rank := f 8 2, last := f 0x0A 2, wlog := f 0x0C 1,
                                  routes := f 0x20 8, fresh := true }
                 ∧ x.fabric.get 0 0 = BitVec.ofNat 64 (2 ^ 63 + f 0x0C 1 * 2 ^ 48 + f 8 2 * 2 ^ 32 + f 0x0A 2 * 2 ^ 16)
                 ∧ x.busy = false ∧ x.status = 0))))
  ∧ (∀ s w, Command s w 4 →
      let d := s.device w.index
      ((d.state ≠ .active ∨ ∃ l ∈ s.launches, l.2.vd = w.index) → EndsWith s w .vdLeave 6)
      ∧ (d.state = .active → (∀ l ∈ s.launches, l.2.vd ≠ w.index) →
          (d.job = none → EndsWith s w .vdLeave 0)
          ∧ (d.job ≠ none → Completes s .vdLeave fun t => SameMemory s t ∧ OtherDevices s t w.index
              ∧ (let x := t.device w.index
                 x.job = none ∧ x.fabric.look 0 = none ∧ x.conns = [] ∧ x.markers = [] ∧ x.unsent = [] ∧ x.window = d.window ∧ x.wStart = s.ptp
                 ∧ x.wFirst = winAdd d.window 1 ∧ x.wLen = 8000 ∧ x.busy = false ∧ x.status = 0))))
  ∧ (∀ s w, Command s w 5 →
      let d := s.device w.index
      ((d.state ≠ .active ∨ s.hasWork w.index = true) → EndsWith s w .vdCollapse 6)
      ∧ (d.state = .active → s.hasWork w.index = false → exec .vdCollapse s = .next ((begun s w).withDevice w.index fun x =>
          { x with state := .collapsing, wakeHeld := false, idleSince := none, busy := true })))
  ∧ (∀ s w, Command s w 6 →
      ((s.device w.index).state ≠ .collapsed → EndsWith s w .vdWake 6)
      ∧ ((s.device w.index).state = .collapsed → exec .vdWake s = .next ((begun s w).withDevice w.index fun x =>
          { x with state := .waking, busy := true })))
  ∧ (∀ s w, Command s w 7 →
      let d := s.device w.index
      let m := ((d.ctl.get 0x40 0).extractLsb' 0 32).toNat
      (d.state ≠ .active → EndsWith s w .vdMigrateOut 6)
      ∧ (d.state = .active → (d.job = none ∨ winBefore m (winAdd d.window 2) = true) → EndsWith s w .vdMigrateOut 8)
      ∧ (d.state = .active → d.job ≠ none → winBefore m (winAdd d.window 2) = false →
          exec .vdMigrateOut s = .next ((begun s w).withDevice w.index fun x => { x with cut := some m, busy := true })))
  ∧ (∀ s w, Command s w 8 →
      let v := w.index
      let own := s.device v
      let at_ := (own.ctl.get 0x40 0).toNat
      (s.images.look at_ = none → EndsWith s w .vdMigrateIn (if own.state = .none then 8 else 6))
      ∧ ∀ x, s.images.look at_ = some x →
          (own.state ≠ .none → EndsWith s w .vdMigrateIn 6)
          ∧ (let t1 := (begun s w).withDevice v fun d => x.device.restored d s.ptp
             let inside (a : Nat) : Prop := ∃ tier, (tier = Tier.hbm ∨ tier = Tier.second)
               ∧ t1.reloc v tier (t1.window v tier).1 ≤ a ∧ a < t1.reloc v tier (t1.window v tier).2
             let fits : Prop := t1.createStatus v = 0 ∧ t1.windowsFit (t1.device v) own.part = true
               ∧ (∀ y ∈ x.gangs, y.1 < (t1.coresOf own.part).length) ∧ x.slots.length ≤ t1.freeSlotNumbers.length
               ∧ t1.placeChannels own.part x.channels ≠ none
             (own.state = .none → ¬ fits → t1.reissueHeld v x = false → EndsWith s w .vdMigrateIn 8)
             ∧ (own.state = .none → fits → t1.reissueHeld v x = true → exec .vdMigrateIn s = .next s)
             ∧ (own.state = .none → fits → t1.reissueHeld v x = false → s.mem.wf = true → Completes s .vdMigrateIn fun t =>
               (∀ a, t.host.read a = s.host.read a ∧ t.store.read a = s.store.read a)
               ∧ (∀ a, (∀ b ∈ x.bytes, t1.reloc v b.1 b.2.1 ≠ a) → (inside a → t.mem.read a = 0) ∧ (¬ inside a → t.mem.read a = s.mem.read a))
               ∧ (x.bytes.Pairwise (fun b c => t1.reloc v b.1 b.2.1 ≠ t1.reloc v c.1 c.2.1) →
                   ∀ b ∈ x.bytes, t.mem.read (t1.reloc v b.1 b.2.1) = b.2.2)
               ∧ (Rising x.launches → ∀ i l, x.launches.look i = some l → ∃ m, t.launches.look (i + s.nextLaunch) = some m
                   ∧ m.vd = v ∧ m.part = own.part ∧ m.pkt = l.pkt ∧ m.ended = l.ended)
               ∧ (let d := t.device v
                  d.state = .active ∧ d.window = x.device.window ∧ d.job = x.device.job ∧ d.held = [] ∧ (∀ y ∈ d.forward, y.forwarded = true)
                  ∧ d.busy = false ∧ d.status = 0))))
  ∧ ∀ s w, Command s w 9 →
      ((s.device w.index).state ≠ .forwarding → EndsWith s w .vdEndForwarding 6)
      ∧ ((s.device w.index).state = .forwarding → exec .vdEndForwarding s = .next ((begun s w).withDevice w.index fun x =>
          { x with busy := true }))

/-- R127, R129, R410, R412, R416 to R419, R424, R425: a destroyed device of which nothing is left is none; an idle one collapses when its time
is over, drops what its class says, and wakes when asked; budgets rise each microsecond up to 16 times their limit; a device enters its
next window when it is due and every marker for the last one is complete, and tells its peers; what it could not tell for want of a route
it keeps, and tries again at each turn of that event (log 29); one that is frozen begins to forward, and a forwarding one ends when nothing is left to acknowledge. An entry of a
window is stated where no open of the device waits for it. A limit throttles its device when it is enabled, and 0, or its budget is below
0. The energy of a microsecond is a free value and budgets start at 0 (log 13);
lost and frozen devices enter windows too, and one that is being moved is not idle (log 59). -/
def Obligations.DeviceEvents : Prop :=
  (∀ s v y z, OfObject s v y z → (s.device v).dying = true → (∀ l ∈ s.launches, l.2.vd ≠ v) → (∀ o ∈ s.ops, o.2.vd ≠ v) →
      NoneUnderWay s v 0 (2 ^ 64) → Completes s .vdDestroyComplete fun t => SameMemory s t ∧ OtherDevices s t v
        ∧ NoTranslation t v 0 (2 ^ 64) ∧ (∀ x ∈ t.verPages, x.1 ≠ v)
        ∧ (let x := t.device v
           x.state = .none ∧ x.busy = false ∧ x.status = 0 ∧ x.job = none ∧ x.xlate = (s.device v).xlate ∧ x.trap = (s.device v).trap))
  ∧ (∀ s v y z since, OfObject s v y z → s.idle v = true → (s.device v).idleSince = some since →
      let us := (((s.device v).live.get 0x28 0).extractLsb' 0 32).toNat
      us ≠ 0 → since + 1000 * us ≤ s.ptp → exec .idleTimeout s = .next (s.withDevice v fun d =>
        { d with state := .collapsing, wakeHeld := false, idleSince := none }))
  ∧ (∀ s v y z, OfObject s v y z → (s.device v).state = .collapsing → Completes s .collapseComplete fun t =>
      let d := s.device v
      SameMemory s t ∧ OtherDevices s t v ∧ t.cores = s.cores
      ∧ (t.device v).state = (if d.wakeHeld then .waking else .collapsed) ∧ (t.device v).busy = false ∧ (t.device v).wakeHeld = false
      ∧ (d.cls = 1 → t.dies = s.dies ∧ t.slices = s.slices)
      ∧ (2 ≤ d.cls → ∀ x ∈ t.dies, ∀ n l, l ∈ x.2.l2.get n [] → l.vd ≠ v)
      ∧ (d.cls = 3 → ∀ x ∈ t.slices, ∀ n l, l ∈ x.2.sets.get n [] → l.vd ≠ v))
  ∧ (∀ s v y z, OfObject s v y z → (s.device v).state = .waking → exec .wakeComplete s = .next (s.withDevice v fun d =>
      { d with state := .active, busy := false, status := if d.busy then 0 else d.status }))
  ∧ (∀ s v y z, OfObject s v y z →
      let d := s.device v
      let grown (r : DWord) (b : Int) (used : Nat) : Int :=
        let lim : Nat := (r.extractLsb' 0 32).toNat
        if r.getLsbD 63 then min (b - used + lim) (16 * lim) else b
      d.state ≠ .none → d.budgetAt + 1000 ≤ s.ptp → exec .budgetTick s = .next (s.withDevice v fun x => { x with
        bytes := grown (d.live.get 0x18 0) d.bytes 0, energy := grown (d.live.get 0x20 0) d.energy (Config.energyUsed s.tick v),
        budgetAt := d.budgetAt + 1000 }))
  ∧ (∀ d : Device,
      let stops (r : DWord) (b : Int) : Prop := r.getLsbD 63 = true ∧ (r.extractLsb' 0 32 = 0#32 ∨ b < 0)
      d.throttled = true ↔ stops (d.live.get 0x18 0) d.bytes ∨ stops (d.live.get 0x20 0) d.energy)
  ∧ (∀ s v y z, OfObject s v y z →
      let d := s.device v
      let m := winAdd d.window 1
      let start := d.wStart + (m + 2 ^ 32 - d.wFirst % 2 ^ 32) % 2 ^ 32 * d.wLen
      let complete (r : Nat) : Prop := ∃ x ∈ d.markers, x.src = r ∧ x.window = winAdd d.window (-1)
        ∧ x.count ≤ d.performed.get (winAdd d.window (-1) % 2 ^ 32 * 2 ^ 16 + r % 2 ^ 16) 0
      let due : Prop := start ≤ s.ptp ∧ ∀ j, d.job = some j → j.fresh = true ∨ ∀ r, r ≤ j.last → complete r
      (¬ due → d.unsent = [] → exec .windowEnter s = .next s)
      ∧ (¬ due → Completes s .windowEnter fun t => SameMemory s t ∧ OtherDevices s t v ∧ (t.device v).window = d.window
          ∧ (t.device v).wStart = d.wStart ∧ ∀ x ∈ d.unsent, SignalGone s t v x)
      ∧ (due → d.state ≠ .none → d.state ≠ .forwarding → d.cut = none → NoCommitWaits s → NothingOpens s v → Completes s .windowEnter fun t => SameMemory s t
            ∧ (t.device v).window = m ∧ (t.device v).wStart = start ∧ (t.device v).wFirst = m ∧ (t.device v).commitSeq = 1 ∧ (t.device v).state = d.state
            ∧ (∀ x ∈ d.unsent, SignalGone s t v x)
            ∧ ∀ j, d.job = some j → ∀ r, r ≤ j.last → SignalGone s t v (r, .marker
                { vd := 0, src := j.rank, window := d.window, count := d.sent.get (d.window % 2 ^ 32 * 2 ^ 16 + r % 2 ^ 16) 0 })))
  ∧ (∀ s v y z, OfObject s v y z → (s.device v).state = .frozen → Completes s .forwardingEntry fun t => SameMemory s t
      ∧ OtherDevices s t v ∧ ∃ xs : List FabOp, xs.Perm (s.device v).forward ∧ t.outbox = s.outbox ++ xs.map (fun x => OutMsg.forward { x with forwarded := true })
        ∧ t.device v = { s.device v with state := .forwarding, forward := [], forwarded := xs.length })
  ∧ ∀ s v y z, OfObject s v y z → (s.device v).state = .forwarding → (s.device v).busy = true → (s.device v).forwarded = 0 →
      (((s.device v).ctl.get 0x38 0).extractLsb' 0 8).toNat = 9 → Completes s .vdEndForwarding fun t => SameMemory s t
        ∧ OtherDevices s t v ∧ (t.device v).state = .none ∧ (t.device v).busy = false ∧ (t.device v).status = 0

/-- R432 to R437, R401, R431, R394, R31: a command written to the mailbox begins, or is answered as busy or unknown, and in recovery only
command 1 begins; firmware serves the one in progress and answers it. A reset leaves every part at its reset values and memory as it was;
training, sags and their recovery change the service and the sag; an error is counted, or contained to lanes of a group, an engine
operation, a table, a device, a partition or a checkpoint, and recorded; a plug-in that violates its confinement is stopped, and its
tenant's devices are fenced. What an error would record waits for a locked line of the record (R78), and an error in what a stationary load
has read already is none. A checkpoint begins with its key and its shards, which are checked once the key is held and no line that they
need is locked, and ends with their bytes in the store. No device's number stands twice (TablesKept). Signatures, the identity key and what is authentic are free (log 8);
the manifest's widths are log 18, SHA-256 is log 26, the window of a partition with several devices is log 55, the error vector is log
56, what a reset keeps and who a tenant is is log 57, the byte of an error is log 62, that an engine operation's error within a clause marks
the clause, and that an error in a table is logged when it is reported, is log 67, the statuses of corners of the list are log 63, and
the order of the attested bytes is log 68. -/
def Obligations.ModuleEvents : Prop :=
  (∀ s w, Arrived s w → w.block = .module → w.offset = 0x100 → w.writer = .hypervisor → s.module.mbox.wf = true →
      let c := w.value.toNat % 2 ^ 32
      Completes s .registerWrite fun t => SameMemory s t
        ∧ (s.module.cmd ≠ none → t.module.cmd = s.module.cmd ∧ MboxStatus t 4)
        ∧ (s.module.cmd = none → (c = 1 ∨ (c = 2 ∧ s.module.svc ≠ 0)) → t.module.cmd = some c ∧ MboxStatus t 0)
        ∧ (s.module.cmd = none → c ≠ 1 → c ≠ 2 → s.module.svc ≠ 0 → t.module.cmd = none ∧ MboxStatus t 2)
        ∧ (s.module.cmd = none → c ≠ 1 → s.module.svc = 0 → t.module.cmd = none
            ∧ t.module.mbox = s.module.mbox.writeAll 0 (toBytes 8 w.value.toNat)))
  ∧ (∀ s, s.module.mbox.wf = true →
      (s.module.cmd = some 1 →
        let image := s.host.readAll (ofBytes (s.module.mbox.readAll 8 8)) (ofBytes (s.module.mbox.readAll 16 8))
        (Config.imageSigned image = true → Completes s .loadImage fun t => SameMemory s t ∧ t.module.image = image ∧ MboxStatus t 1
            ∧ t.module.cmd = none)
        ∧ (Config.imageSigned image = false → Completes s .loadImage fun t => SameMemory s t ∧ t.module.image = s.module.image
            ∧ MboxStatus t 3 ∧ t.module.cmd = none))
      ∧ (s.module.cmd = some 2 → Completes s .attest fun t =>
            let body := s.module.mbox.readAll 8 32 ++ sha256 s.module.image ++ sha256 s.partitionBytes ++ exactly 64 Config.identityKey
            SameMemory s t ∧ MboxStatus t 1 ∧ t.module.cmd = none
            ∧ t.module.mbox.readAll 8 224 = body ++ exactly 64 (Config.signature (sha256 body)))
      ∧ (s.module.cmd ≠ some 1 → exec .loadImage s = .next s) ∧ (s.module.cmd ≠ some 2 → exec .attest s = .next s))
  ∧ (∀ s, Completes s .moduleReset fun t => SameMemory s t ∧ t.ptp = s.ptp ∧ t.module.image = s.module.image
      ∧ t.module.svc = (if Config.imageAuthentic s.module.image then 1 else 0) ∧ t.module.sag = 0 ∧ t.module.cmd = none
      ∧ t.cores = [] ∧ t.dies = [] ∧ t.slices = [] ∧ t.hinges = [] ∧ t.partitions = [] ∧ t.devices = [] ∧ t.launches = [] ∧ t.ops = [])
  ∧ (∀ s,
      let boundary : Prop := (∀ g ∈ s.allGroups, g.2.2.clause.live = false)
        ∧ ∀ y ∈ s.allGangs, ∀ g ∈ y.2.2.saved.groups, g.2.clause.live = false
      (s.module.svc = 1 → boundary → exec .linkTrainingComplete s = .next { s with module := { s.module with svc := 2 } })
      ∧ (¬ (s.module.svc = 1 ∧ boundary) → exec .linkTrainingComplete s = .next s))
  ∧ (∀ s, exec .supplySag s = .next { s with module := { s.module with
      sag := min (s.module.sag + 1) 8, sagReported := true, sagAt := s.ptp } })
  ∧ (∀ s, (s.module.sagReported = false → 0 < s.module.sag → s.module.sagAt + 10000 ≤ s.ptp →
        exec .sagRecovery s = .next { s with module := { s.module with sag := s.module.sag - 1, sagAt := s.module.sagAt + 10000 } })
      ∧ ((s.module.sagReported = true ∨ s.module.sag = 0 ∨ s.ptp < s.module.sagAt + 10000) → exec .sagRecovery s = .next s))
  ∧ (∀ s, exec .correctedError s = .next { s with module := { s.module with corrected := min (s.module.corrected + 1) (2 ^ 32 - 1) } })
  ∧ (∀ s e, s.actor = .report e →
      let logged (t : State) (scope part vd : Nat) : Prop :=
        let seq := (s.module.elogHead.toNat + 1) % 2 ^ 64
        t.module.elogHead = BitVec.ofNat 64 seq
        ∧ (s.module.elogBase.getLsbD 0 = false → t.msix = s.msix ∧ ∀ a, t.host.read a = s.host.read a)
        ∧ (s.module.elogBase.getLsbD 0 = true → s.host.wf = true → t.msix = s.msix ++ [512]
            ∧ ∀ a, t.host.read a = afterBytes s.host.read ((toBytes 8 seq ++ toBytes 1 scope ++ toBytes 1 part ++ toBytes 1 vd ++ toBytes 5 0
                ++ toBytes 8 e.addr.toNat ++ toBytes 8 ((s.device vd).window * 2 ^ 16)).zipIdx.map fun b =>
                  (s.module.elogBase.toNat / 2 ^ 13 * 2 ^ 13 + 32 * ((seq + 2 ^ 64 - 1) % 256) + b.2, b.1)) a)
      let stops (t : State) (c k : Nat) (g : Group) (ls : Nat → Prop) : Prop :=
        OtherGroups s t c k ∧ t.driver = s.driver ++ [.replayable c k .uncorrectable]
          ∧ ∃ g', t.group? c k = some g' ∧ g'.phase = .replayable ∧ g'.cause = some .uncorrectable ∧ g'.lanes = g.lanes
            ∧ g'.vregs = g.vregs ∧ g'.sregs = g.sregs
            ∧ (∀ l, l < 32 → ls l → ∃ x ∈ g'.entries, x.lane = l ∧ x.what = .replay .uncorrectable 0 e.addr ∧ x.rword = (g.lane l).r)
            ∧ ∀ x ∈ g.entries, ¬ ls x.lane → x ∈ g'.entries
      (∀ c k ls g, e.target = .group c k ls → s.group? c k = some g →
        (g.clause.live = false → ls ≠ 0 → g.cause = none → g.phase ≠ .spilled → (∀ n, (s.slice n).wards = []) →
          ¬ RecordLocked s c k g (fun l => ls.getLsbD l = true) → Completes s .uncorrectableError fun t => stops t c k g (fun l => ls.getLsbD l = true) ∧ logged t 1 (s.partOf g) (s.vdOf g))
        ∧ (g.clause.live = true → g.clause.idx < g.clause.count → g.clause.active &&& ls ≠ 0 → Completes s .uncorrectableError fun t =>
            OtherGroups s t c k ∧ logged t 1 (s.partOf g) (s.vdOf g) ∧ ∃ g', t.group? c k = some g'
              ∧ Raised g g' (fun l => active g l ∧ ls.getLsbD l = true) (copyEvent g (.replay .uncorrectable 0 e.addr)))
        ∧ ((ls = 0 ∨ (g.clause.live = false ∧ (g.cause ≠ none ∨ RecordLocked s c k g fun l => ls.getLsbD l = true))
              ∨ (g.clause.live = true ∧ (g.clause.count ≤ g.clause.idx ∨ g.clause.active &&& ls = 0))) →
            exec .uncorrectableError s = .next s))
      ∧ (∀ id, e.target = .operation id → s.ops.look id = none → exec .uncorrectableError s = .next s)
      ∧ (∀ id o, e.target = .operation id → s.ops.look id = some o →
          let read : Prop := ∃ sc sg off f ts done, o.kind = .mld sc sg off f ts done ∧ ∃ x ∈ done, ∀ y ∈ ts, y.1 ≠ x
          read → exec .uncorrectableError s = .next s)
      ∧ (∀ id o, e.target = .operation id → s.ops.look id = some o →
          (∀ sc sg off f ts done, o.kind = .mld sc sg off f ts done → ∀ x ∈ done, ∃ y ∈ ts, y.1 = x) →
          let marked (t : State) : Prop := t.ops.look id = some { o with bad := o.bad ++ [e.addr.toNat] }
            ∧ logged t 1 (s.device o.vd).part o.vd
          (s.group? o.core o.slot = none → s.gang? o.core o.gang = none → Completes s .uncorrectableError fun t =>
              marked t ∧ ∀ c k, t.group? c k = s.group? c k)
          ∧ ∀ g, s.group? o.core o.slot = some g → g.gang = o.gang →
            (g.cause ≠ none → Completes s .uncorrectableError fun t => marked t ∧ ∀ c k, t.group? c k = s.group? c k)
            ∧ (g.cause = none → g.clause.live = true → Completes s .uncorrectableError fun t => marked t ∧ OtherGroups s t o.core o.slot
                ∧ t.group? o.core o.slot = some { g with clause := { g.clause with opError := true } })
            ∧ (g.cause = none → g.clause.live = false → RecordLocked s o.core o.slot g (fun _ => False) →
                exec .uncorrectableError s = .next s)
            ∧ (g.cause = none → g.clause.live = false → g.phase ≠ .spilled → (∀ n, (s.slice n).wards = []) →
                ¬ RecordLocked s o.core o.slot g (fun _ => False) → Completes s .uncorrectableError fun t => marked t ∧ stops t o.core o.slot g fun _ => False))
      ∧ (∀ v, e.target = .table v → Completes s .uncorrectableError fun t => t.poisoned = s.poisoned ++ [e.addr.toNat]
          ∧ t.cores = s.cores ∧ t.devices = s.devices ∧ logged t 1 (s.device v).part v)
      ∧ (∀ v, e.target = .device v → (s.device v).state ≠ .none → (s.device v).state ≠ .lost →
          Completes s .uncorrectableError fun t => (t.device v).state = .lost ∧ OtherDevices s t v ∧ LaunchesEnded s t v 2
            ∧ Notification.fenced v ∈ t.driver ∧ logged t 2 (s.device v).part v
            ∧ ∀ a, t.mem.read a = s.mem.read a ∧ t.store.read a = s.store.read a)
      ∧ (∀ p, e.target = .partition p → Rising s.devices → Completes s .uncorrectableError fun t =>
          (∀ v, (s.device v).part = p → (s.device v).state ≠ .none → (t.device v).state = .lost)
          ∧ (∀ v, (s.device v).part ≠ p → t.device v = s.device v) ∧ logged t 3 p e.source)
      ∧ ∀ v k, e.target = .checkpoint v → (s.device v).ckpt = some k → Completes s .uncorrectableError fun t =>
          (t.device v).ckpt = none ∧ (t.device v).ckStatus = 4 ∧ (t.device v).state = (s.device v).state ∧ logged t 2 (s.device v).part v)
  ∧ (∀ s p y z, OfObject s p y z →
      (s.module.stopped.get p false = true → exec .pluginViolation s = .next { s with module := { s.module with
          violations := s.module.violations.filter (· ≠ p) } })
      ∧ (s.module.stopped.get p false = false → Rising s.devices → Completes s .pluginViolation fun t => SameMemory s t
          ∧ t.module.stopped.get p false = true ∧ p ∉ t.module.violations
          ∧ (∀ v, (s.device v).part = p → (s.device v).state ≠ .none → (t.device v).state = .lost)
          ∧ ∀ v, (s.device v).part ≠ p → t.device v = s.device v))
  ∧ (∀ s w, Arrived s w → w.block = .queue → w.offset = 0x98 → w.value.toNat % 256 = 1 → w.writer = .hypervisor → w.index < 128 →
      let v := w.index
      ((s.device v).ckpt ≠ none → exec .checkpointStart s = .next ((taken s w).withDevice v fun x => { x with ckStatus := 1 }))
      ∧ ((s.device v).ckpt = none → CheckpointOpens s v (s.device v).ckWindow
          ((taken s w).withDevice v fun x => { x with queue := x.queue.put 0x98 1 })))
  ∧ (∀ s v y z k, OfObject s v y z → (s.device v).ckpt = some k →
      (k.opened = false → CheckpointOpens s v (k.key / 2 ^ 16 % 2 ^ 32) s)
      ∧ (k.opened = true → k.checked = false → CheckpointChecks s v k s)
      ∧ (k.opened = true → k.checked = true → exec .checkpointStart s = .next s)
      ∧ (k.opened = false ∨ k.checked = false → exec .checkpointComplete s = .next s))
  ∧ ∀ s v y z k, OfObject s v y z → (s.device v).ckpt = some k → k.opened = true → k.checked = true →
      let waits : Prop := (s.device v).throttled = true ∨ (∃ x ∈ k.shards, (s.translateAgent v .snapshot x.1 x.2).waits = true)
        ∨ ∃ x ∈ k.shards, ∃ ps, s.shardPieces v x = some ps ∧ s.snapHeld k.key ps ≠ none
      (waits → exec .checkpointComplete s = .next s)
      ∧ (¬ waits → (∃ x ∈ k.shards, s.shardPieces v x = none) → Completes s .checkpointComplete fun t => SameMemory s t
          ∧ (t.device v).ckpt = none ∧ (t.device v).ckStatus = 2 ∧ OtherDevices s t v)
      ∧ (¬ waits → s.store.wf = true → s.host.wf = true →
        ∀ ps : List (List Piece), k.shards.map (s.shardPieces v) = ps.map some → Completes s .checkpointComplete fun t =>
        let d := s.device v
        let shards := (k.shards.zip ps).map fun x => (x.1, s.shardBytes d.part k.key x.2)
        let data := shards.flatMap (·.2)
        let base := (((s.partition d.part).ctl.get 0x60 0).extractLsb' 0 12).toNat * 2 ^ 30
        (∀ a, t.mem.read a = s.mem.read a
          ∧ t.store.read a = afterBytes s.store.read (data.zipIdx.map fun b => (base + b.2, b.1)) a
          ∧ t.host.read a = afterBytes s.host.read ((manifest d.job k.key shards ++ data).zipIdx.map fun b => (k.dst + b.2, b.1)) a)
        ∧ (t.device v).ckpt = none ∧ (t.device v).ckStatus = 0 ∧ OtherDevices s t v)

/-! ## The machine (spec/01, /02, /09, /17) -/

/-- R228, R240, R241, R244 to R246, R254, R370: words written out from the encoding tables decode to the instructions that they stand for. -/
def Obligations.DecodeWords : Prop :=
  -- `sadd.b64 s4, s2, -1`: opcode 0x00, W 1, D 4, A 2, K 1, B 0x7FF
  decode .scalar [0b000000_1_000100_000010_01_11111111111#32] =
    .ok (.sadd { wide := true, d := 4, a := 2, b := .imm (-1) }, 1)
  -- `fadd.f32 v8, v4, v2.rev` over two registers: opcode 0x00, WID 1, D 8, SRC1 4, SRC2 2, LPAT 1
  ∧ decode .vector [0b0000000_01_0001000_0000100_0000010_01#32] =
    .ok (.faddF32 { ctl := { mask := 0, zero := false, rnd := none }, wid := 1, d := 8, a := 4, b := .vec 2 .rev }, 1)
  -- the same under a prefix with MASK 3, ZERO 1 and RND 2: the prefix opcode 0x7F
  ∧ decode .vector [0b1111111_011_1_010_0000000_00_00000_00_00#32, 0b0000000_00_0001000_0000100_0000010_00#32] =
    .ok (.faddF32 { ctl := { mask := 3, zero := true, rnd := some .tz }, wid := 0, d := 8, a := 4, b := .vec 2 .none }, 2)
  -- `ldg.b32` with acquire at device scope, an index and OFF = -4: opcode 0x04
  ∧ decode .memory [0b0000100_00_0000101_000110_0000011_10_1#32, 0b11111111111111111100_010_100_0_0_00_0_0#32] =
    .ok (.ldgB32 { wid := 0, data := 5, addr := { base := 6, idx := some { v := 3, scale := 2 }, off := -4 }, ord := .acq, scope := .dev,
                   rp := false, ef := false }, 2)
  -- `brc` on bit 5 of `cond` negated, B = -2: opcode 0x01, N at bit 23, the bit's number at bits 22:20
  ∧ decode .control [0b000001_00_1_101_11111111111111111110#32] = .ok (.brc true 5 (-2), 1)
  -- the zero of a tile: opcode 0x03 of the matrix class
  ∧ decode .matrix [0b000011_000111_00000000000000000000#32] = .ok (.mzero 7, 1)
  -- `winq` into s10: opcode 0x16 of the copy and fabric class
  ∧ decode .copy [0b0010110_001010_0000000000000000000#32] = .ok (.winq 10, 1)
  -- a branch of a hinge program and its displacement
  ∧ decodeHingeWord 0b000001_0000_0000_0000_00000000000011#32 = .ok .hingeBr
  -- a reserved bit set, an opcode that is unassigned, and a memory instruction without its second word
  ∧ decode .control [0b010010_00000000000000000000000001#32] = .error .reservedField
  ∧ decode .scalar [0b111111_00000000000000000000000000#32] = .error .unassigned
  ∧ decode .memory [0b0000100_00_0000101_000110_0000000_00_0#32] = .error .missingWord

/-- R227 to R257, R370, R371: encoding and decoding agree. The words of every well-formed instruction of a clause decode to it, whatever words
follow, and so does the word of every well-formed instruction of a hinge program, whose fields it holds. -/
def Obligations.EncodeDecode : Prop :=
  (∀ (i : Instr) (c : EngineClass) (ws : List Word), i.check = none → i.engineClass = some c → c ≠ .hinge →
    decode c (encode i ++ ws) = .ok (i, (encode i).length))
  ∧ ∀ (i : Instr) (f : HingeFields) (w : Word), i.hingeCheck f = none → encodeHinge i f = some w →
    decodeHingeWord w = .ok i ∧ hingeFieldsOf w = f

/-- R196, R200, R251, R3, R371: a step of a group executes the instruction that its clause's words decode to at its index, if its launch has
the level for it, and then the group goes on behind the instruction's words, or performs it again after a wait; what is no such
instruction traps. A step of a hinge processor executes the word that its channel has fetched, while no switch is due and the channel has
not run its limit (R382). A step of an event executes the event. Each step counts itself, takes its turn from the agenda, and notes which
devices have work. The order of turns that no rule orders is free (log 1). -/
def Obligations.StepRunsDecoded : Prop :=
  (∀ s c k g rest, s.agenda = .word c k :: rest → s.group? c k = some g → g.clause.live = true → g.phase = .resident →
    g.clause.idx < g.clause.count → g.clause.active ≠ 0 →
    let s0 : State := { s with agenda := rest, tick := s.tick + 1 }
    let s1 (n : Nat) : State := { s0.setGroup c k { g with clause := { g.clause with len := n } } with actor := .group c k }
    let behind (t : State) : State := t.withGroup c k fun x =>
      if x.clause.redo then { x with clause := { x.clause with redo := false } }
      else { x with walked := [], stage := 0, object := none, copied := [], clause := { x.clause with idx := x.clause.idx + x.clause.len } }
    let level := (s.launches.look g.launch).elim 0 Launch.level
    (∀ i n, decode g.clause.cls (g.clause.words.drop g.clause.idx) = .ok (i, n) → i.level ≤ level →
      (∀ t, exec i (s1 n) = .next t → step s = .next ((behind t).note s))
      ∧ (∀ f, exec i (s1 n) = .fault f → step s = .fault f)
      ∧ (∀ r, exec i (s1 n) = .refused r → step s = .refused r))
    ∧ (∀ i n, decode g.clause.cls (g.clause.words.drop g.clause.idx) = .ok (i, n) → level < i.level →
        step s = .next ((behind ((s1 n).withGroup c k Group.illegal)).note s))
    ∧ (∀ e, decode g.clause.cls (g.clause.words.drop g.clause.idx) = .error e →
        ∃ n, n ≤ 2 ∧ step s = .next ((behind ((s1 n).withGroup c k Group.illegal)).note s)))
  ∧ (∀ s h n ch w rest, s.agenda = .hinge h :: rest → (s.hinge h).running = some n → (s.hinge h).chans.look n = some ch →
    (s.hinge h).switch = false → s.chanReady ch = true → ((s.hinge h).ran < 2 ^ 21 ∨ ch.wait = some .sends) →
    (s.device ch.vd).throttled = false → ch.word = some w →
    let s0 : State := { s with agenda := rest, tick := s.tick + 1 }
    (∀ i, decodeHingeWord w = .ok i → i.level ≤ ch.hlev → ∀ t, exec i { s0 with actor := .channel h n } = .next t →
        step s = .next (t.note s))
    ∧ ((∀ i, decodeHingeWord w = .ok i → ch.hlev < i.level) → step s = .next ((s0.chanFail h n 1 0).note s)))
  ∧ (∀ s i a rest, s.agenda = .event i a :: rest → i.engineClass = none →
    let s0 : State := { s with agenda := rest, tick := s.tick + 1, actor := a }
    (∀ t, exec i s0 = .next t → step s = .next (t.note s))
    ∧ (∀ f, exec i s0 = .fault f → step s = .fault f)
    ∧ (∀ r, exec i s0 = .refused r → step s = .refused r))
  ∧ ∀ s : State, s.agenda = [] → s.turn = .time ∨ s.turn ∈ s.ready

/-- R402, R405, R22, R67, R97, R165, R388, R429, R431, R432: after reset the module is not in service, no device exists, every register of
the partitions, the version, translation, cache, fabric, trap and queue blocks, the keepers and the module reads 0 (KBASE and KLIMIT by
log 73), no group is resident, every byte of memory reads 0 (log 3), and the
memories are in their canonical form; the boot ROM's verification of the firmware image decides the service, and whether the image at
reset is authentic is free (log 8). -/
def Obligations.ResetMachine : Prop :=
  let r := State.reset
  r.module.svc = 0 ∧ (∀ v, (r.device v).state = .none ∧ (r.device v).job = none ∧ (r.device v).busy = false)
  ∧ (∀ i o, r.readReg .partition i o = 0 ∧ r.readReg .xlate i o = 0 ∧ r.readReg .fabric i o = 0 ∧ r.readReg .trap i o = 0
      ∧ r.readReg .version i o = 0 ∧ r.readReg .cache i o = 0 ∧ r.readReg .queue i o = 0 ∧ r.readReg .keeper i o = 0
      ∧ r.readReg .module i o = 0)
  ∧ (∀ c k, r.group? c k = none) ∧ (∀ a, r.mem.read a = 0)
  ∧ MemoryForm r ∧ TablesForm r ∧ GroupsForm r
  ∧ ∃ t, exec .moduleReset { r with actor := .object 0 0 0 } = .next t ∧ t.module.svc = (if Config.imageAuthentic [] then 1 else 0)

/-- Every step keeps the memories of the module, of the host and of the checkpoint store in their canonical form: no byte listed twice, and
none that reads as an unlisted one does, 0 (the model's own form; the 0 is log 3). -/
def Obligations.MemoryFormKept : Prop := ∀ s t, MemoryForm s → step s = .next t → MemoryForm t

/-- Every step keeps the tables in their form: no launch's and no device's number stands twice, and the bytes of the scratchpads, of the
saved rows of gangs and of the mailbox are in their canonical form (the model's own; what is unlisted reads 0, log 3). The images that come
from outside have that form too. -/
def Obligations.TablesKept : Prop := ∀ s t, TablesForm s → step s = .next t → TablesForm t

/-- R189, R208, R212, R91: every step keeps tiles of at most 32 lanes, doom causes of 3 bits, packets with an assigned width in flight, and
the rotation among a device's five queues. The images that come from outside keep to it too. -/
def Obligations.GroupsKept : Prop := ∀ s t, GroupsForm s → step s = .next t → GroupsForm t
end

