-- ==== Sys2Proof/Laws/Memory.lean ====
section
/-! SUPPORT. Laws of sparse tables and of memory: a read after a write, and the canonical form that every memory operation keeps. -/

namespace Sys2Proof

open Sys2Proof.Machine

/-! ## Tables -/

@[simp] theorem Tab.look_put_self {α : Type} (t : Tab α) (n : Nat) (x : α) : (t.put n x).look n = some x := by
  induction t with
  | nil => simp [Tab.put, Tab.look]
  | cons p rest ih =>
    obtain ⟨k, v⟩ := p
    simp only [Tab.put]
    split
    · simp [Tab.look]
    · split
      · simp [Tab.look]
      · have : ¬ k = n := fun h => by omega
        simp [Tab.look, this, ih]

theorem Tab.look_put_ne {α : Type} (t : Tab α) (n m : Nat) (x : α) (h : m ≠ n) : (t.put n x).look m = t.look m := by
  have hn : ¬ n = m := fun e => h e.symm
  induction t with
  | nil => simp [Tab.put, Tab.look, hn]
  | cons p rest ih =>
    obtain ⟨k, v⟩ := p
    simp only [Tab.put]
    split
    · simp [Tab.look, hn]
    · split
      · next _ e => subst e; simp [Tab.look, hn]
      · simp only [Tab.look, ih]

theorem Tab.look_put {α : Type} (t : Tab α) (n m : Nat) (x : α) :
    (t.put n x).look m = if m = n then some x else t.look m := by
  by_cases h : m = n
  · subst h; simp
  · simp [h, Tab.look_put_ne t n m x h]

@[simp] theorem Tab.get_put_self {α : Type} (t : Tab α) (n : Nat) (x d : α) : (t.put n x).get n d = x := by
  simp [Tab.get]

theorem Tab.get_put_ne {α : Type} (t : Tab α) (n m : Nat) (x d : α) (h : m ≠ n) : (t.put n x).get m d = t.get m d := by
  simp [Tab.get, Tab.look_put_ne t n m x h]

/-- A table changed at a key it holds. -/
theorem Tab.look_change {α : Type} (t : Tab α) (n m : Nat) (f : α → α) :
    (t.change n f).look m = if m = n then (t.look n).map f else t.look m := by
  unfold Tab.change
  cases h : t.look n with
  | none => by_cases e : m = n
            · subst e; simp [h]
            · simp [e]
  | some v => simp [Tab.look_put]

theorem Tab.look_mapAll {α : Type} (t : Tab α) (f : Nat → α → α) (n : Nat) : (t.mapAll f).look n = (t.look n).map (f n) := by
  induction t with
  | nil => rfl
  | cons p rest ih =>
    obtain ⟨k, v⟩ := p
    have e : Tab.mapAll ((k, v) :: rest) f = (k, f k v) :: Tab.mapAll rest f := rfl
    rw [e]
    simp only [Tab.look]
    split
    · next h => subst h; rfl
    · exact ih

/-! ## Memory -/

namespace Memory

theorem read_write_ne (m : Memory) (a c : Nat) (b : Byte) (h : c ≠ a) : (m.write a b).read c = m.read c := by
  have hn : ¬ a = c := fun e => h e.symm
  induction m with
  | nil => simp only [write]; split <;> simp [read, hn]
  | cons p rest ih =>
    obtain ⟨k, v⟩ := p
    simp only [write]
    split
    · split <;> simp [read, hn]
    · split
      · next _ e =>
        subst e
        split <;> simp [read, hn]
      · simp only [read, ih]

/-- Every address of a list is above k. -/
theorem write_above (m : Memory) (a k : Nat) (b : Byte) (ha : k < a) (hm : above k m) : above k (m.write a b) := by
  induction m with
  | nil =>
    simp only [write]
    split
    · exact hm
    · intro c hc
      cases hc with
      | head => exact ha
      | tail _ h => cases h
  | cons p rest ih =>
    obtain ⟨l, v⟩ := p
    have hl : k < l := hm (l, v) (List.mem_cons_self ..)
    have hr : above k rest := fun c hc => hm c (List.mem_cons_of_mem _ hc)
    simp only [write]
    split
    · split
      · exact hm
      · intro c hc
        cases hc with
        | head => exact ha
        | tail _ h => exact hm c h
    · split
      · split
        · exact hr
        · intro c hc
          cases hc with
          | head => exact ha
          | tail _ h => exact hr c h
      · intro c hc
        cases hc with
        | head => exact hl
        | tail _ h => exact ih hr c h

theorem rising_cons (k : Nat) (v : Byte) (m : Memory) : rising ((k, v) :: m) = true ↔ above k m ∧ rising m = true := by
  induction m generalizing k v with
  | nil =>
    constructor
    · intro _
      exact ⟨fun c hc => (by cases hc), rfl⟩
    · intro _
      rfl
  | cons q r ih =>
    obtain ⟨l, w⟩ := q
    simp only [rising, Bool.and_eq_true, decide_eq_true_eq]
    constructor
    · intro ⟨h1, h2⟩
      refine ⟨?_, h2⟩
      intro c hc
      cases hc with
      | head => exact h1
      | tail _ h => exact Nat.lt_trans h1 (((ih l w).mp h2).1 c h)
    · intro ⟨h1, h2⟩
      exact ⟨h1 (l, w) (List.mem_cons_self ..), h2⟩

/-- The canonical form read off a cell and the rest. -/
theorem wf_cons (k : Nat) (v : Byte) (m : Memory) : wf ((k, v) :: m) = true ↔ above k m ∧ v ≠ memDefault ∧ wf m = true := by
  simp only [wf, canon, Bool.and_eq_true, rising_cons, bne_iff_ne, ne_eq]
  constructor
  · rintro ⟨⟨h1, h2⟩, h3, h4⟩; exact ⟨h1, h3, h2, h4⟩
  · rintro ⟨h1, h2, h3, h4⟩; exact ⟨⟨h1, h3⟩, h2, h4⟩

@[simp] theorem wf_nil : wf [] = true := rfl

/-- Below a list's addresses it reads as unlisted. -/
theorem read_of_above (m : Memory) (k n : Nat) (hn : n ≤ k) (h : above k m) : Memory.read m n = memDefault := by
  induction m with
  | nil => rfl
  | cons p rest ih =>
    obtain ⟨l, v⟩ := p
    have hl : k < l := h (l, v) (List.mem_cons_self ..)
    simp only [read]
    rw [if_neg (by omega)]
    exact ih fun c hc => h c (List.mem_cons_of_mem _ hc)

theorem read_write_self (m : Memory) (a : Nat) (b : Byte) (h : m.wf = true) : (m.write a b).read a = b := by
  induction m with
  | nil =>
    simp only [write]
    split
    · next hb => rw [hb]; rfl
    · simp [read]
  | cons p rest ih =>
    obtain ⟨k, v⟩ := p
    have hc := (wf_cons k v rest).mp h
    simp only [write]
    split
    · next hlt =>
      split
      · next hb =>
        simp only [read]
        rw [if_neg (by omega), read_of_above rest k a (by omega) hc.1, hb]
      · simp [read]
    · split
      · next _ he =>
        split
        · next hb => rw [read_of_above rest k a (by omega) hc.1, hb]
        · simp [read]
      · simp only [read]
        rw [if_neg (by omega)]
        exact ih hc.2.2

/-- A write keeps the canonical form. -/
theorem wf_write (m : Memory) (a : Nat) (b : Byte) (h : m.wf = true) : (m.write a b).wf = true := by
  induction m with
  | nil =>
    simp only [write]
    split
    · rfl
    · next hb => exact (wf_cons a b []).mpr ⟨fun c hc => (by cases hc), hb, rfl⟩
  | cons p rest ih =>
    obtain ⟨k, v⟩ := p
    have hc := (wf_cons k v rest).mp h
    simp only [write]
    split
    · next hlt =>
      split
      · exact h
      · next hb =>
        refine (wf_cons a b _).mpr ⟨?_, hb, h⟩
        intro c hm
        cases hm with
        | head => exact hlt
        | tail _ hm => exact Nat.lt_trans hlt (hc.1 c hm)
    · split
      · next _ he =>
        subst he
        split
        · exact hc.2.2
        · next hb => exact (wf_cons a b rest).mpr ⟨hc.1, hb, hc.2.2⟩
      · next hlt hne =>
        exact (wf_cons k v _).mpr ⟨write_above rest a k b (by omega) hc.1, hc.2.1, ih hc.2.2⟩

/-- Writing several bytes keeps the canonical form. -/
theorem wf_writeAll (bs : List Byte) (m : Memory) (a : Nat) (h : m.wf = true) : (m.writeAll a bs).wf = true := by
  induction bs generalizing m a with
  | nil => exact h
  | cons b rest ih => exact ih (m.write a b) (a + 1) (wf_write m a b h)

/-- Bytes written below or above an address leave it. -/
theorem read_writeAll_outside (bs : List Byte) (m : Memory) (a c : Nat) (h : c < a ∨ a + bs.length ≤ c) :
    (m.writeAll a bs).read c = m.read c := by
  induction bs generalizing m a with
  | nil => rfl
  | cons b rest ih =>
    simp only [List.length_cons] at h
    simp only [writeAll]
    rw [ih (m.write a b) (a + 1) (by omega), read_write_ne m a c b (by omega)]

end Memory

/-- A number written as bytes and read back, within its range (R141). -/
theorem ofBytes_toBytes (n x : Nat) : ofBytes (toBytes n x) = x % 256 ^ n := by
  induction n generalizing x with
  | zero => simp [toBytes, ofBytes, Nat.mod_one]
  | succ n ih =>
    simp only [toBytes, ofBytes, ih, BitVec.toNat_ofNat]
    rw [show 256 ^ (n + 1) = 256 * 256 ^ n by ring, Nat.mod_mul]

@[simp] theorem length_toBytes (n x : Nat) : (toBytes n x).length = n := by
  induction n generalizing x with
  | zero => rfl
  | succ n ih => simp [toBytes, ih]

end Sys2Proof
end

