-- ==== Sys2Proof/Laws/State.lean ====
section
/-! SUPPORT. One lemma for each field of the state and of a group under each of their updates, so that no proof unfolds a record update. -/

namespace Sys2Proof.Machine

open Sys2Proof

/-! ## The state -/

@[simp] theorem State.withCore_tick (s : State) (c : Nat) (f : Core → Core) : (s.withCore c f).tick = s.tick := rfl
@[simp] theorem State.withCore_agenda (s : State) (c : Nat) (f : Core → Core) : (s.withCore c f).agenda = s.agenda := rfl
@[simp] theorem State.withCore_actor (s : State) (c : Nat) (f : Core → Core) : (s.withCore c f).actor = s.actor := rfl
@[simp] theorem State.withCore_ptp (s : State) (c : Nat) (f : Core → Core) : (s.withCore c f).ptp = s.ptp := rfl
@[simp] theorem State.withCore_cycles (s : State) (c : Nat) (f : Core → Core) : (s.withCore c f).cycles = s.cycles := rfl
@[simp] theorem State.withCore_clockPart (s : State) (c : Nat) (f : Core → Core) : (s.withCore c f).clockPart = s.clockPart := rfl
@[simp] theorem State.withCore_mem (s : State) (c : Nat) (f : Core → Core) : (s.withCore c f).mem = s.mem := rfl
@[simp] theorem State.withCore_host (s : State) (c : Nat) (f : Core → Core) : (s.withCore c f).host = s.host := rfl
@[simp] theorem State.withCore_store (s : State) (c : Nat) (f : Core → Core) : (s.withCore c f).store = s.store := rfl
@[simp] theorem State.withCore_poisoned (s : State) (c : Nat) (f : Core → Core) : (s.withCore c f).poisoned = s.poisoned := rfl
@[simp] theorem State.withCore_versions (s : State) (c : Nat) (f : Core → Core) : (s.withCore c f).versions = s.versions := rfl
@[simp] theorem State.withCore_verPages (s : State) (c : Nat) (f : Core → Core) : (s.withCore c f).verPages = s.verPages := rfl
@[simp] theorem State.withCore_requests (s : State) (c : Nat) (f : Core → Core) : (s.withCore c f).requests = s.requests := rfl
@[simp] theorem State.withCore_ops (s : State) (c : Nat) (f : Core → Core) : (s.withCore c f).ops = s.ops := rfl
@[simp] theorem State.withCore_nextOp (s : State) (c : Nat) (f : Core → Core) : (s.withCore c f).nextOp = s.nextOp := rfl
@[simp] theorem State.withCore_nextGang (s : State) (c : Nat) (f : Core → Core) : (s.withCore c f).nextGang = s.nextGang := rfl
@[simp] theorem State.withCore_nextLaunch (s : State) (c : Nat) (f : Core → Core) : (s.withCore c f).nextLaunch = s.nextLaunch := rfl
@[simp] theorem State.withCore_wire (s : State) (c : Nat) (f : Core → Core) : (s.withCore c f).wire = s.wire := rfl
@[simp] theorem State.withCore_acks (s : State) (c : Nat) (f : Core → Core) : (s.withCore c f).acks = s.acks := rfl
@[simp] theorem State.withCore_markersIn (s : State) (c : Nat) (f : Core → Core) : (s.withCore c f).markersIn = s.markersIn := rfl
@[simp] theorem State.withCore_noticesIn (s : State) (c : Nat) (f : Core → Core) : (s.withCore c f).noticesIn = s.noticesIn := rfl
@[simp] theorem State.withCore_outbox (s : State) (c : Nat) (f : Core → Core) : (s.withCore c f).outbox = s.outbox := rfl
@[simp] theorem State.withCore_hostq (s : State) (c : Nat) (f : Core → Core) : (s.withCore c f).hostq = s.hostq := rfl
@[simp] theorem State.withCore_hostReplies (s : State) (c : Nat) (f : Core → Core) : (s.withCore c f).hostReplies = s.hostReplies := rfl
@[simp] theorem State.withCore_regWrites (s : State) (c : Nat) (f : Core → Core) : (s.withCore c f).regWrites = s.regWrites := rfl
@[simp] theorem State.withCore_arrivals (s : State) (c : Nat) (f : Core → Core) : (s.withCore c f).arrivals = s.arrivals := rfl
@[simp] theorem State.withCore_msix (s : State) (c : Nat) (f : Core → Core) : (s.withCore c f).msix = s.msix := rfl
@[simp] theorem State.withCore_driver (s : State) (c : Nat) (f : Core → Core) : (s.withCore c f).driver = s.driver := rfl
@[simp] theorem State.withCore_module (s : State) (c : Nat) (f : Core → Core) : (s.withCore c f).module = s.module := rfl
@[simp] theorem State.withCore_partitions (s : State) (c : Nat) (f : Core → Core) : (s.withCore c f).partitions = s.partitions := rfl
@[simp] theorem State.withCore_devices (s : State) (c : Nat) (f : Core → Core) : (s.withCore c f).devices = s.devices := rfl
@[simp] theorem State.withCore_launches (s : State) (c : Nat) (f : Core → Core) : (s.withCore c f).launches = s.launches := rfl
@[simp] theorem State.withCore_cores (s : State) (c : Nat) (f : Core → Core) : (s.withCore c f).cores = s.cores.put c (f (s.core c)) := rfl
@[simp] theorem State.withCore_dies (s : State) (c : Nat) (f : Core → Core) : (s.withCore c f).dies = s.dies := rfl
@[simp] theorem State.withCore_slices (s : State) (c : Nat) (f : Core → Core) : (s.withCore c f).slices = s.slices := rfl
@[simp] theorem State.withCore_hinges (s : State) (c : Nat) (f : Core → Core) : (s.withCore c f).hinges = s.hinges := rfl
@[simp] theorem State.withCore_comb (s : State) (c : Nat) (f : Core → Core) : (s.withCore c f).comb = s.comb := rfl
@[simp] theorem State.withCore_images (s : State) (c : Nat) (f : Core → Core) : (s.withCore c f).images = s.images := rfl

@[simp] theorem State.withDie_tick (s : State) (d : Nat) (f : Die → Die) : (s.withDie d f).tick = s.tick := rfl
@[simp] theorem State.withDie_agenda (s : State) (d : Nat) (f : Die → Die) : (s.withDie d f).agenda = s.agenda := rfl
@[simp] theorem State.withDie_actor (s : State) (d : Nat) (f : Die → Die) : (s.withDie d f).actor = s.actor := rfl
@[simp] theorem State.withDie_ptp (s : State) (d : Nat) (f : Die → Die) : (s.withDie d f).ptp = s.ptp := rfl
@[simp] theorem State.withDie_cycles (s : State) (d : Nat) (f : Die → Die) : (s.withDie d f).cycles = s.cycles := rfl
@[simp] theorem State.withDie_clockPart (s : State) (d : Nat) (f : Die → Die) : (s.withDie d f).clockPart = s.clockPart := rfl
@[simp] theorem State.withDie_mem (s : State) (d : Nat) (f : Die → Die) : (s.withDie d f).mem = s.mem := rfl
@[simp] theorem State.withDie_host (s : State) (d : Nat) (f : Die → Die) : (s.withDie d f).host = s.host := rfl
@[simp] theorem State.withDie_store (s : State) (d : Nat) (f : Die → Die) : (s.withDie d f).store = s.store := rfl
@[simp] theorem State.withDie_poisoned (s : State) (d : Nat) (f : Die → Die) : (s.withDie d f).poisoned = s.poisoned := rfl
@[simp] theorem State.withDie_versions (s : State) (d : Nat) (f : Die → Die) : (s.withDie d f).versions = s.versions := rfl
@[simp] theorem State.withDie_verPages (s : State) (d : Nat) (f : Die → Die) : (s.withDie d f).verPages = s.verPages := rfl
@[simp] theorem State.withDie_requests (s : State) (d : Nat) (f : Die → Die) : (s.withDie d f).requests = s.requests := rfl
@[simp] theorem State.withDie_ops (s : State) (d : Nat) (f : Die → Die) : (s.withDie d f).ops = s.ops := rfl
@[simp] theorem State.withDie_nextOp (s : State) (d : Nat) (f : Die → Die) : (s.withDie d f).nextOp = s.nextOp := rfl
@[simp] theorem State.withDie_nextGang (s : State) (d : Nat) (f : Die → Die) : (s.withDie d f).nextGang = s.nextGang := rfl
@[simp] theorem State.withDie_nextLaunch (s : State) (d : Nat) (f : Die → Die) : (s.withDie d f).nextLaunch = s.nextLaunch := rfl
@[simp] theorem State.withDie_wire (s : State) (d : Nat) (f : Die → Die) : (s.withDie d f).wire = s.wire := rfl
@[simp] theorem State.withDie_acks (s : State) (d : Nat) (f : Die → Die) : (s.withDie d f).acks = s.acks := rfl
@[simp] theorem State.withDie_markersIn (s : State) (d : Nat) (f : Die → Die) : (s.withDie d f).markersIn = s.markersIn := rfl
@[simp] theorem State.withDie_noticesIn (s : State) (d : Nat) (f : Die → Die) : (s.withDie d f).noticesIn = s.noticesIn := rfl
@[simp] theorem State.withDie_outbox (s : State) (d : Nat) (f : Die → Die) : (s.withDie d f).outbox = s.outbox := rfl
@[simp] theorem State.withDie_hostq (s : State) (d : Nat) (f : Die → Die) : (s.withDie d f).hostq = s.hostq := rfl
@[simp] theorem State.withDie_hostReplies (s : State) (d : Nat) (f : Die → Die) : (s.withDie d f).hostReplies = s.hostReplies := rfl
@[simp] theorem State.withDie_regWrites (s : State) (d : Nat) (f : Die → Die) : (s.withDie d f).regWrites = s.regWrites := rfl
@[simp] theorem State.withDie_arrivals (s : State) (d : Nat) (f : Die → Die) : (s.withDie d f).arrivals = s.arrivals := rfl
@[simp] theorem State.withDie_msix (s : State) (d : Nat) (f : Die → Die) : (s.withDie d f).msix = s.msix := rfl
@[simp] theorem State.withDie_driver (s : State) (d : Nat) (f : Die → Die) : (s.withDie d f).driver = s.driver := rfl
@[simp] theorem State.withDie_module (s : State) (d : Nat) (f : Die → Die) : (s.withDie d f).module = s.module := rfl
@[simp] theorem State.withDie_partitions (s : State) (d : Nat) (f : Die → Die) : (s.withDie d f).partitions = s.partitions := rfl
@[simp] theorem State.withDie_devices (s : State) (d : Nat) (f : Die → Die) : (s.withDie d f).devices = s.devices := rfl
@[simp] theorem State.withDie_launches (s : State) (d : Nat) (f : Die → Die) : (s.withDie d f).launches = s.launches := rfl
@[simp] theorem State.withDie_cores (s : State) (d : Nat) (f : Die → Die) : (s.withDie d f).cores = s.cores := rfl
@[simp] theorem State.withDie_dies (s : State) (d : Nat) (f : Die → Die) : (s.withDie d f).dies = s.dies.put d (f (s.die d)) := rfl
@[simp] theorem State.withDie_slices (s : State) (d : Nat) (f : Die → Die) : (s.withDie d f).slices = s.slices := rfl
@[simp] theorem State.withDie_hinges (s : State) (d : Nat) (f : Die → Die) : (s.withDie d f).hinges = s.hinges := rfl
@[simp] theorem State.withDie_comb (s : State) (d : Nat) (f : Die → Die) : (s.withDie d f).comb = s.comb := rfl
@[simp] theorem State.withDie_images (s : State) (d : Nat) (f : Die → Die) : (s.withDie d f).images = s.images := rfl

@[simp] theorem State.withSlice_tick (s : State) (n : Nat) (f : Slice → Slice) : (s.withSlice n f).tick = s.tick := rfl
@[simp] theorem State.withSlice_agenda (s : State) (n : Nat) (f : Slice → Slice) : (s.withSlice n f).agenda = s.agenda := rfl
@[simp] theorem State.withSlice_actor (s : State) (n : Nat) (f : Slice → Slice) : (s.withSlice n f).actor = s.actor := rfl
@[simp] theorem State.withSlice_ptp (s : State) (n : Nat) (f : Slice → Slice) : (s.withSlice n f).ptp = s.ptp := rfl
@[simp] theorem State.withSlice_cycles (s : State) (n : Nat) (f : Slice → Slice) : (s.withSlice n f).cycles = s.cycles := rfl
@[simp] theorem State.withSlice_clockPart (s : State) (n : Nat) (f : Slice → Slice) : (s.withSlice n f).clockPart = s.clockPart := rfl
@[simp] theorem State.withSlice_mem (s : State) (n : Nat) (f : Slice → Slice) : (s.withSlice n f).mem = s.mem := rfl
@[simp] theorem State.withSlice_host (s : State) (n : Nat) (f : Slice → Slice) : (s.withSlice n f).host = s.host := rfl
@[simp] theorem State.withSlice_store (s : State) (n : Nat) (f : Slice → Slice) : (s.withSlice n f).store = s.store := rfl
@[simp] theorem State.withSlice_poisoned (s : State) (n : Nat) (f : Slice → Slice) : (s.withSlice n f).poisoned = s.poisoned := rfl
@[simp] theorem State.withSlice_versions (s : State) (n : Nat) (f : Slice → Slice) : (s.withSlice n f).versions = s.versions := rfl
@[simp] theorem State.withSlice_verPages (s : State) (n : Nat) (f : Slice → Slice) : (s.withSlice n f).verPages = s.verPages := rfl
@[simp] theorem State.withSlice_requests (s : State) (n : Nat) (f : Slice → Slice) : (s.withSlice n f).requests = s.requests := rfl
@[simp] theorem State.withSlice_ops (s : State) (n : Nat) (f : Slice → Slice) : (s.withSlice n f).ops = s.ops := rfl
@[simp] theorem State.withSlice_nextOp (s : State) (n : Nat) (f : Slice → Slice) : (s.withSlice n f).nextOp = s.nextOp := rfl
@[simp] theorem State.withSlice_nextGang (s : State) (n : Nat) (f : Slice → Slice) : (s.withSlice n f).nextGang = s.nextGang := rfl
@[simp] theorem State.withSlice_nextLaunch (s : State) (n : Nat) (f : Slice → Slice) : (s.withSlice n f).nextLaunch = s.nextLaunch := rfl
@[simp] theorem State.withSlice_wire (s : State) (n : Nat) (f : Slice → Slice) : (s.withSlice n f).wire = s.wire := rfl
@[simp] theorem State.withSlice_acks (s : State) (n : Nat) (f : Slice → Slice) : (s.withSlice n f).acks = s.acks := rfl
@[simp] theorem State.withSlice_markersIn (s : State) (n : Nat) (f : Slice → Slice) : (s.withSlice n f).markersIn = s.markersIn := rfl
@[simp] theorem State.withSlice_noticesIn (s : State) (n : Nat) (f : Slice → Slice) : (s.withSlice n f).noticesIn = s.noticesIn := rfl
@[simp] theorem State.withSlice_outbox (s : State) (n : Nat) (f : Slice → Slice) : (s.withSlice n f).outbox = s.outbox := rfl
@[simp] theorem State.withSlice_hostq (s : State) (n : Nat) (f : Slice → Slice) : (s.withSlice n f).hostq = s.hostq := rfl
@[simp] theorem State.withSlice_hostReplies (s : State) (n : Nat) (f : Slice → Slice) : (s.withSlice n f).hostReplies = s.hostReplies := rfl
@[simp] theorem State.withSlice_regWrites (s : State) (n : Nat) (f : Slice → Slice) : (s.withSlice n f).regWrites = s.regWrites := rfl
@[simp] theorem State.withSlice_arrivals (s : State) (n : Nat) (f : Slice → Slice) : (s.withSlice n f).arrivals = s.arrivals := rfl
@[simp] theorem State.withSlice_msix (s : State) (n : Nat) (f : Slice → Slice) : (s.withSlice n f).msix = s.msix := rfl
@[simp] theorem State.withSlice_driver (s : State) (n : Nat) (f : Slice → Slice) : (s.withSlice n f).driver = s.driver := rfl
@[simp] theorem State.withSlice_module (s : State) (n : Nat) (f : Slice → Slice) : (s.withSlice n f).module = s.module := rfl
@[simp] theorem State.withSlice_partitions (s : State) (n : Nat) (f : Slice → Slice) : (s.withSlice n f).partitions = s.partitions := rfl
@[simp] theorem State.withSlice_devices (s : State) (n : Nat) (f : Slice → Slice) : (s.withSlice n f).devices = s.devices := rfl
@[simp] theorem State.withSlice_launches (s : State) (n : Nat) (f : Slice → Slice) : (s.withSlice n f).launches = s.launches := rfl
@[simp] theorem State.withSlice_cores (s : State) (n : Nat) (f : Slice → Slice) : (s.withSlice n f).cores = s.cores := rfl
@[simp] theorem State.withSlice_dies (s : State) (n : Nat) (f : Slice → Slice) : (s.withSlice n f).dies = s.dies := rfl
@[simp] theorem State.withSlice_slices (s : State) (n : Nat) (f : Slice → Slice) : (s.withSlice n f).slices = s.slices.put n (f (s.slice n)) := rfl
@[simp] theorem State.withSlice_hinges (s : State) (n : Nat) (f : Slice → Slice) : (s.withSlice n f).hinges = s.hinges := rfl
@[simp] theorem State.withSlice_comb (s : State) (n : Nat) (f : Slice → Slice) : (s.withSlice n f).comb = s.comb := rfl
@[simp] theorem State.withSlice_images (s : State) (n : Nat) (f : Slice → Slice) : (s.withSlice n f).images = s.images := rfl

@[simp] theorem State.withDevice_tick (s : State) (v : Nat) (f : Device → Device) : (s.withDevice v f).tick = s.tick := rfl
@[simp] theorem State.withDevice_agenda (s : State) (v : Nat) (f : Device → Device) : (s.withDevice v f).agenda = s.agenda := rfl
@[simp] theorem State.withDevice_actor (s : State) (v : Nat) (f : Device → Device) : (s.withDevice v f).actor = s.actor := rfl
@[simp] theorem State.withDevice_ptp (s : State) (v : Nat) (f : Device → Device) : (s.withDevice v f).ptp = s.ptp := rfl
@[simp] theorem State.withDevice_cycles (s : State) (v : Nat) (f : Device → Device) : (s.withDevice v f).cycles = s.cycles := rfl
@[simp] theorem State.withDevice_clockPart (s : State) (v : Nat) (f : Device → Device) : (s.withDevice v f).clockPart = s.clockPart := rfl
@[simp] theorem State.withDevice_mem (s : State) (v : Nat) (f : Device → Device) : (s.withDevice v f).mem = s.mem := rfl
@[simp] theorem State.withDevice_host (s : State) (v : Nat) (f : Device → Device) : (s.withDevice v f).host = s.host := rfl
@[simp] theorem State.withDevice_store (s : State) (v : Nat) (f : Device → Device) : (s.withDevice v f).store = s.store := rfl
@[simp] theorem State.withDevice_poisoned (s : State) (v : Nat) (f : Device → Device) : (s.withDevice v f).poisoned = s.poisoned := rfl
@[simp] theorem State.withDevice_versions (s : State) (v : Nat) (f : Device → Device) : (s.withDevice v f).versions = s.versions := rfl
@[simp] theorem State.withDevice_verPages (s : State) (v : Nat) (f : Device → Device) : (s.withDevice v f).verPages = s.verPages := rfl
@[simp] theorem State.withDevice_requests (s : State) (v : Nat) (f : Device → Device) : (s.withDevice v f).requests = s.requests := rfl
@[simp] theorem State.withDevice_ops (s : State) (v : Nat) (f : Device → Device) : (s.withDevice v f).ops = s.ops := rfl
@[simp] theorem State.withDevice_nextOp (s : State) (v : Nat) (f : Device → Device) : (s.withDevice v f).nextOp = s.nextOp := rfl
@[simp] theorem State.withDevice_nextGang (s : State) (v : Nat) (f : Device → Device) : (s.withDevice v f).nextGang = s.nextGang := rfl
@[simp] theorem State.withDevice_nextLaunch (s : State) (v : Nat) (f : Device → Device) : (s.withDevice v f).nextLaunch = s.nextLaunch := rfl
@[simp] theorem State.withDevice_wire (s : State) (v : Nat) (f : Device → Device) : (s.withDevice v f).wire = s.wire := rfl
@[simp] theorem State.withDevice_acks (s : State) (v : Nat) (f : Device → Device) : (s.withDevice v f).acks = s.acks := rfl
@[simp] theorem State.withDevice_markersIn (s : State) (v : Nat) (f : Device → Device) : (s.withDevice v f).markersIn = s.markersIn := rfl
@[simp] theorem State.withDevice_noticesIn (s : State) (v : Nat) (f : Device → Device) : (s.withDevice v f).noticesIn = s.noticesIn := rfl
@[simp] theorem State.withDevice_outbox (s : State) (v : Nat) (f : Device → Device) : (s.withDevice v f).outbox = s.outbox := rfl
@[simp] theorem State.withDevice_hostq (s : State) (v : Nat) (f : Device → Device) : (s.withDevice v f).hostq = s.hostq := rfl
@[simp] theorem State.withDevice_hostReplies (s : State) (v : Nat) (f : Device → Device) : (s.withDevice v f).hostReplies = s.hostReplies := rfl
@[simp] theorem State.withDevice_regWrites (s : State) (v : Nat) (f : Device → Device) : (s.withDevice v f).regWrites = s.regWrites := rfl
@[simp] theorem State.withDevice_arrivals (s : State) (v : Nat) (f : Device → Device) : (s.withDevice v f).arrivals = s.arrivals := rfl
@[simp] theorem State.withDevice_msix (s : State) (v : Nat) (f : Device → Device) : (s.withDevice v f).msix = s.msix := rfl
@[simp] theorem State.withDevice_driver (s : State) (v : Nat) (f : Device → Device) : (s.withDevice v f).driver = s.driver := rfl
@[simp] theorem State.withDevice_module (s : State) (v : Nat) (f : Device → Device) : (s.withDevice v f).module = s.module := rfl
@[simp] theorem State.withDevice_partitions (s : State) (v : Nat) (f : Device → Device) : (s.withDevice v f).partitions = s.partitions := rfl
@[simp] theorem State.withDevice_devices (s : State) (v : Nat) (f : Device → Device) : (s.withDevice v f).devices = s.devices.put v (f (s.device v)) := rfl
@[simp] theorem State.withDevice_launches (s : State) (v : Nat) (f : Device → Device) : (s.withDevice v f).launches = s.launches := rfl
@[simp] theorem State.withDevice_cores (s : State) (v : Nat) (f : Device → Device) : (s.withDevice v f).cores = s.cores := rfl
@[simp] theorem State.withDevice_dies (s : State) (v : Nat) (f : Device → Device) : (s.withDevice v f).dies = s.dies := rfl
@[simp] theorem State.withDevice_slices (s : State) (v : Nat) (f : Device → Device) : (s.withDevice v f).slices = s.slices := rfl
@[simp] theorem State.withDevice_hinges (s : State) (v : Nat) (f : Device → Device) : (s.withDevice v f).hinges = s.hinges := rfl
@[simp] theorem State.withDevice_comb (s : State) (v : Nat) (f : Device → Device) : (s.withDevice v f).comb = s.comb := rfl
@[simp] theorem State.withDevice_images (s : State) (v : Nat) (f : Device → Device) : (s.withDevice v f).images = s.images := rfl

@[simp] theorem State.withPartition_tick (s : State) (p : Nat) (f : Partition → Partition) : (s.withPartition p f).tick = s.tick := rfl
@[simp] theorem State.withPartition_agenda (s : State) (p : Nat) (f : Partition → Partition) : (s.withPartition p f).agenda = s.agenda := rfl
@[simp] theorem State.withPartition_actor (s : State) (p : Nat) (f : Partition → Partition) : (s.withPartition p f).actor = s.actor := rfl
@[simp] theorem State.withPartition_ptp (s : State) (p : Nat) (f : Partition → Partition) : (s.withPartition p f).ptp = s.ptp := rfl
@[simp] theorem State.withPartition_cycles (s : State) (p : Nat) (f : Partition → Partition) : (s.withPartition p f).cycles = s.cycles := rfl
@[simp] theorem State.withPartition_clockPart (s : State) (p : Nat) (f : Partition → Partition) : (s.withPartition p f).clockPart = s.clockPart := rfl
@[simp] theorem State.withPartition_mem (s : State) (p : Nat) (f : Partition → Partition) : (s.withPartition p f).mem = s.mem := rfl
@[simp] theorem State.withPartition_host (s : State) (p : Nat) (f : Partition → Partition) : (s.withPartition p f).host = s.host := rfl
@[simp] theorem State.withPartition_store (s : State) (p : Nat) (f : Partition → Partition) : (s.withPartition p f).store = s.store := rfl
@[simp] theorem State.withPartition_poisoned (s : State) (p : Nat) (f : Partition → Partition) : (s.withPartition p f).poisoned = s.poisoned := rfl
@[simp] theorem State.withPartition_versions (s : State) (p : Nat) (f : Partition → Partition) : (s.withPartition p f).versions = s.versions := rfl
@[simp] theorem State.withPartition_verPages (s : State) (p : Nat) (f : Partition → Partition) : (s.withPartition p f).verPages = s.verPages := rfl
@[simp] theorem State.withPartition_requests (s : State) (p : Nat) (f : Partition → Partition) : (s.withPartition p f).requests = s.requests := rfl
@[simp] theorem State.withPartition_ops (s : State) (p : Nat) (f : Partition → Partition) : (s.withPartition p f).ops = s.ops := rfl
@[simp] theorem State.withPartition_nextOp (s : State) (p : Nat) (f : Partition → Partition) : (s.withPartition p f).nextOp = s.nextOp := rfl
@[simp] theorem State.withPartition_nextGang (s : State) (p : Nat) (f : Partition → Partition) : (s.withPartition p f).nextGang = s.nextGang := rfl
@[simp] theorem State.withPartition_nextLaunch (s : State) (p : Nat) (f : Partition → Partition) : (s.withPartition p f).nextLaunch = s.nextLaunch := rfl
@[simp] theorem State.withPartition_wire (s : State) (p : Nat) (f : Partition → Partition) : (s.withPartition p f).wire = s.wire := rfl
@[simp] theorem State.withPartition_acks (s : State) (p : Nat) (f : Partition → Partition) : (s.withPartition p f).acks = s.acks := rfl
@[simp] theorem State.withPartition_markersIn (s : State) (p : Nat) (f : Partition → Partition) : (s.withPartition p f).markersIn = s.markersIn := rfl
@[simp] theorem State.withPartition_noticesIn (s : State) (p : Nat) (f : Partition → Partition) : (s.withPartition p f).noticesIn = s.noticesIn := rfl
@[simp] theorem State.withPartition_outbox (s : State) (p : Nat) (f : Partition → Partition) : (s.withPartition p f).outbox = s.outbox := rfl
@[simp] theorem State.withPartition_hostq (s : State) (p : Nat) (f : Partition → Partition) : (s.withPartition p f).hostq = s.hostq := rfl
@[simp] theorem State.withPartition_hostReplies (s : State) (p : Nat) (f : Partition → Partition) : (s.withPartition p f).hostReplies = s.hostReplies := rfl
@[simp] theorem State.withPartition_regWrites (s : State) (p : Nat) (f : Partition → Partition) : (s.withPartition p f).regWrites = s.regWrites := rfl
@[simp] theorem State.withPartition_arrivals (s : State) (p : Nat) (f : Partition → Partition) : (s.withPartition p f).arrivals = s.arrivals := rfl
@[simp] theorem State.withPartition_msix (s : State) (p : Nat) (f : Partition → Partition) : (s.withPartition p f).msix = s.msix := rfl
@[simp] theorem State.withPartition_driver (s : State) (p : Nat) (f : Partition → Partition) : (s.withPartition p f).driver = s.driver := rfl
@[simp] theorem State.withPartition_module (s : State) (p : Nat) (f : Partition → Partition) : (s.withPartition p f).module = s.module := rfl
@[simp] theorem State.withPartition_partitions (s : State) (p : Nat) (f : Partition → Partition) : (s.withPartition p f).partitions = s.partitions.put p (f (s.partition p)) := rfl
@[simp] theorem State.withPartition_devices (s : State) (p : Nat) (f : Partition → Partition) : (s.withPartition p f).devices = s.devices := rfl
@[simp] theorem State.withPartition_launches (s : State) (p : Nat) (f : Partition → Partition) : (s.withPartition p f).launches = s.launches := rfl
@[simp] theorem State.withPartition_cores (s : State) (p : Nat) (f : Partition → Partition) : (s.withPartition p f).cores = s.cores := rfl
@[simp] theorem State.withPartition_dies (s : State) (p : Nat) (f : Partition → Partition) : (s.withPartition p f).dies = s.dies := rfl
@[simp] theorem State.withPartition_slices (s : State) (p : Nat) (f : Partition → Partition) : (s.withPartition p f).slices = s.slices := rfl
@[simp] theorem State.withPartition_hinges (s : State) (p : Nat) (f : Partition → Partition) : (s.withPartition p f).hinges = s.hinges := rfl
@[simp] theorem State.withPartition_comb (s : State) (p : Nat) (f : Partition → Partition) : (s.withPartition p f).comb = s.comb := rfl
@[simp] theorem State.withPartition_images (s : State) (p : Nat) (f : Partition → Partition) : (s.withPartition p f).images = s.images := rfl

@[simp] theorem State.withHinge_tick (s : State) (h : Nat) (f : Hinge → Hinge) : (s.withHinge h f).tick = s.tick := rfl
@[simp] theorem State.withHinge_agenda (s : State) (h : Nat) (f : Hinge → Hinge) : (s.withHinge h f).agenda = s.agenda := rfl
@[simp] theorem State.withHinge_actor (s : State) (h : Nat) (f : Hinge → Hinge) : (s.withHinge h f).actor = s.actor := rfl
@[simp] theorem State.withHinge_ptp (s : State) (h : Nat) (f : Hinge → Hinge) : (s.withHinge h f).ptp = s.ptp := rfl
@[simp] theorem State.withHinge_cycles (s : State) (h : Nat) (f : Hinge → Hinge) : (s.withHinge h f).cycles = s.cycles := rfl
@[simp] theorem State.withHinge_clockPart (s : State) (h : Nat) (f : Hinge → Hinge) : (s.withHinge h f).clockPart = s.clockPart := rfl
@[simp] theorem State.withHinge_mem (s : State) (h : Nat) (f : Hinge → Hinge) : (s.withHinge h f).mem = s.mem := rfl
@[simp] theorem State.withHinge_host (s : State) (h : Nat) (f : Hinge → Hinge) : (s.withHinge h f).host = s.host := rfl
@[simp] theorem State.withHinge_store (s : State) (h : Nat) (f : Hinge → Hinge) : (s.withHinge h f).store = s.store := rfl
@[simp] theorem State.withHinge_poisoned (s : State) (h : Nat) (f : Hinge → Hinge) : (s.withHinge h f).poisoned = s.poisoned := rfl
@[simp] theorem State.withHinge_versions (s : State) (h : Nat) (f : Hinge → Hinge) : (s.withHinge h f).versions = s.versions := rfl
@[simp] theorem State.withHinge_verPages (s : State) (h : Nat) (f : Hinge → Hinge) : (s.withHinge h f).verPages = s.verPages := rfl
@[simp] theorem State.withHinge_requests (s : State) (h : Nat) (f : Hinge → Hinge) : (s.withHinge h f).requests = s.requests := rfl
@[simp] theorem State.withHinge_ops (s : State) (h : Nat) (f : Hinge → Hinge) : (s.withHinge h f).ops = s.ops := rfl
@[simp] theorem State.withHinge_nextOp (s : State) (h : Nat) (f : Hinge → Hinge) : (s.withHinge h f).nextOp = s.nextOp := rfl
@[simp] theorem State.withHinge_nextGang (s : State) (h : Nat) (f : Hinge → Hinge) : (s.withHinge h f).nextGang = s.nextGang := rfl
@[simp] theorem State.withHinge_nextLaunch (s : State) (h : Nat) (f : Hinge → Hinge) : (s.withHinge h f).nextLaunch = s.nextLaunch := rfl
@[simp] theorem State.withHinge_wire (s : State) (h : Nat) (f : Hinge → Hinge) : (s.withHinge h f).wire = s.wire := rfl
@[simp] theorem State.withHinge_acks (s : State) (h : Nat) (f : Hinge → Hinge) : (s.withHinge h f).acks = s.acks := rfl
@[simp] theorem State.withHinge_markersIn (s : State) (h : Nat) (f : Hinge → Hinge) : (s.withHinge h f).markersIn = s.markersIn := rfl
@[simp] theorem State.withHinge_noticesIn (s : State) (h : Nat) (f : Hinge → Hinge) : (s.withHinge h f).noticesIn = s.noticesIn := rfl
@[simp] theorem State.withHinge_outbox (s : State) (h : Nat) (f : Hinge → Hinge) : (s.withHinge h f).outbox = s.outbox := rfl
@[simp] theorem State.withHinge_hostq (s : State) (h : Nat) (f : Hinge → Hinge) : (s.withHinge h f).hostq = s.hostq := rfl
@[simp] theorem State.withHinge_hostReplies (s : State) (h : Nat) (f : Hinge → Hinge) : (s.withHinge h f).hostReplies = s.hostReplies := rfl
@[simp] theorem State.withHinge_regWrites (s : State) (h : Nat) (f : Hinge → Hinge) : (s.withHinge h f).regWrites = s.regWrites := rfl
@[simp] theorem State.withHinge_arrivals (s : State) (h : Nat) (f : Hinge → Hinge) : (s.withHinge h f).arrivals = s.arrivals := rfl
@[simp] theorem State.withHinge_msix (s : State) (h : Nat) (f : Hinge → Hinge) : (s.withHinge h f).msix = s.msix := rfl
@[simp] theorem State.withHinge_driver (s : State) (h : Nat) (f : Hinge → Hinge) : (s.withHinge h f).driver = s.driver := rfl
@[simp] theorem State.withHinge_module (s : State) (h : Nat) (f : Hinge → Hinge) : (s.withHinge h f).module = s.module := rfl
@[simp] theorem State.withHinge_partitions (s : State) (h : Nat) (f : Hinge → Hinge) : (s.withHinge h f).partitions = s.partitions := rfl
@[simp] theorem State.withHinge_devices (s : State) (h : Nat) (f : Hinge → Hinge) : (s.withHinge h f).devices = s.devices := rfl
@[simp] theorem State.withHinge_launches (s : State) (h : Nat) (f : Hinge → Hinge) : (s.withHinge h f).launches = s.launches := rfl
@[simp] theorem State.withHinge_cores (s : State) (h : Nat) (f : Hinge → Hinge) : (s.withHinge h f).cores = s.cores := rfl
@[simp] theorem State.withHinge_dies (s : State) (h : Nat) (f : Hinge → Hinge) : (s.withHinge h f).dies = s.dies := rfl
@[simp] theorem State.withHinge_slices (s : State) (h : Nat) (f : Hinge → Hinge) : (s.withHinge h f).slices = s.slices := rfl
@[simp] theorem State.withHinge_hinges (s : State) (h : Nat) (f : Hinge → Hinge) : (s.withHinge h f).hinges = s.hinges.put h (f (s.hinge h)) := rfl
@[simp] theorem State.withHinge_comb (s : State) (h : Nat) (f : Hinge → Hinge) : (s.withHinge h f).comb = s.comb := rfl
@[simp] theorem State.withHinge_images (s : State) (h : Nat) (f : Hinge → Hinge) : (s.withHinge h f).images = s.images := rfl

@[simp] theorem State.withLaunch_tick (s : State) (l : Nat) (f : Launch → Launch) : (s.withLaunch l f).tick = s.tick := rfl
@[simp] theorem State.withLaunch_agenda (s : State) (l : Nat) (f : Launch → Launch) : (s.withLaunch l f).agenda = s.agenda := rfl
@[simp] theorem State.withLaunch_actor (s : State) (l : Nat) (f : Launch → Launch) : (s.withLaunch l f).actor = s.actor := rfl
@[simp] theorem State.withLaunch_ptp (s : State) (l : Nat) (f : Launch → Launch) : (s.withLaunch l f).ptp = s.ptp := rfl
@[simp] theorem State.withLaunch_cycles (s : State) (l : Nat) (f : Launch → Launch) : (s.withLaunch l f).cycles = s.cycles := rfl
@[simp] theorem State.withLaunch_clockPart (s : State) (l : Nat) (f : Launch → Launch) : (s.withLaunch l f).clockPart = s.clockPart := rfl
@[simp] theorem State.withLaunch_mem (s : State) (l : Nat) (f : Launch → Launch) : (s.withLaunch l f).mem = s.mem := rfl
@[simp] theorem State.withLaunch_host (s : State) (l : Nat) (f : Launch → Launch) : (s.withLaunch l f).host = s.host := rfl
@[simp] theorem State.withLaunch_store (s : State) (l : Nat) (f : Launch → Launch) : (s.withLaunch l f).store = s.store := rfl
@[simp] theorem State.withLaunch_poisoned (s : State) (l : Nat) (f : Launch → Launch) : (s.withLaunch l f).poisoned = s.poisoned := rfl
@[simp] theorem State.withLaunch_versions (s : State) (l : Nat) (f : Launch → Launch) : (s.withLaunch l f).versions = s.versions := rfl
@[simp] theorem State.withLaunch_verPages (s : State) (l : Nat) (f : Launch → Launch) : (s.withLaunch l f).verPages = s.verPages := rfl
@[simp] theorem State.withLaunch_requests (s : State) (l : Nat) (f : Launch → Launch) : (s.withLaunch l f).requests = s.requests := rfl
@[simp] theorem State.withLaunch_ops (s : State) (l : Nat) (f : Launch → Launch) : (s.withLaunch l f).ops = s.ops := rfl
@[simp] theorem State.withLaunch_nextOp (s : State) (l : Nat) (f : Launch → Launch) : (s.withLaunch l f).nextOp = s.nextOp := rfl
@[simp] theorem State.withLaunch_nextGang (s : State) (l : Nat) (f : Launch → Launch) : (s.withLaunch l f).nextGang = s.nextGang := rfl
@[simp] theorem State.withLaunch_nextLaunch (s : State) (l : Nat) (f : Launch → Launch) : (s.withLaunch l f).nextLaunch = s.nextLaunch := rfl
@[simp] theorem State.withLaunch_wire (s : State) (l : Nat) (f : Launch → Launch) : (s.withLaunch l f).wire = s.wire := rfl
@[simp] theorem State.withLaunch_acks (s : State) (l : Nat) (f : Launch → Launch) : (s.withLaunch l f).acks = s.acks := rfl
@[simp] theorem State.withLaunch_markersIn (s : State) (l : Nat) (f : Launch → Launch) : (s.withLaunch l f).markersIn = s.markersIn := rfl
@[simp] theorem State.withLaunch_noticesIn (s : State) (l : Nat) (f : Launch → Launch) : (s.withLaunch l f).noticesIn = s.noticesIn := rfl
@[simp] theorem State.withLaunch_outbox (s : State) (l : Nat) (f : Launch → Launch) : (s.withLaunch l f).outbox = s.outbox := rfl
@[simp] theorem State.withLaunch_hostq (s : State) (l : Nat) (f : Launch → Launch) : (s.withLaunch l f).hostq = s.hostq := rfl
@[simp] theorem State.withLaunch_hostReplies (s : State) (l : Nat) (f : Launch → Launch) : (s.withLaunch l f).hostReplies = s.hostReplies := rfl
@[simp] theorem State.withLaunch_regWrites (s : State) (l : Nat) (f : Launch → Launch) : (s.withLaunch l f).regWrites = s.regWrites := rfl
@[simp] theorem State.withLaunch_arrivals (s : State) (l : Nat) (f : Launch → Launch) : (s.withLaunch l f).arrivals = s.arrivals := rfl
@[simp] theorem State.withLaunch_msix (s : State) (l : Nat) (f : Launch → Launch) : (s.withLaunch l f).msix = s.msix := rfl
@[simp] theorem State.withLaunch_driver (s : State) (l : Nat) (f : Launch → Launch) : (s.withLaunch l f).driver = s.driver := rfl
@[simp] theorem State.withLaunch_module (s : State) (l : Nat) (f : Launch → Launch) : (s.withLaunch l f).module = s.module := rfl
@[simp] theorem State.withLaunch_partitions (s : State) (l : Nat) (f : Launch → Launch) : (s.withLaunch l f).partitions = s.partitions := rfl
@[simp] theorem State.withLaunch_devices (s : State) (l : Nat) (f : Launch → Launch) : (s.withLaunch l f).devices = s.devices := rfl
@[simp] theorem State.withLaunch_launches (s : State) (l : Nat) (f : Launch → Launch) : (s.withLaunch l f).launches = s.launches.change l f := rfl
@[simp] theorem State.withLaunch_cores (s : State) (l : Nat) (f : Launch → Launch) : (s.withLaunch l f).cores = s.cores := rfl
@[simp] theorem State.withLaunch_dies (s : State) (l : Nat) (f : Launch → Launch) : (s.withLaunch l f).dies = s.dies := rfl
@[simp] theorem State.withLaunch_slices (s : State) (l : Nat) (f : Launch → Launch) : (s.withLaunch l f).slices = s.slices := rfl
@[simp] theorem State.withLaunch_hinges (s : State) (l : Nat) (f : Launch → Launch) : (s.withLaunch l f).hinges = s.hinges := rfl
@[simp] theorem State.withLaunch_comb (s : State) (l : Nat) (f : Launch → Launch) : (s.withLaunch l f).comb = s.comb := rfl
@[simp] theorem State.withLaunch_images (s : State) (l : Nat) (f : Launch → Launch) : (s.withLaunch l f).images = s.images := rfl

@[simp] theorem State.withModule_tick (s : State) (f : Module → Module) : (s.withModule f).tick = s.tick := rfl
@[simp] theorem State.withModule_agenda (s : State) (f : Module → Module) : (s.withModule f).agenda = s.agenda := rfl
@[simp] theorem State.withModule_actor (s : State) (f : Module → Module) : (s.withModule f).actor = s.actor := rfl
@[simp] theorem State.withModule_ptp (s : State) (f : Module → Module) : (s.withModule f).ptp = s.ptp := rfl
@[simp] theorem State.withModule_cycles (s : State) (f : Module → Module) : (s.withModule f).cycles = s.cycles := rfl
@[simp] theorem State.withModule_clockPart (s : State) (f : Module → Module) : (s.withModule f).clockPart = s.clockPart := rfl
@[simp] theorem State.withModule_mem (s : State) (f : Module → Module) : (s.withModule f).mem = s.mem := rfl
@[simp] theorem State.withModule_host (s : State) (f : Module → Module) : (s.withModule f).host = s.host := rfl
@[simp] theorem State.withModule_store (s : State) (f : Module → Module) : (s.withModule f).store = s.store := rfl
@[simp] theorem State.withModule_poisoned (s : State) (f : Module → Module) : (s.withModule f).poisoned = s.poisoned := rfl
@[simp] theorem State.withModule_versions (s : State) (f : Module → Module) : (s.withModule f).versions = s.versions := rfl
@[simp] theorem State.withModule_verPages (s : State) (f : Module → Module) : (s.withModule f).verPages = s.verPages := rfl
@[simp] theorem State.withModule_requests (s : State) (f : Module → Module) : (s.withModule f).requests = s.requests := rfl
@[simp] theorem State.withModule_ops (s : State) (f : Module → Module) : (s.withModule f).ops = s.ops := rfl
@[simp] theorem State.withModule_nextOp (s : State) (f : Module → Module) : (s.withModule f).nextOp = s.nextOp := rfl
@[simp] theorem State.withModule_nextGang (s : State) (f : Module → Module) : (s.withModule f).nextGang = s.nextGang := rfl
@[simp] theorem State.withModule_nextLaunch (s : State) (f : Module → Module) : (s.withModule f).nextLaunch = s.nextLaunch := rfl
@[simp] theorem State.withModule_wire (s : State) (f : Module → Module) : (s.withModule f).wire = s.wire := rfl
@[simp] theorem State.withModule_acks (s : State) (f : Module → Module) : (s.withModule f).acks = s.acks := rfl
@[simp] theorem State.withModule_markersIn (s : State) (f : Module → Module) : (s.withModule f).markersIn = s.markersIn := rfl
@[simp] theorem State.withModule_noticesIn (s : State) (f : Module → Module) : (s.withModule f).noticesIn = s.noticesIn := rfl
@[simp] theorem State.withModule_outbox (s : State) (f : Module → Module) : (s.withModule f).outbox = s.outbox := rfl
@[simp] theorem State.withModule_hostq (s : State) (f : Module → Module) : (s.withModule f).hostq = s.hostq := rfl
@[simp] theorem State.withModule_hostReplies (s : State) (f : Module → Module) : (s.withModule f).hostReplies = s.hostReplies := rfl
@[simp] theorem State.withModule_regWrites (s : State) (f : Module → Module) : (s.withModule f).regWrites = s.regWrites := rfl
@[simp] theorem State.withModule_arrivals (s : State) (f : Module → Module) : (s.withModule f).arrivals = s.arrivals := rfl
@[simp] theorem State.withModule_msix (s : State) (f : Module → Module) : (s.withModule f).msix = s.msix := rfl
@[simp] theorem State.withModule_driver (s : State) (f : Module → Module) : (s.withModule f).driver = s.driver := rfl
@[simp] theorem State.withModule_module (s : State) (f : Module → Module) : (s.withModule f).module = f s.module := rfl
@[simp] theorem State.withModule_partitions (s : State) (f : Module → Module) : (s.withModule f).partitions = s.partitions := rfl
@[simp] theorem State.withModule_devices (s : State) (f : Module → Module) : (s.withModule f).devices = s.devices := rfl
@[simp] theorem State.withModule_launches (s : State) (f : Module → Module) : (s.withModule f).launches = s.launches := rfl
@[simp] theorem State.withModule_cores (s : State) (f : Module → Module) : (s.withModule f).cores = s.cores := rfl
@[simp] theorem State.withModule_dies (s : State) (f : Module → Module) : (s.withModule f).dies = s.dies := rfl
@[simp] theorem State.withModule_slices (s : State) (f : Module → Module) : (s.withModule f).slices = s.slices := rfl
@[simp] theorem State.withModule_hinges (s : State) (f : Module → Module) : (s.withModule f).hinges = s.hinges := rfl
@[simp] theorem State.withModule_comb (s : State) (f : Module → Module) : (s.withModule f).comb = s.comb := rfl
@[simp] theorem State.withModule_images (s : State) (f : Module → Module) : (s.withModule f).images = s.images := rfl

@[simp] theorem State.withGroups_tick (s : State) (c : Nat) (f : Tab Group → Tab Group) : (s.withGroups c f).tick = s.tick := rfl
@[simp] theorem State.withGroups_agenda (s : State) (c : Nat) (f : Tab Group → Tab Group) : (s.withGroups c f).agenda = s.agenda := rfl
@[simp] theorem State.withGroups_actor (s : State) (c : Nat) (f : Tab Group → Tab Group) : (s.withGroups c f).actor = s.actor := rfl
@[simp] theorem State.withGroups_ptp (s : State) (c : Nat) (f : Tab Group → Tab Group) : (s.withGroups c f).ptp = s.ptp := rfl
@[simp] theorem State.withGroups_cycles (s : State) (c : Nat) (f : Tab Group → Tab Group) : (s.withGroups c f).cycles = s.cycles := rfl
@[simp] theorem State.withGroups_clockPart (s : State) (c : Nat) (f : Tab Group → Tab Group) : (s.withGroups c f).clockPart = s.clockPart := rfl
@[simp] theorem State.withGroups_mem (s : State) (c : Nat) (f : Tab Group → Tab Group) : (s.withGroups c f).mem = s.mem := rfl
@[simp] theorem State.withGroups_host (s : State) (c : Nat) (f : Tab Group → Tab Group) : (s.withGroups c f).host = s.host := rfl
@[simp] theorem State.withGroups_store (s : State) (c : Nat) (f : Tab Group → Tab Group) : (s.withGroups c f).store = s.store := rfl
@[simp] theorem State.withGroups_poisoned (s : State) (c : Nat) (f : Tab Group → Tab Group) : (s.withGroups c f).poisoned = s.poisoned := rfl
@[simp] theorem State.withGroups_versions (s : State) (c : Nat) (f : Tab Group → Tab Group) : (s.withGroups c f).versions = s.versions := rfl
@[simp] theorem State.withGroups_verPages (s : State) (c : Nat) (f : Tab Group → Tab Group) : (s.withGroups c f).verPages = s.verPages := rfl
@[simp] theorem State.withGroups_requests (s : State) (c : Nat) (f : Tab Group → Tab Group) : (s.withGroups c f).requests = s.requests := rfl
@[simp] theorem State.withGroups_ops (s : State) (c : Nat) (f : Tab Group → Tab Group) : (s.withGroups c f).ops = s.ops := rfl
@[simp] theorem State.withGroups_nextOp (s : State) (c : Nat) (f : Tab Group → Tab Group) : (s.withGroups c f).nextOp = s.nextOp := rfl
@[simp] theorem State.withGroups_nextGang (s : State) (c : Nat) (f : Tab Group → Tab Group) : (s.withGroups c f).nextGang = s.nextGang := rfl
@[simp] theorem State.withGroups_nextLaunch (s : State) (c : Nat) (f : Tab Group → Tab Group) : (s.withGroups c f).nextLaunch = s.nextLaunch := rfl
@[simp] theorem State.withGroups_wire (s : State) (c : Nat) (f : Tab Group → Tab Group) : (s.withGroups c f).wire = s.wire := rfl
@[simp] theorem State.withGroups_acks (s : State) (c : Nat) (f : Tab Group → Tab Group) : (s.withGroups c f).acks = s.acks := rfl
@[simp] theorem State.withGroups_markersIn (s : State) (c : Nat) (f : Tab Group → Tab Group) : (s.withGroups c f).markersIn = s.markersIn := rfl
@[simp] theorem State.withGroups_noticesIn (s : State) (c : Nat) (f : Tab Group → Tab Group) : (s.withGroups c f).noticesIn = s.noticesIn := rfl
@[simp] theorem State.withGroups_outbox (s : State) (c : Nat) (f : Tab Group → Tab Group) : (s.withGroups c f).outbox = s.outbox := rfl
@[simp] theorem State.withGroups_hostq (s : State) (c : Nat) (f : Tab Group → Tab Group) : (s.withGroups c f).hostq = s.hostq := rfl
@[simp] theorem State.withGroups_hostReplies (s : State) (c : Nat) (f : Tab Group → Tab Group) : (s.withGroups c f).hostReplies = s.hostReplies := rfl
@[simp] theorem State.withGroups_regWrites (s : State) (c : Nat) (f : Tab Group → Tab Group) : (s.withGroups c f).regWrites = s.regWrites := rfl
@[simp] theorem State.withGroups_arrivals (s : State) (c : Nat) (f : Tab Group → Tab Group) : (s.withGroups c f).arrivals = s.arrivals := rfl
@[simp] theorem State.withGroups_msix (s : State) (c : Nat) (f : Tab Group → Tab Group) : (s.withGroups c f).msix = s.msix := rfl
@[simp] theorem State.withGroups_driver (s : State) (c : Nat) (f : Tab Group → Tab Group) : (s.withGroups c f).driver = s.driver := rfl
@[simp] theorem State.withGroups_module (s : State) (c : Nat) (f : Tab Group → Tab Group) : (s.withGroups c f).module = s.module := rfl
@[simp] theorem State.withGroups_partitions (s : State) (c : Nat) (f : Tab Group → Tab Group) : (s.withGroups c f).partitions = s.partitions := rfl
@[simp] theorem State.withGroups_devices (s : State) (c : Nat) (f : Tab Group → Tab Group) : (s.withGroups c f).devices = s.devices := rfl
@[simp] theorem State.withGroups_launches (s : State) (c : Nat) (f : Tab Group → Tab Group) : (s.withGroups c f).launches = s.launches := rfl
@[simp] theorem State.withGroups_dies (s : State) (c : Nat) (f : Tab Group → Tab Group) : (s.withGroups c f).dies = s.dies := rfl
@[simp] theorem State.withGroups_slices (s : State) (c : Nat) (f : Tab Group → Tab Group) : (s.withGroups c f).slices = s.slices := rfl
@[simp] theorem State.withGroups_hinges (s : State) (c : Nat) (f : Tab Group → Tab Group) : (s.withGroups c f).hinges = s.hinges := rfl
@[simp] theorem State.withGroups_comb (s : State) (c : Nat) (f : Tab Group → Tab Group) : (s.withGroups c f).comb = s.comb := rfl
@[simp] theorem State.withGroups_images (s : State) (c : Nat) (f : Tab Group → Tab Group) : (s.withGroups c f).images = s.images := rfl

@[simp] theorem State.setGroup_tick (s : State) (c k : Nat) (g : Group) : (s.setGroup c k g).tick = s.tick := rfl
@[simp] theorem State.setGroup_agenda (s : State) (c k : Nat) (g : Group) : (s.setGroup c k g).agenda = s.agenda := rfl
@[simp] theorem State.setGroup_actor (s : State) (c k : Nat) (g : Group) : (s.setGroup c k g).actor = s.actor := rfl
@[simp] theorem State.setGroup_ptp (s : State) (c k : Nat) (g : Group) : (s.setGroup c k g).ptp = s.ptp := rfl
@[simp] theorem State.setGroup_cycles (s : State) (c k : Nat) (g : Group) : (s.setGroup c k g).cycles = s.cycles := rfl
@[simp] theorem State.setGroup_clockPart (s : State) (c k : Nat) (g : Group) : (s.setGroup c k g).clockPart = s.clockPart := rfl
@[simp] theorem State.setGroup_mem (s : State) (c k : Nat) (g : Group) : (s.setGroup c k g).mem = s.mem := rfl
@[simp] theorem State.setGroup_host (s : State) (c k : Nat) (g : Group) : (s.setGroup c k g).host = s.host := rfl
@[simp] theorem State.setGroup_store (s : State) (c k : Nat) (g : Group) : (s.setGroup c k g).store = s.store := rfl
@[simp] theorem State.setGroup_poisoned (s : State) (c k : Nat) (g : Group) : (s.setGroup c k g).poisoned = s.poisoned := rfl
@[simp] theorem State.setGroup_versions (s : State) (c k : Nat) (g : Group) : (s.setGroup c k g).versions = s.versions := rfl
@[simp] theorem State.setGroup_verPages (s : State) (c k : Nat) (g : Group) : (s.setGroup c k g).verPages = s.verPages := rfl
@[simp] theorem State.setGroup_requests (s : State) (c k : Nat) (g : Group) : (s.setGroup c k g).requests = s.requests := rfl
@[simp] theorem State.setGroup_ops (s : State) (c k : Nat) (g : Group) : (s.setGroup c k g).ops = s.ops := rfl
@[simp] theorem State.setGroup_nextOp (s : State) (c k : Nat) (g : Group) : (s.setGroup c k g).nextOp = s.nextOp := rfl
@[simp] theorem State.setGroup_nextGang (s : State) (c k : Nat) (g : Group) : (s.setGroup c k g).nextGang = s.nextGang := rfl
@[simp] theorem State.setGroup_nextLaunch (s : State) (c k : Nat) (g : Group) : (s.setGroup c k g).nextLaunch = s.nextLaunch := rfl
@[simp] theorem State.setGroup_wire (s : State) (c k : Nat) (g : Group) : (s.setGroup c k g).wire = s.wire := rfl
@[simp] theorem State.setGroup_acks (s : State) (c k : Nat) (g : Group) : (s.setGroup c k g).acks = s.acks := rfl
@[simp] theorem State.setGroup_markersIn (s : State) (c k : Nat) (g : Group) : (s.setGroup c k g).markersIn = s.markersIn := rfl
@[simp] theorem State.setGroup_noticesIn (s : State) (c k : Nat) (g : Group) : (s.setGroup c k g).noticesIn = s.noticesIn := rfl
@[simp] theorem State.setGroup_outbox (s : State) (c k : Nat) (g : Group) : (s.setGroup c k g).outbox = s.outbox := rfl
@[simp] theorem State.setGroup_hostq (s : State) (c k : Nat) (g : Group) : (s.setGroup c k g).hostq = s.hostq := rfl
@[simp] theorem State.setGroup_hostReplies (s : State) (c k : Nat) (g : Group) : (s.setGroup c k g).hostReplies = s.hostReplies := rfl
@[simp] theorem State.setGroup_regWrites (s : State) (c k : Nat) (g : Group) : (s.setGroup c k g).regWrites = s.regWrites := rfl
@[simp] theorem State.setGroup_arrivals (s : State) (c k : Nat) (g : Group) : (s.setGroup c k g).arrivals = s.arrivals := rfl
@[simp] theorem State.setGroup_msix (s : State) (c k : Nat) (g : Group) : (s.setGroup c k g).msix = s.msix := rfl
@[simp] theorem State.setGroup_driver (s : State) (c k : Nat) (g : Group) : (s.setGroup c k g).driver = s.driver := rfl
@[simp] theorem State.setGroup_module (s : State) (c k : Nat) (g : Group) : (s.setGroup c k g).module = s.module := rfl
@[simp] theorem State.setGroup_partitions (s : State) (c k : Nat) (g : Group) : (s.setGroup c k g).partitions = s.partitions := rfl
@[simp] theorem State.setGroup_devices (s : State) (c k : Nat) (g : Group) : (s.setGroup c k g).devices = s.devices := rfl
@[simp] theorem State.setGroup_launches (s : State) (c k : Nat) (g : Group) : (s.setGroup c k g).launches = s.launches := rfl
@[simp] theorem State.setGroup_dies (s : State) (c k : Nat) (g : Group) : (s.setGroup c k g).dies = s.dies := rfl
@[simp] theorem State.setGroup_slices (s : State) (c k : Nat) (g : Group) : (s.setGroup c k g).slices = s.slices := rfl
@[simp] theorem State.setGroup_hinges (s : State) (c k : Nat) (g : Group) : (s.setGroup c k g).hinges = s.hinges := rfl
@[simp] theorem State.setGroup_comb (s : State) (c k : Nat) (g : Group) : (s.setGroup c k g).comb = s.comb := rfl
@[simp] theorem State.setGroup_images (s : State) (c k : Nat) (g : Group) : (s.setGroup c k g).images = s.images := rfl

@[simp] theorem State.withGroup_tick (s : State) (c k : Nat) (f : Group → Group) : (s.withGroup c k f).tick = s.tick := rfl
@[simp] theorem State.withGroup_agenda (s : State) (c k : Nat) (f : Group → Group) : (s.withGroup c k f).agenda = s.agenda := rfl
@[simp] theorem State.withGroup_actor (s : State) (c k : Nat) (f : Group → Group) : (s.withGroup c k f).actor = s.actor := rfl
@[simp] theorem State.withGroup_ptp (s : State) (c k : Nat) (f : Group → Group) : (s.withGroup c k f).ptp = s.ptp := rfl
@[simp] theorem State.withGroup_cycles (s : State) (c k : Nat) (f : Group → Group) : (s.withGroup c k f).cycles = s.cycles := rfl
@[simp] theorem State.withGroup_clockPart (s : State) (c k : Nat) (f : Group → Group) : (s.withGroup c k f).clockPart = s.clockPart := rfl
@[simp] theorem State.withGroup_mem (s : State) (c k : Nat) (f : Group → Group) : (s.withGroup c k f).mem = s.mem := rfl
@[simp] theorem State.withGroup_host (s : State) (c k : Nat) (f : Group → Group) : (s.withGroup c k f).host = s.host := rfl
@[simp] theorem State.withGroup_store (s : State) (c k : Nat) (f : Group → Group) : (s.withGroup c k f).store = s.store := rfl
@[simp] theorem State.withGroup_poisoned (s : State) (c k : Nat) (f : Group → Group) : (s.withGroup c k f).poisoned = s.poisoned := rfl
@[simp] theorem State.withGroup_versions (s : State) (c k : Nat) (f : Group → Group) : (s.withGroup c k f).versions = s.versions := rfl
@[simp] theorem State.withGroup_verPages (s : State) (c k : Nat) (f : Group → Group) : (s.withGroup c k f).verPages = s.verPages := rfl
@[simp] theorem State.withGroup_requests (s : State) (c k : Nat) (f : Group → Group) : (s.withGroup c k f).requests = s.requests := rfl
@[simp] theorem State.withGroup_ops (s : State) (c k : Nat) (f : Group → Group) : (s.withGroup c k f).ops = s.ops := rfl
@[simp] theorem State.withGroup_nextOp (s : State) (c k : Nat) (f : Group → Group) : (s.withGroup c k f).nextOp = s.nextOp := rfl
@[simp] theorem State.withGroup_nextGang (s : State) (c k : Nat) (f : Group → Group) : (s.withGroup c k f).nextGang = s.nextGang := rfl
@[simp] theorem State.withGroup_nextLaunch (s : State) (c k : Nat) (f : Group → Group) : (s.withGroup c k f).nextLaunch = s.nextLaunch := rfl
@[simp] theorem State.withGroup_wire (s : State) (c k : Nat) (f : Group → Group) : (s.withGroup c k f).wire = s.wire := rfl
@[simp] theorem State.withGroup_acks (s : State) (c k : Nat) (f : Group → Group) : (s.withGroup c k f).acks = s.acks := rfl
@[simp] theorem State.withGroup_markersIn (s : State) (c k : Nat) (f : Group → Group) : (s.withGroup c k f).markersIn = s.markersIn := rfl
@[simp] theorem State.withGroup_noticesIn (s : State) (c k : Nat) (f : Group → Group) : (s.withGroup c k f).noticesIn = s.noticesIn := rfl
@[simp] theorem State.withGroup_outbox (s : State) (c k : Nat) (f : Group → Group) : (s.withGroup c k f).outbox = s.outbox := rfl
@[simp] theorem State.withGroup_hostq (s : State) (c k : Nat) (f : Group → Group) : (s.withGroup c k f).hostq = s.hostq := rfl
@[simp] theorem State.withGroup_hostReplies (s : State) (c k : Nat) (f : Group → Group) : (s.withGroup c k f).hostReplies = s.hostReplies := rfl
@[simp] theorem State.withGroup_regWrites (s : State) (c k : Nat) (f : Group → Group) : (s.withGroup c k f).regWrites = s.regWrites := rfl
@[simp] theorem State.withGroup_arrivals (s : State) (c k : Nat) (f : Group → Group) : (s.withGroup c k f).arrivals = s.arrivals := rfl
@[simp] theorem State.withGroup_msix (s : State) (c k : Nat) (f : Group → Group) : (s.withGroup c k f).msix = s.msix := rfl
@[simp] theorem State.withGroup_driver (s : State) (c k : Nat) (f : Group → Group) : (s.withGroup c k f).driver = s.driver := rfl
@[simp] theorem State.withGroup_module (s : State) (c k : Nat) (f : Group → Group) : (s.withGroup c k f).module = s.module := rfl
@[simp] theorem State.withGroup_partitions (s : State) (c k : Nat) (f : Group → Group) : (s.withGroup c k f).partitions = s.partitions := rfl
@[simp] theorem State.withGroup_devices (s : State) (c k : Nat) (f : Group → Group) : (s.withGroup c k f).devices = s.devices := rfl
@[simp] theorem State.withGroup_launches (s : State) (c k : Nat) (f : Group → Group) : (s.withGroup c k f).launches = s.launches := rfl
@[simp] theorem State.withGroup_dies (s : State) (c k : Nat) (f : Group → Group) : (s.withGroup c k f).dies = s.dies := rfl
@[simp] theorem State.withGroup_slices (s : State) (c k : Nat) (f : Group → Group) : (s.withGroup c k f).slices = s.slices := rfl
@[simp] theorem State.withGroup_hinges (s : State) (c k : Nat) (f : Group → Group) : (s.withGroup c k f).hinges = s.hinges := rfl
@[simp] theorem State.withGroup_comb (s : State) (c k : Nat) (f : Group → Group) : (s.withGroup c k f).comb = s.comb := rfl
@[simp] theorem State.withGroup_images (s : State) (c k : Nat) (f : Group → Group) : (s.withGroup c k f).images = s.images := rfl

@[simp] theorem State.withGang_tick (s : State) (c n : Nat) (f : Gang → Gang) : (s.withGang c n f).tick = s.tick := rfl
@[simp] theorem State.withGang_agenda (s : State) (c n : Nat) (f : Gang → Gang) : (s.withGang c n f).agenda = s.agenda := rfl
@[simp] theorem State.withGang_actor (s : State) (c n : Nat) (f : Gang → Gang) : (s.withGang c n f).actor = s.actor := rfl
@[simp] theorem State.withGang_ptp (s : State) (c n : Nat) (f : Gang → Gang) : (s.withGang c n f).ptp = s.ptp := rfl
@[simp] theorem State.withGang_cycles (s : State) (c n : Nat) (f : Gang → Gang) : (s.withGang c n f).cycles = s.cycles := rfl
@[simp] theorem State.withGang_clockPart (s : State) (c n : Nat) (f : Gang → Gang) : (s.withGang c n f).clockPart = s.clockPart := rfl
@[simp] theorem State.withGang_mem (s : State) (c n : Nat) (f : Gang → Gang) : (s.withGang c n f).mem = s.mem := rfl
@[simp] theorem State.withGang_host (s : State) (c n : Nat) (f : Gang → Gang) : (s.withGang c n f).host = s.host := rfl
@[simp] theorem State.withGang_store (s : State) (c n : Nat) (f : Gang → Gang) : (s.withGang c n f).store = s.store := rfl
@[simp] theorem State.withGang_poisoned (s : State) (c n : Nat) (f : Gang → Gang) : (s.withGang c n f).poisoned = s.poisoned := rfl
@[simp] theorem State.withGang_versions (s : State) (c n : Nat) (f : Gang → Gang) : (s.withGang c n f).versions = s.versions := rfl
@[simp] theorem State.withGang_verPages (s : State) (c n : Nat) (f : Gang → Gang) : (s.withGang c n f).verPages = s.verPages := rfl
@[simp] theorem State.withGang_requests (s : State) (c n : Nat) (f : Gang → Gang) : (s.withGang c n f).requests = s.requests := rfl
@[simp] theorem State.withGang_ops (s : State) (c n : Nat) (f : Gang → Gang) : (s.withGang c n f).ops = s.ops := rfl
@[simp] theorem State.withGang_nextOp (s : State) (c n : Nat) (f : Gang → Gang) : (s.withGang c n f).nextOp = s.nextOp := rfl
@[simp] theorem State.withGang_nextGang (s : State) (c n : Nat) (f : Gang → Gang) : (s.withGang c n f).nextGang = s.nextGang := rfl
@[simp] theorem State.withGang_nextLaunch (s : State) (c n : Nat) (f : Gang → Gang) : (s.withGang c n f).nextLaunch = s.nextLaunch := rfl
@[simp] theorem State.withGang_wire (s : State) (c n : Nat) (f : Gang → Gang) : (s.withGang c n f).wire = s.wire := rfl
@[simp] theorem State.withGang_acks (s : State) (c n : Nat) (f : Gang → Gang) : (s.withGang c n f).acks = s.acks := rfl
@[simp] theorem State.withGang_markersIn (s : State) (c n : Nat) (f : Gang → Gang) : (s.withGang c n f).markersIn = s.markersIn := rfl
@[simp] theorem State.withGang_noticesIn (s : State) (c n : Nat) (f : Gang → Gang) : (s.withGang c n f).noticesIn = s.noticesIn := rfl
@[simp] theorem State.withGang_outbox (s : State) (c n : Nat) (f : Gang → Gang) : (s.withGang c n f).outbox = s.outbox := rfl
@[simp] theorem State.withGang_hostq (s : State) (c n : Nat) (f : Gang → Gang) : (s.withGang c n f).hostq = s.hostq := rfl
@[simp] theorem State.withGang_hostReplies (s : State) (c n : Nat) (f : Gang → Gang) : (s.withGang c n f).hostReplies = s.hostReplies := rfl
@[simp] theorem State.withGang_regWrites (s : State) (c n : Nat) (f : Gang → Gang) : (s.withGang c n f).regWrites = s.regWrites := rfl
@[simp] theorem State.withGang_arrivals (s : State) (c n : Nat) (f : Gang → Gang) : (s.withGang c n f).arrivals = s.arrivals := rfl
@[simp] theorem State.withGang_msix (s : State) (c n : Nat) (f : Gang → Gang) : (s.withGang c n f).msix = s.msix := rfl
@[simp] theorem State.withGang_driver (s : State) (c n : Nat) (f : Gang → Gang) : (s.withGang c n f).driver = s.driver := rfl
@[simp] theorem State.withGang_module (s : State) (c n : Nat) (f : Gang → Gang) : (s.withGang c n f).module = s.module := rfl
@[simp] theorem State.withGang_partitions (s : State) (c n : Nat) (f : Gang → Gang) : (s.withGang c n f).partitions = s.partitions := rfl
@[simp] theorem State.withGang_devices (s : State) (c n : Nat) (f : Gang → Gang) : (s.withGang c n f).devices = s.devices := rfl
@[simp] theorem State.withGang_launches (s : State) (c n : Nat) (f : Gang → Gang) : (s.withGang c n f).launches = s.launches := rfl
@[simp] theorem State.withGang_dies (s : State) (c n : Nat) (f : Gang → Gang) : (s.withGang c n f).dies = s.dies := rfl
@[simp] theorem State.withGang_slices (s : State) (c n : Nat) (f : Gang → Gang) : (s.withGang c n f).slices = s.slices := rfl
@[simp] theorem State.withGang_hinges (s : State) (c n : Nat) (f : Gang → Gang) : (s.withGang c n f).hinges = s.hinges := rfl
@[simp] theorem State.withGang_comb (s : State) (c n : Nat) (f : Gang → Gang) : (s.withGang c n f).comb = s.comb := rfl
@[simp] theorem State.withGang_images (s : State) (c n : Nat) (f : Gang → Gang) : (s.withGang c n f).images = s.images := rfl

@[simp] theorem State.newOp_tick (s : State) : (s.newOp).tick = s.tick := rfl
@[simp] theorem State.newOp_agenda (s : State) : (s.newOp).agenda = s.agenda := rfl
@[simp] theorem State.newOp_actor (s : State) : (s.newOp).actor = s.actor := rfl
@[simp] theorem State.newOp_ptp (s : State) : (s.newOp).ptp = s.ptp := rfl
@[simp] theorem State.newOp_cycles (s : State) : (s.newOp).cycles = s.cycles := rfl
@[simp] theorem State.newOp_clockPart (s : State) : (s.newOp).clockPart = s.clockPart := rfl
@[simp] theorem State.newOp_mem (s : State) : (s.newOp).mem = s.mem := rfl
@[simp] theorem State.newOp_host (s : State) : (s.newOp).host = s.host := rfl
@[simp] theorem State.newOp_store (s : State) : (s.newOp).store = s.store := rfl
@[simp] theorem State.newOp_poisoned (s : State) : (s.newOp).poisoned = s.poisoned := rfl
@[simp] theorem State.newOp_versions (s : State) : (s.newOp).versions = s.versions := rfl
@[simp] theorem State.newOp_verPages (s : State) : (s.newOp).verPages = s.verPages := rfl
@[simp] theorem State.newOp_requests (s : State) : (s.newOp).requests = s.requests := rfl
@[simp] theorem State.newOp_ops (s : State) : (s.newOp).ops = s.ops := rfl
@[simp] theorem State.newOp_nextOp (s : State) : (s.newOp).nextOp = s.nextOp + 1 := rfl
@[simp] theorem State.newOp_nextGang (s : State) : (s.newOp).nextGang = s.nextGang := rfl
@[simp] theorem State.newOp_nextLaunch (s : State) : (s.newOp).nextLaunch = s.nextLaunch := rfl
@[simp] theorem State.newOp_wire (s : State) : (s.newOp).wire = s.wire := rfl
@[simp] theorem State.newOp_acks (s : State) : (s.newOp).acks = s.acks := rfl
@[simp] theorem State.newOp_markersIn (s : State) : (s.newOp).markersIn = s.markersIn := rfl
@[simp] theorem State.newOp_noticesIn (s : State) : (s.newOp).noticesIn = s.noticesIn := rfl
@[simp] theorem State.newOp_outbox (s : State) : (s.newOp).outbox = s.outbox := rfl
@[simp] theorem State.newOp_hostq (s : State) : (s.newOp).hostq = s.hostq := rfl
@[simp] theorem State.newOp_hostReplies (s : State) : (s.newOp).hostReplies = s.hostReplies := rfl
@[simp] theorem State.newOp_regWrites (s : State) : (s.newOp).regWrites = s.regWrites := rfl
@[simp] theorem State.newOp_arrivals (s : State) : (s.newOp).arrivals = s.arrivals := rfl
@[simp] theorem State.newOp_msix (s : State) : (s.newOp).msix = s.msix := rfl
@[simp] theorem State.newOp_driver (s : State) : (s.newOp).driver = s.driver := rfl
@[simp] theorem State.newOp_module (s : State) : (s.newOp).module = s.module := rfl
@[simp] theorem State.newOp_partitions (s : State) : (s.newOp).partitions = s.partitions := rfl
@[simp] theorem State.newOp_devices (s : State) : (s.newOp).devices = s.devices := rfl
@[simp] theorem State.newOp_launches (s : State) : (s.newOp).launches = s.launches := rfl
@[simp] theorem State.newOp_cores (s : State) : (s.newOp).cores = s.cores := rfl
@[simp] theorem State.newOp_dies (s : State) : (s.newOp).dies = s.dies := rfl
@[simp] theorem State.newOp_slices (s : State) : (s.newOp).slices = s.slices := rfl
@[simp] theorem State.newOp_hinges (s : State) : (s.newOp).hinges = s.hinges := rfl
@[simp] theorem State.newOp_comb (s : State) : (s.newOp).comb = s.comb := rfl
@[simp] theorem State.newOp_images (s : State) : (s.newOp).images = s.images := rfl

/-! ## A group -/

@[simp] theorem Group.setLane_launch (g : Group) (l : Nat) (x : Lane) : (g.setLane l x).launch = g.launch := rfl
@[simp] theorem Group.setLane_gang (g : Group) (l : Nat) (x : Lane) : (g.setLane l x).gang = g.gang := rfl
@[simp] theorem Group.setLane_ginfo (g : Group) (l : Nat) (x : Lane) : (g.setLane l x).ginfo = g.ginfo := rfl
@[simp] theorem Group.setLane_budget (g : Group) (l : Nat) (x : Lane) : (g.setLane l x).budget = g.budget := rfl
@[simp] theorem Group.setLane_sregs (g : Group) (l : Nat) (x : Lane) : (g.setLane l x).sregs = g.sregs := rfl
@[simp] theorem Group.setLane_masks (g : Group) (l : Nat) (x : Lane) : (g.setLane l x).masks = g.masks := rfl
@[simp] theorem Group.setLane_cond (g : Group) (l : Nat) (x : Lane) : (g.setLane l x).cond = g.cond := rfl
@[simp] theorem Group.setLane_fmode (g : Group) (l : Nat) (x : Lane) : (g.setLane l x).fmode = g.fmode := rfl
@[simp] theorem Group.setLane_tsz (g : Group) (l : Nat) (x : Lane) : (g.setLane l x).tsz = g.tsz := rfl
@[simp] theorem Group.setLane_vregs (g : Group) (l : Nat) (x : Lane) : (g.setLane l x).vregs = g.vregs := rfl
@[simp] theorem Group.setLane_keys (g : Group) (l : Nat) (x : Lane) : (g.setLane l x).keys = g.keys := rfl
@[simp] theorem Group.setLane_bound (g : Group) (l : Nat) (x : Lane) : (g.setLane l x).bound = g.bound := rfl
@[simp] theorem Group.setLane_txs (g : Group) (l : Nat) (x : Lane) : (g.setLane l x).txs = g.txs := rfl
@[simp] theorem Group.setLane_tx (g : Group) (l : Nat) (x : Lane) : (g.setLane l x).tx = g.tx := rfl
@[simp] theorem Group.setLane_lanes (g : Group) (l : Nat) (x : Lane) : (g.setLane l x).lanes = g.lanes.put l x := rfl
@[simp] theorem Group.setLane_normal (g : Group) (l : Nat) (x : Lane) : (g.setLane l x).normal = g.normal := rfl
@[simp] theorem Group.setLane_trapBank (g : Group) (l : Nat) (x : Lane) : (g.setLane l x).trapBank = g.trapBank := rfl
@[simp] theorem Group.setLane_phase (g : Group) (l : Nat) (x : Lane) : (g.setLane l x).phase = g.phase := rfl
@[simp] theorem Group.setLane_wait (g : Group) (l : Nat) (x : Lane) : (g.setLane l x).wait = g.wait := rfl
@[simp] theorem Group.setLane_loads (g : Group) (l : Nat) (x : Lane) : (g.setLane l x).loads = g.loads := rfl
@[simp] theorem Group.setLane_stores (g : Group) (l : Nat) (x : Lane) : (g.setLane l x).stores = g.stores := rfl
@[simp] theorem Group.setLane_copies (g : Group) (l : Nat) (x : Lane) : (g.setLane l x).copies = g.copies := rfl
@[simp] theorem Group.setLane_tiles (g : Group) (l : Nat) (x : Lane) : (g.setLane l x).tiles = g.tiles := rfl
@[simp] theorem Group.setLane_fenced (g : Group) (l : Nat) (x : Lane) : (g.setLane l x).fenced = g.fenced := rfl
@[simp] theorem Group.setLane_asked (g : Group) (l : Nat) (x : Lane) : (g.setLane l x).asked = g.asked := rfl
@[simp] theorem Group.setLane_pend (g : Group) (l : Nat) (x : Lane) : (g.setLane l x).pend = g.pend := rfl
@[simp] theorem Group.setLane_remote (g : Group) (l : Nat) (x : Lane) : (g.setLane l x).remote = g.remote := rfl
@[simp] theorem Group.setLane_cause (g : Group) (l : Nat) (x : Lane) : (g.setLane l x).cause = g.cause := rfl
@[simp] theorem Group.setLane_entries (g : Group) (l : Nat) (x : Lane) : (g.setLane l x).entries = g.entries := rfl
@[simp] theorem Group.setLane_resumed (g : Group) (l : Nat) (x : Lane) : (g.setLane l x).resumed = g.resumed := rfl
@[simp] theorem Group.setLane_watchdog (g : Group) (l : Nat) (x : Lane) : (g.setLane l x).watchdog = g.watchdog := rfl
@[simp] theorem Group.setLane_passed (g : Group) (l : Nat) (x : Lane) : (g.setLane l x).passed = g.passed := rfl
@[simp] theorem Group.setLane_starved (g : Group) (l : Nat) (x : Lane) : (g.setLane l x).starved = g.starved := rfl
@[simp] theorem Group.setLane_seq (g : Group) (l : Nat) (x : Lane) : (g.setLane l x).seq = g.seq := rfl
@[simp] theorem Group.setLane_walked (g : Group) (l : Nat) (x : Lane) : (g.setLane l x).walked = g.walked := rfl
@[simp] theorem Group.setLane_stage (g : Group) (l : Nat) (x : Lane) : (g.setLane l x).stage = g.stage := rfl
@[simp] theorem Group.setLane_object (g : Group) (l : Nat) (x : Lane) : (g.setLane l x).object = g.object := rfl
@[simp] theorem Group.setLane_copied (g : Group) (l : Nat) (x : Lane) : (g.setLane l x).copied = g.copied := rfl
@[simp] theorem Group.setLane_clause (g : Group) (l : Nat) (x : Lane) : (g.setLane l x).clause = g.clause := rfl

@[simp] theorem Group.setSreg_launch (g : Group) (r : Nat) (v : Word) : (g.setSreg r v).launch = g.launch := rfl
@[simp] theorem Group.setSreg_gang (g : Group) (r : Nat) (v : Word) : (g.setSreg r v).gang = g.gang := rfl
@[simp] theorem Group.setSreg_ginfo (g : Group) (r : Nat) (v : Word) : (g.setSreg r v).ginfo = g.ginfo := rfl
@[simp] theorem Group.setSreg_budget (g : Group) (r : Nat) (v : Word) : (g.setSreg r v).budget = g.budget := rfl
@[simp] theorem Group.setSreg_sregs (g : Group) (r : Nat) (v : Word) : (g.setSreg r v).sregs = g.sregs.put r v := rfl
@[simp] theorem Group.setSreg_masks (g : Group) (r : Nat) (v : Word) : (g.setSreg r v).masks = g.masks := rfl
@[simp] theorem Group.setSreg_cond (g : Group) (r : Nat) (v : Word) : (g.setSreg r v).cond = g.cond := rfl
@[simp] theorem Group.setSreg_fmode (g : Group) (r : Nat) (v : Word) : (g.setSreg r v).fmode = g.fmode := rfl
@[simp] theorem Group.setSreg_tsz (g : Group) (r : Nat) (v : Word) : (g.setSreg r v).tsz = g.tsz := rfl
@[simp] theorem Group.setSreg_vregs (g : Group) (r : Nat) (v : Word) : (g.setSreg r v).vregs = g.vregs := rfl
@[simp] theorem Group.setSreg_keys (g : Group) (r : Nat) (v : Word) : (g.setSreg r v).keys = g.keys := rfl
@[simp] theorem Group.setSreg_bound (g : Group) (r : Nat) (v : Word) : (g.setSreg r v).bound = g.bound := rfl
@[simp] theorem Group.setSreg_txs (g : Group) (r : Nat) (v : Word) : (g.setSreg r v).txs = g.txs := rfl
@[simp] theorem Group.setSreg_tx (g : Group) (r : Nat) (v : Word) : (g.setSreg r v).tx = g.tx := rfl
@[simp] theorem Group.setSreg_lanes (g : Group) (r : Nat) (v : Word) : (g.setSreg r v).lanes = g.lanes := rfl
@[simp] theorem Group.setSreg_normal (g : Group) (r : Nat) (v : Word) : (g.setSreg r v).normal = g.normal := rfl
@[simp] theorem Group.setSreg_trapBank (g : Group) (r : Nat) (v : Word) : (g.setSreg r v).trapBank = g.trapBank := rfl
@[simp] theorem Group.setSreg_phase (g : Group) (r : Nat) (v : Word) : (g.setSreg r v).phase = g.phase := rfl
@[simp] theorem Group.setSreg_wait (g : Group) (r : Nat) (v : Word) : (g.setSreg r v).wait = g.wait := rfl
@[simp] theorem Group.setSreg_loads (g : Group) (r : Nat) (v : Word) : (g.setSreg r v).loads = g.loads := rfl
@[simp] theorem Group.setSreg_stores (g : Group) (r : Nat) (v : Word) : (g.setSreg r v).stores = g.stores := rfl
@[simp] theorem Group.setSreg_copies (g : Group) (r : Nat) (v : Word) : (g.setSreg r v).copies = g.copies := rfl
@[simp] theorem Group.setSreg_tiles (g : Group) (r : Nat) (v : Word) : (g.setSreg r v).tiles = g.tiles := rfl
@[simp] theorem Group.setSreg_fenced (g : Group) (r : Nat) (v : Word) : (g.setSreg r v).fenced = g.fenced := rfl
@[simp] theorem Group.setSreg_asked (g : Group) (r : Nat) (v : Word) : (g.setSreg r v).asked = g.asked := rfl
@[simp] theorem Group.setSreg_pend (g : Group) (r : Nat) (v : Word) : (g.setSreg r v).pend = g.pend := rfl
@[simp] theorem Group.setSreg_remote (g : Group) (r : Nat) (v : Word) : (g.setSreg r v).remote = g.remote := rfl
@[simp] theorem Group.setSreg_cause (g : Group) (r : Nat) (v : Word) : (g.setSreg r v).cause = g.cause := rfl
@[simp] theorem Group.setSreg_entries (g : Group) (r : Nat) (v : Word) : (g.setSreg r v).entries = g.entries := rfl
@[simp] theorem Group.setSreg_resumed (g : Group) (r : Nat) (v : Word) : (g.setSreg r v).resumed = g.resumed := rfl
@[simp] theorem Group.setSreg_watchdog (g : Group) (r : Nat) (v : Word) : (g.setSreg r v).watchdog = g.watchdog := rfl
@[simp] theorem Group.setSreg_passed (g : Group) (r : Nat) (v : Word) : (g.setSreg r v).passed = g.passed := rfl
@[simp] theorem Group.setSreg_starved (g : Group) (r : Nat) (v : Word) : (g.setSreg r v).starved = g.starved := rfl
@[simp] theorem Group.setSreg_seq (g : Group) (r : Nat) (v : Word) : (g.setSreg r v).seq = g.seq := rfl
@[simp] theorem Group.setSreg_walked (g : Group) (r : Nat) (v : Word) : (g.setSreg r v).walked = g.walked := rfl
@[simp] theorem Group.setSreg_stage (g : Group) (r : Nat) (v : Word) : (g.setSreg r v).stage = g.stage := rfl
@[simp] theorem Group.setSreg_object (g : Group) (r : Nat) (v : Word) : (g.setSreg r v).object = g.object := rfl
@[simp] theorem Group.setSreg_copied (g : Group) (r : Nat) (v : Word) : (g.setSreg r v).copied = g.copied := rfl
@[simp] theorem Group.setSreg_clause (g : Group) (r : Nat) (v : Word) : (g.setSreg r v).clause = g.clause := rfl

@[simp] theorem Group.setMask_launch (g : Group) (k : Nat) (v : LaneSet) : (g.setMask k v).launch = g.launch := rfl
@[simp] theorem Group.setMask_gang (g : Group) (k : Nat) (v : LaneSet) : (g.setMask k v).gang = g.gang := rfl
@[simp] theorem Group.setMask_ginfo (g : Group) (k : Nat) (v : LaneSet) : (g.setMask k v).ginfo = g.ginfo := rfl
@[simp] theorem Group.setMask_budget (g : Group) (k : Nat) (v : LaneSet) : (g.setMask k v).budget = g.budget := rfl
@[simp] theorem Group.setMask_sregs (g : Group) (k : Nat) (v : LaneSet) : (g.setMask k v).sregs = g.sregs := rfl
@[simp] theorem Group.setMask_masks (g : Group) (k : Nat) (v : LaneSet) : (g.setMask k v).masks = g.masks.put k v := rfl
@[simp] theorem Group.setMask_cond (g : Group) (k : Nat) (v : LaneSet) : (g.setMask k v).cond = g.cond := rfl
@[simp] theorem Group.setMask_fmode (g : Group) (k : Nat) (v : LaneSet) : (g.setMask k v).fmode = g.fmode := rfl
@[simp] theorem Group.setMask_tsz (g : Group) (k : Nat) (v : LaneSet) : (g.setMask k v).tsz = g.tsz := rfl
@[simp] theorem Group.setMask_vregs (g : Group) (k : Nat) (v : LaneSet) : (g.setMask k v).vregs = g.vregs := rfl
@[simp] theorem Group.setMask_keys (g : Group) (k : Nat) (v : LaneSet) : (g.setMask k v).keys = g.keys := rfl
@[simp] theorem Group.setMask_bound (g : Group) (k : Nat) (v : LaneSet) : (g.setMask k v).bound = g.bound := rfl
@[simp] theorem Group.setMask_txs (g : Group) (k : Nat) (v : LaneSet) : (g.setMask k v).txs = g.txs := rfl
@[simp] theorem Group.setMask_tx (g : Group) (k : Nat) (v : LaneSet) : (g.setMask k v).tx = g.tx := rfl
@[simp] theorem Group.setMask_lanes (g : Group) (k : Nat) (v : LaneSet) : (g.setMask k v).lanes = g.lanes := rfl
@[simp] theorem Group.setMask_normal (g : Group) (k : Nat) (v : LaneSet) : (g.setMask k v).normal = g.normal := rfl
@[simp] theorem Group.setMask_trapBank (g : Group) (k : Nat) (v : LaneSet) : (g.setMask k v).trapBank = g.trapBank := rfl
@[simp] theorem Group.setMask_phase (g : Group) (k : Nat) (v : LaneSet) : (g.setMask k v).phase = g.phase := rfl
@[simp] theorem Group.setMask_wait (g : Group) (k : Nat) (v : LaneSet) : (g.setMask k v).wait = g.wait := rfl
@[simp] theorem Group.setMask_loads (g : Group) (k : Nat) (v : LaneSet) : (g.setMask k v).loads = g.loads := rfl
@[simp] theorem Group.setMask_stores (g : Group) (k : Nat) (v : LaneSet) : (g.setMask k v).stores = g.stores := rfl
@[simp] theorem Group.setMask_copies (g : Group) (k : Nat) (v : LaneSet) : (g.setMask k v).copies = g.copies := rfl
@[simp] theorem Group.setMask_tiles (g : Group) (k : Nat) (v : LaneSet) : (g.setMask k v).tiles = g.tiles := rfl
@[simp] theorem Group.setMask_fenced (g : Group) (k : Nat) (v : LaneSet) : (g.setMask k v).fenced = g.fenced := rfl
@[simp] theorem Group.setMask_asked (g : Group) (k : Nat) (v : LaneSet) : (g.setMask k v).asked = g.asked := rfl
@[simp] theorem Group.setMask_pend (g : Group) (k : Nat) (v : LaneSet) : (g.setMask k v).pend = g.pend := rfl
@[simp] theorem Group.setMask_remote (g : Group) (k : Nat) (v : LaneSet) : (g.setMask k v).remote = g.remote := rfl
@[simp] theorem Group.setMask_cause (g : Group) (k : Nat) (v : LaneSet) : (g.setMask k v).cause = g.cause := rfl
@[simp] theorem Group.setMask_entries (g : Group) (k : Nat) (v : LaneSet) : (g.setMask k v).entries = g.entries := rfl
@[simp] theorem Group.setMask_resumed (g : Group) (k : Nat) (v : LaneSet) : (g.setMask k v).resumed = g.resumed := rfl
@[simp] theorem Group.setMask_watchdog (g : Group) (k : Nat) (v : LaneSet) : (g.setMask k v).watchdog = g.watchdog := rfl
@[simp] theorem Group.setMask_passed (g : Group) (k : Nat) (v : LaneSet) : (g.setMask k v).passed = g.passed := rfl
@[simp] theorem Group.setMask_starved (g : Group) (k : Nat) (v : LaneSet) : (g.setMask k v).starved = g.starved := rfl
@[simp] theorem Group.setMask_seq (g : Group) (k : Nat) (v : LaneSet) : (g.setMask k v).seq = g.seq := rfl
@[simp] theorem Group.setMask_walked (g : Group) (k : Nat) (v : LaneSet) : (g.setMask k v).walked = g.walked := rfl
@[simp] theorem Group.setMask_stage (g : Group) (k : Nat) (v : LaneSet) : (g.setMask k v).stage = g.stage := rfl
@[simp] theorem Group.setMask_object (g : Group) (k : Nat) (v : LaneSet) : (g.setMask k v).object = g.object := rfl
@[simp] theorem Group.setMask_copied (g : Group) (k : Nat) (v : LaneSet) : (g.setMask k v).copied = g.copied := rfl
@[simp] theorem Group.setMask_clause (g : Group) (k : Nat) (v : LaneSet) : (g.setMask k v).clause = g.clause := rfl

@[simp] theorem Group.vwrite_launch (g : Group) (tick v l : Nat) (x : Word) : (g.vwrite tick v l x).launch = g.launch := rfl
@[simp] theorem Group.vwrite_gang (g : Group) (tick v l : Nat) (x : Word) : (g.vwrite tick v l x).gang = g.gang := rfl
@[simp] theorem Group.vwrite_ginfo (g : Group) (tick v l : Nat) (x : Word) : (g.vwrite tick v l x).ginfo = g.ginfo := rfl
@[simp] theorem Group.vwrite_budget (g : Group) (tick v l : Nat) (x : Word) : (g.vwrite tick v l x).budget = g.budget := rfl
@[simp] theorem Group.vwrite_sregs (g : Group) (tick v l : Nat) (x : Word) : (g.vwrite tick v l x).sregs = g.sregs := rfl
@[simp] theorem Group.vwrite_masks (g : Group) (tick v l : Nat) (x : Word) : (g.vwrite tick v l x).masks = g.masks := rfl
@[simp] theorem Group.vwrite_cond (g : Group) (tick v l : Nat) (x : Word) : (g.vwrite tick v l x).cond = g.cond := rfl
@[simp] theorem Group.vwrite_fmode (g : Group) (tick v l : Nat) (x : Word) : (g.vwrite tick v l x).fmode = g.fmode := rfl
@[simp] theorem Group.vwrite_tsz (g : Group) (tick v l : Nat) (x : Word) : (g.vwrite tick v l x).tsz = g.tsz := rfl
@[simp] theorem Group.vwrite_vregs (g : Group) (tick v l : Nat) (x : Word) : (g.vwrite tick v l x).vregs = g.vregs.put (vkey v l) x := rfl
@[simp] theorem Group.vwrite_keys (g : Group) (tick v l : Nat) (x : Word) : (g.vwrite tick v l x).keys = g.keys := rfl
@[simp] theorem Group.vwrite_bound (g : Group) (tick v l : Nat) (x : Word) : (g.vwrite tick v l x).bound = g.bound := rfl
@[simp] theorem Group.vwrite_txs (g : Group) (tick v l : Nat) (x : Word) : (g.vwrite tick v l x).txs = g.txs := rfl
@[simp] theorem Group.vwrite_tx (g : Group) (tick v l : Nat) (x : Word) : (g.vwrite tick v l x).tx = g.tx := rfl
@[simp] theorem Group.vwrite_lanes (g : Group) (tick v l : Nat) (x : Word) : (g.vwrite tick v l x).lanes = g.lanes := rfl
@[simp] theorem Group.vwrite_normal (g : Group) (tick v l : Nat) (x : Word) : (g.vwrite tick v l x).normal = g.normal := rfl
@[simp] theorem Group.vwrite_trapBank (g : Group) (tick v l : Nat) (x : Word) : (g.vwrite tick v l x).trapBank = g.trapBank := rfl
@[simp] theorem Group.vwrite_phase (g : Group) (tick v l : Nat) (x : Word) : (g.vwrite tick v l x).phase = g.phase := rfl
@[simp] theorem Group.vwrite_wait (g : Group) (tick v l : Nat) (x : Word) : (g.vwrite tick v l x).wait = g.wait := rfl
@[simp] theorem Group.vwrite_loads (g : Group) (tick v l : Nat) (x : Word) : (g.vwrite tick v l x).loads = g.loads := rfl
@[simp] theorem Group.vwrite_stores (g : Group) (tick v l : Nat) (x : Word) : (g.vwrite tick v l x).stores = g.stores := rfl
@[simp] theorem Group.vwrite_copies (g : Group) (tick v l : Nat) (x : Word) : (g.vwrite tick v l x).copies = g.copies := rfl
@[simp] theorem Group.vwrite_tiles (g : Group) (tick v l : Nat) (x : Word) : (g.vwrite tick v l x).tiles = g.tiles := rfl
@[simp] theorem Group.vwrite_fenced (g : Group) (tick v l : Nat) (x : Word) : (g.vwrite tick v l x).fenced = g.fenced := rfl
@[simp] theorem Group.vwrite_asked (g : Group) (tick v l : Nat) (x : Word) : (g.vwrite tick v l x).asked = g.asked := rfl
@[simp] theorem Group.vwrite_remote (g : Group) (tick v l : Nat) (x : Word) : (g.vwrite tick v l x).remote = g.remote := rfl
@[simp] theorem Group.vwrite_cause (g : Group) (tick v l : Nat) (x : Word) : (g.vwrite tick v l x).cause = g.cause := rfl
@[simp] theorem Group.vwrite_entries (g : Group) (tick v l : Nat) (x : Word) : (g.vwrite tick v l x).entries = g.entries := rfl
@[simp] theorem Group.vwrite_resumed (g : Group) (tick v l : Nat) (x : Word) : (g.vwrite tick v l x).resumed = g.resumed := rfl
@[simp] theorem Group.vwrite_watchdog (g : Group) (tick v l : Nat) (x : Word) : (g.vwrite tick v l x).watchdog = g.watchdog := rfl
@[simp] theorem Group.vwrite_passed (g : Group) (tick v l : Nat) (x : Word) : (g.vwrite tick v l x).passed = g.passed := rfl
@[simp] theorem Group.vwrite_starved (g : Group) (tick v l : Nat) (x : Word) : (g.vwrite tick v l x).starved = g.starved := rfl
@[simp] theorem Group.vwrite_seq (g : Group) (tick v l : Nat) (x : Word) : (g.vwrite tick v l x).seq = g.seq := rfl
@[simp] theorem Group.vwrite_walked (g : Group) (tick v l : Nat) (x : Word) : (g.vwrite tick v l x).walked = g.walked := rfl
@[simp] theorem Group.vwrite_stage (g : Group) (tick v l : Nat) (x : Word) : (g.vwrite tick v l x).stage = g.stage := rfl
@[simp] theorem Group.vwrite_object (g : Group) (tick v l : Nat) (x : Word) : (g.vwrite tick v l x).object = g.object := rfl
@[simp] theorem Group.vwrite_copied (g : Group) (tick v l : Nat) (x : Word) : (g.vwrite tick v l x).copied = g.copied := rfl
@[simp] theorem Group.vwrite_clause (g : Group) (tick v l : Nat) (x : Word) : (g.vwrite tick v l x).clause = g.clause := rfl

@[simp] theorem Group.expect_launch (g : Group) (ps : List PendingReg) : (g.expect ps).launch = g.launch := rfl
@[simp] theorem Group.expect_gang (g : Group) (ps : List PendingReg) : (g.expect ps).gang = g.gang := rfl
@[simp] theorem Group.expect_ginfo (g : Group) (ps : List PendingReg) : (g.expect ps).ginfo = g.ginfo := rfl
@[simp] theorem Group.expect_budget (g : Group) (ps : List PendingReg) : (g.expect ps).budget = g.budget := rfl
@[simp] theorem Group.expect_sregs (g : Group) (ps : List PendingReg) : (g.expect ps).sregs = g.sregs := rfl
@[simp] theorem Group.expect_masks (g : Group) (ps : List PendingReg) : (g.expect ps).masks = g.masks := rfl
@[simp] theorem Group.expect_cond (g : Group) (ps : List PendingReg) : (g.expect ps).cond = g.cond := rfl
@[simp] theorem Group.expect_fmode (g : Group) (ps : List PendingReg) : (g.expect ps).fmode = g.fmode := rfl
@[simp] theorem Group.expect_tsz (g : Group) (ps : List PendingReg) : (g.expect ps).tsz = g.tsz := rfl
@[simp] theorem Group.expect_vregs (g : Group) (ps : List PendingReg) : (g.expect ps).vregs = g.vregs := rfl
@[simp] theorem Group.expect_keys (g : Group) (ps : List PendingReg) : (g.expect ps).keys = g.keys := rfl
@[simp] theorem Group.expect_bound (g : Group) (ps : List PendingReg) : (g.expect ps).bound = g.bound := rfl
@[simp] theorem Group.expect_txs (g : Group) (ps : List PendingReg) : (g.expect ps).txs = g.txs := rfl
@[simp] theorem Group.expect_tx (g : Group) (ps : List PendingReg) : (g.expect ps).tx = g.tx := rfl
@[simp] theorem Group.expect_lanes (g : Group) (ps : List PendingReg) : (g.expect ps).lanes = g.lanes := rfl
@[simp] theorem Group.expect_normal (g : Group) (ps : List PendingReg) : (g.expect ps).normal = g.normal := rfl
@[simp] theorem Group.expect_trapBank (g : Group) (ps : List PendingReg) : (g.expect ps).trapBank = g.trapBank := rfl
@[simp] theorem Group.expect_phase (g : Group) (ps : List PendingReg) : (g.expect ps).phase = g.phase := rfl
@[simp] theorem Group.expect_wait (g : Group) (ps : List PendingReg) : (g.expect ps).wait = g.wait := rfl
@[simp] theorem Group.expect_loads (g : Group) (ps : List PendingReg) : (g.expect ps).loads = g.loads := rfl
@[simp] theorem Group.expect_stores (g : Group) (ps : List PendingReg) : (g.expect ps).stores = g.stores := rfl
@[simp] theorem Group.expect_copies (g : Group) (ps : List PendingReg) : (g.expect ps).copies = g.copies := rfl
@[simp] theorem Group.expect_tiles (g : Group) (ps : List PendingReg) : (g.expect ps).tiles = g.tiles := rfl
@[simp] theorem Group.expect_fenced (g : Group) (ps : List PendingReg) : (g.expect ps).fenced = g.fenced := rfl
@[simp] theorem Group.expect_asked (g : Group) (ps : List PendingReg) : (g.expect ps).asked = g.asked := rfl
@[simp] theorem Group.expect_pend (g : Group) (ps : List PendingReg) : (g.expect ps).pend = g.pend ++ ps := rfl
@[simp] theorem Group.expect_remote (g : Group) (ps : List PendingReg) : (g.expect ps).remote = g.remote := rfl
@[simp] theorem Group.expect_cause (g : Group) (ps : List PendingReg) : (g.expect ps).cause = g.cause := rfl
@[simp] theorem Group.expect_entries (g : Group) (ps : List PendingReg) : (g.expect ps).entries = g.entries := rfl
@[simp] theorem Group.expect_resumed (g : Group) (ps : List PendingReg) : (g.expect ps).resumed = g.resumed := rfl
@[simp] theorem Group.expect_watchdog (g : Group) (ps : List PendingReg) : (g.expect ps).watchdog = g.watchdog := rfl
@[simp] theorem Group.expect_passed (g : Group) (ps : List PendingReg) : (g.expect ps).passed = g.passed := rfl
@[simp] theorem Group.expect_starved (g : Group) (ps : List PendingReg) : (g.expect ps).starved = g.starved := rfl
@[simp] theorem Group.expect_seq (g : Group) (ps : List PendingReg) : (g.expect ps).seq = g.seq := rfl
@[simp] theorem Group.expect_walked (g : Group) (ps : List PendingReg) : (g.expect ps).walked = g.walked := rfl
@[simp] theorem Group.expect_stage (g : Group) (ps : List PendingReg) : (g.expect ps).stage = g.stage := rfl
@[simp] theorem Group.expect_object (g : Group) (ps : List PendingReg) : (g.expect ps).object = g.object := rfl
@[simp] theorem Group.expect_copied (g : Group) (ps : List PendingReg) : (g.expect ps).copied = g.copied := rfl
@[simp] theorem Group.expect_clause (g : Group) (ps : List PendingReg) : (g.expect ps).clause = g.clause := rfl

@[simp] theorem Group.deliver_launch (g : Group) (op : Nat) : (g.deliver op).launch = g.launch := rfl
@[simp] theorem Group.deliver_gang (g : Group) (op : Nat) : (g.deliver op).gang = g.gang := rfl
@[simp] theorem Group.deliver_ginfo (g : Group) (op : Nat) : (g.deliver op).ginfo = g.ginfo := rfl
@[simp] theorem Group.deliver_budget (g : Group) (op : Nat) : (g.deliver op).budget = g.budget := rfl
@[simp] theorem Group.deliver_sregs (g : Group) (op : Nat) : (g.deliver op).sregs = g.sregs := rfl
@[simp] theorem Group.deliver_masks (g : Group) (op : Nat) : (g.deliver op).masks = g.masks := rfl
@[simp] theorem Group.deliver_cond (g : Group) (op : Nat) : (g.deliver op).cond = g.cond := rfl
@[simp] theorem Group.deliver_fmode (g : Group) (op : Nat) : (g.deliver op).fmode = g.fmode := rfl
@[simp] theorem Group.deliver_tsz (g : Group) (op : Nat) : (g.deliver op).tsz = g.tsz := rfl
@[simp] theorem Group.deliver_keys (g : Group) (op : Nat) : (g.deliver op).keys = g.keys := rfl
@[simp] theorem Group.deliver_bound (g : Group) (op : Nat) : (g.deliver op).bound = g.bound := rfl
@[simp] theorem Group.deliver_txs (g : Group) (op : Nat) : (g.deliver op).txs = g.txs := rfl
@[simp] theorem Group.deliver_tx (g : Group) (op : Nat) : (g.deliver op).tx = g.tx := rfl
@[simp] theorem Group.deliver_lanes (g : Group) (op : Nat) : (g.deliver op).lanes = g.lanes := rfl
@[simp] theorem Group.deliver_normal (g : Group) (op : Nat) : (g.deliver op).normal = g.normal := rfl
@[simp] theorem Group.deliver_trapBank (g : Group) (op : Nat) : (g.deliver op).trapBank = g.trapBank := rfl
@[simp] theorem Group.deliver_phase (g : Group) (op : Nat) : (g.deliver op).phase = g.phase := rfl
@[simp] theorem Group.deliver_wait (g : Group) (op : Nat) : (g.deliver op).wait = g.wait := rfl
@[simp] theorem Group.deliver_loads (g : Group) (op : Nat) : (g.deliver op).loads = g.loads := rfl
@[simp] theorem Group.deliver_stores (g : Group) (op : Nat) : (g.deliver op).stores = g.stores := rfl
@[simp] theorem Group.deliver_copies (g : Group) (op : Nat) : (g.deliver op).copies = g.copies := rfl
@[simp] theorem Group.deliver_tiles (g : Group) (op : Nat) : (g.deliver op).tiles = g.tiles := rfl
@[simp] theorem Group.deliver_fenced (g : Group) (op : Nat) : (g.deliver op).fenced = g.fenced := rfl
@[simp] theorem Group.deliver_asked (g : Group) (op : Nat) : (g.deliver op).asked = g.asked.del op := rfl
@[simp] theorem Group.deliver_pend (g : Group) (op : Nat) : (g.deliver op).pend = g.pend.filter fun p => p.op != op := rfl
@[simp] theorem Group.deliver_remote (g : Group) (op : Nat) : (g.deliver op).remote = g.remote := rfl
@[simp] theorem Group.deliver_cause (g : Group) (op : Nat) : (g.deliver op).cause = g.cause := rfl
@[simp] theorem Group.deliver_entries (g : Group) (op : Nat) : (g.deliver op).entries = g.entries := rfl
@[simp] theorem Group.deliver_resumed (g : Group) (op : Nat) : (g.deliver op).resumed = g.resumed := rfl
@[simp] theorem Group.deliver_watchdog (g : Group) (op : Nat) : (g.deliver op).watchdog = g.watchdog := rfl
@[simp] theorem Group.deliver_passed (g : Group) (op : Nat) : (g.deliver op).passed = g.passed := rfl
@[simp] theorem Group.deliver_starved (g : Group) (op : Nat) : (g.deliver op).starved = g.starved := rfl
@[simp] theorem Group.deliver_seq (g : Group) (op : Nat) : (g.deliver op).seq = g.seq := rfl
@[simp] theorem Group.deliver_walked (g : Group) (op : Nat) : (g.deliver op).walked = g.walked := rfl
@[simp] theorem Group.deliver_stage (g : Group) (op : Nat) : (g.deliver op).stage = g.stage := rfl
@[simp] theorem Group.deliver_object (g : Group) (op : Nat) : (g.deliver op).object = g.object := rfl
@[simp] theorem Group.deliver_copied (g : Group) (op : Nat) : (g.deliver op).copied = g.copied := rfl
@[simp] theorem Group.deliver_clause (g : Group) (op : Nat) : (g.deliver op).clause = g.clause := rfl

@[simp] theorem Group.raiseLanes_launch (g : Group) (ls : LaneSet) (what : Raise) (rw sw : Nat) : (g.raiseLanes ls what rw sw).launch = g.launch := rfl
@[simp] theorem Group.raiseLanes_gang (g : Group) (ls : LaneSet) (what : Raise) (rw sw : Nat) : (g.raiseLanes ls what rw sw).gang = g.gang := rfl
@[simp] theorem Group.raiseLanes_ginfo (g : Group) (ls : LaneSet) (what : Raise) (rw sw : Nat) : (g.raiseLanes ls what rw sw).ginfo = g.ginfo := rfl
@[simp] theorem Group.raiseLanes_budget (g : Group) (ls : LaneSet) (what : Raise) (rw sw : Nat) : (g.raiseLanes ls what rw sw).budget = g.budget := rfl
@[simp] theorem Group.raiseLanes_sregs (g : Group) (ls : LaneSet) (what : Raise) (rw sw : Nat) : (g.raiseLanes ls what rw sw).sregs = g.sregs := rfl
@[simp] theorem Group.raiseLanes_masks (g : Group) (ls : LaneSet) (what : Raise) (rw sw : Nat) : (g.raiseLanes ls what rw sw).masks = g.masks := rfl
@[simp] theorem Group.raiseLanes_cond (g : Group) (ls : LaneSet) (what : Raise) (rw sw : Nat) : (g.raiseLanes ls what rw sw).cond = g.cond := rfl
@[simp] theorem Group.raiseLanes_fmode (g : Group) (ls : LaneSet) (what : Raise) (rw sw : Nat) : (g.raiseLanes ls what rw sw).fmode = g.fmode := rfl
@[simp] theorem Group.raiseLanes_tsz (g : Group) (ls : LaneSet) (what : Raise) (rw sw : Nat) : (g.raiseLanes ls what rw sw).tsz = g.tsz := rfl
@[simp] theorem Group.raiseLanes_vregs (g : Group) (ls : LaneSet) (what : Raise) (rw sw : Nat) : (g.raiseLanes ls what rw sw).vregs = g.vregs := rfl
@[simp] theorem Group.raiseLanes_keys (g : Group) (ls : LaneSet) (what : Raise) (rw sw : Nat) : (g.raiseLanes ls what rw sw).keys = g.keys := rfl
@[simp] theorem Group.raiseLanes_bound (g : Group) (ls : LaneSet) (what : Raise) (rw sw : Nat) : (g.raiseLanes ls what rw sw).bound = g.bound := rfl
@[simp] theorem Group.raiseLanes_txs (g : Group) (ls : LaneSet) (what : Raise) (rw sw : Nat) : (g.raiseLanes ls what rw sw).txs = g.txs := rfl
@[simp] theorem Group.raiseLanes_tx (g : Group) (ls : LaneSet) (what : Raise) (rw sw : Nat) : (g.raiseLanes ls what rw sw).tx = g.tx := rfl
@[simp] theorem Group.raiseLanes_lanes (g : Group) (ls : LaneSet) (what : Raise) (rw sw : Nat) : (g.raiseLanes ls what rw sw).lanes = g.lanes := rfl
@[simp] theorem Group.raiseLanes_normal (g : Group) (ls : LaneSet) (what : Raise) (rw sw : Nat) : (g.raiseLanes ls what rw sw).normal = g.normal := rfl
@[simp] theorem Group.raiseLanes_trapBank (g : Group) (ls : LaneSet) (what : Raise) (rw sw : Nat) : (g.raiseLanes ls what rw sw).trapBank = g.trapBank := rfl
@[simp] theorem Group.raiseLanes_phase (g : Group) (ls : LaneSet) (what : Raise) (rw sw : Nat) : (g.raiseLanes ls what rw sw).phase = g.phase := rfl
@[simp] theorem Group.raiseLanes_wait (g : Group) (ls : LaneSet) (what : Raise) (rw sw : Nat) : (g.raiseLanes ls what rw sw).wait = g.wait := rfl
@[simp] theorem Group.raiseLanes_loads (g : Group) (ls : LaneSet) (what : Raise) (rw sw : Nat) : (g.raiseLanes ls what rw sw).loads = g.loads := rfl
@[simp] theorem Group.raiseLanes_stores (g : Group) (ls : LaneSet) (what : Raise) (rw sw : Nat) : (g.raiseLanes ls what rw sw).stores = g.stores := rfl
@[simp] theorem Group.raiseLanes_copies (g : Group) (ls : LaneSet) (what : Raise) (rw sw : Nat) : (g.raiseLanes ls what rw sw).copies = g.copies := rfl
@[simp] theorem Group.raiseLanes_tiles (g : Group) (ls : LaneSet) (what : Raise) (rw sw : Nat) : (g.raiseLanes ls what rw sw).tiles = g.tiles := rfl
@[simp] theorem Group.raiseLanes_fenced (g : Group) (ls : LaneSet) (what : Raise) (rw sw : Nat) : (g.raiseLanes ls what rw sw).fenced = g.fenced := rfl
@[simp] theorem Group.raiseLanes_asked (g : Group) (ls : LaneSet) (what : Raise) (rw sw : Nat) : (g.raiseLanes ls what rw sw).asked = g.asked := rfl
@[simp] theorem Group.raiseLanes_pend (g : Group) (ls : LaneSet) (what : Raise) (rw sw : Nat) : (g.raiseLanes ls what rw sw).pend = g.pend := rfl
@[simp] theorem Group.raiseLanes_remote (g : Group) (ls : LaneSet) (what : Raise) (rw sw : Nat) : (g.raiseLanes ls what rw sw).remote = g.remote := rfl
@[simp] theorem Group.raiseLanes_cause (g : Group) (ls : LaneSet) (what : Raise) (rw sw : Nat) : (g.raiseLanes ls what rw sw).cause = g.cause := rfl
@[simp] theorem Group.raiseLanes_entries (g : Group) (ls : LaneSet) (what : Raise) (rw sw : Nat) : (g.raiseLanes ls what rw sw).entries = g.entries := rfl
@[simp] theorem Group.raiseLanes_resumed (g : Group) (ls : LaneSet) (what : Raise) (rw sw : Nat) : (g.raiseLanes ls what rw sw).resumed = g.resumed := rfl
@[simp] theorem Group.raiseLanes_watchdog (g : Group) (ls : LaneSet) (what : Raise) (rw sw : Nat) : (g.raiseLanes ls what rw sw).watchdog = g.watchdog := rfl
@[simp] theorem Group.raiseLanes_passed (g : Group) (ls : LaneSet) (what : Raise) (rw sw : Nat) : (g.raiseLanes ls what rw sw).passed = g.passed := rfl
@[simp] theorem Group.raiseLanes_starved (g : Group) (ls : LaneSet) (what : Raise) (rw sw : Nat) : (g.raiseLanes ls what rw sw).starved = g.starved := rfl
@[simp] theorem Group.raiseLanes_seq (g : Group) (ls : LaneSet) (what : Raise) (rw sw : Nat) : (g.raiseLanes ls what rw sw).seq = g.seq := rfl
@[simp] theorem Group.raiseLanes_walked (g : Group) (ls : LaneSet) (what : Raise) (rw sw : Nat) : (g.raiseLanes ls what rw sw).walked = g.walked := rfl
@[simp] theorem Group.raiseLanes_stage (g : Group) (ls : LaneSet) (what : Raise) (rw sw : Nat) : (g.raiseLanes ls what rw sw).stage = g.stage := rfl
@[simp] theorem Group.raiseLanes_object (g : Group) (ls : LaneSet) (what : Raise) (rw sw : Nat) : (g.raiseLanes ls what rw sw).object = g.object := rfl
@[simp] theorem Group.raiseLanes_copied (g : Group) (ls : LaneSet) (what : Raise) (rw sw : Nat) : (g.raiseLanes ls what rw sw).copied = g.copied := rfl

@[simp] theorem Group.raiseLane_launch (g : Group) (l : Nat) (what : Raise) : (g.raiseLane l what).launch = g.launch := rfl
@[simp] theorem Group.raiseLane_gang (g : Group) (l : Nat) (what : Raise) : (g.raiseLane l what).gang = g.gang := rfl
@[simp] theorem Group.raiseLane_ginfo (g : Group) (l : Nat) (what : Raise) : (g.raiseLane l what).ginfo = g.ginfo := rfl
@[simp] theorem Group.raiseLane_budget (g : Group) (l : Nat) (what : Raise) : (g.raiseLane l what).budget = g.budget := rfl
@[simp] theorem Group.raiseLane_sregs (g : Group) (l : Nat) (what : Raise) : (g.raiseLane l what).sregs = g.sregs := rfl
@[simp] theorem Group.raiseLane_masks (g : Group) (l : Nat) (what : Raise) : (g.raiseLane l what).masks = g.masks := rfl
@[simp] theorem Group.raiseLane_cond (g : Group) (l : Nat) (what : Raise) : (g.raiseLane l what).cond = g.cond := rfl
@[simp] theorem Group.raiseLane_fmode (g : Group) (l : Nat) (what : Raise) : (g.raiseLane l what).fmode = g.fmode := rfl
@[simp] theorem Group.raiseLane_tsz (g : Group) (l : Nat) (what : Raise) : (g.raiseLane l what).tsz = g.tsz := rfl
@[simp] theorem Group.raiseLane_vregs (g : Group) (l : Nat) (what : Raise) : (g.raiseLane l what).vregs = g.vregs := rfl
@[simp] theorem Group.raiseLane_keys (g : Group) (l : Nat) (what : Raise) : (g.raiseLane l what).keys = g.keys := rfl
@[simp] theorem Group.raiseLane_bound (g : Group) (l : Nat) (what : Raise) : (g.raiseLane l what).bound = g.bound := rfl
@[simp] theorem Group.raiseLane_txs (g : Group) (l : Nat) (what : Raise) : (g.raiseLane l what).txs = g.txs := rfl
@[simp] theorem Group.raiseLane_tx (g : Group) (l : Nat) (what : Raise) : (g.raiseLane l what).tx = g.tx := rfl
@[simp] theorem Group.raiseLane_lanes (g : Group) (l : Nat) (what : Raise) : (g.raiseLane l what).lanes = g.lanes := rfl
@[simp] theorem Group.raiseLane_normal (g : Group) (l : Nat) (what : Raise) : (g.raiseLane l what).normal = g.normal := rfl
@[simp] theorem Group.raiseLane_trapBank (g : Group) (l : Nat) (what : Raise) : (g.raiseLane l what).trapBank = g.trapBank := rfl
@[simp] theorem Group.raiseLane_phase (g : Group) (l : Nat) (what : Raise) : (g.raiseLane l what).phase = g.phase := rfl
@[simp] theorem Group.raiseLane_wait (g : Group) (l : Nat) (what : Raise) : (g.raiseLane l what).wait = g.wait := rfl
@[simp] theorem Group.raiseLane_loads (g : Group) (l : Nat) (what : Raise) : (g.raiseLane l what).loads = g.loads := rfl
@[simp] theorem Group.raiseLane_stores (g : Group) (l : Nat) (what : Raise) : (g.raiseLane l what).stores = g.stores := rfl
@[simp] theorem Group.raiseLane_copies (g : Group) (l : Nat) (what : Raise) : (g.raiseLane l what).copies = g.copies := rfl
@[simp] theorem Group.raiseLane_tiles (g : Group) (l : Nat) (what : Raise) : (g.raiseLane l what).tiles = g.tiles := rfl
@[simp] theorem Group.raiseLane_fenced (g : Group) (l : Nat) (what : Raise) : (g.raiseLane l what).fenced = g.fenced := rfl
@[simp] theorem Group.raiseLane_asked (g : Group) (l : Nat) (what : Raise) : (g.raiseLane l what).asked = g.asked := rfl
@[simp] theorem Group.raiseLane_pend (g : Group) (l : Nat) (what : Raise) : (g.raiseLane l what).pend = g.pend := rfl
@[simp] theorem Group.raiseLane_remote (g : Group) (l : Nat) (what : Raise) : (g.raiseLane l what).remote = g.remote := rfl
@[simp] theorem Group.raiseLane_cause (g : Group) (l : Nat) (what : Raise) : (g.raiseLane l what).cause = g.cause := rfl
@[simp] theorem Group.raiseLane_entries (g : Group) (l : Nat) (what : Raise) : (g.raiseLane l what).entries = g.entries := rfl
@[simp] theorem Group.raiseLane_resumed (g : Group) (l : Nat) (what : Raise) : (g.raiseLane l what).resumed = g.resumed := rfl
@[simp] theorem Group.raiseLane_watchdog (g : Group) (l : Nat) (what : Raise) : (g.raiseLane l what).watchdog = g.watchdog := rfl
@[simp] theorem Group.raiseLane_passed (g : Group) (l : Nat) (what : Raise) : (g.raiseLane l what).passed = g.passed := rfl
@[simp] theorem Group.raiseLane_starved (g : Group) (l : Nat) (what : Raise) : (g.raiseLane l what).starved = g.starved := rfl
@[simp] theorem Group.raiseLane_seq (g : Group) (l : Nat) (what : Raise) : (g.raiseLane l what).seq = g.seq := rfl
@[simp] theorem Group.raiseLane_walked (g : Group) (l : Nat) (what : Raise) : (g.raiseLane l what).walked = g.walked := rfl
@[simp] theorem Group.raiseLane_stage (g : Group) (l : Nat) (what : Raise) : (g.raiseLane l what).stage = g.stage := rfl
@[simp] theorem Group.raiseLane_object (g : Group) (l : Nat) (what : Raise) : (g.raiseLane l what).object = g.object := rfl
@[simp] theorem Group.raiseLane_copied (g : Group) (l : Nat) (what : Raise) : (g.raiseLane l what).copied = g.copied := rfl

@[simp] theorem Group.raiseAll_launch (g : Group) (what : Raise) : (g.raiseAll what).launch = g.launch := rfl
@[simp] theorem Group.raiseAll_gang (g : Group) (what : Raise) : (g.raiseAll what).gang = g.gang := rfl
@[simp] theorem Group.raiseAll_ginfo (g : Group) (what : Raise) : (g.raiseAll what).ginfo = g.ginfo := rfl
@[simp] theorem Group.raiseAll_budget (g : Group) (what : Raise) : (g.raiseAll what).budget = g.budget := rfl
@[simp] theorem Group.raiseAll_sregs (g : Group) (what : Raise) : (g.raiseAll what).sregs = g.sregs := rfl
@[simp] theorem Group.raiseAll_masks (g : Group) (what : Raise) : (g.raiseAll what).masks = g.masks := rfl
@[simp] theorem Group.raiseAll_cond (g : Group) (what : Raise) : (g.raiseAll what).cond = g.cond := rfl
@[simp] theorem Group.raiseAll_fmode (g : Group) (what : Raise) : (g.raiseAll what).fmode = g.fmode := rfl
@[simp] theorem Group.raiseAll_tsz (g : Group) (what : Raise) : (g.raiseAll what).tsz = g.tsz := rfl
@[simp] theorem Group.raiseAll_vregs (g : Group) (what : Raise) : (g.raiseAll what).vregs = g.vregs := rfl
@[simp] theorem Group.raiseAll_keys (g : Group) (what : Raise) : (g.raiseAll what).keys = g.keys := rfl
@[simp] theorem Group.raiseAll_bound (g : Group) (what : Raise) : (g.raiseAll what).bound = g.bound := rfl
@[simp] theorem Group.raiseAll_txs (g : Group) (what : Raise) : (g.raiseAll what).txs = g.txs := rfl
@[simp] theorem Group.raiseAll_tx (g : Group) (what : Raise) : (g.raiseAll what).tx = g.tx := rfl
@[simp] theorem Group.raiseAll_lanes (g : Group) (what : Raise) : (g.raiseAll what).lanes = g.lanes := rfl
@[simp] theorem Group.raiseAll_normal (g : Group) (what : Raise) : (g.raiseAll what).normal = g.normal := rfl
@[simp] theorem Group.raiseAll_trapBank (g : Group) (what : Raise) : (g.raiseAll what).trapBank = g.trapBank := rfl
@[simp] theorem Group.raiseAll_phase (g : Group) (what : Raise) : (g.raiseAll what).phase = g.phase := rfl
@[simp] theorem Group.raiseAll_wait (g : Group) (what : Raise) : (g.raiseAll what).wait = g.wait := rfl
@[simp] theorem Group.raiseAll_loads (g : Group) (what : Raise) : (g.raiseAll what).loads = g.loads := rfl
@[simp] theorem Group.raiseAll_stores (g : Group) (what : Raise) : (g.raiseAll what).stores = g.stores := rfl
@[simp] theorem Group.raiseAll_copies (g : Group) (what : Raise) : (g.raiseAll what).copies = g.copies := rfl
@[simp] theorem Group.raiseAll_tiles (g : Group) (what : Raise) : (g.raiseAll what).tiles = g.tiles := rfl
@[simp] theorem Group.raiseAll_fenced (g : Group) (what : Raise) : (g.raiseAll what).fenced = g.fenced := rfl
@[simp] theorem Group.raiseAll_asked (g : Group) (what : Raise) : (g.raiseAll what).asked = g.asked := rfl
@[simp] theorem Group.raiseAll_pend (g : Group) (what : Raise) : (g.raiseAll what).pend = g.pend := rfl
@[simp] theorem Group.raiseAll_remote (g : Group) (what : Raise) : (g.raiseAll what).remote = g.remote := rfl
@[simp] theorem Group.raiseAll_cause (g : Group) (what : Raise) : (g.raiseAll what).cause = g.cause := rfl
@[simp] theorem Group.raiseAll_entries (g : Group) (what : Raise) : (g.raiseAll what).entries = g.entries := rfl
@[simp] theorem Group.raiseAll_resumed (g : Group) (what : Raise) : (g.raiseAll what).resumed = g.resumed := rfl
@[simp] theorem Group.raiseAll_watchdog (g : Group) (what : Raise) : (g.raiseAll what).watchdog = g.watchdog := rfl
@[simp] theorem Group.raiseAll_passed (g : Group) (what : Raise) : (g.raiseAll what).passed = g.passed := rfl
@[simp] theorem Group.raiseAll_starved (g : Group) (what : Raise) : (g.raiseAll what).starved = g.starved := rfl
@[simp] theorem Group.raiseAll_seq (g : Group) (what : Raise) : (g.raiseAll what).seq = g.seq := rfl
@[simp] theorem Group.raiseAll_walked (g : Group) (what : Raise) : (g.raiseAll what).walked = g.walked := rfl
@[simp] theorem Group.raiseAll_stage (g : Group) (what : Raise) : (g.raiseAll what).stage = g.stage := rfl
@[simp] theorem Group.raiseAll_object (g : Group) (what : Raise) : (g.raiseAll what).object = g.object := rfl
@[simp] theorem Group.raiseAll_copied (g : Group) (what : Raise) : (g.raiseAll what).copied = g.copied := rfl

@[simp] theorem Group.illegal_launch (g : Group) : (g.illegal).launch = g.launch := rfl
@[simp] theorem Group.illegal_gang (g : Group) : (g.illegal).gang = g.gang := rfl
@[simp] theorem Group.illegal_ginfo (g : Group) : (g.illegal).ginfo = g.ginfo := rfl
@[simp] theorem Group.illegal_budget (g : Group) : (g.illegal).budget = g.budget := rfl
@[simp] theorem Group.illegal_sregs (g : Group) : (g.illegal).sregs = g.sregs := rfl
@[simp] theorem Group.illegal_masks (g : Group) : (g.illegal).masks = g.masks := rfl
@[simp] theorem Group.illegal_cond (g : Group) : (g.illegal).cond = g.cond := rfl
@[simp] theorem Group.illegal_fmode (g : Group) : (g.illegal).fmode = g.fmode := rfl
@[simp] theorem Group.illegal_tsz (g : Group) : (g.illegal).tsz = g.tsz := rfl
@[simp] theorem Group.illegal_vregs (g : Group) : (g.illegal).vregs = g.vregs := rfl
@[simp] theorem Group.illegal_keys (g : Group) : (g.illegal).keys = g.keys := rfl
@[simp] theorem Group.illegal_bound (g : Group) : (g.illegal).bound = g.bound := rfl
@[simp] theorem Group.illegal_txs (g : Group) : (g.illegal).txs = g.txs := rfl
@[simp] theorem Group.illegal_tx (g : Group) : (g.illegal).tx = g.tx := rfl
@[simp] theorem Group.illegal_lanes (g : Group) : (g.illegal).lanes = g.lanes := rfl
@[simp] theorem Group.illegal_normal (g : Group) : (g.illegal).normal = g.normal := rfl
@[simp] theorem Group.illegal_trapBank (g : Group) : (g.illegal).trapBank = g.trapBank := rfl
@[simp] theorem Group.illegal_phase (g : Group) : (g.illegal).phase = g.phase := rfl
@[simp] theorem Group.illegal_wait (g : Group) : (g.illegal).wait = g.wait := rfl
@[simp] theorem Group.illegal_loads (g : Group) : (g.illegal).loads = g.loads := rfl
@[simp] theorem Group.illegal_stores (g : Group) : (g.illegal).stores = g.stores := rfl
@[simp] theorem Group.illegal_copies (g : Group) : (g.illegal).copies = g.copies := rfl
@[simp] theorem Group.illegal_tiles (g : Group) : (g.illegal).tiles = g.tiles := rfl
@[simp] theorem Group.illegal_fenced (g : Group) : (g.illegal).fenced = g.fenced := rfl
@[simp] theorem Group.illegal_asked (g : Group) : (g.illegal).asked = g.asked := rfl
@[simp] theorem Group.illegal_pend (g : Group) : (g.illegal).pend = g.pend := rfl
@[simp] theorem Group.illegal_remote (g : Group) : (g.illegal).remote = g.remote := rfl
@[simp] theorem Group.illegal_cause (g : Group) : (g.illegal).cause = g.cause := rfl
@[simp] theorem Group.illegal_entries (g : Group) : (g.illegal).entries = g.entries := rfl
@[simp] theorem Group.illegal_resumed (g : Group) : (g.illegal).resumed = g.resumed := rfl
@[simp] theorem Group.illegal_watchdog (g : Group) : (g.illegal).watchdog = g.watchdog := rfl
@[simp] theorem Group.illegal_passed (g : Group) : (g.illegal).passed = g.passed := rfl
@[simp] theorem Group.illegal_starved (g : Group) : (g.illegal).starved = g.starved := rfl
@[simp] theorem Group.illegal_seq (g : Group) : (g.illegal).seq = g.seq := rfl
@[simp] theorem Group.illegal_walked (g : Group) : (g.illegal).walked = g.walked := rfl
@[simp] theorem Group.illegal_stage (g : Group) : (g.illegal).stage = g.stage := rfl
@[simp] theorem Group.illegal_object (g : Group) : (g.illegal).object = g.object := rfl
@[simp] theorem Group.illegal_copied (g : Group) : (g.illegal).copied = g.copied := rfl

@[simp] theorem Group.waitOn_launch (g : Group) (w : Wait) : (g.waitOn w).launch = g.launch := rfl
@[simp] theorem Group.waitOn_gang (g : Group) (w : Wait) : (g.waitOn w).gang = g.gang := rfl
@[simp] theorem Group.waitOn_ginfo (g : Group) (w : Wait) : (g.waitOn w).ginfo = g.ginfo := rfl
@[simp] theorem Group.waitOn_budget (g : Group) (w : Wait) : (g.waitOn w).budget = g.budget := rfl
@[simp] theorem Group.waitOn_sregs (g : Group) (w : Wait) : (g.waitOn w).sregs = g.sregs := rfl
@[simp] theorem Group.waitOn_masks (g : Group) (w : Wait) : (g.waitOn w).masks = g.masks := rfl
@[simp] theorem Group.waitOn_cond (g : Group) (w : Wait) : (g.waitOn w).cond = g.cond := rfl
@[simp] theorem Group.waitOn_fmode (g : Group) (w : Wait) : (g.waitOn w).fmode = g.fmode := rfl
@[simp] theorem Group.waitOn_tsz (g : Group) (w : Wait) : (g.waitOn w).tsz = g.tsz := rfl
@[simp] theorem Group.waitOn_vregs (g : Group) (w : Wait) : (g.waitOn w).vregs = g.vregs := rfl
@[simp] theorem Group.waitOn_keys (g : Group) (w : Wait) : (g.waitOn w).keys = g.keys := rfl
@[simp] theorem Group.waitOn_bound (g : Group) (w : Wait) : (g.waitOn w).bound = g.bound := rfl
@[simp] theorem Group.waitOn_txs (g : Group) (w : Wait) : (g.waitOn w).txs = g.txs := rfl
@[simp] theorem Group.waitOn_tx (g : Group) (w : Wait) : (g.waitOn w).tx = g.tx := rfl
@[simp] theorem Group.waitOn_lanes (g : Group) (w : Wait) : (g.waitOn w).lanes = g.lanes := rfl
@[simp] theorem Group.waitOn_normal (g : Group) (w : Wait) : (g.waitOn w).normal = g.normal := rfl
@[simp] theorem Group.waitOn_trapBank (g : Group) (w : Wait) : (g.waitOn w).trapBank = g.trapBank := rfl
@[simp] theorem Group.waitOn_phase (g : Group) (w : Wait) : (g.waitOn w).phase = .waiting := rfl
@[simp] theorem Group.waitOn_wait (g : Group) (w : Wait) : (g.waitOn w).wait = some w := rfl
@[simp] theorem Group.waitOn_loads (g : Group) (w : Wait) : (g.waitOn w).loads = g.loads := rfl
@[simp] theorem Group.waitOn_stores (g : Group) (w : Wait) : (g.waitOn w).stores = g.stores := rfl
@[simp] theorem Group.waitOn_copies (g : Group) (w : Wait) : (g.waitOn w).copies = g.copies := rfl
@[simp] theorem Group.waitOn_tiles (g : Group) (w : Wait) : (g.waitOn w).tiles = g.tiles := rfl
@[simp] theorem Group.waitOn_fenced (g : Group) (w : Wait) : (g.waitOn w).fenced = g.fenced := rfl
@[simp] theorem Group.waitOn_asked (g : Group) (w : Wait) : (g.waitOn w).asked = g.asked := rfl
@[simp] theorem Group.waitOn_pend (g : Group) (w : Wait) : (g.waitOn w).pend = g.pend := rfl
@[simp] theorem Group.waitOn_remote (g : Group) (w : Wait) : (g.waitOn w).remote = g.remote := rfl
@[simp] theorem Group.waitOn_cause (g : Group) (w : Wait) : (g.waitOn w).cause = g.cause := rfl
@[simp] theorem Group.waitOn_entries (g : Group) (w : Wait) : (g.waitOn w).entries = g.entries := rfl
@[simp] theorem Group.waitOn_resumed (g : Group) (w : Wait) : (g.waitOn w).resumed = g.resumed := rfl
@[simp] theorem Group.waitOn_watchdog (g : Group) (w : Wait) : (g.waitOn w).watchdog = g.watchdog := rfl
@[simp] theorem Group.waitOn_passed (g : Group) (w : Wait) : (g.waitOn w).passed = g.passed := rfl
@[simp] theorem Group.waitOn_starved (g : Group) (w : Wait) : (g.waitOn w).starved = g.starved := rfl
@[simp] theorem Group.waitOn_seq (g : Group) (w : Wait) : (g.waitOn w).seq = g.seq := rfl
@[simp] theorem Group.waitOn_walked (g : Group) (w : Wait) : (g.waitOn w).walked = g.walked := rfl
@[simp] theorem Group.waitOn_stage (g : Group) (w : Wait) : (g.waitOn w).stage = g.stage := rfl
@[simp] theorem Group.waitOn_object (g : Group) (w : Wait) : (g.waitOn w).object = g.object := rfl
@[simp] theorem Group.waitOn_copied (g : Group) (w : Wait) : (g.waitOn w).copied = g.copied := rfl

@[simp] theorem Group.waitBehind_launch (g : Group) (w : Wait) : (g.waitBehind w).launch = g.launch := rfl
@[simp] theorem Group.waitBehind_gang (g : Group) (w : Wait) : (g.waitBehind w).gang = g.gang := rfl
@[simp] theorem Group.waitBehind_ginfo (g : Group) (w : Wait) : (g.waitBehind w).ginfo = g.ginfo := rfl
@[simp] theorem Group.waitBehind_budget (g : Group) (w : Wait) : (g.waitBehind w).budget = g.budget := rfl
@[simp] theorem Group.waitBehind_sregs (g : Group) (w : Wait) : (g.waitBehind w).sregs = g.sregs := rfl
@[simp] theorem Group.waitBehind_masks (g : Group) (w : Wait) : (g.waitBehind w).masks = g.masks := rfl
@[simp] theorem Group.waitBehind_cond (g : Group) (w : Wait) : (g.waitBehind w).cond = g.cond := rfl
@[simp] theorem Group.waitBehind_fmode (g : Group) (w : Wait) : (g.waitBehind w).fmode = g.fmode := rfl
@[simp] theorem Group.waitBehind_tsz (g : Group) (w : Wait) : (g.waitBehind w).tsz = g.tsz := rfl
@[simp] theorem Group.waitBehind_vregs (g : Group) (w : Wait) : (g.waitBehind w).vregs = g.vregs := rfl
@[simp] theorem Group.waitBehind_keys (g : Group) (w : Wait) : (g.waitBehind w).keys = g.keys := rfl
@[simp] theorem Group.waitBehind_bound (g : Group) (w : Wait) : (g.waitBehind w).bound = g.bound := rfl
@[simp] theorem Group.waitBehind_txs (g : Group) (w : Wait) : (g.waitBehind w).txs = g.txs := rfl
@[simp] theorem Group.waitBehind_tx (g : Group) (w : Wait) : (g.waitBehind w).tx = g.tx := rfl
@[simp] theorem Group.waitBehind_lanes (g : Group) (w : Wait) : (g.waitBehind w).lanes = g.lanes := rfl
@[simp] theorem Group.waitBehind_normal (g : Group) (w : Wait) : (g.waitBehind w).normal = g.normal := rfl
@[simp] theorem Group.waitBehind_trapBank (g : Group) (w : Wait) : (g.waitBehind w).trapBank = g.trapBank := rfl
@[simp] theorem Group.waitBehind_phase (g : Group) (w : Wait) : (g.waitBehind w).phase = .waiting := rfl
@[simp] theorem Group.waitBehind_wait (g : Group) (w : Wait) : (g.waitBehind w).wait = some w := rfl
@[simp] theorem Group.waitBehind_loads (g : Group) (w : Wait) : (g.waitBehind w).loads = g.loads := rfl
@[simp] theorem Group.waitBehind_stores (g : Group) (w : Wait) : (g.waitBehind w).stores = g.stores := rfl
@[simp] theorem Group.waitBehind_copies (g : Group) (w : Wait) : (g.waitBehind w).copies = g.copies := rfl
@[simp] theorem Group.waitBehind_tiles (g : Group) (w : Wait) : (g.waitBehind w).tiles = g.tiles := rfl
@[simp] theorem Group.waitBehind_fenced (g : Group) (w : Wait) : (g.waitBehind w).fenced = g.fenced := rfl
@[simp] theorem Group.waitBehind_asked (g : Group) (w : Wait) : (g.waitBehind w).asked = g.asked := rfl
@[simp] theorem Group.waitBehind_pend (g : Group) (w : Wait) : (g.waitBehind w).pend = g.pend := rfl
@[simp] theorem Group.waitBehind_remote (g : Group) (w : Wait) : (g.waitBehind w).remote = g.remote := rfl
@[simp] theorem Group.waitBehind_cause (g : Group) (w : Wait) : (g.waitBehind w).cause = g.cause := rfl
@[simp] theorem Group.waitBehind_entries (g : Group) (w : Wait) : (g.waitBehind w).entries = g.entries := rfl
@[simp] theorem Group.waitBehind_resumed (g : Group) (w : Wait) : (g.waitBehind w).resumed = g.resumed := rfl
@[simp] theorem Group.waitBehind_watchdog (g : Group) (w : Wait) : (g.waitBehind w).watchdog = g.watchdog := rfl
@[simp] theorem Group.waitBehind_passed (g : Group) (w : Wait) : (g.waitBehind w).passed = g.passed := rfl
@[simp] theorem Group.waitBehind_starved (g : Group) (w : Wait) : (g.waitBehind w).starved = g.starved := rfl
@[simp] theorem Group.waitBehind_seq (g : Group) (w : Wait) : (g.waitBehind w).seq = g.seq := rfl
@[simp] theorem Group.waitBehind_walked (g : Group) (w : Wait) : (g.waitBehind w).walked = g.walked := rfl
@[simp] theorem Group.waitBehind_stage (g : Group) (w : Wait) : (g.waitBehind w).stage = g.stage := rfl
@[simp] theorem Group.waitBehind_object (g : Group) (w : Wait) : (g.waitBehind w).object = g.object := rfl
@[simp] theorem Group.waitBehind_copied (g : Group) (w : Wait) : (g.waitBehind w).copied = g.copied := rfl
@[simp] theorem Group.waitBehind_clause (g : Group) (w : Wait) : (g.waitBehind w).clause = g.clause := rfl

end Sys2Proof.Machine
end

