-- ==== Sys2Proof/Laws/Vector.lean ====
section
/-! SUPPORT. Laws of lanes, of vector registers and of the shared execution of a vector instruction. -/

namespace Sys2Proof.Laws

open Sys2Proof Sys2Proof.Machine Sys2Proof.Claim

/-! ## Lanes of a set -/

theorem mem_lanesOf (s : LaneSet) (l : Nat) : l ∈ lanesOf s ↔ l < 32 ∧ s.getLsbD l = true := by simp [lanesOf]

theorem lanesOf_sorted (s : LaneSet) : (lanesOf s).Pairwise (· < ·) := List.pairwise_lt_range.filter _

theorem getLsbD_laneBit (l i : Nat) (hl : l < 32) : (laneBit l).getLsbD i = decide (i = l) := by
  unfold laneBit
  rw [BitVec.getLsbD_ofNat, Nat.testBit_two_pow]
  by_cases h : i = l
  · subst h; simp [hl]
  · have : ¬ l = i := fun e => h e.symm
    simp [h, this]

theorem lanesOf_laneBit (l : Nat) (hl : l < 32) : lanesOf (laneBit l) = [l] := by
  have h : ∀ i, (laneBit l).getLsbD i = decide (i = l) := fun i => getLsbD_laneBit l i hl
  simp only [lanesOf, h]
  have : ∀ n, l < n → (List.range n).filter (fun i => decide (i = l)) = [l] := by
    intro n
    induction n with
    | zero => intro h; omega
    | succ n ih =>
      intro hn
      rw [List.range_succ, List.filter_append]
      by_cases e : n = l
      · subst e
        have : (List.range n).filter (fun i => decide (i = n)) = [] := by
          rw [List.filter_eq_nil_iff]
          intro a ha
          have := List.mem_range.mp ha
          simp; omega
        simp [this]
      · rw [ih (by omega)]
        simp [e]
  exact this 32 hl

/-- A lane raised at the instruction. -/
theorem raiseLane_eq (g : Group) (l : Nat) (what : Raise) (hl : l < 32) (hw : ∀ i a, what ≠ .replay .uncorrectable i a) :
    g.raiseLane l what = { g with clause := { g.clause with
      active := g.clause.active &&& ~~~laneBit l,
      events := g.clause.events ++ [{ lane := l, what := what, escalates := (g.lane l).trap, word := g.clause.idx,
                                      rword := g.clause.idx, sword := g.clause.idx + g.clause.len }] } } := by
  unfold Group.raiseLane Group.raiseLanes
  simp only [lanesOf_laneBit l hl, List.map_cons, List.map_nil, Bool.and_true]

/-! ## Registers -/

theorem vkey_inj {v w l m : Nat} (hl : l < 32) (hm : m < 32) (h : vkey v l = vkey w m) : v = w ∧ l = m := by
  unfold vkey at h
  omega

theorem vraw_vwrite (g : Group) (tick v l w m : Nat) (x : Word) (hl : l < 32) (hm : m < 32) :
    (g.vwrite tick v l x).vraw w m = if w = v ∧ m = l then x else g.vraw w m := by
  by_cases h : w = v ∧ m = l
  · obtain ⟨rfl, rfl⟩ := h
    simp [Group.vraw]
  · have hk : vkey w m ≠ vkey v l := fun e => h (vkey_inj hm hl e)
    simp only [Group.vraw, Group.vwrite_vregs, if_neg h]
    exact Tab.get_put_ne _ _ _ _ _ hk

theorem pend_vwrite_sub (g : Group) (tick v l : Nat) (x : Word) (p : PendingReg) (h : p ∈ (g.vwrite tick v l x).pend) : p ∈ g.pend :=
  List.mem_of_mem_filter h

theorem pend_vwrite_kept (g : Group) (tick v l : Nat) (x : Word) (p : PendingReg) (h : p ∈ g.pend) (hk : p.key ≠ vkey v l) :
    p ∈ (g.vwrite tick v l x).pend := by
  refine List.mem_filter.mpr ⟨h, ?_⟩
  simp [bne_iff_ne, hk]

/-- What some register writes may change: W says which registers they write, and with what. -/
structure Wrote (g g' : Group) (W : Nat → Nat → Option Word) : Prop where
  reg : ∀ v l, l < 32 → g'.vraw v l = (W v l).getD (g.vraw v l)
  sub : ∀ p, p ∈ g'.pend → p ∈ g.pend
  kept : ∀ p v l, p ∈ g.pend → l < 32 → p.key = vkey v l → W v l = none → p ∈ g'.pend
  frame : { g' with vregs := g.vregs, pend := g.pend } = g

theorem Wrote.refl (g : Group) : Wrote g g (fun _ _ => Option.none) :=
  ⟨fun _ _ _ => rfl, fun _ h => h, fun _ _ _ h _ _ _ => h, rfl⟩

theorem Wrote.vwrite (g : Group) (tick v l : Nat) (x : Word) (hl : l < 32) :
    Wrote g (g.vwrite tick v l x) (fun w m => if w = v ∧ m = l then some x else Option.none) := by
  refine ⟨?_, pend_vwrite_sub g tick v l x, ?_, rfl⟩
  · intro w m hm
    rw [vraw_vwrite g tick v l w m x hl hm]
    split <;> rfl
  · intro p w m hp hm hk hW
    refine pend_vwrite_kept g tick v l x p hp ?_
    rw [hk]
    intro e
    obtain ⟨rfl, rfl⟩ := vkey_inj hm hl e
    simp at hW

theorem Wrote.trans {a b c : Group} {V W : Nat → Nat → Option Word} (h1 : Wrote a b V) (h2 : Wrote b c W) :
    Wrote a c (fun v l => (W v l).or (V v l)) := by
  refine ⟨?_, fun p h => h1.sub p (h2.sub p h), ?_, ?_⟩
  · intro v l hl
    rw [h2.reg v l hl, h1.reg v l hl]
    cases W v l <;> rfl
  · intro p v l hp hl hk hn
    rw [Option.or_eq_none_iff] at hn
    exact h2.kept p v l (h1.kept p v l hp hl hk hn.2) hl hk hn.1
  · have e1 := h1.frame
    have e2 := h2.frame
    rw [← e1, ← e2]

theorem Wrote.congr {a b : Group} {V W : Nat → Nat → Option Word} (h : Wrote a b V) (e : ∀ v l, l < 32 → V v l = W v l) : Wrote a b W :=
  ⟨fun v l hl => by rw [h.reg v l hl, e v l hl], h.sub, fun p v l hp hl hk hn => h.kept p v l hp hl hk (by rw [e v l hl]; exact hn),
    h.frame⟩

/-! ## The elements of one lane -/

/-- The word that register v of a span at d takes from results rs, the first of which is element k. -/
def spanWord (is64 : Bool) (d k : Nat) (rs : List (Nat × Num.Exc)) (v : Nat) : Option Word :=
  if is64 then
    if v < d + 2 * k then Option.none
    else (rs[(v - d) / 2 - k]?).map fun r => if (v - d) % 2 = 0 then BitVec.ofNat 32 r.1 else BitVec.ofNat 32 (r.1 / 2 ^ 32)
  else if v < d + k then Option.none else (rs[v - d - k]?).map fun r => BitVec.ofNat 32 r.1

theorem Wrote.span (tick : Nat) (is64 : Bool) (d l : Nat) (hl : l < 32) (rs : List (Nat × Num.Exc)) (k : Nat) (g : Group) :
    Wrote g ((rs.zipIdx k).foldl (fun (a : Group) r => a.setVelem tick is64 d r.2 l r.1.1) g)
      (fun v m => if m = l then spanWord is64 d k rs v else Option.none) := by
  induction rs generalizing k g with
  | nil =>
    refine (Wrote.refl g).congr ?_
    intro v m _
    cases is64 <;> simp [spanWord]
  | cons r rest ih =>
    simp only [List.zipIdx_cons, List.foldl_cons]
    cases is64 with
    | false =>
      have h1 := Wrote.vwrite g tick (d + k) l (BitVec.ofNat 32 r.1) hl
      refine (h1.trans (ih (k + 1) _)).congr ?_
      intro v m _
      by_cases hm : m = l
      · subst hm
        simp only [spanWord, Bool.false_eq_true, if_false, and_true, if_true]
        by_cases h1 : v < d + k
        · rw [if_pos (by omega), if_pos h1, if_neg (by omega)]; rfl
        · rw [if_neg h1]
          by_cases h2 : v = d + k
          · subst h2
            rw [if_pos (by omega), if_pos rfl, show d + k - d - k = 0 by omega]; rfl
          · rw [if_neg (by omega), if_neg h2, show v - d - k = (v - d - (k + 1)) + 1 by omega, List.getElem?_cons_succ]
            cases ((rest[v - d - (k + 1)]?).map fun r => BitVec.ofNat 32 r.1) <;> rfl
      · simp [hm]
    | true =>
      have h1 := Wrote.vwrite g tick (d + 2 * k) l (BitVec.ofNat 32 r.1) hl
      have h2 := Wrote.vwrite (g.vwrite tick (d + 2 * k) l (BitVec.ofNat 32 r.1)) tick (d + 2 * k + 1) l
        (BitVec.ofNat 32 (r.1 / 2 ^ 32)) hl
      refine ((h1.trans h2).trans (ih (k + 1) _)).congr ?_
      intro v m _
      by_cases hm : m = l
      · subst hm
        simp only [spanWord, if_true, and_true]
        by_cases h1 : v < d + 2 * k
        · rw [if_pos (by omega), if_pos h1, if_neg (by omega), if_neg (by omega)]; rfl
        · rw [if_neg h1]
          by_cases h2 : v = d + 2 * k
          · subst h2
            rw [if_pos (by omega), if_neg (by omega), if_pos rfl, show (d + 2 * k - d) / 2 - k = 0 by omega,
              show (d + 2 * k - d) % 2 = 0 by omega]; rfl
          · by_cases h3 : v = d + 2 * k + 1
            · subst h3
              rw [if_pos (by omega), if_pos rfl, show (d + 2 * k + 1 - d) / 2 - k = 0 by omega,
                show (d + 2 * k + 1 - d) % 2 = 1 by omega]; rfl
            · rw [if_neg (by omega), if_neg h3, if_neg h2, show (v - d) / 2 - k = ((v - d) / 2 - (k + 1)) + 1 by omega,
                List.getElem?_cons_succ]
              cases ((rest[(v - d) / 2 - (k + 1)]?).map fun r =>
                if (v - d) % 2 = 0 then BitVec.ofNat 32 r.1 else BitVec.ofNat 32 (r.1 / 2 ^ 32)) <;> rfl
      · simp [hm]

/-! ## One lane, and all lanes -/

/-- The exceptions of a lane as `laneCommit` gathers them. -/
theorem laneExc_eq (E : Nat) (f : LaneFn) (l : Nat) :
    ((List.range E).map (f l)).foldl (fun (e : Num.Exc) r => e ||| r.2) Num.excNone = laneExc E f l := by
  simp [laneExc, List.foldl_map]

/-- What lanes of a list leave: registers by W, flags by the exceptions of those that complete, events of those that trap. -/
structure LanesDone (g a b : Group) (is64 : Bool) (d E : Nat) (f : LaneFn) (L : List Nat) : Prop where
  regs : ∀ v l, l < 32 → b.vraw v l =
    ((if l ∈ L ∧ excTraps g.fmode (laneExc E f l) = false then spanWord is64 d 0 ((List.range E).map (f l)) v else none).getD
      (a.vraw v l))
  sub : ∀ p, p ∈ b.pend → p ∈ a.pend
  kept : ∀ p v l, p ∈ a.pend → l < 32 → p.key = vkey v l →
    (if l ∈ L ∧ excTraps g.fmode (laneExc E f l) = false then spanWord is64 d 0 ((List.range E).map (f l)) v else none) = none →
    p ∈ b.pend
  flags : ∀ i, b.fmode.getLsbD i = true ↔ a.fmode.getLsbD i = true
    ∨ (11 ≤ i ∧ i < 16 ∧ ∃ l, l ∈ L ∧ excTraps g.fmode (laneExc E f l) = false ∧ (laneExc E f l).getLsbD (i - 11) = true)
  active : ∀ l, l < 32 → (b.clause.active.getLsbD l = true ↔
    a.clause.active.getLsbD l = true ∧ ¬ (l ∈ L ∧ excTraps g.fmode (laneExc E f l) = true))
  events : b.clause.events = a.clause.events
    ++ (L.filter fun l => excTraps g.fmode (laneExc E f l)).map fun l =>
        { lane := l, what := .trap .floating (excInfo (laneExc E f l)) 0, escalates := (a.lane l).trap, word := a.clause.idx,
          rword := a.clause.idx, sword := a.clause.idx + a.clause.len }
  clauseFrame : { b.clause with active := a.clause.active, events := a.clause.events } = a.clause
  frame : { b with vregs := a.vregs, pend := a.pend, fmode := a.fmode, clause := a.clause } = a

theorem getLsbD_mergeFlags (m : Word) (e : Num.Exc) (i : Nat) :
    (mergeFlags m e).getLsbD i = true ↔ m.getLsbD i = true ∨ (11 ≤ i ∧ i < 16 ∧ e.getLsbD (i - 11) = true) := by
  unfold mergeFlags
  rw [BitVec.getLsbD_or, Bool.or_eq_true]
  refine or_congr Iff.rfl ?_
  rw [BitVec.getLsbD_shiftLeft]
  have hz : (e.zeroExtend 32).getLsbD (i - 11) = (decide (i - 11 < 32) && e.getLsbD (i - 11)) := by
    simp [BitVec.zeroExtend]
  rw [hz]
  by_cases h1 : 11 ≤ i
  · by_cases h2 : i < 16
    · simp [h1, h2, show i < 32 by omega, show ¬ i < 11 by omega, show i - 11 < 32 by omega]
    · have : e.getLsbD (i - 11) = false := BitVec.getLsbD_of_ge _ _ (by omega)
      simp [h2, this]
  · simp [h1, show i < 11 by omega]

theorem laneCommit_done (x : Ctx) (g a : Group) (is64 : Bool) (d E : Nat) (f : LaneFn) (l : Nat) (hl : l < 32) :
    LanesDone g a (laneCommit x g is64 d ((List.range E).map (f l)) a l) is64 d E f [l] := by
  unfold laneCommit
  rw [laneExc_eq]
  by_cases ht : excTraps g.fmode (laneExc E f l) = true
  · simp only [if_pos ht]
    rw [raiseLane_eq a l _ hl (by simp)]
    refine ⟨?_, fun _ h => h, fun _ _ _ h _ _ _ => h, ?_, ?_, ?_, rfl, rfl⟩
    · intro v m _
      by_cases hm : m = l
      · subst hm; simp [ht]; rfl
      · simp [hm]; rfl
    · intro i
      constructor
      · exact Or.inl
      · rintro (h | ⟨-, -, m, hm, he, -⟩)
        · exact h
        · simp only [List.mem_singleton] at hm
          subst hm
          rw [ht] at he; cases he
    · intro m hm
      simp only [BitVec.getLsbD_and, BitVec.getLsbD_not, getLsbD_laneBit l m hl, hm, List.mem_singleton, Bool.and_eq_true,
        decide_true, Bool.true_and, Bool.not_eq_true', decide_eq_false_iff_not]
      by_cases e : m = l
      · subst e; simp [ht]
      · simp [e]
    · simp [ht]
  · have hf : excTraps g.fmode (laneExc E f l) = false := by simpa using ht
    simp only [if_neg ht]
    have hw := Wrote.span x.tick is64 d l hl ((List.range E).map (f l)) 0 a
    generalize ((List.range E).map (f l)).zipIdx.foldl (fun (a : Group) r => a.setVelem x.tick is64 d r.2 l r.1.1) a = w at hw
    have hfr := hw.frame
    have hc : w.clause = a.clause := (congrArg Group.clause hfr :)
    have hm : w.fmode = a.fmode := (congrArg Group.fmode hfr :)
    refine ⟨?_, hw.sub, ?_, ?_, ?_, ?_, ?_, ?_⟩
    · intro v m hm
      have := hw.reg v m hm
      by_cases e : m = l
      · subst e; simpa [hf, Group.vraw] using this
      · simpa [e, Group.vraw] using this
    · intro p v m hp hm hk hn
      refine hw.kept p v m hp hm hk ?_
      by_cases e : m = l
      · subst e; simpa [hf] using hn
      · simp [e]
    · intro i
      simp only [List.mem_singleton, exists_eq_left, hf, true_and]
      rw [getLsbD_mergeFlags, hm]
    · intro m _
      rw [hc]
      by_cases e : m = l
      · subst e; simp [hf]
      · simp [e]
    · simp [hc, hf]
    · rw [hc]
    · rw [hc]
      rw [← hfr]

theorem LanesDone.trans {g a b c : Group} {is64 : Bool} {d E : Nat} {f : LaneFn} {L M : List Nat}
    (hd : ∀ l, l ∈ L → l ∉ M) (h1 : LanesDone g a b is64 d E f L) (h2 : LanesDone g b c is64 d E f M) :
    LanesDone g a c is64 d E f (L ++ M) := by
  have hfr := h1.frame
  have hcf := h1.clauseFrame
  have hlane : ∀ l, b.lane l = a.lane l := fun l => by
    have : b.lanes = a.lanes := (congrArg Group.lanes hfr :)
    simp [Group.lane, this]
  have hidx : b.clause.idx = a.clause.idx := (congrArg Clause.idx hcf :)
  have hlen : b.clause.len = a.clause.len := (congrArg Clause.len hcf :)
  refine ⟨?_, fun p h => h1.sub p (h2.sub p h), ?_, ?_, ?_, ?_, ?_, ?_⟩
  · intro v l hl
    rw [h2.regs v l hl, h1.regs v l hl]
    by_cases hM : l ∈ M
    · have hL : l ∉ L := fun h => hd l h hM
      simp [hM, hL]
    · simp [hM]
  · intro p v l hp hl hk hn
    refine h2.kept p v l (h1.kept p v l hp hl hk ?_) hl hk ?_
    · by_cases hL : l ∈ L
      · simpa [hL] using hn
      · simp [hL]
    · by_cases hM : l ∈ M
      · simpa [hM] using hn
      · simp [hM]
  · intro i
    rw [h2.flags i, h1.flags i]
    constructor
    · rintro ((h | ⟨p, q, l, hl, r⟩) | ⟨p, q, l, hl, r⟩)
      · exact .inl h
      · exact .inr ⟨p, q, l, List.mem_append_left _ hl, r⟩
      · exact .inr ⟨p, q, l, List.mem_append_right _ hl, r⟩
    · rintro (h | ⟨p, q, l, hl, r⟩)
      · exact .inl (.inl h)
      · rcases List.mem_append.mp hl with hl | hl
        · exact .inl (.inr ⟨p, q, l, hl, r⟩)
        · exact .inr ⟨p, q, l, hl, r⟩
  · intro l hl
    rw [h2.active l hl, h1.active l hl, List.mem_append]
    tauto
  · rw [h2.events, h1.events, List.filter_append, List.map_append, List.append_assoc]
    simp only [hlane, hidx, hlen]
  · have := h2.clauseFrame
    rw [← hcf, ← this]
  · have := h2.frame
    rw [← hfr, ← this]

theorem LanesDone.nil (g a : Group) (is64 : Bool) (d E : Nat) (f : LaneFn) : LanesDone g a a is64 d E f [] :=
  ⟨by simp, fun _ h => h, fun _ _ _ h _ _ _ => h, by simp, by simp, by simp, rfl, rfl⟩

theorem lanes_done (x : Ctx) (g : Group) (is64 : Bool) (d E : Nat) (f : LaneFn) (L : List Nat) (hL : ∀ l, l ∈ L → l < 32)
    (hn : L.Nodup) (a : Group) :
    LanesDone g a (L.foldl (fun acc l => laneCommit x g is64 d ((List.range E).map (f l)) acc l) a) is64 d E f L := by
  induction L generalizing a with
  | nil => exact LanesDone.nil g a is64 d E f
  | cons l rest ih =>
    simp only [List.foldl_cons]
    have h1 := laneCommit_done x g a is64 d E f l (hL l (List.mem_cons_self ..))
    have hn' := List.nodup_cons.mp hn
    have h2 := ih (fun m hm => hL m (List.mem_cons_of_mem _ hm)) hn'.2
      (laneCommit x g is64 d ((List.range E).map (f l)) a l)
    have := h1.trans (fun m hm hM => by
      simp only [List.mem_singleton] at hm
      subst hm
      exact hn'.1 hM) h2
    simpa using this

/-- Zero written to a span in some lanes. -/
theorem Wrote.zeroLane (tick d l : Nat) (hl : l < 32) (n k : Nat) (g : Group) :
    Wrote g ((List.range' k n).foldl (fun a i => a.vwrite tick (d + i) l 0) g)
      (fun v m => if m = l ∧ d + k ≤ v ∧ v < d + k + n then some 0 else none) := by
  induction n generalizing k g with
  | zero =>
    refine (Wrote.refl g).congr ?_
    intro v m _
    simp only [Nat.add_zero]
    rw [if_neg (by omega)]
  | succ n ih =>
    simp only [List.range'_succ, List.foldl_cons]
    refine ((Wrote.vwrite g tick (d + k) l 0 hl).trans (ih (k + 1) _)).congr ?_
    intro v m _
    by_cases hm : m = l
    · subst hm
      simp only [true_and, and_true]
      by_cases h1 : v = d + k
      · rw [if_neg (by omega), if_pos h1, if_pos (by omega)]; rfl
      · by_cases h2 : d + k ≤ v ∧ v < d + k + (n + 1)
        · rw [if_pos (by omega), if_pos h2]; rfl
        · rw [if_neg (by omega), if_neg h1, if_neg h2]; rfl
    · simp [hm]

theorem Wrote.zeroLanes (tick d n : Nat) (L : List Nat) (hL : ∀ l, l ∈ L → l < 32) (g : Group) :
    Wrote g (L.foldl (fun acc l => (List.range n).foldl (fun a i => a.vwrite tick (d + i) l 0) acc) g)
      (fun v m => if m ∈ L ∧ d ≤ v ∧ v < d + n then some 0 else none) := by
  induction L generalizing g with
  | nil => exact (Wrote.refl g).congr (by simp)
  | cons l rest ih =>
    simp only [List.foldl_cons]
    have h1 := Wrote.zeroLane tick d l (hL l (List.mem_cons_self ..)) n 0 g
    rw [← List.range_eq_range'] at h1
    refine (h1.trans (ih (fun m hm => hL m (List.mem_cons_of_mem _ hm)) _)).congr ?_
    intro v m _
    simp only [Nat.add_zero, List.mem_cons]
    by_cases hm : m ∈ rest
    · by_cases hv : d ≤ v ∧ v < d + n
      · simp [hm, hv]
      · simp [hm, hv]
    · by_cases e : m = l
      · subst e; simp [hm]
      · simp [hm, e]

/-- A span word exists exactly for the registers of the span. -/
theorem spanWord_none (is64 : Bool) (d E : Nat) (F : Nat → Nat × Num.Exc) (v : Nat) :
    spanWord is64 d 0 ((List.range E).map F) v = none ↔ ¬ (d ≤ v ∧ v < d + spanOfElems is64 E) := by
  cases is64 with
  | false =>
    simp only [spanWord, spanOfElems, Bool.false_eq_true, if_false, Nat.add_zero, Nat.sub_zero]
    by_cases h : v < d
    · rw [if_pos h]; simp; omega
    · rw [if_neg h]; simp; omega
  | true =>
    simp only [spanWord, spanOfElems, if_true, Nat.mul_zero, Nat.add_zero, Nat.sub_zero]
    by_cases h : v < d
    · rw [if_pos h]; simp; omega
    · rw [if_neg h]; simp; omega

/-- The shared execution of a vector instruction does what `VectorEffect` says. -/
theorem vectorRun_effect (x : Ctx) (ctl : VectorCtl) (E : Nat) (is64 : Bool) (d : Nat) (f : LaneFn) (g : Group) :
    VectorEffect g (vectorRun x ctl E is64 d f g) ctl is64 d E f := by
  have hspan : (if is64 then 2 * E else E) = spanOfElems is64 E := by cases is64 <;> rfl
  unfold vectorRun Group.zeroSpan
  rw [hspan]
  have h1 := lanes_done x g is64 d E f (lanesOf (g.computing ctl)) (fun l hl => ((mem_lanesOf _ _).mp hl).1)
    ((lanesOf_sorted _).imp (fun h => Nat.ne_of_lt h)) g
  generalize (lanesOf (g.computing ctl)).foldl (fun acc l => laneCommit x g is64 d ((List.range E).map (f l)) acc l) g = b at h1
  have h2 := Wrote.zeroLanes x.tick d (spanOfElems is64 E) (lanesOf (g.zeroing ctl)) (fun l hl => ((mem_lanesOf _ _).mp hl).1) b
  generalize (lanesOf (g.zeroing ctl)).foldl
    (fun acc l => (List.range (spanOfElems is64 E)).foldl (fun a i => a.vwrite x.tick (d + i) l 0) acc) b = e at h2
  have hdisj : ∀ l, (g.computing ctl).getLsbD l = true → (g.zeroing ctl).getLsbD l = false := by
    intro l h
    simp only [Group.computing, BitVec.getLsbD_and, Bool.and_eq_true] at h
    unfold Group.zeroing
    split
    · simp [h.2]
    · simp
  have hc : e.clause = b.clause := (congrArg Group.clause h2.frame :)
  have hm : e.fmode = b.fmode := (congrArg Group.fmode h2.frame :)
  have hno : ∀ l, excTraps g.fmode (laneExc E f l) = false ↔ (trapEnables g.fmode &&& laneExc E f l) = 0#5 := by
    intro l; simp [excTraps]
  have hyes : ∀ l, excTraps g.fmode (laneExc E f l) = true ↔ (trapEnables g.fmode &&& laneExc E f l) ≠ 0#5 := by
    intro l; simp [excTraps]
  have hcomp : ∀ l, l < 32 → ((l ∈ lanesOf (g.computing ctl) ∧ excTraps g.fmode (laneExc E f l) = false) ↔ completes g ctl E f l) := by
    intro l hl
    rw [mem_lanesOf, hno, completes, computes]
    simp [hl]
  have hreg : ∀ v l, l < 32 → e.vraw v l =
      if (g.zeroing ctl).getLsbD l = true ∧ d ≤ v ∧ v < d + spanOfElems is64 E then 0 else
        ((if l ∈ lanesOf (g.computing ctl) ∧ excTraps g.fmode (laneExc E f l) = false then
            spanWord is64 d 0 ((List.range E).map (f l)) v else none).getD (g.vraw v l)) := by
    intro v l hl
    rw [h2.reg v l hl, h1.regs v l hl]
    simp only [mem_lanesOf, hl, true_and]
    by_cases hz : (g.zeroing ctl).getLsbD l = true ∧ d ≤ v ∧ v < d + spanOfElems is64 E
    · rw [if_pos hz, if_pos hz]; rfl
    · rw [if_neg hz, if_neg hz]; rfl
  have hval : ∀ v l, l < 32 → completes g ctl E f l → e.vraw v l = (spanWord is64 d 0 ((List.range E).map (f l)) v).getD (g.vraw v l) := by
    intro v l hl hcl
    rw [hreg v l hl, if_neg, if_pos ((hcomp l hl).mpr hcl)]
    intro hz
    have := hdisj l hcl.1
    rw [hz.1] at this; cases this
  refine ⟨?_, ?_, ?_, ?_, ?_, ?_, ?_, ?_, ?_, ?_⟩
  · intro l hl hcl i hi
    cases is64 with
    | false =>
      simp only [elemRaw, Bool.false_eq_true, if_false]
      rw [hval _ l hl hcl]
      simp [spanWord, hi]
    | true =>
      simp only [elemRaw, if_true]
      rw [hval _ l hl hcl, hval _ l hl hcl]
      have e1 : (d + 2 * i - d) / 2 = i := by omega
      have e2 : (d + 2 * i + 1 - d) / 2 = i := by omega
      have e3 : (d + 2 * i - d) % 2 = 0 := by omega
      have e4 : (d + 2 * i + 1 - d) % 2 = 1 := by omega
      simp only [spanWord, if_true, Nat.mul_zero, Nat.add_zero, Nat.sub_zero, e1, e2, e3, e4, if_neg (show ¬ d + 2 * i < d by omega),
        if_neg (show ¬ d + 2 * i + 1 < d by omega)]
      simp [hi]
      omega
  · intro l hl hz i hi
    rw [hreg _ l hl, if_pos ⟨hz, by omega, by omega⟩]
    rfl
  · intro v l hl hnw
    rw [hreg v l hl]
    by_cases hz : (g.zeroing ctl).getLsbD l = true ∧ d ≤ v ∧ v < d + spanOfElems is64 E
    · exact absurd ⟨hz.2.1, hz.2.2, Or.inr hz.1⟩ hnw
    · rw [if_neg hz]
      by_cases hcl : l ∈ lanesOf (g.computing ctl) ∧ excTraps g.fmode (laneExc E f l) = false
      · rw [if_pos hcl, (spanWord_none is64 d E (f l) v).mpr]
        · rfl
        · intro hr
          exact hnw ⟨hr.1, hr.2, Or.inl ((hcomp l hl).mp hcl)⟩
      · rw [if_neg hcl]; rfl
  · intro i
    rw [hm, h1.flags i]
    refine or_congr Iff.rfl (and_congr Iff.rfl (and_congr Iff.rfl ?_))
    constructor
    · rintro ⟨l, hl, hx, hb⟩
      have h32 := ((mem_lanesOf _ _).mp hl).1
      exact ⟨l, h32, (hcomp l h32).mp ⟨hl, hx⟩, hb⟩
    · rintro ⟨l, h32, hcl, hb⟩
      have := (hcomp l h32).mpr hcl
      exact ⟨l, this.1, this.2, hb⟩
  · intro l hl
    rw [hc, h1.active l hl, hyes, mem_lanesOf, fpTraps, computes]
    simp [hl]
  · refine ⟨(lanesOf (g.computing ctl)).filter fun l => excTraps g.fmode (laneExc E f l), (lanesOf_sorted _).filter _, ?_, ?_⟩
    · intro l
      rw [List.mem_filter, mem_lanesOf, hyes, fpTraps, computes]
      tauto
    · rw [hc, h1.events]; rfl
  · rw [hc]; exact h1.clauseFrame
  · intro p hp
    exact h1.sub p (h2.sub p hp)
  · intro p v l hp hl hk hnw
    refine h2.kept p v l (h1.kept p v l hp hl hk ?_) hl hk ?_
    · by_cases hcl : l ∈ lanesOf (g.computing ctl) ∧ excTraps g.fmode (laneExc E f l) = false
      · rw [if_pos hcl]
        refine (spanWord_none is64 d E (f l) v).mpr fun hr => hnw ⟨hr.1, hr.2, Or.inl ((hcomp l hl).mp hcl)⟩
      · rw [if_neg hcl]
    · rw [if_neg]
      rintro ⟨hz, h3, h4⟩
      exact hnw ⟨h3, h4, Or.inr ((mem_lanesOf _ _).mp hz).2⟩
  · have h3 := h1.frame
    have h4 := h2.frame
    rw [hc] at *
    rw [← h3, ← h4]

end Sys2Proof.Laws
end

