-- ==== Sys2Proof/Laws/Group.lean ====
section
/-! SUPPORT. Laws of an instruction that acts inside one group: what the shared operations of the scalar class, of masks and of traps do. -/

namespace Sys2Proof.Laws

open Sys2Proof Sys2Proof.Machine Sys2Proof.Claim

/-- An operation inside the executing group ends in the state with that group replaced. -/
theorem onGroup_runs {s : State} {c k : Nat} {g : Group} (h : Runs s c k g) (f : Ctx → Group → Group) :
    onGroup s f = .next (s.setGroup c k (f (s.ctx c k) g)) := by
  unfold onGroup
  rw [h.1]
  simp only [h.2]

/-- An operation of the executing group on the state. -/
theorem asGroup_runs {s : State} {c k : Nat} {g : Group} (h : Runs s c k g) (f : Nat → Nat → Group → State) :
    asGroup s f = .next (f c k g) := by
  unfold asGroup
  rw [h.1]
  simp only [h.2]

theorem ctx_tick (s : State) (c k : Nat) : (s.ctx c k).tick = s.tick := by
  unfold State.ctx
  split <;> rfl

/-- An instruction whose meaning is an operation inside the group does what that operation does. -/
theorem inGroup_of {s : State} {c k : Nat} {g : Group} {i : Instr} {P : Group → Prop} (h : Runs s c k g) (f : Ctx → Group → Group)
    (he : exec i s = onGroup s f) (hp : P (f (s.ctx c k) g)) : InGroup s c k i P :=
  ⟨_, he.trans (onGroup_runs h f), hp⟩

/-- A scalar result. -/
theorem setSval_wrote (g : Group) (wide : Bool) (d : BitVec 6) (v : Nat) : ScalarWrote g (g.setSval wide d.toNat v) wide d v := by
  cases wide with
  | false =>
    refine ⟨?_, fun h => absurd h (by decide), ?_, rfl⟩
    · simp [Group.setSval, Group.setSreg, Group.sreg]
    · intro r h1 _
      simp [Group.setSval, Group.setSreg, Group.sreg, Tab.get_put_ne _ _ _ _ _ h1]
  | true =>
    refine ⟨?_, fun _ => ?_, ?_, rfl⟩
    · simp only [Group.setSval, if_true, Group.setSreg, Group.sreg]
      rw [Tab.get_put_ne _ _ _ _ _ (by omega)]
      simp
    · simp [Group.setSval, Group.setSreg, Group.sreg]
    · intro r h1 h2
      have h3 : r ≠ d.toNat + 1 := fun e => h2 ⟨rfl, e⟩
      simp only [Group.setSval, if_true, Group.setSreg, Group.sreg]
      rw [Tab.get_put_ne _ _ _ _ _ h3, Tab.get_put_ne _ _ _ _ _ h1]

/-- A scalar operand fits its width. -/
theorem sval_lt (g : Group) (wide : Bool) (r : Nat) : g.sval wide r < 2 ^ widthOf wide := by
  cases wide <;> simp only [Group.sval, widthOf, if_true, Bool.false_eq_true, if_false] <;> exact BitVec.isLt _

/-- The second source of a scalar instruction fits its width. -/
theorem scalarSrc_lt (g : Group) (wide : Bool) (x : ScalarSrc) (b : Nat) (h : g.scalarSrc wide x = some b) : b < 2 ^ widthOf wide := by
  cases x with
  | reg r => simp only [Group.scalarSrc, Option.some.injEq] at h; subst h; exact sval_lt g wide _
  | imm i =>
    simp only [Group.scalarSrc, Option.some.injEq] at h
    subst h
    unfold Num.wrap
    exact (Int.toNat_lt (Int.emod_nonneg _ (by positivity))).mpr (by
      have := Int.emod_lt_of_pos i.toInt (show (0 : Int) < 2 ^ widthOf wide by positivity)
      push_cast; exact this)
  | lit i =>
    simp only [Group.scalarSrc, Group.literal] at h
    split at h
    · cases h
    · next lo _ =>
      have h1 := lo.isLt
      cases wide with
      | false =>
        simp only [Bool.false_eq_true, if_false, Option.some.injEq] at h
        subst h; exact h1
      | true =>
        simp only [if_true] at h
        split at h
        · cases h
        · next hi _ =>
          have h2 := hi.isLt
          simp only [Option.some.injEq] at h
          subst h
          simp only [widthOf, if_true]
          omega

end Sys2Proof.Laws
end

