-- ==== Sys2Proof/Tests/Slice0.lean ====
section
/-! SUPPORT. Tests of the decoder, the well-formedness checks and single steps on the words and the worked examples of the spec, and for
each statement a state and operands that meet its hypotheses. -/

open Sys2Proof Sys2Proof.Machine Sys2Proof.Claim

namespace Sys2Proof.Tests

-- The theorems are elaborated one after another: side by side, each waiting one would hold a thread with a large stack.
set_option Elab.async false

/-- The words of this layout, by opcode. -/
theorem test_words_scalarBinary : ((([(0x00, .sadd), (0x01, .ssub), (0x02, .smul), (0x03, .smulhiI), (0x04, .smulhiN), (0x05, .sand), (0x06, .sor), (0x07, .sxor), (0x09, .sshl), (0x0A, .sshrN), (0x0B, .sshrI), (0x0C, .sminI), (0x0D, .sminN), (0x0E, .smaxI), (0x0F, .smaxN), (0x10, .sbfxN), (0x11, .sbfxI), (0x12, .sbfi), (0x19, .slea)]) : List (Nat × (ScalarBinary → Instr))).all fun x =>
    decide (decode .scalar [mkWord (x.1 * 2 ^ 26 + 0b1_000100_000010_01_11111111111)] = .ok (x.2 { wide := true, d := 4, a := 2, b := .imm (-1) }, 1))) = true := by decide +kernel

/-- The words of this layout, by opcode. -/
theorem test_words_scalarUnary : ((([(0x08, .snot), (0x13, .spopc), (0x14, .sclz), (0x15, .sffs)]) : List (Nat × (ScalarUnary → Instr))).all fun x =>
    decide (decode .scalar [mkWord (x.1 * 2 ^ 26 + 0b1_000100_000010_00_00000000000)] = .ok (x.2 { wide := true, d := 4, a := 2 }, 1))) = true := by decide +kernel

/-- A word of this layout, by opcode. -/
theorem test_words_scalarMove : ((([(0x16, .smov)]) : List (Nat × (ScalarMove → Instr))).all fun x =>
    decide (decode .scalar [mkWord (x.1 * 2 ^ 26 + 0b0_000101_000000_10_00000000011)] = .ok (x.2 { wide := false, d := 5, b := .lit 3 }, 1))) = true := by decide +kernel

/-- The words of this layout, by opcode. -/
theorem test_words_scalarCompare : ((([(0x17, .scmpI), (0x18, .scmpN)]) : List (Nat × (ScalarCompare → Instr))).all fun x =>
    decide (decode .scalar [mkWord (x.1 * 2 ^ 26 + 0b0_011_101_000011_00_00011100000)] = .ok (x.2 { wide := false, cond := .le, bit := 5, a := 3, b := .reg 7 }, 1))) = true := by decide +kernel

/-- A word of this layout, by opcode. -/
theorem test_words_scalarFromLane : ((([(0x1A, .sfromv)]) : List (Nat × (ScalarFromLane → Instr))).all fun x =>
    decide (decode .scalar [mkWord (x.1 * 2 ^ 26 + 0b1_000110_0000100_11111_0000000)] = .ok (x.2 { wide := true, d := 6, v := 4, lane := 31 }, 1))) = true := by decide +kernel

/-- A word of this layout, by opcode. -/
theorem test_words_scalarFromMask : ((([(0x1B, .sfromk)]) : List (Nat × (ScalarFromMask → Instr))).all fun x =>
    decide (decode .scalar [mkWord (x.1 * 2 ^ 26 + 0b0_000111_000011_00_00000000000)] = .ok (x.2 { d := 7, k := 3 }, 1))) = true := by decide +kernel

/-- A word of this layout, by opcode. -/
theorem test_words_scalarToMask : ((([(0x1C, .stok)]) : List (Nat × (ScalarToMask → Instr))).all fun x =>
    decide (decode .scalar [mkWord (x.1 * 2 ^ 26 + 0b0_000101_000000_01_00000000010)] = .ok (x.2 { k := 5, b := .imm 2 }, 1))) = true := by decide +kernel

/-- The words of this layout, by opcode. -/
theorem test_words_vectorBinary : ((([(0x00, .faddF32), (0x01, .faddBf16), (0x02, .faddF16), (0x03, .fsubF32), (0x04, .fsubBf16), (0x05, .fsubF16), (0x06, .fmulF32), (0x07, .fmulBf16), (0x08, .fmulF16), (0x0C, .fminF32), (0x0D, .fminBf16), (0x0E, .fminF16), (0x0F, .fmaxF32), (0x10, .fmaxBf16), (0x11, .fmaxF16), (0x12, .fdiv), (0x21, .iaddB32), (0x22, .iaddB64), (0x23, .isubB32), (0x24, .isubB64)] ++ [(0x25, .imulB32), (0x26, .imulhiI32), (0x27, .imulhiN32), (0x29, .iaddsI32), (0x2A, .iaddsN32), (0x2B, .isubsI32), (0x2C, .isubsN32), (0x2D, .iminI32), (0x2E, .iminN32), (0x2F, .imaxI32), (0x30, .imaxN32), (0x31, .andB32), (0x32, .orB32), (0x33, .xorB32), (0x35, .shlB32), (0x36, .shrN32), (0x37, .shrI32)]) : List (Nat × (VectorBinary → Instr))).all fun x =>
    decide (decode .vector [mkWord (x.1 * 2 ^ 25 + 0b01_0001000_0000100_0000010_01)] = .ok (x.2 { ctl := { mask := 0, zero := false, rnd := none }, wid := 1, d := 8, a := 4, b := .vec 2 .rev }, 1))) = true := by decide +kernel

/-- The words of this layout, by opcode. -/
theorem test_words_vectorTernary : ((([(0x09, .ffmaF32), (0x0A, .ffmaBf16), (0x0B, .ffmaF16), (0x28, .imadB32)]) : List (Nat × (VectorTernary → Instr))).all fun x =>
    decide (decode .vector [mkWord (x.1 * 2 ^ 25 + 0b01_0001000_0000100_0000010_01)] = .ok (x.2 { ctl := { mask := 0, zero := false, rnd := none }, wid := 1, d := 8, a := 4, b := .vec 2 .rev, c := 8 }, 1))) = true := by decide +kernel

/-- The words of this layout, by opcode. -/
theorem test_words_vectorUnary : ((([(0x13, .frcp), (0x14, .frsq), (0x15, .fsqrt), (0x16, .fexp2), (0x17, .flog2), (0x18, .fsin), (0x19, .fcos), (0x1D, .fclassF32), (0x1E, .fclassBf16), (0x1F, .fclassF16), (0x34, .notB32), (0x3C, .popcB32), (0x3D, .clzB32), (0x3E, .brevB32)]) : List (Nat × (VectorUnary → Instr))).all fun x =>
    decide (decode .vector [mkWord (x.1 * 2 ^ 25 + 0b01_0001000_0000100_0000000_00)] = .ok (x.2 { ctl := { mask := 0, zero := false, rnd := none }, wid := 1, d := 8, a := 4 }, 1))) = true := by decide +kernel

/-- The words of this layout, by opcode. -/
theorem test_words_vectorFCompare : ((([(0x1A, .fcmpF32), (0x1B, .fcmpBf16), (0x1C, .fcmpF16)]) : List (Nat × (VectorFCompare → Instr))).all fun x =>
    decide (decode .vector [mkWord (x.1 * 2 ^ 25 + 0b00_0110_101_0000100_0000010_00)] = .ok (x.2 { ctl := { mask := 0, zero := false, rnd := none }, cond := .uo, m := 5, a := 4, b := .vec 2 .none }, 1))) = true := by decide +kernel

/-- A word of this layout, by opcode. -/
theorem test_words_vectorConvert : ((([(0x20, .cvt)]) : List (Nat × (VectorConvert → Instr))).all fun x =>
    decide (decode .vector [mkWord (x.1 * 2 ^ 25 + 0b01_0001000_0000100_0110_0001_0)] = .ok (x.2 { ctl := { mask := 0, zero := false, rnd := none }, wid := 1, d := 8, a := 4, dt := .i8, st := .bf16 }, 1))) = true := by decide +kernel

/-- The words of this layout, by opcode. -/
theorem test_words_vectorICompare : ((([(0x38, .icmpI32), (0x39, .icmpN32), (0x3A, .icmpI64), (0x3B, .icmpN64)]) : List (Nat × (VectorICompare → Instr))).all fun x =>
    decide (decode .vector [mkWord (x.1 * 2 ^ 25 + 0b00_0101_101_0000100_0000010_00)] = .ok (x.2 { ctl := { mask := 0, zero := false, rnd := none }, cond := .ge, m := 5, a := 4, b := .vec 2 .none }, 1))) = true := by decide +kernel

/-- A word of this layout, by opcode. -/
theorem test_words_vectorMove : ((([(0x3F, .movB32)]) : List (Nat × (VectorMove → Instr))).all fun x =>
    decide (decode .vector [mkWord (x.1 * 2 ^ 25 + 0b10_0001000_0000000_0000100_11)] = .ok (x.2 { ctl := { mask := 0, zero := false, rnd := none }, wid := 2, d := 8, b := .vec 4 .swap }, 1))) = true := by decide +kernel

/-- A word of this layout, by opcode. -/
theorem test_words_vectorShuffle : ((([(0x40, .shflB32)]) : List (Nat × (VectorShuffle → Instr))).all fun x =>
    decide (decode .vector [mkWord (x.1 * 2 ^ 25 + 0b00_0001001_0000101_0000011_00)] = .ok (x.2 { ctl := { mask := 0, zero := false, rnd := none }, d := 9, a := 5, b := .vec 3 .none }, 1))) = true := by decide +kernel

/-- The words of this layout, by opcode. -/
theorem test_words_vectorVote : ((([(0x41, .vany), (0x42, .vall)]) : List (Nat × (VectorVote → Instr))).all fun x =>
    decide (decode .vector [mkWord (x.1 * 2 ^ 25 + 0b00_0000110_0000011_0000000_00)] = .ok (x.2 { ctl := { mask := 0, zero := false, rnd := none }, m := 6, k := 3 }, 1))) = true := by decide +kernel

/-- The words of this layout, by opcode. -/
theorem test_words_vectorCross : ((([(0x43, .ballotB32), (0x44, .redaddI32), (0x45, .redaddF32), (0x46, .redminI32), (0x47, .redminN32), (0x48, .redminF32), (0x49, .redmaxI32), (0x4A, .redmaxN32), (0x4B, .redmaxF32), (0x4C, .redandB32), (0x4D, .redorB32), (0x4E, .redxorB32), (0x4F, .scanaddI32), (0x50, .scanaddF32), (0x51, .xscanaddI32), (0x52, .xscanaddF32), (0x53, .scanmaxF32), (0x54, .scanminF32)]) : List (Nat × (VectorCross → Instr))).all fun x =>
    decide (decode .vector [mkWord (x.1 * 2 ^ 25 + 0b00_0001001_0000101_0000000_00)] = .ok (x.2 { ctl := { mask := 0, zero := false, rnd := none }, d := 9, a := 5 }, 1))) = true := by decide +kernel

/-- A word of this layout, by opcode. -/
theorem test_words_vectorSystem : ((([(0x55, .vsysrd)]) : List (Nat × (VectorSystem → Instr))).all fun x =>
    decide (decode .vector [mkWord (x.1 * 2 ^ 25 + 0b01_0001000_0000000_1000001_00)] = .ok (x.2 { ctl := { mask := 0, zero := false, rnd := none }, d := 8, num := 0x41 }, 1))) = true := by decide +kernel

/-- A word of this layout, by opcode. -/
theorem test_words_stationaryLoad : ((([(0x00, .mld)]) : List (Nat × (StationaryLoad → Instr))).all fun x =>
    decide (decode .matrix [mkWord (x.1 * 2 ^ 26 + 0b000000_101_001_000110_00000011)] = .ok (x.2 { p := 5, f := .e5m2, s := 6, x := 3 }, 1))) = true := by decide +kernel

/-- The words of this layout, by opcode. -/
theorem test_words_matrixMultiply : ((([(0x01, .mma), (0x02, .mmar)]) : List (Nat × (MatrixMultiply → Instr))).all fun x =>
    decide (decode .matrix [mkWord (x.1 * 2 ^ 26 + 0b000111_101_010_000110_00000000)] = .ok (x.2 { t := 7, p := 5, f := .bf16, s := 6 }, 1))) = true := by decide +kernel

/-- A word of this layout, by opcode. -/
theorem test_words_matrixDrain : ((([(0x04, .mdrain)]) : List (Nat × (MatrixDrain → Instr))).all fun x =>
    decide (decode .matrix [mkWord (x.1 * 2 ^ 26 + 0b000111_000_011_000110_00000000)] = .ok (x.2 { t := 7, f := .f16, s := 6 }, 1))) = true := by decide +kernel

/-- The words of this layout, by opcode. -/
theorem test_words_matrixRow : ((([(0x05, .mrowrd), (0x06, .mrowwr)]) : List (Nat × (MatrixRow → Instr))).all fun x =>
    decide (decode .matrix [mkWord (x.1 * 2 ^ 26 + 0b000111_0010000_10_0101_0000000)] = .ok (x.2 { t := 7, v := 16, q := 2, cb := 5 }, 1))) = true := by decide +kernel

/-- The words of this layout, by opcode. -/
theorem test_words_copyOp : ((([(0x00, .cpyin1), (0x01, .cpyin2), (0x02, .cpyin3), (0x03, .cpyout1), (0x04, .cpyout2), (0x05, .cpyout3), (0x06, .cpyg), (0x07, .cpys)]) : List (Nat × (CopyOp → Instr))).all fun x =>
    decide (decode .copy [mkWord (x.1 * 2 ^ 25 + 0b000010_000100_001000_0000_011)] = .ok (x.2 { d := 2, s := 4, g := 8, q := .bf16 }, 1))) = true := by decide +kernel

/-- A word of this layout, by opcode. -/
theorem test_words_ringPush : ((([(0x08, .rpush)]) : List (Nat × (RingPush → Instr))).all fun x =>
    decide (decode .copy [mkWord (x.1 * 2 ^ 25 + 0b000000_000100_001000_0101_000)] = .ok (x.2 { s := 4, g := 8, n := 5, q := .none }, 1))) = true := by decide +kernel

/-- The words of this layout, by opcode. -/
theorem test_words_ringSlotD : ((([(0x09, .rresv), (0x0B, .rpop)]) : List (Nat × (RingSlot → Instr))).all fun x =>
    decide (decode .copy [mkWord (x.1 * 2 ^ 25 + 0b000010_000000_000000_0101_000)] = .ok (x.2 { r := 2, n := 5 }, 1))) = true := by decide +kernel

/-- The words of this layout, by opcode. -/
theorem test_words_ringSlotS : ((([(0x0A, .rdone), (0x0C, .rrel)]) : List (Nat × (RingSlot → Instr))).all fun x =>
    decide (decode .copy [mkWord (x.1 * 2 ^ 25 + 0b000000_000100_000000_0101_000)] = .ok (x.2 { r := 4, n := 5 }, 1))) = true := by decide +kernel

/-- The words of this layout, by opcode. -/
theorem test_words_fabricOp : ((([(0x0D, .mcast), (0x10, .put), (0x11, .putsig), (0x12, .get), (0x13, .raddF32), (0x14, .rmaxF32), (0x15, .rsmx)]) : List (Nat × (FabricOp → Instr))).all fun x =>
    decide (decode .copy [mkWord (x.1 * 2 ^ 25 + 0b000010_000100_001000_0000000)] = .ok (x.2 { d := 2, s := 4, g := 8 }, 1))) = true := by decide +kernel

/-- The words of this layout, by opcode, with the least span. -/
theorem test_words_globalLoad : ((([(0x00, 0, .ldgB8), (0x01, 0, .ldgI8), (0x02, 0, .ldgB16), (0x03, 0, .ldgI16), (0x04, 0, .ldgB32), (0x05, 1, .ldgB64)]) : List (Nat × Nat × (GlobalLoad → Instr))).all fun x =>
    decide (decode .memory [mkWord (x.1 * 2 ^ 25 + x.2.1 * 2 ^ 23 + 0b0001000_000110_0000011_10_1), 0b11111111111111111100_010_100_0_1_00_0_0#32]
      = .ok (x.2.2 { wid := BitVec.ofNat 2 x.2.1, data := 8, addr := { base := 6, idx := some { v := 3, scale := 2 }, off := -4 }, ord := .acq, scope := .dev, rp := false, ef := true }, 2))) = true := by decide +kernel

/-- The words of this layout, by opcode, with the least span. -/
theorem test_words_globalStore : ((([(0x06, 0, .stgB8), (0x07, 0, .stgB16), (0x08, 0, .stgB32), (0x09, 1, .stgB64)]) : List (Nat × Nat × (GlobalStore → Instr))).all fun x =>
    decide (decode .memory [mkWord (x.1 * 2 ^ 25 + x.2.1 * 2 ^ 23 + 0b0001000_000110_0000011_10_1), 0b11111111111111111100_011_100_0_1_00_0_0#32]
      = .ok (x.2.2 { wid := BitVec.ofNat 2 x.2.1, data := 8, addr := { base := 6, idx := some { v := 3, scale := 2 }, off := -4 }, ord := .rel, scope := .dev, ef := true }, 2))) = true := by decide +kernel

/-- The words of this layout, by opcode, with the least span. -/
theorem test_words_scratchAccess : ((([(0x0A, 0, .ldsB8), (0x0B, 0, .ldsI8), (0x0C, 0, .ldsB16), (0x0D, 0, .ldsI16), (0x0E, 0, .ldsB32), (0x0F, 1, .ldsB64), (0x10, 0, .stsB8), (0x11, 0, .stsB16), (0x12, 0, .stsB32), (0x13, 1, .stsB64)]) : List (Nat × Nat × (ScratchAccess → Instr))).all fun x =>
    decide (decode .memory [mkWord (x.1 * 2 ^ 25 + x.2.1 * 2 ^ 23 + 0b0001000_000110_0000011_10_1), 0b11111111111111111100_000_000_0_0_00_0_0#32]
      = .ok (x.2.2 { wid := BitVec.ofNat 2 x.2.1, data := 8, addr := { base := 6, idx := some { v := 3, scale := 2 }, off := -4 }, ord := .weak, scope := .grp }, 2))) = true := by decide +kernel

/-- The words of this layout, by opcode, with the least span. -/
theorem test_words_transposeLoad : ((([(0x14, 0, .ldtB8), (0x15, 0, .ldtB16), (0x16, 1, .ldtB32)]) : List (Nat × Nat × (TransposeLoad → Instr))).all fun x =>
    decide (decode .memory [mkWord (x.1 * 2 ^ 25 + x.2.1 * 2 ^ 23 + 0b0001000_000110_0000000_00_0), 0b11111111111111111100_000_000_0_0_00_0_0#32]
      = .ok (x.2.2 { wid := BitVec.ofNat 2 x.2.1, data := 8, base := 6, off := -4 }, 2))) = true := by decide +kernel

/-- The words of this layout, by opcode, with the least span. -/
theorem test_words_snapshotLoad : ((([(0x17, 0, .ldzB32), (0x18, 1, .ldzB64)]) : List (Nat × Nat × (SnapshotLoad → Instr))).all fun x =>
    decide (decode .memory [mkWord (x.1 * 2 ^ 25 + x.2.1 * 2 ^ 23 + 0b0001000_000110_0000011_10_1), 0b11111111111111111100_000_000_0_0_10_0_0#32]
      = .ok (x.2.2 { wid := BitVec.ofNat 2 x.2.1, data := 8, addr := { base := 6, idx := some { v := 3, scale := 2 }, off := -4 }, key := 2 }, 2))) = true := by decide +kernel

/-- The words of this layout, by opcode, with the least span. -/
theorem test_words_atomicAccess : ((([(0x20, 0, .atomAddB32), (0x21, 0, .atomMinI32), (0x22, 0, .atomMinN32), (0x23, 0, .atomMaxI32), (0x24, 0, .atomMaxN32), (0x25, 0, .atomAndB32), (0x26, 0, .atomOrB32), (0x27, 0, .atomXorB32), (0x28, 0, .atomExchB32), (0x29, 0, .atomCasB32), (0x2A, 0, .atomFaddF32), (0x2B, 0, .atomIncwN32), (0x2C, 0, .atomBfaddN32), (0x30, 1, .atomAddB64), (0x31, 1, .atomMinI64), (0x32, 1, .atomMinN64), (0x33, 1, .atomMaxI64), (0x34, 1, .atomMaxN64), (0x35, 1, .atomAndB64), (0x36, 1, .atomOrB64)] ++ [(0x37, 1, .atomXorB64), (0x38, 1, .atomExchB64), (0x39, 1, .atomCasB64), (0x3B, 1, .atomIncwN64), (0x3C, 1, .atomBfaddN64)]) : List (Nat × Nat × (AtomicAccess → Instr))).all fun x =>
    decide (decode .memory [mkWord (x.1 * 2 ^ 25 + x.2.1 * 2 ^ 23 + 0b0001000_000110_0000011_10_1), 0b11111111111111111100_100_100_1_0_00_1_0#32]
      = .ok (x.2.2 { wid := BitVec.ofNat 2 x.2.1, data := 8, addr := { base := 6, idx := some { v := 3, scale := 2 }, off := -4 }, ord := .ar, scope := .dev, rp := true, nr := true }, 2))) = true := by decide +kernel

/-- The words of this layout, by opcode, with the least span. -/
theorem test_words_laneWait : ((([(0x40, 0, .wardw), (0x4A, 1, .harr), (0x4B, 1, .hwait)]) : List (Nat × Nat × (LaneWait → Instr))).all fun x =>
    decide (decode .memory [mkWord (x.1 * 2 ^ 25 + x.2.1 * 2 ^ 23 + 0b0001000_000110_0000011_10_1), 0b11111111111111111100_000_000_0_0_00_0_0#32]
      = .ok (x.2.2 { wid := BitVec.ofNat 2 x.2.1, data := 8, addr := { base := 6, idx := some { v := 3, scale := 2 }, off := -4 } }, 2))) = true := by decide +kernel

/-- The words of single layouts, written out. -/
theorem test_words_system : ([(.scalar, 0b011101_0_000111_000000_00000010_00000, .ssysrd { wide := false, r := 7, num := 2 }),
      (.scalar, 0b011110_0_000111_000000_00000010_00000, .ssyswr { wide := false, r := 7, num := 2 })] : List (EngineClass × Nat × Instr)).all (fun x =>
    decide (decode x.1 [mkWord x.2.1] = .ok (x.2.2, 1))) = true := by decide +kernel

/-- The words of single layouts, written out. -/
theorem test_words_control : ([(.control, 0b000000_000000_11111111111111111111, .bra (-1)),
      (.control, 0b000001_001101_00000000000000000011, .brc true 5 3),
      (.control, 0b000010_000101_00000000000000000011, .brd false 5 3),
      (.control, 0b000011_000111_00000000000000000000, .brx 7),
      (.control, 0b000100_000111_00000000000000000011, .call 7 3),
      (.control, 0b000101_000111_00000000000000000000, .ret 7),
      (.control, 0b000110_000011_00000000000000000000, .join 3),
      (.control, 0b000111_000011_00000000000000000000, .jwait 3),
      (.control, 0b001000_000000_00000000000000000000, .exit),
      (.control, 0b001001_000000_00000000000000000000, .yield),
      (.control, 0b001010_000000_00000000000000000000, .serb),
      (.control, 0b001011_000000_00000000000000000000, .sere),
      (.control, 0b001100_000101_00000000000000000000, .bar 5),
      (.control, 0b001101_000000_0000_1000000000000001, .trap 0x8001),
      (.control, 0b001110_000000_0000_1000000000000001, .brk 0x8001),
      (.control, 0b001111_000000_00000000_111_001_010_011, .cwait 7 1 2 3),
      (.control, 0b010000_000110_00000000000000000000, .launch 6),
      (.control, 0b010001_000000_00000000000000000000, .halt),
      (.control, 0b010010_000000_00000000000000000000, .nop)] : List (EngineClass × Nat × Instr)).all (fun x =>
    decide (decode x.1 [mkWord x.2.1] = .ok (x.2.2, 1))) = true := by decide +kernel

/-- The words of single layouts, written out. -/
theorem test_words_matrix_copy : ([(.matrix, 0b000011_000111_00000000000000000000, .mzero 7),
      (.copy, 0b0010110_000110_0000000000000000000, .winq 6),
      (.copy, 0b0010111_0000000000000000000000000, .jfence)] : List (EngineClass × Nat × Instr)).all (fun x =>
    decide (decode x.1 [mkWord x.2.1] = .ok (x.2.2, 1))) = true := by decide +kernel

/-- The memory words of single layouts, written out. -/
theorem test_words_memory : ([(0b1000001_00_0000000_000000_0000000_00_0, 0b00000000000000000000_010_100_0_0_00_0_0, .fence { ord := .acq, scope := .dev }),
      (0b1000010_00_0000101_000110_0000000_00_1, 0b00000000000000000000_000_000_0_0_10_0_0, .snapo { key := 2, status := 5, expl := some 6 }),
      (0b1000011_00_0000000_000000_0000000_00_0, 0b00000000000000000000_000_000_0_0_11_0_0, .snapc { key := 3 }),
      (0b1000100_00_0000000_000000_0000000_00_0, 0b00000000000000000000_000_000_0_0_01_0_0, .txb { key := 1 }),
      (0b1000101_00_0000000_000000_0000000_00_0, 0b0, .txc),
      (0b1000110_00_0000000_000000_0000000_00_0, 0b0, .txa),
      (0b1000111_00_0000100_000110_0000000_00_0, 0b00000000000000000011_000_000_0_0_00_0_0, .keep { base := 6, d := 4, ways := 3 }),
      (0b1001000_00_0000100_000000_0000000_00_0, 0b0, .unkeep { d := 4 }),
      (0b1001001_00_0000000_000110_0000011_10_1, 0b11111111111111111100_000_000_0_1_00_0_0, .pf { addr := { base := 6, idx := some { v := 3, scale := 2 }, off := -4 }, ef := true })] : List (Nat × Nat × Instr)).all (fun x =>
    decide (decode .memory [mkWord x.1, mkWord x.2.1] = .ok (x.2.2, 2))) = true := by decide +kernel

/-- The words that the spec writes out beside its examples (spec/09 to spec/14, spec/18 to spec/20). -/
theorem test_worked_words_1 : ([(.memory, [0x0802101D#32, 0x00010000#32], .ldgB32 { wid := 0, data := 2, addr := { base := 4, idx := some { v := 3, scale := 2 }, off := 16 }, ord := .weak, scope := .grp, rp := false, ef := false }),
      (.vector, [0xFE003800#32, 0x12040418#32], .ffmaF32 { ctl := { mask := 0, zero := false, rnd := none }, wid := 0, d := 4, a := 2, b := .vec 6 .none, c := 7 }),
      (.vector, [0x00080827#32], .faddF32 { ctl := { mask := 0, zero := false, rnd := none }, wid := 0, d := 8, a := 4, b := .vec 9 .swap }),
      (.scalar, [0x0020B000#32], .sadd { wide := false, d := 4, a := 5, b := .lit 0 }),
      (.control, [0x20000000#32], .exit),
      (.scalar, [0x58100803#32], .smov { wide := false, d := 2, b := .imm 3 }),
      (.scalar, [0x70081000#32], .stok { k := 1, b := .lit 0 }),
      (.control, [0x18100000#32], .join 1),
      (.control, [0x08100007#32], .brd false 1 7),
      (.scalar, [0x00186801#32], .sadd { wide := false, d := 3, a := 3, b := .imm 1 }),
      (.control, [0x00000004#32], .bra 4),
      (.control, [0x1C100000#32], .jwait 1),
      (.scalar, [0x04104801#32], .ssub { wide := false, d := 2, a := 2, b := .imm 1 }),
      (.scalar, [0x5D004800#32], .scmpI { wide := false, cond := .gt, bit := 0, a := 2, b := .imm 0 }),
      (.control, [0x040FFFF2#32], .brc false 0 (-14)),
      (.vector, [0x34120A18#32], .fcmpF32 { ctl := { mask := 0, zero := false, rnd := none }, cond := .lt, m := 2, a := 5, b := .vec 6 .none }),
      (.vector, [0x40030820#32], .cvt { ctl := { mask := 0, zero := false, rnd := none }, wid := 0, d := 3, a := 4, dt := .bf16, st := .f32 })] : List (EngineClass × List Word × Instr)).all (fun x =>
    decide (decode x.1 x.2.1 = .ok (x.2.2, x.2.1.length))) = true := by decide +kernel

theorem test_worked_words_2 : ([(.vector, [0xAA940100#32], .vsysrd { ctl := { mask := 0, zero := false, rnd := none }, d := 20, num := 0x40 }),
      (.vector, [0x8A0A0400#32], .redaddF32 { ctl := { mask := 0, zero := false, rnd := none }, d := 10, a := 2 }),
      (.vector, [0xA00B0400#32], .scanaddF32 { ctl := { mask := 0, zero := false, rnd := none }, d := 11, a := 2 }),
      (.vector, [0xA40C0400#32], .xscanaddF32 { ctl := { mask := 0, zero := false, rnd := none }, d := 12, a := 2 }),
      (.memory, [0x5808101D#32, 0#32], .atomBfaddN32 { wid := 0, data := 8, addr := { base := 4, idx := some { v := 3, scale := 2 }, off := 0 }, ord := .weak, scope := .grp, rp := false, nr := false }),
      (.memory, [0x82000000#32, 0x00000900#32], .fence { ord := .ar, scope := .dev }),
      (.matrix, [0x00020B00#32], .mld { p := 1, f := .e4m3, s := 11, x := 0 }),
      (.matrix, [0x04320A00#32], .mma { t := 3, p := 1, f := .e4m3, s := 10 }),
      (.matrix, [0x10308600#32], .mdrain { t := 3, f := .bf16, s := 6 }),
      (.matrix, [0x14310900#32], .mrowrd { t := 3, v := 8, q := 1, cb := 2 }),
      (.copy, [0x02408603#32], .cpyin2 { d := 8, s := 4, g := 12, q := .bf16 }),
      (.copy, [0x16A00010#32], .rpop { r := 20, n := 2 }),
      (.copy, [0x10008300#32], .rpush { s := 4, g := 6, n := 0, q := .none }),
      (.copy, [0x12700008#32], .rresv { r := 14, n := 1 }),
      (.copy, [0x1401C008#32], .rdone { r := 14, n := 1 }),
      (.copy, [0x18014000#32], .rrel { r := 10, n := 0 }),
      (.copy, [0x06B2AC00#32], .cpyout1 { d := 22, s := 21, g := 24, q := .none })] : List (EngineClass × List Word × Instr)).all (fun x =>
    decide (decode x.1 x.2.1 = .ok (x.2.2, x.2.1.length))) = true := by decide +kernel

theorem test_worked_words_3 : ([(.copy, [0x20408600#32], .put { d := 8, s := 4, g := 12 }),
      (.copy, [0x22408600#32], .putsig { d := 8, s := 4, g := 12 }),
      (.copy, [0x24210600#32], .get { d := 4, s := 8, g := 12 }),
      (.copy, [0x26408600#32], .raddF32 { d := 8, s := 4, g := 12 }),
      (.copy, [0x28408600#32], .rmaxF32 { d := 8, s := 4, g := 12 }),
      (.copy, [0x2A408600#32], .rsmx { d := 8, s := 4, g := 12 }),
      (.copy, [0x2CA00000#32], .winq 20),
      (.copy, [0x2E000000#32], .jfence),
      (.control, [0x3C000FF8#32], .cwait 7 7 7 0),
      (.memory, [0x18025461#32, 0#32], .ldsB16 { wid := 0, data := 2, addr := { base := 21, idx := some { v := 12, scale := 0 }, off := 0 }, ord := .weak, scope := .grp }),
      (.memory, [0x8E0E4000#32, 0x00002000#32], .keep { base := 16, d := 14, ways := 2 }),
      (.memory, [0x04821855#32, 0x00000010#32], .ldgB16 { wid := 1, data := 2, addr := { base := 6, idx := some { v := 10, scale := 2 }, off := 0 }, ord := .weak, scope := .grp, rp := false, ef := true }),
      (.memory, [0x08042061#32, 0x00000300#32], .ldgB32 { wid := 0, data := 4, addr := { base := 8, idx := some { v := 12, scale := 0 }, off := 0 }, ord := .rlx, scope := .dev, rp := false, ef := false }),
      (.memory, [0x900F0000#32, 0#32], .unkeep { d := 15 }),
      (.memory, [0x969C2800#32, 0#32], .hwait { wid := 1, data := 28, addr := { base := 10, idx := none, off := 0 } }),
      (.memory, [0x949A3000#32, 0#32], .harr { wid := 1, data := 26, addr := { base := 12, idx := none, off := 0 } })] : List (EngineClass × List Word × Instr)).all (fun x =>
    decide (decode x.1 x.2.1 = .ok (x.2.2, x.2.1.length))) = true := by decide +kernel

/-- The hinge words that the spec writes out, with their fields (R370, R371). -/
theorem test_worked_hinge : ([(0x4C804000#32, .hingeFadd, { a := 2, b := 0, c := 1, imm := 0 }),
      (0x51094001#32, .hingeCmpr, { a := 4, b := 2, c := 5, imm := 1 }),
      (0x0D803FFB#32, .hingeLoop, { a := 6, b := 0, c := 0, imm := 0x3FFB }),
      (0x40240000#32, .hingeBld, { a := 0, b := 9, c := 0, imm := 0 }),
      (0x6EC00000#32, .hingeCsa, { a := 11, b := 0, c := 0, imm := 0 }),
      (0x71400000#32, .hingeCsc, { a := 5, b := 0, c := 0, imm := 0 }),
      (0x74400000#32, .hingeCsg, { a := 1, b := 0, c := 0, imm := 0 }),
      (0x78000000#32, .hingeCsr, { a := 0, b := 0, c := 0, imm := 0 }),
      (0x36628001#32, .hingePutsig, { a := 9, b := 8, c := 10, imm := 1 }),
      (0x2B580000#32, .hingeAwait, { a := 13, b := 6, c := 0, imm := 0 }),
      (0x7C000000#32, .hingeCkpt, { a := 0, b := 0, c := 0, imm := 0 }),
      (0x11C00000#32, .hingeMovi, { a := 7, b := 0, c := 0, imm := 0 }),
      (0x48500000#32, .hingeDec, { a := 1, b := 4, c := 0, imm := 0 }),
      (0x25700003#32, .hingeLd, { a := 5, b := 12, c := 0, imm := 3 }),
      (0x19D00028#32, .hingeAddi, { a := 7, b := 4, c := 0, imm := 40 })] : List (Word × Instr × HingeFields)).all (fun x =>
    decide (decode .hinge [x.1] = .ok (x.2.1, 1) ∧ hingeFieldsOf x.1 = x.2.2)) = true := by decide +kernel

/-- Every hinge opcode, with the immediate that the opcode needs. -/
theorem test_words_hinge : ([(0x00, 0, .hingeStop), (0x01, 0, .hingeBr), (0x02, 0, .hingeBnz), (0x03, 0, .hingeLoop), (0x04, 0, .hingeMovi), (0x05, 0, .hingeAdd), (0x06, 0, .hingeAddi), (0x07, 0, .hingeMuli), (0x08, 0, .hingeShli), (0x09, 0, .hingeLd), (0x0A, 0, .hingeAwait), (0x0B, 3, .hingeArrive)] ++ [(0x0C, 0, .hingePut), (0x0D, 3, .hingePutsig), (0x0E, 0, .hingeGet), (0x0F, 0, .hingeRadd), (0x10, 0, .hingeBld), (0x10, 1, .hingeBldW), (0x11, 0, .hingeBst), (0x11, 1, .hingeBstW), (0x12, 0, .hingeDec), (0x13, 0, .hingeFadd), (0x14, 0, .hingeCmpr), (0x15, 0, .hingeLen)] ++ [(0x16, 0, .hingeEmax), (0x17, 0, .hingeImax), (0x18, 0, .hingeAlign), (0x19, 0, .hingeIadd), (0x1A, 0, .hingeCvtb), (0x1B, 0, .hingeCsa), (0x1C, 0, .hingeCsc), (0x1D, 0, .hingeCsg), (0x1E, 0, .hingeCsr), (0x1F, 0, .hingeCkpt), (0x20, 0, .hingeSel), (0x21, 0, .hingeNop)] : List (Nat × Nat × Instr)).all (fun x =>
    decide (decode .hinge [mkWord (x.1 * 2 ^ 26 + x.2.1)] = .ok (x.2.2, 1))) = true := by decide +kernel

/-! ## Well-formedness: for each condition an instruction that breaks it, refused by its name -/

/-- No prefix. -/
def plain : VectorCtl := { mask := 0, zero := false, rnd := none }

/-- The address of an even pair with an index. -/
def addr0 : MemAddr := { base := 6, idx := some { v := 3, scale := 2 }, off := -4 }

/-- The same with an odd base. -/
def addr1 : MemAddr := { addr0 with base := 7 }

/-- Scalar: odd pairs, `k0`, and system registers that do not exist, are read-only or have another width (R240, R248, R268, R269). -/
theorem test_illformed_scalar : ([
    (.sadd { wide := true, d := 5, a := 2, b := .imm 0 }, .oddPair), (.sadd { wide := true, d := 4, a := 2, b := .reg 3 }, .oddPair),
    (.snot { wide := true, d := 4, a := 3 }, .oddPair), (.smov { wide := true, d := 5, b := .imm 0 }, .oddPair),
    (.scmpI { wide := true, cond := .eq, bit := 0, a := 3, b := .imm 0 }, .oddPair),
    (.sfromv { wide := true, d := 4, v := 5, lane := 0 }, .oddPair), (.stok { k := 0, b := .imm 0 }, .maskZero),
    (.ssysrd { wide := false, r := 4, num := 7 }, .unassigned), (.ssysrd { wide := true, r := 4, num := 2 }, .badWidth),
    (.ssysrd { wide := true, r := 5, num := 0x10 }, .oddPair), (.ssyswr { wide := false, r := 4, num := 3 }, .unassigned),
    (.ssyswr { wide := true, r := 4, num := 2 }, .badWidth)] : List (Instr × IllForm)).all
      (fun x => decide (x.1.check = some x.2)) = true := by decide +kernel

/-- Vector: rounding overrides, spans, widths, `k0`, the types of `cvt` and the numbers of `vsysrd` (R235, R237, R253, R289, R295). -/
theorem test_illformed_vector : ([
    (.frcp { ctl := { plain with rnd := some .up }, wid := 0, d := 0, a := 0 }, .badRounding),
    (.frcp { ctl := plain, wid := 1, d := 1, a := 0 }, .misalignedSpan),
    (.fdiv { ctl := { plain with rnd := some .up }, wid := 0, d := 0, a := 0, b := .lit 0 }, .badRounding),
    (.iaddB64 { ctl := plain, wid := 0, d := 0, a := 0, b := .lit 0 }, .badWidth),
    (.iaddB64 { ctl := plain, wid := 1, d := 0, a := 0, b := .scalar 3 }, .misalignedSpan),
    (.imadB32 { ctl := { plain with rnd := some .up }, wid := 0, d := 0, a := 0, b := .lit 0, c := 0 }, .badRounding),
    (.imadB32 { ctl := plain, wid := 2, d := 0, a := 0, b := .lit 0, c := 2 }, .misalignedSpan),
    (.fcmpF32 { ctl := plain, cond := .uo, m := 0, a := 0, b := .lit 0 }, .maskZero),
    (.icmpI32 { ctl := plain, cond := .eq, m := 0, a := 0, b := .lit 0 }, .maskZero),
    (.icmpI64 { ctl := plain, cond := .eq, m := 1, a := 1, b := .lit 0 }, .misalignedSpan),
    (.cvt { ctl := plain, wid := 0, d := 0, a := 0, dt := .f32, st := .f32 }, .badFormat),
    (.cvt { ctl := plain, wid := 0, d := 0, a := 0, dt := .e8m0, st := .f32 }, .badFormat),
    (.cvt { ctl := plain, wid := 0, d := 0, a := 0, dt := .f16, st := .e8m0 }, .badFormat),
    (.cvt { ctl := plain, wid := 0, d := 0, a := 0, dt := .i64, st := .f32 }, .badWidth),
    (.cvt { ctl := plain, wid := 1, d := 1, a := 0, dt := .i64, st := .f32 }, .misalignedSpan),
    (.movB32 { ctl := { plain with rnd := some .ne }, wid := 0, d := 0, b := .lit 0 }, .badRounding),
    (.movB32 { ctl := plain, wid := 1, d := 0, b := .vec 3 .none }, .misalignedSpan),
    (.shflB32 { ctl := { plain with rnd := some .ne }, d := 0, a := 0, b := .lit 0 }, .badRounding),
    (.vany { ctl := plain, m := 0, k := 1 }, .maskZero),
    (.redaddI32 { ctl := { plain with rnd := some .ne }, d := 0, a := 0 }, .badRounding),
    (.vsysrd { ctl := plain, d := 1, num := 0x40 }, .oddPair), (.vsysrd { ctl := plain, d := 0, num := 0x42 }, .unassigned)]
      : List (Instr × IllForm)).all (fun x => decide (x.1.check = some x.2)) = true := by decide +kernel

/-- Memory: sizes, spans, orderings and scopes, and odd bases (R105, R116, R243, R309 to R327). -/
theorem test_illformed_memory : ([
    (.ldgB64 { wid := 0, data := 8, addr := addr0, ord := .weak, scope := .grp, rp := false, ef := false }, .badWidth),
    (.ldgB64 { wid := 3, data := 8, addr := addr0, ord := .weak, scope := .grp, rp := false, ef := false }, .badWidth),
    (.ldgB32 { wid := 1, data := 9, addr := addr0, ord := .weak, scope := .grp, rp := false, ef := false }, .misalignedSpan),
    (.ldgB32 { wid := 0, data := 8, addr := addr0, ord := .weak, scope := .dev, rp := false, ef := false }, .badOrdering),
    (.ldgB32 { wid := 0, data := 8, addr := addr0, ord := .rel, scope := .dev, rp := false, ef := false }, .badOrdering),
    (.ldgB32 { wid := 0, data := 8, addr := addr0, ord := .acq, scope := .die, rp := true, ef := false }, .badOrdering),
    (.ldgB32 { wid := 0, data := 8, addr := addr0, ord := .acq, scope := .job, rp := false, ef := false }, .badOrdering),
    (.ldgB32 { wid := 0, data := 8, addr := addr1, ord := .weak, scope := .grp, rp := false, ef := false }, .oddPair),
    (.stgB32 { wid := 0, data := 8, addr := addr0, ord := .acq, scope := .dev, ef := false }, .badOrdering),
    (.stsB32 { wid := 0, data := 8, addr := addr0, ord := .acq, scope := .gang }, .badOrdering),
    (.ldsB32 { wid := 3, data := 8, addr := addr0, ord := .weak, scope := .grp }, .badWidth),
    (.ldtB32 { wid := 0, data := 8, base := 6, off := 0 }, .badWidth), (.ldtB8 { wid := 0, data := 8, base := 7, off := 0 }, .oddPair),
    (.ldzB64 { wid := 0, data := 8, addr := addr0, key := 0 }, .badWidth), (.ldzB32 { wid := 0, data := 8, addr := addr1, key := 0 }, .oddPair),
    (.atomAddB32 { wid := 1, data := 8, addr := addr0, ord := .weak, scope := .grp, rp := false, nr := false }, .badWidth),
    (.atomCasB64 { wid := 1, data := 9, addr := addr0, ord := .weak, scope := .grp, rp := false, nr := false }, .misalignedSpan),
    (.wardw { wid := 1, data := 8, addr := addr0 }, .badWidth), (.harr { wid := 0, data := 8, addr := addr0 }, .badWidth),
    (.hwait { wid := 1, data := 9, addr := addr0 }, .misalignedSpan), (.fence { ord := .rlx, scope := .dev }, .badOrdering),
    (.fence { ord := .ar, scope := .job }, .badOrdering), (.snapo { key := 0, status := 0, expl := some 7 }, .oddPair),
    (.keep { base := 7, d := 4, ways := 1 }, .oddPair), (.pf { addr := addr1, ef := false }, .oddPair)]
      : List (Instr × IllForm)).all (fun x => decide (x.1.check = some x.2)) = true := by decide +kernel

/-- Control, matrix, copy and fabric (R256, R257, R340, R344, R353), and hinge words (R370, R371). -/
theorem test_illformed_engines : ([
    (.launch 7, .oddPair), (.mld { p := 0, f := .f16, s := 0, x := 0 }, .badFormat), (.mma { t := 0, p := 0, f := .f16, s := 0 }, .badFormat),
    (.mrowrd { t := 0, v := 4, q := 0, cb := 0 }, .misalignedSpan), (.cpyin1 { d := 8, s := 5, g := 1, q := .none }, .oddPair),
    (.cpyout3 { d := 8, s := 5, g := 2, q := .none }, .misalignedSpan), (.rpush { s := 5, g := 0, n := 0, q := .none }, .oddPair),
    (.mcast { d := 8, s := 5, g := 2 }, .oddPair), (.putsig { d := 8, s := 4, g := 2 }, .misalignedSpan), (.winq 7, .oddPair)]
      : List (Instr × IllForm)).all (fun x => decide (x.1.check = some x.2)) = true := by decide +kernel

theorem test_illformed_hinge : ([
    (.hingeStop, { a := 1, b := 0, c := 0, imm := 0 }, .reservedField), (.hingeFadd, { a := 4, b := 0, c := 0, imm := 0 }, .reservedField),
    (.hingeShli, { a := 1, b := 2, c := 0, imm := 64 }, .reservedField), (.hingePutsig, { a := 9, b := 8, c := 11, imm := 1 }, .oddPair),
    (.hingeArrive, { a := 1, b := 0, c := 0, imm := 0 }, .badOperand), (.hingeSel, { a := 0, b := 0, c := 0, imm := 5 }, .badOperand),
    (.hingeBld, { a := 0, b := 9, c := 0, imm := 1 }, .badOperand), (.hingeBstW, { a := 0, b := 9, c := 0, imm := 0 }, .badOperand)]
      : List (Instr × HingeFields × IllForm)).all (fun x => decide (x.1.hingeCheck x.2.1 = some x.2.2)) = true := by decide +kernel

/-- Words that decode to nothing: an unassigned opcode, a field that must be 0, a missing second word, a second prefix, the reserved
K, S2K and ORD, and what the level table leaves out (R230, R231, R236, R240, R251). -/
theorem test_undecoded : ([
    (.scalar, [0x7C000000#32], .unassigned), (.scalar, [0x00001800#32], .unassigned), (.scalar, [0x00000001#32], .reservedField),
    (.vector, [0xAC000000#32], .unassigned), (.vector, [0xFE000000#32], .missingWord), (.vector, [0xFE000000#32, 0xFE000000#32], .doublePrefix),
    (.vector, [0xFE00000C#32, 0#32], .unassigned), (.vector, [0xFE000200#32, 1#32], .reservedField), (.memory, [0x08021000#32], .missingWord),
    (.memory, [0x08021000#32, 0xA00#32], .unassigned), (.memory, [0x74000000#32, 0#32], .unassigned), (.control, [0x4C000000#32], .unassigned),
    (.control, [0x48000001#32], .reservedField), (.matrix, [0x1C000000#32], .unassigned), (.copy, [0x1C000000#32], .unassigned),
    (.copy, [0x00000006#32], .unassigned), (.hinge, [0x88000000#32], .unassigned), (.scalar, [], .missingWord)]
      : List (EngineClass × List Word × IllForm)).all (fun x => decide (decode x.1 x.2.1 = .error x.2.2)) = true := by decide +kernel

/-! ## Witnesses: for each statement, states and operands that meet its hypotheses, clause by clause

They share one machine: device 0 of partition 0 is active and in service, its HBM window is the first GiB, one page of a GiB maps it
one to one (the tables stand at 0x1000, 0x2000 and 0x3000), core 0 holds the translation, and one group stands in slot 0 of core 0. -/

/-- The page that maps the first GiB. -/
def page0 : Page :=
  { base := 0, size := 2 ^ 30, frame := 0, ver := false, sa := false, ef := false, tier := .hbm, x := true, w := true, level := 2 }

/-- Device 0: active, its tables at 0x1000, its window of HBM. -/
def dev0 : Device := { Device.reset with state := .active, xlate := [(0, 0x1001), (0x18, 0x40000000)] }

/-- The group in slot 0 of core 0, with its lanes 0 and 1 active. -/
def g0 : Group := bareGroup 0 0 { bareClause .scalar [0#32] with active := 3 }

/-- The machine that the witnesses share. -/
def machine : State :=
  let s := State.reset.place .scalar [0#32]
  { s with agenda := [], module := { s.module with svc := 2 }, devices := [(0, dev0)],
           partitions := [(0, { Partition.reset with ctl := [(0, 1), (0x38, 0x40000000)], running := some 0 })],
           mem := [(0x1000, 1), (0x1001, 0x20), (0x2000, 1), (0x2001, 0x30), (0x3000, 3), (0x3007, 6)],
           cores := s.cores.put 0 { s.core 0 with tlb1 := [⟨0, page0⟩] } }

/-- The machine with a group in slot 0 that executes. -/
def on (g : Group) : State := { machine.setGroup 0 0 g with actor := .group 0 0 }

/-- The machine at an event of an object. -/
def at_ (s : State) (a b c : Nat) : State := { s with actor := .object a b c }

/-- The group of a step of a group is the one that was put there. -/
theorem runs_on (g : Group) : Runs (on g) 0 0 g := ⟨rfl, rfl⟩

/-- The group with some scalar registers. -/
def withRegs (rs : List (Nat × Word)) : Group := { g0 with sregs := rs }

/-! ### Scalar, vector and control instructions -/

/-- Both widths, every kind of second source, and literals within the clause and just beyond it. -/
theorem witness_ScalarResults : Runs (on g0) 0 0 g0 ∧ g0.scalarSrc true (.imm (-1)) = some (2 ^ 64 - 1)
    ∧ g0.scalarSrc true (.reg 62) = some 0 ∧ g0.scalarSrc false (.lit 14) = some 0 ∧ g0.scalarSrc true (.lit 14) = none :=
  ⟨runs_on g0, by decide +kernel⟩

theorem witness_ScalarBits : Runs (on g0) 0 0 g0 ∧ g0.scalarSrc false (.lit 0) = some 0 := ⟨runs_on g0, by decide +kernel⟩

/-- A relation that holds and one that does not, and a literal beyond the clause. -/
theorem witness_ScalarCompares : Runs (on g0) 0 0 g0 ∧ g0.scalarSrc false (.imm 1) = some 1 ∧ relation .lt 0 1 ∧ ¬ relation .gt 0 1
    ∧ g0.scalarSrc true (.lit 14) = none :=
  ⟨runs_on g0, by decide +kernel, by simp [relation], by simp [relation], by decide +kernel⟩

/-- A vector register within the budget of 128 and a pair at its end, and a group whose budget ends before the register. -/
theorem witness_ScalarSourcesAndMoves : Runs (on g0) 0 0 g0 ∧ (126#7).toNat + 2 ≤ g0.budget
    ∧ ¬ ((127#7).toNat + 1 ≤ ({ g0 with budget := 127 } : Group).budget) ∧ Runs (on { g0 with budget := 127 }) 0 0 { g0 with budget := 127 }
    ∧ g0.scalarSrc false (.lit 14) = some 0 ∧ g0.scalarSrc false (.lit 15) = none :=
  ⟨runs_on g0, by decide +kernel, by decide +kernel, runs_on _, by decide +kernel⟩

/-- Tile sizes 1 and 5 are taken, 0 and 6 are not. -/
theorem witness_SystemRegisters : Runs (on (withRegs [(0, 1), (1, 5), (2, 6)])) 0 0 (withRegs [(0, 1), (1, 5), (2, 6)])
    ∧ (let g := withRegs [(0, 1), (1, 5), (2, 6)]
       (g.sreg 0).toNat % 8 = 1 ∧ (g.sreg 1).toNat % 8 = 5 ∧ (g.sreg 2).toNat % 8 = 6 ∧ (g.sreg 3).toNat % 8 = 0) :=
  ⟨runs_on _, by decide +kernel⟩

/-- Spans that end at the budget and that go beyond it; the witness of the vector statements whose one hypothesis is who runs. -/
theorem witness_FloatArithmetic : Runs (on g0) 0 0 g0 ∧ g0.inBudget 127 1 = true ∧ g0.inBudget 120 8 = true
    ∧ ({ g0 with budget := 8 } : Group).inBudget 8 1 = false ∧ g0.srcOk false 1 (.lit 15) = false ∧ g0.srcOk false 2 (.vec 126 .rev) = true :=
  ⟨runs_on g0, by decide +kernel⟩

theorem witness_SpecialFunctions : Runs (on g0) 0 0 g0 ∧ g0.inBudget 127 1 = true := ⟨runs_on g0, by decide +kernel⟩

theorem witness_VectorIntegers : Runs (on g0) 0 0 g0 ∧ g0.inBudget 126 2 = true ∧ g0.srcOk true 2 (.scalar 62) = true :=
  ⟨runs_on g0, by decide +kernel⟩

theorem witness_VectorComparesAndClasses : Runs (on g0) 0 0 g0 ∧ (1#3 : BitVec 3) ≠ 0 ∧ g0.inBudget 126 2 = true
    ∧ g0.srcOk true 2 (.vec 126 .none) = true ∧ ({ g0 with budget := 8 } : Group).inBudget 7 2 = false := ⟨runs_on g0, by decide +kernel⟩

/-- A lane in trap mode reads a trap register; without one the register traps, and so does a pair beyond the budget. -/
theorem witness_VectorMoves :
    let g := { g0 with lanes := g0.lanes.put 1 { g0.lane 1 with trap := true } }
    Runs (on g) 0 0 g ∧ g.inBudget 126 2 = true ∧ (∃ l, l < 32 ∧ g.clause.active.getLsbD l = true ∧ (g.lane l).trap = true)
      ∧ Runs (on g0) 0 0 g0 ∧ (∀ l, l < 32 → ¬ (g0.clause.active.getLsbD l = true ∧ (g0.lane l).trap = true)) :=
  ⟨runs_on _, by decide +kernel, ⟨1, by decide +kernel⟩, runs_on g0, by decide +kernel⟩

theorem witness_VotesAndBallots : Runs (on { g0 with tsz := 5 }) 0 0 { g0 with tsz := 5 } ∧ (1#3 : BitVec 3) ≠ 0
    ∧ ({ g0 with tsz := 5 } : Group).tsz ≤ 5 ∧ g0.inBudget 0 1 = true := ⟨runs_on _, by decide +kernel⟩

theorem witness_ReductionsAndScans : Runs (on { g0 with tsz := 5 }) 0 0 { g0 with tsz := 5 } ∧ ({ g0 with tsz := 5 } : Group).tsz ≤ 5
    ∧ computes g0 plain 1 := ⟨runs_on _, by decide +kernel, by unfold computes; decide +kernel⟩

theorem witness_BranchesAndCalls : Runs (on g0) 0 0 g0 ∧ active g0 1 ∧ 2 * (63#6).toNat + 2 ≤ g0.budget
    ∧ ¬ (2 * (63#6).toNat + 2 ≤ ({ g0 with budget := 127 } : Group).budget) :=
  ⟨runs_on g0, by unfold active; decide +kernel⟩

/-- Counts that are met, with and without a remote fault, and one more operation than the count. -/
theorem witness_ControlWords :
    let busy := { g0 with copies := [⟨0, false⟩], remote := some ⟨2, 0, 0x10, 0, 1⟩ }
    Runs (on g0) 0 0 g0 ∧ Runs (on busy) 0 0 busy ∧ busy.copies.length ≤ (1#3).toNat ∧ ¬ busy.copies.length ≤ (0#3).toNat
      ∧ busy.remote ≠ none ∧ g0.clause.haltAt = none := ⟨runs_on _, runs_on _, by decide +kernel⟩

/-- The group of a clause that is over, whose lane 0 has left it with an event. -/
def trapped : Group :=
  { g0 with clause := { g0.clause with active := 2, events := [{ lane := 0, what := .trap .software 7 0, escalates := false, word := 0,
                                                                 rword := 1, sword := 1 }] } }

theorem witness_CompletionTakesTrap : trapped.clause.ending = .fall ∧ trapped.clause.haltAt = none ∧ ¬ active trapped 0
    ∧ (trapped.lane 0).trap = false ∧ (trapped.lane 0).state = .eligible
    ∧ trapped.clause.events = [{ lane := 0, what := .trap .software 7 0, escalates := false, word := 0, rword := 1, sword := 1 }] := by
  unfold active; decide +kernel

theorem witness_TrapEntry : (15 : Nat) < 16 ∧ (0 : Nat) < 16 := by decide

/-- Lanes in normal mode; a mask that the two active lanes complete, and one that also expects lane 2. -/
theorem witness_RejoinAndExit :
    let g := { g0 with normal := { g0.normal with rejoin := [(1, ⟨3, 0⟩), (2, ⟨7, 0⟩)] } }
    Runs (on g) 0 0 g ∧ (∀ l, l < 32 → (g.lane l).trap = false) ∧ (∀ l, l < 32 → g.clause.active.getLsbD l = true → (g.lane l).state ≠ .exited)
      ∧ (∀ l, l < 32 → (3#32).getLsbD l = true → g.clause.active.getLsbD l = true)
      ∧ ((7#32).getLsbD 2 = true ∧ g.clause.active.getLsbD 2 = false ∧ (g.lane 2).state ≠ .exited) :=
  ⟨runs_on _, by decide +kernel⟩

/-- A lane that falls through, one that `ret` sends on, and one in trap mode that returns; and lanes of which one issues. -/
theorem witness_NextIssue :
    let g := { g0 with lanes := g0.lanes.put 1 { g0.lane 1 with trap := true }, clause := { g0.clause with raw := [(1, 0x2002)] } }
    g.clause.ending = .fall ∧ g.clause.raw.look 0 = none ∧ g.clause.raw.look 1 = some 0x2002 ∧ (g.lane 1).trap = true
      ∧ (0x2002#64).getLsbD 1 = true ∧ (g0.lane 1).trap = false ∧ g0.resumed = false ∧ g0.issueSet = some (0, 0, BitVec.allOnes 32) := by
  decide +kernel

/-- Quotients and roots of numbers that are not 0; powers, arguments at multiples of a quarter, and a power of 512. -/
theorem witness_SpecialFunctions_arguments :
    (3 : Nat) ≠ 0 ∧ ((3 : Nat) : ℚ) * 2 ^ (0 : Int) = (3 : Nat) ∧ (3 : Nat) < 512 ∧ (512 : ℚ) ≤ ((1 : Nat) : ℚ) * 2 ^ (9 : Int)
      ∧ ((1 : Nat) : ℚ) * 2 ^ (-1 : Int) = (0 : Nat) + 1 / 2 ∧ ((1 : Nat) : ℚ) * 2 ^ (-2 : Int) = (0 : Nat) + 1 / 4
      ∧ ((3 : Nat) : ℚ) * 2 ^ (-2 : Int) = (0 : Nat) + 3 / 4 ∧ ((1 : Nat) : ℚ) * 2 ^ (-3 : Int) = 2 ^ (-3 : Int) := by
  norm_num

/-- An event of a lane at word 0. -/
def event0 (l : Nat) (w : Raise) (esc : Bool) : LaneEvent := { lane := l, what := w, escalates := esc, word := 0, rword := 0, sword := 1 }

/-- A clause that is over with events of lanes 0, 2 and 3, which it has left: one that enters the handler, a replayable one, an escalation. -/
def eventful (es : List LaneEvent) : Group := { g0 with clause := { g0.clause with idx := 1, active := 2, events := es } }

/-- Events of several lanes: those that all enter the handler, a remote one among them, and those of which one does not; an earlier `halt`
and an engine's error; a lane left in trap mode and none. -/
theorem witness_CompletionTakesTrap_events :
    let enter := event0 0 (.trap .software 7 0) false
    let remote := event0 3 (.trap .remote 0 0) false
    let replay := event0 2 (.replay .memory 0 0) false
    let esc := event0 3 (.trap .software 7 0) true
    let g := eventful [enter, replay, esc]
    g.clause.ending = .fall ∧ (g.clause.events.map (·.lane)).Nodup ∧ (∀ e ∈ g.clause.events, e.lane < 32 ∧ ¬ active g e.lane)
      ∧ g.clause.events = [enter] ++ replay :: [esc] ∧ enter.escalates = false ∧ esc.escalates = true
      ∧ ((eventful [enter, remote]).clause.events.map (·.lane)).Nodup ∧ g.clause.haltAt = none ∧ g.clause.opError = false
      ∧ ({ g with clause := { g.clause with haltAt := some 0, opError := true } } : Group).clause.haltAt = some 0
      ∧ (∀ l, l < 32 → (g.applyEnding.lane l).trap = false)
      ∧ ((({ g with lanes := g.lanes.put 4 { g.lane 4 with trap := true } } : Group).applyEnding.lane 4).trap = true) := by
  unfold active; decide +kernel

/-- A group of a clause of one word that is over and whose last word asks for something, with a serialise pass under way or none. -/
def serial (e : Ending) (ls : LaneSet) (ser : Serial) : Group :=
  { g0 with normal := { g0.normal with ser := ser }, clause := { g0.clause with idx := 1, ending := e, active := ls } }

/-- A pass that begins and one that is nested; ends by the current lane, with a next lane and with none left, and by another; a yield with
another lane ready, and with none. -/
theorem witness_RejoinAndExit_serial :
    let pass : Serial := { busy := true, p := 3, q := 3, cur := 0 }
    let none' : Serial := { busy := false, p := 0, q := 0, cur := 0 }
    let ok (g : Group) : Prop := (∃ l, active g l ∧ l < 32)
      ∧ ∀ l, l < 32 → active g l → (g.lane l).trap = g.activeTrap ∧ (g.lane l).state ≠ .exited
    ok (serial .serb 3 none') ∧ ok (serial .sere 1 pass) ∧ ok (serial .sere 2 { pass with q := 2, cur := 1 }) ∧ ok (serial .yield 3 none')
      ∧ ok (serial .yield (BitVec.allOnes 32) none')
      ∧ ((serial .serb 3 none').bank false).ser.busy = false ∧ ((serial .serb 3 pass).bank false).ser.busy = true
      ∧ (∀ l, l < 32 → (active (serial .sere 1 pass) l ↔ l = pass.cur)) ∧ ¬ (∀ l, l < 32 → (active (serial .sere 2 pass) l ↔ l = pass.cur))
      ∧ pass.q &&& ~~~(1 : LaneSet) = 2 ∧ (∀ j, j < 1 → (2 : LaneSet).getLsbD j = false) ∧ (2 : LaneSet) &&& ~~~2 = 0
      ∧ (∃ l, l < 32 ∧ ¬ active (serial .yield 3 none') l ∧ ((serial .yield 3 none').lane l).state = .eligible)
      ∧ (∀ l, l < 32 → active (serial .yield (BitVec.allOnes 32) none') l) ∧ (serial .yield 3 none').clause.events = [] := by
  unfold active
  and_intros <;> first
    | decide +kernel
    | exact ⟨0, by decide +kernel⟩
    | exact ⟨1, by decide +kernel⟩

/-- System registers that are well-formed and that are not: their numbers at the ends of each range, the widths, and an RO register written. -/
theorem witness_SystemRegisters_forms :
    let rd (wide : Bool) (n : BitVec 8) (r : BitVec 6) : Bool := (Instr.ssysrd { wide := wide, r := r, num := n }).wf
    let wr (n : BitVec 8) : Bool := (Instr.ssyswr { wide := false, r := 0, num := n }).wf
    (rd false 6 0 && rd false 8 0 && rd false 0x0B 0 && rd true 0x10 2 && rd true 0x13 4) = true
      ∧ (rd false 7 0 || rd false 0x0C 0 || rd true 0x13 5 || rd false 0x10 0 || rd true 0x14 0 || rd true 6 0) = false
      ∧ (wr 0 && wr 2) = true ∧ wr 3 = false
      ∧ (List.all [0x40, 0x41, 0x48, 0x49, 0x4A] fun n => (Instr.vsysrd { ctl := plain, d := 2, num := n }).wf) = true
      ∧ (Instr.vsysrd { ctl := plain, d := 3, num := 0x40 }).wf = false ∧ (Instr.vsysrd { ctl := plain, d := 2, num := 0x42 }).wf = false := by
  decide +kernel

/-- A number below the least normal one that is not 0, and one that is not below it; two numbers of which one is below, and zeros with both
signs. -/
theorem witness_FloatMeaning :
    Num.e5m2 ∈ formats ∧ ((1 : Nat) ≠ 0 ∧ ((1 : Nat) : ℚ) * 2 ^ (-15 : Int) < leastNormal Num.e5m2)
      ∧ ¬ (((1 : Nat) : ℚ) * 2 ^ (-14 : Int) < leastNormal Num.e5m2)
      ∧ Above (.fin false 2 0) (.fin false 1 0) ∧ Above (.fin false 1 0) (.inf true)
      ∧ (worth (.fin true 0 0) = 0 ∧ (Num.Fp.fin true 0 0).isZero = true ∧ (Num.Fp.fin true 0 0).sign = true ∧ (Num.Fp.fin false 0 0).sign = false)
      ∧ Num.decode Num.bf16 0x3F80 ≠ .nan ∧ (Num.mul (.inf false) (.fin true 0 0)).1 = .nan := by
  refine ⟨by unfold formats; simp, ?_, ?_, ?_, trivial, ?_, by decide +kernel⟩ <;>
    norm_num [leastNormal, Num.e5m2, Above, worth, Num.Fp.isZero, Num.Fp.sign]

/-- Conversions between the kinds of types; literals of one word and of two; tiles of the smallest and the greatest size. -/
theorem witness_VectorMoves_forms :
    let cvt (d s : NumType) : VectorConvert := { ctl := plain, wid := 0, d := 4, a := 8, dt := d, st := s }
    let g := { g0 with clause := { g0.clause with lits := [1, 2] } }
    (Instr.cvt (cvt .f32 .e8m0)).wf = true ∧ (Instr.cvt (cvt .bf16 .f32)).wf = true ∧ (Instr.cvt (cvt .f16 .e8m0)).wf = false
      ∧ floatType .f32 = some Num.f32 ∧ floatType .e5m2 = some Num.e5m2 ∧ integerType .i8 = some (8, true) ∧ integerType .n64 = some (64, false)
      ∧ 1 ≤ ({ g with tsz := 5 } : Group).tsz ∧ ({ g with tsz := 5 } : Group).tsz ≤ 5
      ∧ g.clause.lits[(0#4).toNat]? = some 1 ∧ g.clause.lits[(0#4).toNat + 1]? = some 2 := by decide +kernel

/-- A group that was resumed and has an entry of an eligible lane, one without such an entry, and one without an eligible lane. -/
theorem witness_NextIssue_resumed :
    let e : LaneEvent := { lane := 3, what := .replay .memory 0 0, escalates := false, word := 0, rword := 0, sword := 1 }
    let again := { g0 with resumed := true, entries := [e] }
    let parked := { g0 with lanes := (List.range 32).map fun l => (l, { g0.lane l with state := .exited }) }
    again.issueSet = some (0, 0, 8) ∧ (∃ x ∈ again.entries, x.lane = 3) ∧ (again.lane 3).state = .eligible
      ∧ ({ again with entries := [] } : Group).issueSet = some (0, 0, BitVec.allOnes 32)
      ∧ parked.issueSet = none ∧ (∀ l, l < 32 → (parked.lane l).state ≠ .eligible) := by decide +kernel

/-! ### Memory, waits, snapshots, transactions, keepers -/

/-- The piece of n bytes at an address of the first GiB. -/
def piece0 (a n : Nat) : Piece := { va := a, n := n, page := page0, addr := a, level := 7 }

/-- An address without an index in the pair s6. -/
def plainAddr : MemAddr := { base := 6, idx := none, off := 0 }

/-- A group whose pair s6 holds an address. -/
def atAddr (a : Nat) : Group := withRegs [(6, BitVec.ofNat 32 a), (7, BitVec.ofNat 32 (a / 2 ^ 32))]

/-- Both lanes reach one access of n bytes at an address of the page, for every kind of access, and no latch entry stops them. -/
theorem reaches_ok : (List.all [Access.load, .store, .atomic, .fetch, .snapshot, .commit] fun kind => List.all [4, 16] fun n =>
    (on (atAddr 0x4000)).translateGroup 0 (atAddr 0x4000) kind 0x4000 n == .ok [piece0 0x4000 n]
      && ((on (atAddr 0x4000)).core 0).latchHit none 0 0x4000 n true == none
      && ((on (atAddr 0x4000)).core 0).latchHit none 0 0x4000 n false == none) = true := by decide +kernel

/-- One page: a last byte of the page, an address that is not canonical, a page of which nothing is known, a walk's fault, a range
inside the window and one that ends beyond it, and a page without W or X. -/
theorem witness_Translation :
    (1 : Nat) ≤ 1 ∧ (0x4FFF + 1 - 1) / 4096 = 0x4FFF / 4096 ∧ canonical (2 ^ 56) = false ∧ canonical (2 ^ 56 - 1) = true
      ∧ (machine.groupLook 0 g0 0) (2 ^ 30 / 4096) = none ∧ (machine.groupLook 0 g0 0) 4 = some (.page page0, true)
      ∧ ({ g0 with walked := [(9, .fault ⟨2, 0, 0⟩)] } : Group).walked.look 9 = some (.fault ⟨2, 0, 0⟩)
      ∧ machine.window 0 .hbm = (0, 2 ^ 30) ∧ ¬ (page0.frame + (0x3FFFFFFF - page0.base) + 2 ≤ (machine.window 0 .hbm).2)
      ∧ Access.store ∈ [Access.store, .atomic, .commit] ∧ ({ page0 with w := false, x := false } : Page).w = false := by
  decide +kernel

/-- Lanes within the gang's bound, at its last byte, and just beyond it; a release with loads outstanding. -/
theorem witness_ScratchAccesses :
    let s := on (atAddr 0)
    ∃ y, Runs s 0 0 (atAddr 0) ∧ s.gang? 0 0 = some y ∧ (atAddr 0).addrOk plainAddr = true ∧ (atAddr 0).inBudget 126 2 = true
      ∧ (atAddr 0).laneAddr 0 false plainAddr 0 + 16 ≤ 148 * y.rows
      ∧ (atAddr (148 * 8192 - 4)).laneAddr 0 false plainAddr 0 + 4 = 148 * y.rows
      ∧ ¬ ((atAddr (148 * 8192 - 3)).laneAddr 0 false plainAddr 0 + 4 ≤ 148 * y.rows)
      ∧ (s.core 0).latchHit (some 0) 0 0 16 true = none
      ∧ (∀ r, r < 16 → ∀ c, c < 4 → 4 * 0 * r + 4 * c + 4 ≤ 148 * y.rows ∧ (s.core 0).latchHit (some 0) 0 (4 * 0 * r + 4 * c) 4 false = none)
      ∧ ({ g0 with loads := [⟨0, false⟩] } : Group).loads ≠ [] :=
  ⟨bareGang 0, runs_on _, by decide +kernel⟩

/-- Lanes that reach their bytes, lanes that fault, and a release with a store outstanding. -/
theorem witness_GlobalStores : Runs (on (atAddr 0x4000)) 0 0 (atAddr 0x4000) ∧ widthOk true 1 = true ∧ widthOk false 0 = true
    ∧ (atAddr 0x4000).addrOk plainAddr = true ∧ (atAddr 0x4000).laneAddr 0 true plainAddr 1 = 0x4000
    ∧ (on (atAddr 0x4000)).ownPending 0 [piece0 0x4000 16] = none ∧ (atAddr 0x4000).tx = none
    ∧ (on (atAddr (2 ^ 56))).translateGroup 0 (atAddr (2 ^ 56)) .store (2 ^ 56) 4 = .fault ⟨1, 7, 0⟩ (2 ^ 56)
    ∧ ({ g0 with stores := [⟨0, false⟩] } : Group).stores ≠ [] := ⟨runs_on _, by decide +kernel⟩

theorem witness_Atomics : Runs (on (atAddr 0x4000)) 0 0 (atAddr 0x4000) ∧ (0x4000 % 8 = 0 ∧ 0x4001 % 4 ≠ 0 ∧ 0x4004 % 8 ≠ 0)
    ∧ (atAddr 0x4000).inBudget 124 4 = true ∧ ((on (atAddr 0x4000)).core 0).queuedOn [piece0 0x4000 8] = none
    ∧ page0.tier ≠ .host ∧ (atAddr 0x4000).tx = none := ⟨runs_on _, by decide +kernel⟩

/-- Two lanes at one location. -/
theorem witness_AtomicFunctions : ∀ x ∈ [((0 : Nat), piece0 0x4000 4, (⟨0, 1, 0⟩ : AtomStep)), (1, piece0 0x4000 4, ⟨1, 2, 0⟩)],
    ¬ (x.2.1.page.tier = .host ∧ AtomFn.cas = .cas) := by decide +kernel

/-- A request of an atomic whose line is not locked and has no earlier request. -/
def atomReq : HomeReq :=
  { line := 0x80, core := 0, slot := 0, launch := 0, vd := 0, kind := .atomic 0 .add 4 .hbm false 0x4000 [⟨0, 1, 0⟩] (some 8) false false }

theorem witness_AtomicAtHome :
    let s := at_ { machine with requests := [atomReq] } 0 0 0
    s.actor = .object 0 0 0 ∧ s.requests[0]? = some atomReq ∧ Tier.hbm ≠ .host ∧ s.locked atomReq.line = false ∧ s.mem.wf = true
      ∧ (∀ j x, j < 0 → s.requests[j]? = some x → x.line ≠ atomReq.line) := by
  and_intros <;> first
    | decide +kernel
    | exact fun j _ h => absurd h (Nat.not_lt_zero j)

theorem witness_GlobalAndSnapshotLoads :
    let g := { atAddr 0x4000 with keys := [(0, 0x8000000000000000), (1, 0xC000000000000000)] }
    Runs (on g) 0 0 g ∧ g.addrOk plainAddr = true ∧ (on g).heldIn 0 [piece0 0x4000 16] [piece0 0x4000 16] = none
      ∧ (g.keys.get 0 0).getLsbD 63 = true ∧ (g.keys.get 0 0).getLsbD 62 = false ∧ (g.keys.get 1 0).getLsbD 62 = true
      ∧ (g.keys.get 2 0).getLsbD 63 = false
      ∧ (on (atAddr 0x40000000)).translateGroup 0 (atAddr 0x40000000) .load (2 ^ 56) 4 = .fault ⟨1, 7, 0⟩ (2 ^ 56) :=
  ⟨runs_on _, by decide +kernel⟩

/-- Lanes at a word, with room for their wards; a misaligned address; a record of device 0 in each of the cases of an arrival. -/
theorem witness_WaitsOnRecords :
    let s := on (atAddr 0x4000)
    Runs s 0 0 (atAddr 0x4000) ∧ s.heldIn 0 [piece0 0x4000 4] [piece0 0x4000 4] = none ∧ 0x4000 % 4 = 0 ∧ 0x4002 % 4 ≠ 0
      ∧ WardRoom s
      ∧ (let h : HaspRec := { phase := 0, expected := 3, arrived := 1, owner := 2 ^ 31 }
         h.owned 0 0 = true ∧ h.owned 1 0 = false ∧ h.expected ≠ 0 ∧ h.arrived + 1 < h.expected ∧ h.expected ≤ h.arrived + 2
           ∧ h.expected ≤ h.arrived + 3)
      ∧ (atAddr 0x4000).loads = [] ∧ (atAddr 0x4000).stores = [] :=
  ⟨runs_on _, by decide +kernel, by decide, by decide, fun _ => show ([] : List Ward).length + 32 ≤ 512 by decide, by decide +kernel, rfl, rfl⟩

/-- Keys that are too new, that wait, that are below the floor, live, too old, and that can be opened; with a full table and without. -/
theorem witness_SnapshotKeys :
    let s := machine.withPartition 0 fun p => { p with floor := some 4, snaps := [(0, ⟨10 * 2 ^ 16 + 0xFFFF, 1⟩)], ver := [(0x30, 8)] }
    let full := machine.withPartition 0 fun p => { p with snaps := (List.range 64).map fun n => (n, ⟨n, 1⟩) }
    s.openResult 0 20 22 = .refused 3 ∧ s.openResult 0 20 19 = .wait 19 ∧ s.openResult 0 20 3 = .refused 2
      ∧ s.openResult 0 20 10 = .opened 0 ∧ s.openResult 0 20 9 = .refused 2 ∧ s.openResult 0 20 18 = .opened 1
      ∧ full.openResult 0 20 18 = .refused 1
      ∧ Runs (on { g0 with keys := [(0, 0x8000000000000000)] }) 0 0 { g0 with keys := [(0, 0x8000000000000000)] } := by
  and_intros <;> decide +kernel

/-- A group without a transaction, with a clean one, a doomed one, and one with a line. -/
theorem witness_Transactions :
    let t : Tx := { key := 0, entry := 0, held := true, locked := [], doom := none, lines := [] }
    let g := { g0 with keys := [(0, 0x8000000000000000)] }
    let open' := { g with tx := some t }
    let doomed := { g with tx := some { t with doom := some 7 } }
    let line := { g with tx := some { t with lines := [(0x80, ⟨0x4000, []⟩)] } }
    Runs (on g) 0 0 g ∧ Runs (on open') 0 0 open' ∧ Runs (on doomed) 0 0 doomed ∧ Runs (on line) 0 0 line ∧ g.tx = none
      ∧ (g.keys.get 0 0).getLsbD 63 = true ∧ (g.keys.get 1 0).getLsbD 63 = false ∧ g.loads = [] ∧ g.stores = [] ∧ (7 : Nat) < 8
      ∧ (on line).translateGroup 0 line .commit 0x4000 128 = .ok [piece0 0x4000 128] := by
  and_intros <;> decide +kernel

/-- A range that can be kept, one that is empty, and quotas of none and of eight keepers. -/
theorem witness_KeepersAndFences :
    let g := withRegs [(4, 0x8000), (6, 0x4000)]
    let s := (on g).withDevice 0 fun d => { d with cache := [(0x80, 0x408)] }
    s.actor = .group 0 0 ∧ s.group? 0 0 = some g
      ∧ (let q := (s.device 0).cache.get 0x80 0
         ¬ (min 8 (q.extractLsb' 0 4).toNat ≤ ((s.die (dieOf 0)).keepers.filter fun x => x.2.en && x.2.vd == 0).length
           ∨ min 4 (q.extractLsb' 8 4).toNat < 4))
      ∧ (((on g).device 0).cache.get 0x80 0).extractLsb' 0 4 = 0#4 ∧ ((s.die 0).keepers.get 0 Keeper.free).en = false
      ∧ canonical 0x4000 = true ∧ canonical 0x8000 = true
      ∧ (let e := s.withDie 0 fun d => { d with keepers := (List.range 8).map fun i => (i, { Keeper.free with en := true, ways := [15 - i] }) }
         ∀ i, i < 8 → ((e.die 0).keepers.get i Keeper.free).en = true)
      ∧ g.loads = [] ∧ g.stores = [] ∧ ({ g with loads := [⟨0, false⟩] } : Group).loads ≠ []
      ∧ (∀ pages, (on (atAddr 0x4000)).translateGroup 0 (atAddr 0x4000) .load 0x4000 1 ≠ .miss pages) := by
  and_intros <;> first
    | decide +kernel
    | exact fun _ h => by
        rw [show (on (atAddr 0x4000)).translateGroup 0 (atAddr 0x4000) .load 0x4000 1 = .ok [piece0 0x4000 1] by decide +kernel] at h
        cases h

/-! ### Lanes that end differently, latch conflicts, transactions and their commits -/

/-- An address with the index v2. -/
def indexed : MemAddr := { base := 6, idx := some { v := 2, scale := 0 }, off := 0 }

/-- A group whose lane 0 is at an address and whose lane 1 at one that follows it; the walk of page 0x40000 ended in a fault. -/
def lanesAt (a d : Nat) : Group :=
  { atAddr a with vregs := [(vkey 2 1, BitVec.ofNat 32 d)], walked := [(0x40000, .fault ⟨2, 0, 0⟩)] }

/-- Bytes 0x4000 to 0x400F of device 0 are the destination of an operation, and bytes 16 to 31 of the scratchpad of its gang. -/
def latches0 (s : State) : State :=
  s.withCore 0 fun x => { x with latches := [(5, globalLatch 0 0x4000 0x4010 true), (6, { scratchLatch 0 16 32 true false with op := 9 })] }

/-- The active lanes of the shared group are 0 and 1. -/
theorem active_lanes : ∀ l, l < 32 → g0.clause.active.getLsbD l = true → l = 0 ∨ l = 1 := by decide +kernel

/-- How the accesses of those lanes end: at the end of the page and beyond it; and one that meets the last latched byte, and one behind it. -/
theorem witness_Ends :
    (let g := lanesAt 0x3FFFFFFC 4
     Ends (on g) 0 g .load false 4 (fun l => 0x3FFFFFFC + 4 * l) all
       (fun l => if l = 0 then .reaches [piece0 0x3FFFFFFC 4] else .faults ⟨2, 0, 0⟩ 0x40000000)
     ∧ g.laneAddr 0 true indexed 0 = 0x3FFFFFFC ∧ g.laneAddr 0 true indexed 1 = 0x40000000)
    ∧ (let g := lanesAt 0x400C 4
       Ends (latches0 (on g)) 0 g .store true 4 (fun l => 0x400C + 4 * l) all
         (fun l => if l = 0 then .latched (5, globalLatch 0 0x4000 0x4010 true) else .reaches [piece0 0x4010 4])) := by
  refine ⟨⟨fun l hl ha _ => ?_, by decide +kernel⟩, fun l hl ha _ => ?_⟩ <;> obtain rfl | rfl := active_lanes l hl ha
  · exact ⟨by decide +kernel, by decide +kernel⟩
  · exact (by decide +kernel : (on (lanesAt 0x3FFFFFFC 4)).translateGroup 0 (lanesAt 0x3FFFFFFC 4) .load 0x40000000 4 = .fault ⟨2, 0, 0⟩ 0x40000000)
  · exact ⟨⟨[piece0 0x400C 4], by decide +kernel⟩, by decide +kernel⟩
  · exact ⟨by decide +kernel, by decide +kernel⟩

/-- The same in the scratchpad; a latched block of a transposing load; the places of an operation among those of its counter. -/
theorem witness_LatchConflicts :
    let s := latches0 (on (atAddr 0))
    let e : Latch := { scratchLatch 0 16 32 true false with op := 9 }
    (s.core 0).latchHit (some 0) 0 31 1 false = some (6, e) ∧ (s.core 0).latchHit (some 0) 0 32 4 false = none
      ∧ (s.core 0).latchHit (some 0) 0 15 1 true = none ∧ (s.core 0).latchHit none 1 0x4000 4 true = none
      ∧ Rising (s.core 0).latches
      ∧ (({ g0 with copies := [⟨7, false⟩, ⟨9, false⟩, ⟨10, false⟩] } : Group).copies.map (·.op)) = [7] ++ e.op :: [10] ∧ e.op ∉ [7] := by
  unfold Rising; decide +kernel

/-- A page that nothing is known of, in a miss queue with room and in a full one; a page boundary within an access. -/
theorem witness_misses :
    let g := lanesAt 0x80000000 0
    let m : Miss := { vd := 1, page := 0, core := 1, slot := 0, walking := false }
    (on g).translateGroup 0 g .load 0x80000000 4 = .miss [0x80000]
      ∧ ((on g).die (dieOf 0)).misses.length + 64 ≤ 256
      ∧ ¬ (((on g).withDie 0 fun d => { d with misses := List.replicate 256 m }).die 0).misses.length + 64 ≤ 256
      ∧ (0x4FFE + 2) % 4096 = 0 ∧ 2 < 4 ∧ 0x4FFE + 4 ≤ 2 ^ 64
      ∧ (on g).translateGroup 0 g .load 0x4FFE 2 = .ok [piece0 0x4FFE 2] ∧ (on g).translateGroup 0 g .load 0x5000 2 = .ok [piece0 0x5000 2]
      ∧ (0x3FFFFFFE + 2) % 4096 = 0 ∧ (on g).translateGroup 0 g .load 0x40000000 2 = .fault ⟨2, 0, 0⟩ 0x40000000
      ∧ (0x7FFFFFFE + 2) % 4096 = 0 ∧ (on g).translateGroup 0 g .load 0x7FFFFFFE 2 = .miss [0x7FFFF] := by decide +kernel

/-- An atomic of slot 0 of core 0 on eight bytes at 0x4000. -/
def wideAtomic : HomeReq :=
  { line := 0x80, core := 0, slot := 0, launch := 0, vd := 0, kind := .atomic 0 .add 8 .hbm false 0x4000 [⟨0, 1, 0⟩] (some 8) false false }

/-- The line at 0x4000 is locked by a commit. -/
def lineLocked (s : State) : State :=
  { s with versions := [(0x80, { part := 0, newest := { window := 0, seq := 0, settled := false }, older := [], lock := some (1, 0) })] }

/-- A page of the host's tier without SA. -/
def hostPiece : Piece := { piece0 0x4000 4 with page := { page0 with tier := .host } }

/-- What holds an access back: a request of its own core, a queued store under an atomic, a locked line; what a release waits for; lanes
that are barred from the host's memory; and lanes behind a release fence. -/
theorem witness_heldAccesses :
    let g := atAddr 0x4000
    let busy : State := { on g with requests := [wideAtomic] }
    let e : StoreEntry := { op := 7, slot := 0, launch := 0, vd := 0, va := 0x4000, ver := false, tier := .hbm, bytes := [(0x4003, 1)], rel := false, ef := false }
    let queued := (on g).withCore 0 fun x => { x with stores := [e] }
    busy.ownPending 0 [piece0 0x4007 1] = some 0x80 ∧ busy.ownPending 0 [piece0 0x4008 8] = none
      ∧ busy.heldIn 0 [piece0 0x4000 4] [piece0 0x4000 4] = some 0x80
      ∧ (lineLocked (on g)).heldIn 0 [piece0 0x407F 1] [piece0 0x407F 1] = some 0x80
      ∧ (queued.core 0).queuedOn [piece0 0x4000 4] = some 1 ∧ (queued.core 0).queuedOn [piece0 0x4004 4] = none
      ∧ CoreQuiet (on g) 0 True ∧ CoreQuiet queued 0 False ∧ ¬ CoreQuiet queued 0 True ∧ ¬ CoreQuiet busy 0 False
      ∧ hostPiece.page.tier = .host ∧ hostPiece.page.sa = false
      ∧ ({ g with fenced := 1 } : Group).fenced.getLsbD 0 = true ∧ ({ g with fenced := 1 } : Group).fenced.getLsbD 1 = false := by
  and_intros <;> first
    | decide +kernel
    | exact fun _ h => absurd h List.not_mem_nil
    | exact fun _ => rfl
    | exact fun h => h.elim
    | exact fun h => absurd (h.2 trivial) (by decide +kernel)
    | exact fun h => h.1 wideAtomic (List.mem_singleton.2 rfl) rfl trivial

/-- A transaction of key window 0 with one buffered line. -/
def tx0 : Tx := { key := 0xFFFF, entry := 0, held := true, locked := [], doom := none, lines := [(0x80, ⟨0x4000, [(0, 5)]⟩)] }

/-- Accesses of an open transaction to a versioned page: a doomed one, one whose new line exceeds the buffer, and one that fits; the
buffered byte and the one under the start key. -/
theorem witness_openTransaction :
    let g := { atAddr 0x4000 with tx := some tx0 }
    let ver (p : Piece) : Piece := { p with page := { page0 with ver := true } }
    Rising tx0.lines ∧ tx0.doom = none ∧ ({ tx0 with doom := some 7 } : Tx).doom ≠ none
      ∧ newLines tx0.lines [0x4000, 0x4080, 0x40FF] = [0x81] ∧ 256 < 255 + (tx0.lines.length + 1) ∧ 254 + (tx0.lines.length + 1) ≤ 256
      ∧ (ver (piece0 0x4000 4)).page.ver = true ∧ g.tx = some tx0 ∧ (byteIn [ver (piece0 0x4000 4)] 0).2.page.ver = true
      ∧ (tx0.lines.look 0x80).bind (fun y => y.bytes.look 0) = some 5 ∧ (tx0.lines.look 0x80).bind (fun y => y.bytes.look 1) = none
      ∧ WardRoom (on g) := by
  and_intros <;> first
    | decide +kernel
    | (unfold Rising; decide +kernel)
    | exact fun _ => show ([] : List Ward).length + 32 ≤ 512 by decide

/-- A line in partition 0 whose newest version is of a window, with one older version. -/
def versioned (s : State) (w : Nat) (settled : Bool) (older : List Version) : State :=
  { s with versions := [(0x80, { part := 0, newest := { window := w, seq := 0, settled := settled }, older := older, lock := none })] }

/-- An older version of window 1. -/
def older1 : Version := { stamp := { window := 1, seq := 0, settled := false }, data := List.replicate 128 7, resident := true }

/-- Keys that the newest version, the older one, and no version qualifies under; a line without a version set. -/
theorem witness_VersionsUnderKeys :
    let s := versioned machine 5 false [older1]
    let q (x : Stamp) (key : Nat) : Bool := x.settled || x.window == key / 2 ^ 16 % 2 ^ 32 || winBefore x.window (key / 2 ^ 16 % 2 ^ 32)
    machine.versions.look 0x80 = none ∧ q (s.versionsOf 0 0x80).newest (5 * 2 ^ 16 + 0xFFFF) = true
      ∧ q (s.versionsOf 0 0x80).newest (4 * 2 ^ 16 + 0xFFFF) = false ∧ (s.versionsOf 0 0x80).older = [] ++ older1 :: []
      ∧ q older1.stamp (1 * 2 ^ 16 + 0xFFFF) = true ∧ q older1.stamp 0xFFFF = false := by decide +kernel

/-- Versions that are replaced: one that no key can select, one that finds a resident record, one whose line has three already, and one
for which neither area has a record. -/
theorem witness_VersionsReplaced :
    let area (s : State) (res ovf : Nat) : State := s.withPartition 0 fun p => { p with ver := [(8, BitVec.ofNat 64 res), (0x18, BitVec.ofNat 64 ovf)] }
    let cap (s : State) (o : Nat) : Nat := (((s.partition 0).ver.get o 0).extractLsb' 0 32).toNat
    let old (s : State) : Version := { stamp := (s.versionsOf 0 0x80).newest, data := (List.range 128).map fun i => s.mem.read (128 * 0x80 + i), resident := true }
    let used (s : State) (r : Bool) : Nat := (s.versions.put 0x80 { s.versionsOf 0 0x80 with newest := ⟨9, 0, false⟩, older := old s :: (s.versionsOf 0 0x80).older }).foldl
      (fun n x => if x.2.part = 0 then n + (x.2.older.filter fun v => v.resident == r).length else n) 0
    let s (n : Nat) : State := versioned machine 8 false (List.replicate n older1)
    (s 0).reclaimable 0 11 ⟨8, 0, false⟩ ⟨9, 0, false⟩ = true ∧ (s 0).reclaimable 0 10 ⟨8, 0, false⟩ ⟨9, 0, false⟩ = false
      ∧ (((s 2).versionsOf 0 0x80).older.filter (·.resident)).length < 3 ∧ used (area (s 2) 3 0) true ≤ cap (area (s 2) 3 0) 8
      ∧ ¬ ((((s 3).versionsOf 0 0x80).older.filter (·.resident)).length < 3) ∧ ¬ used (area (s 2) 2 1) true ≤ cap (area (s 2) 2 1) 8
      ∧ used (area (s 2) 2 1) false < cap (area (s 2) 2 1) 0x18 ∧ cap (area (s 2) 2 0) 0x18 ≤ used (area (s 2) 2 0) false
      ∧ ((area (s 2) 2 0).partition 0).snaps = []
      ∧ old (s 1) :: ((s 1).versionsOf 0 0x80).older = [old (s 1)] ++ older1 :: [] ∧ older1.resident = true := by decide +kernel

/-- The group of a commit that waits for the lock of its line. -/
def committing (t : Tx) : Group := { g0 with phase := .waiting, wait := some .commit, tx := some t }

/-- The machine at the home of line 0x80 with the request of its lock. -/
def locking (t : Tx) : State :=
  { at_ (machine.setGroup 0 0 (committing t)) 0 0 0 with requests := [{ line := 0x80, core := 0, slot := 0, launch := 0, vd := 0, kind := .lock }] }

/-- A doomed transaction, one whose key a newer version follows, one with a next line, and one at its last line, with the last number of a
window and without one left. -/
theorem witness_Commits :
    let s := locking tx0
    let two : Tx := { tx0 with lines := tx0.lines ++ [(0x90, ⟨0x4800, []⟩)] }
    s.actor = .object 0 0 0 ∧ (∃ r, s.requests[0]? = some r ∧ r.kind = .lock ∧ s.locked r.line = false)
      ∧ (∀ j x, j < 0 → s.requests[j]? = some x → x.line ≠ 0x80) ∧ s.group? 0 0 = some (committing tx0)
      ∧ ({ tx0 with doom := some 7 } : Tx).doom = some 7 ∧ (7 : Nat) < 8
      ∧ ((versioned s 1 false []).versionsOf 0 0x80).newest.settled = false ∧ winBefore 1 (tx0.key / 2 ^ 16 % 2 ^ 32) = false
      ∧ (s.versionsOf 0 0x80).newest.settled = true
      ∧ two.lines.map (·.1) = two.locked ++ 0x80 :: 0x90 :: [] ∧ Rising two.lines ∧ tx0.lines.map (·.1) = tx0.locked ++ [0x80]
      ∧ 0xFFFE < (({ dev0 with commitSeq := 0xFFFF } : Device)).commitSeq ∧ ({ dev0 with commitSeq := 0xFFFE } : Device).commitSeq ≤ 0xFFFE
      ∧ s.mem.wf = true ∧ (∀ x ∈ tx0.lines, Rising x.2.bytes ∧ ∀ y ∈ x.2.bytes, y.1 < 128) := by
  and_intros <;> first
    | decide +kernel
    | (unfold Rising; decide +kernel)
    | exact fun j _ h => absurd h (Nat.not_lt_zero j)

/-- The lines of a commit translated: one whose page is not known, one that faults, and lines that all have their piece. -/
theorem witness_commitLines :
    let g := { lanesAt 0x4000 0 with tx := some tx0 }
    (on g).translateGroup 0 g .commit 0x80000000 128 = .miss [0x80000] ∧ (on g).translateGroup 0 g .commit 0x40000000 128 = .fault ⟨2, 0, 0⟩ 0x40000000
      ∧ (on g).translateGroup 0 g .commit 0x4000 128 = .ok [piece0 0x4000 128] ∧ Rising tx0.lines
      ∧ (∀ x ∈ tx0.lines, (piece0 0x4000 128).addr / 128 = x.1) := by unfold Rising; decide +kernel

/-! ### Walks, locked lines, what accesses wait for -/

/-- Table entries of each kind: in the table of level 2 an entry that is not present, one with a reserved bit, a leaf whose frame is not
aligned and one that leads to tables of levels 1 and 0; there a 64 KiB page and a 4 KiB page. -/
def tables : State :=
  let entry (a v : Nat) (s : State) : State := { s with mem := s.mem.writeAll a (toBytes 8 v) }
  entry 0x3010 5 (entry 0x3018 0x1003 (entry 0x3020 0x5001 (entry 0x5000 0x6001 (entry 0x6000 0x0100000000010003 (entry 0x6080 0x7003 machine)))))

/-- The walk of an address in those tables. -/
def walked (s : State) (va : Nat) : Walk := walkFrom s 0 va (fun _ => none) 5 .hbm 0x1000

/-- A leaf, a table outside the window, and every kind of entry; a 64 KiB page by its first entry and by another of its sixteen; a poisoned
entry; a cached table; and roots with each value of their TIER. -/
theorem witness_PageWalks :
    let root (v : DWord) : State := tables.withDevice 0 fun d => { d with xlate := d.xlate.put 0 v }
    let x : NonLeaf := { vd := 0, level := 3, index := 0, tier := .hbm, table := 0x3000 }
    let near := tables.withDie 0 fun d => { d with nonleaf := [x] }
    (walked tables 0x4000).outcome = .page page0 ∧ (0x1000 : Nat) + 4096 ≤ (tables.window 0 .hbm).2
      ∧ ¬ (2 ^ 30 - 4095 + 4096 ≤ (tables.window 0 .hbm).2)
      ∧ (walked tables (1 * 2 ^ 30)).outcome = .fault ⟨2, 2, 0⟩ ∧ (walked tables (2 * 2 ^ 30)).outcome = .fault ⟨5, 2, 0⟩
      ∧ (walked tables (3 * 2 ^ 30)).outcome = .fault ⟨6, 2, 0⟩
      ∧ (walked tables (4 * 2 ^ 30 + 0x5000)).outcome
          = .page { base := 2 ^ 32, size := 2 ^ 16, frame := 0x10000, ver := false, sa := false, ef := false, tier := .hbm, x := false, w := false, level := 0 }
      ∧ (walked tables (4 * 2 ^ 30 + 0x5000)).reads = [0x1000, 0x2000, 0x3020, 0x5000, 0x6000]
      ∧ (walked tables (4 * 2 ^ 30 + 0x10000)).reads = [0x1000, 0x2000, 0x3020, 0x5000, 0x6080]
      ∧ (walked tables (4 * 2 ^ 30 + 0x11000)).reads = [0x1000, 0x2000, 0x3020, 0x5000, 0x6080, 0x6088]
      ∧ (walked { tables with poisoned := [0x3027] } (4 * 2 ^ 30)).outcome = .fault ⟨8, 2, 0⟩
      ∧ (near.walkOn (some 0) 0 0x4000).reads = [0x1000, 0x3000] ∧ ((0x1C01 : DWord).getLsbD 11) = true
      ∧ ((root 0x1801).walkOn none 0 0x4000).outcome = .fault ⟨5, 4, 0⟩ ∧ ((0x1401 : DWord).getLsbD 11) = false ∧ ((0x1401 : DWord).getLsbD 10) = true := by
  decide +kernel

/-- Latch entries that clash with one that is held, sources that do not, and a core with 64 entries. -/
theorem witness_LatchConflicts_room :
    let s := latches0 (on (atAddr 0))
    let l (lo hi : Nat) (dest : Bool) : Nat × Latch := (0, scratchLatch 0 lo hi dest true)
    let full := (on g0).withCore 0 fun x => { x with latches := (List.range 64).map fun i => (i, scratchLatch 0 (4 * i) (4 * i + 4) false true) }
    s.latchesOk [l 31 32 false] = false ∧ s.latchesOk [l 32 33 false] = true ∧ (full.latchesOk [l 0 4 false]) = false
      ∧ full.latchesOk [(1, scratchLatch 0 0 4 false true)] = true := by decide +kernel

/-- The machine where the commit of the group in slot 1 of core 0, whose device is in window 5, has locked the line at 0x4000. -/
def committed (s : State) : State :=
  ({ lineLocked s with versions := [(0x80, { part := 0, newest := { window := 0, seq := 0, settled := false }, older := [], lock := some (0, 1) })] }.setGroup
    0 1 (bareGroup 0 0 (bareClause .scalar [0#32]))).withDevice 0 fun d => { d with window := 5 }

/-- A read under a key: of a line that no commit has locked, of one whose pending stamp the key precedes, of one that it does not precede,
and of a page that is not versioned; and a load of an open transaction. -/
theorem witness_VersionsUnderKeys_locked :
    let s := committed (on (atAddr 0x4000))
    let ver (p : Piece) : Piece := { p with page := { page0 with ver := true } }
    let p := ver (piece0 0x4000 4)
    let g := { atAddr 0x4000 with tx := some tx0 }
    s.keyPasses 0x80 (4 * 2 ^ 16 + 0xFFFF) = true ∧ s.keyPasses 0x80 (5 * 2 ^ 16) = false
      ∧ s.snapHeld (4 * 2 ^ 16 + 0xFFFF) [p] = none ∧ s.snapHeld (5 * 2 ^ 16) [p] = some 0x80
      ∧ s.snapHeld (4 * 2 ^ 16 + 0xFFFF) [piece0 0x407F 1] = some 0x80 ∧ s.snapHeld 0 [piece0 0x4080 1] = none
      ∧ (s.versions.look 0x80).bind (·.lock) = some (0, 1) ∧ (s.group? 0 1).isSome = true
      ∧ s.loadHeld 0 g [p] = none ∧ s.loadHeld 0 (atAddr 0x4000) [p] = some 0x80 ∧ s.loadHeld 0 { g with tx := some { tx0 with key := 5 * 2 ^ 16 } } [p] = some 0x80 := by
  decide +kernel

/-- What writes wait for: a request of the own group, one of another group of the core; and a fence of a group without any. -/
theorem witness_quietWrites :
    let s := on (atAddr 0x4000)
    let own : State := { s with requests := [atomReq] }
    let other : State := { s with requests := [{ atomReq with slot := 1 }] }
    GroupQuiet s 0 0 ∧ ¬ GroupQuiet own 0 0 ∧ GroupQuiet other 0 0 ∧ ¬ CoreQuiet other 0 False ∧ CoreQuiet s 0 False := by
  refine ⟨fun _ h => absurd h List.not_mem_nil, fun h => h atomReq (List.mem_singleton.2 rfl) rfl rfl trivial, fun r h _ hk => ?_,
    fun h => h.1 _ (List.mem_singleton.2 rfl) rfl trivial, fun _ h => absurd h List.not_mem_nil, fun h => h.elim⟩
  rw [List.mem_singleton] at h
  subst h
  exact absurd hk (by decide)

/-- Lines whose tag names the core of a release, one whose tag says nothing, and pages of the host's tier; a core whose queue is to be
accepted. -/
theorem witness_LastReleaser :
    let tagged (t : RelTag) : State := machine.withDie 0 fun d =>
      { d with l2 := [(l2Set 0x80, [{ way := 0, line := 0x80, vd := 0, kept := none, tag := t, own := true }])] }
    let p := piece0 0x4000 4
    let queued := (tagged (.core 3)).withCore 3 fun x => { x with queued := 2, accepted := 1 }
    LastReleaser queued 0 [p] 3 ∧ ¬ LastReleaser queued 0 [p] 2 ∧ (queued.core 3).accepted < (queued.core 3).queued
      ∧ (tagged .unknown).releaseTag 0x80 = .unknown ∧ 0 ∈ machine.coresOf 0 ∧ LastReleaser machine 0 [hostPiece] 0 := by
  refine ⟨⟨_, List.mem_singleton.2 rfl, .inr ⟨by decide, 0, by decide, .inl (by decide +kernel)⟩⟩, ?_, by decide +kernel, by decide +kernel, by decide +kernel,
    ⟨_, List.mem_singleton.2 rfl, .inl ⟨by decide, by decide +kernel⟩⟩⟩
  rintro ⟨x, hx, h⟩
  rw [List.mem_singleton] at hx
  subst hx
  rcases h with ⟨h, -⟩ | ⟨-, i, hi, h⟩
  · exact absurd h (by decide)
  · revert i
    decide +kernel

/-- Steps of a `cas` on the host's tier and on another. -/
theorem witness_CombinedRequests :
    let xs : List (Nat × Piece × AtomStep) := [(0, hostPiece, ⟨0, 1, 0⟩), (1, piece0 0x4000 4, ⟨1, 2, 0⟩), (2, hostPiece, ⟨2, 3, 1⟩)]
    ((atomRequests .cas xs).filter fun r => r.1.page.tier == .host) = [(hostPiece, [⟨0, 1, 0⟩]), (hostPiece, [⟨2, 3, 1⟩])]
      ∧ ((atomRequests .cas xs).filter fun r => !(r.1.page.tier == .host)) = [(piece0 0x4000 4, [⟨1, 2, 0⟩])] := by decide +kernel

/-! ### Matrix engine, copies, rings, fabric, barriers, launches -/

/-- An engine operation of the group of the machine. -/
def op0 (kind : EngKind) (ctr : Counter) : EngOp :=
  { kind := kind, core := 0, slot := 0, launch := 0, gang := 0, vd := 0, ctr := ctr, pages := [], bad := [], window := 0, done := 0 }

/-- The last tile and one beyond it, an engine with room and a full one, an image at the end of the bound and beyond it, bits that must be
0, panels that hold a format of the other width, and rows of a tile that differ. -/
theorem witness_TileInstructions :
    let s := on (withRegs [(5, 0), (6, BitVec.ofNat 32 (148 * 8192 - 16896)), (8, 0x200000), (9, 2), (10, BitVec.ofNat 32 (148 * 8192 - 16892))])
    let g := withRegs [(5, 0), (6, BitVec.ofNat 32 (148 * 8192 - 16896)), (8, 0x200000), (9, 2), (10, BitVec.ofNat 32 (148 * 8192 - 16892))]
    let full := { s with ops := (List.range 16).map fun i => (i, op0 (.zero 0 0) .tiles) }
    let odd := s.withCore 0 fun x => { x with panels := [(1, { Panel.clear with fmt := some .bf16 })], tiles := [(0, { Tile.clear with mismatch := 1 })] }
    ∃ y, Runs s 0 0 g ∧ s.gang? 0 g.gang = some y ∧ y.tiles.length = 48 ∧ y.panels.length = 8 ∧ s.matrixOps 0 < 16
      ∧ 16 ≤ full.matrixOps 0 ∧ g.inBudget 120 8 = true ∧ 0 + 16896 ≤ 148 * y.rows
      ∧ (((g.sreg 6).extractLsb' 21 11 = 0#11) ∧ ((g.sreg 6).extractLsb' 0 21).toNat + 16896 = 148 * y.rows)
      ∧ ¬ ((g.sreg 10).extractLsb' 0 21).toNat + 16896 ≤ 148 * y.rows
      ∧ (g.sreg 8).extractLsb' 21 11 ≠ 0#11 ∧ ((g.sreg 9).extractLsb' 0 21).toNat % 4 ≠ 0
      ∧ ((odd.core 0).panels.get 1 Panel.clear).fmt = some .bf16 ∧ ((odd.core 0).tiles.get 0 Tile.clear).mismatch.getLsbD 0 = true
      ∧ s.latchesOk [(0, scratchLatch 0 0 16896 false true)] = true
      ∧ (full.ops.any fun x => decide (x.1 < 16) && x.2.core == 0 && x.2.kind.tile == some 0) = true
      ∧ (List.range 8).filterMap (fun j => if (1#8).getLsbD j then s.setGang 0 0 y j else none) = [(0, 0, y)]
      ∧ s.setGang 0 0 y 1 = none :=
  ⟨bareGang 0, runs_on _, by decide +kernel⟩

/-- Each kind of matrix operation alone at its engine, and a load on its way to a second core. -/
theorem witness_MatrixEngine :
    let s := machine.withCore 0 fun x => { x with panels := [(0, { Panel.clear with state := .ready .e4m3, fmt := some .e4m3 })], engine := [0] }
    let r (k : EngKind) : State := at_ { s with ops := [(0, op0 k .tiles)] } 0 0 0
    (List.all [EngKind.zero 0 3, .mul false 0 0 .e4m3 0 3, .rowWrite 0 0 0 3 [(0, 1)], .drain 0 .bf16 0 3, .rowRead 0 0 0 8 3] fun k =>
        (r k).matrixReady 0 (op0 k .tiles)) = true
      ∧ (r (.zero 0 3)).ops.look 0 = some (op0 (.zero 0 3) .tiles) ∧ s.gang? 0 0 = some (bareGang 0)
      ∧ (let l := EngKind.mld 0 0 0 .e4m3 [(0, 0), (1, 0)] [0]
         ((at_ { s with ops := [(0, op0 l .tiles)] } 0 1 0).ops.look 0 = some (op0 l .tiles)) ∧ 1 ∉ [0]) := by decide +kernel

/-- A copy that can be issued, one of no units, one that is illegal, one whose scratchpad offset is too great, and one that meets a latch. -/
theorem witness_CopyInstructions :
    let rs : List (Nat × Word) := [(4, 0x4000), (6, 0x10), (7, 0), (8, 0x40000010), (9, 0x200000)]
    let g := withRegs rs
    let h : CopyShape := { planes := 1, rows := 1, units := 16, q := .none, len := 16 }
    let src : Side := { scratch := none, base := 0x4000, rowPitch := 0, planePitch := 0, unit := 1 }
    let dst : Side := { scratch := some (0, 0), base := 0, rowPitch := 0, planePitch := 0, unit := 1 }
    let ls := [sideLatch 0 h src false 0, sideLatch 0 h dst true 0]
    let held := (on g).withCore 0 fun x => { x with latches := [(0, { scratchLatch 0 0 16 true false with op := 9 })] }
    Runs (on g) 0 0 g ∧ (g.sreg 6).extractLsb' 0 30 = 16#30 ∧ (g.sreg 8).extractLsb' 30 2 ≠ 0#2 ∧ 2 ^ 21 ≤ (g.sreg 9).toNat
      ∧ (on g).checkCopy 0 g h src [dst] = .ok [page0] ∧ (on g).engineWait 0 g = none ∧ h.units ≠ 0 ∧ (on g).latchesOk ls = true
      ∧ held.latchesOk ls = false ∧ (on g).checkCopy 0 g { h with units := 0 } src [dst] = .ok []
      ∧ (on g).engineWait 0 { g with stores := [⟨0, false⟩] } = some (.counts 7 0 7 7)
      ∧ canonFault h .load src = none ∧ (on g).gang? 0 0 = some (bareGang 0)
      ∧ ((on g).checkCopy 0 g h src [{ dst with base := 148 * 8192 - 8 }]
          = .raise ((⟨0x0A, 7, 0⟩ : XFault).raises .store 1 (148 * 8192))) :=
  ⟨runs_on _, by decide +kernel⟩

theorem witness_CopyCompletion :
    let h : CopyShape := { planes := 1, rows := 1, units := 16, q := .none, len := 16 }
    let src : Side := { scratch := none, base := 0x4000, rowPitch := 0, planePitch := 0, unit := 1 }
    let dst : Side := { scratch := some (0, 0), base := 0, rowPitch := 0, planePitch := 0, unit := 1 }
    let o : EngOp := { op0 (.copy h src [dst] none) .copies with pages := [page0] }
    let s := at_ { machine with ops := [(0, o)] } 0 0 0
    s.ops.look 0 = some o ∧ s.gang? 0 0 = some (bareGang 0) ∧ o.bad = [] ∧ s.copyReady o h src [dst] = true := by decide +kernel

/-- A gang whose ring 2 has two slots of a row at row 0: the first free, filling, complete or draining. -/
def ringGang (st : SlotState) (f : Nat) : Gang :=
  { bareGang 0 with rings := [(2, { slots := 2, srows := 1, base := 0, p := 0, c := 0, e := 2, f := f, lap := 0,
                                    recs := [(0, ⟨st, false, 0, false, false⟩)], waiters := [], deferred := [] })] }

/-- The machine with that gang. -/
def ringOn (st : SlotState) (f : Nat) (g : Group) : State := (on g).withCore 0 fun x => { x with gangs := [(0, ringGang st f)] }

/-- An unused ring; a free slot in a group's turn, and not in it; a filled slot; slots filling and draining; the slot words of registers;
and an accepted release and declaration. -/
theorem witness_Rings :
    let g := withRegs [(4, 0x4000), (6, 0x10), (10, 0x200000), (11, 0)]
    let ring (st : SlotState) (f : Nat) : Option Ring := (ringGang st f).rings.look 2
    let h : CopyShape := { planes := 1, rows := 1, units := 16, q := .none, len := 16 }
    let src : Side := { scratch := none, base := 0x4000, rowPitch := 0, planePitch := 0, unit := 1 }
    let dst : Side := { scratch := some (0, 0), base := 0, rowPitch := 0, planePitch := 0, unit := 1 }
    let ls := [sideLatch 0 h src false 0, (0, scratchLatch 0 0 148 true false)]
    (ringOn .free 0 g).actor = .group 0 0 ∧ (ringOn .free 0 g).group? 0 0 = some g ∧ (ringOn .free 0 g).gang? 0 0 = some (ringGang .free 0)
      ∧ (ringGang .free 0).rings.look 3 = none
      ∧ (∃ x, ring .free 0 = some x ∧ (x.recs.get x.p ⟨.free, false, 0, false, false⟩).state = .free ∧ x.waiters = [])
      ∧ (∃ x, ring .filled 1 = some x ∧ 0 < x.f) ∧ ((g.sreg 11).extractLsb' 21 8).toNat = 0 ∧ ((g.sreg 10).extractLsb' 21 8).toNat = 1
      ∧ (∃ x, ring .filling 0 = some x ∧ (x.recs.get 0 ⟨.free, false, 0, false, false⟩).state = .filling)
      ∧ (∃ x, ring .draining 0 = some x ∧ (x.recs.get 0 ⟨.free, false, 0, false, false⟩).state = .draining)
      ∧ g.shape 1 6 .none = some h ∧ h.units * unitOut h.q h.len ≤ 148 * 1 ∧ canonFault h .load src = none
      ∧ (ringOn .free 0 g).checkCopy 0 g h src [dst] = .ok [page0] ∧ (ringOn .free 0 g).engineWait 0 g = none
      ∧ (ringOn .free 0 g).latchesOk ls = true := by
  and_intros <;> decide +kernel

/-- A ring with an accepted release of a draining slot, and with an accepted declaration of a filling one. -/
theorem witness_Rings_deferred :
    let y (st : SlotState) (r : Bool) : Gang :=
      { ringGang st 0 with rings := [(2, { slots := 2, srows := 1, base := 0, p := 1, c := 0, e := 1, f := 0, lap := 0,
                                           recs := [(0, ⟨st, false, 0, false, true⟩)], waiters := [], deferred := [(⟨r, 0, 0⟩, [])] })] }
    let s (st : SlotState) (r : Bool) : State := at_ (machine.withCore 0 fun x => { x with gangs := [(0, y st r)] }) 0 0 2
    (s .draining true).gang? 0 0 = some (y .draining true) ∧ (s .filling false).gang? 0 0 = some (y .filling false)
      ∧ (∃ x, (y .draining true).rings.look 2 = some x ∧ x.deferred = [(⟨true, 0, 0⟩, [])] ∧ x.f < x.slots) :=
  ⟨by decide +kernel, by decide +kernel, ⟨_, rfl, by decide +kernel⟩⟩

/-- A job of two ranks whose segments have 2 MiB; its routes stand at 0x8000. -/
def job0 : Job := { jobid := 1, rank := 0, last := 1, wlog := 21, routes := 0x8000, fresh := false }

/-- Device 0 as a member of that job, with its segment at 0x10000. -/
def jobbed (s : State) : State := s.withDevice 0 fun d => { d with job := some job0, fabric := [(8, 0x10000)] }

/-- Ranges that end at the segment and beyond it, a rank beyond the job, operands that are illegal, and a transfer that can leave. -/
theorem witness_FabricInstructions :
    let g := withRegs [(4, 0x4000), (8, 0x100), (9, 0x10000), (12, 0x10), (14, 0), (16, 0x40000000)]
    let s := jobbed (on g)
    s.actor = .group 0 0 ∧ s.group? 0 0 = some g ∧ (s.device 0).job = some job0
      ∧ (1 : Nat) ≤ job0.last ∧ 0x1FFFF0 + 0x10 ≤ 2 ^ job0.wlog ∧ ¬ (0x1FFFF0 + 0x11 ≤ 2 ^ job0.wlog) ∧ ¬ ((2 : Nat) ≤ job0.last)
      ∧ (g.sreg 16).extractLsb' 30 2 ≠ 0#2 ∧ (g.sreg 12).extractLsb' 30 2 = 0#2 ∧ (g.sreg 14).extractLsb' 0 30 = 0#30
      ∧ localBad .load 0x4000 16 = none ∧ s.translateGroup 0 g .load 0x4000 16 = .ok [piece0 0x4000 16] ∧ s.engineWait 0 g = none
      ∧ s.latchesOk [(0, globalLatch 0 0x4000 0x4010 false)] = true ∧ s.lockedIn [piece0 0x4000 16] = none
      ∧ g.loads = [] ∧ g.stores = [] ∧ g.stage = 0 ∧ winLe 2 (s.device 0).window = false ∧ winLe 0 (s.device 0).window = true
      ∧ g.remote = none := by decide +kernel

/-- An installed table whose entry 0 is an on-chip barrier of one arrival, entry 1 one of two, entry 2 none; and handles beyond it. -/
theorem witness_BarriersAndLaunches :
    let s := (on g0).withDevice 0 fun d => { d with fabric := [(0x20, 0x5001)] }
    let btab := (s.device 0).fabric.get 0x20 0
    s.actor = .group 0 0 ∧ s.group? 0 0 = some g0 ∧ g0.activeTrap = false ∧ btab.getLsbD 0 = true
      ∧ ({ g0 with lanes := g0.lanes.put 0 { g0.lane 0 with trap := true } } : Group).activeTrap = true
      ∧ s.translateGroup 0 g0 .load ((btab &&& ~~~0xFFF#64).toNat + 16 * 255) 16 = .ok [piece0 0x5FF0 16]
      ∧ s.lockedIn [piece0 0x5FF0 16] = none ∧ s.gang? 0 0 = some (bareGang 0)
      ∧ barEntry 0 0 1 = none ∧ barEntry (2 ^ 62 + 2 ^ 8 * 1) 0 1 = some (false, 1, 0) ∧ barEntry (2 ^ 62 + 2 ^ 8 * 2 + 3) 0 2 = some (false, 2, 3)
      ∧ canonical 0x4000 = true ∧ canonical (2 ^ 56) = false ∧ 0x4008 % 16 ≠ 0
      ∧ s.translateGroup 0 g0 .load 0x4000 0x180 = .ok [piece0 0x4000 0x180] ∧ s.launches.look 0 = some (bareLaunch 0)
      ∧ (s.device 0).launchQueue.length < 64 := by decide +kernel

/-- A copy to global memory whose bytes have each a place; several destinations; a push that fills its ring's slot; a load alone in the
queue of its panel. -/
theorem witness_CopyCompletion_more :
    let o : EngOp := { op0 (.zero 0 0) .copies with pages := [page0] }
    let y := ringGang .filling 0
    let s := machine.withCore 0 fun x => { x with gangs := [(0, y)] }
    let l := op0 (.mld 0 0 0 .e4m3 [(0, 0)] [0]) .tiles
    let m := { machine with ops := [(4, l)] }.withCore 0 fun x => { x with engine := [4] }
    Landable machine o [(0x3FFFFFFF, 1), (0x4000, 2)]
      ∧ [(some (0, 0) : Option (Nat × Nat)), some (1, 0)].Pairwise (fun a b => a.map (·.1) ≠ b.map (·.1))
      ∧ s.gang? 0 0 = some y ∧ s.gangGroups 0 0 ≠ []
      ∧ (∃ x, y.rings.look 2 = some x ∧ (x.recs.get 0 ⟨.free, false, 0, false, false⟩).state = .filling ∧ 0 < x.slots ∧ x.f < x.slots)
      ∧ m.panelQueue 0 0 = [4] ∧ ([(0, 0)] : List (Nat × Nat)).map (·.1) = [0] := by
  refine ⟨⟨List.pairwise_singleton _ _, ⟨by decide +kernel, by decide +kernel⟩, ?_, ?_⟩, by decide +kernel, by decide +kernel, by decide +kernel,
    ⟨_, rfl, by decide +kernel⟩, by decide +kernel, rfl⟩
  · intro x hx
    simp only [List.mem_cons, List.not_mem_nil, or_false] at hx
    obtain rfl | rfl := hx <;> exact ⟨_, rfl⟩
  · intro x hx x' hx' z z' h h' e
    simp only [List.mem_cons, List.not_mem_nil, or_false] at hx hx'
    obtain rfl | rfl := hx <;> obtain rfl | rfl := hx' <;> first | rfl | (cases h; cases h'; exact absurd e (by decide))

/-- A push that its slot cannot hold, one byte more than it has; one of nothing, the last slot's; one whose entries are refused; and a ring
without a free slot. -/
theorem witness_Rings_push :
    let g := withRegs [(4, 0x4000), (6, 149), (7, 0), (8, 148)]
    let s := ringOn .free 0 g
    let h (n : Nat) : CopyShape := { planes := 1, rows := 1, units := n, q := .none, len := 16 }
    let src : Side := { scratch := none, base := 0x4000, rowPitch := 0, planePitch := 0, unit := 1 }
    let dst : Side := { scratch := some (0, 0), base := 0, rowPitch := 0, planePitch := 0, unit := 1 }
    let held := s.withCore 0 fun x => { x with latches := [(0, { scratchLatch 0 147 148 true false with op := 9 })] }
    Runs s 0 0 g ∧ s.gang? 0 g.gang = some (ringGang .free 0)
      ∧ g.shape 1 6 .none = some (h 149) ∧ 148 * 1 < (h 149).units * unitOut .none 16 ∧ canonFault (h 149) .load src = none
      ∧ g.shape 1 8 .none = some (h 148) ∧ (h 148).units * unitOut .none 16 ≤ 148 * 1
      ∧ held.checkCopy 0 g (h 148) src [dst] = .ok [page0] ∧ held.latchesOk [sideLatch 0 (h 148) src false 0, (0, scratchLatch 0 0 148 true false)] = false
      ∧ g.shape 1 10 .none = some (h 0) ∧ s.checkCopy 0 g (h 0) src [dst] = .ok []
      ∧ (∃ x, (ringGang .free 0).rings.look 2 = some x ∧ 0 < x.slots ∧ x.f < x.slots ∧ x.p < x.slots ∧ (x.c + x.f) % x.slots = x.p)
      ∧ (∃ x, (ringGang .filling 0).rings.look 2 = some x ∧ (x.recs.get x.p ⟨.free, false, 0, false, false⟩).state ≠ .free) := by
  and_intros <;> decide +kernel

/-! ### Hinge channels -/

/-- A channel of device 0 with some registers, whose word has the fields A, B, C and IMM 1, 2, 3 and 4. -/
def chan0 : Channel :=
  { bareChannel 0 0x0048C004 with x := [(1, 0x4000), (2, 0x4100), (3, 0x10), (4, 0x10000)], blen := 32, nslot := 2, compressed := true }

/-- The machine at a word of that channel. -/
def onChan (ch : Channel) : State :=
  { machine.withHinge 0 (fun h => { h with chans := [(0, ch)], running := some 0 }) with actor := .channel 0 0 }

/-- The fields of the word of `chan0`. -/
def fields0 : HingeFields := { a := 1, b := 2, c := 3, imm := 4 }

/-- A line of the table that holds the leaf entry is locked by a commit: a walk that needs it waits. -/
def tableLocked (s : State) : State :=
  { s with versions := [(0x60, { part := 0, newest := { window := 0, seq := 0, settled := false }, older := [], lock := some (1, 0) })] }

/-- The piece of n bytes as an agent that walks translates it. -/
def walked0 (a n : Nat) : Piece := { piece0 a n with level := 2 }

/-- The channel of a step of a channel is the one that was put there. -/
theorem onHinge_ok : OnHinge (onChan chan0) 0 0 chan0 fields0 := ⟨rfl, by decide +kernel, 0x0048C004, rfl, by decide +kernel⟩

/-- LEN at its greatest and beyond it; a port that the partition owns and one that it does not, and the port that follows the rank. -/
theorem witness_HingeRegisters : OnHinge (onChan chan0) 0 0 chan0 fields0 ∧ ¬ (4096 < (4096#64).toNat) ∧ 4096 < (4097#64).toNat
    ∧ fields0.imm.toNat = 4 ∧ ((onChan chan0).portOwned 0 0 3 = false)
    ∧ ((onChan chan0).withPartition 0 fun p => { p with ctl := [(0x18, 1)] }).portOwned 0 0 0 = true :=
  ⟨onHinge_ok, by decide +kernel⟩

/-- A LEN that is a multiple of 32 and one that is not; entries that fit their exponent and one that does not. -/
theorem witness_HingeArithmetic : OnHinge (onChan chan0) 0 0 chan0 fields0 ∧ chan0.blen % 32 = 0 ∧ ({ chan0 with blen := 31 } : Channel).blen % 32 ≠ 0
    ∧ fields0.a ≠ fields0.c
    ∧ (∀ i, i < 32 → Aligned (bufEntry chan0 2 i) (bufEntry chan0 3 (i / 32)) (some 0)) ∧ Aligned 0x7F000000#64 0#64 none := by
  refine ⟨onHinge_ok, by decide, by decide, by decide, ?_, ?_⟩
  · intro i _
    show Aligned 0 0 (some 0)
    have h : Num.decode Num.f32 ((0 : DWord).toNat % 2 ^ 32) = .fin false 0 (-149) := by decide +kernel
    have z : (0 : DWord).toInt = 0 := rfl
    refine ⟨fun h => absurd h (by decide), fun _ hbad => ?_, fun _ _ _ => ⟨0, rfl, ?_, ?_⟩⟩
    · simp only [h, z] at hbad
      rcases hbad with hbad | ⟨s, hbad⟩ | hbad
      · cases hbad
      · cases hbad
      · norm_num [worth] at hbad
    · simp only [h, z]; norm_num [worth]
    · simp only [h, z]; norm_num [worth]
  · have h : Num.decode Num.f32 ((0x7F000000#64 : DWord).toNat % 2 ^ 32) = .fin false 0x800000 104 := by decide +kernel
    refine ⟨fun h => absurd h (by decide), fun _ _ => rfl, fun _ _ hlt => ?_⟩
    simp only [h] at hlt
    norm_num [worth] at hlt

/-- Aligned and misaligned accesses, one that has its translation, one that faults, one whose walk waits, and one whose line is locked;
code blocks without and with a residual object, whose last element it is and which ends before. -/
theorem witness_HingeMemory :
    let s := onChan chan0
    let ch : Channel := { chan0 with blen := 16, obj := some (0x8000, 64) }
    OnHinge s 0 0 chan0 fields0 ∧ 0x4000 % 8 = 0 ∧ 0x4001 % 4 ≠ 0
      ∧ channelPieces s 0 0 .load 0x4000 8 = .ok [walked0 0x4000 8] ∧ channelPieces s 0 0 .store 0x4000 128 = .ok [walked0 0x4000 128]
      ∧ channelPieces s 0 0 .load (2 ^ 56) 8 = .fault ⟨1, 7, 0⟩ (2 ^ 56) ∧ s.lockedIn [walked0 0x4000 8] = none
      ∧ channelPieces (tableLocked s) 0 0 .load 0x4000 8 = .miss [4] ∧ (lineLocked s).lockedIn [walked0 0x4000 8] = some 0x80
      ∧ chan0.compressed = true ∧ chan0.blen % (16 * 2 ^ (chan0.len % 4)) = 0 ∧ ({ chan0 with compressed := false } : Channel).compressed = false
      ∧ ({ chan0 with blen := 8 } : Channel).blen % (16 * 2 ^ (chan0.len % 4)) ≠ 0
      ∧ ch.blen = 16 * 2 ^ (ch.len % 4) ∧ ch.obj = some (0x8000, 64) ∧ 48 + 16 ≤ 64 ∧ 64 < 49 + 16
      ∧ channelPieces s 0 0 .store 0x4000 (Num.blockBytes false 16) = .ok [walked0 0x4000 6]
      ∧ channelPieces s 0 0 .store (0x8000 + 256 + 4 * 48) 64 = .ok [walked0 0x81C0 64] ∧ s.lockedIn [walked0 0x81C0 64] = none
      ∧ FormedMemory s := ⟨onHinge_ok, by unfold FormedMemory; decide +kernel⟩

/-- The records of HBM addresses 0x4000 to 0x4FFF: one that expects an arrival, in phase 0, of device 0. -/
def hasped (s : State) : State :=
  let t := s.withDevice 0 fun d => { d with fabric := [(0x10, 0x4000), (0x18, 0x5000)] }
  { t with mem := (t.mem.writeAll 0x4000 (toBytes 4 0 ++ toBytes 4 1 ++ toBytes 4 0 ++ toBytes 4 (2 ^ 31))) }

/-- Arrivals that are accepted, that go beyond, that are not expected and that the record is not the device's for; a wait that is begun
and goes on, one that begins, and records that are locked or that their address does not name. -/
theorem witness_HingeHasps :
    let s := hasped (onChan chan0)
    let p := walked0 0x4000 16
    let y := s.hasp 0x4000
    (∀ i, (s.slice i).wards.length < 512)
      ∧ s.actor = .channel 0 0 ∧ s.channel? 0 0 = some chan0 ∧ fields0.imm ≠ 0 ∧ chan0.wait = none
      ∧ channelPieces s 0 0 .atomic 0x4000 16 = .ok [p] ∧ channelPieces (tableLocked s) 0 0 .atomic 0x4000 16 = .miss [4]
      ∧ channelPieces s 0 0 .atomic (2 ^ 56) 16 = .fault ⟨1, 7, 0⟩ (2 ^ 56)
      ∧ s.haspAddr 0 0x4000 [p] = some 0x4000 ∧ s.haspAddr 0 0x5000 [walked0 0x5000 16] = none ∧ s.lockedIn [p] = none
      ∧ (lineLocked s).lockedIn [p] = some 0x80
      ∧ (y.arrive 1 0 0).1 = 0 ∧ (y.arrive 2 0 0).1 = 1 ∧ (y.arrive 1 1 0).1 = 3 ∧ ({ y with expected := 0 }.arrive 1 0 0).1 = 2
      ∧ y.owned 0 0 = true ∧ y.owned 1 0 = false ∧ y.phase = 0
      ∧ ({ chan0 with wait := some (.hasp 0x4000 1 false) } : Channel).wait = some (.hasp 0x4000 1 false)
      ∧ y.phase ≠ (1#32).toNat ∧ s.mem.wf = true :=
  ⟨fun _ => show ([] : List Ward).length < 512 by decide, by decide +kernel⟩

/-- A rank and an offset in the job's range and out of it, aligned and not; the own rank, a rank without a route and one of another module,
by a port that the partition owns, with credits and without, and by one that it does not own. -/
theorem witness_HingeSends :
    let s := jobbed (onChan { chan0 with x := [(1, 0), (2, 0x4000), (3, 0x10), (4, 0x10)] })
    let out := (s.withDevice 0 fun d => { d with conns := [(1, .away [])] }).withPartition 0 fun p => { p with ctl := p.ctl.put 0x18 2 }
    s.actor = .channel 0 0 ∧ (s.channel? 0 0).isSome = true ∧ (s.device 0).job = some job0 ∧ (0 : Nat) ≤ job0.last
      ∧ 0x1FFFF0 + 0x10 ≤ 2 ^ job0.wlog ∧ ¬ (0x1FFFF1 + 0x10 ≤ 2 ^ job0.wlog) ∧ job0.last < 2 ∧ 0x10 % 4 = 0 ∧ 0x12 % 4 ≠ 0
      ∧ ((2#4).toNat % 2 = 0 ∧ 0x40 % 16 = 0 ∧ 0x48 % 16 ≠ 0) ∧ fields0.imm ≠ 0
      ∧ channelPieces s 0 0 .load 0x4000 0x10 = .ok [walked0 0x4000 0x10] ∧ channelPieces s 0 0 .store 0x4000 0x10 = .ok [walked0 0x4000 0x10]
      ∧ s.lockedIn [walked0 0x4000 0x10] = none
      ∧ s.route 0 0 = .here 0 ∧ s.route 0 1 = .absent ∧ out.route 0 1 = .away [] ∧ chan0.port = 4 ∧ out.portOwned 0 0 (1 % 4) = true
      ∧ s.portOwned 0 0 (1 % 4) = false ∧ 1 ∉ chan0.nocredit
      ∧ 1 ∈ ({ chan0 with nocredit := [1] } : Channel).nocredit := by decide +kernel

/-- A slot that is closed, one that is open without a result and one with it; the last slot and one beyond it; configurations at their
bounds and beyond; and an end that a locked header holds. -/
theorem witness_HingeSlotsAndEnds :
    let slot (conf : Option DWord) (r : Option (List DWord)) : CombSlot := { vd := 0, comm := 0, k := 1, conf := conf, staged := [], contribs := [], result := r }
    let c : DWord := BitVec.ofNat 64 (4096 + 2 ^ 16 + 64 * 2 ^ 32)
    let s (x : CombSlot) : State := { onChan chan0 with comb := [(0, x)] }
    let ends := lineLocked (onChan { chan0 with obj := some (0x4000, 64) })
    OnHinge (onChan chan0) 0 0 chan0 fields0 ∧ 1 < chan0.nslot ∧ chan0.nslot ≤ 2 ∧ (s (slot none none)).slotOf 0 0 1 = some (0, slot none none)
      ∧ (s (slot (some c) none)).slotOf 0 0 1 = some (0, slot (some c) none)
      ∧ (s (slot (some c) (some [1]))).slotOf 0 0 1 = some (0, slot (some c) (some [1]))
      ∧ slotConf c = some (4096, 1, 64) ∧ 64 * 4096 * 4 = 2 ^ 20 ∧ slotConf (c + 2 ^ 32) = none ∧ slotConf 0 = none
      ∧ chan0.sends = [] ∧ ({ chan0 with sends := [3] } : Channel).sends ≠ [] ∧ (onChan chan0).endHeld 0 0 = false ∧ ends.endHeld 0 0 = true :=
  ⟨onHinge_ok, by decide +kernel⟩

/-- A transfer whose local range is refused, one whose page is not known or faults, one of no bytes, one that waits, one whose entry is
refused, and one whose source is locked; a window in which a fence is and one after it. -/
theorem witness_FabricInstructions_more :
    let g := lanesAt 0x4000 0
    let s := jobbed (on g)
    let held := latches0 s
    localBad .load (2 ^ 56) 16 ≠ none ∧ s.translateGroup 0 g .load 0x80000000 16 = .miss [0x80000]
      ∧ s.translateGroup 0 g .load 0x40000000 16 = .fault ⟨2, 0, 0⟩ 0x40000000 ∧ s.translateGroup 0 g .load 0x4000 0 = .ok []
      ∧ s.engineWait 0 { g with stores := [⟨0, false⟩] } ≠ none ∧ held.latchesOk [(0, globalLatch 0 0x400F 0x4010 true)] = false
      ∧ (lineLocked s).lockedIn [piece0 0x407F 1] = some 0x80
      ∧ (16 % 4 = 0 ∧ 0x4000 % 16 = 0 ∧ 18 % 4 ≠ 0)
      ∧ ({ g with stage := 2 + 1 } : Group).stage = 2 + 1 ∧ winLe 2 1 = false ∧ winLe 2 2 = true
      ∧ ({ g with remote := some ⟨2, 0, 0x10, 0, 1⟩ } : Group).remote = some ⟨2, 0, 0x10, 0, 1⟩ := by decide +kernel

/-- The group at a barrier of a hasp that it has read the entry of; the hasp expects one arrival, or two. -/
def atHasp : Group := { g0 with object := some 0x4000 }

/-- An entry that names a hasp; a record that the arrival completes, one that it does not, one that expects nobody, one that is not the
device's, and an address that names none; a group whose end completes a barrier on chip that it is not at, and one that it does not
complete; and a packet that waits for room. -/
theorem witness_Barriers_more :
    let s := hasped (on atHasp)
    let p := piece0 0x4000 16
    let x := s.hasp 0x4000
    let gone := { g0 with clause := { g0.clause with idx := 1, ending := .exit, active := BitVec.allOnes 32 } }
    let at' (j : Nat) : Group := { bareGroup 0 0 Clause.idle with phase := .waiting, wait := some (.barrier j) }
    let y : Gang := { bareGang 0 with slots := [0, 1, 2], bars := [(0, ⟨2, 0⟩), (1, ⟨1, 0⟩)] }
    let e : State := { (((machine.setGroup 0 0 gone).withCore 0 fun c => { c with gangs := [(0, y)], groups := c.groups.put 1 (at' 0) }).withCore 0 fun c =>
      { c with groups := c.groups.put 2 (at' 1) }) with actor := .object 0 0 0 }
    let full (j : Nat) : Bool := let b := y.bars.get j ⟨0, 0⟩
      b.arrivals != 0 && decide ((if b.expect = 0 then 2 else b.expect) ≤ b.arrivals)
    Runs s 0 0 atHasp ∧ atHasp.activeTrap = false ∧ g0.object = none ∧ barEntry (2 ^ 63) 0x4000 1 = some (true, 0, 0x4000)
      ∧ s.translateGroup 0 atHasp .atomic 0x4000 16 = .ok [p] ∧ s.haspAddr 0 0x4000 [p] = some 0x4000 ∧ s.haspAddr 0 0x5000 [piece0 0x5000 16] = none
      ∧ x.owned 0 0 = true ∧ x.expected ≠ 0 ∧ x.expected ≤ x.arrived + 1 ∧ x.arrived + 1 < ({ x with expected := 2 } : HaspRec).expected
      ∧ x.owned 1 0 = false ∧ s.mem.wf = true ∧ atHasp.wait = none ∧ CoreQuiet s 0 True ∧ WardRoom s
      ∧ e.actor = .object 0 0 0 ∧ e.group? 0 0 = some gone ∧ gone.clauseOver = true
      ∧ (gone.complete (e.device 0).handler).exitedSet = BitVec.allOnes 32 ∧ e.gang? 0 0 = some y ∧ Rising (e.core 0).groups
      ∧ (e.gangGroups 0 0).length - 1 = 2 ∧ e.group? 0 1 = some (at' 0) ∧ e.group? 0 2 = some (at' 1) ∧ full 0 = true ∧ full 1 = false
      ∧ ({ g0 with copied := [1] } : Group).copied ≠ [] ∧ g0.copied = []
      ∧ 64 ≤ (((on g0).withDevice 0 fun d => { d with launchQueue := List.replicate 64 [] }).device 0).launchQueue.length := by
  and_intros <;> first
    | decide +kernel
    | rfl
    | (unfold Rising; decide +kernel)
    | exact fun _ h => absurd h List.not_mem_nil
    | exact fun _ => rfl
    | exact fun _ => show ([] : List Ward).length + 32 ≤ 512 by decide

/-! ### What engine operations, rings and fabric instructions wait for -/

/-- The machine where an operation of a kind is under way at the engine of core 0. -/
def under (k : EngKind) (s : State) : State := { s with ops := [(0, op0 k .tiles)], nextOp := 1 }

/-- An engine with sixteen operations; a tile that an earlier operation is on; entries that clash with one held; a tile whose row of an active
lane is refused, and the bounds of the active lanes. -/
theorem witness_TileInstructions_waits :
    let s := on (withRegs [(5, 0)])
    let full : State := { s with ops := (List.range 16).map fun i => (i, op0 (.zero 0 0) .tiles), nextOp := 16 }
    let odd := s.withCore 0 fun x => { x with tiles := [(0, { Tile.clear with mismatch := 2 })] }
    16 ≤ full.matrixOps 0 ∧ (∃ x ∈ (under (.zero 0 0) s).ops, x.1 < (under (.zero 0 0) s).nextOp ∧ x.2.core = 0 ∧ x.2.kind.tile = some 0)
      ∧ (∀ x ∈ s.ops, ¬ (x.1 < s.nextOp ∧ x.2.core = 0 ∧ x.2.kind.tile = some 0))
      ∧ (latches0 s).latchesOk [(0, scratchLatch 0 16 148 true true)] = false ∧ s.latchesOk [(0, scratchLatch 0 16 148 true true)] = true
      ∧ (∃ l, l < 32 ∧ g0.clause.active.getLsbD l = true ∧ ((odd.core 0).tiles.get 0 Tile.clear).mismatch.getLsbD l = true)
      ∧ (∀ l, l < 32 → g0.clause.active.getLsbD l = true → 0 ≤ l ∧ l ≤ 1) ∧ g0.clause.active.getLsbD 0 = true ∧ g0.clause.active.getLsbD 1 = true := by
  decide +kernel

/-- Two loads on the panels of cores 0 and 1, which have reached the engines in different orders: each fills the panel where it is the first.
And a load that has one target left; a target whose gang is not in its places. -/
theorem witness_MatrixEngine_crossing :
    let l (ts : List (Nat × Nat)) (done : List Nat) : EngOp := op0 (.mld 0 0 0 .e4m3 ts done) .tiles
    let a := l [(0, 0), (1, 0)] [0, 1]
    let b := l [(0, 0), (1, 0)] [1, 0]
    let s := ({ machine with ops := [(4, a), (5, b)] }.withCore 0 fun x => { x with engine := [4, 5] }).withCore 1 fun x => { x with engine := [5, 4] }
    let rest := { machine with ops := [(4, l [(0, 0)] [0, 1])] }.withCore 0 fun x => { x with engine := [4] }
    let away := s.withCore 0 fun x => { x with gangs := [(0, { bareGang 0 with populated := false })] }
    s.fills 4 a = [(0, 0)] ∧ s.fills 5 b = [(1, 0)] ∧ s.matrixReady 4 a = true ∧ ¬ (∀ x ∈ [(0, 0), (1, 0)], x ∈ s.fills 4 a)
      ∧ (∀ x ∈ [(0, 0)], x ∈ rest.fills 4 (l [(0, 0)] [0, 1])) ∧ away.panelAway 0 0 0 = true ∧ machine.panelAway 0 0 0 = false
      ∧ away.gangAway 0 0 = true ∧ away.fills 4 a = [] ∧ machine.gangAway 0 0 = false := by decide +kernel

/-- Pushes into a ring: an unused one, an illegal shape, a source that is not canonical, a page that faults and one that is not known, and a
push whose group has stores outstanding. -/
theorem witness_Rings_stops :
    let rs (a : Nat) : List (Nat × Word) := [(4, BitVec.ofNat 32 a), (5, BitVec.ofNat 32 (a / 2 ^ 32)), (6, 0x10), (8, 0x40000010)]
    let g (a : Nat) : Group := { withRegs (rs a) with walked := [(0x40000, .fault ⟨2, 0, 0⟩)] }
    let h : CopyShape := { planes := 1, rows := 1, units := 16, q := .none, len := 16 }
    let src (a : Nat) : Side := { scratch := none, base := a, rowPitch := 0, planePitch := 0, unit := 1 }
    let dst : Side := { scratch := some (0, 0), base := 0, rowPitch := 0, planePitch := 0, unit := 1 }
    (ringGang .free 0).rings.look 3 = none ∧ ((g 0).sreg 8).extractLsb' 30 2 ≠ 0#2 ∧ ((g 0).sreg 6).extractLsb' 30 2 = 0#2
      ∧ canonFault h .load (src (2 ^ 56)) ≠ none ∧ canonFault h .load (src 0x4000) = none
      ∧ (match (ringOn .free 0 (g 0x40000000)).checkCopy 0 (g 0x40000000) h (src 0x40000000) [dst] with | .raise _ => true | _ => false) = true
      ∧ (match (ringOn .free 0 (g 0x80000000)).checkCopy 0 (g 0x80000000) h (src 0x80000000) [dst] with | .miss _ => true | _ => false) = true
      ∧ (ringOn .free 0 (g 0x4000)).engineWait 0 { g 0x4000 with stores := [⟨0, false⟩] } ≠ none := by decide +kernel

/-- The line of an entry of the route table of `job0` is locked. -/
def routeLocked (s : State) : State :=
  { s with versions := [(0x100, { part := 0, newest := { window := 0, seq := 0, settled := false }, older := [], lock := some (1, 0) })] }

/-- A rank whose entry of the route table is locked, one without a lock, the own rank, and one to which a connection stands; at a barrier a
group with a request on its way and one without; a hasp whose line is locked; and an end that no locked line holds. -/
theorem witness_FabricInstructions_routes :
    let s := routeLocked (jobbed (on g0))
    let gone := { g0 with clause := { g0.clause with idx := 1, ending := .exit, active := BitVec.allOnes 32 } }
    s.routeHeld 0 1 = some 0x100 ∧ (jobbed (on g0)).routeHeld 0 1 = none ∧ s.routeHeld 0 0 = none
      ∧ (s.withDevice 0 fun d => { d with conns := [(1, .away [])] }).routeHeld 0 1 = none
      ∧ s.lockedIn [piece0 0x4000 16] = none ∧ (lineLocked (hasped (on atHasp))).lockedIn [piece0 0x4000 16] = some 0x80
      ∧ (lineLocked (hasped (on atHasp))).haspAddr 0 0x4000 [piece0 0x4000 16] = some 0x4000 ∧ (on gone).completionHeld 0 0 gone = false := by
  decide +kernel

theorem witness_Barriers_quiet : GroupQuiet (on g0) 0 0 ∧ ¬ GroupQuiet { on g0 with requests := [atomReq] } 0 0 :=
  ⟨fun _ h => absurd h List.not_mem_nil, fun h => h atomReq (List.mem_singleton.2 rfl) rfl rfl trivial⟩

/-- A contribution of two entries from a rank, for slot 1. -/
def contrib0 (r n : Nat) : FabOp :=
  { id := r, from? := none, src := r, dst := 0, window := 0, vd := 0, off := 0, kind := .contrib 0 1 (List.replicate n 7), forwarded := false }

/-- A record whose line is locked while a channel waits on it, one that is not the device's, in its phase and past it; ranges of a put with
a signal within the segment and beyond it; a slot whose configuration takes two contributions, with one that came before, two, one too
many, and one of the wrong length; a program that has nothing under way, and one that waits for the data of a `get`. -/
theorem witness_Hinge_ends :
    let waiting : Channel := { chan0 with wait := some (.hasp 0x4000 0 true) }
    let s := hasped (onChan waiting)
    let conf (nc : Nat) : DWord := BitVec.ofNat 64 (2 + 2 ^ 32 * nc)
    let fits (y : FabOp) : Bool := y.entries.length == 0 || y.entries.length == 2
    waiting.wait = some (.hasp 0x4000 0 true) ∧ (lineLocked s).locked (0x4000 / 128) = true ∧ s.locked (0x4000 / 128) = false
      ∧ (s.hasp 0x4000).owned 0 0 = true ∧ (s.hasp 0x4000).phase = (0#32).toNat ∧ (s.hasp 0x4000).phase ≠ (1#32).toNat
      ∧ (machine.hasp 0x4000).owned 0 0 = false
      ∧ (0x1FFFF0 + 16 ≤ 2 ^ job0.wlog ∧ ¬ (0x200000 + 16 ≤ 2 ^ job0.wlog) ∧ 0x200000 % 16 = 0)
      ∧ slotConf (conf 2) = some (2, 0, 2) ∧ ([contrib0 0 2].take 2).length < 2 ∧ ([contrib0 0 2, contrib0 1 0].take 2).length = 2
      ∧ ([contrib0 0 2, contrib0 1 0, contrib0 2 2].drop 2).length = 1
      ∧ (∀ y ∈ [contrib0 0 2, contrib0 1 0].take 2, fits y = true) ∧ (∃ y ∈ [contrib0 0 3].take 2, fits y = false)
      ∧ chan0.failed = none ∧ chan0.getting = none ∧ ({ chan0 with wait := some (.get 3) } : Channel).getting = some 3
      ∧ chan0.killed = false ∧ chan0.obj = none ∧ ((onChan { chan0 with obj := some (0x8000, 64) }).endHeld 0 0) = false
      ∧ (onChan chan0).translateAgent 0 .store 0x8000 256 = .ok [walked0 0x8000 256] ∧ ((onChan chan0).device 0).state ≠ .lost := by decide +kernel

theorem witness_Hinge_await :
    (∀ i, ((hasped (onChan chan0)).slice i).wards.length < 512) ∧ FormedMemory (onChan chan0) :=
  ⟨fun _ => show ([] : List Ward).length < 512 by decide, by unfold FormedMemory; decide +kernel⟩

/-! ### Events: launches, groups, memory -/

/-- A packet that passes every check: one group of 32 lanes, level 3, device 0, no marks, a completion record at `done`. -/
def packet0 (done : Nat) : Packet :=
  ((((((List.replicate 1024 (0 : Byte)).set 0x09 3).set 0x12 0xFC).set 0x13 0x3F).set 0x18 5).set 0x20 31).set 0x50 0x80
    |>.set 0x88 (BitVec.ofNat 8 done) |>.set 0x89 (BitVec.ofNat 8 (done / 256))

/-- A launch of that packet that has placed nothing. -/
def launch0 : Launch := { bareLaunch 0 with pkt := packet0 0 }

/-- The machine without groups, where device 0 takes packets, has the slice, and has that launch. -/
def idle0 : State :=
  let s := machine.withDevice 0 fun d => { d with xlate := d.xlate.put 0 0x1001, queue := [(0, 0x4000), (8, 1)], live := [(8, 0x1000000)] }
  { s with cores := [], launches := [(0, launch0)] }

/-- A queue's packet to be read, packets that pass and that fail, launches that run, that end, and that are over. -/
theorem witness_LaunchEvents :
    let s := idle0
    let q := s.withDevice 0 fun d => { d with taken := [(0, packet0 0)], launchQueue := [packet0 0] }
    let q4 := q.withDevice 0 fun d => { d with rotation := 4 }
    let done : State := { s with launches := [(0, { launch0 with next := 1 }), (1, { launch0 with next := 1, pkt := packet0 0x6000, ended := some 1 })] }
    (s.device 0).takes = true ∧ (s.device 0).taken.look 0 = none ∧ s.inWindow 0 .hbm 0x4000 1024 = true
      ∧ (if (q.device 0).rotation = 4 then (q.device 0).launchQueue.head? else (q.device 0).taken.look (q.device 0).rotation) = some (packet0 0)
      ∧ (if (q4.device 0).rotation = 4 then (q4.device 0).launchQueue.head? else (q4.device 0).taken.look (q4.device 0).rotation) = some (packet0 0)
      ∧ (q4.device 0).rotation < 5 ∧ q.recordLocked 0 (packet0 0) = false ∧ packetStatus (packet0 0) 0 true = none
      ∧ packetStatus (packet0 0) 1 true = some (2, 0) ∧ pkRanges (packet0 0) = 0 ∧ pkSnap (packet0 0) < 2 ^ 63 ∧ pkColl (packet0 0) = 0
      ∧ s.launches.look 0 = some launch0 ∧ launch0.ended = none ∧ launch0.coll = none
      ∧ done.launchOver 0 { launch0 with next := 1 } = true ∧ pkDone (packet0 0) = 0
      ∧ done.launchOver 1 { launch0 with next := 1, pkt := packet0 0x6000, ended := some 1 } = true
      ∧ done.recordLocked 0 (packet0 0x6000) = false ∧ doneBad (packet0 0x6000) = false ∧ (s.device 0).state ≠ .lost
      ∧ s.translateAgent 0 .store (pkDone (packet0 0x6000)) 16 = .ok [{ piece0 0x6000 16 with level := 2 }]
      ∧ s.mem.wf = true ∧ s.host.wf = true := by decide +kernel

/-- A gang whose launch is that of `idle0`. -/
def gang0 : Gang := { bareGang 0 with rows := 1, panels := [], tiles := [], slots := [0] }

/-- A launch that fits and one that does not and has been passed over; gangs that wait, that claim a row, and that are to be reloaded;
a partition without and with a running device at the end of its slice. -/
theorem witness_PlacementEvents :
    let s := idle0
    let core (y : List (Nat × Gang)) : State := { s with cores := [(0, { Core.reset with gangs := y })] }
    let w := core [(0, { gang0 with populated := false })]
    let other : State :=
      let t := core [(0, { gang0 with launch := 1 }), (1, { gang0 with populated := false, claims := [(0, .row 0)] })]
      { t with launches := t.launches.put 1 { launch0 with vd := 1, next := 1 },
               cores := [(0, { t.core 0 with groups := [(0, { g0 with launch := 1, gang := 0, phase := .halted,
                                                                       clause := Clause.idle })] })] }
    let spilled := core [(0, { gang0 with spilled := [.row 0] })]
    let blocked : State := { s with partitions := [(0, { s.partition 0 with ctl := [] })], launches := [(0, { launch0 with passed := 65536 })] }
    s.readyLaunches 0 = [] ++ (0, launch0) :: [] ∧ s.placesFor launch0 = some [(0, 0, { base := 0, panels := [], tiles := [], slots := [0] })]
      ∧ s.launches.look 0 = some launch0
      ∧ blocked.launches.look 0 = some { launch0 with passed := 65536 } ∧ blocked.placesFor { launch0 with passed := 65536 } = none
      ∧ w.gang? 0 0 = some { gang0 with populated := false } ∧ w.crowded 0 0 { gang0 with populated := false } = false
      ∧ w.runs (w.gangVd { gang0 with populated := false }) = true
      ∧ other.gang? 0 1 = some { gang0 with populated := false, claims := [(0, .row 0)] }
      ∧ other.gang? 0 0 = some { gang0 with launch := 1 } ∧ other.quietGang 0 0 { gang0 with launch := 1 } = true
      ∧ other.runs (other.gangVd { gang0 with populated := false, claims := [(0, .row 0)] }) = true
      ∧ other.savedLocked 0 0 { gang0 with launch := 1 } (.row 0) = false ∧ other.mem.wf = true ∧ (other.core 0).scratch.wf = true ∧ gang0.saved.rows.wf = true ∧ (∀ i, i < 148 → gang0.saved.rows.read i = 0)
      ∧ spilled.gang? 0 0 = some { gang0 with spilled := [.row 0] } ∧ spilled.crowded 0 0 { gang0 with spilled := [.row 0] } = false
      ∧ (∀ y ∈ (spilled.core 0).gangs, ∀ x ∈ y.2.claims, x.1 ≠ 0)
      ∧ (s.withPartition 0 fun p => { p with running := none }).chooseDevice 0 = some 0
      ∧ (s.partition 0).running = some 0 ∧ { s with ptp := 1000 * 0x1000000 }.sliceOver 0 0 = true ∧ s.sliceOver 0 0 = false
      ∧ s.haltable 0 = true := by
  decide +kernel

/-- A group at an address, between clauses. -/
def idleGroup (pc : Nat) : Group :=
  { g0 with lanes := (List.range 32).map fun l => (l, { g0.lane l with pc := BitVec.ofNat 64 pc }), clause := Clause.idle }

/-- The machine with that group in its issue slot's order, in a slice that goes on. -/
def issuing (g : Group) : State :=
  let s := (machine.setGroup 0 0 g).withDevice 0 fun d => { d with live := [(8, 0x1000000)] }
  { s.withCore 0 fun x => { x with order := [(0, [0])] } with
    mem := s.mem.writeAll 0x4000 (toBytes 4 0x17FFE000 ++ toBytes 4 0x20000000 ++ toBytes 4 0x1013E000 ++ toBytes 4 0 ++ toBytes 4 0x17FFE001) }

/-- Clauses that are issued, whose header is illegal, and whose counts are not met. -/
theorem witness_GroupEvents_issue :
    let ok (pc : Nat) (h : Nat) : Prop :=
      let s := issuing (idleGroup pc)
      s.slotBusy 0 0 = false ∧ s.issueChoice 0 0 = some (0, idleGroup pc) ∧ (idleGroup pc).issueSet = some (pc, 0, BitVec.allOnes 32)
        ∧ s.translateGroup 0 (idleGroup pc) .fetch pc 4 = .ok [piece0 pc 4] ∧ s.lockedIn [piece0 pc 4] = none
        ∧ ofBytes (s.homeBytes [piece0 pc 4]) = h ∧ s.group? 0 0 = some (idleGroup pc)
    ok 0x4000 0x17FFE000 ∧ ok 0x4008 0x1013E000 ∧ ok 0x4010 0x17FFE001
      ∧ (issuing (idleGroup 0x4000)).translateGroup 0 (idleGroup 0x4000) .fetch 0x4000 8 = .ok [piece0 0x4000 8]
      ∧ misplaced .control 3 [0x20000000] = false ∧ (headerOf 0x17FFE000).zero = 0 ∧ (headerOf 0x17FFE001).zero = 1
      ∧ (headerOf 0x1013E000).ld = 0 ∧ ({ idleGroup 0x4008 with loads := [⟨0, false⟩] } : Group).loads.length = 1 := by decide +kernel

/-- Clauses that are over: every lane has exited, all goes on, and an event stops the group; waits that end and that do not. -/
theorem witness_GroupEvents :
    let gone := { g0 with clause := { g0.clause with idx := 1, ending := .exit, active := BitVec.allOnes 32 } }
    let on' := { g0 with clause := { g0.clause with idx := 1 } }
    let stop := { trapped with clause := { trapped.clause with idx := 1 } }
    let wait (w : Wait) : Group := { g0 with phase := .waiting, wait := some w }
    let late := { idleGroup 0x4000 with passed := 4096, watchdog := 2 ^ 24 }
    let dog : Launch := { launch0 with pkt := (packet0 0).set 0x10 1 }
    let held := { g0 with cause := some .memory, phase := .replayable, clause := Clause.idle }
    (∀ g ∈ [gone, on', stop], (on g).group? 0 0 = some g ∧ g.clause.live = true ∧ g.phase = .resident ∧ g.clause.redo = false
        ∧ g.clause.count ≤ g.clause.idx)
      ∧ (gone.complete none).exitedSet = BitVec.allOnes 32 ∧ (on'.complete none).exitedSet ≠ BitVec.allOnes 32 ∧ (on'.complete none).cause = none
      ∧ on'.applyEnding.clause.events = [] ∧ (stop.complete none).cause = some .noHandler ∧ (machine.slice 0).wards = []
      ∧ (on (wait (.latch []))).group? 0 0 = some (wait (.latch [])) ∧ (on g0).matrixOps 0 < 16 ∧ winLe (winAdd 5 2) 0 = false ∧ winLe (winAdd 0 2) 2 = true
      ∧ (0 : Nat) ≤ (machine.core 0).accepted ∧ ¬ (1 ≤ (machine.core 0).accepted)
      ∧ (on late).group? 0 0 = some late ∧ 4096 ≤ late.passed ∧ late.starved = false ∧ late.issueSet = some (0x4000, 0, BitVec.allOnes 32)
      ∧ pkWdog dog.pkt ≠ 0 ∧ pkWdog dog.pkt * 2 ^ 24 ≤ late.watchdog
      ∧ (on held).group? 0 0 = some held ∧ held.cause ≠ none ∧ held.entries = [] ∧ held.phase ≠ .spilled
      ∧ (issuing held).runs 0 = true ∧ ({ issuing held with ptp := 1000 * 0x1000000 } : State).sliceOver 0 0 = true ∧ (issuing g0).sliceOver 0 0 = false := by decide +kernel

/-- A load that is to return; a store at the head of the queue; misses that wait and that are walked, with a page and with a fault; a
fill; requests of the host within and beyond the memory; versions to reclaim and to settle. -/
theorem witness_MemoryEvents :
    let load := { g0 with loads := [⟨7, false⟩] }
    let e : StoreEntry := { op := 7, slot := 0, launch := 0, vd := 0, va := 0x4000, ver := false, tier := .hbm, bytes := [(0x4000, 1)], rel := false, ef := false }
    let queue := machine.withCore 0 fun x => { x with stores := [e] }
    let m : Miss := { vd := 0, page := 4, core := 0, slot := 0, walking := false }
    let far : Miss := { m with page := 2 ^ 18, walking := true }
    let missing := machine.withDie 0 fun d => { d with misses := [m] }
    let walked := machine.withDie 0 fun d => { d with misses := [{ m with walking := true }] }
    let dead := (machine.setGroup 0 0 { g0 with phase := .waiting, wait := some .walk }).withDie 0 fun d => { d with misses := [far] }
    let v (w : Nat) : Stamp := { window := w, seq := 0, settled := false }
    let old (w : Nat) : Version := { stamp := v w, data := [], resident := true }
    let vs : VersionSet := { part := 0, newest := v 4, older := [old 3], lock := none }
    let held : State := { machine.withDevice 0 (fun d => { d with window := 10 }) with versions := [(0x80, vs)] }
    (on load).group? 0 0 = some load ∧ (∃ x ∈ load.loads, x.op = 7 ∧ x.done = false) ∧ load.wait = none
      ∧ (queue.core 0).stores = e :: [] ∧ (∀ b ∈ e.bytes, queue.locked (b.1 / 128) = false) ∧ queue.mem.wf = true
      ∧ (missing.die 0).misses = [] ++ m :: [] ∧ ((missing.die 0).misses.filter (·.walking)).length < 16
      ∧ (walked.die 0).misses[0]? = some { m with walking := true }
      ∧ (walked.walkOn (some 0) 0 0x4000).outcome = .page page0 ∧ page0.base ≤ 0x4000 ∧ 0x4000 < page0.base + page0.size
      ∧ (walked.walkOn (some 0) 0 0x4000).reads.any (fun a => a / 128 == 0x60)
      ∧ (tableLocked walked).locked 0x60 = true ∧ ((walked.walkOn (some 0) 0 0x4000).reads.all fun a => !walked.locked (a / 128))
      ∧ (dead.walkOn (some 0) 0 (2 ^ 30)).outcome = .fault ⟨2, 2, 0⟩
      ∧ (2 ^ 39 - 1 + 1 ≤ 2 ^ 39 ∨ (2 ^ 44 ≤ 2 ^ 39 - 1)) ∧ ¬ (2 ^ 39 - 1 + 2 ≤ 2 ^ 39 ∨ (2 ^ 44 ≤ 2 ^ 39 - 1))
      ∧ (2 ^ 44 + 6144 * 2 ^ 30 - 1) + 1 ≤ 2 ^ 44 + 6144 * 2 ^ 30 ∧ ¬ ((2 ^ 44 + 6144 * 2 ^ 30 - 1) + 2 ≤ 2 ^ 44 + 6144 * 2 ^ 30) ∧ machine.locked 0 = false
      ∧ held.versions.look 0x80 = some vs ∧ held.partWindow 0 = some 10 ∧ winLe vs.newest.window (winAdd 10 (-2 - (held.hold 0 : Int))) = true
      ∧ (held.partition 0).snaps = []
      ∧ winLe 0 (winAdd (2 ^ 30) (-(2 ^ 30 : Int))) = true ∧ winLe 1 (winAdd (2 ^ 30) (-(2 ^ 30 : Int))) = false := by decide +kernel

/-- A store that is not free, one that must ask for its line, and one that has the right to it; requests at a home; the host's accesses in
their order. -/
theorem witness_MemoryEvents_accesses :
    let e : StoreEntry := { op := 7, slot := 0, launch := 0, vd := 0, va := 0x4000, ver := false, tier := .hbm, bytes := [(0x407F, 1)], rel := false, ef := false }
    let s := (machine.setGroup 0 0 { g0 with stores := [⟨7, false⟩] }).withCore 0 fun x => { x with stores := [e] }
    let line : L2Line := { way := 0, line := 0x80, vd := 0, kept := none, tag := .none, own := true }
    let owning := s.withDie 0 fun d => { d with l2 := [(l2Set 0x80, [line])] }
    let r (k : ReqKind) : HomeReq := { line := 0x80, core := 0, slot := 0, launch := 0, vd := 0, kind := k }
    let q : State := { machine with requests := [r (.own 0 none false), { r (.load 1 none false) with line := 0x81 }] }
    let h : HostReq := { vd := 0, ver := false, addr := 0x4000, what := .read 4 }
    let host : State := { machine with hostq := [h], arrivals := [true] }
    (s.core 0).stores = e :: [] ∧ (lineLocked s).locked 0x80 = true ∧ s.locked 0x80 = false ∧ e.tier ≠ .host ∧ e.ver = false
      ∧ (s.die 0).l2.get (l2Set 0x80) [] = [] ∧ (owning.die 0).l2.get (l2Set 0x80) [] = [line] ∧ FormedMemory s
      ∧ (∃ g, s.group? 0 0 = some g ∧ g.stores = [⟨7, false⟩])
      ∧ q.requests[1]? = some { r (.load 1 none false) with line := 0x81 } ∧ (∀ x ∈ q.requests.take 1, x.line ≠ 0x81) ∧ q.locked 0x81 = false
      ∧ q.requests[0]? = some (r (.own 0 none false)) ∧ host.hostq = h :: [] ∧ host.arrivals.head? ≠ some false
      ∧ ({ host with arrivals := [] } : State).arrivals.head? ≠ some false
      ∧ (∀ i, i < 4 → host.locked ((h.addr + i) / 128) = false) := by
  and_intros <;> decide +kernel

/-- A line of an L2 set. -/
def way (w line vd : Nat) (kept : Option Nat) : L2Line := { way := w, line := line, vd := vd, kept := kept, tag := .none, own := false }

/-- A set whose sixteen ways hold lines, way 15 the one used longest ago; keeper 0 keeps ways 15 and 14. -/
def fullSet : List L2Line := (List.range 16).map fun w => way w (16 * w) (if w = 3 then 1 else 0) (if 14 ≤ w then some 0 else none)

/-- The ways that fills take: the lowest free one; in a full set the oldest line that is not kept, or for a device at its limit the oldest of
its own; a keeper's lowest free way, its oldest unkept one, and none where the keeper keeps all its ways and every line is kept. -/
theorem witness_MemoryEvents_fills :
    OrdinaryWay [way 0 0 0 none, way 2 32 0 none] 0 False 1
      ∧ OrdinaryWay fullSet 1 False 13 ∧ OrdinaryWay fullSet 1 True 3
      ∧ KeeperWay [way 15 0 0 (some 0)] 0 [15, 14] 14 ∧ KeeperWay ((List.range 16).map fun w => way w (16 * w) 0 none) 0 [15, 14] 15
      ∧ (∀ w, ¬ KeeperWay fullSet 0 [15, 14] w)
      ∧ (∀ w, ¬ OrdinaryWay ((List.range 16).map fun w => way w (16 * w) 0 (some (w / 2))) 0 False w) := by
  have full (set : List L2Line) (h : ∀ x, x < 16 → set.any (fun y => y.way == x) = true) :
      ∀ x, ¬ (x < 16 ∧ ∀ y ∈ set, y.way ≠ x) := by
    intro x hx
    have h1 := h x hx.1
    rw [List.any_eq_true] at h1
    obtain ⟨y, hy, he⟩ := h1
    exact hx.2 y hy (by simpa using he)
  refine ⟨.inl ⟨⟨by decide, by decide⟩, fun x hx h => ?_⟩, .inr ⟨full _ (by decide +kernel), way 13 208 0 none, rfl, .inr ⟨fun h => h.1, ?_⟩⟩,
    .inr ⟨full _ (by decide +kernel), way 3 48 1 none, rfl, .inl ⟨trivial, ?_⟩⟩, .inl ⟨⟨⟨by decide, by decide⟩, by decide⟩, fun x hx h => ?_⟩,
    .inr ⟨fun x h => ?_, way 15 240 0 none, rfl, ?_⟩, fun w h => ?_, fun w h => ?_⟩
  · have h0 : x = 0 := by omega
    exact h.2 (way 0 0 0 none) (by decide) h0.symm
  · exact ⟨fullSet.take 13, fullSet.drop 14, by decide +kernel, by decide, by decide +kernel⟩
  · exact ⟨fullSet.take 3, fullSet.drop 4, by decide +kernel, by decide, by decide +kernel⟩
  · have h1 := h.1.1
    simp only [List.mem_cons, List.not_mem_nil, or_false] at h1
    omega
  · have h1 := h.1.1
    simp only [List.mem_cons, List.not_mem_nil, or_false] at h1
    rcases h1 with rfl | rfl
    · exact h.2 (way 15 240 0 none) (by decide +kernel) rfl
    · exact h.2 (way 14 224 0 none) (by decide +kernel) rfl
  · exact ⟨((List.range 16).map fun w => way w (16 * w) 0 none).take 15, [], by decide +kernel, ⟨rfl, by decide, by decide +kernel⟩, by decide⟩
  · have no (h : w ∈ [15, 14] ∧ ∀ y ∈ fullSet, y.way = w → y.kept ≠ some 0) : False := by
      have h1 := h.1
      simp only [List.mem_cons, List.not_mem_nil, or_false] at h1
      rcases h1 with rfl | rfl
      · exact h.2 (way 15 240 0 (some 0)) (by decide +kernel) rfl rfl
      · exact h.2 (way 14 224 0 (some 0)) (by decide +kernel) rfl rfl
    rcases h with h | ⟨-, y, rfl, a, b, -, hy, -⟩
    · exact no h.1.1
    · exact no hy.2
  · rcases h with h | ⟨-, y, -, h | ⟨-, a, b, he, hy, -⟩⟩
    · exact full _ (by decide +kernel) w h.1
    · exact h.1
    · have hm : y ∈ (List.range 16).map fun w => way w (16 * w) 0 (some (w / 2)) := by rw [he]; simp
      obtain ⟨n, -, rfl⟩ := List.mem_map.1 hm
      cases hy

/-- A clause whose fetch faults; one of 7, misplaced; a skip of the whole clause; a group that is to be chosen; waits that hold and that do not. -/
theorem witness_GroupEvents_more :
    let fetch := { idleGroup 0x40000000 with walked := [(0x40000, .fault ⟨2, 0, 0⟩)] }
    let behind := { idleGroup 0x4000 with lanes := (List.range 32).map fun l => (l, { g0.lane l with pc := 0x4000, r := 1 }) }
    let wait (w : Wait) : Group := { g0 with phase := .waiting, wait := some w }
    (issuing fetch).slotBusy 0 0 = false ∧ (issuing fetch).issueChoice 0 0 = some (0, fetch) ∧ fetch.issueSet = some (0x40000000, 0, BitVec.allOnes 32)
      ∧ (issuing fetch).translateGroup 0 fetch .fetch 0x40000000 4 = .fault ⟨2, 0, 0⟩ 0x40000000
      ∧ (lineLocked (issuing (idleGroup 0x4000))).lockedIn [piece0 0x4000 4] = some 0x80
      ∧ behind.issueSet = some (0x4000, 1, BitVec.allOnes 32) ∧ (headerOf 0x17FFE000).count = 1
      ∧ misplaced .control 2 [0x28000000, 0] = true ∧ misplaced .control 1 [0x28000000, 0] = false
      ∧ (0, idleGroup 0x4000) ∈ (issuing (idleGroup 0x4000)).issueOrder 0 0
      ∧ (wait .walk).wait = some .walk ∧ ((on (wait .walk)).die (dieOf 0)).misses.length < 256
      ∧ (on (wait (.line 0x80))).locked 0x80 = false ∧ (lineLocked (on (wait (.line 0x80)))).locked 0x80 = true
      ∧ (∀ r ∈ ({ on (wait (.op 0 true [])) with requests := [atomReq] } : State).requests, r.ofOp 0 = true)
      ∧ (on (wait (.op 0 true []))).requests = []
      ∧ (hasped (on (wait (.hasp 0x4000 0 true)))).hasp 0x4000 = { phase := 0, expected := 1, arrived := 0, owner := 2 ^ 31 }
      ∧ (∃ x, (ringGang .free 0).rings.look 2 = some x ∧ x.canReserve 0 = true ∧ x.canAcquire 0 = false)
      ∧ ({ trapped with cause := some .memory, phase := .spilled, entries := trapped.clause.events } : Group).entries.all (fun e => !e.revoked) = true := by
  and_intros <;> decide +kernel

/-- The machine where the line of the head of the fault record of the group in slot 0 of core 0 is locked by a commit. -/
def recordLocked (s : State) : State :=
  { s with versions := [(0xB800, { part := 0, newest := { window := 0, seq := 0, settled := false }, older := [], lock := some (1, 0) })] }

/-- There the record of that group has a locked line. -/
theorem record_locked (g : Group) (lanes : Nat → Prop) (h : (machine.vdOf g) = 0) : RecordLocked (recordLocked machine) 0 0 g lanes := by
  refine ⟨0x5C0000, by decide +kernel, .inl ?_⟩
  have e : (recordLocked machine).recordAddr ((recordLocked machine).vdOf g) 0 0 = 0x5C0000 := by
    rw [show (recordLocked machine).vdOf g = 0 from h]; decide +kernel
  rw [e]
  exact ⟨by decide, by decide⟩

/-- Where no line is locked, no record has one. -/
theorem record_free (s : State) (c k : Nat) (g : Group) (lanes : Nat → Prop) (h : s.versions = []) : ¬ RecordLocked s c k g lanes := by
  rintro ⟨b, hb, -⟩
  rw [show s.locked (b / 128) = false by unfold State.locked; rw [h]; rfl] at hb
  exact absurd hb (by decide)

/-- A clause whose first fetch, or whose whole fetch, misses or faults; a group that is first in its slot's order and none that has been
passed over. -/
theorem witness_GroupEvents_fetches :
    let far := { idleGroup 0x80000000 with walked := [(0x40000, .fault ⟨2, 0, 0⟩)] }
    let s := issuing (idleGroup 0x4000)
    (issuing far).translateGroup 0 far .fetch 0x80000000 4 = .miss [0x80000]
      ∧ (issuing far).translateGroup 0 far .fetch 0x3FFFFFFC 4 = .ok [piece0 0x3FFFFFFC 4]
      ∧ (issuing far).translateGroup 0 far .fetch 0x3FFFFFFC 8 = .fault ⟨2, 0, 0⟩ 0x40000000
      ∧ (issuing far).translateGroup 0 far .fetch 0x7FFFFFFC 4 = .miss [0x7FFFF]
      ∧ (s.issueOrder 0 0).head? = some (0, idleGroup 0x4000) ∧ (∀ x ∈ s.issueOrder 0 0, x.2.starved = false ∧ x.2.passed < 4096)
      ∧ (lineLocked s).lockedIn [piece0 0x4000 8] = some 0x80 := by decide +kernel

/-- A clause whose end makes its group replayable, with its record's line locked and free; waits for entries and for a tile that are over
and that are not; a hasp whose line is locked. -/
theorem witness_GroupEvents_waits :
    let stop := { trapped with clause := { trapped.clause with idx := 1 } }
    let l : Nat × Latch := (0, scratchLatch 0 16 148 true true)
    (stop.complete none).cause ≠ none ∧ machine.vdOf stop = 0
      ∧ (latches0 (on g0)).latchesOk [l] = false ∧ (on g0).latchesOk [l] = true
      ∧ (under (.zero 0 0) (on g0)).tileBusy 0 0 1 = true ∧ (on g0).tileBusy 0 0 (on g0).nextOp = false
      ∧ (lineLocked (hasped (on g0))).locked (0x4000 / 128) = true ∧ (hasped (on g0)).locked (0x4000 / 128) = false
      ∧ ({ g0 with phase := .waiting, wait := some (.latch [l]) } : Group).wait = some (.latch [l]) := by decide +kernel

theorem witness_GroupEvents_records : RecordLocked (recordLocked machine) 0 0 g0 (fun _ => False)
    ∧ ¬ RecordLocked machine 0 0 g0 (fun _ => False) :=
  ⟨record_locked g0 _ rfl, record_free machine 0 0 g0 _ rfl⟩

/-- A replayable group with entries of a revoked snapshot and of another cause, for a device with a handler and for one without. -/
theorem witness_GroupEvents_revoked :
    let e (l : Nat) (c : ReplayCause) : LaneEvent := { lane := l, what := .replay c 0 0x4000, escalates := false, word := 0, rword := 0, sword := 1 }
    let held := { g0 with cause := some .memory, phase := .replayable, clause := Clause.idle, entries := [e 0 .revoked, e 3 .memory] }
    let s := (issuing held).withDevice 0 fun d => { d with trap := [(0, 0x6001)] }
    (∃ x ∈ held.entries, x.revoked = true) ∧ (held.entries.map (·.lane)).Nodup ∧ (∀ x ∈ held.entries, x.lane < 32)
      ∧ (issuing held).runs (machine.vdOf held) = true ∧ s.runs 0 = true ∧ (s.device 0).handler = some 0x6000 ∧ ((issuing held).device 0).handler = none
      ∧ held.phase ≠ .spilled ∧ (issuing held).group? 0 0 = some held ∧ ((held.lane 0).free (· == .fired)).state ≠ .exited
      ∧ (∀ n, n < 64 → ((issuing held).slice n).wards = []) := by decide +kernel

/-- A version 2^30 windows behind, one almost that far, one 2^31 − 1 and one 2^31 windows behind, and one that is ahead. -/
theorem witness_MemoryEvents_far :
    let far (cur w : Nat) : Prop := 2 ^ 30 ≤ (cur + 2 ^ 32 - w % 2 ^ 32) % 2 ^ 32 ∧ (cur + 2 ^ 32 - w % 2 ^ 32) % 2 ^ 32 < 2 ^ 31
    far (2 ^ 30) 0 ∧ ¬ far (2 ^ 30 - 1) 0 ∧ far (2 ^ 31 - 1) 0 ∧ ¬ far (2 ^ 31) 0 ∧ ¬ far 0 (2 ^ 30 + 7) := by decide

/-! ### Events: fabric, registers, devices, the module, the machine -/

/-- A write of four bytes from rank 1 to device 0. -/
def fab0 (kind : FabKind) : FabOp := { id := 5, from? := none, src := 1, dst := 0, window := 0, vd := 0, off := 0, kind := kind, forwarded := false }

/-- The machine whose device 0 has job `job0` and its segment at 0x4000. -/
def member : State := machine.withDevice 0 fun d => { d with job := some job0, fabric := [(8, 0x4000)], window := 1 }

theorem witness_MarkersAndNotices :
    let m : Marker := { vd := 0, src := 1, window := 0, count := 0 }
    let n : Notice := { vd := 0, src := 1, id := 5, window := 0 }
    let o := op0 (.fabric 0x10 0 1 0 16 none) .copies
    let s : State := { member with markersIn := [m], noticesIn := [n], ops := [(5, o)] }
    s.markersIn[0]? = some m ∧ s.noticesIn[0]? = some n ∧ s.ops.look 5 = some o ∧ s.withTarget 5 = false ∧ (s.device 0).job = some job0
      ∧ (machine.device 0).job = none ∧ (1, 5) ∉ (s.device 0).done := by decide +kernel

/-- An operation that arrives in each state of its device, and held ones that may be performed and that may not. -/
theorem witness_FabricOperations :
    let x := fab0 (.put [1, 2, 3, 4])
    let s : State := { member with wire := [x] }
    let at' (st : DevState) : State := s.withDevice 0 fun d => { d with state := st }
    let held (y : FabOp) : State := member.withDevice 0 fun d => { d with held := [(y, false)] }
    let late := { x with window := 2 }
    s.wire[0]? = some x ∧ (at' .forwarding).wire[0]? = some x ∧ ((at' .lost).device 0).state = .lost ∧ ((at' .frozen).device 0).state = .frozen
      ∧ ((at' .collapsed).device 0).state = .collapsed ∧ (x.src, x.id) ∉ (s.device 0).given
      ∧ ((held x).device 0).held[0]? = some (x, false) ∧ winLe x.window 1 = true ∧ winLe late.window 1 = false
      ∧ s.translateAgent 0 .store 0x4000 4 = .ok [walked0 0x4000 4] ∧ s.translateAgent 0 .load 0x4000 4 = .ok [walked0 0x4000 4]
      ∧ s.translateAgent 0 .atomic 0x4000 16 = .ok [walked0 0x4000 16] ∧ (∀ p ∈ [walked0 0x4000 16], p.page.tier ≠ .host)
      ∧ ((byteAddrs [walked0 0x4000 16]).map (·.1)).Nodup ∧ 0x4000 % 16 = 0 ∧ (List.replicate 32 (0 : Byte)).length % 16 = 0
      ∧ s.translateAgent 0 .store (0x4000 + 2 ^ 30) 4 = .fault ⟨2, 2, 0⟩ (0x4000 + 2 ^ 30)
      ∧ (tableLocked s).translateAgent 0 .store 0x4000 4 = .miss [4] ∧ (lineLocked s).lockedIn [walked0 0x4000 4] = some 0x80
      ∧ s.lockedIn [walked0 0x4000 4] = none ∧ hostPiece.page.tier = .host
      ∧ (hasped s).haspAddr 0 0x4000 [walked0 0x4000 16] = some (walked0 0x4000 16).addr ∧ s.haspAddr 0 0x4000 [walked0 0x4000 16] = none
      ∧ 0x4000 + (2 ^ 64 - 0x4000) ≤ 2 ^ 64
      ∧ (0x4000 + x.off) % 2 ^ 64 = 0x4000 ∧ FormedMemory member := by
  unfold FormedMemory; decide +kernel

/-- Held operations that may be performed, that carry a later window, that wait behind an earlier one of a device that wakes, and direct ones
behind a forwarded one. -/
theorem witness_MayPerform :
    let x := fab0 (.put [1, 2, 3, 4])
    let held (y : FabOp) : State := member.withDevice 0 fun d => { d with held := [(y, false)] }
    let late := { x with window := 2 }
    let second := { x with window := 1, id := 6 }
    let asleep := member.withDevice 0 fun d => { d with held := [({ x with window := 0 }, true), (second, true)] }
    let behind := (held x).withDevice 0 fun d => { d with forward := [x] }
    MayPerform (held x) 0 x false ∧ ¬ MayPerform (held late) 0 late false ∧ ¬ MayPerform asleep 0 second true
      ∧ ¬ NoneForwarded behind 0 0 ∧ MayPerform behind 0 { x with forwarded := true } false := by
  unfold MayPerform NoneForwarded
  refine ⟨?_, ?_, ?_, ?_, ?_⟩ <;> decide +kernel

/-- Completions of a group and of a channel; contributions to a slot that is absent, closed, open and full; a processor that switches. -/
theorem witness_CompletionsAndSlots :
    let a : Ack := { id := 5, status := 0, detail := 0, data := [] }
    let o := op0 (.fabric 0x10 0 1 0 16 none) .copies
    let s : State := { member.setGroup 0 0 g0 with acks := [a], ops := [(5, o)] }
    let oc : EngOp := { op0 (.channel 0 0 1 0x4000 2 true) .copies with core := 192, pages := [page0] }
    let t : State := { onChan { chan0 with sends := [5] } with acks := [a], ops := [(5, oc)] }
    let c : DWord := BitVec.ofNat 64 (1 + 2 ^ 32)
    let slot (conf : Option DWord) (cs : List (Nat × List DWord)) : CombSlot :=
      { vd := 0, comm := 0, k := 0, conf := conf, staged := [], contribs := cs, result := none }
    let x := fab0 (.contrib 0 0 [7])
    let r (sl : CombSlot) : State := { (member.withDevice 0 fun d => { d with held := [(x, false)] }) with comb := [(3, sl)] }
    s.acks[0]? = some a ∧ s.ops.look 5 = some o ∧ s.group? 0 0 = some g0 ∧ g0.launch = o.launch ∧ g0.gang = o.gang ∧ o.ctr = .copies
      ∧ t.ops.look 5 = some oc ∧ t.channel? 0 0 = some { chan0 with sends := [5] } ∧ t.destFree oc 0x4000 2 = true ∧ (lineLocked t).destFree oc 0x4000 2 = false
      ∧ chan0.launch = oc.launch ∧ Landable t oc [(0x4000, 1), (0x4001, 2)] ∧ (∀ n, (t.slice n).wards = [])
      ∧ ((r (slot none [])).device 0).held[0]? = some (x, false) ∧ (r (slot none [])).slotOf 0 1 0 = none
      ∧ (r (slot none [])).slotOf 0 0 0 = some (3, slot none []) ∧ slotConf c = some (1, 0, 1)
      ∧ (r (slot (some c) [])).slotOf 0 0 0 = some (3, slot (some c) []) ∧ [(7 : DWord)].length = 1
      ∧ (r (slot (some c) [(1, [])])).slotOf 0 0 0 = some (3, slot (some c) [(1, [])])
      ∧ (0, chan0) ∈ ((onChan chan0).hinge 0).chans ∧ (onChan chan0).chanReady chan0 = true
      ∧ MayPerform (r (slot none [])) 0 x false ∧ (x.src, x.id) ∉ (member.device 0).given
      ∧ (4 * [(7 : DWord)].length ≤ 2 ^ 20 ∧ ¬ (∀ y ∈ [x], y.src ≠ x.src))
      ∧ [(0, []), (1, [(7 : DWord)])].Perm [(1, [7]), (0, [])] ∧ [(0, ([] : List DWord)), (1, [7])].Pairwise (fun a b => a.1 < b.1)
      ∧ ((onChan chan0).withHinge 0 fun h => { h with switch := true }).hinge 0 ≠ (onChan chan0).hinge 0
      ∧ ((onChan chan0).hinge 0).switch = false ∧ 2 ^ 21 ≤ (((onChan chan0).withHinge 0 fun h => { h with ran := 2 ^ 21 }).hinge 0).ran := by
  and_intros <;> first
    | decide +kernel
    | exact fun _ => rfl
    | exact List.pairwise_singleton _ _
    | (unfold NoneForwarded; decide +kernel)
    | (intro x hx
       simp only [List.mem_cons, List.not_mem_nil, or_false] at hx
       obtain rfl | rfl := hx <;> exact ⟨_, rfl⟩)
    | (intro x hx x' hx' z z' h h' e
       simp only [List.mem_cons, List.not_mem_nil, or_false] at hx hx'
       obtain rfl | rfl := hx <;> obtain rfl | rfl := hx' <;> first | rfl | (cases h; cases h'; exact absurd e (by decide)))

/-- A write of a register. -/
def wr (writer : Writer) (block : RegBlock) (index offset : Nat) (value : DWord) : RegWrite :=
  { writer := writer, block := block, index := index, offset := offset, value := value }

/-- A state whose step takes a write. -/
def taking (s : State) (w : RegWrite) : State := { s with regWrites := [w], actor := .access w }

/-- Writes that are plain and special, allowed and not; a tail that fills a queue of one and one beyond it; a device with nothing under way. -/
theorem witness_RegisterEvents :
    let trap := wr .hypervisor .trap 0 0 0x100000000000001
    let tinv := wr .hypervisor .xlate 0 0x40 0
    let s := idle0
    let q : State := machine.withDevice 0 fun d => { d with tinv := some (0, 4096) }
    writeSpecial trap = false ∧ MayWrite machine trap ∧ ¬ MayWrite machine (wr .guest .trap 0 0 1)
      ∧ Arrived (taking machine trap) trap ∧ ¬ MayWrite { machine with module := { machine.module with svc := 0 } } (wr .monitor .partition 0 0 1)
      ∧ BlockOf machine 0 (wr (.plugin 0) .trap 0 0 1) ∧ ¬ BlockOf machine 1 (wr (.plugin 1) .trap 0 0 1)
      ∧ canonical 0x100000000000000 = false
      ∧ canonical 0x4000 = true ∧ writeSpecial (wr .hypervisor .trap 127 8 1) = false ∧ (127 : Nat) < 128
      ∧ writeSpecial (wr .hypervisor .queue 0 0x90 1) = false ∧ writeSpecial (wr .hypervisor .vdev 0 0x28 1) = false
      ∧ (wr .hypervisor .keeper 3 0xF0 0).offset % 0x20 = 0x10 ∧ (0#64).getLsbD 63 = false
      ∧ ((wr .monitor .partition 23 0x10 3).index < 24) ∧ (∀ x ∈ machine.partitions, x.1 ≠ 23 → x.2.ctl.get 0x10 0 &&& 3#64 = 0)
      ∧ (s.device 0).tinv = none ∧ (tinv.value.extractLsb' 61 2).toNat < 2 ∧ (q.device 0).tinv = some (0, 4096)
      ∧ (∃ l ∈ s.launches, l.2.vd = 0) ∧ (∀ l ∈ s.launches, l.2.vd ≠ 1) ∧ (∀ y ∈ s.allGangs, s.gangVd y.2.2 ≠ 1)
      ∧ (1 + 2 ^ 32 - 0) % 2 ^ 32 ≤ 2 ^ min (((s.device 0).queue.get 0 0).extractLsb' 0 4).toNat 12
      ∧ 2 ^ min (((s.device 0).queue.get 0 0).extractLsb' 0 4).toNat 12 < (2 + 2 ^ 32 - 0) % 2 ^ 32 := by
  and_intros <;> first
    | decide +kernel
    | exact .inl (by decide)
    | exact fun h => absurd (show RegBlock.trap = RegBlock.guest from h.1) (by decide)
    | exact fun h => h.2.elim (fun h => absurd rfl h) fun h => h (.inl rfl)
    | exact .inr ⟨.inr (.inr (.inr (.inr (.inl rfl)))), by decide +kernel⟩
    | exact fun h => h.elim (fun h => absurd h.1 (by decide)) fun h => absurd h.2 (by decide +kernel)

/-- No access of device 0 is under way, no collective is bound, no group waits for a commit, and the numbers of launches and devices rise. -/
theorem witness_quiet : NoneUnderWay machine 0 0 (2 ^ 64) ∧ NoCommitWaits idle0 ∧ NothingOpens idle0 0 ∧ Rising idle0.launches ∧ Rising idle0.devices := by
  refine ⟨⟨by decide +kernel, fun _ h => absurd h List.not_mem_nil, by decide +kernel, fun _ h => absurd h List.not_mem_nil⟩, ?_,
    ⟨fun g h => absurd h (by rw [show idle0.allGroups = [] by decide +kernel]; exact List.not_mem_nil), by decide +kernel,
     fun k h => absurd h (by rw [show (idle0.device 0).ckpt = none by decide +kernel]; exact nofun)⟩, ?_, ?_⟩
  · unfold NoCommitWaits; decide +kernel
  · unfold Rising; decide +kernel
  · unfold Rising; decide +kernel

/-- The states in which each command acts and those in which it does not: quanta, save areas, classes, jobs, cuts, images. -/
theorem witness_DeviceCommands :
    let cmd (n : Nat) : RegWrite := wr .hypervisor .vdev 1 0x38 (BitVec.ofNat 64 n)
    let s (d : Device) : State := { machine with devices := [(0, dev0), (1, d)] }
    let fresh : Device := { Device.reset with ctl := [(0, 0x2000000000000), (8, 0xFFFFFFFF)], trap := [(0x18, 0xFFFFFFFF)] }
    let act := { fresh with state := .active }
    let image : Image := { bytes := [(.hbm, 0x100, 1)], device := act, launches := [], gangs := [], channels := [], slots := [], copies := [], latches := [] }
    let inn : State := { s fresh with images := [(0, image)] }
    Command (taking (s act) (cmd 1)) (cmd 1) 1 ∧ (s act).coreCount 0 = 8
      ∧ fresh.state = .none ∧ ((fresh.ctl.get 8 0).extractLsb' 0 32).toNat ≠ 0 ∧ 4 * (s fresh).saveBound fresh 8 ≤ ((fresh.ctl.get 8 0).extractLsb' 0 32).toNat
      ∧ 24 ≤ ((fresh.trap.get 0x18 0).extractLsb' 0 32).toNat ∧ fresh.cls = 2
      ∧ act.job = none ∧ (∀ l ∈ (s act).launches, l.2.vd ≠ 1) ∧ (s act).hasWork 1 = false ∧ (s dev0).hasWork 0 = true
      ∧ winBefore 2 (winAdd 0 2) = false ∧ winBefore 1 (winAdd 0 2) = true
      ∧ (s act).pbound act.part .hbm = 0x40000000 ∧ ({ act with ctl := act.ctl.put 0x40 0x3FFFFFC0 } : Device).ctl.get 0x40 0 = 0x3FFFFFC0
      ∧ inn.images.look 0 = some image
      ∧ (let t := (begun (taking inn (cmd 8)) (cmd 8)).withDevice 1 fun d => image.device.restored d inn.ptp
         t.createStatus 1 = 0 ∧ t.windowsFit (t.device 1) act.part = true ∧ t.placeChannels 0 [] ≠ none) ∧ inn.mem.wf = true :=
  ⟨⟨⟨rfl, fun _ => by decide⟩, by decide +kernel, rfl, rfl, rfl, by decide, by decide, by decide +kernel⟩, by decide +kernel⟩

/-- The descriptor of a job that the machine can join: rank 0 of two, segments of 2 MiB, windows of 1 µs from window 2 on. -/
theorem witness_DeviceCommands_join :
    let b : List Byte := toBytes 8 1 ++ toBytes 2 0 ++ toBytes 2 1 ++ [21, 0] ++ toBytes 2 0 ++ toBytes 8 1000 ++ toBytes 4 2 ++ toBytes 4 0
      ++ toBytes 8 0x8000 ++ List.replicate 24 0
    b.length = 64 ∧ machine.joinRefused 0 b = false ∧ machine.joinRefused 0 (b.set 0x0C 20) = true := by decide +kernel

/-- Devices that are idle, that collapse, that wake, that are due for their next window with and without a peer's marker, that freeze
and that forward. -/
theorem witness_DeviceEvents :
    let lone : State := { machine with launches := [], cores := [], ptp := 8000, devices := [(0, { dev0 with idleSince := some 0, live := [(0x28, 1)] })] }
    let due : State := member.withDevice 0 fun d => { d with wStart := 0, wFirst := 1, wLen := 8000 }
    let mark (r : Nat) : Marker := { vd := 0, src := r, window := 0, count := 0 }
    let complete := due.withDevice 0 fun d => { d with markers := [mark 0, mark 1] }
    lone.idle 0 = true ∧ (lone.device 0).idleSince = some 0 ∧ 0 + 1000 * 1 ≤ lone.ptp ∧ (lone.device 0).budgetAt + 1000 ≤ lone.ptp
      ∧ (lone.device 0).state ≠ .none ∧ (∀ l ∈ lone.launches, l.2.vd ≠ 0) ∧ (∀ o ∈ lone.ops, o.2.vd ≠ 0)
      ∧ due.ptp < (due.device 0).wStart + (winAdd 1 1 + 2 ^ 32 - 1 % 2 ^ 32) % 2 ^ 32 * 8000
      ∧ (due.device 0).wStart + (winAdd 1 1 + 2 ^ 32 - 1 % 2 ^ 32) % 2 ^ 32 * 8000 ≤ 8000 ∧ (due.device 0).job = some job0 ∧ job0.fresh = false
      ∧ (∀ m ∈ (due.device 0).markers, m.src ≠ 1)
      ∧ (∀ r, r < 2 → ∃ m ∈ (complete.device 0).markers, m.src = r ∧ m.window = winAdd 1 (-1)
            ∧ m.count ≤ (complete.device 0).performed.get (winAdd 1 (-1) % 2 ^ 32 * 2 ^ 16 + r % 2 ^ 16) 0)
      ∧ (complete.device 0).cut = none ∧ (complete.device 0).state = .active := by decide +kernel

/-- A mailbox, a module in reduced service, sags, errors of each scope, partitions that run, and checkpoints. -/
theorem witness_ModuleEvents :
    let w := wr .hypervisor .module 0 0x100 2
    let training : State := { State.reset with module := { Module.reset with svc := 1 } }
    let quiet := { g0 with clause := Clause.idle }
    let k : Checkpoint := { opened := true, checked := true, entry := 0, key := 0xFFFF, shards := [], dst := 0 }
    let ck := machine.withDevice 0 fun d => { d with ckpt := some k }
    (taking machine w).actor = .access w ∧ machine.module.mbox.wf = true ∧ w.value.toNat % 2 ^ 32 = 2 ∧ machine.module.svc ≠ 0
      ∧ State.reset.module.svc = 0 ∧ training.module.svc = 1 ∧ training.allGroups = []
      ∧ ({ State.reset with ptp := 10000, module := { Module.reset with sag := 1 } } : State).module.sagAt + 10000 ≤ 10000
      ∧ (on quiet).group? 0 0 = some quiet ∧ quiet.cause = none ∧ quiet.clause.live = false
      ∧ (machine.device 0).state ≠ .none ∧ (machine.device 0).state ≠ .lost ∧ (machine.device 0).part = 0
      ∧ (ck.device 0).ckpt = some k ∧ k.shards.map (ck.shardPieces 0) = ([] : List (List Piece)).map some ∧ ck.store.wf = true ∧ ck.host.wf = true
      ∧ machine.module.stopped.get 0 false = false
      ∧ (machine.device 0).ckpt = none ∧ machine.openResult 0 0 (machine.device 0).ckWindow = .wait 0
      ∧ (machine.withDevice 0 fun d => { d with window := 5 }).openResult 0 5 0 = .refused 2
      ∧ (machine.withDevice 0 fun d => { d with window := 2 }).openResult 0 2 0 = .opened 0 ∧ machine.shardList 0 = none
      ∧ (∀ n, n < 64 → (machine.slice n).wards = []) := by decide +kernel

/-- An instruction that decodes, one of a greater level than the launch's, a word that is none, a channel's word, an event, and no turn at all. -/
theorem witness_StepRunsDecoded :
    let s := State.reset.place .scalar [0#32]
    let low : State := { State.reset.place .scalar [0x64000000#32] with launches := [(0, { bareLaunch 0 with pkt := List.replicate 9 0 ++ [1] })] }
    let h := State.reset.place .hinge [0x84000000#32]
    s.agenda = .word 0 0 :: [] ∧ (∃ g, s.group? 0 0 = some g ∧ g.clause.live = true ∧ g.phase = .resident ∧ g.clause.idx < g.clause.count
        ∧ g.clause.active ≠ 0 ∧ (∃ i, decode g.clause.cls (g.clause.words.drop g.clause.idx) = .ok (i, 1) ∧ i.level ≤ 3))
      ∧ (∃ i, decode .scalar [0x64000000#32] = .ok (i, 1) ∧ (low.launches.look 0).elim 0 Launch.level < i.level)
      ∧ decode .scalar [0xFC000000#32] = .error .unassigned
      ∧ h.agenda = .hinge 0 :: [] ∧ (h.hinge 0).running = some 0 ∧ (h.hinge 0).switch = false ∧ (h.hinge 0).ran < 2 ^ 21 ∧ (∃ ch, (h.hinge 0).chans.look 0 = some ch ∧ h.chanReady ch = true
          ∧ (h.device ch.vd).throttled = false ∧ ch.word = some 0x84000000#32 ∧ decodeHingeWord 0x84000000#32 = .ok .hingeNop ∧ ch.hlev = 3)
      ∧ Instr.engineClass .windowEnter = none ∧ State.reset.agenda = [] := by
  and_intros <;> first
    | decide +kernel
    | exact ⟨_, rfl, rfl, rfl, by decide +kernel, by decide +kernel, ⟨_, rfl, by decide +kernel⟩⟩
    | exact ⟨_, rfl, by decide +kernel⟩

/-- Instructions whose words decode to them again, of a clause and of a hinge program. -/
theorem witness_EncodeDecode :
    let i : Instr := .imadB32 { ctl := { plain with mask := 3 }, wid := 2, d := 4, a := 8, b := .vec 12 (.perm 31), c := 16 }
    let f : HingeFields := { a := 1, b := 2, c := 4, imm := 1 }
    i.check = none ∧ i.engineClass = some .vector ∧ decode .vector (encode i ++ [0]) = .ok (i, 2)
      ∧ Instr.hingePutsig.hingeCheck f = none ∧ (encodeHinge .hingePutsig f).isSome = true := by decide +kernel

/-- The forms that the invariants state hold of the machine after reset, which has a step. -/
theorem witness_forms : MemoryForm State.reset ∧ TablesForm State.reset ∧ GroupsForm State.reset ∧ MemoryForm machine := by
  refine ⟨by unfold MemoryForm; decide +kernel, ⟨?_, ?_, ?_, ?_, ?_, ?_, ?_⟩, ⟨?_, ?_, ?_, ?_, ?_, ?_⟩, by unfold MemoryForm; decide +kernel⟩ <;>
    first
    | exact List.Pairwise.nil
    | (intro _ h; exact absurd h (List.not_mem_nil))
    | (intro _ _ h; exact absurd h (List.not_mem_nil))
    | rfl

/-- A set of a keeper that a write ends, and offsets that end none; a way that another partition has; an invalidation under way and of mode
2, and one of no pages; a device that has a launch, and one that has nothing. -/
theorem witness_RegisterEvents_more :
    let ends (w : RegWrite) : Prop := w.offset % 0x20 = 0x10 ∧ w.offset < 0x100 ∧ w.index < 4 ∧ w.value.getLsbD 63 = false
    let taken' := machine.withPartition 1 fun p => { p with ctl := [(0x10, 3)] }
    let tinv (v : DWord) : RegWrite := wr .hypervisor .xlate 0 0x40 v
    ends (wr .hypervisor .keeper 3 0xF0 0) ∧ ¬ ends (wr .hypervisor .keeper 3 0xF0 0x8000000000000000) ∧ ¬ ends (wr .hypervisor .keeper 4 0x10 0)
      ∧ (∃ x ∈ taken'.partitions, x.1 ≠ 0 ∧ x.2.ctl.get 0x10 0 &&& 1#64 ≠ 0) ∧ (∀ x ∈ taken'.partitions, x.1 ≠ 1 → x.2.ctl.get 0x10 0 &&& 3#64 = 0)
      ∧ ((tinv 0x4000000000000000).value.extractLsb' 61 2).toNat = 2 ∧ ((tinv 0x2000000000000000).value.extractLsb' 61 2).toNat = 1
      ∧ ((tinv 0x2000000000000000).value.extractLsb' 0 32).toNat = 0
      ∧ (∃ l ∈ idle0.launches, l.2.vd = 0) ∧ (∀ l ∈ idle0.launches, l.2.vd ≠ 1) ∧ idle0.allGroups = [] ∧ idle0.allGangs = []
      ∧ (wr .guest .guest 127 0x10 3).index < 128 ∧ (wr .hypervisor .queue 0 0x68 1).offset = 0x68 := by
  and_intros <;> decide +kernel

/-- Devices that may be destroyed and of which nothing is left; one that takes a group of cores that a device of class 3 has; a window that
does not fit its partition; a device that is to end its forwarding, and one whose job has begun a window afresh. -/
theorem witness_DeviceCommands_more :
    let gone : Device := { dev0 with ctl := [(0x38, 2)], busy := true }
    let s : State := { machine with devices := [(0, gone)], launches := [], cores := [] }
    let three : Device := { dev0 with ctl := [(0, 0x3000000000000), (0x30, 1)] }
    let two : Device := { Device.reset with ctl := [(0, 0x2000000000000), (0x30, 3)] }
    let clash : State := { machine with devices := [(0, three), (1, two)] }
    let fwd : Device := { dev0 with state := .forwarding, busy := true, ctl := [(0x38, 9)] }
    let fresh := member.withDevice 0 fun d => { d with job := some { job0 with fresh := true } }
    (s.device 0).dying = true ∧ (∀ l ∈ s.launches, l.2.vd ≠ 0) ∧ (∀ o ∈ s.ops, o.2.vd ≠ 0) ∧ NoneUnderWay s 0 0 (2 ^ 64)
      ∧ (∃ x ∈ clash.devices, x.1 ≠ 1 ∧ x.2.part = (clash.device 1).part ∧ x.2.state ≠ .none ∧ x.2.cls = 3
          ∧ x.2.ctl.get 0x30 0 &&& (clash.device 1).ctl.get 0x30 0 ≠ 0)
      ∧ (let mine : Device := { two with ctl := [(0, 0x3000000000000), (0x30, 3)] }
         mine.cls = 3 ∧ clash.classOk 1 mine = false)
      ∧ machine.windowsFit dev0 0 = true ∧ machine.windowsFit { dev0 with xlate := dev0.xlate.put 0x18 0x40001000 } 0 = false
      ∧ fwd.state = .forwarding ∧ fwd.forwarded = 0 ∧ ((fwd.ctl.get 0x38 0).extractLsb' 0 8).toNat = 9
      ∧ ((fresh.device 0).job.map (·.fresh)) = some true ∧ (fresh.device 0).granted = [] ∧ (fresh.device 0).ckpt = none := by
  and_intros <;> first
    | decide +kernel
    | exact fun _ h => absurd h List.not_mem_nil

/-- A mailbox with each command in progress, and one in recovery; errors of lanes between clauses and within one, behind its last word, of
no lane; of an operation with its group and without; a plug-in that has been stopped. -/
theorem witness_ModuleEvents_errors :
    let quiet := { g0 with clause := Clause.idle }
    let o := op0 (.zero 0 0) .tiles
    let s (g : Group) : State := { on g with ops := [(3, o)] }
    let none' : State := { machine with ops := [(3, o)], cores := [] }
    ({ Module.reset with cmd := some 1 } : Module).cmd = some 1 ∧ ({ Module.reset with cmd := some 2 } : Module).cmd = some 2
      ∧ Module.reset.cmd = none ∧ Module.reset.svc = 0
      ∧ (on quiet).group? 0 0 = some quiet ∧ quiet.clause.live = false ∧ quiet.cause = none ∧ quiet.phase ≠ .spilled ∧ (1 : LaneSet) ≠ 0
      ∧ (on g0).group? 0 0 = some g0 ∧ g0.clause.live = true ∧ g0.clause.idx < g0.clause.count ∧ g0.clause.active &&& 1 ≠ 0
      ∧ g0.clause.active &&& 4 = 0 ∧ ({ g0 with clause := { g0.clause with idx := 1 } } : Group).clause.count ≤ 1
      ∧ (s g0).ops.look 3 = some o ∧ (s g0).ops.look 4 = none ∧ (s g0).group? o.core o.slot = some g0 ∧ g0.gang = o.gang
      ∧ none'.ops.look 3 = some o ∧ none'.group? o.core o.slot = none ∧ none'.gang? o.core o.gang = none
      ∧ ({ machine with module := { machine.module with stopped := [(0, true)] } } : State).module.stopped.get 0 false = true
      ∧ Rising machine.devices := by unfold Rising; decide +kernel

/-- A device whose page has VER, and whose list of shards, at 0x4000, names 128 bytes at 0x8000. -/
def sharded (x : Option Checkpoint) : State :=
  let s := machine.withDevice 0 fun d => { d with window := 2, queue := [(0x88, 0x4000)], ckpt := x }
  { s with mem := (s.mem.write 0x3007 0x86).writeAll 0x4000 (toBytes 8 1 ++ toBytes 8 0x8000 ++ toBytes 8 128) }

/-- The piece of the shard. -/
def shard0 : Piece := { walked0 0x8000 128 with page := { page0 with ver := true } }

/-- A key that is opened, with shards that exceed the share and shards within it; a list whose walks wait; a checkpoint with its shards, which
waits for a locked line of them, whose shards are gone, and which can complete. -/
theorem witness_ModuleEvents_checkpoints :
    let k : Checkpoint := { opened := true, checked := true, entry := 0, key := 0xFFFF, shards := [(0x8000, 128)], dst := 0 }
    let s := sharded none
    let c := sharded (some k)
    let room := s.withPartition 0 fun p => { p with ctl := p.ctl.put 0x68 1 }
    let lost := sharded (some { k with shards := [(0x40000000, 128)] })
    let locked : State :=
      { c with versions := [(0x100, { part := 0, newest := { window := 0, seq := 0, settled := true }, older := [], lock := some (1, 0) })] }
    s.openResult 0 2 0 = .opened 0 ∧ s.shardList 0 = some [(0x8000, 128)] ∧ s.listed 0 = [(0x8000, 128)]
      ∧ (((s.partition 0).ctl.get 0x68 0).extractLsb' 0 12).toNat * 2 ^ 30 < 128
      ∧ 128 ≤ (((room.partition 0).ctl.get 0x68 0).extractLsb' 0 12).toNat * 2 ^ 30
      ∧ (tableLocked s).shardList 0 = none ∧ ((tableLocked s).translateAgent 0 .snapshot 0x8000 128).waits = true
      ∧ (c.device 0).ckpt = some k ∧ (c.device 0).throttled = false ∧ (c.translateAgent 0 .snapshot 0x8000 128).waits = false
      ∧ k.shards.map (c.shardPieces 0) = [[shard0]].map some ∧ c.lockedIn [shard0] = none
      ∧ locked.lockedIn [shard0] = some 0x100 ∧ lost.shardPieces 0 (0x40000000, 128) = none := by decide +kernel

/-- A completion of the part that a moving device's operation had sent, the last of it, and one of a device that stays; a program that has
failed, with a `get` under way and without. -/
theorem witness_CompletionsAndSlots_parts :
    let moving := member.withDevice 0 fun d => { d with cut := some 1 }
    let part (done size unit : Nat) (sig : Option (Nat × Nat × Nat)) : Bool := decide (done < size / unit + if sig.isSome then 1 else 0)
    let failed : Channel := { chan0 with failed := some (8, 1), word := none, wait := some (.get 5) }
    let read := { failed with wait := none }
    (moving.device 0).moving = true ∧ (member.device 0).moving = false
      ∧ part 15 16 1 none = true ∧ part 16 16 1 none = false ∧ part 16 16 1 (some (2, 1, 0)) = true ∧ part 3 16 4 none = true ∧ part 4 16 4 none = false
      ∧ failed.getting = some 5 ∧ failed.wait = some (.get 5) ∧ read.getting = none ∧ read.sends = []
      ∧ 1 ∈ (chan0.credit 1 false).nocredit ∧ 1 ∉ ((chan0.credit 1 false).credit 1 true).nocredit ∧ 2 ∉ (chan0.credit 1 false).nocredit
      ∧ (onChan chan0).chanReady failed = false := by decide +kernel

/-- A notice of a rank without a usable route, and of one that a route leads to; a write to be given up; a device that keeps one. -/
theorem witness_MarkersAndNotices_kept :
    let n : Notice := { vd := 0, src := 0, id := 5, window := 1 }
    let near := member.withDevice 0 fun d => { d with conns := [(1, .here 3)], unsent := [(1, .notice n)] }
    member.route 0 1 = .absent ∧ near.route 0 1 = .here 3 ∧ near.routeHeld 0 1 = none ∧ decide ((0x10 : Nat) ≠ 0x12) = true
      ∧ (1, .notice n) ∈ (near.device 0).unsent ∧ (near.device 0).unsent ≠ [] := by decide +kernel

/-- An access of a device that is under way: a request, and the commit of a spilled group. -/
theorem witness_RegisterEvents_underWay : ¬ NoneUnderWay { machine with requests := [atomReq] } 0 0 (2 ^ 64)
    ∧ ¬ NoneUnderWay (machine.setGroup 0 0 (committing tx0)) 0 0 (2 ^ 64) :=
  ⟨fun h => (h.2.1 atomReq (List.mem_singleton.2 rfl)).elim (fun h => h rfl) fun h => h.elim
      (fun ⟨_, _, _, h⟩ => by cases h) (fun ⟨_, _, h⟩ => by cases h),
   fun h => by
    have hc : (0, (machine.setGroup 0 0 (committing tx0)).core 0) ∈ (machine.setGroup 0 0 (committing tx0)).cores := by decide +kernel
    exact (h.2.2.1 _ hc).1 (0, committing tx0) (by decide +kernel) (by decide +kernel) rfl⟩

/-- A descriptor whose line is locked, one that is free, and one that the module's state refuses; an image that has a transfer to send by a
route whose entry is locked. -/
theorem witness_DeviceCommands_held :
    let s := lineLocked machine
    let f : EngOp := op0 (.fabric 0x10 0 1 0 16 none) .copies
    let image : Image := { bytes := [], device := dev0, launches := [], gangs := [], channels := [], slots := [], copies := [(5, f)], latches := [] }
    s.lockedAt .hbm (s.reloc 0 .hbm 0x4000) 64 = some 0x80 ∧ machine.lockedAt .hbm (machine.reloc 0 .hbm 0x4000) 64 = none
      ∧ s.lockedAt .hbm (s.reloc 0 .hbm 0x4080) 64 = none ∧ State.reset.module.svc ≠ 2
      ∧ (routeLocked (jobbed machine)).reissueHeld 0 image = true ∧ (jobbed machine).reissueHeld 0 image = false := by decide +kernel

/-- Limits that are disabled, 0, with a budget of 0 and below it; a window that is not due for a device with a marker that it keeps. -/
theorem witness_DeviceEvents_limits :
    let d (r : DWord) (b : Int) : Device := { dev0 with live := [(0x18, r)], bytes := b }
    let m : Marker := { vd := 0, src := 0, window := 0, count := 3 }
    let due : State := member.withDevice 0 fun x => { x with wStart := 0, wFirst := 1, wLen := 8000, unsent := [(1, .marker m)] }
    (d 0x8000000000000000 5).throttled = true ∧ (d 0x8000000000000001 0).throttled = false ∧ (d 0x8000000000000001 (-1)).throttled = true
      ∧ (d 0 (-1)).throttled = false
      ∧ ¬ ((due.device 0).wStart + (winAdd 1 1 + 2 ^ 32 - 1 % 2 ^ 32) % 2 ^ 32 * 8000 ≤ due.ptp) ∧ (due.device 0).unsent ≠ [] := by decide +kernel

/-- A group within a clause that is spilled with its gang; a stationary load of which one target has been read, and of which none has; a
checkpoint whose key is held while its list waits, one that can be checked, whose list is wrong, exceeds the share, and is within it; and one
whose shard's line is locked by a commit that its key precedes. -/
theorem witness_ModuleEvents_waits :
    let l (ts : List (Nat × Nat)) : EngKind := .mld 0 0 0 .e4m3 ts [0, 1]
    let y : Gang := { bareGang 0 with saved := { (bareGang 0).saved with groups := [(0, g0)] } }
    let k : Checkpoint := { opened := true, checked := false, entry := 0, key := 2 * 2 ^ 16 + 0xFFFF, shards := [], dst := 0 }
    let s := sharded (some k)
    let room := s.withPartition 0 fun p => { p with ctl := p.ctl.put 0x68 1 }
    let wrong : State := { s with mem := s.mem.writeAll 0x4000 (toBytes 8 4097) }
    let pending : State := { (sharded (some { k with checked := true, shards := [(0x8000, 128)] })).setGroup 0 1 (bareGroup 0 0 (bareClause .scalar [0#32]))
      with versions := [(0x100, { part := 0, newest := { window := 0, seq := 0, settled := true }, older := [], lock := some (0, 1) })] }
    let later := pending.withDevice 0 fun d => { d with window := 3 }
    (∃ g ∈ y.saved.groups, g.2.clause.live = true)
      ∧ (∃ x ∈ [0, 1], ∀ t ∈ [(0, 0)], t.1 ≠ x) ∧ (∀ x ∈ [0, 1], ∃ t ∈ [(0, 0), (1, 0)], t.1 = x) ∧ (l [(0, 0)]).tile = none
      ∧ (tableLocked s).lockedAt .hbm (s.listSpan 0).1 (s.listSpan 0).2 = none ∧ (∃ x ∈ (tableLocked s).listed 0, ((tableLocked s).translateAgent 0 .snapshot x.1 x.2).waits = true)
      ∧ (lineLocked s).lockedAt .hbm ((lineLocked s).listSpan 0).1 ((lineLocked s).listSpan 0).2 ≠ none
      ∧ s.lockedAt .hbm (s.listSpan 0).1 (s.listSpan 0).2 = none ∧ (∀ x ∈ s.listed 0, (s.translateAgent 0 .snapshot x.1 x.2).waits = false)
      ∧ wrong.shardList 0 = none ∧ wrong.lockedAt .hbm (wrong.listSpan 0).1 (wrong.listSpan 0).2 = none
      ∧ s.shardList 0 = some [(0x8000, 128)] ∧ room.shardList 0 = some [(0x8000, 128)]
      ∧ ((((s.partition 0).ctl.get 0x68 0).extractLsb' 0 12).toNat * 2 ^ 30 < ([(0x8000, 128)].map Prod.snd).sum)
      ∧ ([(0x8000, 128)].map Prod.snd).sum ≤ (((room.partition 0).ctl.get 0x68 0).extractLsb' 0 12).toNat * 2 ^ 30
      ∧ pending.snapHeld k.key [shard0] = some 0x100 ∧ later.snapHeld k.key [shard0] = none := by decide +kernel

/-- What a register reads as after a write of a value by a writer. -/
def readback (s : State) (who : Writer) (b : RegBlock) (i o : Nat) (v : DWord) : DWord :=
  match exec .registerWrite (taking s (wr who b i o v)) with
  | .next t => t.readReg b i o
  | _ => 0

/-- Device 1 has not been created; its window of HBM has two MiB. -/
def unmade : State := machine.withDevice 1 fun d => { d with xlate := [(0x18, 0x200000)] }

/-- The fields of the registers that a hypervisor writes (spec/01, /02, /03, /06, /15, /16), at the ends of their ranges and beyond them. -/
theorem test_registers :
    let hv (s : State) (b : RegBlock) (i o : Nat) (v : DWord) : DWord := readback s .hypervisor b i o v
    let ones : DWord := 0xFFFFFFFFFFFFFFFF
    let area := machine.withPartition 0 fun p => { p with ver := [(0, 0x200000)] }
    hv machine .xlate 0 0x18 0x3FE00001 = 0x3FE00000 ∧ hv machine .xlate 0 0x18 0x40200000 = 0x40000000 ∧ hv machine .xlate 0 0x50 1 = 0
      ∧ hv machine .cache 0 0x58 ones = 0x80000000003FFFFF ∧ hv machine .cache 0 0x80 ones = 0xF0F ∧ hv machine .cache 0 0x60 1 = 0
      ∧ hv area .version 0 8 0x3FE000 = 0x3FE000 ∧ hv area .version 0 8 0x3FE001 = 0 ∧ hv machine .version 0 0x30 ones = 0xFF
      ∧ hv machine .version 0 0x20 7 = 0
      ∧ hv machine .fabric 0 8 0xFFFFFFFFFFFFFF = 0xFFFFFFFFE00000 ∧ hv machine .fabric 0 8 0x100000000000000 = 0 ∧ hv (jobbed machine) .fabric 0 8 0 = 0x10000
      ∧ hv machine .fabric 0 0x18 0x40000FFF = 0x40000000 ∧ hv machine .fabric 0 0x18 0x40001000 = 0
      ∧ hv machine .fabric 0 0x20 0xFFF = 1 ∧ hv machine .fabric 0 0x28 0xFFF = 0x1F
      ∧ hv unmade .trap 1 0x18 1 = 1 ∧ hv unmade .trap 1 0x18 2 = 0 ∧ hv machine .trap 0 0x18 1 = 0
      ∧ hv machine .vdev 2 0 0x30A0500000000 = 0x30A0500000000 ∧ hv unmade .vdev 1 0 0x30A0500000000 = 0x30A0000000000 ∧ hv unmade .vdev 1 0 0x1800000000 = 0
      ∧ hv machine .vdev 0 0 0x3FF0500000000 = 0x1000FF0000000000
      ∧ hv unmade .vdev 1 8 ones = 0xFFFFFFFF ∧ hv machine .vdev 0 8 1 = 1 ∧ hv machine .vdev 0 0x20 ones = 0x80000000FFFFFFFF
      ∧ hv machine .vdev 0 0x40 ones = ones ∧ hv machine .vdev 0 0x60 1 = 0
      ∧ hv machine .queue 0 0x20 ones = 0x3FFFFFFFFC0F ∧ hv (machine.withDevice 0 fun d => { d with queue := [(0x28, 1)] }) .queue 0 0x20 1 = 0
      ∧ hv machine .queue 0 0x80 ones = 0x8000FFFFFFFFFFFF ∧ hv machine .queue 0 0x70 1 = 0
      ∧ hv machine .module 0 0x18 ones = 0xFFFFFFFFFFFFE001 ∧ hv machine .module 0 8 1 = 0 := by
  and_intros <;> decide +kernel

/-- The registers of a partition (R403, R404), which the monitor writes: masks that another partition has a bit of and that a device needs, the
bounds, and the shares of the checkpoint store. -/
theorem test_partition_registers :
    let mon (s : State) (o : Nat) (v : DWord) : DWord := readback s .monitor .partition 1 o v
    let own (o : Nat) (v : DWord) : DWord := readback machine .monitor .partition 0 o v
    let share := machine.withPartition 0 fun p => { p with ctl := [(0x68, 1000)] }
    let groups := machine.withPartition 1 fun p => { p with ctl := [(8, 1)] }
    mon machine 0 0xFFFFFFFFFFFFFFFE = 0xFFFFFE ∧ mon machine 0 1 = 0 ∧ own 0 0 = 1 ∧ mon machine 0x20 0x10 = 0x10
      ∧ mon groups 0x38 0x400000000 = 0x400000000 ∧ mon groups 0x38 0x400200000 = 0 ∧ mon machine 0x38 0x200000 = 0
      ∧ mon machine 0x48 0x200000 = 0 ∧ mon (machine.withPartition 1 fun p => { p with ctl := [(0x40, 0x100000000000)] }) 0x48 0x200000 = 0x200000
      ∧ own 0x30 0x200000 = 0 ∧ own 0x38 0x3FE00000 = 0x40000000
      ∧ mon share 0x68 862 = 0 ∧ mon (share.withPartition 1 fun p => { p with ctl := [(0x60, 1000)] }) 0x68 862 = 862
      ∧ mon (share.withPartition 1 fun p => { p with ctl := [(0x60, 1000)] }) 0x68 863 = 0
      ∧ mon machine 0x28 1 = 0 ∧ readback machine .hypervisor .partition 1 0x20 0x10 = 0 := by
  and_intros <;> decide +kernel

/-- Each writer's write that may reach its block; the conditions of the fields: windows within bounds and beyond them, records in use and none,
devices that have been created and that have not, a partition with and without them; tiers in order. -/
theorem witness_RegisterWrites :
    let used : State := versioned machine 5 false [older1]
    MayWrite machine (wr .hypervisor .xlate 0 0x18 0) ∧ MayWrite machine (wr .monitor .partition 1 0x38 0) ∧ Arrived (taking machine (wr .monitor .partition 1 0 0)) (wr .monitor .partition 1 0 0)
      ∧ ((machine.device 0).cls ≠ 3 ∧ (machine.device 0).part < 24 ∧ (machine.device 0).state ≠ .none ∧ (unmade.device 1).state = .none)
      ∧ (used.recordsUsed 0 true = 1 ∧ machine.recordsUsed 0 true = 0 ∧ machine.recordsUsed 0 false = 0)
      ∧ (machine.hasGroups 0 = true ∧ unmade.hasGroups 1 = false)
      ∧ (∃ x ∈ machine.devices, x.2.part = 0 ∧ x.2.state ≠ .none) ∧ ¬ (∃ x ∈ machine.devices, x.2.part = 1 ∧ x.2.state ≠ .none)
      ∧ ((machine.readReg .queue 0 8).extractLsb' 0 32 = (machine.readReg .queue 0 16).extractLsb' 0 32)
      ∧ TiersInOrder machine 1 fun o => if o = 8 then 1 else if o = 0x38 then 0x400000000 else 0 := by
  refine ⟨⟨⟨by decide, by decide⟩, .inl (by decide)⟩, ⟨rfl, .inl (by decide)⟩, ⟨rfl, fun h => by cases h⟩, ?_⟩
  refine ⟨?_, ?_, ?_, ?_, ?_, ?_, .inr ⟨by decide, ?_⟩, .inl (by decide)⟩ <;> decide +kernel

/-! ### Steps and functions on the examples that the spec works out -/

/-- The state in which one step runs some words of a class as a clause of a group that a function makes. -/
def stage (cls : EngineClass) (ws : List Word) (f : Group → Group) : State :=
  let s := State.reset.place cls ws
  { s with cores := s.cores.mapAll fun _ x => { x with groups := x.groups.mapAll fun _ g => f g } }

/-- The group after one step of such a state. -/
def stepped (cls : EngineClass) (ws : List Word) (f : Group → Group) : Option Group :=
  match step (stage cls ws f) with
  | .next t => t.group? 0 0
  | _ => none

/-- A group with values in the lanes of a vector register. -/
def withLanes (v : Nat) (xs : List Word) (g : Group) : Group :=
  { g with vregs := xs.zipIdx.foldl (fun t x => t.put (vkey v x.2) x.1) g.vregs }

/-- The tile of the example of spec/11: lanes 0 to 7 but 2 and 5, tiles of 8 lanes. -/
def tileOf (g : Group) : Group :=
  let nine : List Word := List.replicate 8 0x41100000
  let xs : List Word := [0x4B800000, 0x3F800000, 0x40A00000, 0x3F800000, 0xCB800000, 0x40E00000, 0x3F800000, 0x3F000000]
  withLanes 12 nine (withLanes 11 nine (withLanes 10 nine (withLanes 2 xs { g with tsz := 3, clause := { g.clause with active := 0xDB } })))

/-- What the lanes of a register hold after a step. -/
def lanesOf (r : Option Group) (v n : Nat) : List Word := r.elim [] fun g => (List.range n).map (g.vraw v)

/-- `redadd.f32 v10, v2` (spec/11, the worked example): 1.5 in the participating lanes. -/
theorem test_redadd : lanesOf (stepped .vector [0x8A0A0400] tileOf) 10 8
    = [0x3FC00000, 0x3FC00000, 0x41100000, 0x3FC00000, 0x3FC00000, 0x41100000, 0x3FC00000, 0x3FC00000] := by decide +kernel

/-- `scanadd.f32 v11, v2` of that example, with inexact in every participating lane. -/
theorem test_scanadd : lanesOf (stepped .vector [0xA00B0400] tileOf) 11 8
    = [0x4B800000, 0x4B800000, 0x41100000, 0x4B800000, 0, 0x41100000, 0x3F800000, 0x3FC00000] := by decide +kernel

/-- `xscanadd.f32 v12, v2` of that example. -/
theorem test_xscanadd : lanesOf (stepped .vector [0xA40C0400] tileOf) 12 8
    = [0, 0x4B800000, 0x41100000, 0x4B800000, 0x4B800000, 0x41100000, 0, 0x3F800000] := by decide +kernel

/-- `fadd.f32 v8, v4, v9, pat=swap` (spec/09, four clauses): lane 6 reads v9 of lane 7. -/
theorem test_fadd_swap : (lanesOf (stepped .vector [0x00080827] fun g =>
      withLanes 4 (List.replicate 8 0x3F800000) (withLanes 9 [0, 0, 0, 0, 0, 0, 0x40000000, 0x40400000] g)) 8 8)
    = [0x3F800000, 0x3F800000, 0x3F800000, 0x3F800000, 0x3F800000, 0x3F800000, 0x40800000, 0x40400000] := by decide +kernel

/-- `ffma.f32 v4, v2, v6, v7` with its prefix (spec/09): 2 × 3 + 1. -/
theorem test_ffma : lanesOf (stepped .vector [0xFE003800, 0x12040418] fun g =>
      withLanes 2 [0x40000000] (withLanes 6 [0x40400000] (withLanes 7 [0x3F800000] g))) 4 1 = [0x40E00000] := by decide +kernel

/-- `sadd.b32 s4, s5, literal 0` (spec/09): the literal is added. -/
theorem test_sadd_literal : ((stepped .scalar [0x0020B000] fun g =>
      { g with sregs := [(5, 1)], clause := { g.clause with lits := [0x12345678] } }).map fun g => (g.sreg 4, g.clause.idx))
    = some (0x12345679, 1) := by decide +kernel

/-- With a literal index beyond the clause's literals it raises the illegal-instruction trap and `s4` keeps its value (spec/09). -/
theorem test_sadd_no_literal : ((stepped .scalar [0x0020B000] fun g =>
      { g with sregs := [(4, 9)], clause := { g.clause with lits := [] } }).map fun g => (g.sreg 4, g.clause.events.length)) = some (9, 32) := by
  decide +kernel

/-- `bfadd` in ascending lane order (spec/12, one request for four lanes): what each lane is returned and what the location holds. -/
theorem test_bfadd : atomSteps .bfadd 32 10 [⟨0, 3, 20⟩, ⟨2, 5, 20⟩, ⟨3, 9, 20⟩, ⟨5, 1, 15⟩] = (20, [(0, 10), (2, 13), (3, 18), (5, 20)])
    ∧ atomSteps .bfadd 32 0xFFFFFFF0 [⟨1, 0x20, 0xFFFFFFFF⟩, ⟨4, 0x10, 0xFFFFFFFF⟩] = (0xFFFFFFFF, [(1, 0xFFFFFFF0), (4, 0xFFFFFFFF)]) := by
  decide +kernel

/-- The sixteen values of the example of spec/05. -/
def sixteen : List Nat :=
  [0x3F000000, 0xBE800000, 0x3F800000, 0x80000000, 0x3E000000, 0xC0000000, 0x3F400000, 0,
   0xBF000000, 0x3EC00000, 0xBFC00000, 0x3D800000, 0x3FA00000, 0xBE400000, 0x3E800000, 0xBEF00000]

/-- The sign block of that example. -/
theorem test_sign_block : Num.compress false 0 sixteen = [0x2A, 0xA5, 0x14, 0x3F, 0x00, 0x40] := by decide +kernel

/-- The ternary block of that example. -/
theorem test_ternary_block : Num.compress true 0 sixteen = [0x0A, 0x8C, 0x0B, 0x02, 0x14, 0x3F, 0x00, 0x80] := by decide +kernel

/-- The steps of the merge of spec/14: the empty shard leaves the triple, rank 2 gives (3.0, 2.5, 7.0). -/
theorem test_merge : Num.smxMerge (0x40000000, 0x40400000, 0x40C00000) (0xFF800000, 0, 0) = (0x40000000, 0x40400000, 0x40C00000)
    ∧ Num.smxMerge (0x40000000, 0x40400000, 0x40C00000) (0x40400000, 0x3F800000, 0x40800000) = (0x40400000, 0x40200000, 0x40E00000) := by
  decide +kernel

/-- The accumulation of C[0][0] in the example of spec/13: 2^24, a tie, a tie, +0. -/
theorem test_accumulate : Num.accumulate (Num.accumulate (Num.accumulate (Num.accumulate 0 (.fin false 1 24)) (.fin false 1 0)) (.fin false 1 0))
    (.fin true 1 24) = 0 := by decide +kernel

/-- The word placed after reset runs in the next step: a scalar word, a vector word with its prefix, a hinge word. -/
theorem test_placed : (∃ t, step (State.reset.withFetchWord 32 0x0020B000) = .next t)
    ∧ (∃ t, step (State.reset.withFetchWord 64 0x12040418FE003800) = .next t) ∧ (∃ t, step (State.reset.withFetchWord 32 0x84000000) = .next t) :=
  ⟨⟨_, rfl⟩, ⟨_, rfl⟩, ⟨_, rfl⟩⟩

end Sys2Proof.Tests
end

section
/-! The step of the machine: what the turn of a word, of a hinge program and of an event does, and the turn that is taken when the agenda
is empty (R196, R200, R251, R371, R382; log 1). -/

namespace Sys2Proof.Laws

open Sys2Proof Sys2Proof.Machine

/-! ## The turn that is taken -/

/-- The state in which the first turn of an agenda is performed: the step is counted, and the rest of the agenda is left. -/
def tookTurn (s : State) (rest : List Turn) : State := { s with agenda := rest, tick := s.tick + 1 }

/-- A step performs the first turn of the agenda and notes which devices have work. -/
theorem step_of_agenda {s : State} {t : Turn} {rest : List Turn} (h : s.agenda = t :: rest) :
    (∀ u, perform t (tookTurn s rest) = .next u → step s = .next (u.note s))
    ∧ (∀ f, perform t (tookTurn s rest) = .fault f → step s = .fault f)
    ∧ (∀ r, perform t (tookTurn s rest) = .refused r → step s = .refused r) := by
  have hturn : s.turn = t := by rw [State.turn, h]
  have htail : s.agenda.tail = rest := by rw [h, List.tail_cons]
  unfold step State.advance
  rw [hturn, htail]
  refine ⟨fun u hu => ?_, fun f hf => ?_, fun r hr => ?_⟩
  · rw [tookTurn] at hu; rw [hu]
  · rw [tookTurn] at hf; rw [hf]
  · rw [tookTurn] at hr; rw [hr]

/-- Without an agenda the turn is one that can be taken, or time passes (log 1). -/
theorem turn_of_empty_agenda {s : State} (h : s.agenda = []) : s.turn = .time ∨ s.turn ∈ s.ready := by
  have hturn : s.turn = s.ready.getD (Config.schedule s.tick % s.ready.length) .time := by rw [State.turn, h]
  rw [hturn]
  by_cases hlt : Config.schedule s.tick % s.ready.length < s.ready.length
  · rw [List.getD_eq_getElem _ _ hlt]
    exact .inr (List.getElem_mem hlt)
  · exact .inl (List.getD_eq_default _ _ (Nat.le_of_not_lt hlt))

/-- The turn of an event executes it for whoever acts. -/
theorem perform_event {i : Instr} (h : i.engineClass = none) (a : Actor) (s : State) :
    perform (.event i a) s = exec i { s with actor := a } := by
  simp [perform, h]

/-! ## A word of a clause -/

/-- A change of a group that stands in its core replaces that group. -/
theorem withGroup_eq_setGroup {s : State} {c k : Nat} {g : Group} (h : s.group? c k = some g) (f : Group → Group) :
    s.withGroup c k f = s.setGroup c k (f g) := by
  have hlook : (s.core c).groups.look k = some g := h
  simp [State.withGroup, State.setGroup, State.withGroups, State.withCore, Tab.change, hlook]

/-- The level of a group's launch. -/
theorem levelOf_eq (s : State) (g : Group) : s.levelOf g = (s.launches.look g.launch).elim 0 Launch.level := by
  unfold State.levelOf
  cases s.launches.look g.launch <;> rfl

/-- An illegal instruction takes at most two words (R227, R242). -/
theorem illegalLen_le_two (c : EngineClass) (ws : List Word) : illegalLen c ws ≤ 2 := by
  cases c with
  | vector =>
    cases ws with
    | nil => decide
    | cons w rest =>
      simp only [illegalLen]
      split
      · exact Nat.min_le_left ..
      · decide
  | memory => exact Nat.min_le_left ..
  | scalar | matrix | copy | control | hinge => exact Nat.le_succ 1

/-- When a group executes the next word of its clause (R196, R200). -/
theorem executing_iff (g : Group) :
    g.executing = true ↔ g.clause.live = true ∧ g.phase = .resident ∧ g.clause.idx < g.clause.count ∧ g.clause.active ≠ 0 := by
  simp only [Group.executing, Bool.and_eq_true, beq_iff_eq, decide_eq_true_eq, bne_iff_ne, and_assoc]

/-- A group whose clause decodes to an instruction that its launch has the level for executes that instruction. -/
theorem runWord_of_decodes {s : State} {c k n : Nat} {g : Group} {i : Instr} (hg : s.group? c k = some g) (hx : g.executing = true)
    (hd : decode g.clause.cls (g.clause.words.drop g.clause.idx) = .ok (i, n)) (hl : i.level ≤ s.levelOf g) :
    runWord s c k = finishWord c k (exec i (s.executes c k n)) := by
  have hi : s.nextInstr g = .ok (i, n) := by simp only [State.nextInstr, hd, if_pos hl]
  simp only [runWord, hg, hx, hi, Bool.not_true, Bool.false_eq_true, if_false]

/-- A group whose next instruction is none, or none for its launch, takes the illegal-instruction trap. -/
theorem runWord_of_illegal {s : State} {c k n : Nat} {g : Group} (hg : s.group? c k = some g) (hx : g.executing = true)
    (hi : s.nextInstr g = .error n) :
    runWord s c k = .next (((s.executes c k n).withGroup c k Group.illegal).withGroup c k Group.pass) := by
  simp only [runWord, finishWord, hg, hx, hi, Bool.not_true, Bool.false_eq_true, if_false]

/-- An instruction above the launch's level is none for its group. -/
theorem nextInstr_of_level {s : State} {g : Group} {i : Instr} {n : Nat}
    (hd : decode g.clause.cls (g.clause.words.drop g.clause.idx) = .ok (i, n)) (hl : s.levelOf g < i.level) :
    s.nextInstr g = .error n := by
  simp only [State.nextInstr, hd, if_neg (Nat.not_le.mpr hl)]

/-- Words that do not decode are no instruction. -/
theorem nextInstr_of_undecodable {s : State} {g : Group} {e : IllForm}
    (hd : decode g.clause.cls (g.clause.words.drop g.clause.idx) = .error e) :
    s.nextInstr g = .error (illegalLen g.clause.cls (g.clause.words.drop g.clause.idx)) := by
  simp only [State.nextInstr, hd]

/-! ## A word of a hinge program -/

/-- A running channel below the run limit, or one that waits for its sends, is not at the limit (R382). -/
theorem atLimit_eq_false {x : Hinge} {n : Nat} {ch : Channel} (hr : x.running = some n) (hc : x.chans.look n = some ch)
    (h : x.ran < 2 ^ 21 ∨ ch.wait = some .sends) : x.atLimit = false := by
  unfold Hinge.atLimit
  simp only [hr, hc, Option.bind_some]
  rcases h with h | h
  · simp only [decide_eq_false (Nat.not_le.mpr h), Bool.false_and]
  · simp only [h, bne_self_eq_false, Bool.and_false]

/-- A running channel that is ready, with no switch due and power to run, executes the word that it has fetched. -/
theorem runHinge_of_word {s : State} {h n : Nat} {ch : Channel} {w : Word} (hr : (s.hinge h).running = some n)
    (hc : (s.hinge h).chans.look n = some ch) (hs : (s.hinge h).switch = false) (hready : s.chanReady ch = true)
    (hlim : (s.hinge h).ran < 2 ^ 21 ∨ ch.wait = some .sends) (ht : (s.device ch.vd).throttled = false) (hw : ch.word = some w) :
    runHinge s h = s.executeHinge h n ch w := by
  simp only [runHinge, hr, hc, hs, atLimit_eq_false hr hc hlim, hready, ht, hw, Bool.or_self, Bool.not_true, Bool.false_eq_true, if_false]

/-- A channel executes an instruction that the collective has the level for. -/
theorem executeHinge_of_decodes {s : State} {h n : Nat} {ch : Channel} {w : Word} {i : Instr} (hd : decodeHingeWord w = .ok i)
    (hl : i.level ≤ ch.hlev) : s.executeHinge h n ch w = exec i { s with actor := .channel h n } := by
  simp only [State.executeHinge, hd, if_pos hl]

/-- A word that is no instruction of the collective's level ends the channel's program with status 1. -/
theorem executeHinge_of_illegal {s : State} {h n : Nat} {ch : Channel} {w : Word}
    (hd : ∀ i, decodeHingeWord w = .ok i → ch.hlev < i.level) : s.executeHinge h n ch w = .next (s.chanFail h n 1 0) := by
  unfold State.executeHinge
  cases hw : decodeHingeWord w with
  | error e => rfl
  | ok i => exact if_neg (Nat.not_le.mpr (hd i hw))

/-! ## The statement -/

/-- Settles O56: each turn is performed as the equations above say, in the state that the step takes it in. -/
theorem stepRunsDecoded : Obligations.StepRunsDecoded := by
  refine ⟨?_, ?_, ?_, fun s => turn_of_empty_agenda⟩
  · intro s c k g rest ha hg hlive hphase hidx hact s0 s1 behind level
    obtain ⟨hnext, hfault, hrefused⟩ := step_of_agenda ha
    have hg0 : s0.group? c k = some g := hg
    have hx : g.executing = true := (executing_iff g).mpr ⟨hlive, hphase, hidx, hact⟩
    have hlevel : s0.levelOf g = level := levelOf_eq s0 g
    have hs1 (n : Nat) : s0.executes c k n = s1 n := by
      rw [State.executes, withGroup_eq_setGroup hg0]; rfl
    have hillegal (n : Nat) (h : s0.nextInstr g = .error n) :
        step s = .next ((behind ((s1 n).withGroup c k Group.illegal)).note s) :=
      hnext _ ((runWord_of_illegal hg0 hx h).trans (by rw [hs1]; rfl))
    refine ⟨fun i n hd hl => ?_, fun i n hd hl => ?_, fun e hd => ?_⟩
    · have hrun : perform (.word c k) s0 = finishWord c k (exec i (s1 n)) := by
        rw [← hs1]; exact runWord_of_decodes hg0 hx hd (hlevel ▸ hl)
      refine ⟨fun t h => hnext _ ?_, fun f h => hfault _ ?_, fun r h => hrefused _ ?_⟩
      · exact hrun.trans (by rw [h]; rfl)
      · exact hrun.trans (by rw [h]; rfl)
      · exact hrun.trans (by rw [h]; rfl)
    · exact hillegal n (nextInstr_of_level hd (hlevel ▸ hl))
    · exact ⟨_, illegalLen_le_two .., hillegal _ (nextInstr_of_undecodable hd)⟩
  · intro s h n ch w rest ha hr hc hs hready hlim ht hw s0
    have hnext := (step_of_agenda ha).1
    have hrun : perform (.hinge h) s0 = s0.executeHinge h n ch w := runHinge_of_word hr hc hs hready hlim ht hw
    exact ⟨fun i hd hl t he => hnext t (hrun.trans ((executeHinge_of_decodes hd hl).trans he)),
      fun hd => hnext _ (hrun.trans (executeHinge_of_illegal hd))⟩
  · intro s i a rest ha hi s0
    obtain ⟨hnext, hfault, hrefused⟩ := step_of_agenda ha
    have hrun : perform (.event i a) (tookTurn s rest) = exec i s0 := perform_event hi a _
    exact ⟨fun t h => hnext t (hrun.trans h), fun f h => hfault f (hrun.trans h), fun r h => hrefused r (hrun.trans h)⟩

end Sys2Proof.Laws
end

section
/-! The machine after reset: every register block reads 0 (R22, R67, R97, R165, R388, R402, R405, R429, R431, R432). -/

namespace Sys2Proof.Laws

open Sys2Proof Sys2Proof.Machine Sys2Proof.Claim

/-- Bytes that are all 0 form the number 0. -/
theorem ofBytes_map_zero {α : Type} (l : List α) : ofBytes (l.map fun _ => (0 : Byte)) = 0 := by
  induction l with
  | nil => rfl
  | cons _ rest ih => rw [List.map_cons, ofBytes, ih]; rfl

theorem device_reset (v : Nat) : State.reset.device v = Device.reset := rfl

theorem partition_reset (p : Nat) : State.reset.partition p = Partition.reset := rfl

theorem recordsUsed_reset (p : Nat) (resident : Bool) : State.reset.recordsUsed p resident = 0 := rfl

theorem versionReg_reset (p o : Nat) : State.reset.versionReg p o = 0 := by
  unfold State.versionReg
  rw [partition_reset, recordsUsed_reset, recordsUsed_reset]
  split
  case h_6 => rfl
  all_goals decide

theorem moduleReg_reset (o : Nat) : State.reset.moduleReg o = 0 := by
  unfold State.moduleReg
  split
  case h_5 =>
    split
    · exact congrArg (BitVec.ofNat 64) (ofBytes_map_zero _)
    · rfl
  all_goals rfl

theorem xlateReg_reset (v o : Nat) : State.reset.xlateReg v o = 0 := by
  unfold State.xlateReg
  rw [device_reset]
  split
  · decide
  · rfl

theorem queueReg_reset (v o : Nat) : State.reset.queueReg v o = 0 := by
  unfold State.queueReg
  rw [device_reset]
  split
  · decide
  · rfl

theorem cacheReg_reset (v o : Nat) : State.reset.cacheReg v o = 0 := by
  unfold State.cacheReg
  split
  · rfl
  · split <;> rfl

theorem keeperReg_free (o : Nat) : Keeper.free.reg o = 0 := by
  unfold Keeper.reg
  split <;> rfl

/-- After reset every register reads 0, but those of a device and of a guest, of which the statement does not speak. -/
theorem readReg_reset {b : RegBlock} (hv : b ≠ .vdev) (hg : b ≠ .guest) (i o : Nat) : State.reset.readReg b i o = 0 := by
  unfold State.readReg
  split
  · rfl
  · cases b with
    | module => exact moduleReg_reset o
    | version => exact versionReg_reset i o
    | keeper => exact keeperReg_free _
    | xlate => exact xlateReg_reset i o
    | cache => exact cacheReg_reset i o
    | queue => exact queueReg_reset i o
    | partition | fabric | trap => rfl
    | vdev => exact absurd rfl hv
    | guest => exact absurd rfl hg

/-- Settles O57: the reset state lists nothing, so every table reads its default. -/
theorem resetMachine : Obligations.ResetMachine := by
  obtain ⟨hmem, htab, hgroups, -⟩ := Tests.witness_forms
  refine ⟨rfl, fun _ => ⟨rfl, rfl, rfl⟩, fun i o => ⟨?_, ?_, ?_, ?_, ?_, ?_, ?_, ?_, ?_⟩, fun _ _ => rfl, fun _ => rfl, hmem, htab, hgroups,
    _, rfl, rfl⟩ <;> exact readReg_reset (by decide) (by decide) i o

end Sys2Proof.Laws
end

section
/-! Addresses of lanes (R243), the pieces of an access and their translation (R11, R19, R31, R34), and page walks (R15 to R18, R23, R29). -/

namespace Sys2Proof.Laws

open Sys2Proof Sys2Proof.Machine Sys2Proof.Claim

/-- Shifting left is multiplication by a power of two, modulo the width. -/
theorem ofInt_mul_two_pow (x : Int) (k : Nat) : BitVec.ofInt 64 (x * (2 ^ k : Nat)) = BitVec.ofInt 64 x <<< k := by
  rw [BitVec.ofInt_mul, BitVec.shiftLeft_eq_mul_twoPow]
  congr 1
  rw [BitVec.ofInt_natCast]
  exact BitVec.eq_of_toNat_eq (by simp)

theorem laneAddr_global (g : Group) (tick : Nat) (a : MemAddr) (l : Nat) :
    g.laneAddr tick true a l = (g.sreg (a.base.toNat + 1) ++ g.sreg a.base.toNat
      + (match a.idx with
         | none => 0#64
         | some i => (g.vread tick i.v.toNat l).signExtend 64 <<< i.scale.toNat)
      + a.off.signExtend 64 : BitVec 64).toNat := by
  simp only [Group.laneAddr, ← BitVec.toNat_ofInt, BitVec.ofInt_add, if_true, BitVec.ofInt_natCast]
  rw [BitVec.ofNat_toNat]
  cases a.idx with
  | none => rfl
  | some i => simp only [ofInt_mul_two_pow]; rfl

theorem laneAddr_scratch (g : Group) (tick : Nat) (a : MemAddr) (l : Nat) :
    g.laneAddr tick false a l = ((g.sreg a.base.toNat).setWidth 64
      + (match a.idx with
         | none => 0#64
         | some i => (g.vread tick i.v.toNat l).setWidth 64 <<< i.scale.toNat)
      + a.off.signExtend 64 : BitVec 64).toNat := by
  simp only [Group.laneAddr, ← BitVec.toNat_ofInt, BitVec.ofInt_add, Bool.false_eq_true, if_false, BitVec.ofInt_natCast]
  rw [BitVec.ofNat_toNat]
  cases a.idx with
  | none => rfl
  | some i => simp only [ofInt_mul_two_pow, BitVec.ofInt_natCast, BitVec.ofNat_toNat]; rfl

/-! ## Pieces of an access (R34) -/

theorem pieces_of_one_page {va n : Nat} (hn : 1 ≤ n) (hva : va < 2 ^ 64) (h : (va + n - 1) / 4096 = va / 4096) :
    pieces va n = [(va, n)] := by
  have h1 : max va (va / 4096 * 4096) = va := by omega
  have h2 : min (va + n) (va / 4096 * 4096 + 4096) - va = n := by omega
  simp only [pieces, h, Nat.sub_self, Nat.zero_add, List.range_one, List.map_cons, List.map_nil, Nat.add_zero, h1, h2, Nat.mod_eq_of_lt hva]

theorem pieces_split {va m n : Nat} (hm : 1 ≤ m) (hmn : m < n) (hp : (va + m) % 4096 = 0) :
    pieces va n = pieces va m ++ pieces (va + m) (n - m) := by
  have hcount : (va + n - 1) / 4096 - va / 4096 + 1
      = ((va + m - 1) / 4096 - va / 4096 + 1) + ((va + m + (n - m) - 1) / 4096 - (va + m) / 4096 + 1) := by omega
  unfold pieces
  rw [hcount, List.range_add, List.map_append, List.map_map]
  congr 1
  · refine List.map_congr_left fun i hi => ?_
    rw [List.mem_range] at hi
    have : min (va + n) ((va / 4096 + i) * 4096 + 4096) = min (va + m) ((va / 4096 + i) * 4096 + 4096) := by omega
    simp only [this]
  · refine List.map_congr_left fun i hi => ?_
    have hpage : va / 4096 + ((va + m - 1) / 4096 - va / 4096 + 1 + i) = (va + m) / 4096 + i := by omega
    have hlo : max va (((va + m) / 4096 + i) * 4096) = max (va + m) (((va + m) / 4096 + i) * 4096) := by omega
    have hend : va + m + (n - m) = va + n := by omega
    simp only [Function.comp, hpage, hlo, hend]

/-- The pages of some pieces that nothing is known of. -/
def missingPages (look : PageLook) (xs : List (Nat × Nat)) : List Nat :=
  (xs.filter fun x => canonical x.1 && (look (x.1 / 4096)).isNone).map fun x => x.1 / 4096

theorem missingPages_append (look : PageLook) (xs ys : List (Nat × Nat)) :
    missingPages look (xs ++ ys) = missingPages look xs ++ missingPages look ys := by
  simp only [missingPages, List.filter_append, List.map_append]

/-- How the translation of some pieces ends (R34). -/
def translatedPieces (s : State) (look : PageLook) (vd : Nat) (kind : Access) (xs : List (Nat × Nat)) : Translated :=
  if missingPages look xs ≠ [] then .miss (missingPages look xs)
  else match s.translatePieces look vd kind xs with
    | .ok ps => .ok ps
    | .error e => .fault e.1 e.2

theorem translate_eq (s : State) (look : PageLook) (vd : Nat) (kind : Access) {va n : Nat} (hn : 1 ≤ n) :
    s.translate look vd kind va n = translatedPieces s look vd kind (pieces va n) := by
  have h0 : n ≠ 0 := by omega
  unfold State.translate translatedPieces
  simp only [if_neg h0]
  rw [← missingPages]
  by_cases hmiss : missingPages look (pieces va n) = []
  · simp only [hmiss, List.isEmpty_nil, Bool.not_true, Bool.false_eq_true, if_false, ne_eq, not_true_eq_false]
    cases s.translatePieces look vd kind (pieces va n) <;> rfl
  · simp only [List.isEmpty_eq_false_iff.2 hmiss, Bool.not_false, if_true, ne_eq, hmiss, not_false_eq_true]

/-- The pieces before a point are translated before those behind it. -/
theorem translatePieces_append (s : State) (look : PageLook) (vd : Nat) (kind : Access) (xs ys : List (Nat × Nat)) :
    s.translatePieces look vd kind (xs ++ ys) =
      match s.translatePieces look vd kind xs, s.translatePieces look vd kind ys with
      | .error e, _ => .error e
      | .ok _, .error e => .error e
      | .ok ps, .ok qs => .ok (ps ++ qs) := by
  induction xs with
  | nil => 
    simp only [List.nil_append, State.translatePieces]
    cases s.translatePieces look vd kind ys <;> rfl
  | cons x rest ih =>
    simp only [List.cons_append, State.translatePieces, ih]
    cases canonical x.1 with
    | false => rfl
    | true =>
      cases look (x.1 / 4096) with
      | none => rfl
      | some r =>
        simp only [Bool.not_true, Bool.false_eq_true, if_false]
        cases s.translatePiece vd kind x r with
        | error e => rfl
        | ok p => 
          simp only
          cases s.translatePieces look vd kind rest with
          | error e => rfl
          | ok ps => cases s.translatePieces look vd kind ys <;> rfl

theorem translate_split (s : State) (vd : Nat) (look : PageLook) (kind : Access) {va m n : Nat} (hm : 1 ≤ m) (hmn : m < n)
    (hp : (va + m) % 4096 = 0) :
    s.translate look vd kind va n =
      match s.translate look vd kind va m, s.translate look vd kind (va + m) (n - m) with
      | .miss ps, .miss qs => .miss (ps ++ qs)
      | .miss ps, _ => .miss ps
      | _, .miss qs => .miss qs
      | .fault f a, _ => .fault f a
      | .ok _, .fault f a => .fault f a
      | .ok ps, .ok qs => .ok (ps ++ qs) := by
  rw [translate_eq s look vd kind (by omega : 1 ≤ n), translate_eq s look vd kind hm, translate_eq s look vd kind (by omega : 1 ≤ n - m),
    pieces_split hm hmn hp]
  unfold translatedPieces
  rw [missingPages_append, translatePieces_append]
  by_cases h1 : missingPages look (pieces va m) = [] <;> by_cases h2 : missingPages look (pieces (va + m) (n - m)) = []
  · simp only [h1, h2, List.append_nil, ne_eq, not_true_eq_false, if_false]
    cases s.translatePieces look vd kind (pieces va m) <;> cases s.translatePieces look vd kind (pieces (va + m) (n - m)) <;> rfl
  · simp only [h1, h2, List.nil_append, ne_eq, not_true_eq_false, not_false_eq_true, if_false, if_true]
    cases s.translatePieces look vd kind (pieces va m) <;> rfl
  · simp only [h1, h2, List.append_nil, ne_eq, not_true_eq_false, not_false_eq_true, if_false, if_true]
    cases s.translatePieces look vd kind (pieces (va + m) (n - m)) <;> rfl
  · simp only [h1, h2, List.append_eq_nil_iff, and_self, ne_eq, not_false_eq_true, if_true]

/-! ## One page (R17, R19, R31) -/

theorem translatePiece_of_window_missed {s : State} {vd : Nat} {kind : Access} {va n : Nat} {p : Page} {tlb : Bool}
    (h : ¬ ((s.window vd p.tier).1 ≤ p.frame + (va - p.base) ∧ p.frame + (va - p.base) + n ≤ (s.window vd p.tier).2)) :
    s.translatePiece vd kind (va, n) (.page p, tlb) =
      .error (⟨7, if tlb then 7 else p.level, p.tier.code⟩, windowByte (s.window vd p.tier) (p.frame + (va - p.base)) va) := by
  simp only [State.translatePiece, State.inWindow, decide_eq_false h, Bool.not_false, if_true, noLevel]

theorem translatePiece_in_window {s : State} {vd : Nat} {kind : Access} {va n : Nat} {p : Page} {tlb : Bool}
    (h : (s.window vd p.tier).1 ≤ p.frame + (va - p.base) ∧ p.frame + (va - p.base) + n ≤ (s.window vd p.tier).2) :
    s.translatePiece vd kind (va, n) (.page p, tlb) =
      if kind ∈ [Access.store, .atomic, .commit] ∧ p.w = false then .error (⟨3, if tlb then 7 else p.level, p.tier.code⟩, va)
      else if kind = .fetch ∧ p.x = false then .error (⟨4, if tlb then 7 else p.level, p.tier.code⟩, va)
      else .ok { va := va, n := n, page := p, addr := s.pbase (s.device vd).part p.tier + (p.frame + (va - p.base)),
                 level := if tlb then 7 else p.level } := by
  simp only [State.translatePiece, State.inWindow, decide_eq_true h, Bool.not_true, Bool.false_eq_true, if_false, noLevel, State.reloc]
  have hw : ((kind == .store || kind == .atomic || kind == .commit) && !p.w) = true ↔ kind ∈ [Access.store, .atomic, .commit] ∧ p.w = false := by
    simp only [Bool.and_eq_true, Bool.or_eq_true, beq_iff_eq, Bool.not_eq_true', List.mem_cons, List.not_mem_nil, or_false, or_assoc]
  have hx : (kind == .fetch && !p.x) = true ↔ kind = .fetch ∧ p.x = false := by
    simp only [Bool.and_eq_true, beq_iff_eq, Bool.not_eq_true']
  simp only [hw, hx]

/-- The byte that is named for a window fault is the lowest one outside the window (R34). -/
theorem windowByte_lowest {w : Nat × Nat} {rel va n : Nat} (hn : 1 ≤ n) (h : ¬ (w.1 ≤ rel ∧ rel + n ≤ w.2)) :
    va ≤ windowByte w rel va ∧ windowByte w rel va < va + n
      ∧ ¬ (w.1 ≤ rel + (windowByte w rel va - va) ∧ rel + (windowByte w rel va - va) < w.2)
      ∧ ∀ x, va ≤ x → x < windowByte w rel va → w.1 ≤ rel + (x - va) ∧ rel + (x - va) < w.2 := by
  unfold windowByte
  split
  · refine ⟨?_, ?_, ?_, fun x h1 h2 => ?_⟩ <;> omega
  · refine ⟨?_, ?_, ?_, fun x h1 h2 => ?_⟩ <;> omega

/-- The translation of an access within a page of which something is known is that of its one piece. -/
theorem translate_one_page {s : State} {vd : Nat} {look : PageLook} {kind : Access} {va n : Nat} (hn : 1 ≤ n) (hva : va < 2 ^ 64)
    (h : (va + n - 1) / 4096 = va / 4096) (hc : canonical va = true) {r : WalkResult × Bool} (hr : look (va / 4096) = some r) :
    s.translate look vd kind va n = match s.translatePiece vd kind (va, n) r with
      | .ok p => .ok [p]
      | .error e => .fault e.1 e.2 := by
  rw [translate_eq s look vd kind hn, pieces_of_one_page hn hva h]
  simp only [translatedPieces, missingPages, State.translatePieces, hc, hr, List.filter, Option.isNone_some, Bool.and_false, List.map_nil, ne_eq,
    not_true_eq_false, Bool.not_true, Bool.false_eq_true, if_false]
  cases s.translatePiece vd kind (va, n) r <;> rfl

theorem translate_of_noncanonical {s : State} {vd : Nat} {look : PageLook} {kind : Access} {va n : Nat} (hn : 1 ≤ n) (hva : va < 2 ^ 64)
    (h : (va + n - 1) / 4096 = va / 4096) (hc : canonical va = false) : s.translate look vd kind va n = .fault ⟨1, 7, 0⟩ va := by
  rw [translate_eq s look vd kind hn, pieces_of_one_page hn hva h]
  simp [translatedPieces, missingPages, State.translatePieces, hc, noLevel]

theorem translate_of_unknown {s : State} {vd : Nat} {look : PageLook} {kind : Access} {va n : Nat} (hn : 1 ≤ n) (hva : va < 2 ^ 64)
    (h : (va + n - 1) / 4096 = va / 4096) (hc : canonical va = true) (hl : look (va / 4096) = none) :
    s.translate look vd kind va n = .miss [va / 4096] := by
  rw [translate_eq s look vd kind hn, pieces_of_one_page hn hva h]
  simp [translatedPieces, missingPages, hc, hl]

/-! ## Entries of a table (R16) -/

theorem ofBytes_lt (bs : List Byte) : ofBytes bs < 256 ^ bs.length := by
  induction bs with
  | nil => exact Nat.one_pos
  | cons b rest ih =>
    have hb := b.isLt
    simp only [ofBytes, List.length_cons, Nat.pow_succ]
    omega

/-- The bytes of a tier, read at its home one by one. -/
theorem readMem_eq_homeBytes (s : State) (t : Tier) (a n : Nat) : s.readMem t a n = (List.range n).map fun j => homeByte s t (a + j) := by
  cases t <;> rfl

theorem readNat_eq_littleEndian (s : State) (t : Tier) (a n : Nat) : s.readNat t a n = littleEndian (fun j => homeByte s t (a + j)) 0 n := by
  simp only [State.readNat, readMem_eq_homeBytes, littleEndian, Nat.zero_add]

theorem readNat_lt (s : State) (t : Tier) (a n : Nat) : s.readNat t a n < 256 ^ n := by
  have h := ofBytes_lt (s.readMem t a n)
  rwa [readMem_eq_homeBytes, List.length_map, List.length_range, ← readMem_eq_homeBytes] at h

theorem ent_toNat (e : DWord) (lo n : Nat) : ent e.toNat lo n = (e.extractLsb' lo n).toNat := by
  rw [BitVec.extractLsb'_toNat, Nat.shiftRight_eq_div_pow, ent]

theorem ent_bit (e : DWord) (i : Nat) : ent e.toNat i 1 = if e.getLsbD i then 1 else 0 := by
  have h : ent e.toNat i 1 = (e.getLsbD i).toNat := by
    rw [ent, BitVec.getLsbD, Nat.toNat_testBit, Nat.pow_one]
  rw [h]
  cases e.getLsbD i <;> rfl

theorem ent_bit_eq_one (e : DWord) (i : Nat) : ent e.toNat i 1 = 1 ↔ e.getLsbD i = true := by
  rw [ent_bit]
  cases e.getLsbD i <;> decide

theorem ent_bit_beq (e : DWord) (i : Nat) : (ent e.toNat i 1 == 1) = e.getLsbD i := by
  rw [ent_bit]
  cases e.getLsbD i <;> rfl

theorem ent_eq_iff (e : DWord) {lo n : Nat} (x : BitVec n) : ent e.toNat lo n = x.toNat ↔ e.extractLsb' lo n = x := by
  rw [ent_toNat, BitVec.toNat_inj]

/-- The reserved entries of R17, on the fields of the entry. -/
theorem reservedEntry_iff (e : DWord) (L : Nat) (start : Prop) [Decidable start] :
    reservedEntry e.toNat L (L != 0 || decide start) = true ↔
      e.extractLsb' 46 10 ≠ 0 ∨ e.extractLsb' 2 10 ≠ 0 ∨ (e.getLsbD 1 = true ∧ 3 ≤ L) ∨ (e.getLsbD 1 = false ∧ L = 0)
        ∨ (e.getLsbD 56 = true ∧ L ≠ 0) ∨ (e.getLsbD 1 = false ∧ (e.extractLsb' 61 3 ≠ 0 ∨ e.extractLsb' 56 3 ≠ 0)) ∨ e.extractLsb' 59 2 = 3#2
        ∨ (e.getLsbD 1 = false ∧ e.extractLsb' 59 2 = 2#2) ∨ (e.getLsbD 63 = true ∧ e.extractLsb' 59 2 ≠ 0)
        ∨ (e.getLsbD 56 = true ∧ L = 0 ∧ ¬ start) := by
  have h46 : ent e.toNat 46 10 = 0 ↔ e.extractLsb' 46 10 = 0 := ent_eq_iff e 0
  have h2 : ent e.toNat 2 10 = 0 ↔ e.extractLsb' 2 10 = 0 := ent_eq_iff e 0
  have h61 : ent e.toNat 61 3 = 0 ↔ e.extractLsb' 61 3 = 0 := ent_eq_iff e 0
  have h56 : ent e.toNat 56 3 = 0 ↔ e.extractLsb' 56 3 = 0 := ent_eq_iff e 0
  have h59 : ent e.toNat 59 2 = 0 ↔ e.extractLsb' 59 2 = 0 := ent_eq_iff e 0
  have h59' : ent e.toNat 59 2 = 3 ↔ e.extractLsb' 59 2 = 3#2 := ent_eq_iff e 3#2
  have h59'' : ent e.toNat 59 2 = 2 ↔ e.extractLsb' 59 2 = 2#2 := ent_eq_iff e 2#2
  have hs : L = 0 ∧ (L != 0 || decide start) = false ↔ L = 0 ∧ ¬ start := by
    refine and_congr_right fun h => ?_
    subst h
    rw [bne_self_eq_false, Bool.false_or, decide_eq_false_iff_not]
  simp only [reservedEntry, ent_bit_beq, Bool.or_eq_true, Bool.and_eq_true, bne_iff_ne, ne_eq, beq_iff_eq, Bool.not_eq_true', decide_eq_true_eq,
    or_assoc, and_assoc, h46, h2, h61, h56, h59, h59', h59'', ge_iff_le, hs]

/-- The tier that an entry names (R16). -/
def entryTier (e : DWord) : Tier := if e.extractLsb' 59 2 = 1#2 then .second else if e.extractLsb' 59 2 = 2#2 then .host else .hbm

theorem tierOf_entry (e : DWord) : (tierOf (ent e.toNat 59 2)).getD .hbm = entryTier e := by
  rw [ent_toNat, entryTier]
  generalize e.extractLsb' 59 2 = x
  revert x
  decide

/-! ## One level of a walk (R15 to R18, R29) -/

section
variable {s : State} {vd va L table : Nat} {t : Tier} {cached : Nat → Option (Tier × Nat)}

theorem walkFrom_of_cached {t2 : Tier} {table2 : Nat} (h : (if L = 0 then none else cached L) = some (t2, table2)) :
    walkFrom s vd va cached (L + 1) t table = walkFrom s vd va cached L t2 table2 := by
  rw [walkFrom, h]

theorem walkFrom_of_outside (h : (if L = 0 then none else cached L) = none) (hw : s.inWindow vd t table 4096 = false) :
    walkFrom s vd va cached (L + 1) t table = .ends (.error ⟨7, L, 0⟩) [] := by
  simp only [walkFrom, h, hw, Bool.not_false, if_true]

/-- What a walk does with the entry of a level (R17, R18). -/
def walkEntry (s : State) (vd va : Nat) (cached : Nat → Option (Tier × Nat)) (L : Nat) (e : DWord) (start : Bool) (reads : List Nat) : Walk :=
  if reads.any s.poisonedAt then .ends (.error ⟨8, L, 0⟩) reads
  else if e.getLsbD 0 = false then .ends (.error ⟨2, L, 0⟩) reads
  else if reservedEntry e.toNat L start then .ends (.error ⟨5, L, 0⟩) reads
  else if e.getLsbD 1 = false then
    { walkFrom s vd va cached L (entryTier e) ((e.extractLsb' 12 34).toNat * 4096) with
      tables := (L, entryTier e, (e.extractLsb' 12 34).toNat * 4096)
        :: (walkFrom s vd va cached L (entryTier e) ((e.extractLsb' 12 34).toNat * 4096)).tables
      reads := reads ++ (walkFrom s vd va cached L (entryTier e) ((e.extractLsb' 12 34).toNat * 4096)).reads }
  else if (e.extractLsb' 12 34).toNat * 4096 % leafSize L (e.getLsbD 56) ≠ 0 then .ends (.error ⟨6, L, (entryTier e).code⟩) reads
  else .ends (.ok { base := va / leafSize L (e.getLsbD 56) * leafSize L (e.getLsbD 56), size := leafSize L (e.getLsbD 56),
                    frame := (e.extractLsb' 12 34).toNat * 4096, ver := e.getLsbD 63, sa := e.getLsbD 62, ef := e.getLsbD 61,
                    tier := entryTier e, x := e.getLsbD 58, w := e.getLsbD 57, level := L }) reads

/-- An entry that ends the walk at a leaf (R17): its frame must be aligned to the size of the page. -/
theorem walkEntry_of_leaf {e : DWord} {start : Bool} {reads : List Nat} (h : ¬ reads.any s.poisonedAt = true) (hP : ¬ e.getLsbD 0 = false)
    (hr : ¬ reservedEntry e.toNat L start = true) (hleaf : ¬ e.getLsbD 1 = false) :
    walkEntry s vd va cached L e start reads =
      if (e.extractLsb' 12 34).toNat * 4096 % leafSize L (e.getLsbD 56) ≠ 0 then .ends (.error ⟨6, L, (entryTier e).code⟩) reads
      else .ends (.ok { base := va / leafSize L (e.getLsbD 56) * leafSize L (e.getLsbD 56), size := leafSize L (e.getLsbD 56),
                        frame := (e.extractLsb' 12 34).toNat * 4096, ver := e.getLsbD 63, sa := e.getLsbD 62, ef := e.getLsbD 61,
                        tier := entryTier e, x := e.getLsbD 58, w := e.getLsbD 57, level := L }) reads :=
  (if_neg h).trans ((if_neg hP).trans ((if_neg hr).trans (if_neg hleaf)))

theorem walkFrom_of_entry (h : (if L = 0 then none else cached L) = none) (hw : s.inWindow vd t table 4096 = true) {e : DWord} {start : Bool}
    {reads : List Nat}
    (he : (if L = 0 then s.levelZero t (s.reloc vd t table) (ent va (12 + 9 * L) 9)
      else (s.readNat t (s.reloc vd t table + 8 * ent va (12 + 9 * L) 9) 8, true, [s.reloc vd t table + 8 * ent va (12 + 9 * L) 9]))
        = (e.toNat, start, reads)) :
    walkFrom s vd va cached (L + 1) t table = walkEntry s vd va cached L e start reads := by
  have hp : ent e.toNat 0 1 = 0 ↔ e.getLsbD 0 = false := by rw [ent_bit]; cases e.getLsbD 0 <;> decide
  have hl : ent e.toNat 1 1 = 0 ↔ e.getLsbD 1 = false := by rw [ent_bit]; cases e.getLsbD 1 <;> decide
  have hbase (z : Nat) : va - va % z = va / z * z := by rw [Nat.div_mul_self_eq_mod_sub_self]
  simp only [walkFrom, h, hw, he, Bool.not_true, Bool.false_eq_true, if_false, walkEntry, hp, hl, ent_bit_beq, tierOf_entry, ent_toNat e 12 34, hbase]

end

/-- Entry i of a table. -/
def entryAt (s : State) (t : Tier) (base i : Nat) : DWord := BitVec.ofNat 64 (littleEndian (fun j => homeByte s t (base + 8 * i + j)) 0 8)

theorem entryAt_toNat (s : State) (t : Tier) (base i : Nat) : (entryAt s t base i).toNat = s.readNat t (base + 8 * i) 8 := by
  rw [entryAt, ← readNat_eq_littleEndian, BitVec.toNat_ofNat]
  exact Nat.mod_eq_of_lt (readNat_lt s t _ 8)

/-- The first of sixteen entries of level 0 decides alone: it is present and describes a 64 KiB page (R18). -/
abbrev bigEntry (L : Nat) (e : DWord) : Prop := L = 0 ∧ e.getLsbD 0 = true ∧ e.getLsbD 56 = true

/-- What is read of a table: the entry that decides, whether it may describe a 64 KiB page, and the addresses (R17, R18). -/
theorem tableRead_eq {s : State} {t : Tier} {base L i : Nat} {e : DWord} {reads : List Nat}
    (hbig : bigEntry L (entryAt s t base (i / 16 * 16)) → e = entryAt s t base (i / 16 * 16))
    (hsmall : ¬ bigEntry L (entryAt s t base (i / 16 * 16)) → e = entryAt s t base i)
    (hother : L ≠ 0 → reads = [base + 8 * i])
    (hstart : L = 0 → bigEntry L (entryAt s t base (i / 16 * 16)) ∨ i = i / 16 * 16 → reads = [base + 8 * (i / 16 * 16)])
    (hrest : L = 0 → ¬ (bigEntry L (entryAt s t base (i / 16 * 16)) ∨ i = i / 16 * 16) → reads = [base + 8 * (i / 16 * 16), base + 8 * i]) :
    (if L = 0 then s.levelZero t base i else (s.readNat t (base + 8 * i) 8, true, [base + 8 * i]))
      = (e.toNat, L != 0 || decide (bigEntry L (entryAt s t base (i / 16 * 16)) ∨ i = i / 16 * 16), reads) := by
  by_cases hL : L = 0
  · have hb : (ent (s.readNat t (base + 8 * (i / 16 * 16)) 8) 0 1 == 1 && ent (s.readNat t (base + 8 * (i / 16 * 16)) 8) 56 1 == 1) = true
        ↔ bigEntry L (entryAt s t base (i / 16 * 16)) := by
      rw [← entryAt_toNat, ent_bit_beq, ent_bit_beq, Bool.and_eq_true, bigEntry, and_iff_right hL]
    have hi : (i % 16 == 0) = true ↔ i = i / 16 * 16 := by rw [beq_iff_eq]; omega
    have hz : (L != 0) = false := by simp [hL]
    rw [if_pos hL, hz, Bool.false_or]
    unfold State.levelZero
    simp only [Bool.or_eq_true, hb, hi]
    by_cases hs : bigEntry L (entryAt s t base (i / 16 * 16)) ∨ i = i / 16 * 16
    · rw [if_pos hs, decide_eq_true hs, hstart hL hs, ← entryAt_toNat]
      by_cases hx : bigEntry L (entryAt s t base (i / 16 * 16))
      · rw [hbig hx]
      · rw [hsmall hx, ← hs.resolve_left hx]
    · rw [if_neg hs, decide_eq_false hs, hrest hL hs, hsmall fun hx => hs (.inl hx), entryAt_toNat]
  · have hx : ¬ bigEntry L (entryAt s t base (i / 16 * 16)) := fun h => hL h.1
    have hz : (L != 0) = true := by simp [hL]
    rw [if_neg hL, hz, Bool.true_or, hother hL, hsmall hx, entryAt_toNat]

/-- A table entry that a walk has read has an uncorrectable error. -/
theorem any_poisonedAt (s : State) (reads : List Nat) :
    reads.any s.poisonedAt = true ↔ ∃ a ∈ reads, ∃ x ∈ s.poisoned, a ≤ x ∧ x < a + 8 := by
  simp only [List.any_eq_true, State.poisonedAt, decide_eq_true_eq]

theorem leafSize_eq {L : Nat} (s64 : Bool) : leafSize L s64 = if L = 0 then (if s64 then 2 ^ 16 else 2 ^ 12) else if L = 1 then 2 ^ 21 else 2 ^ 30 := by
  unfold leafSize
  split <;> simp_all

/-! ## Whole walks (R23, R29) -/

theorem nonleafLook_spec (d : Die) (vd va L : Nat) :
    (∀ x, d.nonleafLook vd va L = some x → ∃ e ∈ d.nonleaf, e.vd = vd ∧ e.level = L ∧ e.index = va / 2 ^ (12 + 9 * L) ∧ x = (e.tier, e.table))
    ∧ (d.nonleafLook vd va L = none → ∀ e ∈ d.nonleaf, ¬ (e.vd = vd ∧ e.level = L ∧ e.index = va / 2 ^ (12 + 9 * L))) := by
  constructor
  · intro x h
    obtain ⟨e, he, hx⟩ := Option.map_eq_some_iff.1 h
    have ht := List.find?_some he
    simp only [Bool.and_eq_true, beq_iff_eq, and_assoc] at ht
    exact ⟨e, List.mem_of_find?_eq_some he, ht.1, ht.2.1, ht.2.2, hx.symm⟩
  · intro h e he hc
    have hn := List.find?_eq_none.1 (Option.map_eq_none_iff.1 h) e he
    simp only [Bool.and_eq_true, beq_iff_eq, and_assoc] at hn
    exact hn hc

theorem bits_root (r : DWord) : tierOf (bits r 10 2) = if r.getLsbD 11 then (if r.getLsbD 10 then none else some .host)
    else some (if r.getLsbD 10 then .second else .hbm) := by
  have h : bits r 10 2 = (r.extractLsb' 10 2).toNat := ent_toNat r 10 2
  have h10 : r.getLsbD 10 = (r.extractLsb' 10 2).getLsbD 0 := by simp
  have h11 : r.getLsbD 11 = (r.extractLsb' 10 2).getLsbD 1 := by simp
  rw [h, h10, h11]
  generalize r.extractLsb' 10 2 = x
  revert x
  decide

/-- A walk begins at the table of `GROOT`, or ends there when the root names no tier of the module (R23). -/
theorem walkWith_eq (s : State) (vd va : Nat) (cached : Nat → Option (Tier × Nat)) :
    s.walkWith vd va cached =
      if ((s.device vd).xlate.get 0 0).getLsbD 11 then ⟨.error ⟨5, 4, 0⟩, [], []⟩
      else walkFrom s vd va cached 5 (if ((s.device vd).xlate.get 0 0).getLsbD 10 then .second else .hbm)
        ((((s.device vd).xlate.get 0 0).extractLsb' 12 34).toNat * 4096) := by
  have hb : bits ((s.device vd).xlate.get 0 0) 12 34 = (((s.device vd).xlate.get 0 0).extractLsb' 12 34).toNat := ent_toNat _ 12 34
  unfold State.walkWith
  simp only [bits_root, hb]
  cases ((s.device vd).xlate.get 0 0).getLsbD 11 <;> cases ((s.device vd).xlate.get 0 0).getLsbD 10 <;> rfl

/-- Settles O19. -/
theorem translation : Obligations.Translation := by
  refine ⟨fun g tick a l => ⟨laneAddr_global g tick a l, laneAddr_scratch g tick a l⟩, fun s vd look kind va n hn hva h => ⟨?_, ?_, ?_, ?_⟩,
    ⟨?_, fun s vd va die => ?_⟩, fun s vd look kind va m n hm hmn hp _ => translate_split s vd look kind hm hmn hp⟩
  · exact fun hc => translate_of_noncanonical hn hva h hc
  · exact fun hc hl => translate_of_unknown hn hva h hc hl
  · exact fun hc f tlb hl => translate_one_page hn hva h hc hl
  · intro hc p tlb hl rel level w
    have ht := translate_one_page (s := s) (vd := vd) (kind := kind) hn hva h hc hl
    split
    case isTrue hw =>
      rw [ht, translatePiece_in_window hw]
      by_cases hwrite : kind ∈ [Access.store, .atomic, .commit] ∧ p.w = false
      · simp only [if_pos hwrite]; rfl
      · by_cases hfetch : kind = .fetch ∧ p.x = false
        · simp only [if_neg hwrite, if_pos hfetch]; rfl
        · simp only [if_neg hwrite, if_neg hfetch]; rfl
    case isFalse hw =>
      rw [ht, translatePiece_of_window_missed hw]
      exact ⟨_, rfl, windowByte_lowest hn hw⟩
  · intro s vd va L table t cached hL hva w stops win seen
    refine ⟨fun t2 table2 h => walkFrom_of_cached h, fun hs hw => walkFrom_of_outside hs (decide_eq_false hw), ?_⟩
    intro hs hlo hhi entry place i i0 big start e reads hbig hsmall hother hstart hrest
    have hread := tableRead_eq (s := s) (t := t) (base := s.reloc vd t table) (L := L) (i := i) hbig hsmall hother hstart hrest
    have hw : w = walkEntry s vd va cached L e (L != 0 || decide start) reads :=
      walkFrom_of_entry hs (decide_eq_true ⟨hlo, hhi⟩) hread
    intro P LEAF FRAME S64 TIER tier VER reserved size poisoned
    have hpoison : reads.any s.poisonedAt = true ↔ poisoned := any_poisonedAt s reads
    have hres : reservedEntry e.toNat L (L != 0 || decide start) = true ↔ reserved := reservedEntry_iff e L start
    have hsize : leafSize L S64 = size := leafSize_eq S64
    have hpresent : P = true → ¬ e.getLsbD 0 = false := fun h => by rw [Bool.not_eq_false]; exact h
    have hleafs : LEAF = true → ¬ e.getLsbD 1 = false := fun h => by rw [Bool.not_eq_false]; exact h
    refine ⟨fun h => ?_, fun h hP => ?_, fun h hP hr => ?_, fun h hP hr hleaf => ?_, fun h hP hr hleaf halign => ?_,
      fun h hP hr hleaf halign => ?_⟩
    · exact hw.trans (if_pos (hpoison.2 h))
    · exact hw.trans ((if_neg (mt hpoison.1 h)).trans (if_pos hP))
    · exact hw.trans ((if_neg (mt hpoison.1 h)).trans ((if_neg (hpresent hP)).trans (if_pos (hres.2 hr))))
    · exact hw.trans ((if_neg (mt hpoison.1 h)).trans ((if_neg (hpresent hP)).trans ((if_neg (mt hres.1 hr)).trans (if_pos hleaf))))
    · have hsplit := hw.trans (walkEntry_of_leaf (mt hpoison.1 h) (hpresent hP) (mt hres.1 hr) (hleafs hleaf))
      exact hsplit.trans (if_pos (hsize ▸ halign))
    · have hsplit := hw.trans (walkEntry_of_leaf (mt hpoison.1 h) (hpresent hP) (mt hres.1 hr) (hleafs hleaf))
      refine hsplit.trans ((if_neg (not_not.2 (hsize ▸ halign))).trans ?_)
      rw [hsize]
      rfl
  · intro groot cached
    have hw := walkWith_eq s vd va
    refine ⟨fun h => ?_, fun h => ?_⟩
    · exact (hw _).trans (if_pos h)
    · have hroot : ¬ groot.getLsbD 11 = true := by rw [h]; decide
      cases die with
      | none => exact ⟨_, (hw _).trans (if_neg hroot), fun n hn => (by cases hn), fun _ _ => rfl⟩
      | some n =>
        refine ⟨_, (hw _).trans (if_neg hroot), fun m hm L => ?_, fun hn => by cases hn⟩
        cases hm
        exact nonleafLook_spec _ vd va L

end Sys2Proof.Laws
end

section
/-! What the accessors of the state return after its updates, and what the events of several lanes leave of a group (R33, R196, R389). -/

namespace Sys2Proof.Laws

open Sys2Proof Sys2Proof.Machine Sys2Proof.Claim

/-! ## Objects of the state after an update -/

theorem tabGet_put {α : Type} (t : Tab α) (n m : Nat) (x d : α) : (t.put n x).get m d = if m = n then x else t.get m d := by
  simp only [Tab.get, Tab.look_put]
  split <;> rfl

@[simp] theorem core_withCore_self (s : State) (c : Nat) (f : Core → Core) : (s.withCore c f).core c = f (s.core c) :=
  Tab.get_put_self ..

theorem core_withCore_ne (s : State) {c c' : Nat} (f : Core → Core) (h : c' ≠ c) : (s.withCore c f).core c' = s.core c' :=
  Tab.get_put_ne _ _ _ _ _ h

theorem core_withCore (s : State) (c c' : Nat) (f : Core → Core) :
    (s.withCore c f).core c' = if c' = c then f (s.core c) else s.core c' := tabGet_put ..

theorem core_setGroup (s : State) (c k c' : Nat) (g : Group) :
    (s.setGroup c k g).core c' = if c' = c then { s.core c with groups := (s.core c).groups.put k g } else s.core c' := core_withCore ..

@[simp] theorem core_setGroup_scratch (s : State) (c k c' : Nat) (g : Group) : ((s.setGroup c k g).core c').scratch = (s.core c').scratch := by
  rw [core_setGroup]
  split
  · next h => subst h; rfl
  · rfl

@[simp] theorem group?_setGroup_self (s : State) (c k : Nat) (g : Group) : (s.setGroup c k g).group? c k = some g := by
  simp [State.group?, core_setGroup]

theorem group?_setGroup_ne (s : State) {c k c' k' : Nat} (g : Group) (h : ¬ (c' = c ∧ k' = k)) :
    (s.setGroup c k g).group? c' k' = s.group? c' k' := by
  unfold State.group?
  rw [core_setGroup]
  split
  · next hc =>
    subst hc
    exact Tab.look_put_ne _ _ _ _ fun hk => h ⟨rfl, hk⟩
  · rfl

@[simp] theorem core_newOp (s : State) (c : Nat) : (s.newOp).core c = s.core c := rfl

/-- Replacing a group leaves every byte of memory and of the scratchpads, and every other group. -/
theorem Local.setGroup (s : State) (c k : Nat) (g : Group) : Local s (s.setGroup c k g) c k :=
  ⟨fun _ => ⟨rfl, rfl, rfl⟩, fun _ _ => by rw [core_setGroup_scratch], fun _ _ h => group?_setGroup_ne s g h⟩

/-! ## Events of several lanes -/

/-- The event that a lane takes at the current instruction (R387, R393). -/
def laneRaise (g : Group) (what : Raise) (l : Nat) : LaneEvent :=
  { lane := l, what := what, escalates := (g.lane l).trap && escalating what, word := g.clause.idx, rword := g.clause.idx,
    sword := g.clause.idx + g.clause.len }

theorem raiseLanes_eq (g : Group) (ls : LaneSet) (what : Raise) :
    g.raiseLanes ls what g.clause.idx (g.clause.idx + g.clause.len) =
      { g with clause := { g.clause with active := g.clause.active &&& ~~~ls,
                                         events := g.clause.events ++ (lanesOf ls).map (laneRaise g what) } } := rfl

theorem raiseLane_event (g : Group) {l : Nat} (what : Raise) (hl : l < 32) :
    g.raiseLane l what =
      { g with clause := { g.clause with active := g.clause.active &&& ~~~laneBit l, events := g.clause.events ++ [laneRaise g what l] } } := by
  unfold Group.raiseLane
  rw [raiseLanes_eq, lanesOf_laneBit l hl]
  rfl

/-- Lanes that take events one after another. -/
def raiseEach (g : Group) (xs : List (Nat × Raise)) : Group := xs.foldl (fun a x => a.raiseLane x.1 x.2) g

/-- The lanes of a set without those of a list. -/
def withoutLanes (ls : LaneSet) (xs : List Nat) : LaneSet := xs.foldl (fun a l => a &&& ~~~laneBit l) ls

theorem getLsbD_withoutLanes (ls : LaneSet) (xs : List Nat) (hxs : ∀ l ∈ xs, l < 32) {l : Nat} (hl : l < 32) :
    (withoutLanes ls xs).getLsbD l = true ↔ ls.getLsbD l = true ∧ l ∉ xs := by
  induction xs generalizing ls with
  | nil => simp [withoutLanes]
  | cons x rest ih =>
    have hx := hxs x List.mem_cons_self
    have hstep := ih (ls &&& ~~~laneBit x) fun l h => hxs l (List.mem_cons_of_mem _ h)
    simp only [withoutLanes, List.foldl_cons] at hstep ⊢
    rw [hstep, BitVec.getLsbD_and, BitVec.getLsbD_not, getLsbD_laneBit x l hx]
    simp only [hl, decide_true, Bool.true_and, Bool.and_eq_true, Bool.not_eq_true', decide_eq_false_iff_not, List.mem_cons, not_or, and_assoc]

theorem raiseEach_eq (g : Group) (xs : List (Nat × Raise)) (hxs : ∀ x ∈ xs, x.1 < 32) :
    raiseEach g xs = { g with clause := { g.clause with
      active := withoutLanes g.clause.active (xs.map (·.1)),
      events := g.clause.events ++ xs.map fun x => laneRaise g x.2 x.1 } } := by
  induction xs generalizing g with
  | nil => simp [raiseEach, withoutLanes]
  | cons x rest ih =>
    have hstep := ih (g.raiseLane x.1 x.2) fun y h => hxs y (List.mem_cons_of_mem _ h)
    have hfirst := raiseLane_event g x.2 (hxs x List.mem_cons_self)
    simp only [raiseEach, List.foldl_cons] at hstep ⊢
    rw [hstep, hfirst]
    simp only [withoutLanes, List.map_cons, List.foldl_cons, List.append_assoc, List.singleton_append]
    rfl

/-- Events of rising lanes are events raised. -/
theorem raised_raiseEach (g : Group) (xs : List (Nat × Raise)) (hxs : ∀ x ∈ xs, x.1 < 32) (hsort : (xs.map (·.1)).Pairwise (· < ·))
    {P : Nat → Prop} (hP : ∀ l, l ∈ xs.map (·.1) ↔ l < 32 ∧ P l) {e : Nat → LaneEvent} (he : ∀ x ∈ xs, e x.1 = laneRaise g x.2 x.1) :
    Raised g (raiseEach g xs) P e := by
  have hlanes : ∀ l ∈ xs.map (·.1), l < 32 := fun l h => ((hP l).1 h).1
  rw [raiseEach_eq g xs hxs]
  refine ⟨fun l hl => ?_, ⟨xs.map (·.1), hsort, hP, ?_⟩, rfl, rfl⟩
  · have := getLsbD_withoutLanes g.clause.active (xs.map (·.1)) hlanes hl
    rw [hP] at this
    simp only [active, this, hl, true_and]
  · rw [List.map_map]
    exact congrArg _ (List.map_congr_left fun x hx => (he x hx).symm)

/-- An event that every active lane takes. -/
theorem raised_raiseAll (g : Group) (what : Raise) {e : Nat → LaneEvent} (he : ∀ l, l < 32 → active g l → e l = laneRaise g what l) :
    Raised g (g.raiseAll what) (active g) e := by
  unfold Group.raiseAll
  rw [raiseLanes_eq]
  refine ⟨fun l hl => ?_, ⟨lanesOf g.clause.active, lanesOf_sorted _, fun l => mem_lanesOf _ l, ?_⟩, rfl, rfl⟩
  · simp [active]
  · exact congrArg _ (List.map_congr_left fun l hl => (he l ((mem_lanesOf _ l).1 hl).1 ((mem_lanesOf _ l).1 hl).2).symm)

/-- A trap at the current instruction, as the statements write it. -/
theorem trapEvent_eq (g : Group) (cause : TrapCause) (info : Word) (addr : DWord) (l : Nat) :
    trapEvent g cause info addr g.clause.idx (g.clause.idx + g.clause.len) l = laneRaise g (.trap cause info addr) l := by
  simp [trapEvent, laneRaise, escalating]

theorem faultEvent_eq (g : Group) (f : XFault) (kind : Access) (space addr l : Nat) :
    faultEvent g f kind space addr l = laneRaise g (f.raises kind space addr) l := rfl

/-- What stops each lane of a list, in order: the lanes that stop with their events, and the lanes that go on. -/
def stoppedOf {α : Type} (stop : Nat × α → Option Raise) (xs : List (Nat × α)) : List (Nat × Raise) :=
  xs.filterMap fun x => (stop x).map fun r => (x.1, r)

theorem mem_stoppedOf_lane {α : Type} (stop : Nat × α → Option Raise) (xs : List (Nat × α)) (l : Nat) :
    l ∈ (stoppedOf stop xs).map (·.1) ↔ ∃ x ∈ xs, x.1 = l ∧ stop x ≠ none := by
  simp only [stoppedOf, List.mem_map, List.mem_filterMap, Option.map_eq_some_iff]
  constructor
  · rintro ⟨y, ⟨x, hx, r, hr, rfl⟩, rfl⟩
    exact ⟨x, hx, rfl, by rw [hr]; exact Option.some_ne_none r⟩
  · rintro ⟨x, hx, rfl, hs⟩
    obtain ⟨r, hr⟩ := Option.ne_none_iff_exists'.1 hs
    exact ⟨(x.1, r), ⟨x, hx, r, hr, rfl⟩, rfl⟩

theorem stoppedOf_lanes_sublist {α : Type} (stop : Nat × α → Option Raise) (xs : List (Nat × α)) :
    ((stoppedOf stop xs).map (·.1)).Sublist (xs.map (·.1)) := by
  induction xs with
  | nil => exact List.Sublist.slnil
  | cons x rest ih =>
    simp only [stoppedOf, List.filterMap_cons] at ih ⊢
    cases stop x with
    | none => exact ih.cons _
    | some r => exact ih.cons_cons _

/-- The lanes of a list of active lanes that stop take their events; the others stay. -/
theorem raised_stopped {α : Type} (g : Group) (stop : Nat × α → Option Raise) (arg : Nat → α) {P : Nat → Prop}
    (hP : ∀ l, l < 32 → (P l ↔ active g l ∧ stop (l, arg l) ≠ none)) {e : Nat → LaneEvent}
    (he : ∀ l r, l < 32 → active g l → stop (l, arg l) = some r → e l = laneRaise g r l) :
    Raised g (raiseEach g (stoppedOf stop ((lanesOf g.clause.active).map fun l => (l, arg l)))) P e := by
  have hmem (l : Nat) : l ∈ (stoppedOf stop ((lanesOf g.clause.active).map fun l => (l, arg l))).map (·.1) ↔ l < 32 ∧ P l := by
    rw [mem_stoppedOf_lane]
    simp only [List.mem_map, mem_lanesOf]
    constructor
    · rintro ⟨_, ⟨l, ⟨hl, ha⟩, rfl⟩, rfl, hs⟩
      exact ⟨hl, (hP l hl).2 ⟨ha, hs⟩⟩
    · rintro ⟨hl, h⟩
      obtain ⟨ha, hs⟩ := (hP l hl).1 h
      exact ⟨_, ⟨l, ⟨hl, ha⟩, rfl⟩, rfl, hs⟩
  refine raised_raiseEach g _ (fun x hx => ((hmem x.1).1 (List.mem_map_of_mem hx)).1) ?_ hmem fun x hx => ?_
  · refine (lanesOf_sorted g.clause.active).sublist ?_
    have := stoppedOf_lanes_sublist stop ((lanesOf g.clause.active).map fun l => (l, arg l))
    simpa only [List.map_map, Function.comp_def, List.map_id'] using this
  · simp only [stoppedOf, List.mem_filterMap, List.mem_map, mem_lanesOf, Option.map_eq_some_iff] at hx
    obtain ⟨_, ⟨l, ⟨hl, ha⟩, rfl⟩, r, hr, rfl⟩ := hx
    exact he l r hl ha hr

theorem raised_frame_eq {g g' : Group} {P : Nat → Prop} {e : Nat → LaneEvent} (h : Raised g g' P e) :
    g' = { g with clause := g'.clause } := by
  have := h.frame
  rw [← this]

end Sys2Proof.Laws
end

section
/-! The bytes and registers of loads and stores (R141, R304), the counters of operations (R118), and what accesses wait for (R110, R113). -/

namespace Sys2Proof.Laws

open Sys2Proof Sys2Proof.Machine Sys2Proof.Claim

/-! ## Bytes -/

theorem toBytes_eq_map (n x : Nat) : toBytes n x = (List.range n).map fun j => BitVec.ofNat 8 (x / 256 ^ j) := by
  induction n generalizing x with
  | zero => rfl
  | succ n ih =>
    rw [toBytes, ih, List.range_succ_eq_map, List.map_cons, List.map_map, Nat.pow_zero, Nat.div_one]
    refine congrArg _ (List.map_congr_left fun j _ => ?_)
    rw [Function.comp, Nat.pow_succ', Nat.div_div_eq_div_mul]

/-- Runs of z values, one run after another. -/
theorem range_mul_eq_flatMap (z E : Nat) {α : Type} (f : Nat → Nat → α) :
    ((List.range E).flatMap fun e => (List.range z).map fun j => f e j) = (List.range (z * E)).map fun i => f (i / z) (i % z) := by
  induction E with
  | zero => rfl
  | succ E ih =>
    rw [List.range_succ, List.flatMap_append, ih, Nat.mul_succ, List.range_add, List.map_append]
    refine congrArg _ ?_
    rw [List.flatMap_singleton, List.map_map]
    refine List.map_congr_left fun j hj => ?_
    have hj := List.mem_range.1 hj
    rw [Function.comp, Nat.mul_add_div (by omega), Nat.mul_add_mod, Nat.div_eq_of_lt hj, Nat.mod_eq_of_lt hj, Nat.add_zero]

/-- What a lane stores, byte by byte (R304). -/
theorem storeBytes_eq (g : Group) (tick d l : Nat) {z : Nat} (hz : 0 < z) (E : Nat) :
    g.storeBytes tick d l z (z * E) = (List.range (z * E)).map (storedByte g tick d z l) := by
  simp only [Group.storeBytes, Nat.mul_div_cancel_left E hz, toBytes_eq_map, range_mul_eq_flatMap]
  rfl

/-- An element of a sequence of bytes (R304). -/
theorem ofBytes_element (byte : Nat → Byte) {z E e : Nat} (he : e < E) :
    ofBytes ((((List.range (z * E)).map byte).drop (e * z)).take z) = littleEndian byte (z * e) z := by
  refine congrArg ofBytes (List.ext_getElem ?_ fun i h1 h2 => ?_)
  · have : z * (e + 1) ≤ z * E := Nat.mul_le_mul_left z he
    have : z * (e + 1) = z * e + z := Nat.mul_succ z e
    simp only [List.length_take, List.length_drop, List.length_map, List.length_range, Nat.mul_comm e z]
    omega
  · simp [Nat.mul_comm e z]

/-! ## Registers -/

theorem ofNat_extendElem {z : Nat} {signed : Bool} (h : signed = true → z < 4) (v : Nat) :
    BitVec.ofNat 32 (extendElem z signed v) = if signed then (BitVec.ofNat (8 * z) v).signExtend 32 else BitVec.ofNat 32 v := by
  unfold extendElem
  cases signed with
  | false => rfl
  | true =>
    simp only [h rfl, decide_true, Bool.and_true, if_true, Num.wrap, BitVec.signExtend]
    refine BitVec.eq_of_toNat_eq ?_
    rw [BitVec.toNat_ofNat, BitVec.toNat_ofInt]
    omega

/-- The registers that a load delivers to some lanes are those of the statements (R304). -/
theorem delivers_loadWrites (op d z E : Nat) {signed : Bool} (hs : signed = true → z < 4) (hz : 0 < z) (L : List Nat) {P : Nat → Prop}
    (hL : ∀ l, l ∈ L ↔ l < 32 ∧ P l) (byte : Nat → Nat → Byte) :
    Delivers op d z E signed P byte (L.flatMap fun l => loadWrites op d l z signed ((List.range (z * E)).map (byte l))) := by
  intro p
  simp only [List.mem_flatMap, loadWrites, List.length_map, List.length_range, Nat.mul_div_cancel_left E hz, List.mem_range, hL]
  constructor
  · rintro ⟨l, ⟨hl, hP⟩, e, he, hp⟩
    refine ⟨l, e, hl, hP, he, ?_⟩
    rw [ofBytes_element (byte l) he] at hp
    split
    · next h8 =>
      subst h8
      simpa [extendElem] using hp
    · next h8 => simpa [h8, ofNat_extendElem hs] using hp
  · rintro ⟨l, e, hl, hP, he, hp⟩
    refine ⟨l, ⟨hl, hP⟩, e, he, ?_⟩
    rw [ofBytes_element (byte l) he]
    by_cases h8 : z = 8
    · subst h8
      simpa [extendElem] using hp
    · rw [if_neg h8] at hp
      simpa [h8, ofNat_extendElem hs] using hp

/-- The registers of E elements are within the budget as the statements say it. -/
theorem spanRegs_eq {z : Nat} (hz : 0 < z) (E : Nat) : spanRegs z (z * E) = if z = 8 then 2 * E else E := by
  unfold spanRegs
  split
  · next h => rw [h, Nat.mul_div_cancel_left E (by decide)]
  · exact Nat.mul_div_cancel_left E hz

/-! ## Counters -/

theorem count_loads (g : Group) (op : Nat) (done : Bool) : g.count .loads op done = { g with loads := counted g.loads op done } := rfl

theorem count_stores (g : Group) (op : Nat) (done : Bool) : g.count .stores op done = { g with stores := counted g.stores op done } := rfl

/-! ## What writes, releases and engine operations wait for (R110, R113, R117; log 28) -/

theorem span_isSome (r : HomeReq) : r.span.isSome = true ↔ Underway r := by
  unfold HomeReq.span Underway
  cases r.kind <;> simp

theorem pendingOf_core_eq_none (s : State) (c : Nat) : s.pendingOf c none = none ↔ ∀ r ∈ s.requests, r.core = c → ¬ Underway r := by
  simp only [State.pendingOf, List.find?_eq_none, Bool.and_true, Bool.and_eq_true, beq_iff_eq, span_isSome, not_and]

theorem pendingOf_group_eq_none (s : State) (c k : Nat) : s.pendingOf c (some k) = none ↔ GroupQuiet s c k := by
  simp only [State.pendingOf, List.find?_eq_none, Bool.and_eq_true, beq_iff_eq, span_isSome, GroupQuiet, not_and]
  exact forall_congr' fun r => forall_congr' fun _ => ⟨fun h hc hk hu => h ⟨hc, hu⟩ hk, fun h hu hk => h hu.1 hk hu.2⟩

theorem coreHold_eq_none (s : State) (c : Nat) (queue : Bool) : s.coreHold c queue = none ↔ CoreQuiet s c (queue = true) := by
  rw [CoreQuiet, ← pendingOf_core_eq_none]
  unfold State.coreHold
  cases s.pendingOf c none with
  | some r => simp
  | none => cases queue <;> simp

theorem releaseHold_eq_none (s : State) (c : Nat) (g : Group) (wide queue : Bool) :
    s.releaseHold c g wide queue = none ↔ g.loads = [] ∧ (wide = true → g.stores = []) ∧ CoreQuiet s c (wide = true ∧ queue = true) := by
  have hready : releaseReady g wide = true ↔ g.loads = [] ∧ (wide = true → g.stores = []) := by
    cases wide <;> simp [releaseReady]
  unfold State.releaseHold
  by_cases h : releaseReady g wide = true
  · obtain ⟨hloads, hstores⟩ := hready.1 h
    simp only [h, Bool.not_true, Bool.false_eq_true, if_false, coreHold_eq_none, Bool.and_eq_true]
    exact ⟨fun hq => ⟨hloads, hstores, hq⟩, fun hq => hq.2.2⟩
  · rw [if_pos (by simpa using h)]
    simp only [reduceCtorEq, false_iff]
    exact fun hc => h (hready.2 ⟨hc.1, hc.2.1⟩)

theorem writeHold_eq_none (s : State) (c k : Nat) (g : Group) (release wide queue : Bool) :
    s.writeHold c k g release wide queue = none ↔ (release = true → s.releaseHold c g wide queue = none) ∧ GroupQuiet s c k := by
  rw [← pendingOf_group_eq_none]
  unfold State.writeHold
  cases release with
  | false => simp
  | true => cases s.releaseHold c g wide queue <;> simp

/-- A group that waits and performs its instruction again. -/
theorem waitsAgain_waitOn {s : State} {c k : Nat} {g : Group} {i : Instr} {w : Wait} (h : exec i s = .next (s.setGroup c k (g.waitOn w))) :
    WaitsAgain s c k g i := ⟨_, h, rfl, rfl, rfl, rfl⟩

theorem isRelease_iff (o : MemOrder) : isRelease o = true ↔ o = .rel ∨ o = .ar := by cases o <;> decide

theorem isAcquire_iff (o : MemOrder) : isAcquire o = true ↔ o = .acq ∨ o = .ar := by cases o <;> decide

theorem wideScope_iff (o : Scope) : wideScope o = true ↔ o ≠ .grp ∧ o ≠ .gang := by cases o <;> decide

end Sys2Proof.Laws
end

section
/-! Scratchpad accesses (R7, R35, R304, R308 to R310, R122) and latch conflicts (R119 to R125). -/

namespace Sys2Proof.Laws

open Sys2Proof Sys2Proof.Machine Sys2Proof.Claim

/-! ## What stops a lane -/

/-- What stops the scratchpad access of a lane at an offset: the bound (R7), or a latch entry (R122). -/
def scratchStop (g : Group) (x : Core) (gangNo : Nat) (y : Gang) (n : Nat) (kind : Access) (writes : Bool) (p : Nat × Nat) : Option Raise :=
  if y.bound < p.2 + n then some (boundFault kind p.2)
  else (x.latchHit (some gangNo) 0 p.2 n writes).map fun e => .trap .latch (g.latchInfo e) (BitVec.ofNat 64 p.2)

theorem sortScratch_eq (g : Group) (x : Core) (gangNo : Nat) (y : Gang) (n : Nat) (kind : Access) (writes : Bool) (xs : List (Nat × Nat)) :
    g.sortScratch x gangNo y n kind writes xs =
      (raiseEach g (stoppedOf (scratchStop g x gangNo y n kind writes) xs),
       xs.filter fun p => (scratchStop g x gangNo y n kind writes p).isNone) := by
  induction xs generalizing g with
  | nil => rfl
  | cons p rest ih =>
    obtain ⟨l, o⟩ := p
    have hraise (w : Raise) : scratchStop (g.raiseLane l w) x gangNo y n kind writes = scratchStop g x gangNo y n kind writes := rfl
    unfold Group.sortScratch
    by_cases hb : y.bound < o + n
    · have hs : scratchStop g x gangNo y n kind writes (l, o) = some (boundFault kind o) := if_pos hb
      simp only [if_pos hb, ih, hraise, stoppedOf, List.filterMap_cons, List.filter_cons, hs, Option.map_some, Option.isNone_some,
        Bool.false_eq_true, if_false]
      rfl
    · cases hl : x.latchHit (some gangNo) 0 o n writes with
      | some e =>
        have hs : scratchStop g x gangNo y n kind writes (l, o) = some (.trap .latch (g.latchInfo e) (BitVec.ofNat 64 o)) := by
          simp only [scratchStop, if_neg hb, hl, Option.map_some]
        simp only [if_neg hb, ih, hraise, stoppedOf, List.filterMap_cons, List.filter_cons, hs, Option.map_some, Option.isNone_some,
          Bool.false_eq_true, if_false]
        rfl
      | none =>
        have hs : scratchStop g x gangNo y n kind writes (l, o) = none := by
          simp only [scratchStop, if_neg hb, hl, Option.map_none]
        simp only [if_neg hb, ih, stoppedOf, List.filterMap_cons, List.filter_cons, hs, Option.map_none, Option.isNone_none, if_true]

/-- The event of a lane that the bound or a latch entry stops, as the statements write it. -/
def scratchEvent (g : Group) (x : Core) (rows n : Nat) (kind : Access) (writes : Bool) (a l : Nat) : Option LaneEvent :=
  if 148 * rows < a + n then some (faultEvent g ⟨0x0A, 7, 0⟩ kind 1 a l)
  else (x.latchHit (some g.gang) 0 a n writes).map fun e =>
    trapEvent g .latch (g.latchInfo e) (BitVec.ofNat 64 a) g.clause.idx (g.clause.idx + g.clause.len) l

theorem scratchEvent_eq (g : Group) (x : Core) (y : Gang) (n : Nat) (kind : Access) (writes : Bool) (a l : Nat) :
    scratchEvent g x y.rows n kind writes a l = (scratchStop g x g.gang y n kind writes (l, a)).map fun r => laneRaise g r l := by
  unfold scratchEvent scratchStop Gang.bound
  split
  · rfl
  · rw [Option.map_map]
    exact congrArg (Option.map · _) (funext fun e => trapEvent_eq ..)

theorem scratchEvent_eq_none (g : Group) (x : Core) (y : Gang) (n : Nat) (kind : Access) (writes : Bool) (a l : Nat) :
    scratchEvent g x y.rows n kind writes a l = none ↔ scratchStop g x g.gang y n kind writes (l, a) = none := by
  rw [scratchEvent_eq, Option.map_eq_none_iff]

/-- The active lanes whose scratchpad access goes on. -/
def scratchLive (g : Group) (x : Core) (y : Gang) (n : Nat) (kind : Access) (writes : Bool) (a : Nat → Nat) : List Nat :=
  (actives g).filter fun l => decide (scratchEvent g x y.rows n kind writes (a l) l = none)

/-- The group once the active lanes that stop have taken their events. -/
def scratchSorted (g : Group) (x : Core) (y : Gang) (n : Nat) (kind : Access) (writes : Bool) (a : Nat → Nat) : Group :=
  raiseEach g (stoppedOf (scratchStop g x g.gang y n kind writes) ((lanesOf g.clause.active).map fun l => (l, a l)))

theorem sortScratch_active (g : Group) (x : Core) (y : Gang) (n : Nat) (kind : Access) (writes : Bool) (tick : Nat) (o : MemAddr) :
    g.sortScratch x g.gang y n kind writes (g.laneAddrs tick false o) =
      (scratchSorted g x y n kind writes (g.laneAddr tick false o),
       (scratchLive g x y n kind writes (g.laneAddr tick false o)).map fun l => (l, g.laneAddr tick false o l)) := by
  rw [sortScratch_eq]
  refine congrArg (Prod.mk _) ?_
  rw [Group.laneAddrs, List.filter_map]
  refine congrArg (List.map _) (List.filter_congr fun l _ => ?_)
  simp only [Function.comp, scratchEvent_eq_none]
  cases scratchStop g x g.gang y n kind writes (l, g.laneAddr tick false o l) <;> rfl

section
variable (g : Group) (x : Core) (y : Gang) (n : Nat) (kind : Access) (writes : Bool) (a : Nat → Nat)

theorem mem_scratchLive (l : Nat) :
    l ∈ scratchLive g x y n kind writes a ↔ l < 32 ∧ active g l ∧ scratchEvent g x y.rows n kind writes (a l) l = none := by
  simp only [scratchLive, actives, List.mem_filter, List.mem_range, decide_eq_true_eq, and_assoc, active]

theorem scratchLive_ne_nil : scratchLive g x y n kind writes a ≠ [] ↔
    ∃ l, l < 32 ∧ active g l ∧ scratchEvent g x y.rows n kind writes (a l) l = none := by
  simp only [ne_eq, List.eq_nil_iff_forall_not_mem, mem_scratchLive, not_forall, not_not]

/-- The lanes that stop take their events. -/
theorem raised_scratchSorted (d : Nat → LaneEvent) {P : Nat → Prop}
    (hP : ∀ l, l < 32 → (P l ↔ active g l ∧ scratchEvent g x y.rows n kind writes (a l) l ≠ none)) :
    Raised g (scratchSorted g x y n kind writes a) P fun l => (scratchEvent g x y.rows n kind writes (a l) l).getD (d l) := by
  refine raised_stopped g _ a (fun l hl => ?_) fun l r hl ha hr => ?_
  · rw [hP l hl, Ne, scratchEvent_eq_none]
  · rw [scratchEvent_eq, hr]
    rfl

end

theorem gangOf_eq {s : State} {c : Nat} {g : Group} {y : Gang} (h : s.gang? c g.gang = some y) : s.gangOf c g = y := by
  unfold State.gangOf
  rw [h]
  rfl

/-! ## Loads -/

/-- The budget and address checks of an access (R193, R304). -/
theorem access_checks {g : Group} {o : MemAddr} {d z E : Nat} (hz : 0 < z) :
    (!g.addrOk o || !g.inBudget d (spanRegs z (z * E))) = true ↔ ¬ (g.addrOk o = true ∧ g.inBudget d (if z = 8 then 2 * E else E) = true) := by
  rw [spanRegs_eq hz]
  cases g.addrOk o <;> cases g.inBudget d (if z = 8 then 2 * E else E) <;> decide

/-- What a load leaves of its group, once its lanes are sorted: its registers to come, and one more operation counted. -/
theorem raised_load {g g1 : Group} {P : Nat → Prop} {e : Nat → LaneEvent} (h : Raised g g1 P e) (ps : List PendingReg) (op : Nat) :
    ((g1.expect ps).count .loads op false).pend = g.pend ++ ps ∧ ((g1.expect ps).count .loads op false).loads = counted g.loads op false
      ∧ Raised g { (g1.expect ps).count .loads op false with pend := g.pend, loads := g.loads } P e := by
  have hframe := raised_frame_eq h
  have hpend : g1.pend = g.pend := by rw [hframe]
  have hloads : g1.loads = g.loads := by rw [hframe]
  refine ⟨by rw [← hpend]; rfl, by rw [← hloads]; rfl, ?_⟩
  have : ({ (g1.expect ps).count .loads op false with pend := g.pend, loads := g.loads } : Group) = g1 := by
    rw [count_loads, ← hpend, ← hloads]
    rfl
  rwa [this]

/-- What a scratchpad load does (R304, R308). -/
theorem loadScratch_eq {s : State} {c k : Nat} {g : Group} {y : Gang} (hrun : Runs s c k g) (hy : s.gang? c g.gang = some y) {z : Nat}
    (hz : 0 < z) (signed : Bool) (o : ScratchAccess) :
    loadScratch z signed o s =
      let E := elemsOf (z == 8) o.wid
      let a := g.laneAddr s.tick false o.addr
      let live := scratchLive g (s.core c) y (z * E) .load false a
      let g1 := scratchSorted g (s.core c) y (z * E) .load false a
      .next (
        if g.addrOk o.addr = true ∧ g.inBudget o.data.toNat (if z = 8 then 2 * E else E) = true then
          if live = [] then s.setGroup c k g1
          else (s.newOp).setGroup c k ((g1.expect (live.flatMap fun l =>
            loadWrites s.nextOp o.data.toNat l z signed ((List.range (z * E)).map fun i => (s.core c).scratch.read (148 * y.base + a l + i)))).count
              .loads s.nextOp false)
        else s.setGroup c k g.illegal) := by
  refine (asGroup_runs hrun _).trans (congrArg _ ?_)
  by_cases h : g.addrOk o.addr = true ∧ g.inBudget o.data.toNat (if z = 8 then 2 * elemsOf (z == 8) o.wid else elemsOf (z == 8) o.wid) = true
  · simp only [if_neg (mt (access_checks hz).1 (not_not.2 h)), if_pos h, gangOf_eq hy, sortScratch_active, List.isEmpty_iff, List.map_eq_nil_iff,
      List.flatMap_map, Core.scratchRead, Core.scratchByte, Nat.add_assoc]
  · rw [if_pos ((access_checks hz).2 h), if_neg h]

theorem loadScratch_law {mk : ScratchAccess → Instr} {z : Nat} {signed : Bool} (hexec : ∀ o s, exec (mk o) s = loadScratch z signed o s)
    (hz : 0 < z) (hs : signed = true → z < 4) : ScratchLoadLaw mk z signed := by
  intro s c k g o y hrun hy E a stop event
  have hload := (hexec o s).trans (loadScratch_eq hrun hy hz signed o)
  have hraised {P : Nat → Prop} (hP : ∀ l, l < 32 → (P l ↔ active g l ∧ stop l ≠ none)) :=
    raised_scratchSorted g (s.core c) y (z * E) .load false a (fun l => faultEvent g ⟨0, 7, 0⟩ .load 1 (a l) l) hP
  have hsome := scratchLive_ne_nil g (s.core c) y (z * E) .load false a
  by_cases h : g.addrOk o.addr = true ∧ g.inBudget o.data.toNat (if z = 8 then 2 * E else E) = true
  · rw [if_pos h]
    refine ⟨fun hlive => ?_, fun hall => ?_⟩
    · obtain ⟨hpend, hloads, hr⟩ := raised_load (hraised (P := fun l => active g l ∧ stop l ≠ none) fun _ _ => Iff.rfl) _ s.nextOp
      exact ⟨_, _, hload.trans (congrArg _ ((if_pos h).trans (if_neg (hsome.2 hlive)))),
        delivers_loadWrites s.nextOp o.data.toNat z E hs hz _ (mem_scratchLive g (s.core c) y (z * E) .load false a) _, hpend, hloads, hr⟩
    · have hnil : scratchLive g (s.core c) y (z * E) .load false a = [] :=
        not_not.1 fun hne => by
          obtain ⟨l, hl, ha, hst⟩ := hsome.1 hne
          exact hall l hl ha hst
      exact ⟨_, hload.trans (congrArg _ ((if_pos h).trans (if_pos hnil))), hraised fun l hl => ⟨fun h => ⟨h, hall l hl h⟩, fun h => h.1⟩⟩
  · rw [if_neg h]
    exact hload.trans (congrArg _ (if_neg h))

/-! ## Stores -/

/-- A scratchpad after the bytes of several lanes, one lane after another (R36). -/
def storedScratch (m : Memory) (L : List Nat) (at' : Nat → Nat) (bytes : Nat → List Byte) : Memory :=
  L.foldl (fun m l => m.writeAll (at' l) (bytes l)) m

theorem foldl_scratchWrite (y : Gang) (L : List Nat) (a : Nat → Nat) (bytes : Nat → List Byte) (x : Core) :
    (L.map fun l => (l, a l)).foldl (fun (b : Core) p => b.scratchWrite y p.2 (bytes p.1)) x =
      { x with scratch := storedScratch x.scratch L (fun l => 148 * y.base + a l) bytes } := by
  induction L generalizing x with
  | nil => rfl
  | cons l rest ih =>
    rw [List.map_cons, List.foldl_cons, ih]
    rfl

theorem read_storedScratch_outside (m : Memory) (L : List Nat) (at' : Nat → Nat) (bytes : Nat → List Byte) (b : Nat)
    (h : ∀ l ∈ L, b < at' l ∨ at' l + (bytes l).length ≤ b) : (storedScratch m L at' bytes).read b = m.read b := by
  induction L generalizing m with
  | nil => rfl
  | cons l rest ih =>
    rw [storedScratch, List.foldl_cons]
    exact (ih _ fun l' hl' => h l' (List.mem_cons_of_mem _ hl')).trans (Memory.read_writeAll_outside _ _ _ _ (h l List.mem_cons_self))

/-- What a scratchpad store does (R304, R308, R36, R305). -/
theorem storeScratch_eq {s : State} {c k : Nat} {g : Group} {y : Gang} (hrun : Runs s c k g) (hy : s.gang? c g.gang = some y) {z : Nat}
    (hz : 0 < z) (o : ScratchAccess) :
    storeScratch z o s =
      let n := z * elemsOf (z == 8) o.wid
      let a := g.laneAddr s.tick false o.addr
      let live := scratchLive g (s.core c) y n .store true a
      let g1 := scratchSorted g (s.core c) y n .store true a
      .next (
        if g.addrOk o.addr = true ∧ g.inBudget o.data.toNat (if z = 8 then 2 * elemsOf (z == 8) o.wid else elemsOf (z == 8) o.wid) = true then
          (s.writeHold c k g (isRelease o.ord) false false).elim
            (if live = [] then s.setGroup c k g1
             else ((s.newOp).setGroup c k (g1.count .stores s.nextOp true)).withCore c fun x =>
               { x with scratch := storedScratch x.scratch live (fun l => 148 * y.base + a l)
                                     fun l => (List.range n).map (storedByte g s.tick o.data.toNat z l) })
            fun w => s.setGroup c k (g.waitOn w)
        else s.setGroup c k g.illegal) := by
  refine (asGroup_runs hrun _).trans (congrArg _ ?_)
  by_cases h : g.addrOk o.addr = true ∧ g.inBudget o.data.toNat (if z = 8 then 2 * elemsOf (z == 8) o.wid else elemsOf (z == 8) o.wid) = true
  · rw [if_neg (mt (access_checks hz).1 (not_not.2 h)), if_pos h]
    cases s.writeHold c k g (isRelease o.ord) false false with
    | some w => rfl
    | none =>
      simp only [Option.elim_none, gangOf_eq hy, sortScratch_active, List.isEmpty_iff, List.map_eq_nil_iff, storeBytes_eq _ _ _ _ hz]
      exact if_congr Iff.rfl rfl (congrArg _ (funext fun x =>
        foldl_scratchWrite y _ _ (fun l => (List.range _).map (storedByte g s.tick o.data.toNat z l)) x))
  · rw [if_pos ((access_checks hz).2 h), if_neg h]

/-- What a store leaves of its group: one more operation counted, which is complete. -/
theorem raised_store {g g1 : Group} {P : Nat → Prop} {e : Nat → LaneEvent} (h : Raised g g1 P e) (op : Nat) (done : Bool) :
    (g1.count .stores op done).stores = counted g.stores op done
      ∧ Raised g { g1.count .stores op done with stores := g.stores } P e := by
  have hframe := raised_frame_eq h
  have hstores : g1.stores = g.stores := by rw [hframe]
  refine ⟨by rw [← hstores]; rfl, ?_⟩
  have : ({ g1.count .stores op done with stores := g.stores } : Group) = g1 := by
    rw [count_stores, ← hstores]
  rwa [this]

/-- A release that is not ready for its group's loads waits for them. -/
theorem writeHold_of_loads {s : State} {c k : Nat} {g : Group} {release : Bool} (hr : release = true) (hl : g.loads ≠ []) (queue : Bool) :
    s.writeHold c k g release false queue = some (.counts 0 7 7 7) := by
  have : releaseReady g false = false := by simpa [releaseReady] using hl
  simp [State.writeHold, hr, State.releaseHold, this, releaseWait]

theorem storeScratch_law {mk : ScratchAccess → Instr} {z : Nat} (hexec : ∀ o s, exec (mk o) s = storeScratch z o s) (hz : 0 < z) :
    ScratchStoreLaw mk z := by
  intro s c k g o y hrun hy E n a stop event ready
  have hstore := (hexec o s).trans (storeScratch_eq hrun hy hz o)
  have hraised {P : Nat → Prop} (hP : ∀ l, l < 32 → (P l ↔ active g l ∧ stop l ≠ none)) :=
    raised_scratchSorted g (s.core c) y n .store true a (fun l => faultEvent g ⟨0, 7, 0⟩ .store 1 (a l) l) hP
  have hsome := scratchLive_ne_nil g (s.core c) y n .store true a
  by_cases h : g.addrOk o.addr = true ∧ g.inBudget o.data.toNat (if z = 8 then 2 * E else E) = true
  · rw [if_pos h]
    have hstore := hstore.trans (congrArg _ (if_pos h))
    have hhold : ((o.ord = .rel ∨ o.ord = .ar) → g.loads = []) →
        (s.writeHold c k g (isRelease o.ord) false false = none ↔ ready) := fun hloads => by
      rw [writeHold_eq_none, releaseHold_eq_none, isRelease_iff]
      simp only [Bool.false_eq_true, false_implies, true_and, false_and]
      exact and_congr_left fun _ => forall_congr' fun hrel => and_iff_right (hloads hrel)
    refine ⟨fun hrel hloads => ?_, fun hloads hready => ?_, fun hloads hready => ⟨fun hlive => ?_, fun hall => ?_⟩⟩
    · rw [writeHold_of_loads ((isRelease_iff _).2 hrel) hloads] at hstore
      exact ⟨_, hstore, rfl⟩
    · obtain ⟨w, hw⟩ := Option.ne_none_iff_exists'.1 (mt (hhold hloads).1 hready)
      rw [hw] at hstore
      exact waitsAgain_waitOn hstore
    · rw [(hhold hloads).2 hready, Option.elim_none, if_neg (hsome.2 hlive)] at hstore
      obtain ⟨hstores, hr⟩ := raised_store (hraised (P := fun l => active g l ∧ stop l ≠ none) fun _ _ => Iff.rfl) s.nextOp true
      refine ⟨_, _, hstore, rfl, fun c' x hx => ?_, hstores, hr⟩
      rw [core_withCore]
      split
      · next hc =>
        subst hc
        refine (read_storedScratch_outside _ _ _ _ x fun l hl => ?_).trans (by rw [core_setGroup_scratch, core_newOp])
        obtain ⟨hl32, ha, hst⟩ := (mem_scratchLive ..).1 hl
        rw [List.length_map, List.length_range]
        rcases Nat.lt_or_ge x (148 * y.base + a l) with hlo | hlo
        · exact .inl hlo
        · exact .inr (Nat.le_of_not_lt fun hhi => hx ⟨rfl, l, hl32, ha, hst, hlo, hhi⟩)
      · rw [core_setGroup_scratch, core_newOp]
    · have hnil : scratchLive g (s.core c) y n .store true a = [] :=
        not_not.1 fun hne => by
          obtain ⟨l, hl, ha, hst⟩ := hsome.1 hne
          exact hall l hl ha hst
      rw [(hhold hloads).2 hready, Option.elim_none, if_pos hnil] at hstore
      exact ⟨_, hstore, hraised fun l hl => ⟨fun h => ⟨h, hall l hl h⟩, fun h => h.1⟩⟩
  · rw [if_neg h]
    exact hstore.trans (congrArg _ (if_neg h))

/-! ## Transposing loads -/

theorem foldl_min_spec (b : Nat) (bs : List Nat) : bs.foldl min b ∈ b :: bs ∧ ∀ x ∈ b :: bs, bs.foldl min b ≤ x := by
  induction bs generalizing b with
  | nil => simp
  | cons c rest ih =>
    obtain ⟨hmem, hle⟩ := ih (min b c)
    rw [List.foldl_cons]
    have hmin := hle (min b c) List.mem_cons_self
    refine ⟨?_, fun x hx => ?_⟩
    · rcases List.mem_cons.1 hmem with h | h
      · rw [h]
        rcases Nat.le_total b c with hbc | hbc
        · rw [Nat.min_eq_left hbc]; exact List.mem_cons_self
        · rw [Nat.min_eq_right hbc]; exact List.mem_cons_of_mem _ List.mem_cons_self
      · exact List.mem_cons_of_mem _ (List.mem_cons_of_mem _ h)
    · rcases List.mem_cons.1 hx with rfl | hx
      · exact hmin.trans (Nat.min_le_left ..)
      · rcases List.mem_cons.1 hx with rfl | hx
        · exact hmin.trans (Nat.min_le_right ..)
        · exact hle x (List.mem_cons_of_mem _ hx)

/-- The places of the elements of a block, in row-major order (R309). -/
def blockCells (o p z : Nat) : List Nat := (List.range 16).flatMap fun r => (List.range 4).map fun col => blockOffset o p z r col

theorem mem_blockCells (o p z a : Nat) : a ∈ blockCells o p z ↔ ∃ r col, r < 16 ∧ col < 4 ∧ blockOffset o p z r col = a := by
  simp only [blockCells, List.mem_flatMap, List.mem_map, List.mem_range]
  constructor
  · rintro ⟨r, hr, col, hcol, h⟩
    exact ⟨r, col, hr, hcol, h⟩
  · rintro ⟨r, col, hr, hcol, h⟩
    exact ⟨r, hr, col, hcol, h⟩

/-- The lowest byte beyond a bound of each cell that is not wholly below it. -/
def cellsBeyond (bound z : Nat) (cells : List Nat) : List Nat := (cells.filter fun a => decide (bound < a + z)).map fun a => max a bound

theorem mem_cellsBeyond (bound z : Nat) (cells : List Nat) (b : Nat) :
    b ∈ cellsBeyond bound z cells ↔ ∃ a ∈ cells, bound < a + z ∧ max a bound = b := by
  simp only [cellsBeyond, List.mem_map, List.mem_filter, decide_eq_true_eq, and_assoc]

/-- The lowest of these bytes is the lowest byte of a cell at or above the bound. -/
theorem lowest_beyond {bound z : Nat} (hz : 0 < z) {cells : List Nat} {b m : Nat} {bs : List Nat} (h : cellsBeyond bound z cells = b :: bs)
    (hm : bound ≤ m ∧ ∃ a ∈ cells, a ≤ m ∧ m < a + z) (hlow : ∀ x, x < m → ¬ (bound ≤ x ∧ ∃ a ∈ cells, a ≤ x ∧ x < a + z)) :
    bs.foldl min b = m := by
  obtain ⟨hmem, hle⟩ := foldl_min_spec b bs
  rw [← h] at hmem hle
  obtain ⟨a, ha, hbound, hmax⟩ := (mem_cellsBeyond ..).1 hmem
  have hge : m ≤ bs.foldl min b := Nat.le_of_not_lt fun hlt => hlow _ hlt ⟨by omega, a, ha, by omega, by omega⟩
  obtain ⟨hbm, a', ha', h1, h2⟩ := hm
  have := hle (max a' bound) ((mem_cellsBeyond ..).2 ⟨a', ha', by omega, rfl⟩)
  omega

theorem cellsBeyond_eq_nil {bound z : Nat} (hz : 0 < z) {cells : List Nat} :
    cellsBeyond bound z cells = [] ↔ ∀ b, ¬ (bound ≤ b ∧ ∃ a ∈ cells, a ≤ b ∧ b < a + z) := by
  simp only [List.eq_nil_iff_forall_not_mem, mem_cellsBeyond]
  constructor
  · rintro h b ⟨hb, a, ha, h1, h2⟩
    exact h (max a bound) ⟨a, ha, by omega, rfl⟩
  · rintro h b ⟨a, ha, hbound, rfl⟩
    exact h (max a bound) ⟨by omega, a, ha, by omega, by omega⟩

/-- The first cell in row-major order that a latch entry stops, with the entry (R122). -/
def cellLatched (x : Core) (gangNo z : Nat) (cells : List Nat) : Option (Nat × (Nat × Latch)) :=
  (cells.filterMap fun a => (x.latchHit (some gangNo) 0 a z false).map fun e => (a, e)).head?

theorem cellLatched_eq_some {x : Core} {gangNo z : Nat} {cells : List Nat} {a : Nat} {e : Nat × Latch}
    (h : cellLatched x gangNo z cells = some (a, e)) : a ∈ cells ∧ x.latchHit (some gangNo) 0 a z false = some e := by
  obtain ⟨a', ha', hmap⟩ := List.mem_filterMap.1 (List.mem_of_mem_head? h)
  obtain ⟨e', he', hpair⟩ := Option.map_eq_some_iff.1 hmap
  cases hpair
  exact ⟨ha', he'⟩

theorem cellLatched_eq_none {x : Core} {gangNo z : Nat} {cells : List Nat} :
    cellLatched x gangNo z cells = none ↔ ∀ a ∈ cells, x.latchHit (some gangNo) 0 a z false = none := by
  simp only [cellLatched, List.head?_eq_none_iff, List.filterMap_eq_nil_iff, Option.map_eq_none_iff]

/-- What a transposing load delivers to its lanes (R309). -/
def transposed (op d z : Nat) (active : LaneSet) (elem : Nat → Nat → Nat) : List PendingReg :=
  (lanesOf active).flatMap fun l =>
    if z = 4 then
      [{ op := op, key := vkey d l, val := BitVec.ofNat 32 (elem (2 * (l % 8)) (l / 8)) },
       { op := op, key := vkey (d + 1) l, val := BitVec.ofNat 32 (elem (2 * (l % 8) + 1) (l / 8)) }]
    else [{ op := op, key := vkey d l,
            val := BitVec.ofNat 32 (elem (2 * (l % 8)) (l / 8) + 2 ^ (8 * z) * elem (2 * (l % 8) + 1) (l / 8)) : PendingReg }]

theorem mem_transposed (op d z : Nat) (ls : LaneSet) (elem : Nat → Nat → Nat) (p : PendingReg) :
    p ∈ transposed op d z ls elem ↔ ∃ l, l < 32 ∧ ls.getLsbD l = true ∧
      if z = 4 then
        p = { op := op, key := vkey d l, val := BitVec.ofNat 32 (elem (2 * (l % 8)) (l / 8)) }
        ∨ p = { op := op, key := vkey (d + 1) l, val := BitVec.ofNat 32 (elem (2 * (l % 8) + 1) (l / 8)) }
      else p = { op := op, key := vkey d l,
                 val := BitVec.ofNat 32 (elem (2 * (l % 8)) (l / 8) + 2 ^ (8 * z) * elem (2 * (l % 8) + 1) (l / 8)) } := by
  simp only [transposed, List.mem_flatMap, mem_lanesOf, and_assoc]
  refine exists_congr fun l => and_congr_right fun _ => and_congr_right fun _ => ?_
  split
  · simp only [List.mem_cons, List.not_mem_nil, or_false]
  · rw [List.mem_singleton]

/-- What a transposing load does: its operands and budget, its alignment, its bound, its latches, else its values (R309, R310). -/
theorem loadTranspose_eq {s : State} {c k : Nat} {g : Group} {y : Gang} (hrun : Runs s c k g) (hy : s.gang? c g.gang = some y) (z : Nat)
    (o : TransposeLoad) :
    loadTranspose z o s =
      let d := o.data.toNat
      let o0 := ((g.sreg o.base.toNat).setWidth 64 + o.off.signExtend 64).toNat
      let p := (g.sreg (o.base.toNat + 1)).toNat
      let cells := blockCells o0 p z
      let x := s.core c
      .next (
        if g.inBudget d (if z = 4 then 2 else 1) = true then
          if o0 % 4 ≠ 0 then s.setGroup c k (g.raiseAll (alignTrap .load 1 o0))
          else match cellsBeyond (148 * y.rows) z cells with
            | b :: bs => s.setGroup c k (g.raiseAll (boundFault .load (bs.foldl min b)))
            | [] =>
              match cellLatched x g.gang z cells with
              | some (a, e) => s.setGroup c k (g.raiseAll (.trap .latch (g.latchInfo e) (BitVec.ofNat 64 a)))
              | none => (s.newOp).setGroup c k ((g.expect (transposed s.nextOp d z g.clause.active fun r col =>
                  littleEndian (fun i => x.scratch.read (148 * y.base + i)) (blockOffset o0 p z r col) z)).count .loads s.nextOp false)
        else s.setGroup c k g.illegal) := by
  have ho0 : (((g.sreg o.base.toNat).toNat + o.off.toInt) % (2 ^ 64 : Nat)).toNat
      = ((g.sreg o.base.toNat).setWidth 64 + o.off.signExtend 64).toNat := by
    rw [← BitVec.toNat_ofInt, BitVec.ofInt_add, BitVec.ofInt_natCast, BitVec.ofNat_toNat]
    rfl
  refine (asGroup_runs hrun _).trans (congrArg _ ?_)
  rw [ho0, gangOf_eq hy]
  by_cases h : g.inBudget o.data.toNat (if z = 4 then 2 else 1) = true
  · rw [if_neg (by rw [h]; decide), if_pos h]
    rfl
  · rw [if_pos (by simpa using h), if_neg h]

section
variable {s : State} {c k : Nat} {g : Group} {y : Gang} (hrun : Runs s c k g) (hy : s.gang? c g.gang = some y) {z : Nat} {o : TransposeLoad}
  (h : g.inBudget o.data.toNat (if z = 4 then 2 else 1) = true)
  (hal : ((g.sreg o.base.toNat).setWidth 64 + o.off.signExtend 64).toNat % 4 = 0)
include hrun hy h hal

theorem loadTranspose_of_beyond {b : Nat} {bs : List Nat}
    (hcs : cellsBeyond (148 * y.rows) z (blockCells ((g.sreg o.base.toNat).setWidth 64 + o.off.signExtend 64).toNat
      (g.sreg (o.base.toNat + 1)).toNat z) = b :: bs) :
    loadTranspose z o s = .next (s.setGroup c k (g.raiseAll (boundFault .load (bs.foldl min b)))) := by
  rw [loadTranspose_eq hrun hy]
  simp only [if_pos h, if_neg (not_not.2 hal), hcs]

theorem loadTranspose_of_latched {a : Nat} {e : Nat × Latch}
    (hcs : cellsBeyond (148 * y.rows) z (blockCells ((g.sreg o.base.toNat).setWidth 64 + o.off.signExtend 64).toNat
      (g.sreg (o.base.toNat + 1)).toNat z) = [])
    (hl : cellLatched (s.core c) g.gang z (blockCells ((g.sreg o.base.toNat).setWidth 64 + o.off.signExtend 64).toNat
      (g.sreg (o.base.toNat + 1)).toNat z) = some (a, e)) :
    loadTranspose z o s = .next (s.setGroup c k (g.raiseAll (.trap .latch (g.latchInfo e) (BitVec.ofNat 64 a)))) := by
  rw [loadTranspose_eq hrun hy]
  simp only [if_pos h, if_neg (not_not.2 hal), hcs, hl]

theorem loadTranspose_of_free
    (hcs : cellsBeyond (148 * y.rows) z (blockCells ((g.sreg o.base.toNat).setWidth 64 + o.off.signExtend 64).toNat
      (g.sreg (o.base.toNat + 1)).toNat z) = [])
    (hl : cellLatched (s.core c) g.gang z (blockCells ((g.sreg o.base.toNat).setWidth 64 + o.off.signExtend 64).toNat
      (g.sreg (o.base.toNat + 1)).toNat z) = none) :
    loadTranspose z o s = .next ((s.newOp).setGroup c k ((g.expect (transposed s.nextOp o.data.toNat z g.clause.active fun r col =>
      littleEndian (fun i => (s.core c).scratch.read (148 * y.base + i)) (blockOffset ((g.sreg o.base.toNat).setWidth 64
        + o.off.signExtend 64).toNat (g.sreg (o.base.toNat + 1)).toNat z r col) z)).count .loads s.nextOp false)) := by
  rw [loadTranspose_eq hrun hy]
  simp only [if_pos h, if_neg (not_not.2 hal), hcs, hl]

end

theorem loadTranspose_law {mk : TransposeLoad → Instr} {z : Nat} (hexec : ∀ o s, exec (mk o) s = loadTranspose z o s) (hz : 0 < z) :
    TransposeLaw mk z := by
  intro s c k g o y hrun hy d o0 place elem beyond
  have hload := (hexec o s).trans (loadTranspose_eq hrun hy z o)
  have hcells (P : Nat → Prop) : (∃ a ∈ blockCells o0 (g.sreg (o.base.toNat + 1)).toNat z, P a) ↔ ∃ r col, r < 16 ∧ col < 4 ∧ P (place r col) := by
    simp only [mem_blockCells]
    constructor
    · rintro ⟨_, ⟨r, col, hr, hcol, rfl⟩, h⟩
      exact ⟨r, col, hr, hcol, h⟩
    · rintro ⟨r, col, hr, hcol, h⟩
      exact ⟨_, ⟨r, col, hr, hcol, rfl⟩, h⟩
  have hbeyond (b : Nat) : beyond b ↔ 148 * y.rows ≤ b ∧ ∃ a ∈ blockCells o0 (g.sreg (o.base.toNat + 1)).toNat z, a ≤ b ∧ b < a + z :=
    and_congr_right fun _ => (hcells fun a => a ≤ b ∧ b < a + z).symm
  by_cases h : g.inBudget d (if z = 4 then 2 else 1) = true
  · rw [if_pos h]
    have hload := hload.trans (congrArg _ (if_pos h))
    refine ⟨fun hal => ?_, fun hal b hb hlow => ?_, fun hal hin => ?_⟩
    · exact ⟨_, hload.trans (congrArg _ (if_pos hal)), raised_raiseAll g _ fun l _ _ => trapEvent_eq ..⟩
    · cases hcs : cellsBeyond (148 * y.rows) z (blockCells o0 (g.sreg (o.base.toNat + 1)).toNat z) with
      | nil => exact absurd ((hbeyond b).1 hb) ((cellsBeyond_eq_nil hz).1 hcs b)
      | cons x xs =>
        have hb := lowest_beyond hz hcs ((hbeyond b).1 hb) fun x hx => mt (hbeyond x).2 (hlow x hx)
        refine ⟨_, (hexec o s).trans (loadTranspose_of_beyond hrun hy h hal hcs), ?_⟩
        rw [hb]
        exact raised_raiseAll g _ fun l _ _ => faultEvent_eq ..
    · have hnil : cellsBeyond (148 * y.rows) z (blockCells o0 (g.sreg (o.base.toNat + 1)).toNat z) = [] :=
        (cellsBeyond_eq_nil hz).2 fun b => mt (hbeyond b).2 (hin b)
      have hlatch : cellLatched (s.core c) g.gang z (blockCells o0 (g.sreg (o.base.toNat + 1)).toNat z) = none ↔
          ∀ r col, r < 16 → col < 4 → (s.core c).latchHit (some g.gang) 0 (place r col) z false = none := by
        rw [cellLatched_eq_none]
        refine ⟨fun h r col hr hcol => h _ ((mem_blockCells ..).2 ⟨r, col, hr, hcol, rfl⟩), fun h a ha => ?_⟩
        obtain ⟨r, col, hr, hcol, rfl⟩ := (mem_blockCells ..).1 ha
        exact h r col hr hcol
      refine ⟨fun ⟨r, col, hr, hcol, hhit⟩ => ?_, fun hfree => ?_⟩
      · obtain ⟨⟨a, e⟩, hae⟩ := Option.ne_none_iff_exists'.1 fun hn => hhit (hlatch.1 hn r col hr hcol)
        obtain ⟨ha, he⟩ := cellLatched_eq_some hae
        obtain ⟨r', col', hr', hcol', rfl⟩ := (mem_blockCells ..).1 ha
        exact ⟨r', col', e, hr', hcol', he, _, (hexec o s).trans (loadTranspose_of_latched hrun hy h hal hnil hae),
          raised_raiseAll g _ fun l _ _ => trapEvent_eq ..⟩
      · exact ⟨_, _, (hexec o s).trans (loadTranspose_of_free hrun hy h hal hnil (hlatch.2 hfree)), fun p => mem_transposed .., rfl⟩
  · rw [if_neg h]
    exact hload.trans (congrArg _ (if_neg h))

/-! ## Latch conflicts (R119, R121, R123, R125) -/

/-- What finds a latch entry also finds the lowest-numbered one of a rising table. -/
theorem find?_lowest {α : Type} {t : Tab α} (hr : Rising t) {p : Nat × α → Bool} {e : Nat × α} (h : t.find? p = some e) :
    ∀ f ∈ t, p f = true → e.1 ≤ f.1 := by
  intro f hf hpf
  obtain ⟨-, as, bs, rfl, has⟩ := List.find?_eq_some_iff_append.1 h
  rcases List.mem_append.1 hf with hf | hf
  · have := has f hf
    simp [hpf] at this
  · rcases List.mem_cons.1 hf with rfl | hf
    · exact Nat.le_refl _
    · have := List.pairwise_append.1 hr
      exact Nat.le_of_lt ((List.pairwise_cons.1 this.2.1).1 f hf)

theorem latchHit_spec (x : Core) (gang : Option Nat) (vd lo n : Nat) (writes : Bool) :
    let meets (e : Nat × Latch) : Prop := (e.2.dest = true ∨ writes = true) ∧ lo < e.2.hi ∧ e.2.lo < lo + n
      ∧ match gang with
        | none => e.2.global = true ∧ e.2.vd = vd
        | some m => e.2.global = false ∧ e.2.gang = m
    (x.latchHit gang vd lo n writes = none ↔ ∀ e ∈ x.latches, ¬ meets e)
    ∧ ∀ e, x.latchHit gang vd lo n writes = some e → e ∈ x.latches ∧ meets e ∧ (Rising x.latches → ∀ f ∈ x.latches, meets f → e.1 ≤ f.1) := by
  intro meets
  have hmeets (e : Nat × Latch) : ((e.2.dest || writes) && decide (lo < e.2.hi ∧ e.2.lo < lo + n) && (match gang with
      | none => e.2.global && e.2.vd == vd
      | some m => !e.2.global && e.2.gang == m)) = true ↔ meets e := by
    cases gang <;> simp [meets, and_assoc]
  refine ⟨?_, fun e he => ?_⟩
  · exact List.find?_eq_none.trans (forall₂_congr fun e _ => not_congr (hmeets e))
  · have hfound := List.find?_some he
    exact ⟨List.mem_of_find?_eq_some he, (hmeets e).1 hfound, fun hr f hf hm => find?_lowest hr he f hf ((hmeets f).2 hm)⟩

theorem latchesOk_iff (s : State) (ls : List (Nat × Latch)) :
    let clash (new old : Latch) : Prop := (new.dest = true ∨ old.dest = true) ∧ new.lo < old.hi ∧ old.lo < new.hi
      ∧ if new.global then old.global = true ∧ old.vd = new.vd else old.global = false ∧ old.gang = new.gang
    s.latchesOk ls = true ↔ ∀ x ∈ ls, (∀ e ∈ (s.core x.1).latches, ¬ clash x.2 e.2)
      ∧ (s.core x.1).latches.length + (ls.filter fun y => y.1 == x.1).length ≤ 64 := by
  intro clash
  have hclash (a b : Latch) : latchClash a b = true ↔ clash a b := by
    unfold latchClash
    cases h : a.global <;> simp [clash, h, and_assoc]
  simp only [State.latchesOk, List.all_eq_true, Bool.and_eq_true, decide_eq_true_eq, Bool.not_eq_true', List.any_eq_false, hclash]

theorem extract_ofNat (N : Nat) (lo n : Nat) (h : N < 2 ^ 32) : (BitVec.ofNat 32 N).extractLsb' lo n = BitVec.ofNat n (N / 2 ^ lo) := by
  refine BitVec.eq_of_toNat_eq ?_
  rw [BitVec.extractLsb'_toNat, BitVec.toNat_ofNat, BitVec.toNat_ofNat, Nat.mod_eq_of_lt h, Nat.shiftRight_eq_div_pow]

theorem getLsbD_ofNat_div (N i : Nat) (hi : i < 32) : (BitVec.ofNat 32 N).getLsbD i = decide (N / 2 ^ i % 2 = 1) := by
  rw [BitVec.getLsbD_ofNat, Nat.testBit_eq_decide_div_mod_eq]
  simp [hi]

/-- The fields of a word of the form of R123, by their places. -/
theorem latchWord_fields {own dest kind after e slot space : Nat} (hown : own < 2) (hdest : dest < 2) (hkind : kind < 4) (hafter : after < 8)
    (he : e < 64) (hslot : slot < 64) (hspace : space < 2) :
    let w : Word := BitVec.ofNat 32 (own * 2 ^ 31 + dest * 2 ^ 30 + kind * 2 ^ 28 + after * 2 ^ 25 + e * 2 ^ 19 + slot * 2 ^ 13 + space * 2 ^ 9)
    w.getLsbD 31 = decide (own = 1) ∧ w.getLsbD 30 = decide (dest = 1) ∧ w.extractLsb' 28 2 = BitVec.ofNat 2 kind
      ∧ w.extractLsb' 25 3 = BitVec.ofNat 3 after ∧ w.extractLsb' 19 6 = BitVec.ofNat 6 e ∧ w.extractLsb' 13 6 = BitVec.ofNat 6 slot
      ∧ w.extractLsb' 9 4 = BitVec.ofNat 4 space ∧ w.extractLsb' 0 9 = 0#9 := by
  intro w
  have hlt : own * 2 ^ 31 + dest * 2 ^ 30 + kind * 2 ^ 28 + after * 2 ^ 25 + e * 2 ^ 19 + slot * 2 ^ 13 + space * 2 ^ 9 < 2 ^ 32 := by omega
  have hfield {lo n x : Nat} (h : (own * 2 ^ 31 + dest * 2 ^ 30 + kind * 2 ^ 28 + after * 2 ^ 25 + e * 2 ^ 19 + slot * 2 ^ 13 + space * 2 ^ 9)
      / 2 ^ lo % 2 ^ n = x % 2 ^ n) : w.extractLsb' lo n = BitVec.ofNat n x := by
    rw [extract_ofNat _ lo n hlt]
    exact BitVec.eq_of_toNat_eq (by rw [BitVec.toNat_ofNat, BitVec.toNat_ofNat, h])
  refine ⟨?_, ?_, hfield ?_, hfield ?_, hfield ?_, hfield ?_, hfield ?_, hfield ?_⟩
  · exact (getLsbD_ofNat_div _ 31 (by decide)).trans (decide_eq_decide.2 (by omega))
  · exact (getLsbD_ofNat_div _ 30 (by decide)).trans (decide_eq_decide.2 (by omega))
  all_goals omega

/-- The operations behind the first of a number: what is left once the older ones are dropped (R123). -/
theorem dropWhile_op (l : List Counted) (op : Nat) :
    ((l.dropWhile fun x => x.op != op).isEmpty = true ↔ op ∉ l.map (·.op))
    ∧ ∀ pre post, l.map (·.op) = pre ++ op :: post → op ∉ pre → (l.dropWhile fun x => x.op != op).length = post.length + 1 := by
  induction l with
  | nil => exact ⟨by simp, fun pre post h => by simp at h⟩
  | cons x rest ih =>
    by_cases hx : x.op = op
    · subst hx
      refine ⟨by simp, fun pre post h hpre => ?_⟩
      cases pre with
      | nil =>
        have := congrArg List.length (List.cons.inj h).2
        simpa using this
      | cons y ys => exact absurd (List.mem_cons.2 (.inl (List.cons.inj h).1)) hpre
    · have hdrop : ((x :: rest).dropWhile fun x => x.op != op) = rest.dropWhile fun x => x.op != op := by
        simp [hx]
      rw [hdrop]
      refine ⟨?_, fun pre post h hpre => ?_⟩
      · rw [ih.1, List.map_cons, List.mem_cons, not_or]
        exact ⟨fun h => ⟨fun e => hx e.symm, h⟩, fun h => h.2⟩
      · cases pre with
        | nil => exact absurd (List.cons.inj h).1 hx
        | cons y ys => exact ih.2 ys post (List.cons.inj h).2 fun hm => hpre (List.mem_cons_of_mem _ hm)

/-- The operations of the counter that a latch entry belongs to. -/
def latchOps (g : Group) (e : Nat × Latch) : List Counted := if e.2.tile then g.tiles else g.copies

theorem latchInfo_eq (g : Group) (e : Nat × Latch) :
    let after := (latchOps g e).dropWhile fun x => x.op != e.2.op
    g.latchInfo e = BitVec.ofNat 32 ((if after.isEmpty then 0 else 1) * 2 ^ 31 + (if e.2.dest then 1 else 0) * 2 ^ 30 + (if e.2.tile then 3 else 2) * 2 ^ 28
      + (if after.isEmpty then 0 else min (after.length - 1) 6) * 2 ^ 25 + e.1 % 64 * 2 ^ 19 + e.2.slot % 64 * 2 ^ 13
      + (if e.2.global then 0 else 1) * 2 ^ 9) := by
  intro after
  have hcounted : g.counted (if e.2.tile then .tiles else .copies) = latchOps g e := by
    unfold latchOps
    cases e.2.tile <;> rfl
  unfold Group.latchInfo
  simp only [hcounted]
  cases h : ((latchOps g e).dropWhile fun x => x.op != e.2.op).isEmpty <;> cases e.2.dest <;> cases e.2.global <;>
    simp [after]

theorem latchInfo_spec (g : Group) (e : Nat × Latch) :
    let w := g.latchInfo e
    let ops := (if e.2.tile then g.tiles else g.copies).map (·.op)
    w.getLsbD 31 = decide (e.2.op ∈ ops)
    ∧ w.getLsbD 30 = e.2.dest
    ∧ w.extractLsb' 28 2 = (if e.2.tile then 3#2 else 2#2)
    ∧ (∀ pre post, ops = pre ++ e.2.op :: post → e.2.op ∉ pre → w.extractLsb' 25 3 = BitVec.ofNat 3 (min post.length 6))
    ∧ (e.2.op ∉ ops → w.extractLsb' 25 3 = 0#3)
    ∧ w.extractLsb' 19 6 = BitVec.ofNat 6 e.1
    ∧ w.extractLsb' 13 6 = BitVec.ofNat 6 e.2.slot
    ∧ w.extractLsb' 9 4 = (if e.2.global then 0#4 else 1#4)
    ∧ w.extractLsb' 0 9 = 0#9 := by
  intro w ops
  have hops : ops = (latchOps g e).map (·.op) := by
    simp only [ops, latchOps]
  obtain ⟨hnone, hsome⟩ := dropWhile_op (latchOps g e) e.2.op
  rw [← hops] at hnone hsome
  have hw := latchInfo_eq g e
  generalize (latchOps g e).dropWhile (fun x => x.op != e.2.op) = after at hnone hsome hw
  obtain ⟨h31, h30, h28, h25, h19, h13, h9, h0⟩ := latchWord_fields (own := if after.isEmpty then 0 else 1) (dest := if e.2.dest then 1 else 0)
    (kind := if e.2.tile then 3 else 2) (after := if after.isEmpty then 0 else min (after.length - 1) 6) (e := e.1 % 64) (slot := e.2.slot % 64)
    (space := if e.2.global then 0 else 1) (by split <;> decide) (by split <;> decide) (by split <;> decide) (by split <;> omega)
    (Nat.mod_lt _ (by decide)) (Nat.mod_lt _ (by decide)) (by split <;> decide)
  simp only [← hw] at h31 h30 h28 h25 h19 h13 h9 h0
  refine ⟨h31.trans ?_, h30.trans ?_, h28.trans ?_, fun pre post h hpre => h25.trans ?_, fun h => h25.trans ?_, h19.trans ?_, h13.trans ?_, h9.trans ?_, h0⟩
  · refine decide_eq_decide.2 ?_
    by_cases h : e.2.op ∈ ops
    · simp [h, mt hnone.1 (not_not.2 h)]
    · simp [h, hnone.2 h]
  · cases e.2.dest <;> rfl
  · cases e.2.tile <;> rfl
  · have hmem : e.2.op ∈ ops := h ▸ List.mem_append_right _ List.mem_cons_self
    rw [if_neg (mt hnone.1 (not_not.2 hmem)), hsome pre post h hpre, Nat.add_sub_cancel]
  · rw [if_pos (hnone.2 h)]
  · exact BitVec.eq_of_toNat_eq (by simp)
  · exact BitVec.eq_of_toNat_eq (by simp)
  · cases e.2.global <;> rfl

/-- Settles O20, statement by statement: loads and stores sort their lanes and move the bytes of those that go on. -/
theorem scratchAccesses : Obligations.ScratchAccesses := by
  refine ⟨⟨?_, ?_, ?_, ?_, ?_, ?_⟩, ⟨?_, ?_, ?_, ?_⟩, ⟨?_, ?_, ?_⟩, latchHit_spec, latchesOk_iff, latchInfo_spec⟩
  · exact loadScratch_law (fun _ _ => rfl) (by decide) (by decide)
  · exact loadScratch_law (fun _ _ => rfl) (by decide) (by decide)
  · exact loadScratch_law (fun _ _ => rfl) (by decide) (by decide)
  · exact loadScratch_law (fun _ _ => rfl) (by decide) (by decide)
  · exact loadScratch_law (fun _ _ => rfl) (by decide) (by decide)
  · exact loadScratch_law (fun _ _ => rfl) (by decide) (by decide)
  · exact storeScratch_law (fun _ _ => rfl) (by decide)
  · exact storeScratch_law (fun _ _ => rfl) (by decide)
  · exact storeScratch_law (fun _ _ => rfl) (by decide)
  · exact storeScratch_law (fun _ _ => rfl) (by decide)
  · exact loadTranspose_law (fun _ _ => rfl) (by decide)
  · exact loadTranspose_law (fun _ _ => rfl) (by decide)
  · exact loadTranspose_law (fun _ _ => rfl) (by decide)

end Sys2Proof.Laws
end

section
/-! What caches, translations and budgets leave unchanged, the bytes of translated accesses, and misses (R29, R34). -/

namespace Sys2Proof.Laws

open Sys2Proof Sys2Proof.Machine Sys2Proof.Claim

/-! ## What caches, translations and budgets leave unchanged -/

/-- No byte of memory, no scratchpad and no group is changed. -/
structure Untouched (s t : State) : Prop where
  mem : t.mem = s.mem
  host : t.host = s.host
  store : t.store = s.store
  groups : ∀ c, (t.core c).groups = (s.core c).groups
  scratch : ∀ c, (t.core c).scratch = (s.core c).scratch

namespace Untouched

theorem refl (s : State) : Untouched s s := ⟨rfl, rfl, rfl, fun _ => rfl, fun _ => rfl⟩

theorem trans {s t u : State} (h1 : Untouched s t) (h2 : Untouched t u) : Untouched s u :=
  ⟨h2.mem.trans h1.mem, h2.host.trans h1.host, h2.store.trans h1.store, fun c => (h2.groups c).trans (h1.groups c),
    fun c => (h2.scratch c).trans (h1.scratch c)⟩

/-- A change of a core that keeps its groups and its scratchpad. -/
theorem withCore (s : State) (c : Nat) {f : Core → Core} (hg : (f (s.core c)).groups = (s.core c).groups)
    (hs : (f (s.core c)).scratch = (s.core c).scratch) : Untouched s (s.withCore c f) := by
  refine ⟨rfl, rfl, rfl, fun c' => ?_, fun c' => ?_⟩
  all_goals
    rw [core_withCore]
    split
    · next h => subst h; assumption
    · rfl

/-- A state that differs elsewhere. -/
theorem of_eq {s t : State} (hm : t.mem = s.mem) (hh : t.host = s.host) (hst : t.store = s.store) (hc : t.cores = s.cores) : Untouched s t :=
  ⟨hm, hh, hst, fun c => by rw [State.core, hc, State.core], fun c => by rw [State.core, hc, State.core]⟩

theorem foldl {α : Type} {f : State → α → State} (h : ∀ s x, Untouched s (f s x)) (xs : List α) (s : State) : Untouched s (xs.foldl f s) := by
  induction xs generalizing s with
  | nil => exact refl s
  | cons x rest ih => exact (h s x).trans (ih (f s x))

theorem group? {s t : State} (h : Untouched s t) (c k : Nat) : t.group? c k = s.group? c k := congrArg (Tab.look · k) (h.groups c)

theorem isLocal {s t : State} (h : Untouched s t) (c k : Nat) : Local s t c k :=
  ⟨fun a => by rw [h.mem, h.host, h.store]; exact ⟨rfl, rfl, rfl⟩, fun c' a => by rw [h.scratch],
    fun c' k' _ => h.group? c' k'⟩

end Untouched

/-- What follows a change that stays local. -/
theorem Local.after {s t u : State} {c k : Nat} (h1 : Local s t c k) (h2 : Untouched t u) : Local s u c k :=
  ⟨fun a => by rw [h2.mem, h2.host, h2.store]; exact h1.memory a, fun c' a => by rw [h2.scratch]; exact h1.scratch c' a,
    fun c' k' h => (h2.group? c' k').trans (h1.groups c' k' h)⟩

theorem Local.trans {s t u : State} {c k : Nat} (h1 : Local s t c k) (h2 : Local t u c k) : Local s u c k :=
  ⟨fun a => ⟨(h2.memory a).1.trans (h1.memory a).1, (h2.memory a).2.1.trans (h1.memory a).2.1, (h2.memory a).2.2.trans (h1.memory a).2.2⟩,
    fun c' a => (h2.scratch c' a).trans (h1.scratch c' a), fun c' k' h => (h2.groups c' k' h).trans (h1.groups c' k' h)⟩

theorem untouched_newOp (s : State) : Untouched s s.newOp := .of_eq rfl rfl rfl rfl

/-! ### Budgets -/

theorem untouched_charge (s : State) (vd n : Nat) : Untouched s (s.charge vd n) := by
  unfold State.charge
  split
  · exact .of_eq rfl rfl rfl rfl
  · exact .refl s

theorem untouched_chargeLine (s : State) (vd line : Nat) : Untouched s (s.chargeLine vd line) := by
  unfold State.chargeLine
  split
  · exact untouched_charge ..
  · exact .refl s

theorem untouched_chargePieces (s : State) (vd : Nat) (ps : List Piece) : Untouched s (s.chargePieces vd ps) :=
  .foldl (fun s line => untouched_chargeLine s vd line) _ s

/-! ### TLBs -/

/-- A core's groups and scratchpad are as before. -/
def CoreKept (x y : Core) : Prop := y.groups = x.groups ∧ y.scratch = x.scratch

theorem CoreKept.foldl {α : Type} {f : Core → α → Core} (h : ∀ x a, CoreKept x (f x a)) (as : List α) (x : Core) : CoreKept x (as.foldl f x) := by
  induction as generalizing x with
  | nil => exact ⟨rfl, rfl⟩
  | cons a rest ih => exact ⟨(ih (f x a)).1.trans (h x a).1, (ih (f x a)).2.trans (h x a).2⟩

theorem coreKept_tlbUse (x : Core) (vd va : Nat) : CoreKept x (x.tlbUse vd va) := by
  unfold Core.tlbUse
  split
  · exact ⟨rfl, rfl⟩
  · split <;> exact ⟨rfl, rfl⟩

theorem untouched_usePages (s : State) (c vd : Nat) (spans : List (Nat × Nat)) : Untouched s (s.usePages c vd spans) := by
  obtain ⟨hg, hs⟩ := CoreKept.foldl (fun x p => coreKept_tlbUse x vd (p * 4096))
    (spans.flatMap fun (x : Nat × Nat) => if x.2 = 0 then [] else (pieces x.1 x.2).map fun (y : Nat × Nat) => y.1 / 4096).eraseDups (s.core c)
  unfold State.usePages
  dsimp only
  refine .withCore s c ?_ ?_
  · exact hg
  · exact hs

/-! ### Caches -/

theorem coreKept_l1Hit (x : Core) (line : Nat) (ef : Bool) : CoreKept x (x.l1Hit line ef) := by
  unfold Core.l1Hit
  split
  · exact ⟨rfl, rfl⟩
  · split <;> exact ⟨rfl, rfl⟩

theorem untouched_touchL2 (s : State) (die line : Nat) (ef : Bool) : Untouched s (s.touchL2 die line ef) := by
  unfold State.touchL2
  split
  · exact .refl s
  · exact .of_eq rfl rfl rfl rfl

theorem untouched_wantL2 (s : State) (c k : Nat) (g : Group) (line va : Nat) (ef : Bool) : Untouched s (s.wantL2 c k g line va ef) := by
  unfold State.wantL2
  dsimp only
  split
  · exact untouched_touchL2 ..
  · split
    · exact .refl s
    · exact .of_eq rfl rfl rfl rfl

theorem untouched_touchLine (s : State) (c k : Nat) (g : Group) (u : CacheUse) (p : Piece) (hint : Bool) (line va : Nat) :
    Untouched s (s.touchLine c k g u p hint line va) := by
  have hwant : Untouched s (if ((s.core c).l1Look line).isSome && u == .weak then s else s.wantL2 c k g line va hint) := by
    split
    · exact .refl s
    · exact untouched_wantL2 ..
  refine hwant.trans ?_
  unfold State.touchLine
  dsimp only
  generalize (if ((s.core c).l1Look line).isSome && u == .weak then s else s.wantL2 c k g line va hint) = s1
  split
  · refine .withCore s1 c ?_ ?_
    · split
      · exact (coreKept_l1Hit (s1.core c) line hint).1
      · exact (coreKept_l1Hit (s1.core c) line hint).1
    · split
      · exact (coreKept_l1Hit (s1.core c) line hint).2
      · exact (coreKept_l1Hit (s1.core c) line hint).2
  · split
    · exact .refl s1
    · exact .withCore (f := fun x => x.l1Fill line _ hint) s1 c rfl rfl

theorem untouched_touchCaches (s : State) (c k : Nat) (g : Group) (u : CacheUse) (ef : Bool) (ps : List Piece) :
    Untouched s (s.touchCaches c k g u ef ps) :=
  .foldl (fun s (p : Piece) => .foldl (fun s (x : Nat × Nat) => untouched_touchLine s c k g u p (ef || p.page.ef) x.1 x.2) p.lines s) _ s

/-! ## The bytes of translated pieces -/

/-- The bytes of some pieces, counted. -/
def bytesOf (xs : List (Nat × Nat)) : Nat := (xs.map (·.2)).sum

theorem bytesOf_pieces {n : Nat} (hn : 1 ≤ n) (va : Nat) : bytesOf (pieces va n) = n := by
  induction n using Nat.strong_induction_on generalizing va with
  | h n ih =>
    by_cases hone : va % 4096 + n ≤ 4096
    · have hpage : (va + n - 1) / 4096 - va / 4096 = 0 := by omega
      have hmax : max va (va / 4096 * 4096) = va := by omega
      have hmin : min (va + n) (va / 4096 * 4096 + 4096) = va + n := by omega
      simp only [pieces, hpage, Nat.zero_add, List.range_one, List.map_cons, List.map_nil, Nat.add_zero, hmax, hmin, bytesOf, List.sum_cons,
        List.sum_nil]
      omega
    · rw [pieces_split (m := 4096 - va % 4096) (by omega) (by omega) (by omega)]
      have h1 := ih (4096 - va % 4096) (by omega) (by omega) va
      have h2 := ih (n - (4096 - va % 4096)) (by omega) (by omega) (va + (4096 - va % 4096))
      simp only [bytesOf, List.map_append, List.sum_append] at h1 h2 ⊢
      omega

theorem length_pieces_le {n : Nat} (hn : n ≤ 4096) (va : Nat) : (pieces va n).length ≤ 2 := by
  rw [pieces, List.length_map, List.length_range]
  omega

theorem translatePiece_ok_bytes {s : State} {vd : Nat} {kind : Access} {x : Nat × Nat} {r : WalkResult × Bool} {p : Piece}
    (h : s.translatePiece vd kind x r = .ok p) : p.n = x.2 := by
  unfold State.translatePiece at h
  split at h
  · cases h
  · dsimp only at h
    split at h
    · cases h
    · split at h
      · cases h
      · split at h
        · cases h
        · cases h
          rfl

theorem translatePieces_ok_bytes {s : State} {look : PageLook} {vd : Nat} {kind : Access} {xs : List (Nat × Nat)} {ps : List Piece}
    (h : s.translatePieces look vd kind xs = .ok ps) : ps.map (·.n) = xs.map (·.2) := by
  induction xs generalizing ps with
  | nil =>
    cases h
    rfl
  | cons x rest ih =>
    unfold State.translatePieces at h
    split at h
    · cases h
    · split at h
      · cases h
      · split at h
        · cases h
        · next hp =>
          split at h
          · cases h
          · next hrest =>
            cases h
            rw [List.map_cons, List.map_cons, translatePiece_ok_bytes hp, ih hrest]

theorem length_byteAddrs (ps : List Piece) : (byteAddrs ps).length = (ps.map (·.n)).sum := by
  simp only [byteAddrs, List.length_flatMap, List.length_map, List.length_range]

theorem translate_zero (s : State) (look : PageLook) (vd : Nat) (kind : Access) (va : Nat) : s.translate look vd kind va 0 = .ok [] := rfl

theorem translatedPieces_ok {s : State} {look : PageLook} {vd : Nat} {kind : Access} {xs : List (Nat × Nat)} {ps : List Piece}
    (h : translatedPieces s look vd kind xs = .ok ps) : s.translatePieces look vd kind xs = .ok ps := by
  unfold translatedPieces at h
  split at h
  · cases h
  · cases hp : s.translatePieces look vd kind xs with
    | error e => simp [hp] at h
    | ok qs => simpa [hp] using h

theorem translatedPieces_miss {s : State} {look : PageLook} {vd : Nat} {kind : Access} {xs : List (Nat × Nat)} {pages : List Nat}
    (h : translatedPieces s look vd kind xs = .miss pages) : missingPages look xs ≠ [] ∧ pages = missingPages look xs := by
  unfold translatedPieces at h
  split at h
  · next hne => exact ⟨hne, (Translated.miss.inj h).symm⟩
  · cases hp : s.translatePieces look vd kind xs <;> simp [hp] at h

/-- A translated access has as many bytes as were asked for (R34). -/
theorem translate_ok_bytes {s : State} {look : PageLook} {vd : Nat} {kind : Access} {va n : Nat} {ps : List Piece}
    (h : s.translate look vd kind va n = .ok ps) : (byteAddrs ps).length = n := by
  rw [length_byteAddrs]
  rcases Nat.eq_zero_or_pos n with rfl | hn
  · cases h
    rfl
  · rw [translate_eq s look vd kind hn] at h
    rw [translatePieces_ok_bytes (translatedPieces_ok h)]
    exact bytesOf_pieces hn va

/-- The values of translated pieces, byte by byte. -/
theorem map_byteAddrs {α : Type} {ps : List Piece} {n : Nat} (h : (byteAddrs ps).length = n) (f : Nat × Piece → α) :
    (byteAddrs ps).map f = (List.range n).map fun i => f (byteIn ps i) := by
  subst h
  refine List.ext_getElem (by simp) fun i h1 h2 => ?_
  simp only [List.length_map] at h1
  simp [byteIn, h1]

/-! ## The pages that are missed (R29, R34) -/

theorem translate_miss_pages {s : State} {look : PageLook} {vd : Nat} {kind : Access} {va n : Nat} (hn : n ≤ 4096) {pages : List Nat}
    (h : s.translate look vd kind va n = .miss pages) : pages ≠ [] ∧ pages.length ≤ 2 := by
  rcases Nat.eq_zero_or_pos n with rfl | h1
  · cases h
  · rw [translate_eq s look vd kind h1] at h
    obtain ⟨hne, rfl⟩ := translatedPieces_miss h
    refine ⟨hne, ?_⟩
    rw [missingPages, List.length_map]
    exact (List.length_filter_le ..).trans (length_pieces_le hn va)

theorem mem_missesOf (s : State) (c : Nat) (g : Group) (kind : Access) (n : Nat) (a : Nat → Nat) (L : List Nat) (p : Nat) :
    p ∈ missesOf (s.translateLanes c g kind n (L.map fun l => (l, a l))) ↔
      ∃ l pages, l ∈ L ∧ s.translateGroup c g kind (a l) n = .miss pages ∧ p ∈ pages := by
  simp only [missesOf, State.translateLanes, List.map_map, List.mem_flatMap, List.mem_map, Function.comp]
  constructor
  · rintro ⟨_, ⟨l, hl, rfl⟩, hp⟩
    cases ht : s.translateGroup c g kind (a l) n with
    | miss pages =>
      simp only [ht] at hp
      exact ⟨l, pages, hl, ht, hp⟩
    | ok ps => simp [ht] at hp
    | fault f b => simp [ht] at hp
  · rintro ⟨l, pages, hl, ht, hp⟩
    exact ⟨_, ⟨l, hl, rfl⟩, by simpa only [ht] using hp⟩

theorem length_missesOf_le (s : State) (c : Nat) (g : Group) (kind : Access) {n : Nat} (hn : n ≤ 4096) (a : Nat → Nat) (L : List Nat) :
    (missesOf (s.translateLanes c g kind n (L.map fun l => (l, a l)))).length ≤ 2 * L.length := by
  simp only [missesOf, State.translateLanes, List.map_map]
  induction L with
  | nil => exact Nat.zero_le _
  | cons l rest ih =>
    rw [List.map_cons, List.flatMap_cons, List.length_append, List.length_cons]
    have hfirst : (match s.translateGroup c g kind (a l) n with
        | .miss ps => ps
        | _ => []).length ≤ 2 := by
      cases ht : s.translateGroup c g kind (a l) n with
      | miss pages => exact (translate_miss_pages hn ht).2
      | ok ps => exact Nat.zero_le _
      | fault f b => exact Nat.zero_le _
    have : ∀ {x y z : Nat}, x ≤ 2 → y ≤ 2 * z → x + y ≤ 2 * (z + 1) := by omega
    exact this hfirst ih

theorem length_eraseDups_le (l : List Nat) : l.eraseDups.length ≤ l.length := by
  induction hn : l.length using Nat.strong_induction_on generalizing l with
  | h n ih =>
    cases l with
    | nil => exact Nat.zero_le _
    | cons x xs =>
      subst hn
      rw [List.eraseDups_cons, List.length_cons, List.length_cons]
      have hle : (xs.filter fun b => !b == x).length ≤ xs.length := List.length_filter_le ..
      exact Nat.succ_le_succ ((ih _ (Nat.lt_succ_of_le hle) _ rfl).trans hle)

/-- What a group leaves that sends misses and waits: its own state, and more entries in the miss queue of its die (R29). -/
theorem sendMisses_spec {s : State} {c k : Nat} {g : Group} (hg : s.group? c k = some g) (vd : Nat) (pages : List Nat) :
    let t := s.sendMisses c k vd pages
    Untouched (s.setGroup c k (g.waitOn .walk)) t ∧ t.requests = s.requests ∧ (t.core c).stores = (s.core c).stores
      ∧ (t.core c).l1 = (s.core c).l1 ∧ (∃ ms, (t.die (dieOf c)).misses = (s.die (dieOf c)).misses ++ ms)
      ∧ ((s.die (dieOf c)).misses.length + pages.length ≤ 256 → ∀ p ∈ pages,
          ∃ m ∈ (t.die (dieOf c)).misses, m.core = c ∧ m.slot = k ∧ m.vd = vd ∧ m.page = p) := by
  intro t
  have hmisses : (t.die (dieOf c)).misses = (s.die (dieOf c)).misses ++ ((pages.eraseDups.filter fun p => !((s.die (dieOf c)).misses.any fun m =>
      m.core == c && m.slot == k && m.vd == vd && m.page == p)).take (256 - (s.die (dieOf c)).misses.length)).map fun p =>
        { vd := vd, page := p, core := c, slot := k, walking := false : Miss } := by
    exact congrArg Die.misses (Tab.get_put_self ..)
  have hcores : t.cores = (s.setGroup c k (g.waitOn .walk)).cores := by
    unfold t State.sendMisses
    dsimp only
    rw [withGroup_eq_setGroup (by exact hg)]
    rfl
  have hcore : t.core c = { s.core c with groups := (s.core c).groups.put k (g.waitOn .walk) } := by
    rw [State.core, hcores]
    exact core_withCore_self ..
  refine ⟨.of_eq rfl rfl rfl hcores, rfl, by rw [hcore], by rw [hcore], ⟨_, hmisses⟩, fun hroom p hp => ?_⟩
  · rw [hmisses]
    by_cases hold : ((s.die (dieOf c)).misses.any fun m => m.core == c && m.slot == k && m.vd == vd && m.page == p) = true
    · obtain ⟨m, hm, hmatch⟩ := List.any_eq_true.1 hold
      simp only [Bool.and_eq_true, beq_iff_eq, and_assoc] at hmatch
      exact ⟨m, List.mem_append_left _ hm, hmatch⟩
    · have hlen : (pages.eraseDups.filter fun p => !((s.die (dieOf c)).misses.any fun m =>
          m.core == c && m.slot == k && m.vd == vd && m.page == p)).length ≤ 256 - (s.die (dieOf c)).misses.length :=
        ((List.length_filter_le ..).trans (length_eraseDups_le _)).trans (by omega)
      rw [List.take_of_length_le hlen]
      refine ⟨_, List.mem_append_right _ (List.mem_map_of_mem (a := p) ?_), rfl, rfl, rfl, rfl⟩
      simp only [List.mem_filter, List.mem_eraseDups, hp, true_and, Bool.not_eq_true']
      exact eq_false_of_ne_true hold

/-- Instructions whose lanes miss pages wait for the walks. -/
theorem missesWait_of {s : State} {c k : Nat} {g : Group} {i : Instr} (hg : s.group? c k = some g) {kind : Access} {n : Nat} (hn : n ≤ 4096)
    {a : Nat → Nat} {lanes : Nat → Prop} {L : List Nat} (hL : ∀ l, l ∈ L ↔ l < 32 ∧ active g l ∧ lanes l) (hlen : L.length ≤ 32)
    (hexec : ∀ m ms, missesOf (s.translateLanes c g kind n (L.map fun l => (l, a l))) = m :: ms →
      exec i s = .next (s.sendMisses c k (s.vdOf g) (m :: ms))) : MissesWait s c k g i kind n a lanes := by
  rintro ⟨p, hp⟩
  have hmem (p : Nat) (h : ∃ l pages, l < 32 ∧ active g l ∧ lanes l ∧ s.translateGroup c g kind (a l) n = .miss pages ∧ p ∈ pages) : p ∈ missesOf (s.translateLanes c g kind n (L.map fun l => (l, a l))) := by
    obtain ⟨l, pages, hl, ha, hlanes, ht, hpage⟩ := h
    exact (mem_missesOf ..).2 ⟨l, pages, (hL l).2 ⟨hl, ha, hlanes⟩, ht, hpage⟩
  have hcount := length_missesOf_le s c g kind hn a L
  cases hm : missesOf (s.translateLanes c g kind n (L.map fun l => (l, a l))) with
  | nil => exact absurd (hm ▸ hmem p hp) List.not_mem_nil
  | cons m ms =>
    obtain ⟨hu, hreq, hst, hl1, hmis, hroom⟩ := sendMisses_spec hg (s.vdOf g) (m :: ms)
    rw [hm] at hcount hmem
    refine ⟨_, hexec m ms hm, Local.after (Local.setGroup s c k _) hu, ?_, hreq, hst, hl1, hmis, fun h p hp => hroom (by omega) p (hmem p hp)⟩
    rw [hu.group?, group?_setGroup_self]
    rfl

end Sys2Proof.Laws
end

section
/-! The ends of the lanes of a global access, the values of loads, and acquires (R33, R88, R113, R115). -/

namespace Sys2Proof.Laws

open Sys2Proof Sys2Proof.Machine Sys2Proof.Claim

/-! ## The lanes of a global access (R33, R121, R122) -/

/-- What stops an access that ends so. -/
def endRaise (g : Group) (kind : Access) (a : Nat) : LaneEnd → Raise
  | .latched e => .trap .latch (g.latchInfo e) (BitVec.ofNat 64 a)
  | .faults f b => f.raises kind 0 b
  | .reaches _ => (⟨0, 7, 0⟩ : XFault).raises kind 0 a

theorem laneEnd_event (g : Group) (kind : Access) (a : Nat → Nat) (l : Nat) (r : LaneEnd) :
    r.event g kind a l = laneRaise g (endRaise g kind (a l) r) l := by
  cases r with
  | latched e => exact trapEvent_eq ..
  | faults f b => rfl
  | reaches ps => rfl

/-- The lanes of a list that do not reach their bytes, with what they take. -/
def endedLanes (g : Group) (kind : Access) (a : Nat → Nat) (r : Nat → LaneEnd) (L : List Nat) : List (Nat × Raise) :=
  (L.filter fun l => !(r l).goes).map fun l => (l, endRaise g kind (a l) (r l))

section
variable {s : State} {c : Nat} {g : Group} {kind : Access} {writes : Bool} {n : Nat} {a : Nat → Nat} {lanes : Nat → Prop} {r : Nat → LaneEnd}

theorem sortLanes_of_ends (h : Ends s c g kind writes n a lanes r) (L : List Nat) (hL : ∀ l ∈ L, l < 32 ∧ active g l ∧ lanes l) (g0 : Group)
    (hinfo : ∀ e, g0.latchInfo e = g.latchInfo e) :
    g0.sortLanes (s.core c) (s.vdOf g) n kind writes true (s.translateLanes c g kind n (L.map fun l => (l, a l))) =
      (raiseEach g0 (endedLanes g kind a r L), (L.filter fun l => (r l).goes).map fun l => (l, a l, (r l).pieces)) := by
  induction L generalizing g0 with
  | nil => rfl
  | cons l rest ih =>
    obtain ⟨hl, ha, hlanes⟩ := hL l List.mem_cons_self
    have hrest (g0) := ih (fun l' h' => hL l' (List.mem_cons_of_mem _ h')) g0
    have hend := h l hl ha hlanes
    simp only [State.translateLanes, List.map_cons, endedLanes, List.filter_cons] at hrest ⊢
    cases hr : r l with
    | reaches ps =>
      rw [hr] at hend
      simp only [hend.1, Group.sortLanes, hend.2, hrest g0 hinfo, LaneEnd.goes, LaneEnd.pieces, Bool.not_true, Bool.false_eq_true, if_false, if_true,
        List.map_cons, hr]
    | faults f b =>
      rw [hr] at hend
      simp only [hend, Group.sortLanes, LaneEnd.goes, Bool.not_false, Bool.false_eq_true, if_false, if_true, List.map_cons, hr, endRaise]
      exact hrest _ hinfo
    | latched e =>
      rw [hr] at hend
      obtain ⟨⟨ps, hps⟩, hhit⟩ := hend
      simp only [hps, Group.sortLanes, hhit, LaneEnd.goes, Bool.not_false, Bool.false_eq_true, if_false, if_true, List.map_cons, hr, endRaise, hinfo]
      exact hrest _ hinfo

/-- Where every lane's access ends, no page is missed. -/
theorem missesOf_of_ends (h : Ends s c g kind writes n a lanes r) (L : List Nat) (hL : ∀ l ∈ L, l < 32 ∧ active g l ∧ lanes l) :
    missesOf (s.translateLanes c g kind n (L.map fun l => (l, a l))) = [] := by
  refine List.eq_nil_iff_forall_not_mem.2 fun p hp => ?_
  obtain ⟨l, pages, hl, hmiss, -⟩ := (mem_missesOf ..).1 hp
  obtain ⟨hl32, ha, hlanes⟩ := hL l hl
  have hend := h l hl32 ha hlanes
  cases hr : r l with
  | reaches ps => simp [hr, hmiss] at hend
  | faults f b => simp [hr, hmiss] at hend
  | latched e => simp [hr, hmiss] at hend

end

/-- The active lanes, in the model's words. -/
theorem laneAddrs_eq (g : Group) (tick : Nat) (o : MemAddr) :
    g.laneAddrs tick true o = (actives g).map fun l => (l, g.laneAddr tick true o l) := rfl

theorem mem_actives (g : Group) (l : Nat) : l ∈ actives g ↔ l < 32 ∧ active g l := mem_lanesOf ..

theorem actives_sorted (g : Group) : (actives g).Pairwise (· < ·) := lanesOf_sorted _

theorem length_actives_le (g : Group) : (actives g).length ≤ 32 :=
  (List.length_filter_le ..).trans (by rw [List.length_range])

theorem mem_going (g : Group) (r : Nat → LaneEnd) (l : Nat) : l ∈ going g r ↔ l < 32 ∧ active g l ∧ (r l).goes = true := by
  rw [going, List.mem_filter, mem_actives, and_assoc]

/-- The group once the lanes that do not reach their bytes have taken their events. -/
def endedGroup (g : Group) (kind : Access) (a : Nat → Nat) (r : Nat → LaneEnd) : Group := raiseEach g (endedLanes g kind a r (actives g))

theorem stopped_endedGroup (g : Group) (kind : Access) (a : Nat → Nat) (r : Nat → LaneEnd) : Stopped g (endedGroup g kind a r) kind a r := by
  have hfst : (endedLanes g kind a r (actives g)).map (·.1) = (actives g).filter fun l => !(r l).goes := by
    simp only [endedLanes, List.map_map, Function.comp_def, List.map_id']
  have hmem (l : Nat) : l ∈ (endedLanes g kind a r (actives g)).map (·.1) ↔ l < 32 ∧ active g l ∧ (r l).goes = false := by
    rw [hfst, List.mem_filter, mem_actives, and_assoc, Bool.not_eq_true']
  refine raised_raiseEach g _ (fun x hx => ((hmem x.1).1 (List.mem_map_of_mem hx)).1) ?_ hmem fun x hx => ?_
  · rw [hfst]
    exact (actives_sorted g).filter _
  · obtain ⟨l, -, rfl⟩ := List.mem_map.1 hx
    exact laneEnd_event ..

/-- The lanes of an access that every active lane makes. -/
theorem sortLanes_active {s : State} {c : Nat} {g : Group} {kind : Access} {writes : Bool} {n : Nat} {a : Nat → Nat} {r : Nat → LaneEnd}
    (h : Ends s c g kind writes n a all r) :
    g.sortLanes (s.core c) (s.vdOf g) n kind writes true (s.translateLanes c g kind n ((actives g).map fun l => (l, a l))) =
      (endedGroup g kind a r, (going g r).map fun l => (l, a l, (r l).pieces)) :=
  sortLanes_of_ends h (actives g) (fun l hl => ⟨((mem_actives g l).1 hl).1, ((mem_actives g l).1 hl).2, trivial⟩) g fun _ => rfl

theorem missesOf_active {s : State} {c : Nat} {g : Group} {kind : Access} {writes : Bool} {n : Nat} {a : Nat → Nat} {r : Nat → LaneEnd}
    (h : Ends s c g kind writes n a all r) : missesOf (s.translateLanes c g kind n ((actives g).map fun l => (l, a l))) = [] :=
  missesOf_of_ends h (actives g) fun l hl => ⟨((mem_actives g l).1 hl).1, ((mem_actives g l).1 hl).2, trivial⟩

theorem translated_bytes_of_goes {s : State} {c : Nat} {g : Group} {kind : Access} {writes : Bool} {n : Nat} {a : Nat → Nat} {lanes : Nat → Prop}
    {r : Nat → LaneEnd} (h : Ends s c g kind writes n a lanes r) {l : Nat} (hl : l < 32) (ha : active g l) (hlanes : lanes l)
    (hgo : (r l).goes = true) : (byteAddrs (r l).pieces).length = n := by
  have hend := h l hl ha hlanes
  cases hr : r l with
  | reaches ps =>
    rw [hr] at hend
    exact translate_ok_bytes hend.1
  | faults f b => simp [hr, LaneEnd.goes] at hgo
  | latched e => simp [hr, LaneEnd.goes] at hgo

/-! ## Values (R88, R113) -/

theorem getLast?_filterMap_eq (bs : List (Nat × Byte)) (a : Nat) :
    (bs.filterMap fun b => if b.1 == a then some b.2 else none).getLast? = (bs.reverse.find? fun b => b.1 == a).map (·.2) := by
  rw [List.getLast?_eq_head?_reverse, ← List.filterMap_reverse]
  generalize bs.reverse = xs
  induction xs with
  | nil => rfl
  | cons x rest ih =>
    by_cases h : (x.1 == a) = true
    · rw [List.filterMap_cons, List.find?_cons, if_pos h, h]
      rfl
    · rw [List.filterMap_cons, List.find?_cons, if_neg h, eq_false_of_ne_true h]
      exact ih

theorem queuedByte_eq (x : Core) (t : Tier) (a : Nat) :
    x.queuedByte t a = ((((x.stores.filter fun e => (e.tier == .host) == (t == .host)).flatMap (·.bytes)).reverse.find? fun b => b.1 == a).map (·.2)) := by
  rw [← getLast?_filterMap_eq, List.filterMap_flatMap]
  rfl

theorem readMem_one (s : State) (t : Tier) (a : Nat) : (s.readMem t a 1).headD 0 = homeByte s t a := by
  cases t <;> rfl

theorem loadByte_eq (s : State) (c : Nat) (t : Tier) (a : Nat) (useL1 : Bool) : s.loadByte c t a useL1 = nearByte s c t a useL1 := by
  unfold State.loadByte nearByte
  simp only [queuedByte_eq, readMem_one]
  cases (((s.core c).stores.filter fun e => (e.tier == .host) == (t == .host)).flatMap (·.bytes)).reverse.find? fun b => b.1 == a with
  | some b => rfl
  | none => rfl

theorem txByte_eq (s : State) (part : Nat) (t : Tx) (a : Nat) :
    s.txByte part t a = ((t.lines.look (lineOf a)).bind fun y => y.bytes.look (a % lineBytes)).getD
      ((s.lineUnder part (lineOf a) t.key).getD (a % lineBytes) 0) := by
  unfold State.txByte
  cases (t.lines.look (lineOf a)).bind fun y => y.bytes.look (a % lineBytes) <;> rfl

/-- The bytes of a lane's load, one by one (R88, R113). -/
theorem loadPieces_eq (s : State) (c : Nat) (g : Group) (useL1 : Bool) {ps : List Piece} {n : Nat} (h : (byteAddrs ps).length = n) :
    s.loadPieces c g useL1 ps = (List.range n).map (loadedByte s c g useL1 ps) := by
  unfold State.loadPieces
  rw [map_byteAddrs h]
  refine List.map_congr_left fun i _ => ?_
  unfold loadedByte
  dsimp only
  cases (if (byteIn ps i).2.page.ver then g.tx else none) with
  | none => exact loadByte_eq ..
  | some t => exact txByte_eq ..

/-! ## Acquires (R53, R115) -/

theorem mem_linesOf_piece (p : Piece) (line : Nat) :
    line ∈ linesOf ((List.range p.n).map (p.addr + ·)) ↔ ∃ i, i < p.n ∧ line = (p.addr + i) / 128 := by
  simp only [linesOf, List.mem_eraseDups, List.mem_map, List.mem_range]
  constructor
  · rintro ⟨_, ⟨i, hi, rfl⟩, rfl⟩
    exact ⟨i, hi, rfl⟩
  · rintro ⟨i, hi, rfl⟩
    exact ⟨_, ⟨i, hi, rfl⟩, rfl⟩

/-- The cores whose queues an acquire of a line waits for, by the line's tag (R115). -/
def tagCores (s : State) (part line : Nat) : List Nat :=
  match s.releaseTag line with
  | .core n => [n]
  | .none => []
  | .unknown => s.coresOf part

theorem mem_tagCores (s : State) (part line n : Nat) :
    n ∈ tagCores s part line ↔ s.releaseTag line = .core n ∨ (s.releaseTag line = .unknown ∧ n ∈ s.coresOf part) := by
  unfold tagCores
  cases s.releaseTag line <;> simp [eq_comm]

/-- The cores whose queues an acquire of some pieces waits for. -/
def drainCores (s : State) (part : Nat) (ps : List Piece) : List Nat :=
  ps.flatMap fun p =>
    if p.page.tier = .host then s.coresOf part else (linesOf ((List.range p.n).map (p.addr + ·))).flatMap (tagCores s part)

theorem mem_drainCores (s : State) (part : Nat) (ps : List Piece) (n : Nat) : n ∈ drainCores s part ps ↔ LastReleaser s part ps n := by
  rw [drainCores, List.mem_flatMap, LastReleaser]
  refine exists_congr fun p => and_congr_right fun _ => ?_
  by_cases ht : p.page.tier = .host
  · simp [ht]
  · rw [if_neg ht, List.mem_flatMap]
    simp only [mem_linesOf_piece, mem_tagCores]
    constructor
    · rintro ⟨_, ⟨i, hi, rfl⟩, hn⟩
      exact .inr ⟨ht, i, hi, hn⟩
    · rintro (⟨h, -⟩ | ⟨-, i, hi, hn⟩)
      · exact absurd h ht
      · exact ⟨_, ⟨i, hi, rfl⟩, hn⟩

theorem mem_drainTargets (s : State) (part : Nat) (ps : List Piece) (n q : Nat) :
    (n, q) ∈ s.drainTargets part ps ↔ LastReleaser s part ps n ∧ q = (s.core n).queued ∧ (s.core n).accepted < q := by
  have htargets : s.drainTargets part ps =
      ((drainCores s part ps).eraseDups.map fun n => (n, (s.core n).queued)).filter fun t => decide ((s.core t.1).accepted < t.2) := rfl
  rw [htargets, ← mem_drainCores, List.mem_filter, List.mem_map]
  simp only [List.mem_eraseDups, decide_eq_true_eq, Prod.mk.injEq]
  constructor
  · rintro ⟨⟨m, hm, rfl, rfl⟩, hlt⟩
    exact ⟨hm, rfl, hlt⟩
  · rintro ⟨hm, rfl, hlt⟩
    exact ⟨⟨n, hm, rfl, rfl⟩, hlt⟩

/-- What an acquire leaves: its group, which may have queues to wait for, and at a wide scope an empty L1. -/
theorem acquired_spec {s : State} {c k : Nat} {G : Group} (hG : s.group? c k = some G) (wide : Bool) (ts : List (Nat × Nat)) :
    Local s (s.acquired c k wide ts) c k
    ∧ (s.acquired c k wide ts).group? c k = some (if ts = [] then G else G.waitBehind (.queues ts))
    ∧ (wide = true → ((s.acquired c k wide ts).core c).l1 = []) := by
  have hclear : Untouched s (if wide then s.withCore c Core.l1Clear else s) := by
    split
    · exact .withCore s c rfl rfl
    · exact .refl s
  have hl1 : wide = true → ((if wide then s.withCore c Core.l1Clear else s).core c).l1 = [] := fun h => by
    rw [if_pos h, core_withCore_self]
    rfl
  unfold State.acquired
  dsimp only
  generalize (if wide then s.withCore c Core.l1Clear else s) = s1 at hclear hl1
  have hG1 : s1.group? c k = some G := (hclear.group? c k).trans hG
  cases ts with
  | nil => exact ⟨hclear.isLocal c k, hG1, hl1⟩
  | cons x rest =>
    simp only [List.isEmpty_cons, Bool.false_eq_true, if_false, reduceCtorEq]
    rw [withGroup_eq_setGroup hG1]
    refine ⟨Local.trans (hclear.isLocal c k) (Local.setGroup ..), group?_setGroup_self .., fun h => ?_⟩
    rw [core_setGroup, if_pos rfl]
    exact hl1 h

end Sys2Proof.Laws
end

section
/-! Global loads and snapshot loads (O25). -/

namespace Sys2Proof.Laws

open Sys2Proof Sys2Proof.Machine Sys2Proof.Claim

/-! ## Global loads (R307) -/

/-- How a load uses the caches (R113). -/
def loadUse (o : GlobalLoad) : CacheUse := if o.ord == .weak || !wideScope o.scope then .weak else .sync

/-- The group of a load whose lanes go on: its registers to come, the lines that it has asked for, one more operation counted. -/
def loadGroup (s : State) (c : Nat) (g g1 : Group) (z : Nat) (signed : Bool) (o : GlobalLoad) (live : List (Nat × List Piece)) : Group :=
  let asked := s.askedBy c g (loadUse o) (live.flatMap (·.2))
  let g2 := g1.expect (live.flatMap fun x => loadWrites s.nextOp o.data.toNat x.1 z signed (s.loadPieces c g (loadUse o == .weak) x.2))
  (if asked.isEmpty then g2 else { g2 with asked := g2.asked.put s.nextOp asked }).count .loads s.nextOp false

/-- The queues that an acquire with `.rp` waits for. -/
def loadDrains (s : State) (g : Group) (o : GlobalLoad) (ps : List Piece) : List (Nat × Nat) :=
  if isAcquire o.ord && o.rp then s.drainTargets (s.partOf g) ps else []

section
variable {s : State} {c k : Nat} {g : Group} (hrun : Runs s c k g) {z : Nat} (hz : 0 < z) (signed : Bool) (o : GlobalLoad)
  (hok : g.addrOk o.addr = true ∧ g.inBudget o.data.toNat (if z = 8 then 2 * elemsOf (z == 8) o.wid else elemsOf (z == 8) o.wid) = true)
include hrun hz hok

theorem loadGlobal_of_misses {m : Nat} {ms : List Nat}
    (h : missesOf (s.translateLanes c g .load (z * elemsOf (z == 8) o.wid) ((actives g).map fun l => (l, g.laneAddr s.tick true o.addr l))) = m :: ms) :
    loadGlobal z signed o s = .next (s.sendMisses c k (s.vdOf g) (m :: ms)) := by
  refine (asGroup_runs hrun _).trans (congrArg _ ?_)
  simp only [if_neg (mt (access_checks hz).1 (not_not.2 hok)), laneAddrs_eq, h]

variable {r : Nat → LaneEnd} (h : Ends s c g .load false (z * elemsOf (z == 8) o.wid) (fun l => g.laneAddr s.tick true o.addr l) all r)
include h

theorem loadGlobal_of_held {line : Nat} (hheld : s.loadHeld c g ((going g r).flatMap fun l => (r l).pieces) = some line) :
    loadGlobal z signed o s = .next (s.setGroup c k (g.waitOn (.line line))) := by
  refine (asGroup_runs hrun _).trans (congrArg _ ?_)
  simp only [if_neg (mt (access_checks hz).1 (not_not.2 hok)), laneAddrs_eq, missesOf_active h, sortLanes_active h, List.flatMap_map, hheld]

theorem loadGlobal_of_none (hheld : s.loadHeld c g ((going g r).flatMap fun l => (r l).pieces) = none) (hgo : going g r = []) :
    ∃ s0, Untouched s s0 ∧ loadGlobal z signed o s = .next (s0.setGroup c k (endedGroup g .load (fun l => g.laneAddr s.tick true o.addr l) r)) := by
  refine ⟨_, untouched_usePages s c (s.vdOf g)
      (laneSpans (z * elemsOf (z == 8) o.wid) ((actives g).map fun l => (l, g.laneAddr s.tick true o.addr l))),
    (asGroup_runs hrun _).trans (congrArg _ ?_)⟩
  simp only [if_neg (mt (access_checks hz).1 (not_not.2 hok)), laneAddrs_eq, missesOf_active h, sortLanes_active h, List.flatMap_map, hheld]
  rw [if_pos (by rw [hgo]; rfl)]

theorem loadGlobal_of_some (hheld : s.loadHeld c g ((going g r).flatMap fun l => (r l).pieces) = none) (hgo : going g r ≠ []) :
    ∃ s1 G, G = loadGroup s c g (endedGroup g .load (fun l => g.laneAddr s.tick true o.addr l) r) z signed o ((going g r).map fun l => (l, (r l).pieces))
      ∧ Local s s1 c k ∧ s1.group? c k = some G
      ∧ loadGlobal z signed o s = .next (s1.acquired c k (isAcquire o.ord && wideScope o.scope)
          (loadDrains s g o ((going g r).flatMap fun l => (r l).pieces))) := by
  have hacq (t : State) (ts : List (Nat × Nat)) : (if isAcquire o.ord = true then t.acquired c k (wideScope o.scope) ts else t) =
      t.acquired c k (isAcquire o.ord && wideScope o.scope) (if isAcquire o.ord then ts else []) := by
    cases isAcquire o.ord <;> rfl
  have hdrains (ps : List Piece) : (if isAcquire o.ord = true then (if o.rp = true then s.drainTargets (s.partOf g) ps else []) else [])
      = loadDrains s g o ps := by
    unfold loadDrains
    cases isAcquire o.ord <;> cases o.rp <;> rfl
  let s0 := s.usePages c (s.vdOf g) (laneSpans (z * elemsOf (z == 8) o.wid) ((actives g).map fun l => (l, g.laneAddr s.tick true o.addr l)))
  let ps := (going g r).flatMap fun l => (r l).pieces
  let G := loadGroup s c g (endedGroup g .load (fun l => g.laneAddr s.tick true o.addr l) r) z signed o ((going g r).map fun l => (l, (r l).pieces))
  have h0 : Untouched s s0.newOp := (untouched_usePages ..).trans (untouched_newOp _)
  have h1 : Untouched ((s0.newOp).setGroup c k G) ((((s0.newOp).setGroup c k G).touchCaches c k g (loadUse o) o.ef ps).chargePieces (s.vdOf g)
      (ps.filter fun p => !cacheable g p)) := (untouched_touchCaches ..).trans (untouched_chargePieces ..)
  refine ⟨_, G, rfl, Local.after (Local.trans (h0.isLocal c k) (Local.setGroup s0.newOp c k G)) h1, ?_, ?_⟩
  · rw [h1.group?, group?_setGroup_self]
  · refine (asGroup_runs hrun _).trans (congrArg _ ?_)
    have hne : ((going g r).map fun l => (l, g.laneAddr s.tick true o.addr l, (r l).pieces)).isEmpty = false := by
      simpa using hgo
    simp only [if_neg (mt (access_checks hz).1 (not_not.2 hok)), laneAddrs_eq, missesOf_active h, sortLanes_active h, List.flatMap_map, hheld, hne,
      Bool.false_eq_true, if_false, hacq, hdrains]
    simp only [G, s0, ps, loadGroup, List.flatMap_map, loadUse]

end

theorem loadUse_weak (o : GlobalLoad) : (loadUse o == .weak) = decide (o.ord = .weak ∨ o.scope = .grp ∨ o.scope = .gang) := by
  unfold loadUse
  cases o.ord <;> cases o.scope <;> rfl

/-- The group of a load beside its sorted one: registers to come, one operation more, and the lines that it has asked for. -/
theorem loadGroup_spec (s : State) (c : Nat) {g g1 : Group} {P : Nat → Prop} {e : Nat → LaneEvent} (h : Raised g g1 P e) (z : Nat) (signed : Bool)
    (o : GlobalLoad) (live : List (Nat × List Piece)) :
    let G := loadGroup s c g g1 z signed o live
    G.pend = g.pend ++ (live.flatMap fun x => loadWrites s.nextOp o.data.toNat x.1 z signed (s.loadPieces c g (loadUse o == .weak) x.2))
      ∧ G.loads = counted g.loads s.nextOp false ∧ G.phase = g.phase ∧ G.wait = g.wait
      ∧ ∀ p w, Raised g { { G with phase := p, wait := w } with pend := g.pend, loads := g.loads, phase := g.phase, wait := g.wait, asked := g.asked } P e := by
  intro G
  obtain ⟨asked, hG⟩ : ∃ asked, G = { (g1.expect (live.flatMap fun x => loadWrites s.nextOp o.data.toNat x.1 z signed
      (s.loadPieces c g (loadUse o == .weak) x.2))).count .loads s.nextOp false with asked := asked } := by
    unfold G loadGroup
    dsimp only
    split
    · exact ⟨_, rfl⟩
    · exact ⟨_, rfl⟩
  have hframe := raised_frame_eq h
  generalize g1.clause = cl at hframe
  subst hframe
  rw [hG]
  exact ⟨rfl, rfl, rfl, rfl, fun _ _ => h⟩

theorem mem_loadDrains (s : State) (g : Group) (o : GlobalLoad) (ps : List Piece) (n q : Nat) :
    (n, q) ∈ loadDrains s g o ps ↔ (o.ord = .acq ∨ o.ord = .ar) ∧ o.rp = true ∧ LastReleaser s (s.partOf g) ps n
      ∧ q = (s.core n).queued ∧ (s.core n).accepted < q := by
  rw [loadDrains, ← isAcquire_iff]
  cases isAcquire o.ord <;> cases o.rp <;> simp [mem_drainTargets]

theorem elemsOf_le (any64 : Bool) (wid : BitVec 2) : elemsOf any64 wid ≤ 8 := by
  have hspan : spanOf wid ≤ 8 := Nat.pow_le_pow_right (by decide) (Nat.le_of_lt_succ wid.isLt)
  unfold elemsOf
  split
  · exact (Nat.div_le_self ..).trans hspan
  · exact hspan

theorem span_le_page {z : Nat} (hz : z ≤ 8) (any64 : Bool) (wid : BitVec 2) : z * elemsOf any64 wid ≤ 4096 :=
  (Nat.mul_le_mul hz (elemsOf_le any64 wid)).trans (by decide)

/-- What a load of some lanes is to deliver (R304). -/
theorem delivers_live {s : State} {c : Nat} {g : Group} {kind : Access} {z E d : Nat} {signed : Bool} (hz : 0 < z)
    (hs : signed = true → z < 4) {a : Nat → Nat} {r : Nat → LaneEnd} (h : Ends s c g kind false (z * E) a all r)
    (bytes : List Piece → List Byte) (byte : List Piece → Nat → Byte)
    (hbytes : ∀ ps : List Piece, (byteAddrs ps).length = z * E → bytes ps = (List.range (z * E)).map (byte ps)) :
    Delivers s.nextOp d z E signed (fun l => active g l ∧ (r l).goes = true) (fun l => byte (r l).pieces)
      (((going g r).map fun l => (l, (r l).pieces)).flatMap fun x => loadWrites s.nextOp d x.1 z signed (bytes x.2)) := by
  have hmap : (((going g r).map fun l => (l, (r l).pieces)).flatMap fun x => loadWrites s.nextOp d x.1 z signed (bytes x.2)) =
      (going g r).flatMap fun l => loadWrites s.nextOp d l z signed ((List.range (z * E)).map (byte (r l).pieces)) := by
    rw [List.flatMap_map]
    refine List.flatMap_congr fun l hl => ?_
    obtain ⟨hl32, ha, hgo⟩ := (mem_going g r l).1 hl
    rw [hbytes _ (translated_bytes_of_goes h hl32 ha trivial hgo)]
  rw [hmap]
  exact delivers_loadWrites s.nextOp d z E hs hz (going g r) (mem_going g r) fun l => byte (r l).pieces

/-- A group that waits behind its instruction for queues, where there are any. -/
theorem waitBehindSome_eq (G : Group) (ts : List (Nat × Nat)) :
    { G with phase := if ts = [] then G.phase else .waiting, wait := if ts = [] then G.wait else some (.queues ts) } =
      if ts = [] then G else G.waitBehind (.queues ts) := by
  split <;> rfl

theorem loadGlobal_law {mk : GlobalLoad → Instr} {z : Nat} {signed : Bool} (hexec : ∀ o s, exec (mk o) s = loadGlobal z signed o s)
    (hz : 0 < z) (hz8 : z ≤ 8) (hs : signed = true → z < 4) : GlobalLoadLaw mk z signed := by
  intro s c k g o hrun E a nearest acquires
  by_cases hok : g.addrOk o.addr = true ∧ g.inBudget o.data.toNat (if z = 8 then 2 * E else E) = true
  · rw [if_pos hok]
    have hmiss : MissesWait s c k g (mk o) .load (z * E) a all :=
      missesWait_of hrun.2 (span_le_page hz8 _ _) (fun l => by simp [mem_actives, all]) (length_actives_le g) fun m ms h =>
        (hexec o s).trans (loadGlobal_of_misses hrun hz signed o hok h)
    refine ⟨hmiss, fun r hr => ⟨fun line hheld => ?_, fun hheld hgo => ?_, fun hheld hgo => ?_⟩⟩
    · exact (hexec o s).trans (loadGlobal_of_held hrun hz signed o hok hr hheld)
    · obtain ⟨s0, hs0, ht⟩ := loadGlobal_of_none hrun hz signed o hok hr hheld hgo
      exact ⟨_, (hexec o s).trans ht, Local.trans (hs0.isLocal c k) (Local.setGroup ..), _, group?_setGroup_self .., stopped_endedGroup g .load a r⟩
    · obtain ⟨s1, G, hG, hlocal, hgroup, ht⟩ := loadGlobal_of_some hrun hz signed o hok hr hheld hgo
      obtain ⟨hacqLocal, hacqGroup, hacqL1⟩ := acquired_spec hgroup (isAcquire o.ord && wideScope o.scope)
        (loadDrains s g o ((going g r).flatMap fun l => (r l).pieces))
      have hdrain := mem_loadDrains s g o ((going g r).flatMap fun l => (r l).pieces)
      obtain ⟨hpend, hloads, hphase, hwait, hraised⟩ := loadGroup_spec s c (stopped_endedGroup g .load a r) z signed o
        ((going g r).map fun l => (l, (r l).pieces))
      rw [← hG] at hpend hloads hphase hwait hraised
      have hdel := delivers_live (d := o.data.toNat) hz hs hr (s.loadPieces c g (loadUse o == .weak)) (loadedByte s c g nearest) fun ps hps => by
        rw [loadPieces_eq s c g _ hps, loadUse_weak]
      rw [← waitBehindSome_eq] at hacqGroup
      refine ⟨_, (hexec o s).trans ht, Local.trans hlocal hacqLocal, _, _, hacqGroup, hdel, hpend, hloads, hraised .., ⟨fun hno => ?_, fun hsome => ?_⟩,
        fun hacq hwide => ?_⟩
      · have hnil : loadDrains s g o ((going g r).flatMap fun l => (r l).pieces) = [] :=
          List.eq_nil_iff_forall_not_mem.2 fun x hx => hno x.1 x.2 ((hdrain x.1 x.2).1 hx)
        exact ⟨(if_pos hnil).trans hphase, (if_pos hnil).trans hwait⟩
      · obtain ⟨n, q, hnq⟩ := hsome
        have hne := List.ne_nil_of_mem ((hdrain n q).2 hnq)
        exact ⟨if_neg hne, _, if_neg hne, hdrain⟩
      · refine hacqL1 ?_
        simp only [nearest, decide_eq_false_iff_not, not_or] at hwide
        rw [(isAcquire_iff o.ord).2 hacq, (wideScope_iff o.scope).2 hwide.2, Bool.true_and]
  · rw [if_neg hok]
    refine (hexec o s).trans ((asGroup_runs hrun _).trans (congrArg _ ?_))
    exact if_pos ((access_checks hz).2 hok)

/-! ## Snapshot loads (R311) -/

theorem keyBits_eq (z : DWord) : keyBits z = z.toNat % 2 ^ 48 := by
  simp [keyBits, bits]

/-- The bytes that a snapshot load takes from some pieces (R86, R87). -/
def snapBytes (s : State) (c : Nat) (g : Group) (key : Nat) (ps : List Piece) : List Byte :=
  (byteAddrs ps).map fun x =>
    if x.2.page.ver then (s.lineUnder (s.partOf g) (lineOf x.1) key).getD (x.1 % lineBytes) 0 else s.loadByte c x.2.page.tier x.1 false

/-- The group of a snapshot load whose lanes go on. -/
def snapGroup (s : State) (c : Nat) (g g1 : Group) (z : Nat) (o : SnapshotLoad) (live : List (Nat × List Piece)) : Group :=
  (g1.expect (live.flatMap fun x =>
    loadWrites s.nextOp o.data.toNat x.1 z false (snapBytes s c g (keyBits (g.keys.get o.key.toNat 0)) x.2))).count .loads s.nextOp false

/-- The line that a snapshot load waits for (R78, log 42). -/
def snapWaits (s : State) (c key : Nat) (ps : List Piece) : Option Nat :=
  match s.snapHeld key ps with
  | some line => some line
  | none => s.ownPending c (ps.filter fun p => !p.page.ver)

theorem snapWaits_eq_some (s : State) (c key : Nat) (ps : List Piece) (line : Nat) :
    snapWaits s c key ps = some line ↔ s.snapHeld key ps = some line
      ∨ (s.snapHeld key ps = none ∧ s.ownPending c (ps.filter fun p => !p.page.ver) = some line) := by
  unfold snapWaits
  cases s.snapHeld key ps <;> simp

theorem snapWaits_eq_none {s : State} {c key : Nat} {ps : List Piece} (hheld : s.snapHeld key ps = none)
    (hown : s.ownPending c (ps.filter fun p => !p.page.ver) = none) : snapWaits s c key ps = none := by
  unfold snapWaits
  rw [hheld]
  exact hown

/-- The checks of a snapshot load, its key register's among them (R84, R193). -/
theorem snapshot_checks {g : Group} {o : MemAddr} {d z E : Nat} {key : DWord} (hz : 0 < z) :
    (!g.addrOk o || !g.inBudget d (spanRegs z (z * E)) || !keyValid key) = true ↔
      ¬ (g.addrOk o = true ∧ g.inBudget d (if z = 8 then 2 * E else E) = true ∧ key.getLsbD 63 = true) := by
  rw [Bool.or_eq_true, access_checks hz, ← and_assoc, not_and_or (b := key.getLsbD 63 = true), keyValid, Bool.not_eq_true', Bool.not_eq_true]

section
variable {s : State} {c k : Nat} {g : Group} (hrun : Runs s c k g) {z : Nat} (hz : 0 < z) (o : SnapshotLoad)
include hrun hz

theorem loadSnapshot_of_illegal (hbad : ¬ (g.addrOk o.addr = true
    ∧ g.inBudget o.data.toNat (if z = 8 then 2 * elemsOf (z == 8) o.wid else elemsOf (z == 8) o.wid) = true
    ∧ (g.keys.get o.key.toNat 0).getLsbD 63 = true)) : loadSnapshot z o s = .next (s.setGroup c k g.illegal) :=
  (asGroup_runs hrun _).trans (congrArg _ (if_pos ((snapshot_checks hz).2 hbad)))

variable (hok : g.addrOk o.addr = true ∧ g.inBudget o.data.toNat (if z = 8 then 2 * elemsOf (z == 8) o.wid else elemsOf (z == 8) o.wid) = true
  ∧ (g.keys.get o.key.toNat 0).getLsbD 63 = true)
include hok

theorem loadSnapshot_of_revoked (hrev : (g.keys.get o.key.toNat 0).getLsbD 62 = true) :
    loadSnapshot z o s = .next (s.setGroup c k (raiseEach g ((actives g).map fun l =>
      (l, .replay .revoked ((⟨0, 7, 0⟩ : XFault).info .snapshot 0) (BitVec.ofNat 64 (g.laneAddr s.tick true o.addr l)))))) := by
  refine (asGroup_runs hrun _).trans (congrArg _ ?_)
  simp only [if_neg (mt (snapshot_checks hz).1 (not_not.2 hok)), laneAddrs_eq, keyRevoked, hrev, if_true, raiseEach, List.foldl_map]
  rfl

variable (hlive : (g.keys.get o.key.toNat 0).getLsbD 62 = false)
include hlive

theorem loadSnapshot_of_misses {m : Nat} {ms : List Nat}
    (h : missesOf (s.translateLanes c g .snapshot (z * elemsOf (z == 8) o.wid) ((actives g).map fun l => (l, g.laneAddr s.tick true o.addr l)))
      = m :: ms) : loadSnapshot z o s = .next (s.sendMisses c k (s.vdOf g) (m :: ms)) := by
  refine (asGroup_runs hrun _).trans (congrArg _ ?_)
  simp only [if_neg (mt (snapshot_checks hz).1 (not_not.2 hok)), laneAddrs_eq, keyRevoked, hlive, Bool.false_eq_true, if_false, h]

variable {r : Nat → LaneEnd} (h : Ends s c g .snapshot false (z * elemsOf (z == 8) o.wid) (fun l => g.laneAddr s.tick true o.addr l) all r)
include h

/-- A snapshot load whose lanes' accesses have their ends. -/
theorem loadSnapshot_of_ends :
    loadSnapshot z o s = .next (
      let ps := (going g r).flatMap fun l => (r l).pieces
      let s0 := s.usePages c (s.vdOf g)
        (laneSpans (z * elemsOf (z == 8) o.wid) ((actives g).map fun l => (l, g.laneAddr s.tick true o.addr l)))
      let g1 := endedGroup g .snapshot (fun l => g.laneAddr s.tick true o.addr l) r
      (snapWaits s c (keyBits (g.keys.get o.key.toNat 0)) ps).elim
        (if going g r = [] then s0.setGroup c k g1
        else ((s0.newOp).setGroup c k (snapGroup s c g g1 z o ((going g r).map fun l => (l, (r l).pieces)))).chargePieces (s.vdOf g) ps)
        fun line => s.setGroup c k (g.waitOn (.line line))) := by
  refine (asGroup_runs hrun _).trans (congrArg _ ?_)
  simp only [if_neg (mt (snapshot_checks hz).1 (not_not.2 hok)), laneAddrs_eq, keyRevoked, hlive, Bool.false_eq_true, if_false, missesOf_active h,
    sortLanes_active h, List.flatMap_map, List.isEmpty_iff, List.map_eq_nil_iff, snapGroup, snapWaits]
  cases s.snapHeld (keyBits (g.keys.get o.key.toNat 0)) ((going g r).flatMap fun l => (r l).pieces) with
  | some line => rfl
  | none =>
    cases s.ownPending c (((going g r).flatMap fun l => (r l).pieces).filter fun p => !p.page.ver) with
    | some line => rfl
    | none => rfl

end

theorem snapBytes_eq (s : State) (c : Nat) (g : Group) (key : DWord) {ps : List Piece} {n : Nat} (h : (byteAddrs ps).length = n) :
    snapBytes s c g (keyBits key) ps = (List.range n).map fun i =>
      let x := byteIn ps i
      if x.2.page.ver then (s.lineUnder (s.partOf g) (x.1 / 128) (key.toNat % 2 ^ 48)).getD (x.1 % 128) 0
      else nearByte s c x.2.page.tier x.1 false := by
  unfold snapBytes
  rw [map_byteAddrs h]
  refine List.map_congr_left fun i _ => ?_
  rw [keyBits_eq, loadByte_eq]
  rfl

/-- The lanes of a snapshot load under a revoked key are all replayable (R95, R393). -/
theorem raised_revoked (g : Group) (a : Nat → Nat) :
    Raised g (raiseEach g ((actives g).map fun l => (l, .replay .revoked ((⟨0, 7, 0⟩ : XFault).info .snapshot 0) (BitVec.ofNat 64 (a l)))))
      (active g) fun l => { lane := l, what := .replay .revoked ((⟨0, 7, 0⟩ : XFault).info .snapshot 0) (BitVec.ofNat 64 (a l)),
                            escalates := (g.lane l).trap, word := g.clause.idx, rword := g.clause.idx, sword := g.clause.idx + g.clause.len } := by
  have hfst {f : Nat → Nat × Raise} (hf : ∀ l, (f l).1 = l) : ((actives g).map f).map (·.1) = actives g := by
    rw [List.map_map]
    exact (List.map_congr_left fun l _ => hf l).trans (List.map_id' _)
  refine raised_raiseEach g _ (fun x hx => ?_) ?_ (fun l => ?_) fun x hx => ?_
  · obtain ⟨l, hl, rfl⟩ := List.mem_map.1 hx
    exact ((mem_actives g l).1 hl).1
  · rw [hfst fun _ => rfl]
    exact actives_sorted g
  · rw [hfst fun _ => rfl]
    exact mem_actives g l
  · obtain ⟨l, -, rfl⟩ := List.mem_map.1 hx
    simp only [laneRaise, escalating, Bool.and_true]

theorem loadSnapshot_law {mk : SnapshotLoad → Instr} {z : Nat} (hexec : ∀ o s, exec (mk o) s = loadSnapshot z o s) (hz : 0 < z) (hz8 : z ≤ 8) :
    SnapshotLoadLaw mk z := by
  intro s c k g o hrun E a key value
  by_cases hok : g.addrOk o.addr = true ∧ g.inBudget o.data.toNat (if z = 8 then 2 * E else E) = true ∧ key.getLsbD 63 = true
  · rw [if_pos hok]
    have hmiss (hlive : key.getLsbD 62 = false) : MissesWait s c k g (mk o) .snapshot (z * E) a all :=
      missesWait_of hrun.2 (span_le_page hz8 _ _) (fun l => by simp [mem_actives, all]) (length_actives_le g) fun m ms h =>
        (hexec o s).trans (loadSnapshot_of_misses hrun hz o hok hlive h)
    refine ⟨fun hrev => ⟨_, (hexec o s).trans (loadSnapshot_of_revoked hrun hz o hok hrev), raised_revoked g a⟩, hmiss, fun hlive r hr => ?_⟩
    have hend {w : Option Nat} (hw : snapWaits s c (keyBits key) ((going g r).flatMap fun l => (r l).pieces) = w) :=
      (hexec o s).trans ((loadSnapshot_of_ends hrun hz o hok hlive hr).trans (congrArg (fun w => Host.Outcome.next (Option.elim w _ _)) hw))
    rw [keyBits_eq] at hend
    intro ps plain held
    have hpages := untouched_usePages s c (s.vdOf g)
      (laneSpans (z * elemsOf (z == 8) o.wid) ((actives g).map fun l => (l, g.laneAddr s.tick true o.addr l)))
    refine ⟨fun line hline => hend ((snapWaits_eq_some ..).2 hline), fun hheld hown hgo => ?_, fun hheld hown hgo => ?_⟩
    · exact ⟨_, (hend (snapWaits_eq_none hheld hown)).trans (congrArg _ (if_pos hgo)), Local.trans (hpages.isLocal c k) (Local.setGroup ..), _,
        group?_setGroup_self .., stopped_endedGroup g .snapshot a r⟩
    · obtain ⟨hpend, hloads, hraised⟩ := raised_load (stopped_endedGroup g .snapshot a r) (((going g r).map fun l => (l, (r l).pieces)).flatMap
        fun x => loadWrites s.nextOp o.data.toNat x.1 z false (snapBytes s c g (keyBits key) x.2)) s.nextOp
      have hdel := delivers_live (d := o.data.toNat) hz (fun h => absurd h Bool.false_ne_true) hr (snapBytes s c g (keyBits key)) value
        fun ps hps => snapBytes_eq s c g key hps
      refine ⟨_, (hend (snapWaits_eq_none hheld hown)).trans (congrArg _ (if_neg hgo)), Local.after (Local.trans ((hpages.trans (untouched_newOp _)).isLocal c k) (Local.setGroup ..)) (untouched_chargePieces ..), _, _, ?_, hdel, hpend, hloads, hraised⟩
      rw [(untouched_chargePieces ..).group?, group?_setGroup_self]
      rfl
  · rw [if_neg hok]
    exact (hexec o s).trans (loadSnapshot_of_illegal hrun hz o hok)

/-! ## Locked lines and the versions that a key selects (R76, R78, R86) -/

/-- A read of a piece under a key waits for a line. -/
def blocksRead (s : State) (key : Nat) (p : Piece) (line : Nat) : Bool := s.locked line && !(p.page.ver && s.keyPasses line key)

/-- The lines of a piece that a commit may lock: none in the host's memory. -/
def lockable (p : Piece) : List Nat := match p.page.tier with
  | .host => []
  | _ => linesOf ((List.range p.n).map (p.addr + ·))

theorem mem_lockable (p : Piece) (line : Nat) : line ∈ lockable p ↔ p.page.tier ≠ .host ∧ ∃ i, i < p.n ∧ line = (p.addr + i) / 128 := by
  rw [← mem_linesOf_piece]
  unfold lockable
  cases p.page.tier <;> simp

theorem snapHeld_eq (s : State) (key : Nat) (ps : List Piece) :
    s.snapHeld key ps = (ps.filterMap fun p => (lockable p).find? (blocksRead s key p)).head? := by
  refine congrArg List.head? (List.filterMap_congr fun p _ => ?_)
  unfold lockable
  cases p.page.tier <;> rfl

/-- A piece and a line of it that a read under a key waits for. -/
def Blocks (s : State) (key : Nat) (p : Piece) (line : Nat) : Prop :=
  p.page.tier ≠ .host ∧ (∃ i, i < p.n ∧ line = (p.addr + i) / 128) ∧ s.locked line = true ∧ ¬ (p.page.ver = true ∧ s.keyPasses line key = true)

theorem blocks_iff (s : State) (key : Nat) (p : Piece) (line : Nat) : Blocks s key p line ↔ line ∈ lockable p ∧ blocksRead s key p line = true := by
  rw [Blocks, mem_lockable, and_assoc, blocksRead, Bool.and_eq_true, Bool.not_eq_true', ← Bool.not_eq_true, Bool.and_eq_true]

theorem snapHeld_eq_none (s : State) (key : Nat) (ps : List Piece) : s.snapHeld key ps = none ↔ ∀ p ∈ ps, ∀ line, ¬ Blocks s key p line := by
  simp only [snapHeld_eq, List.head?_eq_none_iff, List.filterMap_eq_nil_iff, List.find?_eq_none, blocks_iff, not_and]

theorem blocks_of_snapHeld {s : State} {key : Nat} {ps : List Piece} {line : Nat} (h : s.snapHeld key ps = some line) :
    ∃ p ∈ ps, Blocks s key p line := by
  rw [snapHeld_eq] at h
  obtain ⟨p, hp, hfind⟩ := List.mem_filterMap.1 (List.mem_of_head? h)
  exact ⟨p, hp, (blocks_iff ..).2 ⟨List.mem_of_find?_eq_some hfind, List.find?_some hfind⟩⟩

theorem keyPasses_of_locked {s : State} {line key c k : Nat} {vs : VersionSet} {g : Group} (hvs : s.versions.look line = some vs)
    (hlock : vs.lock = some (c, k)) (hg : s.group? c k = some g) :
    s.keyPasses line key = winBefore (keyWindow key) (s.device (s.vdOf g)).window := by
  simp only [State.keyPasses, hvs, Option.bind_some, hlock, hg]

theorem loadHeld_eq_none (s : State) (c : Nat) (g : Group) (ps : List Piece) :
    s.loadHeld c g ps = none ↔ s.heldIn c (ps.filter (cacheable g)) ps = none
      ∧ ∀ t, g.tx = some t → s.snapHeld t.key (ps.filter fun p => p.page.ver) = none := by
  unfold State.loadHeld
  cases s.heldIn c (ps.filter (cacheable g)) ps with
  | some line => simp
  | none => cases g.tx <;> simp

theorem under_iff (x : Stamp) (key : Nat) :
    x.under key = true ↔ x.settled = true ∨ x.window = key / 2 ^ 16 % 2 ^ 32 ∨ winBefore x.window (key / 2 ^ 16 % 2 ^ 32) = true := by
  rw [Stamp.under, Bool.or_eq_true, winLe, Bool.or_eq_true, beq_iff_eq]
  rfl

theorem getD_frame (s : State) (line : Nat) {i : Nat} (hi : i < 128) : (s.frame line).getD i 0 = s.mem.read (128 * line + i) := by
  have : (s.frame line).getD i 0 = s.mem.read (line * 128 + i) := by
    simp [State.frame, Memory.readAll, lineBytes, hi]
  rw [this, Nat.mul_comm]

section
variable {s : State} {part line key : Nat}

theorem lineUnder_of_newest (h : (s.versionsOf part line).newest.under key = true) : s.lineUnder part line key = s.frame line := if_pos h

theorem lineUnder_of_older (h : ¬ (s.versionsOf part line).newest.under key = true) {pre post : List Version} {v : Version}
    (hv : (s.versionsOf part line).older = pre ++ v :: post) (hpre : ∀ x ∈ pre, ¬ x.stamp.under key = true) (hq : v.stamp.under key = true) :
    s.lineUnder part line key = v.data := by
  have hfind : (s.versionsOf part line).older.find? (fun v => v.stamp.under key) = some v :=
    List.find?_eq_some_iff_append.2 ⟨hq, pre, post, hv, fun x hx => by simpa using hpre x hx⟩
  simp only [State.lineUnder, if_neg h, hfind]

theorem lineUnder_of_lost (h : ¬ (s.versionsOf part line).newest.under key = true)
    (hall : ∀ x ∈ (s.versionsOf part line).older, ¬ x.stamp.under key = true) {i : Nat} (hi : i < 128) :
    (s.lineUnder part line key).getD i 0 = Config.lostVersion s.tick (128 * line + i) := by
  have hfind : (s.versionsOf part line).older.find? (fun v => v.stamp.under key) = none := List.find?_eq_none.2 hall
  simp only [State.lineUnder, if_neg h, hfind]
  simp [lineBytes, hi, Nat.mul_comm]

end

/-- Settles O25: loads and snapshot loads lane by lane, then what a key waits for and what it selects. -/
theorem globalAndSnapshotLoads : Obligations.GlobalAndSnapshotLoads := by
  refine ⟨⟨?_, ?_, ?_, ?_, ?_, ?_⟩, ⟨?_, ?_⟩, fun s key ps => ⟨snapHeld_eq_none s key ps, fun line => blocks_of_snapHeld, ?_, fun c g =>
    loadHeld_eq_none s c g ps⟩, ?_⟩
  · exact loadGlobal_law (fun _ _ => rfl) (by decide) (by decide) (by decide)
  · exact loadGlobal_law (fun _ _ => rfl) (by decide) (by decide) (by decide)
  · exact loadGlobal_law (fun _ _ => rfl) (by decide) (by decide) (by decide)
  · exact loadGlobal_law (fun _ _ => rfl) (by decide) (by decide) (by decide)
  · exact loadGlobal_law (fun _ _ => rfl) (by decide) (by decide) (by decide)
  · exact loadGlobal_law (fun _ _ => rfl) (by decide) (by decide) (by decide)
  · exact loadSnapshot_law (fun _ _ => rfl) (by decide) (by decide)
  · exact loadSnapshot_law (fun _ _ => rfl) (by decide) (by decide)
  · exact fun line vs c k g hvs hlock hg => by rw [keyPasses_of_locked hvs hlock hg]; rfl
  · intro s part line key vs qualifies byte
    refine ⟨fun hnone i hi => ?_, fun hq i hi => ?_, fun hq pre v post hv hpre hqv => ?_, fun hq hall i hi => ?_⟩
    · have hset : s.versionsOf part line = { part := part, newest := Stamp.initial, older := [], lock := none } := by
        simp only [State.versionsOf, Tab.get, hnone, Option.getD_none]
      have hnew : (s.versionsOf part line).newest.under key = true := by
        rw [hset]
        rfl
      simp only [byte, lineUnder_of_newest hnew, getD_frame s line hi]
    · simp only [byte, lineUnder_of_newest ((under_iff ..).2 hq), getD_frame s line hi]
    · exact lineUnder_of_older (mt (under_iff ..).1 hq) hv (fun x hx => mt (under_iff ..).1 (hpre x hx)) ((under_iff ..).2 hqv)
    · exact lineUnder_of_lost (mt (under_iff ..).1 hq) (fun x hx => mt (under_iff ..).1 (hall x hx)) hi

end Sys2Proof.Laws
end

section
/-! Wards, lanes that wait on them, and lanes that alignment or a page stops (R13, R66, R200, R306, R316). -/

namespace Sys2Proof.Laws

open Sys2Proof Sys2Proof.Machine Sys2Proof.Claim

/-! ## Wards (R66, R316) -/

/-- A waiter stands on a ward of a line. -/
def OnWard (t : State) (x : Waiter) (line : Nat) : Prop := ∃ w ∈ (t.slice (sliceOf line)).wards, w.line = line ∧ x ∈ w.waiters

theorem slice_withSlice (s : State) (n m : Nat) (f : Slice → Slice) :
    (s.withSlice n f).slice m = if m = n then f (s.slice n) else s.slice m := by
  by_cases h : m = n
  · subst h
    rw [if_pos rfl]
    exact Tab.get_put_self ..
  · rw [if_neg h]
    exact Tab.get_put_ne _ _ _ _ _ h

theorem untouched_withSlice (s : State) (n : Nat) (f : Slice → Slice) : Untouched s (s.withSlice n f) := .of_eq rfl rfl rfl rfl

/-- A change of a slice's wards that keeps every waiter at its line. -/
theorem OnWard.withWards {s : State} {n : Nat} {ws : List Ward}
    (hkeep : ∀ w ∈ (s.slice n).wards, ∃ w' ∈ ws, w'.line = w.line ∧ ∀ y ∈ w.waiters, y ∈ w'.waiters) {y : Waiter} {l : Nat} (h : OnWard s y l) :
    OnWard (s.withSlice n fun z => { z with wards := ws }) y l := by
  obtain ⟨w, hw, hline, hy⟩ := h
  rw [OnWard, slice_withSlice]
  split
  · next hn =>
    obtain ⟨w', hw', hline', hkeepw⟩ := hkeep w (hn ▸ hw)
    exact ⟨w', hw', hline'.trans hline, hkeepw y hy⟩
  · exact ⟨w, hw, hline, hy⟩

/-- A ward's entry shared with one waiter more. -/
def joined (x : Waiter) (line : Nat) (w : Ward) : Ward :=
  if w.line == line && !(w.waiters.contains x) then { w with waiters := w.waiters ++ [x] } else w

theorem joined_keeps (x : Waiter) (line : Nat) (w : Ward) : (joined x line w).line = w.line ∧ ∀ y ∈ w.waiters, y ∈ (joined x line w).waiters := by
  unfold joined
  split
  · exact ⟨rfl, fun y hy => List.mem_append_left _ hy⟩
  · exact ⟨rfl, fun y hy => hy⟩

theorem mem_joined (x : Waiter) {line : Nat} {w : Ward} (h : w.line = line) : x ∈ (joined x line w).waiters := by
  unfold joined
  split
  · exact List.mem_append_right _ List.mem_cons_self
  · next hn => simpa [h] using hn

/-- The wards of a slice with one waiter more, where there is room for it. -/
def wardsJoined (ws : List Ward) (x : Waiter) (line : Nat) : List Ward :=
  if (ws.any fun w => w.line == line) = true then ws.map (joined x line) else ws ++ [{ line := line, waiters := [x] }]

theorem length_wardsJoined (ws : List Ward) (x : Waiter) (line : Nat) : (wardsJoined ws x line).length ≤ ws.length + 1 := by
  unfold wardsJoined
  split
  · rw [List.length_map]
    exact Nat.le_succ _
  · rw [List.length_append]
    rfl

theorem mem_wardsJoined_self (ws : List Ward) (x : Waiter) (line : Nat) : ∃ w ∈ wardsJoined ws x line, w.line = line ∧ x ∈ w.waiters := by
  unfold wardsJoined
  split
  · next h =>
    obtain ⟨w, hw, hline⟩ := List.any_eq_true.1 h
    exact ⟨joined x line w, List.mem_map_of_mem hw, (joined_keeps x line w).1.trans (beq_iff_eq.1 hline), mem_joined x (beq_iff_eq.1 hline)⟩
  · exact ⟨_, List.mem_append_right _ List.mem_cons_self, rfl, List.mem_cons_self⟩

theorem mem_wardsJoined_of_mem {ws : List Ward} (x : Waiter) (line : Nat) {w : Ward} (hw : w ∈ ws) :
    ∃ w' ∈ wardsJoined ws x line, w'.line = w.line ∧ ∀ y ∈ w.waiters, y ∈ w'.waiters := by
  unfold wardsJoined
  split
  · exact ⟨joined x line w, List.mem_map_of_mem hw, joined_keeps x line w⟩
  · exact ⟨w, List.mem_append_left _ hw, rfl, fun y hy => hy⟩

section
variable {s : State} {line : Nat} (hroom : (s.slice (sliceOf line)).wards.length < 512) (x : Waiter)
include hroom

/-- A ward placed in a slice that has room displaces none (R66). -/
theorem placeWard_eq : s.placeWard line x =
    s.withSlice (sliceOf line) fun y => { y with wards := wardsJoined (s.slice (sliceOf line)).wards x line } := by
  unfold State.placeWard wardsJoined
  by_cases h : ((s.slice (sliceOf line)).wards.any fun w => w.line == line) = true
  · simp only [if_pos h]
    rfl
  · simp only [if_neg h]
    cases hws : (s.slice (sliceOf line)).wards with
    | nil => simp only [State.withSlice, hws]
    | cons w rest =>
      rw [hws] at hroom
      simp only [if_neg (Nat.not_le.2 hroom), State.withSlice, hws]

theorem untouched_placeWard : Untouched s (s.placeWard line x) := by
  rw [placeWard_eq hroom]
  exact untouched_withSlice ..

theorem length_placeWard (n : Nat) : ((s.placeWard line x).slice n).wards.length ≤ (s.slice n).wards.length + 1 := by
  rw [placeWard_eq hroom, slice_withSlice]
  split
  · next h =>
    subst h
    exact length_wardsJoined ..
  · exact Nat.le_succ _

theorem onWard_placeWard : OnWard (s.placeWard line x) x line := by
  rw [placeWard_eq hroom, OnWard, slice_withSlice, if_pos rfl]
  exact mem_wardsJoined_self ..

theorem OnWard.placeWard {y : Waiter} {l : Nat} (h : OnWard s y l) : OnWard (s.placeWard line x) y l := by
  rw [placeWard_eq hroom]
  exact h.withWards fun w hw => mem_wardsJoined_of_mem x line hw

end

/-- Wards placed on several lines. -/
def placeWards (s : State) (lines : List Nat) (x : Waiter) : State := lines.foldl (fun a line => a.placeWard line x) s

theorem placeWards_spec (x : Waiter) (lines : List Nat) {s : State} (hroom : ∀ n, (s.slice n).wards.length + lines.length ≤ 512) :
    Untouched s (placeWards s lines x) ∧ (∀ line ∈ lines, OnWard (placeWards s lines x) x line)
      ∧ ∀ y l, OnWard s y l → OnWard (placeWards s lines x) y l := by
  induction lines generalizing s with
  | nil => exact ⟨.refl s, fun line h => absurd h List.not_mem_nil, fun y l h => h⟩
  | cons line rest ih =>
    have hfirst : (s.slice (sliceOf line)).wards.length < 512 := by
      have := hroom (sliceOf line)
      rw [List.length_cons] at this
      omega
    obtain ⟨hu, hplaced, hkeep⟩ := ih (s := s.placeWard line x) fun n => by
      have h1 := hroom n
      have h2 := length_placeWard hfirst x n
      rw [List.length_cons] at h1
      omega
    refine ⟨(untouched_placeWard hfirst x).trans hu, fun l hl => ?_, fun y l h => hkeep y l (h.placeWard hfirst x)⟩
    rcases List.mem_cons.1 hl with rfl | hrest
    · exact hkeep x l (onWard_placeWard hfirst x)
    · exact hplaced l hrest

/-- The wards of lanes: no other is displaced where every slice has room. -/
theorem placeLaneWards_spec {s : State} (hroom : WardRoom s) (c k : Nat) {lines : List Nat} (hlen : lines.length ≤ 32) :
    Untouched s (s.placeLaneWards c k lines) ∧ ∀ line ∈ lines, Warded (s.placeLaneWards c k lines) c k line := by
  have hle := length_eraseDups_le lines
  obtain ⟨hu, hplaced, -⟩ := placeWards_spec (.lanes c k) lines.eraseDups (s := s) fun n => by
    have := hroom n
    omega
  exact ⟨hu, fun line hline => hplaced line (List.mem_eraseDups.2 hline)⟩

theorem wardRoom_congr {s t : State} (h : t.slices = s.slices) : WardRoom s → WardRoom t := fun hroom n => by
  rw [State.slice, h]
  exact hroom n

theorem slices_charge (s : State) (vd n : Nat) : (s.charge vd n).slices = s.slices := by
  unfold State.charge
  split <;> rfl

theorem slices_chargeLine (s : State) (vd line : Nat) : (s.chargeLine vd line).slices = s.slices := by
  unfold State.chargeLine
  split
  · exact slices_charge ..
  · rfl

theorem slices_chargePieces (s : State) (vd : Nat) (ps : List Piece) : (s.chargePieces vd ps).slices = s.slices := by
  unfold State.chargePieces
  generalize ((ps.filter fun p => p.page.tier == .hbm).flatMap fun p => p.lines.map (·.1)).eraseDups = lines
  induction lines generalizing s with
  | nil => rfl
  | cons line rest ih => rw [List.foldl_cons, ih, slices_chargeLine]

/-! ## Lanes that wait (R200, R316, R327) -/

/-- What one lane of a wait does: it writes its result, or it is held on the ward of a line. -/
def waitStep (tick : Nat) (res : Nat → Option (List (Nat × Word))) (line : Nat → Nat) (g : Group) (l : Nat) : Group :=
  match res l with
  | some ws => ws.foldl (fun a w => a.vwrite tick w.1 l w.2) g
  | none => g.holdOn l (line l)

/-- What the lanes of a list have done that wait. -/
structure WaitedOn (g g' : Group) (res : Nat → Option (List (Nat × Word))) (line : Nat → Nat) (L : List Nat) : Prop where
  regs : ∀ v l, l < 32 → g'.vraw v l = if l ∈ L then ((((res l).getD []).find? fun w => w.1 == v).map (·.2)).getD (g.vraw v l) else g.vraw v l
  stays : ∀ l, l < 32 → (active g' l ↔ active g l ∧ ¬ (l ∈ L ∧ res l = none))
  lanes : ∀ l, g'.lane l = if l ∈ L ∧ res l = none then
    { g.lane l with state := .held, hold := .ward (line l), pc := g.clause.addr, r := g.clause.idx } else g.lane l
  clauseFrame : { g'.clause with active := g.clause.active } = g.clause
  frame : { g' with vregs := g.vregs, pend := g.pend, lanes := g.lanes, clause := g.clause } = g

variable {tick : Nat} {res : Nat → Option (List (Nat × Word))} {line : Nat → Nat}

theorem vwrites_frame (tick l : Nat) (ws : List (Nat × Word)) (g : Group) :
    ∃ vregs pend, ws.foldl (fun a w => a.vwrite tick w.1 l w.2) g = { g with vregs := vregs, pend := pend } := by
  induction ws generalizing g with
  | nil => exact ⟨_, _, rfl⟩
  | cons w rest ih =>
    obtain ⟨vregs, pend, h⟩ := ih (g.vwrite tick w.1 l w.2)
    exact ⟨vregs, pend, h.trans rfl⟩

theorem vraw_vwrites {l : Nat} (hl : l < 32) (ws : List (Nat × Word)) (hnd : (ws.map (·.1)).Nodup) (g : Group) (v m : Nat) (hm : m < 32) :
    (ws.foldl (fun a w => a.vwrite tick w.1 l w.2) g).vraw v m =
      if m = l then ((ws.find? fun w => w.1 == v).map (·.2)).getD (g.vraw v m) else g.vraw v m := by
  induction ws generalizing g with
  | nil => simp
  | cons w rest ih =>
    rw [List.map_cons, List.nodup_cons] at hnd
    rw [List.foldl_cons, ih hnd.2, vraw_vwrite g tick w.1 l v m w.2 hl hm, List.find?_cons]
    by_cases hml : m = l
    · by_cases hv : v = w.1
      · subst hv
        have hrest : rest.find? (fun y => y.1 == w.1) = none :=
          List.find?_eq_none.2 fun y hy h => hnd.1 (List.mem_map.2 ⟨y, hy, beq_iff_eq.1 h⟩)
        simp [hml, hrest]
      · have : (w.1 == v) = false := by simpa using fun h : w.1 = v => hv h.symm
        simp only [hml, if_true, hv, false_and, if_false, this]
    · simp only [hml, if_false, and_false]

theorem getLsbD_without (ls : LaneSet) {l m : Nat} (hl : l < 32) (hm : m < 32) :
    (ls &&& ~~~laneBit l).getLsbD m = true ↔ ls.getLsbD m = true ∧ m ≠ l := by
  simpa [withoutLanes] using getLsbD_withoutLanes ls [l] (by simpa using hl) hm

theorem lane_setLane (g : Group) (l m : Nat) (x : Lane) : (g.setLane l x).lane m = if m = l then x else g.lane m := tabGet_put ..

/-- One lane that waits. -/
theorem waitedOn_waitStep (g : Group) {l : Nat} (hl : l < 32) (hnd : (((res l).getD []).map (·.1)).Nodup) :
    WaitedOn g (waitStep tick res line g l) res line [l] := by
  unfold waitStep
  cases hres : res l with
  | some ws =>
    obtain ⟨vregs, pend, heq⟩ := vwrites_frame tick l ws g
    have hregs := vraw_vwrites (tick := tick) hl ws (by simpa [hres] using hnd) g
    dsimp only
    refine ⟨fun v m hm => ?_, fun m hm => ?_, fun m => ?_, ?_, ?_⟩
    · rw [hregs v m hm]
      by_cases hml : m = l
      · simp [hml, hres]
      · simp [hml]
    · rw [heq]
      by_cases hml : m = l
      · simp [hml, hres, active]
      · simp [hml, active]
    · rw [heq]
      by_cases hml : m = l
      · simp only [hml, hres, reduceCtorEq, and_false, if_false]
        rfl
      · simp only [List.mem_singleton, hml, false_and, if_false]
        rfl
    · rw [heq]
    · rw [heq]
  | none =>
    dsimp only [Group.holdOn]
    refine ⟨fun v m hm => ?_, fun m hm => ?_, fun m => ?_, rfl, rfl⟩
    · by_cases hml : m = l
      · subst hml
        simp only [hres, Option.getD_none, List.find?_nil, Option.map_none, ite_self]
        rfl
      · simp only [List.mem_singleton, hml, if_false]
        rfl
    · have := getLsbD_without g.clause.active hl hm
      by_cases hml : m = l
      · subst hml
        simpa [active, hm, hres] using this
      · simpa [active, hm, hml] using this
    · refine (lane_setLane g l m _).trans ?_
      by_cases hml : m = l
      · subst hml
        simp only [hres, List.mem_singleton, and_self, if_true]
      · simp only [List.mem_singleton, hml, false_and, if_false]

/-- Lanes that wait, and then others. -/
theorem WaitedOn.trans {g g1 g2 : Group} {l : Nat} {L : List Nat} (hl : l ∉ L) (h1 : WaitedOn g g1 res line [l])
    (h2 : WaitedOn g1 g2 res line L) : WaitedOn g g2 res line (l :: L) := by
  have hclause := h1.clauseFrame
  refine ⟨fun v m hm => ?_, fun m hm => ?_, fun m => ?_, ?_, ?_⟩
  · rw [h2.regs v m hm, h1.regs v m hm]
    by_cases hml : m = l
    · subst hml
      simp [hl]
    · simp [hml]
  · rw [h2.stays m hm, h1.stays m hm]
    by_cases hml : m = l
    · subst hml
      simp [hl]
    · simp [hml]
  · have haddr : g1.clause.addr = g.clause.addr := by rw [← hclause]
    have hidx : g1.clause.idx = g.clause.idx := by rw [← hclause]
    rw [h2.lanes m, h1.lanes m, haddr, hidx]
    by_cases hml : m = l
    · subst hml
      simp [hl]
    · simp [hml]
  · rw [← hclause, ← h2.clauseFrame]
  · rw [← h1.frame, ← h2.frame]

theorem waitedOn_foldl (L : List Nat) (hL : ∀ l ∈ L, l < 32) (hnodup : L.Nodup) (hnd : ∀ l ∈ L, (((res l).getD []).map (·.1)).Nodup) (g : Group) :
    WaitedOn g (L.foldl (waitStep tick res line) g) res line L := by
  induction L generalizing g with
  | nil => exact ⟨fun v l _ => by simp, fun l _ => by simp, fun l => by simp, rfl, rfl⟩
  | cons l rest ih =>
    rw [List.nodup_cons] at hnodup
    exact .trans hnodup.1 (waitedOn_waitStep g (hL l List.mem_cons_self) (hnd l List.mem_cons_self))
      (ih (fun m hm => hL m (List.mem_cons_of_mem _ hm)) hnodup.2 (fun m hm => hnd m (List.mem_cons_of_mem _ hm)) _)

/-- All active lanes of a group that wait, in any order. -/
theorem WaitedOn.waited {g g' : Group} {L : List Nat} (h : WaitedOn g g' res line L) (hL : ∀ l, l ∈ L ↔ l < 32 ∧ active g l) :
    Waited g g' res line := by
  refine ⟨fun v l hl => ?_, fun l hl => ?_, fun l hl ha hres => ?_, fun l hl => ?_, h.clauseFrame, h.frame⟩
  · rw [h.regs v l hl]
    refine if_congr ?_ rfl rfl
    rw [hL, active]
    simp [hl]
  · rw [h.stays l hl, hL]
    cases res l <;> simp [hl]
  · rw [h.lanes l, if_pos ⟨(hL l).2 ⟨hl, ha⟩, hres⟩]
  · rw [h.lanes l, if_neg]
    rw [hL, and_assoc]
    exact hl

/-! ## Lanes that must be aligned, and lanes that a page bars (R13, R306) -/

theorem raiseEach_append (g : Group) (xs ys : List (Nat × Raise)) : raiseEach (raiseEach g xs) ys = raiseEach g (xs ++ ys) :=
  (List.foldl_append ..).symm

/-- Events of different lanes, in any order, are events raised. -/
theorem raisedSome_raiseEach (g : Group) (xs : List (Nat × Raise)) (hnodup : (xs.map (·.1)).Nodup) {P : Nat → Prop}
    (hP : ∀ l, l ∈ xs.map (·.1) ↔ l < 32 ∧ P l) {e : Nat → LaneEvent} (he : ∀ x ∈ xs, e x.1 = laneRaise g x.2 x.1) :
    RaisedSome g (raiseEach g xs) P e := by
  have hlanes : ∀ l ∈ xs.map (·.1), l < 32 := fun l h => ((hP l).1 h).1
  rw [raiseEach_eq g xs fun x hx => hlanes _ (List.mem_map_of_mem hx)]
  refine ⟨fun l hl => ?_, ⟨xs.map (·.1), hnodup, hP, ?_⟩, rfl, rfl⟩
  · have := getLsbD_withoutLanes g.clause.active (xs.map (·.1)) hlanes hl
    rw [hP] at this
    simp only [active, this, hl, true_and]
  · rw [List.map_map]
    exact congrArg _ (List.map_congr_left fun x hx => (he x hx).symm)

/-- The lanes of a list whose address is misaligned, with their trap. -/
def misaligned (kind : Access) (z : Nat) (a : Nat → Nat) (L : List Nat) : List (Nat × Raise) :=
  (L.filter fun l => a l % z != 0).map fun l => (l, alignTrap kind 0 (a l))

theorem alignLanes_eq (kind : Access) (z : Nat) (a : Nat → Nat) (L : List Nat) (g : Group) :
    g.alignLanes z kind 0 (L.map fun l => (l, a l)) =
      (raiseEach g (misaligned kind z a L), (L.filter fun l => a l % z == 0).map fun l => (l, a l)) := by
  induction L generalizing g with
  | nil => rfl
  | cons l rest ih =>
    simp only [misaligned] at ih
    by_cases h : a l % z = 0
    · simp [Group.alignLanes, misaligned, h, ih]
    · simp only [List.map_cons, Group.alignLanes, h, if_false, ih, misaligned, List.filter_cons, bne_iff_ne, ne_eq, not_false_eq_true, if_true,
        beq_iff_eq, raiseEach, List.foldl_cons]

/-- The lanes of a list that their page bars from an access, with their fault. -/
def barredLanes (kind : Access) (a : Nat → Nat) (p : Nat → Piece) (barred : Nat → Bool) (L : List Nat) : List (Nat × Raise) :=
  (L.filter barred).map fun l => (l, scopeFault kind (a l) (p l))

theorem wardLanes_eq (a : Nat → Nat) (p : Nat → Piece) {pieces : Nat → List Piece} (L : List Nat) (hp : ∀ l ∈ L, pieces l = [p l]) (g : Group) :
    g.wardLanes (L.map fun l => (l, a l, pieces l)) =
      (raiseEach g (barredLanes .load a p (fun l => decide ((p l).page.tier = .host)) L),
       (L.filter fun l => !decide ((p l).page.tier = .host)).map fun l => (l, p l)) := by
  induction L generalizing g with
  | nil => rfl
  | cons l rest ih =>
    have hrest := ih fun m hm => hp m (List.mem_cons_of_mem _ hm)
    simp only [barredLanes] at hrest
    by_cases h : (p l).page.tier = .host
    · simp only [List.map_cons, hp l List.mem_cons_self, Group.wardLanes, h, if_true, hrest, barredLanes, List.filter_cons, decide_true, raiseEach,
        List.foldl_cons, Bool.not_true, Bool.false_eq_true, if_false]
    · simp only [List.map_cons, hp l List.mem_cons_self, Group.wardLanes, h, if_false, hrest, barredLanes, List.filter_cons, decide_false,
        Bool.false_eq_true, Bool.not_false, if_true]

section
variable (g : Group) (kind : Access) (z : Nat) (a : Nat → Nat) (r : Nat → LaneEnd) (p : Nat → Piece) (barred : Nat → Bool)

/-- The active lanes whose address is aligned. -/
def alignedLanes : List Nat := (actives g).filter fun l => a l % z == 0

/-- Every lane that stops, with what it takes: first the misaligned ones, then those that do not reach their bytes, then the barred ones. -/
def haltedLanes : List (Nat × Raise) :=
  misaligned kind z a (actives g) ++ endedLanes g kind a r (alignedLanes g z a)
    ++ barredLanes kind a p barred ((alignedLanes g z a).filter fun l => (r l).goes)

theorem laneStop_eq_none (l : Nat) : laneStop g kind z a r p barred l = none ↔ a l % z = 0 ∧ (r l).goes = true ∧ barred l = false := by
  unfold laneStop
  by_cases h1 : a l % z = 0
  · cases h2 : (r l).goes <;> cases h3 : barred l <;> simp [h1]
  · simp [h1]

theorem mem_haltedLanes (x : Nat × Raise) : x ∈ haltedLanes g kind z a r p barred ↔ x.1 ∈ actives g
    ∧ (if a x.1 % z ≠ 0 then x.2 = alignTrap kind 0 (a x.1) else if (r x.1).goes = false then x.2 = endRaise g kind (a x.1) (r x.1)
      else barred x.1 = true ∧ x.2 = scopeFault kind (a x.1) (p x.1)) := by
  obtain ⟨l, e⟩ := x
  simp only [haltedLanes, misaligned, endedLanes, barredLanes, alignedLanes, List.mem_append, List.mem_map, List.mem_filter, Prod.mk.injEq,
    bne_iff_ne, beq_iff_eq, Bool.not_eq_true']
  constructor
  · rintro ((⟨m, ⟨hm, hal⟩, rfl, rfl⟩ | ⟨m, ⟨⟨hm, hal⟩, hgo⟩, rfl, rfl⟩) | ⟨m, ⟨⟨⟨hm, hal⟩, hgo⟩, hb⟩, rfl, rfl⟩)
    · exact ⟨hm, by rw [if_pos hal]⟩
    · exact ⟨hm, by rw [if_neg (not_not.2 hal), if_pos hgo]⟩
    · exact ⟨hm, by rw [if_neg (not_not.2 hal), if_neg (by simp [hgo])]; exact ⟨hb, rfl⟩⟩
  · rintro ⟨hm, he⟩
    by_cases hal : a l % z = 0
    · rw [if_neg (not_not.2 hal)] at he
      by_cases hgo : (r l).goes = false
      · rw [if_pos hgo] at he
        exact .inl (.inr ⟨l, ⟨⟨hm, hal⟩, hgo⟩, rfl, he.symm⟩)
      · rw [if_neg hgo] at he
        exact .inr ⟨l, ⟨⟨⟨hm, hal⟩, Bool.eq_true_of_not_eq_false hgo⟩, he.1⟩, rfl, he.2.symm⟩
    · rw [if_pos hal] at he
      exact .inl (.inl ⟨l, ⟨hm, hal⟩, rfl, he.symm⟩)

theorem nodup_haltedLanes : ((haltedLanes g kind z a r p barred).map (·.1)).Nodup := by
  have hact : (actives g).Nodup := (actives_sorted g).imp fun h => Nat.ne_of_lt h
  have hfst : (haltedLanes g kind z a r p barred).map (·.1) =
      ((actives g).filter fun l => a l % z != 0) ++ ((alignedLanes g z a).filter fun l => !(r l).goes)
        ++ (((alignedLanes g z a).filter fun l => (r l).goes).filter barred) := by
    simp only [haltedLanes, misaligned, endedLanes, barredLanes, List.map_append, List.map_map, Function.comp_def, List.map_id']
  rw [hfst, List.nodup_append, List.nodup_append]
  refine ⟨⟨hact.filter _, (hact.filter _).filter _, ?_⟩, ((hact.filter _).filter _).filter _, ?_⟩
  · intro l hl m hm hlm
    simp only [alignedLanes, List.mem_filter, bne_iff_ne, beq_iff_eq] at hl hm
    exact hl.2 (hlm ▸ hm.1.2)
  · intro l hl m hm hlm
    subst hlm
    simp only [alignedLanes, List.mem_append, List.mem_filter, bne_iff_ne, beq_iff_eq, Bool.not_eq_true'] at hl hm
    rcases hl with ⟨-, hal⟩ | ⟨-, hgo⟩
    · exact hal hm.1.1.2
    · exact absurd (hgo.symm.trans hm.1.2) Bool.false_ne_true

/-- The lanes that stop take their events (R306, R33, R122, R13). -/
theorem raisedSome_halted : RaisedSome g (raiseEach g (haltedLanes g kind z a r p barred))
    (fun l => active g l ∧ laneStop g kind z a r p barred l ≠ none) (laneEventOf g kind z a r p barred) := by
  refine raisedSome_raiseEach g _ (nodup_haltedLanes g kind z a r p barred) (fun l => ?_) fun x hx => ?_
  · rw [← and_assoc, ← mem_actives, Ne, laneStop_eq_none, List.mem_map]
    constructor
    · rintro ⟨x, hx, rfl⟩
      obtain ⟨hm, he⟩ := (mem_haltedLanes ..).1 hx
      refine ⟨hm, fun ⟨hal, hgo, hb⟩ => ?_⟩
      rw [if_neg (not_not.2 hal), if_neg (by simp [hgo]), hb] at he
      exact absurd he.1 Bool.false_ne_true
    · rintro ⟨hm, hstop⟩
      by_cases hal : a l % z = 0
      · by_cases hgo : (r l).goes = false
        · exact ⟨(l, endRaise g kind (a l) (r l)), (mem_haltedLanes ..).2 ⟨hm, by rw [if_neg (not_not.2 hal), if_pos hgo]⟩, rfl⟩
        · have hb : barred l = true := Bool.eq_true_of_not_eq_false fun hb => hstop ⟨hal, Bool.eq_true_of_not_eq_false hgo, hb⟩
          exact ⟨(l, scopeFault kind (a l) (p l)), (mem_haltedLanes ..).2 ⟨hm, by rw [if_neg (not_not.2 hal), if_neg hgo]; exact ⟨hb, rfl⟩⟩, rfl⟩
      · exact ⟨(l, alignTrap kind 0 (a l)), (mem_haltedLanes ..).2 ⟨hm, by rw [if_pos hal]⟩, rfl⟩
  · obtain ⟨-, he⟩ := (mem_haltedLanes ..).1 hx
    unfold laneEventOf laneStop
    split at he
    · next hal => rw [if_pos hal, he, Option.getD_some, trapEvent_eq]; rfl
    · next hal =>
      rw [if_neg hal]
      split at he
      · next hgo => rw [if_pos hgo, he, Option.getD_some, laneEnd_event]
      · next hgo => rw [if_neg hgo, if_pos he.1, he.2, Option.getD_some, faultEvent_eq]; rfl

/-- The active lanes that do not stop. -/
theorem liveLanes_eq : ((actives g).filter fun l => decide (laneStop g kind z a r p barred l = none)) =
    ((alignedLanes g z a).filter fun l => (r l).goes).filter fun l => !barred l := by
  rw [alignedLanes, List.filter_filter, List.filter_filter]
  refine List.filter_congr fun l _ => ?_
  rw [Bool.eq_iff_iff, decide_eq_true_eq, laneStop_eq_none]
  simp only [Bool.and_eq_true, Bool.not_eq_true', beq_iff_eq]
  exact ⟨fun ⟨hal, hgo, hb⟩ => ⟨⟨hb, hgo⟩, hal⟩, fun ⟨⟨hb, hgo⟩, hal⟩ => ⟨hal, hgo, hb⟩⟩

end

end Sys2Proof.Laws
end

section
/-! Ward waits, hasp waits and hasp arrivals (O26). -/

namespace Sys2Proof.Laws

open Sys2Proof Sys2Proof.Machine Sys2Proof.Claim

/-! ## What a wait of lanes leaves (R200, R316, R327) -/

/-- The state after a wait of lanes: their group, the wards of those that are held, and an empty L1 where a lane acts as an acquire. -/
def waitEnd (s0 : State) (c k : Nat) (G : Group) (lines : List Nat) (acquires : Bool) : State :=
  if acquires = true then ((s0.setGroup c k G).placeLaneWards c k lines).withCore c Core.l1Clear
  else (s0.setGroup c k G).placeLaneWards c k lines

theorem waitEnd_spec {s s0 : State} (h0 : Untouched s s0) (hslices : s0.slices = s.slices) (hroom : WardRoom s) (c k : Nat) (G : Group)
    {lines : List Nat} (hlen : lines.length ≤ 32) (acquires : Bool) :
    let t := waitEnd s0 c k G lines acquires
    Local s t c k ∧ t.group? c k = some G ∧ (∀ line ∈ lines, Warded t c k line) ∧ (acquires = true → (t.core c).l1 = []) := by
  obtain ⟨hu, hw⟩ := placeLaneWards_spec (wardRoom_congr (t := s0.setGroup c k G) hslices hroom) c k hlen
  have hlocal := Local.after (Local.trans (h0.isLocal c k) (Local.setGroup s0 c k G)) hu
  have hgroup := (hu.group? c k).trans (group?_setGroup_self s0 c k G)
  cases acquires with
  | false => exact ⟨hlocal, hgroup, hw, fun h => absurd h Bool.false_ne_true⟩
  | true =>
    have hclear : Untouched ((s0.setGroup c k G).placeLaneWards c k lines)
        (((s0.setGroup c k G).placeLaneWards c k lines).withCore c Core.l1Clear) := .withCore _ c rfl rfl
    refine ⟨Local.after hlocal hclear, (hclear.group? c k).trans hgroup, hw, fun _ => ?_⟩
    exact congrArg Core.l1 (core_withCore_self ..)

/-! ## `wardw` (R316) -/

/-- The word at the home of a piece, as a core reads it past its L1. -/
def homeWord (s : State) (c : Nat) (p : Piece) : Word :=
  BitVec.ofNat 32 (littleEndian (fun i => nearByte s c p.page.tier (p.addr + i) false) 0 4)

theorem homeWord_eq (s : State) (c : Nat) (p : Piece) :
    BitVec.ofNat 32 (ofBytes ((List.range 4).map fun i => s.loadByte c p.page.tier (p.addr + i) false)) = homeWord s c p := by
  simp only [homeWord, littleEndian, loadByte_eq, Nat.zero_add]

section
variable {tick : Nat} {res : Nat → Option (List (Nat × Word))} {line : Nat → Nat} {L : List Nat} (G : Group)

theorem foldl_waitStep_some {d : Nat} {w : Nat → Word} (h : ∀ l ∈ L, res l = some [(d, w l)]) :
    L.foldl (waitStep tick res line) G = L.foldl (fun a l => a.vwrite tick d l (w l)) G :=
  List.foldl_ext _ _ G fun a l hl => by rw [waitStep, h l hl]; rfl

theorem foldl_waitStep_none (h : ∀ l ∈ L, res l = none) :
    L.foldl (waitStep tick res line) G = L.foldl (fun a l => a.holdOn l (line l)) G :=
  List.foldl_ext _ _ G fun a l hl => by rw [waitStep, h l hl]

end

section
variable {s : State} {c k : Nat} {g : Group} (hrun : Runs s c k g) (o : LaneWait)
include hrun

theorem execWardw_of_illegal (hbad : ¬ (g.addrOk o.addr = true ∧ g.inBudget o.data.toNat 1 = true)) :
    exec (.wardw o) s = .next (s.setGroup c k g.illegal) := by
  refine (asGroup_runs hrun _).trans (congrArg _ (if_pos ?_))
  revert hbad
  cases g.addrOk o.addr <;> cases g.inBudget o.data.toNat 1 <;> simp

variable (hok : g.addrOk o.addr = true ∧ g.inBudget o.data.toNat 1 = true)
include hok

theorem execWardw_of_misses {m : Nat} {ms : List Nat}
    (h : missesOf (s.translateLanes c g .load 4
      ((alignedLanes g 4 fun l => g.laneAddr s.tick true o.addr l).map fun l => (l, g.laneAddr s.tick true o.addr l))) = m :: ms) :
    exec (.wardw o) s = .next (s.sendMisses c k (s.vdOf g) (m :: ms)) := by
  refine (asGroup_runs hrun _).trans (congrArg _ ?_)
  simp only [alignedLanes] at h
  simp only [hok.1, hok.2, Bool.not_true, Bool.or_self, Bool.false_eq_true, if_false, laneAddrs_eq, alignLanes_eq, h]

variable {r : Nat → LaneEnd} {p : Nat → Piece}
  (h : Ends s c g .load false 4 (fun l => g.laneAddr s.tick true o.addr l) (fun l => g.laneAddr s.tick true o.addr l % 4 = 0) r)
  (hp : ∀ l, l < 32 → active g l → g.laneAddr s.tick true o.addr l % 4 = 0 → (r l).goes = true → (r l).pieces = [p l])
include h hp

/-- `wardw` once every lane's access has its end. -/
theorem execWardw_of_ends :
    exec (.wardw o) s = .next (
      let a := fun l => g.laneAddr s.tick true o.addr l
      let barred := fun l => decide ((p l).page.tier = .host)
      let live := (actives g).filter fun l => decide (laneStop g .load 4 a r p barred l = none)
      let passes := fun l => homeWord s c (p l) != g.vread s.tick o.data.toNat l
      (s.heldIn c (live.map p) (live.map p)).elim
        (waitEnd ((s.usePages c (s.vdOf g) (laneSpans 4 ((alignedLanes g 4 a).map fun l => (l, a l)))).chargePieces (s.vdOf g) (live.map p)) c k
          ((live.filter passes ++ live.filter fun l => !passes l).foldl
            (waitStep s.tick (fun l => if passes l then some [(o.data.toNat, homeWord s c (p l))] else none) fun l => (p l).addr / 128)
            (raiseEach g (haltedLanes g .load 4 a r p barred)))
          ((live.filter fun l => !passes l).map fun l => (p l).addr / 128) !(live.filter passes).isEmpty)
        fun line => s.setGroup c k (g.waitOn (.line line))) := by
  refine (asGroup_runs hrun _).trans (congrArg _ ?_)
  have hmem : ∀ l ∈ alignedLanes g 4 fun l => g.laneAddr s.tick true o.addr l, l < 32 ∧ active g l ∧ g.laneAddr s.tick true o.addr l % 4 = 0 :=
    fun l hl => by
      obtain ⟨hm, hal⟩ := List.mem_filter.1 hl
      exact ⟨((mem_actives g l).1 hm).1, ((mem_actives g l).1 hm).2, beq_iff_eq.1 hal⟩
  have hinfo : ∀ e, (raiseEach g (misaligned .load 4 (fun l => g.laneAddr s.tick true o.addr l) (actives g))).latchInfo e = g.latchInfo e := fun e => by
    rw [raiseEach_eq]
    · rfl
    · intro x hx
      obtain ⟨l, hl, rfl⟩ := List.mem_map.1 hx
      exact ((mem_actives g l).1 (List.mem_filter.1 hl).1).1
  have hpieces : ∀ l ∈ (alignedLanes g 4 fun l => g.laneAddr s.tick true o.addr l).filter fun l => (r l).goes, (r l).pieces = [p l] := fun l hl => by
    obtain ⟨hm, hgo⟩ := List.mem_filter.1 hl
    obtain ⟨h32, ha, hal⟩ := hmem l hm
    exact hp l h32 ha hal hgo
  have hmiss := missesOf_of_ends h _ hmem
  have hsort := sortLanes_of_ends h _ hmem _ hinfo
  have hward := wardLanes_eq (fun l => g.laneAddr s.tick true o.addr l) p _ hpieces
  have hlive := liveLanes_eq g .load 4 (fun l => g.laneAddr s.tick true o.addr l) r p fun l => decide ((p l).page.tier = .host)
  simp only [alignedLanes] at hmiss hsort hward hlive
  simp only [hok.1, hok.2, Bool.not_true, Bool.or_self, Bool.false_eq_true, if_false, laneAddrs_eq, alignLanes_eq, hmiss, hsort, hward, hlive,
    List.map_map, Function.comp_def, homeWord_eq, haltedLanes, raiseEach_append, alignedLanes]
  generalize hL : (((actives g).filter fun l => g.laneAddr s.tick true o.addr l % 4 == 0).filter fun l => (r l).goes).filter
    (fun l => !decide ((p l).page.tier = .host)) = L
  change (match s.heldIn c (L.map p) (L.map p) with | some line => _ | none => _) = _
  cases s.heldIn c (L.map p) (L.map p) with
  | some line => rfl
  | none =>
    simp only [Option.elim_none, List.foldl_append, List.filter_map, List.map_map, List.foldl_map, Function.comp_def, List.isEmpty_map]
    rw [foldl_waitStep_some (w := fun l => homeWord s c (p l)) _ fun l hl => if_pos (List.mem_filter.1 hl).2,
      foldl_waitStep_none _ fun l hl => if_neg (by simpa using (List.mem_filter.1 hl).2)]
    unfold waitEnd
    cases (L.filter fun l => homeWord s c (p l) != g.vread s.tick o.data.toNat l).isEmpty <;> rfl

end

/-- The lanes that pass and those that do not, each once. -/
theorem nodup_filter_append (q : Nat → Bool) {L : List Nat} (h : L.Nodup) : (L.filter q ++ L.filter fun l => !q l).Nodup := by
  refine List.nodup_append.2 ⟨h.filter _, h.filter _, fun l hl m hm hlm => ?_⟩
  have hq := (List.mem_filter.1 hl).2
  have hnq := (List.mem_filter.1 hm).2
  rw [← hlm, hq] at hnq
  exact absurd hnq (by decide)

theorem mem_filter_append (q : Nat → Bool) (L : List Nat) (l : Nat) : l ∈ (L.filter q ++ L.filter fun l => !q l) ↔ l ∈ L := by
  rw [List.mem_append, List.mem_filter, List.mem_filter]
  cases q l <;> simp

/-- The lanes that do not stop are those that are still active once the others have left. -/
theorem mem_live_iff {g g1 : Group} {stop : Nat → Option LaneEvent} {e : Nat → LaneEvent}
    (h : RaisedSome g g1 (fun l => active g l ∧ stop l ≠ none) e) (l : Nat) :
    l ∈ ((actives g).filter fun l => decide (stop l = none)) ↔ l < 32 ∧ active g1 l := by
  rw [List.mem_filter, mem_actives, decide_eq_true_eq, and_assoc]
  refine and_congr_right fun hl => ?_
  rw [h.left l hl]
  exact ⟨fun ⟨ha, hs⟩ => ⟨ha, fun hno => hno.2 hs⟩, fun ⟨ha, hno⟩ => ⟨ha, not_not.1 fun hs => hno ⟨ha, hs⟩⟩⟩

theorem length_filter_actives_le (g : Group) (q : Nat → Bool) : ((actives g).filter q).length ≤ 32 :=
  (List.length_filter_le ..).trans (length_actives_le g)

theorem nodup_actives (g : Group) : (actives g).Nodup := (actives_sorted g).imp fun h => Nat.ne_of_lt h

theorem execWardw_law : ∀ s c k g o, Runs s c k g →
    let d := o.data.toNat
    let a (l : Nat) : Nat := g.laneAddr s.tick true o.addr l
    let aligned (l : Nat) : Prop := a l % 4 = 0
    if g.addrOk o.addr = true ∧ g.inBudget d 1 = true then
      MissesWait s c k g (.wardw o) .load 4 a aligned
      ∧ ∀ (r : Nat → LaneEnd) (p : Nat → Piece), Ends s c g .load false 4 a aligned r →
        (∀ l, l < 32 → active g l → aligned l → (r l).goes = true → (r l).pieces = [p l]) →
        let barred (l : Nat) : Bool := decide ((p l).page.tier = .host)
        let stop (l : Nat) : Option LaneEvent := laneStop g .load 4 a r p barred l
        let live := (actives g).filter fun l => decide (stop l = none)
        let passes (l : Nat) : Bool := homeWord s c (p l) != g.vread s.tick d l
        (∀ line, s.heldIn c (live.map p) (live.map p) = some line → Waits s c k g (.wardw o) (.line line))
        ∧ (s.heldIn c (live.map p) (live.map p) = none → WardRoom s →
            Completes s (.wardw o) fun t => Local s t c k
              ∧ (∃ g1 g', RaisedSome g g1 (fun l => active g l ∧ stop l ≠ none) (laneEventOf g .load 4 a r p barred)
                  ∧ t.group? c k = some g'
                  ∧ Waited g1 g' (fun l => if passes l then some [(d, homeWord s c (p l))] else none) fun l => (p l).addr / 128)
              ∧ (∀ l ∈ live, passes l = false → Warded t c k ((p l).addr / 128))
              ∧ ((∃ l ∈ live, passes l = true) → (t.core c).l1 = []))
    else exec (.wardw o) s = .next (s.setGroup c k g.illegal) := by
  intro s c k g o hrun d a aligned
  by_cases hok : g.addrOk o.addr = true ∧ g.inBudget d 1 = true
  · rw [if_pos hok]
    have hmiss : MissesWait s c k g (.wardw o) .load 4 a aligned := by
      refine missesWait_of (L := alignedLanes g 4 a) hrun.2 (by decide) (fun l => ?_) (length_filter_actives_le g _) fun m ms h =>
        execWardw_of_misses hrun o hok h
      rw [alignedLanes, List.mem_filter, mem_actives, and_assoc, beq_iff_eq]
    refine ⟨hmiss, fun r p hr hp => ?_⟩
    intro barred stop live passes
    have hend {w : Option Nat} (hw : s.heldIn c (live.map p) (live.map p) = w) :=
      (execWardw_of_ends hrun o hok hr hp).trans (congrArg (fun w => Host.Outcome.next (Option.elim w _ _)) hw)
    refine ⟨fun line hline => hend hline, fun hheld hroom => ?_⟩
    obtain ⟨hlocal, hgroup, hward, hl1⟩ := waitEnd_spec
      ((untouched_usePages s c (s.vdOf g) (laneSpans 4 ((alignedLanes g 4 a).map fun l => (l, a l)))).trans
        (untouched_chargePieces _ (s.vdOf g) (live.map p)))
      (slices_chargePieces ..) hroom c k
      ((live.filter passes ++ live.filter fun l => !passes l).foldl
        (waitStep s.tick (fun l => if passes l then some [(d, homeWord s c (p l))] else none) fun l => (p l).addr / 128)
        (raiseEach g (haltedLanes g .load 4 a r p barred)))
      (lines := (live.filter fun l => !passes l).map fun l => (p l).addr / 128)
      (by rw [List.length_map]; exact (List.length_filter_le ..).trans (length_filter_actives_le g _)) (!(live.filter passes).isEmpty)
    have hraised := raisedSome_halted g .load 4 a r p barred
    have hmem (l : Nat) := (mem_filter_append passes live l).trans (mem_live_iff hraised l)
    have hwaited := WaitedOn.waited (waitedOn_foldl (tick := s.tick)
      (res := fun l => if passes l then some [(d, homeWord s c (p l))] else none) (line := fun l => (p l).addr / 128)
      (live.filter passes ++ live.filter fun l => !passes l) (fun l hl => ((hmem l).1 hl).1)
      (nodup_filter_append passes ((nodup_actives g).filter _)) (fun l _ => by cases passes l <;> simp)
      (raiseEach g (haltedLanes g .load 4 a r p barred))) hmem
    refine ⟨_, hend hheld, hlocal, ⟨_, _, hraised, hgroup, hwaited⟩, fun l hl hno => ?_, fun ⟨l, hl, hpass⟩ => ?_⟩
    · exact hward _ (List.mem_map_of_mem (f := fun l => (p l).addr / 128) (List.mem_filter.2 ⟨hl, by rw [hno]; rfl⟩))
    · refine hl1 ?_
      rw [Bool.not_eq_true', List.isEmpty_eq_false_iff]
      exact List.ne_nil_of_mem (List.mem_filter.2 ⟨hl, hpass⟩)
  · rw [if_neg hok]
    exact execWardw_of_illegal hrun o hok

/-! ## Hasp records (R171, R172) -/

theorem owned_iff (h : HaspRec) (vd part : Nat) :
    h.owned vd part = true ↔ h.owner / 2 ^ 31 % 2 = 1 ∧ h.owner / 2 ^ 24 % 2 ^ 7 = vd ∧ h.owner / 2 ^ 16 % 2 ^ 8 = part := by
  simp only [HaspRec.owned, Bool.and_eq_true, beq_iff_eq, and_assoc]
  rfl

section
variable {h : HaspRec} {n vd part : Nat}

theorem arrive_of_foreign (ho : h.owned vd part = false) : h.arrive n vd part = (3, h.phase, h) := by
  unfold HaspRec.arrive
  rw [ho]
  rfl

theorem arrive_of_closed (ho : h.owned vd part = true) (he : h.expected = 0) : h.arrive n vd part = (2, h.phase, h) := by
  unfold HaspRec.arrive
  rw [ho, if_pos he]
  rfl

theorem arrive_of_fewer (ho : h.owned vd part = true) (he : h.expected ≠ 0) (hlt : h.arrived + n < h.expected) :
    h.arrive n vd part = (0, h.phase, { h with arrived := h.arrived + n }) := by
  unfold HaspRec.arrive
  rw [ho, if_neg he]
  exact if_pos hlt

theorem arrive_of_complete (ho : h.owned vd part = true) (he : h.expected ≠ 0) (hle : h.expected ≤ h.arrived + n) :
    h.arrive n vd part = ((if h.arrived + n = h.expected then 0 else 1), h.phase, { h with arrived := 0, phase := (h.phase + 1) % 2 ^ 32 }) := by
  unfold HaspRec.arrive
  rw [ho, if_neg he]
  exact if_neg (Nat.not_lt.2 hle)

end

/-! ## `hwait` (R327) -/

/-- What a lane of `hwait` is to be given: none where its phase still stands. -/
def haspResult (s : State) (vd part d : Nat) (phase : Nat) (x? : Option Nat) : Option (List (Nat × Word)) :=
  match x? with
  | none => some [(d, 4)]
  | some x =>
    if (s.hasp x).owned vd part = false then some [(d, 3), (d + 1, BitVec.ofNat 32 (s.hasp x).phase)]
    else if (s.hasp x).phase ≠ phase then some [(d, 0), (d + 1, BitVec.ofNat 32 (s.hasp x).phase)]
    else none

theorem haspResult_nodup (s : State) (vd part d phase : Nat) (x? : Option Nat) : (((haspResult s vd part d phase x?).getD []).map (·.1)).Nodup := by
  unfold haspResult
  split
  · simp
  · split
    · simp
    · split <;> simp

/-- A result that makes its lane act as an acquire: status 0. -/
def haspAcquires (d : Nat) (res : Option (List (Nat × Word))) : Bool :=
  match res with
  | some [w, _] => w == (d, 0)
  | _ => false

theorem haspAcquires_iff (d : Nat) (res : Option (List (Nat × Word))) : haspAcquires d res = true ↔ ∃ v, res = some [(d, 0), v] := by
  unfold haspAcquires
  split
  · next w v =>
    rw [beq_iff_eq]
    simp
  · next hne =>
    simp only [Bool.false_eq_true, false_iff, not_exists]
    exact fun v hv => hne (d, 0) v hv

/-- The end of a lane's wait, as the model has it: the status, and the phase where there is a record. -/
def haspEnd (s : State) (vd part phase : Nat) (x? : Option Nat) : Option (Nat × Option Nat) :=
  match x? with
  | none => some (4, none)
  | some x => (s.haspWait x vd part phase).map fun r => (r.1, some r.2)

/-- A lane's result is the end of its wait, in registers d and d + 1. -/
theorem haspResult_eq (s : State) (vd part d phase : Nat) (x? : Option Nat) :
    haspResult s vd part d phase x? = (haspEnd s vd part phase x?).map fun e =>
      (d, BitVec.ofNat 32 e.1) :: (e.2.map fun ph => (d + 1, BitVec.ofNat 32 ph)).toList := by
  cases x? with
  | none => rfl
  | some x =>
    cases ho : (s.hasp x).owned vd part with
    | false => simp [haspResult, haspEnd, State.haspWait, ho]
    | true =>
      by_cases hp : (s.hasp x).phase = phase
      · simp [haspResult, haspEnd, State.haspWait, ho, hp]
      · simp [haspResult, haspEnd, State.haspWait, ho, hp]

theorem haspAcquires_result (s : State) (vd part d phase : Nat) (x? : Option Nat) :
    haspAcquires d (haspResult s vd part d phase x?) = ((haspEnd s vd part phase x?).map (·.1) == some 0) := by
  cases x? with
  | none => rfl
  | some x =>
    cases ho : (s.hasp x).owned vd part with
    | false => simp [haspResult, haspEnd, State.haspWait, ho, haspAcquires]
    | true =>
      by_cases hp : (s.hasp x).phase = phase
      · simp [haspResult, haspEnd, State.haspWait, ho, hp, haspAcquires]
      · simp [haspResult, haspEnd, State.haspWait, ho, hp, haspAcquires]

/-- The lines on whose wards lanes are held. -/
theorem map_heldLines (s : State) (vd part d : Nat) (phase : Nat → Nat) (x? : Nat → Option Nat) (L : List Nat) :
    ((L.filter fun l => (haspResult s vd part d (phase l) (x? l)).isNone).map fun l => ((x? l).getD 0) / 128) =
      L.filterMap fun l => if (haspEnd s vd part (phase l) (x? l)).isNone then (x? l).map lineOf else none := by
  rw [← List.filterMap_eq_map, List.filterMap_filter]
  refine List.filterMap_congr fun l _ => ?_
  rw [haspResult_eq, Option.isNone_map, Function.comp_apply]
  cases x? l <;> rfl

/-- What the lanes do, as the model has it. -/
theorem foldl_haspStep (s : State) (vd part d tick : Nat) (phase : Nat → Nat) (x? : Nat → Option Nat) (L : List Nat) (G : Group) :
    L.foldl (waitStep tick (fun l => haspResult s vd part d (phase l) (x? l)) fun l => ((x? l).getD 0) / 128) G =
      L.foldl (fun a l => match haspEnd s vd part (phase l) (x? l) with
        | some (st, p) =>
          let b := a.vwrite tick d l (BitVec.ofNat 32 st)
          match p with
          | some ph => b.vwrite tick (d + 1) l (BitVec.ofNat 32 ph)
          | none => b
        | none => a.holdOn l (lineOf ((x? l).getD 0))) G := by
  refine List.foldl_ext _ _ G fun a l _ => ?_
  rw [waitStep, haspResult_eq]
  cases haspEnd s vd part (phase l) (x? l) with
  | none => rfl
  | some e =>
    obtain ⟨st, p⟩ := e
    cases p <;> rfl

section
variable {s : State} {c k : Nat} {g : Group} (hrun : Runs s c k g) (o : LaneWait)
include hrun

theorem execHwait_of_illegal (hbad : ¬ (g.addrOk o.addr = true ∧ g.inBudget o.data.toNat 2 = true)) :
    exec (.hwait o) s = .next (s.setGroup c k g.illegal) := by
  refine (asGroup_runs hrun _).trans (congrArg _ (if_pos ?_))
  revert hbad
  cases g.addrOk o.addr <;> cases g.inBudget o.data.toNat 2 <;> simp

variable (hok : g.addrOk o.addr = true ∧ g.inBudget o.data.toNat 2 = true)
include hok

theorem execHwait_of_misses {m : Nat} {ms : List Nat}
    (h : missesOf (s.translateLanes c g .atomic 16 ((actives g).map fun l => (l, g.laneAddr s.tick true o.addr l))) = m :: ms) :
    exec (.hwait o) s = .next (s.sendMisses c k (s.vdOf g) (m :: ms)) := by
  refine (asGroup_runs hrun _).trans (congrArg _ ?_)
  simp only [hok.1, hok.2, Bool.not_true, Bool.or_self, Bool.false_eq_true, if_false, laneAddrs_eq, h]

variable {r : Nat → LaneEnd} (h : Ends s c g .atomic false 16 (fun l => g.laneAddr s.tick true o.addr l) all r)
include h

/-- `hwait` once every lane's access has its end. -/
theorem execHwait_of_ends :
    exec (.hwait o) s = .next (
      let a := fun l => g.laneAddr s.tick true o.addr l
      let ps := (going g r).flatMap fun l => (r l).pieces
      let rec? := fun l => s.haspAddr (s.vdOf g) (a l) (r l).pieces
      let res := fun l => haspResult s (s.vdOf g) (s.partOf g) o.data.toNat (g.vread s.tick (o.data.toNat + 1) l).toNat (rec? l)
      (s.heldIn c ps ps).elim
        (waitEnd ((s.usePages c (s.vdOf g) (laneSpans 16 ((actives g).map fun l => (l, a l)))).chargePieces (s.vdOf g) ps) c k
          ((going g r).foldl (waitStep s.tick res fun l => ((rec? l).getD 0) / 128) (endedGroup g .atomic a r))
          (((going g r).filter fun l => (res l).isNone).map fun l => ((rec? l).getD 0) / 128)
          ((going g r).any fun l => haspAcquires o.data.toNat (res l)))
        fun line => s.setGroup c k (g.waitOn (.line line))) := by
  refine (asGroup_runs hrun _).trans (congrArg _ ?_)
  simp only [hok.1, hok.2, Bool.not_true, Bool.or_self, Bool.false_eq_true, if_false, laneAddrs_eq, missesOf_active h, sortLanes_active h,
    List.flatMap_map, List.map_map, Function.comp_def, List.foldl_map, List.filterMap_map, List.any_map]
  cases s.heldIn c ((going g r).flatMap fun l => (r l).pieces) ((going g r).flatMap fun l => (r l).pieces) with
  | some line => rfl
  | none =>
    simp only [Option.elim_none, haspAcquires_result, map_heldLines, foldl_haspStep]
    rfl

end

theorem execHwait_law : ∀ s c k g o, Runs s c k g →
    let d := o.data.toNat
    let a (l : Nat) : Nat := g.laneAddr s.tick true o.addr l
    if g.addrOk o.addr = true ∧ g.inBudget d 2 = true then
      MissesWait s c k g (.hwait o) .atomic 16 a all
      ∧ ∀ r, Ends s c g .atomic false 16 a all r →
        let ps := (going g r).flatMap fun l => (r l).pieces
        let rec? (l : Nat) : Option Nat := s.haspAddr (s.vdOf g) (a l) (r l).pieces
        let res (l : Nat) : Option (List (Nat × Word)) :=
          haspResult s (s.vdOf g) (s.partOf g) d (g.vread s.tick (d + 1) l).toNat (rec? l)
        (∀ line, s.heldIn c ps ps = some line → Waits s c k g (.hwait o) (.line line))
        ∧ (s.heldIn c ps ps = none → WardRoom s →
            Completes s (.hwait o) fun t => Local s t c k
              ∧ (∃ g1 g', Stopped g g1 .atomic a r ∧ t.group? c k = some g' ∧ Waited g1 g' res fun l => ((rec? l).getD 0) / 128)
              ∧ (∀ l ∈ going g r, res l = none → Warded t c k (((rec? l).getD 0) / 128))
              ∧ ((∃ l ∈ going g r, ∃ v, res l = some [(d, 0), v]) → (t.core c).l1 = []))
    else exec (.hwait o) s = .next (s.setGroup c k g.illegal) := by
  intro s c k g o hrun d a
  by_cases hok : g.addrOk o.addr = true ∧ g.inBudget d 2 = true
  · rw [if_pos hok]
    have hmiss : MissesWait s c k g (.hwait o) .atomic 16 a all :=
      missesWait_of hrun.2 (by decide) (fun l => by simp [mem_actives, all]) (length_actives_le g) fun m ms h => execHwait_of_misses hrun o hok h
    refine ⟨hmiss, fun r hr => ?_⟩
    intro ps rec? res
    have hend {w : Option Nat} (hw : s.heldIn c ps ps = w) :=
      (execHwait_of_ends hrun o hok hr).trans (congrArg (fun w => Host.Outcome.next (Option.elim w _ _)) hw)
    refine ⟨fun line hline => hend hline, fun hheld hroom => ?_⟩
    have hstopped := stopped_endedGroup g .atomic a r
    have hmem (l : Nat) : l ∈ going g r ↔ l < 32 ∧ active (endedGroup g .atomic a r) l := by
      rw [mem_going]
      refine and_congr_right fun hl => ?_
      rw [hstopped.left l hl, not_and, Bool.not_eq_false]
      exact ⟨fun ⟨ha, hgo⟩ => ⟨ha, fun _ => hgo⟩, fun ⟨ha, hgo⟩ => ⟨ha, hgo ha⟩⟩
    obtain ⟨hlocal, hgroup, hward, hl1⟩ := waitEnd_spec
      ((untouched_usePages s c (s.vdOf g) (laneSpans 16 ((actives g).map fun l => (l, a l)))).trans (untouched_chargePieces _ (s.vdOf g) ps))
      (slices_chargePieces ..) hroom c k
      ((going g r).foldl (waitStep s.tick res fun l => ((rec? l).getD 0) / 128) (endedGroup g .atomic a r))
      (lines := ((going g r).filter fun l => (res l).isNone).map fun l => ((rec? l).getD 0) / 128)
      (by rw [List.length_map]; exact (List.length_filter_le ..).trans (length_filter_actives_le g _))
      ((going g r).any fun l => haspAcquires d (res l))
    have hwaited := WaitedOn.waited (waitedOn_foldl (tick := s.tick) (res := res) (line := fun l => ((rec? l).getD 0) / 128) (going g r)
      (fun l hl => ((hmem l).1 hl).1) ((nodup_actives g).filter _) (fun l _ => haspResult_nodup ..) (endedGroup g .atomic a r)) hmem
    refine ⟨_, hend hheld, hlocal, ⟨_, _, hstopped, hgroup, hwaited⟩, fun l hl hno => ?_, fun ⟨l, hl, v, hv⟩ => ?_⟩
    · exact hward _ (List.mem_map_of_mem (f := fun l => ((rec? l).getD 0) / 128) (List.mem_filter.2 ⟨hl, by rw [hno]; rfl⟩))
    · exact hl1 (List.any_eq_true.2 ⟨l, hl, (haspAcquires_iff ..).2 ⟨v, hv⟩⟩)
  · rw [if_neg hok]
    exact execHwait_of_illegal hrun o hok

/-! ## `harr` (R326) -/

/-- The arrivals of a list, gathered by record: each record has those of its lanes, in order, and every lane's record is there. -/
theorem haspRequests_spec (xs : List (Nat × HaspStep)) :
    (∀ y ∈ haspRequests xs, y.2 = (xs.filter fun x => x.1 == y.1).map (·.2)) ∧ ∀ x ∈ xs, ∃ y ∈ haspRequests xs, y.1 = x.1 := by
  induction xs using List.reverseRecOn with
  | nil => exact ⟨fun y hy => absurd hy List.not_mem_nil, fun x hx => absurd hx List.not_mem_nil⟩
  | append_singleton xs x ih =>
    obtain ⟨hsteps, hkeys⟩ := ih
    have hlast : haspRequests (xs ++ [x]) =
        if (haspRequests xs).any (fun y => y.1 == x.1) then
          (haspRequests xs).map fun y => if y.1 == x.1 then (y.1, y.2 ++ [x.2]) else y
        else haspRequests xs ++ [(x.1, [x.2])] := by
      rw [haspRequests, List.foldl_append]
      rfl
    have hfilter (y : Nat) : ((xs ++ [x]).filter fun z => z.1 == y).map (·.2) =
        ((xs.filter fun z => z.1 == y).map (·.2)) ++ if x.1 = y then [x.2] else [] := by
      rw [List.filter_append, List.map_append]
      by_cases h : x.1 = y <;> simp [h]
    rw [hlast]
    split
    · next hany =>
      obtain ⟨y0, hy0, hkey0⟩ := List.any_eq_true.1 hany
      refine ⟨fun y hy => ?_, fun z hz => ?_⟩
      · obtain ⟨w, hw, rfl⟩ := List.mem_map.1 hy
        by_cases hk : w.1 = x.1
        · rw [if_pos (beq_iff_eq.2 hk), hfilter, if_pos hk.symm, hsteps w hw]
        · rw [if_neg (by simpa using hk), hfilter, if_neg (fun h => hk h.symm), List.append_nil, hsteps w hw]
      · have hkept : ∀ w ∈ haspRequests xs, w.1 = z.1 → ∃ y ∈ (haspRequests xs).map (fun y => if y.1 == x.1 then (y.1, y.2 ++ [x.2]) else y),
            y.1 = z.1 := fun w hw hk => by
          refine ⟨_, List.mem_map_of_mem hw, ?_⟩
          split <;> exact hk
        rcases List.mem_append.1 hz with hz | hz
        · obtain ⟨w, hw, hk⟩ := hkeys z hz
          exact hkept w hw hk
        · rw [List.mem_singleton] at hz
          exact hkept y0 hy0 (hz ▸ beq_iff_eq.1 hkey0)
    · next hany =>
      have hnew : ∀ w ∈ haspRequests xs, w.1 ≠ x.1 := fun w hw hk => hany (List.any_eq_true.2 ⟨w, hw, beq_iff_eq.2 hk⟩)
      refine ⟨fun y hy => ?_, fun z hz => ?_⟩
      · rcases List.mem_append.1 hy with hy | hy
        · rw [hfilter, if_neg (fun h => hnew y hy h.symm), List.append_nil, hsteps y hy]
        · rw [List.mem_singleton] at hy
          subst hy
          have hnone : xs.filter (fun z => z.1 == x.1) = [] := List.filter_eq_nil_iff.2 fun z hz hk => by
            obtain ⟨w, hw, hwk⟩ := hkeys z hz
            exact hnew w hw (hwk.trans (beq_iff_eq.1 hk))
          rw [hfilter, if_pos rfl, hnone]
          rfl
      · rcases List.mem_append.1 hz with hz | hz
        · obtain ⟨w, hw, hk⟩ := hkeys z hz
          exact ⟨w, List.mem_append_left _ hw, hk⟩
        · rw [List.mem_singleton] at hz
          exact ⟨_, List.mem_append_right _ List.mem_cons_self, congrArg Prod.fst hz.symm⟩

/-- The arrivals of lanes at their records. -/
def haspSteps (rec? : Nat → Option Nat) (step : Nat → HaspStep) (L : List Nat) : List (Nat × HaspStep) :=
  L.filterMap fun l => (rec? l).map fun x => (x, step l)

theorem mem_haspSteps {rec? : Nat → Option Nat} {step : Nat → HaspStep} {L : List Nat} {l x : Nat} (hl : l ∈ L) (hx : rec? l = some x) :
    (x, step l) ∈ haspSteps rec? step L :=
  List.mem_filterMap.2 ⟨l, hl, by rw [hx]; rfl⟩

theorem filter_haspSteps (rec? : Nat → Option Nat) (step : Nat → HaspStep) (L : List Nat) (x : Nat) :
    ((haspSteps rec? step L).filter fun y => y.1 == x).map (·.2) = (L.filter fun l => rec? l == some x).map step := by
  induction L with
  | nil => rfl
  | cons l rest ih =>
    unfold haspSteps at ih ⊢
    cases hr : rec? l with
    | none => simp [hr, ih]
    | some y => by_cases h : y = x <;> simp [hr, h, ih]

/-- The arrival of a lane (R326). -/
def haspStep (s : State) (g : Group) (d l : Nat) : HaspStep := ⟨l, (g.vread s.tick d l).toNat % 2 ^ 16⟩

/-- The requests of `harr` to the homes of records. -/
def haspReqs (s : State) (c k : Nat) (g : Group) (d : Nat) (steps : List (Nat × HaspStep)) : List HomeReq :=
  (haspRequests steps).map fun x =>
    { line := x.1 / 128, core := c, slot := k, launch := g.launch, vd := s.vdOf g, kind := .hasp s.nextOp x.1 x.2 d }

/-- What the lanes without a record are to be given: status 4 and 0. -/
def haspMissing (op d : Nat) (L : List Nat) : List PendingReg := L.flatMap fun l => [⟨op, vkey d l, 4⟩, ⟨op, vkey (d + 1) l, 0⟩]

section
variable {s : State} {c k : Nat} {g : Group} (hrun : Runs s c k g) (o : LaneWait)
include hrun

theorem execHarr_of_illegal (hbad : ¬ (g.addrOk o.addr = true ∧ g.inBudget o.data.toNat 2 = true)) :
    exec (.harr o) s = .next (s.setGroup c k g.illegal) := by
  refine (asGroup_runs hrun _).trans (congrArg _ (if_pos ?_))
  revert hbad
  cases g.addrOk o.addr <;> cases g.inBudget o.data.toNat 2 <;> simp

variable (hok : g.addrOk o.addr = true ∧ g.inBudget o.data.toNat 2 = true)
include hok

theorem execHarr_of_waits {w : Wait} (hw : s.releaseHold c g true true = some w) :
    exec (.harr o) s = .next (s.setGroup c k (g.waitOn w)) := by
  refine (asGroup_runs hrun _).trans (congrArg _ ?_)
  simp only [hok.1, hok.2, Bool.not_true, Bool.or_self, Bool.false_eq_true, if_false, hw]

variable (hready : s.releaseHold c g true true = none)
include hready

theorem execHarr_of_misses {m : Nat} {ms : List Nat}
    (h : missesOf (s.translateLanes c g .atomic 16 ((actives g).map fun l => (l, g.laneAddr s.tick true o.addr l))) = m :: ms) :
    exec (.harr o) s = .next (s.sendMisses c k (s.vdOf g) (m :: ms)) := by
  refine (asGroup_runs hrun _).trans (congrArg _ ?_)
  simp only [hok.1, hok.2, Bool.not_true, Bool.or_self, Bool.false_eq_true, if_false, hready, laneAddrs_eq, h]

variable {r : Nat → LaneEnd} (h : Ends s c g .atomic true 16 (fun l => g.laneAddr s.tick true o.addr l) all r)
include h

/-- `harr` once every lane's access has its end. -/
theorem execHarr_of_ends :
    exec (.harr o) s = .next (
      let a := fun l => g.laneAddr s.tick true o.addr l
      let rec? := fun l => s.haspAddr (s.vdOf g) (a l) (r l).pieces
      let s0 := s.usePages c (s.vdOf g) (laneSpans 16 ((actives g).map fun l => (l, a l)))
      let g1 := endedGroup g .atomic a r
      if going g r = [] then s0.setGroup c k g1
      else
        let s1 := s0.newOp.setGroup c k
          ((g1.expect (haspMissing s.nextOp o.data.toNat ((going g r).filter fun l => (rec? l).isNone))).count .loads s.nextOp false)
        { s1 with requests := s.requests ++ haspReqs s c k g o.data.toNat (haspSteps rec? (haspStep s g o.data.toNat) (going g r)) }) := by
  refine (asGroup_runs hrun _).trans (congrArg _ ?_)
  simp only [hok.1, hok.2, Bool.not_true, Bool.or_self, Bool.false_eq_true, if_false, hready, laneAddrs_eq, missesOf_active h, sortLanes_active h,
    List.isEmpty_iff, List.map_eq_nil_iff, List.map_map, Function.comp_def, List.filter_map, List.flatMap_map, List.filterMap_map]
  rfl

end

theorem execHarr_law : ∀ s c k g o, Runs s c k g →
    let d := o.data.toNat
    let a (l : Nat) : Nat := g.laneAddr s.tick true o.addr l
    let ready : Prop := g.loads = [] ∧ g.stores = [] ∧ CoreQuiet s c True
    if g.addrOk o.addr = true ∧ g.inBudget d 2 = true then
      (¬ ready → WaitsAgain s c k g (.harr o))
      ∧ (ready → MissesWait s c k g (.harr o) .atomic 16 a all)
      ∧ (ready → ∀ r, Ends s c g .atomic true 16 a all r →
        let rec? (l : Nat) : Option Nat := s.haspAddr (s.vdOf g) (a l) (r l).pieces
        Completes s (.harr o) fun t => Local s t c k ∧ ∃ g' rs, t.group? c k = some g' ∧ t.requests = s.requests ++ rs
          ∧ Stopped g { g' with pend := g.pend, loads := g.loads } .atomic a r
          ∧ (going g r = [] → rs = [] ∧ g'.pend = g.pend ∧ g'.loads = g.loads)
          ∧ (going g r ≠ [] → g'.loads = counted g.loads s.nextOp false
            ∧ g'.pend = g.pend ++ ((going g r).filter fun l => (rec? l).isNone).flatMap (fun l =>
                [⟨s.nextOp, vkey d l, 4⟩, ⟨s.nextOp, vkey (d + 1) l, 0⟩])
            ∧ (∀ q ∈ rs, ∃ x steps, q = { line := x / 128, core := c, slot := k, launch := g.launch, vd := s.vdOf g,
                                          kind := .hasp s.nextOp x steps d }
                ∧ steps = ((going g r).filter fun l => rec? l == some x).map fun l => ⟨l, (g.vread s.tick d l).toNat % 2 ^ 16⟩)
            ∧ ∀ l ∈ going g r, ∀ x, rec? l = some x → ∃ q ∈ rs, ∃ steps, q.kind = .hasp s.nextOp x steps d))
    else exec (.harr o) s = .next (s.setGroup c k g.illegal) := by
  intro s c k g o hrun d a ready
  by_cases hok : g.addrOk o.addr = true ∧ g.inBudget d 2 = true
  · rw [if_pos hok]
    have hiff : s.releaseHold c g true true = none ↔ ready := by
      rw [releaseHold_eq_none]
      simp only [ready, and_self, forall_const]
    have hwaits (hno : ¬ ready) : WaitsAgain s c k g (.harr o) := by
      obtain ⟨w, hw⟩ := Option.ne_none_iff_exists'.1 (mt hiff.1 hno)
      exact waitsAgain_waitOn (execHarr_of_waits hrun o hok hw)
    have hmiss (hready : ready) : MissesWait s c k g (.harr o) .atomic 16 a all :=
      missesWait_of hrun.2 (by decide) (fun l => by simp [mem_actives, all]) (length_actives_le g) fun m ms h =>
        execHarr_of_misses hrun o hok (hiff.2 hready) h
    refine ⟨hwaits, hmiss, fun hready r hr => ?_⟩
    intro rec?
    have hend := execHarr_of_ends hrun o hok (hiff.2 hready) hr
    have hpages := untouched_usePages s c (s.vdOf g) (laneSpans 16 ((actives g).map fun l => (l, a l)))
    have hstopped := stopped_endedGroup g .atomic a r
    have hframe := raised_frame_eq hstopped
    have hpend : (endedGroup g .atomic a r).pend = g.pend := by rw [hframe]
    have hloads : (endedGroup g .atomic a r).loads = g.loads := by rw [hframe]
    by_cases hgo : going g r = []
    · refine ⟨_, hend.trans (congrArg _ (if_pos hgo)), Local.trans (hpages.isLocal c k) (Local.setGroup ..), _, [], group?_setGroup_self ..,
        (List.append_nil _).symm, ?_, fun _ => ⟨rfl, hpend, hloads⟩, fun hne => absurd hgo hne⟩
      rw [← hpend, ← hloads]
      exact hstopped
    · obtain ⟨hp, hl, hraised⟩ := raised_load hstopped (haspMissing s.nextOp d ((going g r).filter fun l => (rec? l).isNone)) s.nextOp
      refine ⟨_, hend.trans (congrArg _ (if_neg hgo)), Local.after (Local.trans ((hpages.trans (untouched_newOp _)).isLocal c k) (Local.setGroup ..))
        (.of_eq rfl rfl rfl rfl), _, haspReqs s c k g d (haspSteps rec? (haspStep s g d) (going g r)), ?_, rfl, hraised,
        fun hnil => absurd hnil hgo, fun _ => ⟨hl, hp, fun q hq => ?_, fun l hlane x hx => ?_⟩⟩
      · exact group?_setGroup_self (s.usePages c (s.vdOf g) (laneSpans 16 ((actives g).map fun l => (l, a l)))).newOp c k _
      · obtain ⟨y, hy, rfl⟩ := List.mem_map.1 hq
        exact ⟨y.1, y.2, rfl, ((haspRequests_spec _).1 y hy).trans (filter_haspSteps ..)⟩
      · obtain ⟨y, hy, hyx⟩ := (haspRequests_spec _).2 _ (mem_haspSteps (step := haspStep s g d) hlane hx)
        exact ⟨_, List.mem_map_of_mem hy, y.2, by rw [hyx]⟩
  · rw [if_neg hok]
    exact execHarr_of_illegal hrun o hok

/-- Settles O26: the lanes of `wardw`, arrivals at a record, then the lanes of `hwait` and `harr`. -/
theorem waitsOnRecords : Obligations.WaitsOnRecords := by
  refine ⟨execWardw_law, fun h n vd part => ⟨owned_iff h vd part, arrive_of_foreign, arrive_of_closed, arrive_of_fewer, arrive_of_complete⟩, ?_,
    execHarr_law⟩
  exact execHwait_law

end Sys2Proof.Laws
end

section
/-! What translations and charges leave unchanged, the issue of engine operations with their latch entries, and operations that leave a device (R118 to R128, R412, R415). -/

namespace Sys2Proof.Laws

open Sys2Proof Sys2Proof.Machine Sys2Proof.Claim

/-! ## Translations used and bytes charged (R24, R412) -/

/-- Only the order of TLB entries, and the bytes that devices may still move in their period, are changed. -/
structure Touched (s t : State) : Prop where
  eq : t = { s with cores := t.cores, devices := t.devices }
  core : ∀ c, ∃ t1 t2, t.core c = { s.core c with tlb1 := t1, tlb2 := t2 }
  device : ∀ v, ∃ b, t.device v = { s.device v with bytes := b }

namespace Touched

theorem refl (s : State) : Touched s s := ⟨rfl, fun _ => ⟨_, _, rfl⟩, fun _ => ⟨_, rfl⟩⟩

theorem trans {s t u : State} (h1 : Touched s t) (h2 : Touched t u) : Touched s u := by
  refine ⟨?_, fun c => ?_, fun v => ?_⟩
  · rw [h2.eq, h1.eq]
  · obtain ⟨a1, a2, ha⟩ := h1.core c
    obtain ⟨b1, b2, hb⟩ := h2.core c
    exact ⟨b1, b2, by rw [hb, ha]⟩
  · obtain ⟨a, ha⟩ := h1.device v
    obtain ⟨b, hb⟩ := h2.device v
    exact ⟨b, by rw [hb, ha]⟩

theorem foldl {α : Type} {f : State → α → State} (h : ∀ s x, Touched s (f s x)) (xs : List α) (s : State) : Touched s (xs.foldl f s) := by
  induction xs generalizing s with
  | nil => exact refl s
  | cons x rest ih => exact (h s x).trans (ih (f s x))

end Touched

theorem touched_charge (s : State) (vd n : Nat) : Touched s (s.charge vd n) := by
  unfold State.charge
  split
  · refine ⟨rfl, fun c => ⟨_, _, rfl⟩, fun v => ?_⟩
    by_cases h : v = vd
    · subst h
      exact ⟨_, Tab.get_put_self ..⟩
    · exact ⟨_, Tab.get_put_ne _ _ _ _ _ h⟩
  · exact .refl s

theorem touched_chargeLine (s : State) (vd line : Nat) : Touched s (s.chargeLine vd line) := by
  unfold State.chargeLine
  split
  · exact touched_charge ..
  · exact .refl s

theorem touched_chargePieces (s : State) (vd : Nat) (ps : List Piece) : Touched s (s.chargePieces vd ps) :=
  .foldl (fun s line => touched_chargeLine s vd line) _ s

theorem touched_chargeRead (s : State) (vd a n : Nat) : Touched s (s.chargeRead vd a n) :=
  .foldl (fun s line => touched_chargeLine s vd line) _ s

/-- A use of a translation orders the TLBs of a core anew. -/
theorem tlbUse_eq (x : Core) (vd va : Nat) : ∃ t1 t2, x.tlbUse vd va = { x with tlb1 := t1, tlb2 := t2 } := by
  unfold Core.tlbUse
  split
  · exact ⟨_, _, rfl⟩
  · split
    · exact ⟨_, _, rfl⟩
    · exact ⟨_, _, rfl⟩

theorem tlbUses_eq (vd : Nat) (ps : List Nat) (x : Core) :
    ∃ t1 t2, ps.foldl (fun a p => a.tlbUse vd (p * 4096)) x = { x with tlb1 := t1, tlb2 := t2 } := by
  induction ps generalizing x with
  | nil => exact ⟨_, _, rfl⟩
  | cons p rest ih =>
    obtain ⟨a1, a2, ha⟩ := tlbUse_eq x vd (p * 4096)
    obtain ⟨b1, b2, hb⟩ := ih (x.tlbUse vd (p * 4096))
    exact ⟨b1, b2, by rw [List.foldl_cons, hb, ha]⟩

theorem touched_usePages (s : State) (c vd : Nat) (spans : List (Nat × Nat)) : Touched s (s.usePages c vd spans) := by
  refine ⟨rfl, fun c' => ?_, fun v => ⟨_, rfl⟩⟩
  unfold State.usePages
  dsimp only
  by_cases h : c' = c
  · subst h
    rw [core_withCore_self]
    exact tlbUses_eq ..
  · exact ⟨_, _, core_withCore_ne s _ h⟩

namespace Touched

variable {s t : State} (h : Touched s t)
include h

theorem untouched : Untouched s t := by
  have heq := h.eq
  refine ⟨by rw [heq], by rw [heq], by rw [heq], fun c => ?_, fun c => ?_⟩
  all_goals
    obtain ⟨t1, t2, hc⟩ := h.core c
    rw [hc]

theorem vdOf (g : Group) : t.vdOf g = s.vdOf g := by rw [h.eq]; rfl

theorem latches (c : Nat) : (t.core c).latches = (s.core c).latches := by
  obtain ⟨t1, t2, hc⟩ := h.core c
  rw [hc]

theorem window (v : Nat) : (t.device v).window = (s.device v).window := by
  obtain ⟨b, hv⟩ := h.device v
  rw [hv]

theorem job (v : Nat) : (t.device v).job = (s.device v).job := by
  obtain ⟨b, hv⟩ := h.device v
  rw [hv]

theorem requests : t.requests = s.requests := by rw [h.eq]
theorem versions : t.versions = s.versions := by rw [h.eq]
theorem ops : t.ops = s.ops := by rw [h.eq]
theorem nextOp : t.nextOp = s.nextOp := by rw [h.eq]
theorem wire : t.wire = s.wire := by rw [h.eq]
theorem acks : t.acks = s.acks := by rw [h.eq]
theorem outbox : t.outbox = s.outbox := by rw [h.eq]

theorem readMem (tier : Tier) (a n : Nat) : t.readMem tier a n = s.readMem tier a n := by
  rw [readMem_eq_homeBytes, readMem_eq_homeBytes]
  unfold homeByte
  rw [h.eq]

theorem homeBytes (ps : List Piece) : t.homeBytes ps = s.homeBytes ps := by
  unfold State.homeBytes
  simp only [h.readMem]

theorem locked (line : Nat) : t.locked line = s.locked line := by
  unfold State.locked
  rw [h.versions]

theorem lockedAt (tier : Tier) (a n : Nat) : t.lockedAt tier a n = s.lockedAt tier a n := by
  unfold State.lockedAt
  rw [funext h.locked]

theorem lockedIn (ps : List Piece) : t.lockedIn ps = s.lockedIn ps := by
  unfold State.lockedIn
  simp only [h.lockedAt]

theorem engineWait (c : Nat) (g : Group) : t.engineWait c g = s.engineWait c g := by
  obtain ⟨t1, t2, hc⟩ := h.core c
  unfold State.engineWait State.coreHold State.pendingOf
  rw [h.requests, hc]

theorem latchesOk (ls : List (Nat × Latch)) : t.latchesOk ls = s.latchesOk ls := by
  unfold State.latchesOk
  simp only [h.latches]

theorem reloc (v : Nat) (tier : Tier) (a : Nat) : t.reloc v tier a = s.reloc v tier a := by
  obtain ⟨b, hv⟩ := h.device v
  unfold State.reloc State.pbase Device.part
  rw [hv, h.eq]
  rfl

/-- The route to a rank does not depend on budgets or TLBs. -/
theorem route (v rank : Nat) : t.route v rank = s.route v rank := by
  obtain ⟨b, hv⟩ := h.device v
  have hport : t.hasPort (t.device v).part = s.hasPort (s.device v).part := by
    rw [hv]
    unfold State.hasPort
    rw [h.eq]
    rfl
  unfold State.route
  simp only [h.reloc, h.readMem, hport]
  rw [hv]

theorem routeEntry (v rank : Nat) : t.routeEntry v rank = s.routeEntry v rank := by
  obtain ⟨b, hv⟩ := h.device v
  unfold State.routeEntry
  simp only [h.reloc]
  rw [hv]

theorem routeHeld (v rank : Nat) : t.routeHeld v rank = s.routeHeld v rank := by
  unfold State.routeHeld
  rw [h.routeEntry, funext fun a => h.lockedAt .hbm a 32]

end Touched

/-! ## The issue of an engine operation (R118, R119, R120, R125) -/

theorem freshFrom_some {α : Type} {t : Tab α} {fuel n i : Nat} (h : t.freshFrom fuel n = some i) : n ≤ i ∧ i < n + fuel ∧ t.look i = none := by
  induction fuel generalizing n with
  | zero => cases h
  | succ fuel ih =>
    unfold Tab.freshFrom at h
    split at h
    · next hfree =>
      cases h
      exact ⟨Nat.le_refl _, by omega, Option.isNone_iff_eq_none.1 hfree⟩
    · obtain ⟨h1, h2, h3⟩ := ih h
      exact ⟨by omega, by omega, h3⟩

theorem freshFrom_none {α : Type} {t : Tab α} {fuel n : Nat} (h : t.freshFrom fuel n = none) {i : Nat} (h1 : n ≤ i) (h2 : i < n + fuel) :
    t.look i ≠ none := by
  induction fuel generalizing n with
  | zero => omega
  | succ fuel ih =>
    unfold Tab.freshFrom at h
    split at h
    · cases h
    · next htaken =>
      rcases Nat.eq_or_lt_of_le h1 with rfl | hlt
      · exact fun hnone => htaken (Option.isNone_iff_eq_none.2 hnone)
      · exact ih h hlt (by omega)

theorem mem_keys_of_look {α : Type} {t : Tab α} {i : Nat} (h : t.look i ≠ none) : i ∈ t.map (·.1) := by
  induction t with
  | nil => exact absurd rfl h
  | cons x rest ih =>
    obtain ⟨k, v⟩ := x
    unfold Tab.look at h
    split at h
    · next hk => exact List.mem_cons.2 (.inl hk.symm)
    · exact List.mem_cons_of_mem _ (ih h)

/-- A table with less than `fuel` entries has a free place among the first `fuel`. -/
theorem freshFrom_of_room {α : Type} {t : Tab α} {fuel : Nat} (h : t.length < fuel) : ∃ i, i < fuel ∧ t.freshFrom fuel 0 = some i ∧ t.look i = none := by
  cases hf : t.freshFrom fuel 0 with
  | some i =>
    obtain ⟨-, h2, h3⟩ := freshFrom_some hf
    exact ⟨i, by omega, rfl, h3⟩
  | none =>
    have hsub : List.range fuel ⊆ t.map (·.1) := fun i hi =>
      mem_keys_of_look (freshFrom_none hf (Nat.zero_le i) (by simpa using List.mem_range.1 hi))
    have := (List.nodup_range.subperm hsub).length_le
    rw [List.length_range, List.length_map] at this
    omega

theorem length_put_of_free {α : Type} {t : Tab α} {i : Nat} (x : α) (h : t.look i = none) : (t.put i x).length = t.length + 1 := by
  induction t with
  | nil => rfl
  | cons y rest ih =>
    obtain ⟨k, v⟩ := y
    unfold Tab.look at h
    unfold Tab.put
    split at h
    · cases h
    · next hk =>
      split
      · rfl
      · rw [if_neg fun he => hk he.symm, List.length_cons, List.length_cons, ih h]

/-- Entries registered in cores' tables of latches. -/
def addLatches (op k : Nat) (ls : List (Nat × Latch)) (s : State) : State :=
  ls.foldl (fun a x => a.withCore x.1 fun y => y.addLatch { x.2 with op := op, slot := k }) s

/-- Only tables of latches are changed, and what stands in them stays. -/
structure LatchesAdded (s t : State) : Prop where
  eq : t = { s with cores := t.cores }
  core : ∀ c, ∃ ls, t.core c = { s.core c with latches := ls }
  held : ∀ c i e, (s.core c).latches.look i = some e → (t.core c).latches.look i = some e

namespace LatchesAdded

theorem refl (s : State) : LatchesAdded s s := ⟨rfl, fun _ => ⟨_, rfl⟩, fun _ _ _ h => h⟩

theorem trans {s t u : State} (h1 : LatchesAdded s t) (h2 : LatchesAdded t u) : LatchesAdded s u := by
  refine ⟨by rw [h2.eq, h1.eq], fun c => ?_, fun c i e h => h2.held c i e (h1.held c i e h)⟩
  obtain ⟨a, ha⟩ := h1.core c
  obtain ⟨b, hb⟩ := h2.core c
  exact ⟨b, by rw [hb, ha]⟩

theorem untouched {s t : State} (h : LatchesAdded s t) : Untouched s t := by
  have heq := h.eq
  refine ⟨by rw [heq], by rw [heq], by rw [heq], fun c => ?_, fun c => ?_⟩
  all_goals
    obtain ⟨ls, hc⟩ := h.core c
    rw [hc]

end LatchesAdded

/-- An entry registered in a table that has room (R125). -/
theorem addLatch_spec {s : State} {c : Nat} (l : Latch) (hroom : (s.core c).latches.length < 64) :
    let t := s.withCore c fun y => y.addLatch l
    LatchesAdded s t ∧ (∃ i, i < 64 ∧ (s.core c).latches.look i = none ∧ (t.core c).latches.look i = some l)
      ∧ (t.core c).latches.length = (s.core c).latches.length + 1 ∧ ∀ c', c' ≠ c → t.core c' = s.core c' := by
  obtain ⟨i, hi, hfresh, hnone⟩ := freshFrom_of_room hroom
  have hcore : (s.withCore c fun y => y.addLatch l).core c = { s.core c with latches := (s.core c).latches.put i l } := by
    rw [core_withCore_self]
    unfold Core.addLatch
    rw [hfresh]
  have hne (c' : Nat) (h : c' ≠ c) := core_withCore_ne s (fun y => y.addLatch l) h
  refine ⟨⟨rfl, fun c' => ?_, fun c' j e he => ?_⟩, ⟨i, hi, hnone, ?_⟩, ?_, hne⟩
  · by_cases h : c' = c
    · subst h
      exact ⟨_, hcore⟩
    · exact ⟨_, hne c' h⟩
  · by_cases h : c' = c
    · subst h
      rw [hcore, Tab.look_put_ne]
      · exact he
      · rintro rfl
        rw [hnone] at he
        cases he
    · rw [hne c' h]
      exact he
  · rw [hcore, Tab.look_put_self]
  · rw [hcore, length_put_of_free l hnone]

/-- How many of some entries are a core's. -/
def latchCount (ls : List (Nat × Latch)) (c : Nat) : Nat := (ls.filter fun y => y.1 == c).length

theorem addLatches_spec (op k : Nat) (ls : List (Nat × Latch)) {s : State} (hroom : ∀ x ∈ ls, (s.core x.1).latches.length + latchCount ls x.1 ≤ 64) :
    LatchesAdded s (addLatches op k ls s) ∧ ∀ x ∈ ls, ∃ i, i < 64 ∧ (s.core x.1).latches.look i = none
      ∧ ((addLatches op k ls s).core x.1).latches.look i = some { x.2 with op := op, slot := k } := by
  induction ls generalizing s with
  | nil => exact ⟨.refl s, fun x hx => absurd hx List.not_mem_nil⟩
  | cons x rest ih =>
    have hcount (c : Nat) : latchCount (x :: rest) c = latchCount rest c + if x.1 = c then 1 else 0 := by
      unfold latchCount
      by_cases h : x.1 = c <;> simp [h]
    have hfirst : (s.core x.1).latches.length < 64 := by
      have := hroom x List.mem_cons_self
      rw [hcount, if_pos rfl] at this
      omega
    obtain ⟨hadd, ⟨i, hi, hnone, hput⟩, hlen, hne⟩ := addLatch_spec { x.2 with op := op, slot := k } hfirst
    obtain ⟨hrest, hmem⟩ := ih (s := s.withCore x.1 fun y => y.addLatch { x.2 with op := op, slot := k }) fun y hy => by
      have h1 := hroom y (List.mem_cons_of_mem _ hy)
      rw [hcount] at h1
      by_cases hxy : x.1 = y.1
      · rw [if_pos hxy, ← hxy] at h1
        rw [← hxy, hlen]
        omega
      · rw [if_neg hxy] at h1
        rw [hne y.1 fun h => hxy h.symm]
        exact h1
    refine ⟨hadd.trans hrest, fun y hy => ?_⟩
    rcases List.mem_cons.1 hy with rfl | hy
    · exact ⟨i, hi, hnone, hrest.held _ _ _ hput⟩
    · obtain ⟨j, hj, hfree, hthere⟩ := hmem y hy
      refine ⟨j, hj, ?_, hthere⟩
      cases hs : (s.core y.1).latches.look j with
      | none => rfl
      | some e =>
        rw [hadd.held _ _ _ hs] at hfree
        cases hfree

theorem room_of_latchesOk {s : State} {ls : List (Nat × Latch)} (h : s.latchesOk ls = true) {x : Nat × Latch} (hx : x ∈ ls) :
    (s.core x.1).latches.length + latchCount ls x.1 ≤ 64 := by
  have := List.all_eq_true.1 h x hx
  rw [Bool.and_eq_true] at this
  exact of_decide_eq_true this.2

theorem counted_setCounted (g : Group) (ctr : Counter) (l : List Counted) (x : Counter) :
    (g.setCounted ctr l).counted x = if x = ctr then l else g.counted x := by
  cases ctr <;> cases x <;> rfl

/-- The group that has issued one operation more. -/
theorem count_frame (g : Group) (ctr : Counter) (op : Nat) :
    (g.count ctr op false).counted ctr = counted (g.counted ctr) op false ∧ (g.count ctr op false).pend = g.pend
      ∧ (∀ x, x ≠ ctr → (g.count ctr op false).counted x = g.counted x)
      ∧ { g.count ctr op false with loads := g.loads, stores := g.stores, copies := g.copies, tiles := g.tiles, pend := g.pend } = g := by
  refine ⟨?_, ?_, fun x hx => ?_, ?_⟩
  · exact (counted_setCounted ..).trans (if_pos rfl)
  · cases ctr <;> rfl
  · exact (counted_setCounted ..).trans (if_neg hx)
  · cases ctr <;> rfl

/-- An operation issues whose latch entries can be registered. -/
theorem issued_issueOp (s : State) (c k : Nat) (g : Group) (kind : EngKind) (ctr : Counter) (pages : List Page) {ls : List (Nat × Latch)}
    (hok : s.latchesOk ls = true) : Issued s (s.issueOp c k g kind ctr pages ls) c k g kind ctr pages ls [] := by
  let o : EngOp := { kind := kind, core := c, slot := k, launch := g.launch, gang := g.gang, vd := s.vdOf g, ctr := ctr,
                     pages := pages, bad := [], window := (s.device (s.vdOf g)).window, done := 0 }
  let s1 := (s.newOp).setGroup c k (g.count ctr s.nextOp false)
  let s2 : State := { s1 with ops := s1.ops.put s.nextOp o }
  have hlatches (c' : Nat) : (s2.core c').latches = (s.core c').latches := by
    change (((s.newOp).setGroup c k (g.count ctr s.nextOp false)).core c').latches = _
    rw [core_setGroup]
    split
    · next h => subst h; rfl
    · rfl
  obtain ⟨hadd, hplaces⟩ := addLatches_spec s.nextOp k ls (s := s2) fun x hx => by
    rw [hlatches]
    exact room_of_latchesOk hok hx
  have heq : s.issueOp c k g kind ctr pages ls = addLatches s.nextOp k ls s2 := rfl
  rw [heq]
  have hops : (addLatches s.nextOp k ls s2).ops = s.ops.put s.nextOp o := by
    rw [hadd.eq]
    rfl
  obtain ⟨hc1, hc2, hc3, hc4⟩ := count_frame g ctr s.nextOp
  refine ⟨by rw [hops, Tab.look_put_self], fun i hi => by rw [hops, Tab.look_put_ne _ _ _ _ hi], ?_, ⟨g.count ctr s.nextOp false, ?_, hc1, ?_, hc3, hc4⟩,
    fun x hx => ?_, fun c' i e he => ?_, ?_⟩
  · rw [hadd.eq]
    rfl
  · rw [hadd.untouched.group?]
    exact group?_setGroup_self s.newOp c k _
  · rw [hc2, List.append_nil]
  · obtain ⟨i, hi, hfree, hthere⟩ := hplaces x hx
    exact ⟨i, hi, (congrArg (Tab.look · i) (hlatches x.1)).symm.trans hfree, hthere⟩
  · exact hadd.held c' i e ((congrArg (Tab.look · i) (hlatches c')).trans he)
  · have h1 : Local s s1 c k := Local.trans ((untouched_newOp s).isLocal c k) (Local.setGroup s.newOp c k _)
    have h2 : Untouched s1 s2 := .of_eq rfl rfl rfl rfl
    exact Local.after (Local.after h1 h2) hadd.untouched

/-- What has issued after translations were used and bytes charged has issued. -/
theorem Touched.issued {s s0 t : State} (h : Touched s s0) {c k : Nat} {g : Group} {kind : EngKind} {ctr : Counter} {pages : List Page}
    {ls : List (Nat × Latch)} {later : List PendingReg} (hi : Issued s0 t c k g kind ctr pages ls later) : Issued s t c k g kind ctr pages ls later := by
  obtain ⟨hop, hrest, hnext, hgroup, hlatches, hheld, hothers⟩ := hi
  rw [h.nextOp, h.vdOf, h.window] at hop
  simp only [h.nextOp, h.ops] at hrest hnext hgroup
  simp only [h.nextOp, h.latches] at hlatches hheld
  exact ⟨hop, hrest, hnext, hgroup, hlatches, hheld, Local.trans (h.untouched.isLocal c k) hothers⟩

/-! ## An operation leaves its device (R128, R415) -/

theorem cores_charge (s : State) (vd n : Nat) : (s.charge vd n).cores = s.cores := by
  unfold State.charge
  split <;> rfl

theorem cores_chargeRead (s : State) (vd a n : Nat) : (s.chargeRead vd a n).cores = s.cores := by
  unfold State.chargeRead
  generalize linesOf ((List.range n).map (a + ·)) = lines
  induction lines generalizing s with
  | nil => rfl
  | cons line rest ih =>
    rw [List.foldl_cons, ih]
    unfold State.chargeLine
    split
    · exact cores_charge ..
    · rfl

/-- The entry of the route table that a use of a rank reads is charged (R412). -/
def routeRead (s : State) (vd rank : Nat) : State :=
  match s.routeEntry vd rank with
  | some a => s.chargeRead vd a 32
  | none => s

theorem routeRead_frame (s : State) (vd rank : Nat) : ∃ D, routeRead s vd rank = { s with devices := D } := by
  unfold routeRead
  cases s.routeEntry vd rank with
  | none => exact ⟨_, rfl⟩
  | some a =>
    have heq := (touched_chargeRead s vd a 32).eq
    rw [cores_chargeRead] at heq
    exact ⟨_, heq⟩

/-- The use of a route changes devices alone: what they may read, and their connections. -/
theorem openConn_frame (s : State) (vd rank : Nat) : ∃ D, s.openConn vd rank = { s with devices := D } := by
  have hopen : s.openConn vd rank = match s.route vd rank with
      | .absent => routeRead s vd rank
      | r => (routeRead s vd rank).withDevice vd fun d => { d with conns := d.conns.put rank r } := rfl
  obtain ⟨D, hread⟩ := routeRead_frame s vd rank
  rw [hopen, hread]
  cases s.route vd rank
  all_goals exact ⟨_, rfl⟩

/-- Only devices, completions and operations on their way are changed. -/
structure Posted (s t : State) : Prop where
  eq : t = { s with devices := t.devices, acks := t.acks, wire := t.wire, outbox := t.outbox }

theorem sendFab_spec (s : State) (vd : Nat) (x : FabOp) : Posted s (s.sendFab vd x) ∧ Sent s (s.sendFab vd x) vd x := by
  obtain ⟨D, hopen⟩ := openConn_frame s vd x.dst
  unfold Sent State.sendFab
  rw [hopen]
  dsimp only
  cases s.route vd x.dst with
  | absent => exact ⟨⟨rfl⟩, rfl, rfl, rfl⟩
  | here v =>
    dsimp only
    split
    · exact ⟨⟨rfl⟩, rfl, rfl, rfl⟩
    · exact ⟨⟨rfl⟩, rfl, rfl, rfl⟩
  | away b =>
    dsimp only
    split
    · exact ⟨⟨rfl⟩, rfl, rfl, rfl⟩
    · exact ⟨⟨rfl⟩, rfl, rfl, rfl⟩

theorem Posted.untouched {s t : State} (h : Posted s t) : Untouched s t := by
  have heq := h.eq
  exact .of_eq (by rw [heq]) (by rw [heq]) (by rw [heq]) (by rw [heq])

/-- What has issued before an operation leaves has issued. -/
theorem Posted.issued {s t u : State} (h : Posted t u) {c k : Nat} {g : Group} {kind : EngKind} {ctr : Counter} {pages : List Page}
    {ls : List (Nat × Latch)} {later : List PendingReg} (hi : Issued s t c k g kind ctr pages ls later) : Issued s u c k g kind ctr pages ls later := by
  obtain ⟨hop, hrest, hnext, ⟨g', hg', hgroup⟩, hlatches, hheld, hothers⟩ := hi
  have hcore (c : Nat) : u.core c = t.core c := by
    rw [h.eq]
    rfl
  have hops : u.ops = t.ops := by rw [h.eq]
  have hn : u.nextOp = t.nextOp := by rw [h.eq]
  refine ⟨hops ▸ hop, fun i hi => hops ▸ hrest i hi, hn.trans hnext, ⟨g', (h.untouched.group? c k).trans hg', hgroup⟩, fun x hx => ?_, fun c' i e he => ?_,
    Local.after hothers h.untouched⟩
  · rw [hcore]
    exact hlatches x hx
  · rw [hcore]
    exact hheld c' i e he

/-- An operation that leaves a state leaves one with the same routes and the same operations on their way. -/
theorem Sent.of_same {s s0 t : State} {vd : Nat} {x : FabOp} (hroute : s0.route vd x.dst = s.route vd x.dst) (hacks : s0.acks = s.acks)
    (hwire : s0.wire = s.wire) (hout : s0.outbox = s.outbox) (h : Sent s0 t vd x) : Sent s t vd x := by
  unfold Sent at h ⊢
  rwa [hroute, hacks, hwire, hout] at h

end Sys2Proof.Laws
end

section
/-! Fabric instructions, winq and jfence (O35). -/

namespace Sys2Proof.Laws

open Sys2Proof Sys2Proof.Machine Sys2Proof.Claim

/-! ## Operands and checks of the fabric instructions (R10, R352, R353) -/

theorem fabRank_eq (x : DWord) : fabRank x = (x.extractLsb' 48 16).toNat := by
  simp [fabRank, bits, Nat.shiftRight_eq_div_pow]

theorem fabOff_eq (x : DWord) : fabOff x = (x.extractLsb' 0 48).toNat := by
  simp [fabOff, bits]

theorem ent_word (w : Word) (lo n : Nat) : ent w.toNat lo n = (w.extractLsb' lo n).toNat := by
  simp [ent, Nat.shiftRight_eq_div_pow]

/-- The operands of a fabric instruction (R352), as its fields and registers give them. -/
def fabOperands (g : Group) (opcode : Nat) (o : FabricOp) : FabArgs :=
  let pair (r : BitVec 6) : DWord := g.sreg (r.toNat + 1) ++ g.sreg r.toNat
  let w := g.sreg o.g.toNat
  { fab := pair (if decide (opcode = 0x12) then o.s else o.d), loc := (pair (if decide (opcode = 0x12) then o.d else o.s)).toNat,
    size := (w.extractLsb' 0 30).toNat, sop := (w.extractLsb' 30 2).toNat, value := g.sreg (o.g.toNat + 1),
    sig := g.sreg (o.g.toNat + 3) ++ g.sreg (o.g.toNat + 2) }

theorem fabArgs_eq (g : Group) (opcode : Nat) (o : FabricOp) : g.fabArgs opcode o = fabOperands g opcode o := by
  unfold Group.fabArgs fabOperands
  by_cases h : opcode = 0x12
  · simp only [h, if_true, decide_true, ent_word, Group.spair]
  · simp only [h, if_false, decide_false, Bool.false_eq_true, ent_word, Group.spair]

/-- A fabric range is within the job and its window (R10). -/
def FabReach (d : Device) (x : DWord) (n : Nat) : Prop :=
  ∃ j, d.job = some j ∧ (x.extractLsb' 48 16).toNat ≤ j.last ∧ (n = 0 ∨ (x.extractLsb' 0 48).toNat + n ≤ 2 ^ j.wlog)

theorem fabricBad_of_reach {d : Device} {x : DWord} {n : Nat} (h : FabReach d x n) : fabricBad d x n = none := by
  obtain ⟨j, hj, hrank, hwin⟩ := h
  simp only [fabricBad, hj]
  rw [if_neg]
  rw [fabRank_eq, fabOff_eq]
  omega

theorem fabricBad_of_not_reach {d : Device} {x : DWord} {n : Nat} (h : ¬ FabReach d x n) : fabricBad d x n = some x := by
  unfold fabricBad
  cases hj : d.job with
  | none => rfl
  | some j =>
    refine if_pos (not_not.1 fun hno => h ⟨j, hj, ?_⟩)
    rw [fabRank_eq, fabOff_eq] at hno
    omega

section
variable (a : FabArgs) (opcode : Nat)

theorem fab_illegal_iff : a.illegal opcode = true ↔
    if decide (opcode = 0x11) = true then a.sop = 3 ∨ (a.sig.extractLsb' 48 16).toNat ≠ (a.fab.extractLsb' 48 16).toNat
      ∨ (a.sop = 2 ∧ (a.value = 0 ∨ 2 ^ 16 ≤ a.value.toNat))
    else a.sop ≠ 0 := by
  unfold FabArgs.illegal
  have hzero : a.value.toNat = 0 ↔ a.value = 0 := ⟨fun h => BitVec.eq_of_toNat_eq h, fun h => by rw [h]; rfl⟩
  by_cases h : opcode = 0x11
  · simp only [h, if_true, decide_true, Bool.or_eq_true, Bool.and_eq_true, beq_iff_eq, bne_iff_ne, decide_eq_true_eq, fabRank_eq, hzero, or_assoc]
  · simp only [h, if_false, decide_false, Bool.false_eq_true, bne_iff_ne]

/-- The operands have the alignment that the instruction needs (R353). -/
def FabAligned (a : FabArgs) (opcode unit : Nat) : Prop :=
  (unit ≠ 1 → a.size % unit = 0 ∧ (a.fab.extractLsb' 0 48).toNat % unit = 0 ∧ a.loc % unit = 0)
    ∧ (decide (opcode = 0x11) = true → (a.sig.extractLsb' 0 48).toNat % (if a.sop = 2 then 16 else 4) = 0)

variable {a} {opcode} {kind : Access} {unit : Nat}

theorem misaligned_of_aligned (h : FabAligned a opcode unit) : a.misaligned ⟨opcode, kind, unit⟩ = none := by
  obtain ⟨hunit, hsig⟩ := h
  unfold FabArgs.misaligned
  rw [decide_eq_true_eq] at hsig
  simp only [fabOff_eq, FabArgs.sigSize]
  rw [if_neg fun hc => ?_, if_neg fun hc => ?_, if_neg fun hc => ?_]
  · exact hc.2 (hsig hc.1)
  · exact hc.2 (hunit hc.1).2.2
  · rcases hc.2 with h | h
    · exact h (hunit hc.1).1
    · exact h (hunit hc.1).2.1

theorem misaligned_of_not_aligned (h : ¬ FabAligned a opcode unit) :
    ∃ info addr, a.misaligned ⟨opcode, kind, unit⟩ = some (.trap .alignment info addr) := by
  unfold FabArgs.misaligned
  simp only [fabOff_eq, FabArgs.sigSize]
  by_cases h1 : unit ≠ 1 ∧ (a.size % unit ≠ 0 ∨ (a.fab.extractLsb' 0 48).toNat % unit ≠ 0)
  · exact ⟨_, _, if_pos h1⟩
  · by_cases h2 : unit ≠ 1 ∧ a.loc % unit ≠ 0
    · exact ⟨_, _, (if_neg h1).trans (if_pos h2)⟩
    · refine ⟨_, _, (if_neg h1).trans ((if_neg h2).trans (if_pos ?_))⟩
      refine not_not.1 fun h3 => h ⟨fun hu => ⟨?_, ?_, ?_⟩, fun ho => ?_⟩
      · exact not_not.1 fun hs => h1 ⟨hu, .inl hs⟩
      · exact not_not.1 fun hs => h1 ⟨hu, .inr hs⟩
      · exact not_not.1 fun hs => h2 ⟨hu, hs⟩
      · exact not_not.1 fun hs => h3 ⟨of_decide_eq_true ho, hs⟩

variable {d : Device}

theorem beyond_of_reach (h : FabReach d a.fab a.size) (hsig : decide (opcode = 0x11) = true → FabReach d a.sig (if a.sop = 2 then 16 else 4)) :
    a.beyond d ⟨opcode, kind, unit⟩ = none := by
  unfold FabArgs.beyond
  rw [fabricBad_of_reach h]
  by_cases ho : opcode = 0x11
  · exact (if_pos ho).trans (congrArg _ (fabricBad_of_reach (hsig (decide_eq_true ho))))
  · exact if_neg ho

theorem beyond_of_not_reach (h : ¬ FabReach d a.fab a.size) : a.beyond d ⟨opcode, kind, unit⟩ = some (fabricFault kind a.fab) := by
  unfold FabArgs.beyond
  rw [fabricBad_of_not_reach h]

theorem beyond_of_not_reach_signal (h : FabReach d a.fab a.size) (ho : decide (opcode = 0x11) = true)
    (hsig : ¬ FabReach d a.sig (if a.sop = 2 then 16 else 4)) : a.beyond d ⟨opcode, kind, unit⟩ = some (fabricFault kind a.sig) := by
  unfold FabArgs.beyond
  rw [fabricBad_of_reach h]
  exact (if_pos (of_decide_eq_true ho)).trans (congrArg _ (fabricBad_of_not_reach hsig))

end

/-! ## What the fabric instructions do -/

section
variable {s : State} {c k : Nat} {g : Group} (hrun : Runs s c k g) (f : FabForm) (o : FabricOp)
include hrun

theorem fabricOp_of_illegal (h : (fabOperands g f.opcode o).illegal f.opcode = true) : Machine.fabricOp f o s = .next (s.setGroup c k g.illegal) := by
  refine (asGroup_runs hrun _).trans (congrArg _ (if_pos ?_))
  rw [fabArgs_eq]
  exact h

variable (hlegal : ¬ (fabOperands g f.opcode o).illegal f.opcode = true)
include hlegal

theorem fabricOp_of_raise {e : Raise}
    (h : firstRaise [(fabOperands g f.opcode o).misaligned f, (fabOperands g f.opcode o).beyond (s.device (s.vdOf g)) f,
      localBad (if f.opcode = 0x12 then .store else .load) (fabOperands g f.opcode o).loc (fabOperands g f.opcode o).size] = some e) :
    Machine.fabricOp f o s = .next (s.setGroup c k (g.raiseAll e)) := by
  refine (asGroup_runs hrun _).trans (congrArg _ ?_)
  simp only [fabArgs_eq, if_neg hlegal, h]

theorem fabricOp_of_clear
    (h : firstRaise [(fabOperands g f.opcode o).misaligned f, (fabOperands g f.opcode o).beyond (s.device (s.vdOf g)) f,
      localBad (if f.opcode = 0x12 then .store else .load) (fabOperands g f.opcode o).loc (fabOperands g f.opcode o).size] = none) :
    Machine.fabricOp f o s = .next (
      let a := fabOperands g f.opcode o
      let side : Access := if f.opcode = 0x12 then .store else .load
      let s0 := s.usePages c (s.vdOf g) [(a.loc, a.size)]
      match s.translateGroup c g side a.loc a.size with
      | .miss ps => s.sendMisses c k (s.vdOf g) ps
      | .fault e x => s0.setGroup c k (g.raiseAll (e.raises side 0 x))
      | .ok ps => s0.issueFab c k g f a ps) := by
  refine (asGroup_runs hrun _).trans (congrArg _ ?_)
  simp only [fabArgs_eq, if_neg hlegal, h] <;> rfl

end

/-! ## The issue of a fabric instruction (R351, R117, R119, R128) -/

theorem addLatches_frame (op k : Nat) (ls : List (Nat × Latch)) (s : State) : ∃ C, addLatches op k ls s = { s with cores := C } := by
  induction ls generalizing s with
  | nil => exact ⟨_, rfl⟩
  | cons x rest ih =>
    obtain ⟨C, h⟩ := ih (s.withCore x.1 fun y => y.addLatch { x.2 with op := op, slot := k })
    exact ⟨C, h⟩

/-- What the issue of an operation changes beside its operation and its group: tables of latches. -/
theorem issueOp_frame (s : State) (c k : Nat) (g : Group) (kind : EngKind) (ctr : Counter) (pages : List Page) (ls : List (Nat × Latch)) :
    ∃ C O, s.issueOp c k g kind ctr pages ls = { s with cores := C, ops := O, nextOp := s.nextOp + 1 } := by
  let o : EngOp := { kind := kind, core := c, slot := k, launch := g.launch, gang := g.gang, vd := s.vdOf g, ctr := ctr, pages := pages,
                     bad := [], window := (s.device (s.vdOf g)).window, done := 0 }
  let s1 := (s.newOp).setGroup c k (g.count ctr s.nextOp false)
  obtain ⟨C, h⟩ := addLatches_frame s.nextOp k ls { s1 with ops := s1.ops.put s.nextOp o }
  exact ⟨C, _, h⟩

/-- The latch entries of a fabric transfer on its local bytes (R119). -/
def fabLatches (s : State) (c : Nat) (g : Group) (opcode : Nat) (a : FabArgs) : List (Nat × Latch) :=
  if a.size = 0 then [] else [(c, globalLatch (s.vdOf g) a.loc (a.loc + a.size) (decide (opcode = 0x12)))]

/-- The operation that a fabric instruction sends. -/
def fabSent (s : State) (g : Group) (opcode : Nat) (a : FabArgs) (ps : List Piece) : FabOp :=
  let d := s.device (s.vdOf g)
  { id := s.nextOp, from? := some (s.vdOf g), src := (d.job.map (·.rank)).getD 0, dst := (a.fab.extractLsb' 48 16).toNat, window := d.window,
    vd := 0, off := (a.fab.extractLsb' 0 48).toNat,
    kind := fabKind opcode (if decide (opcode = 0x12) then [] else s.homeBytes ps) a, forwarded := false }

theorem signal_eq (a : FabArgs) (opcode : Nat) :
    a.signal opcode = if decide (opcode = 0x11) then some (a.sop, a.value.toNat, (a.sig.extractLsb' 0 48).toNat) else none := by
  unfold FabArgs.signal
  by_cases h : opcode = 0x11 <;> simp [h, fabOff_eq]

section
variable {s s0 : State} (h0 : Touched s s0) (c k : Nat) (g : Group) (f : FabForm) (a : FabArgs) (ps : List Piece)
include h0

theorem issueFab_of_wait {w : Wait} (hw : s.engineWait c g = some w) : s0.issueFab c k g f a ps = s0.setGroup c k (g.waitOn w) := by
  unfold State.issueFab
  simp only [h0.engineWait, hw]

variable (hw : s.engineWait c g = none)
include hw

theorem issueFab_of_empty (hempty : a.size = 0 ∧ f.opcode ≠ 0x11) :
    s0.issueFab c k g f a ps = s0.newOp.setGroup c k (g.count .copies s.nextOp true) := by
  unfold State.issueFab
  simp only [h0.engineWait, hw, if_pos hempty, h0.nextOp]

variable (hsome : ¬ (a.size = 0 ∧ f.opcode ≠ 0x11))
include hsome

theorem issueFab_of_latched (hl : s.latchesOk (fabLatches s c g f.opcode a) = false) :
    s0.issueFab c k g f a ps = s0.setGroup c k (g.waitOn (.latch (fabLatches s c g f.opcode a))) := by
  unfold State.issueFab
  unfold fabLatches at hl ⊢
  simp only [h0.engineWait, hw, if_neg hsome, h0.vdOf, h0.latchesOk, hl, Bool.not_false, if_true]

variable (hl : s.latchesOk (fabLatches s c g f.opcode a) = true)
include hl

theorem issueFab_of_route_held {line : Nat} (hr : s.routeHeld (s.vdOf g) (fabRank a.fab) = some line) :
    s0.issueFab c k g f a ps = s0.setGroup c k (g.waitOn (.line line)) := by
  unfold State.issueFab
  unfold fabLatches at hl
  simp only [h0.engineWait, hw, if_neg hsome, h0.vdOf, h0.latchesOk, hl, Bool.not_true, Bool.false_eq_true, if_false, h0.routeHeld, hr]

variable (hr : s.routeHeld (s.vdOf g) (fabRank a.fab) = none)
include hr

theorem issueFab_of_source_held (hput : f.opcode ≠ 0x12) {line : Nat} (hlocked : s.lockedIn ps = some line) :
    s0.issueFab c k g f a ps = s0.setGroup c k (g.waitOn (.line line)) := by
  unfold State.issueFab
  unfold fabLatches at hl
  simp only [h0.engineWait, hw, if_neg hsome, h0.vdOf, h0.latchesOk, hl, Bool.not_true, Bool.false_eq_true, if_false, h0.routeHeld, hr,
    if_neg hput, h0.lockedIn, hlocked]

/-- Every check has passed and nothing is waited for: the operation issues and leaves. -/
theorem issueFab_of_ready (hfree : f.opcode = 0x12 ∨ s.lockedIn ps = none) :
    ∃ s1, Touched s s1 ∧ s0.issueFab c k g f a ps =
      (s1.issueOp c k g (.fabric f.opcode a.fab (a.fab.extractLsb' 48 16).toNat a.loc a.size (a.signal f.opcode)) .copies
        (ps.map (·.page)).eraseDups (fabLatches s c g f.opcode a)).sendFab (s.vdOf g) (fabSent s g f.opcode a ps) := by
  have hline : (match s.routeHeld (s.vdOf g) (fabRank a.fab) with
      | some line => some line
      | none => if f.opcode = 0x12 then none else s.lockedIn ps) = none := by
    rw [hr]
    by_cases ho : f.opcode = 0x12
    · exact if_pos ho
    · exact (if_neg ho).trans (hfree.resolve_left ho)
  rw [hr] at hline
  refine ⟨if f.opcode = 0x12 then s0 else s0.chargePieces (s.vdOf g) ps, ?_, ?_⟩
  · split
    · exact h0
    · exact h0.trans (touched_chargePieces ..)
  · unfold State.issueFab
    unfold fabLatches at hl ⊢
    simp only [h0.engineWait, hw, if_neg hsome, h0.vdOf, h0.latchesOk, hl, Bool.not_true, Bool.false_eq_true, if_false, h0.routeHeld, hr,
      h0.lockedIn]
    simp only [hline, h0.homeBytes, h0.nextOp, h0.job, h0.window, fabSent, fabRank_eq, fabOff_eq, decide_eq_true_eq]

end

/-- An operation that has issued and left. -/
theorem issued_sent {s s1 : State} (h1 : Touched s s1) (c k : Nat) (g : Group) (kind : EngKind) (pages : List Page) {ls : List (Nat × Latch)}
    (hl : s.latchesOk ls = true) (x : FabOp) :
    let t := (s1.issueOp c k g kind .copies pages ls).sendFab (s.vdOf g) x
    Issued s t c k g kind .copies pages ls [] ∧ Sent s t (s.vdOf g) x := by
  obtain ⟨hposted, hsent⟩ := sendFab_spec (s1.issueOp c k g kind .copies pages ls) (s.vdOf g) x
  have hissued := issued_issueOp s1 c k g kind .copies pages ((h1.latchesOk ls).trans hl)
  obtain ⟨C, O, hframe⟩ := issueOp_frame s1 c k g kind .copies pages ls
  refine ⟨h1.issued (hposted.issued hissued), Sent.of_same ?_ ?_ ?_ ?_ hsent⟩
  · rw [hframe, ← h1.route]
    rfl
  · rw [hframe, ← h1.acks]
  · rw [hframe, ← h1.wire]
  · rw [hframe, ← h1.outbox]

/-- Misses sent change the group's core and a die. -/
theorem sendMisses_frame {s : State} {c k : Nat} {g : Group} (hg : s.group? c k = some g) (vd : Nat) (pages : List Nat) :
    ∃ C D, s.sendMisses c k vd pages = { s with cores := C, dies := D } := by
  unfold State.sendMisses
  dsimp only
  rw [withGroup_eq_setGroup (by exact hg)]
  exact ⟨_, _, rfl⟩

/-- The state in which a fabric instruction leaves its group waiting. -/
def FabWaits (s : State) (c k : Nat) (g : Group) (w : Wait) (t : State) : Prop :=
  Local s t c k ∧ t.ops = s.ops ∧ t.wire = s.wire ∧ t.outbox = s.outbox
    ∧ t.group? c k = some { g with phase := .waiting, wait := some w, clause := { g.clause with redo := true } }

theorem fabWaits_of_touched {s s0 : State} (h0 : Touched s s0) (c k : Nat) (g : Group) (w : Wait) :
    FabWaits s c k g w (s0.setGroup c k (g.waitOn w)) :=
  ⟨Local.trans (h0.untouched.isLocal c k) (Local.setGroup ..), h0.ops, h0.wire, h0.outbox, group?_setGroup_self ..⟩

theorem fabWaits_of_misses {s : State} {c k : Nat} {g : Group} (hg : s.group? c k = some g) (vd : Nat) (pages : List Nat) :
    FabWaits s c k g .walk (s.sendMisses c k vd pages) := by
  obtain ⟨hu, -⟩ := sendMisses_spec hg vd pages
  obtain ⟨C, D, hframe⟩ := sendMisses_frame hg vd pages
  refine ⟨Local.after (Local.setGroup s c k _) hu, by rw [hframe], by rw [hframe], by rw [hframe], ?_⟩
  rw [hu.group?, group?_setGroup_self]
  rfl

theorem raised_copyEvent (g : Group) (e : Raise) : Raised g (g.raiseAll e) (active g) (copyEvent g e) :=
  raised_raiseAll g e fun _ _ _ => rfl

theorem raised_faultEvent (g : Group) (f : XFault) (kind : Access) (space addr : Nat) :
    Raised g (g.raiseAll (f.raises kind space addr)) (active g) (faultEvent g f kind space addr) :=
  raised_raiseAll g _ fun _ _ _ => rfl

theorem raised_trapEvent (g : Group) (cause : TrapCause) (info : Word) (addr : DWord) :
    Raised g (g.raiseAll (.trap cause info addr)) (active g) (trapEvent g cause info addr g.clause.idx (g.clause.idx + g.clause.len)) :=
  raised_raiseAll g _ fun l _ _ => trapEvent_eq g cause info addr l

/-- What one of the six data instructions does (R351 to R353). -/
theorem fabricOp_law {mk : FabricOp → Instr} {opcode : Nat} {kind : Access} {unit : Nat}
    (hexec : ∀ o s, exec (mk o) s = Machine.fabricOp ⟨opcode, kind, unit⟩ o s) {s : State} {c k : Nat} {g : Group} (hrun : Runs s c k g)
    (o : FabricOp) :
    let isGet : Bool := decide (opcode = 0x12)
    let isSig : Bool := decide (opcode = 0x11)
    let a := fabOperands g opcode o
    let vd := s.vdOf g
    let d := s.device vd
    let sigBytes : Nat := if a.sop = 2 then 16 else 4
    let local? : Option Raise := localBad (if isGet then .store else .load) a.loc a.size
    let side : Access := if isGet then .store else .load
    let waits (w : Wait) : Prop := Completes s (mk o) (FabWaits s c k g w)
    let illegal : Prop := a.illegal opcode = true
    let aligned : Prop := FabAligned a opcode unit
    (illegal → exec (mk o) s = .next (s.setGroup c k g.illegal))
    ∧ (¬ illegal → ¬ aligned → ∃ info addr, InGroup s c k (mk o) fun g' =>
        Raised g g' (active g) (trapEvent g .alignment info addr g.clause.idx (g.clause.idx + g.clause.len)))
    ∧ (¬ illegal → aligned → ¬ FabReach d a.fab a.size → InGroup s c k (mk o) fun g' =>
        Raised g g' (active g) (faultEvent g ⟨0x0C, 7, 0⟩ kind 4 a.fab.toNat))
    ∧ (¬ illegal → aligned → FabReach d a.fab a.size → isSig = true → ¬ FabReach d a.sig sigBytes → InGroup s c k (mk o) fun g' =>
        Raised g g' (active g) (faultEvent g ⟨0x0C, 7, 0⟩ kind 4 a.sig.toNat))
    ∧ (¬ illegal → aligned → FabReach d a.fab a.size → (isSig = true → FabReach d a.sig sigBytes) →
        (∀ e, local? = some e → InGroup s c k (mk o) fun g' => Raised g g' (active g) (copyEvent g e))
        ∧ (local? = none → ∀ ps, s.translateGroup c g side a.loc a.size = .miss ps → waits .walk)
        ∧ (local? = none → ∀ f b, s.translateGroup c g side a.loc a.size = .fault f b → Completes s (mk o) fun t => Local s t c k
            ∧ t.ops = s.ops ∧ ∃ g', t.group? c k = some g' ∧ Raised g g' (active g) (faultEvent g f side 0 b))
        ∧ (local? = none → ∀ ps, s.translateGroup c g side a.loc a.size = .ok ps →
          (∀ w, s.engineWait c g = some w → waits w)
          ∧ (s.engineWait c g = none → a.size = 0 → isSig = false → Completes s (mk o) fun t => Local s t c k ∧ t.ops = s.ops
              ∧ t.nextOp = s.nextOp + 1 ∧ t.group? c k = some { g with copies := counted g.copies s.nextOp true })
          ∧ (s.engineWait c g = none → (a.size ≠ 0 ∨ isSig = true) →
            let ls := fabLatches s c g opcode a
            (s.latchesOk ls = false → waits (.latch ls))
            ∧ (s.latchesOk ls = true → ∀ line, s.routeHeld vd (fabRank a.fab) = some line → waits (.line line))
            ∧ (s.latchesOk ls = true → s.routeHeld vd (fabRank a.fab) = none → isGet = false → ∀ line, s.lockedIn ps = some line →
                waits (.line line))
            ∧ (s.latchesOk ls = true → s.routeHeld vd (fabRank a.fab) = none → (isGet = true ∨ s.lockedIn ps = none) →
              Completes s (mk o) fun t =>
                Issued s t c k g (.fabric opcode a.fab (a.fab.extractLsb' 48 16).toNat a.loc a.size (a.signal opcode)) .copies
                  (ps.map (·.page)).eraseDups ls []
                ∧ Sent s t vd (fabSent s g opcode a ps))))) := by
  intro isGet isSig a vd d sigBytes local? side waits illegal aligned
  have hside : (if opcode = 0x12 then Access.store else Access.load) = side := by
    by_cases h : opcode = 0x12 <;> simp [side, isGet, h]
  have hlocal : localBad (if opcode = 0x12 then .store else .load) a.loc a.size = local? := by
    rw [hside]
  refine ⟨fun h => ?_, fun hlegal hno => ?_, fun hlegal hal hfar => ?_, fun hlegal hal hnear hsig hfar => ?_, fun hlegal hal hnear hsig => ?_⟩
  · exact (hexec o s).trans (fabricOp_of_illegal hrun ⟨opcode, kind, unit⟩ o h)
  · obtain ⟨info, addr, hmis⟩ := misaligned_of_not_aligned (kind := kind) hno
    refine ⟨info, addr, _, (hexec o s).trans (fabricOp_of_raise hrun ⟨opcode, kind, unit⟩ o hlegal (e := .trap .alignment info addr) ?_),
      raised_trapEvent ..⟩
    rw [hmis]
    rfl
  · refine ⟨_, (hexec o s).trans (fabricOp_of_raise hrun ⟨opcode, kind, unit⟩ o hlegal (e := fabricFault kind a.fab) ?_), raised_faultEvent ..⟩
    rw [misaligned_of_aligned hal, beyond_of_not_reach hfar]
    rfl
  · refine ⟨_, (hexec o s).trans (fabricOp_of_raise hrun ⟨opcode, kind, unit⟩ o hlegal (e := fabricFault kind a.sig) ?_), raised_faultEvent ..⟩
    rw [misaligned_of_aligned hal, beyond_of_not_reach_signal hnear hsig hfar]
    rfl
  have hclear (h : local? = none) : exec (mk o) s = .next (match s.translateGroup c g side a.loc a.size with
      | .miss ps => s.sendMisses c k vd ps
      | .fault e x => (s.usePages c vd [(a.loc, a.size)]).setGroup c k (g.raiseAll (e.raises side 0 x))
      | .ok ps => (s.usePages c vd [(a.loc, a.size)]).issueFab c k g ⟨opcode, kind, unit⟩ a ps) := by
    refine (hexec o s).trans ((fabricOp_of_clear hrun ⟨opcode, kind, unit⟩ o hlegal ?_).trans ?_)
    · rw [misaligned_of_aligned hal, beyond_of_reach hnear hsig, hlocal, h]
      rfl
    · simp only [hside]
      rfl
  have hpages := touched_usePages s c vd [(a.loc, a.size)]
  refine ⟨fun e he => ?_, fun hl ps hps => ?_, fun hl f b hf => ?_, fun hl ps hps => ?_⟩
  · refine ⟨_, (hexec o s).trans (fabricOp_of_raise hrun ⟨opcode, kind, unit⟩ o hlegal (e := e) ?_), raised_copyEvent ..⟩
    rw [misaligned_of_aligned hal, beyond_of_reach hnear hsig, hlocal, he]
    rfl
  · have hstep := hclear hl
    simp only [hps] at hstep
    exact ⟨_, hstep, fabWaits_of_misses hrun.2 ..⟩
  · have hstep := hclear hl
    simp only [hf] at hstep
    exact ⟨_, hstep, Local.trans (hpages.untouched.isLocal c k) (Local.setGroup ..), hpages.ops, _, group?_setGroup_self .., raised_faultEvent ..⟩
  · have hstep := hclear hl
    simp only [hps] at hstep
    refine ⟨fun w hw => ?_, fun hw hz hs => ?_, fun hw hsome => ?_⟩
    · exact ⟨_, hstep.trans (congrArg _ (issueFab_of_wait hpages c k g _ a ps hw)), fabWaits_of_touched hpages c k g w⟩
    · refine ⟨_, hstep.trans (congrArg _ (issueFab_of_empty hpages c k g _ a ps hw ⟨hz, of_decide_eq_false hs⟩)),
        Local.trans ((hpages.untouched.trans (untouched_newOp _)).isLocal c k) (Local.setGroup ..), hpages.ops, ?_, ?_⟩
      · exact congrArg (· + 1) hpages.nextOp
      · exact group?_setGroup_self ..
    · have hne : ¬ (a.size = 0 ∧ opcode ≠ 0x11) := fun hc => hsome.elim (fun h => h hc.1) fun h => hc.2 (of_decide_eq_true h)
      intro ls
      refine ⟨fun hlat => ?_, fun hlat line hline => ?_, fun hlat hroute hget line hline => ?_, fun hlat hroute hfree => ?_⟩
      · exact ⟨_, hstep.trans (congrArg _ (issueFab_of_latched hpages c k g ⟨opcode, kind, unit⟩ a ps hw hne hlat)), fabWaits_of_touched hpages c k g _⟩
      · exact ⟨_, hstep.trans (congrArg _ (issueFab_of_route_held hpages c k g ⟨opcode, kind, unit⟩ a ps hw hne hlat hline)),
          fabWaits_of_touched hpages c k g _⟩
      · exact ⟨_, hstep.trans (congrArg _ (issueFab_of_source_held hpages c k g ⟨opcode, kind, unit⟩ a ps hw hne hlat hroute
          (of_decide_eq_false hget) hline)), fabWaits_of_touched hpages c k g _⟩
      · obtain ⟨s1, h1, heq⟩ := issueFab_of_ready hpages c k g ⟨opcode, kind, unit⟩ a ps hw hne hlat hroute (hfree.imp_left of_decide_eq_true)
        exact ⟨_, hstep.trans (congrArg _ heq), issued_sent h1 c k g _ _ hlat _⟩

/-! ## `winq` and `jfence` (R131, R356, R362, R363) -/

theorem winAdd_lt (w : Nat) (n : Int) : winAdd w n < 2 ^ 32 := by
  unfold winAdd winMod
  omega

/-- The lag as a register holds it: the difference of the windows modulo 2^32. -/
theorem windowLag_word (d : Device) (ptp : Nat) :
    BitVec.ofNat 32 (windowLag d ptp) =
      if ptp < d.wStart then 0
      else if winLe d.window (winAdd d.wFirst ((ptp - d.wStart) / d.wLen : Nat)) then
        BitVec.ofNat 32 (winAdd d.wFirst ((ptp - d.wStart) / d.wLen : Nat)) - BitVec.ofNat 32 d.window
      else 0 := by
  unfold windowLag
  split
  · rfl
  · dsimp only
    split
    · refine BitVec.eq_of_toNat_eq ?_
      have := winAdd_lt d.wFirst ((ptp - d.wStart) / d.wLen : Nat)
      simp only [BitVec.toNat_ofNat, BitVec.toNat_sub, winMod]
      omega
    · rfl

theorem execWinq_law (s : State) (c k : Nat) (g : Group) (r : BitVec 6) (hrun : Runs s c k g) :
    exec (.winq r) s = .next (s.setGroup c k
      ((g.setSreg r.toNat (BitVec.ofNat 32 (s.device (s.vdOf g)).window)).setSreg (r.toNat + 1)
        (BitVec.ofNat 32 (windowLag (s.device (s.vdOf g)) s.ptp)))) :=
  asGroup_runs hrun _

theorem raiseRemote_of_none {g : Group} (h : g.remote = none) : g.raiseRemote = g := by
  unfold Group.raiseRemote
  rw [h]

theorem raiseRemote_of_some {g : Group} {r : RemoteFault} (h : g.remote = some r) : g.raiseRemote = g.raiseAll (.trap .remote r.info r.addr) := by
  unfold Group.raiseRemote
  rw [h]

theorem winAdd_two (w : Nat) : winAdd w 2 = (w + 2) % 2 ^ 32 := by
  unfold winAdd winMod
  omega

section
variable {s : State} {c k : Nat} {g : Group} (hrun : Runs s c k g)
include hrun

theorem execJfence_of_waits {w : Wait} (hw : s.releaseHold c g true true = some w) :
    exec .jfence s = .next (s.setGroup c k (g.waitOn w)) := by
  refine (asGroup_runs hrun _).trans (congrArg _ ?_)
  simp only [hw]

variable (hready : s.releaseHold c g true true = none)
include hready

theorem execJfence_of_first (h : g.stage = 0) :
    exec .jfence s = .next ((s.withCore c Core.l1Clear).setGroup c k
      ({ g with fenced := g.fenced ||| g.clause.active, stage := winAdd (s.device (s.vdOf g)).window 2 + 1 }.waitOn
        (.fence (winAdd (s.device (s.vdOf g)).window 2)))) := by
  refine (asGroup_runs hrun _).trans (congrArg _ ?_)
  simp only [hready, h]

theorem execJfence_of_early {m : Nat} (h : g.stage = m + 1) (hm : winLe m (s.device (s.vdOf g)).window = false) :
    exec .jfence s = .next (s.setGroup c k (g.waitOn (.fence m))) := by
  refine (asGroup_runs hrun _).trans (congrArg _ ?_)
  simp only [hready, h, hm, Bool.false_eq_true, if_false]

theorem execJfence_of_due {m : Nat} (h : g.stage = m + 1) (hm : winLe m (s.device (s.vdOf g)).window = true) :
    exec .jfence s = .next ((s.withCore c Core.l1Clear).setGroup c k { g with fenced := g.fenced ||| g.clause.active }.raiseRemote) := by
  refine (asGroup_runs hrun _).trans (congrArg _ ?_)
  simp only [hready, h, hm, if_true]

end

theorem execJfence_law (s : State) (c k : Nat) (g : Group) (hrun : Runs s c k g) :
    let cur := (s.device (s.vdOf g)).window
    let bare : State := s.withCore c fun x => { x with l1 := [] }
    let waits (g0 : Group) (m : Nat) : Group := { g0 with phase := .waiting, wait := some (.fence m), clause := { g.clause with redo := true } }
    let ready : Prop := g.loads = [] ∧ g.stores = [] ∧ CoreQuiet s c True
    let g1 : Group := { g with fenced := g.fenced ||| g.clause.active }
    (¬ ready → WaitsAgain s c k g .jfence)
    ∧ (ready → g.stage = 0 →
        exec .jfence s = .next (bare.setGroup c k (waits { g1 with stage := (cur + 2) % 2 ^ 32 + 1 } ((cur + 2) % 2 ^ 32))))
    ∧ (ready → ∀ m, g.stage = m + 1 → winLe m cur = false → exec .jfence s = .next (s.setGroup c k (waits g m)))
    ∧ (ready → ∀ m, g.stage = m + 1 → winLe m cur = true →
        (g.remote = none → exec .jfence s = .next (bare.setGroup c k g1))
        ∧ ∀ r, g.remote = some r → ∃ g', exec .jfence s = .next (bare.setGroup c k g')
            ∧ Raised g1 g' (active g) (trapEvent g .remote r.info r.addr g.clause.idx (g.clause.idx + g.clause.len))) := by
  intro cur bare waits ready g1
  have hiff : s.releaseHold c g true true = none ↔ ready := by
    rw [releaseHold_eq_none]
    simp only [ready, and_self, forall_const]
  refine ⟨fun hno => ?_, fun hr h0 => ?_, fun hr m hm hearly => execJfence_of_early hrun (hiff.2 hr) hm hearly, fun hr m hm hdue => ⟨fun hnone => ?_,
    fun r hsome => ?_⟩⟩
  · obtain ⟨w, hw⟩ := Option.ne_none_iff_exists'.1 (mt hiff.1 hno)
    exact waitsAgain_waitOn (execJfence_of_waits hrun hw)
  · have h := execJfence_of_first hrun (hiff.2 hr) h0
    rw [winAdd_two] at h
    exact h
  · refine (execJfence_of_due hrun (hiff.2 hr) hm hdue).trans ?_
    rw [raiseRemote_of_none (g := g1) hnone]
    rfl
  · refine ⟨_, (execJfence_of_due hrun (hiff.2 hr) hm hdue).trans ?_, raised_raiseAll g1 (.trap .remote r.info r.addr) fun l _ _ =>
      trapEvent_eq g .remote r.info r.addr l⟩
    rw [raiseRemote_of_some (g := g1) hsome]
    rfl

/-- Settles O35: the six data instructions by one law, then `winq` and `jfence`. -/
theorem fabricInstructions : Obligations.FabricInstructions := by
  refine ⟨?_, fun s c k g r hrun => ?_, execJfence_law⟩
  · intro law
    have hlaw {mk : FabricOp → Instr} {opcode : Nat} {kind : Access} {unit : Nat}
        (hexec : ∀ o s, exec (mk o) s = Machine.fabricOp ⟨opcode, kind, unit⟩ o s) : law mk opcode kind unit := by
      intro s c k g o hrun
      have h := fabricOp_law hexec hrun o
      simp only [fab_illegal_iff, fabRank_eq, signal_eq] at h
      exact h
    exact ⟨hlaw fun _ _ => rfl, hlaw fun _ _ => rfl, hlaw fun _ _ => rfl, hlaw fun _ _ => rfl, hlaw fun _ _ => rfl, hlaw fun _ _ => rfl⟩
  · refine ⟨_, execWinq_law s c k g r hrun, ?_⟩
    rw [windowLag_word]
    rfl

end Sys2Proof.Laws
end

section
/-! What a write at a home writes, and what it leaves unchanged (spec/02 and /03, R55, R66, R79, R92, R96). -/

namespace Sys2Proof.Laws

open Sys2Proof Sys2Proof.Machine Sys2Proof.Claim

/-! ## What a write at a home leaves unchanged (R55, R66, R79, R92, R96) -/

/-- A group in which at most key registers, the transaction, lanes and the wait are changed. -/
def GroupKept (g g' : Group) : Prop :=
  ∃ K T X L W, g' = { g with keys := K, tx := T, txs := X, lanes := L, wait := W }

theorem GroupKept.refl (g : Group) : GroupKept g g := ⟨_, _, _, _, _, rfl⟩

theorem GroupKept.trans {g h i : Group} (h1 : GroupKept g h) (h2 : GroupKept h i) : GroupKept g i := by
  obtain ⟨K, T, X, L, W, rfl⟩ := h1
  obtain ⟨K', T', X', L', W', rfl⟩ := h2
  exact ⟨K', T', X', L', W', rfl⟩

/-- The home writes memory and versions, and may revoke keys and fire wards. -/
structure HomeFrame (s t : State) : Prop where
  eq : ∃ m h p r q d l c e n i, t = { s with
    mem := m, host := h, poisoned := p, versions := r, partitions := q, devices := d, launches := l, cores := c, dies := e, slices := n
    hinges := i }
  core : ∀ c, ∃ G Y, t.core c = { s.core c with groups := G, gangs := Y }
  group : ∀ c k, (s.group? c k = none → t.group? c k = none) ∧ ∀ g, s.group? c k = some g → ∃ g', t.group? c k = some g' ∧ GroupKept g g'
  device : ∀ v, ∃ b k z, t.device v = { s.device v with bytes := b, ckpt := k, ckStatus := z }
  launch : ∀ n, ∃ z, t.launches.look n = (s.launches.look n).map fun l => { l with snap := z }

namespace HomeFrame

theorem refl (s : State) : HomeFrame s s :=
  ⟨⟨_, _, _, _, _, _, _, _, _, _, _, rfl⟩, fun _ => ⟨_, _, rfl⟩, fun _ _ => ⟨id, fun g h => ⟨g, h, .refl g⟩⟩, fun _ => ⟨_, _, _, rfl⟩,
    fun n => by
      cases h : s.launches.look n with
      | none => exact ⟨none, rfl⟩
      | some l => exact ⟨l.snap, rfl⟩⟩

theorem trans {s t u : State} (h1 : HomeFrame s t) (h2 : HomeFrame t u) : HomeFrame s u := by
  refine ⟨?_, fun c => ?_, fun c k => ⟨fun h => ?_, fun g h => ?_⟩, fun v => ?_, fun n => ?_⟩
  · obtain ⟨m, h, p, r, q, d, l, c, e, n, i, he⟩ := h1.eq
    obtain ⟨m', h', p', r', q', d', l', c', e', n', i', he'⟩ := h2.eq
    exact ⟨m', h', p', r', q', d', l', c', e', n', i', by rw [he', he]⟩
  · obtain ⟨G, Y, hc⟩ := h1.core c
    obtain ⟨G', Y', hc'⟩ := h2.core c
    exact ⟨G', Y', by rw [hc', hc]⟩
  · exact (h2.group c k).1 ((h1.group c k).1 h)
  · obtain ⟨g1, hg1, hk1⟩ := (h1.group c k).2 g h
    obtain ⟨g2, hg2, hk2⟩ := (h2.group c k).2 g1 hg1
    exact ⟨g2, hg2, hk1.trans hk2⟩
  · obtain ⟨b, k, z, hd⟩ := h1.device v
    obtain ⟨b', k', z', hd'⟩ := h2.device v
    exact ⟨b', k', z', by rw [hd', hd]⟩
  · obtain ⟨z, hl⟩ := h1.launch n
    obtain ⟨z', hl'⟩ := h2.launch n
    exact ⟨z', by rw [hl', hl, Option.map_map]; rfl⟩

theorem foldl {α : Type} {f : State → α → State} (h : ∀ s x, HomeFrame s (f s x)) (xs : List α) (s : State) : HomeFrame s (xs.foldl f s) := by
  induction xs generalizing s with
  | nil => exact refl s
  | cons x rest ih => exact (h s x).trans (ih (f s x))

/-- A change outside cores, devices and launches. -/
theorem of_eq {s t : State} (he : ∃ m h p r q e n i, t = { s with
    mem := m, host := h, poisoned := p, versions := r, partitions := q, dies := e, slices := n, hinges := i }) : HomeFrame s t := by
  obtain ⟨m, h, p, r, q, e, n, i, rfl⟩ := he
  obtain ⟨-, hc, hg, hd, hl⟩ := refl s
  exact ⟨⟨_, _, _, _, _, _, _, _, _, _, _, rfl⟩, hc, hg, hd, hl⟩

/-- A change of one group. -/
theorem withGroup (s : State) (c k : Nat) {f : Group → Group} (hf : ∀ g, GroupKept g (f g)) : HomeFrame s (s.withGroup c k f) := by
  obtain ⟨-, -, -, hd, hl⟩ := refl s
  have hlook : ∀ c' k', (s.withGroup c k f).group? c' k' = if c' = c ∧ k' = k then (s.group? c' k').map f else s.group? c' k' := by
    intro c' k'
    unfold State.withGroup State.withGroups State.group?
    rw [core_withCore]
    by_cases hc : c' = c
    · subst hc
      rw [if_pos rfl, Tab.look_change]
      by_cases hk : k' = k
      · simp [hk]
      · simp [hk]
    · simp [hc]
  refine ⟨⟨_, _, _, _, _, _, _, _, _, _, _, rfl⟩, fun c' => ?_, fun c' k' => ⟨fun h => ?_, fun g h => ?_⟩, hd, hl⟩
  · unfold State.withGroup State.withGroups
    rw [core_withCore]
    split
    · next h => subst h; exact ⟨_, _, rfl⟩
    · exact ⟨_, _, rfl⟩
  · rw [hlook, h]
    split <;> rfl
  · rw [hlook, h]
    split
    · exact ⟨f g, rfl, hf g⟩
    · exact ⟨g, rfl, .refl g⟩

end HomeFrame

/-! ### Budgets and caches -/

theorem homeFrame_charge (s : State) (vd n : Nat) : HomeFrame s (s.charge vd n) := by
  have h := touched_charge s vd n
  obtain ⟨-, hc, hg, -, hl⟩ := HomeFrame.refl s
  unfold State.charge at *
  split
  · rename_i hlim
    rw [if_pos hlim] at h
    refine ⟨⟨_, _, _, _, _, _, _, _, _, _, _, rfl⟩, hc, hg, fun v => ?_, hl⟩
    obtain ⟨b, hb⟩ := h.device v
    exact ⟨b, _, _, hb⟩
  · exact .refl s

theorem homeFrame_dropCopies (s : State) (line : Nat) (die : Option Nat) : HomeFrame s (s.dropCopies line die) :=
  .of_eq ⟨_, _, _, _, _, _, _, _, rfl⟩

theorem homeFrame_setTag (s : State) (line core : Nat) : HomeFrame s (s.setTag line core) := .of_eq ⟨_, _, _, _, _, _, _, _, rfl⟩

theorem homeFrame_putBytes (s : State) (bs : List (Nat × Byte)) : HomeFrame s (s.putBytes bs) := .of_eq ⟨_, _, _, _, _, _, _, _, rfl⟩

/-! ### Wards -/

theorem groupKept_freeHolds (g : Group) (ls : LaneSet) (p : Hold → Bool) : GroupKept g (g.freeHolds ls p) := by
  unfold Group.freeHolds
  generalize lanesOf ls = xs
  induction xs generalizing g with
  | nil => exact .refl g
  | cons l rest ih =>
    have h1 : GroupKept g (g.setLane l ((g.lane l).free p)) := ⟨_, _, _, _, _, rfl⟩
    exact h1.trans (ih _)

theorem homeFrame_wake (s : State) (line : Nat) (x : Waiter) : HomeFrame s (s.wake line x) := by
  cases x with
  | lanes c k => exact .withGroup s c k fun g => groupKept_freeHolds ..
  | group c k =>
    refine .withGroup s c k fun g => ?_
    split
    · exact ⟨_, _, _, _, _, rfl⟩
    · exact .refl g
  | channel h n => exact .of_eq ⟨_, _, _, _, _, _, _, _, rfl⟩

theorem homeFrame_fireWards (s : State) (line : Nat) : HomeFrame s (s.fireWards line) := by
  unfold State.fireWards
  dsimp only
  split
  · exact .refl s
  · refine HomeFrame.trans (t := s.withSlice (sliceOf line) fun x => { x with wards := x.wards.filter fun w => w.line != line })
      (.of_eq ⟨_, _, _, _, _, _, _, _, rfl⟩) (.foldl (fun s w => .foldl (fun s x => homeFrame_wake s line x) _ s) _ _)

/-! ### Versions -/

theorem groupKept_revoke (g : Group) (entry : Nat) : GroupKept g (g.revoke entry) := by
  have hdoom : ∀ g : Group, GroupKept g (g.doom 4) := by
    intro g
    unfold Group.doom
    split
    · exact .refl g
    · split
      · exact .refl g
      · exact ⟨_, _, _, _, _, rfl⟩
  have hkeys : GroupKept g { g with keys := g.keys.mapAll fun _ z => markRevoked entry z } := ⟨_, _, _, _, _, rfl⟩
  unfold Group.revoke
  dsimp only
  split
  · split
    · exact (hkeys.trans (hdoom _)).trans ⟨_, _, _, _, _, rfl⟩
    · exact hkeys
  · exact hkeys

theorem core_mapAllGroups (s : State) (f : Group → Group) (c : Nat) :
    ∃ Y, (s.mapAllGroups f).core c = { s.core c with groups := (s.core c).groups.mapAll fun _ g => f g, gangs := Y } := by
  unfold State.mapAllGroups State.core Tab.get
  dsimp only
  rw [Tab.look_mapAll]
  cases s.cores.look c with
  | none => exact ⟨_, rfl⟩
  | some x => exact ⟨_, rfl⟩

theorem group?_mapAllGroups (s : State) (f : Group → Group) (c k : Nat) : (s.mapAllGroups f).group? c k = (s.group? c k).map f := by
  obtain ⟨Y, h⟩ := core_mapAllGroups s f c
  unfold State.group?
  rw [h]
  exact Tab.look_mapAll (s.core c).groups (fun _ => f) k

theorem homeFrame_mapAllGroups (s : State) {f : Group → Group} (hf : ∀ g, GroupKept g (f g)) : HomeFrame s (s.mapAllGroups f) := by
  obtain ⟨-, -, -, hd, hl⟩ := HomeFrame.refl s
  refine ⟨⟨_, _, _, _, _, _, _, _, _, _, _, rfl⟩, fun c => ?_, fun c k => ⟨fun h => ?_, fun g h => ?_⟩, hd, hl⟩
  · obtain ⟨Y, h⟩ := core_mapAllGroups s f c
    exact ⟨_, Y, h⟩
  · rw [group?_mapAllGroups, h]
    rfl
  · rw [group?_mapAllGroups, h]
    exact ⟨f g, rfl, hf g⟩

/-- Changes of snapshot keys in launches, and of checkpoints in devices. -/
theorem homeFrame_maps (s : State) {fl : Nat → Launch → Launch} {fd : Nat → Device → Device}
    (hl : ∀ n l, ∃ z, fl n l = { l with snap := z }) (hd : ∀ v d, ∃ k z, fd v d = { d with ckpt := k, ckStatus := z }) :
    HomeFrame s { s with launches := s.launches.mapAll fl, devices := s.devices.mapAll fd } := by
  obtain ⟨-, hc, hg, -, -⟩ := HomeFrame.refl s
  refine ⟨⟨_, _, _, _, _, _, _, _, _, _, _, rfl⟩, hc, hg, fun v => ?_, fun n => ?_⟩
  · unfold State.device Tab.get
    dsimp only
    rw [Tab.look_mapAll]
    cases s.devices.look v with
    | none => exact ⟨_, _, _, rfl⟩
    | some d =>
      obtain ⟨k, z, h⟩ := hd v d
      exact ⟨d.bytes, k, z, h⟩
  · dsimp only
    rw [Tab.look_mapAll]
    cases s.launches.look n with
    | none => exact ⟨none, rfl⟩
    | some l =>
      obtain ⟨z, h⟩ := hl n l
      exact ⟨z, congrArg some h⟩

theorem homeFrame_revokeEntry (s : State) (part : Nat) (e : Nat × SnapEntry) : HomeFrame s (s.revokeEntry part e) := by
  unfold State.revokeEntry
  dsimp only
  refine HomeFrame.trans (homeFrame_mapAllGroups s fun g => ?_) (HomeFrame.trans (homeFrame_maps _ (fun n l => ?_) (fun v d => ?_))
    (.of_eq ⟨_, _, _, _, _, _, _, _, rfl⟩))
  · split
    · exact groupKept_revoke ..
    · exact .refl g
  · split
    · exact ⟨_, rfl⟩
    · exact ⟨l.snap, rfl⟩
  · split
    · split
      · exact ⟨_, _, rfl⟩
      · exact ⟨_, _, rfl⟩
    · exact ⟨_, _, rfl⟩

/-! ## The bytes that a write at a home writes (R55, R79, R81) -/

/-- The home changes versions, caches and wards, and no byte. -/
structure HomeQuiet (s t : State) : Prop where
  frame : HomeFrame s t
  mem : t.mem = s.mem
  host : t.host = s.host

namespace HomeQuiet

theorem refl (s : State) : HomeQuiet s s := ⟨.refl s, rfl, rfl⟩

theorem trans {s t u : State} (h1 : HomeQuiet s t) (h2 : HomeQuiet t u) : HomeQuiet s u :=
  ⟨h1.frame.trans h2.frame, h2.mem.trans h1.mem, h2.host.trans h1.host⟩

theorem foldl {α : Type} {f : State → α → State} (h : ∀ s x, HomeQuiet s (f s x)) (xs : List α) (s : State) : HomeQuiet s (xs.foldl f s) := by
  induction xs generalizing s with
  | nil => exact refl s
  | cons x rest ih => exact (h s x).trans (ih (f s x))

theorem of_frame {s t : State} (h : HomeFrame s t) (hm : t.mem = s.mem) (hh : t.host = s.host) : HomeQuiet s t := ⟨h, hm, hh⟩

/-- A change of versions and partitions. -/
theorem versions (s : State) (r : Tab VersionSet) (q : Tab Partition) : HomeQuiet s { s with versions := r, partitions := q } :=
  ⟨.of_eq ⟨_, _, _, _, _, _, _, _, rfl⟩, rfl, rfl⟩

end HomeQuiet

theorem homeQuiet_charge (s : State) (vd n : Nat) : HomeQuiet s (s.charge vd n) :=
  .of_frame (homeFrame_charge ..) (untouched_charge ..).mem (untouched_charge ..).host

theorem homeQuiet_wake (s : State) (line : Nat) (x : Waiter) : HomeQuiet s (s.wake line x) := by
  refine .of_frame (homeFrame_wake ..) ?_ ?_ <;> cases x <;> rfl

theorem homeQuiet_fireWards (s : State) (line : Nat) : HomeQuiet s (s.fireWards line) := by
  unfold State.fireWards
  dsimp only
  split
  · exact .refl s
  · have h1 : HomeQuiet s (s.withSlice (sliceOf line) fun x => { x with wards := x.wards.filter fun w => w.line != line }) :=
      .of_frame (.of_eq ⟨_, _, _, _, _, _, _, _, rfl⟩) rfl rfl
    exact h1.trans (.foldl (fun s w => .foldl (fun s x => homeQuiet_wake s line x) _ s) _ _)

theorem homeQuiet_revokeEntry (s : State) (part : Nat) (e : Nat × SnapEntry) : HomeQuiet s (s.revokeEntry part e) :=
  .of_frame (homeFrame_revokeEntry ..) rfl rfl

theorem homeQuiet_discardFor (s : State) (part line : Nat) : HomeQuiet s (s.discardFor part line) := by
  unfold State.discardFor
  split
  · exact .refl s
  · split
    · exact .refl s
    · exact .versions s ..

theorem homeQuiet_settleRecords (part c line fuel : Nat) (s : State) : HomeQuiet s (settleRecords part c line fuel s) := by
  induction fuel generalizing s with
  | zero =>
    unfold settleRecords
    split
    · exact .refl s
    · split
      · exact .versions s ..
      · exact homeQuiet_discardFor ..
  | succ n ih =>
    unfold settleRecords
    split
    · exact .refl s
    · split
      · exact .versions s ..
      · split
        · next m e hm _ =>
          obtain rfl : n = m := Nat.succ.inj hm
          exact ((homeQuiet_revokeEntry s part e).trans (.versions _ ..)).trans (ih _)
        · exact homeQuiet_discardFor ..

theorem homeQuiet_demote (s : State) (part c line : Nat) (stamp : Stamp) : HomeQuiet s (s.demote part c line stamp) := by
  unfold State.demote
  dsimp only
  split
  · exact .versions s ..
  · exact (HomeQuiet.versions s _ _).trans (homeQuiet_settleRecords ..)

theorem homeQuiet_versionFor (s : State) (vd : Nat) (carried : Option Nat) (line : Nat) : HomeQuiet s (s.versionFor vd carried line) := by
  unfold State.versionFor
  extract_lets d vs w1 wnew
  split
  · exact .refl s
  · exact homeQuiet_demote ..

/-- A write to a line at its home stores its bytes between two steps that change none. -/
theorem writeLine_spec (s : State) (w : Source) (line : Nat) (bs : List (Nat × Byte)) :
    HomeFrame s (s.writeLine w line bs) ∧ (s.writeLine w line bs).mem = writeList s.mem bs ∧ (s.writeLine w line bs).host = s.host := by
  unfold State.writeLine
  extract_lets s1 s3 s4
  have h1 : HomeQuiet s s1 := by
    unfold s1
    split
    · exact homeQuiet_versionFor ..
    · exact .refl s
  have h2 : HomeQuiet (s1.putBytes bs) s3 := .of_frame (homeFrame_dropCopies ..) rfl rfl
  have h3 : HomeQuiet s3 s4 := by
    unfold s4
    split
    · exact .of_frame (homeFrame_setTag ..) rfl rfl
    · exact .refl _
  have h4 : HomeQuiet s4 ((if line < hbmLines then s4.charge w.vd bs.length else s4).fireWards line) := by
    refine HomeQuiet.trans ?_ (homeQuiet_fireWards ..)
    split
    · exact homeQuiet_charge ..
    · exact .refl _
  have h := h2.trans (h3.trans h4)
  exact ⟨(h1.frame.trans (homeFrame_putBytes s1 bs)).trans h.frame, h.mem.trans (congrArg (writeList · bs) h1.mem), h.host.trans h1.host⟩

/-- The bytes of one line, in their order. -/
def bytesOfLine (bs : List (Nat × Byte)) (line : Nat) : List (Nat × Byte) := bs.filter fun b => lineOf b.1 == line

theorem writeLines_spec (w : Source) (bs : List (Nat × Byte)) (lines : List Nat) (s : State) :
    let t := lines.foldl (fun a line => a.writeLine w line (bytesOfLine bs line)) s
    HomeFrame s t ∧ t.mem = writeList s.mem (lines.flatMap (bytesOfLine bs)) ∧ t.host = s.host := by
  induction lines generalizing s with
  | nil => exact ⟨.refl s, rfl, rfl⟩
  | cons line rest ih =>
    obtain ⟨hf, hm, hh⟩ := writeLine_spec s w line (bytesOfLine bs line)
    obtain ⟨jf, jm, jh⟩ := ih (s.writeLine w line (bytesOfLine bs line))
    refine ⟨hf.trans jf, jm.trans ?_, jh.trans hh⟩
    rw [hm, List.flatMap_cons]
    exact List.foldl_append.symm

theorem homeFrame_writeMem (s : State) (w : Source) (tier : Tier) (bs : List (Nat × Byte)) : HomeFrame s (s.writeMem w tier bs) := by
  cases tier with
  | host => exact .of_eq ⟨_, _, _, _, _, _, _, _, rfl⟩
  | hbm => exact (writeLines_spec w bs _ s).1
  | second => exact (writeLines_spec w bs _ s).1

/-! ## Bytes stored line by line (R55) -/

theorem nodup_eraseDups (l : List Nat) : l.eraseDups.Nodup := by
  induction hn : l.length using Nat.strong_induction_on generalizing l with
  | h n ih =>
    cases l with
    | nil => exact List.nodup_nil
    | cons x xs =>
      subst hn
      rw [List.eraseDups_cons, List.nodup_cons]
      have hle : (xs.filter fun b => !b == x).length ≤ xs.length := List.length_filter_le ..
      exact ⟨by simp, ih _ (Nat.lt_succ_of_le hle) _ rfl⟩

theorem flatMap_ite_eq {α : Type} (l : List Nat) (hl : l.Nodup) (y : Nat) (zs : List α) :
    (l.flatMap fun x => if x = y then zs else []) = if y ∈ l then zs else [] := by
  induction l with
  | nil => rfl
  | cons x rest ih =>
    obtain ⟨hx, hrest⟩ := List.nodup_cons.1 hl
    rw [List.flatMap_cons, ih hrest]
    by_cases h : x = y
    · subst h
      simp [hx]
    · have h' : ¬ y = x := fun e => h e.symm
      simp [h, h']

theorem afterBytes_eq_filter (old : Nat → Byte) (bs : List (Nat × Byte)) (a : Nat) :
    afterBytes old bs a = (((bs.filter fun b => b.1 == a).getLast?).map (·.2)).getD (old a) := by
  unfold afterBytes
  rw [← List.head?_reverse, ← List.filter_reverse, List.head?_filter]

theorem afterBytes_congr {old old' : Nat → Byte} {bs bs' : List (Nat × Byte)} {a : Nat} (ho : old a = old' a)
    (h : (bs.filter fun b => b.1 == a) = bs'.filter fun b => b.1 == a) : afterBytes old bs a = afterBytes old' bs' a := by
  rw [afterBytes_eq_filter, afterBytes_eq_filter, h, ho]

/-- Of the bytes at one address, a single line has all. -/
theorem filter_bytesOfLine (bs : List (Nat × Byte)) (line a : Nat) :
    ((bytesOfLine bs line).filter fun b => b.1 == a) = if line = lineOf a then bs.filter fun b => b.1 == a else [] := by
  unfold bytesOfLine
  rw [List.filter_filter]
  split
  · next h =>
    refine List.filter_congr fun b _ => ?_
    by_cases hb : b.1 = a
    · simp [hb, h]
    · simp [hb]
  · next h =>
    refine List.filter_eq_nil_iff.2 fun b _ => ?_
    by_cases hb : b.1 = a
    · subst hb
      simpa using fun e : lineOf b.1 = line => h e.symm
    · simp [hb]

theorem filter_byLine (bs : List (Nat × Byte)) (a : Nat) :
    (((linesOf (bs.map (·.1))).flatMap (bytesOfLine bs)).filter fun b => b.1 == a) = bs.filter fun b => b.1 == a := by
  rw [List.filter_flatMap, funext fun line => filter_bytesOfLine bs line a, flatMap_ite_eq (linesOf _) (nodup_eraseDups _)]
  split
  · rfl
  · next h =>
    refine (List.filter_eq_nil_iff.2 fun b hb hba => h ?_).symm
    rw [beq_iff_eq] at hba
    simp only [linesOf, List.mem_eraseDups, List.mem_map]
    exact ⟨b.1, ⟨b, hb, rfl⟩, congrArg lineOf hba⟩

theorem afterBytes_snoc (old : Nat → Byte) (bs : List (Nat × Byte)) (b : Nat × Byte) (a : Nat) :
    afterBytes old (bs ++ [b]) a = if b.1 = a then b.2 else afterBytes old bs a := by
  unfold afterBytes
  rw [List.reverse_append, List.reverse_singleton, List.singleton_append, List.find?_cons]
  by_cases h : b.1 = a
  · simp [h]
  · simp [h, beq_eq_false_iff_ne.2 h]

theorem read_writeList (bs : List (Nat × Byte)) {m : Memory} (hm : m.wf = true) :
    (writeList m bs).wf = true ∧ ∀ a, (writeList m bs).read a = afterBytes m.read bs a := by
  induction bs using List.reverseRecOn with
  | nil => exact ⟨hm, fun a => rfl⟩
  | append_singleton bs b ih =>
    obtain ⟨hwf, hread⟩ := ih
    have hcons : writeList m (bs ++ [b]) = (writeList m bs).write b.1 b.2 := List.foldl_append
    rw [hcons]
    refine ⟨Memory.wf_write _ _ _ hwf, fun a => ?_⟩
    rw [afterBytes_snoc]
    split
    · next h => rw [← h, Memory.read_write_self _ _ _ hwf]
    · next h => rw [Memory.read_write_ne _ _ _ _ fun e => h e.symm, hread]

theorem writeMem_module (s : State) (w : Source) (bs : List (Nat × Byte)) {tier : Tier} (h : tier ≠ .host) :
    s.writeMem w tier bs = (linesOf (bs.map (·.1))).foldl (fun a line => a.writeLine w line (bytesOfLine bs line)) s := by
  cases tier with
  | host => exact absurd rfl h
  | hbm => rfl
  | second => rfl

theorem wf_writeMem (s : State) (w : Source) (tier : Tier) (bs : List (Nat × Byte)) (hm : s.mem.wf = true) (hh : s.host.wf = true) :
    (s.writeMem w tier bs).mem.wf = true ∧ (s.writeMem w tier bs).host.wf = true := by
  by_cases h : tier = .host
  · subst h
    exact ⟨hm, (read_writeList bs hh).1⟩
  · obtain ⟨-, hmem, hhost⟩ := writeLines_spec w bs (linesOf (bs.map (·.1))) s
    rw [writeMem_module s w bs h, hmem, hhost]
    exact ⟨(read_writeList _ hm).1, hh⟩

theorem store_writeMem (s : State) (w : Source) (tier : Tier) (bs : List (Nat × Byte)) : (s.writeMem w tier bs).store = s.store := by
  obtain ⟨m, h, p, r, q, d, l, c, e, n, i, he⟩ := (homeFrame_writeMem s w tier bs).eq
  rw [he]

/-- A write of bytes at the home stores them, and no other byte is changed. -/
theorem stored_writeMem (s : State) (w : Source) (tier : Tier) (bs : List (Nat × Byte)) (hm : tier ≠ .host → s.mem.wf = true)
    (hh : tier = .host → s.host.wf = true) : Stored s (s.writeMem w tier bs) tier bs := by
  have hstore := store_writeMem s w tier bs
  by_cases h : tier = .host
  · subst h
    exact fun a => ⟨(read_writeList bs (hh rfl)).2 a, rfl, congrArg (Memory.read · a) hstore⟩
  · obtain ⟨-, hmem, hhost⟩ := writeLines_spec w bs (linesOf (bs.map (·.1))) s
    rw [← writeMem_module s w bs h] at hmem hhost
    have hread : ∀ a, (s.writeMem w tier bs).mem.read a = afterBytes s.mem.read bs a ∧ (s.writeMem w tier bs).host.read a = s.host.read a
        ∧ (s.writeMem w tier bs).store.read a = s.store.read a := fun a =>
      ⟨by rw [hmem, (read_writeList _ (hm h)).2, afterBytes_congr rfl (filter_byLine bs a)], by rw [hhost], by rw [hstore]⟩
    cases tier with
    | host => exact absurd rfl h
    | hbm => exact hread
    | second => exact hread

end Sys2Proof.Laws
end

section
/-! O46: loads, stores, walks, homes, fills, the host and the collector (spec/01 to /04). -/

namespace Sys2Proof.Laws

open Sys2Proof Sys2Proof.Machine Sys2Proof.Claim

/-! ## The object of an event -/

theorem object_of {s : State} {a b c : Nat} (h : OfObject s a b c) : s.object = (a, b, c) := by
  unfold State.object
  rw [show s.actor = .object a b c from h]

/-! ## The return of loads (R118) -/

/-- The entries of a counter's queue once an operation is complete (R118). -/
def retired (l : List Counted) (op : Nat) : List Counted :=
  (l.map fun x => if x.op = op then { x with done := true } else x).dropWhile (·.done)

theorem retire_map (l : List Counted) (op : Nat) :
    retire (l.map fun x => if x.op == op then { x with done := true } else x) = retired l op := by
  simp only [retire, retired, beq_iff_eq]

theorem loadReady1_of {s : State} {c op : Nat} {g : Group} (hload : ∃ x ∈ g.loads, x.op = op ∧ x.done = false)
    (hreq : ∀ r ∈ s.requests, r.ofOp op = false) (hlines : ∀ line ∈ g.asked.get op [], s.asking (dieOf c) line = false)
    (hq : ∀ ts, g.wait = some (.queues ts) → ∀ x ∈ ts, x.2 ≤ (s.core x.1).accepted) (hop : ∀ b ts, g.wait ≠ some (.op op b ts)) :
    s.loadReady1 c g op = true := by
  obtain ⟨x, hx, hxop, hdone⟩ := hload
  unfold State.loadReady1
  rw [Bool.and_eq_true, Bool.and_eq_true, Bool.and_eq_true]
  refine ⟨⟨⟨?_, ?_⟩, ?_⟩, ?_⟩
  · exact List.any_eq_true.2 ⟨x, hx, by simp [hxop, hdone]⟩
  · rw [Bool.not_eq_true', List.any_eq_false]
    exact fun r hr => by simp [hreq r hr]
  · exact List.all_eq_true.2 fun line hl => by simp [hlines line hl]
  · split
    · next ts h => exact List.all_eq_true.2 fun y hy => by simpa using hq ts h y hy
    · next id b ts h =>
      rw [bne_iff_ne]
      rintro rfl
      exact hop b ts h
    · rfl

theorem loadDataReturn_spec : ∀ s c k op g, OfObject s c k op → s.group? c k = some g → (∃ x ∈ g.loads, x.op = op ∧ x.done = false) →
    (∀ r ∈ s.requests, r.ofOp op = false) → (∀ line ∈ g.asked.get op [], s.asking (dieOf c) line = false) →
    (∀ ts, g.wait = some (.queues ts) → ∀ x ∈ ts, x.2 ≤ (s.core x.1).accepted) → (∀ b ts, g.wait ≠ some (.op op b ts)) →
    exec .loadDataReturn s = .next (s.setGroup c k { g with
      vregs := (g.pend.filter fun p => p.op == op).foldl (fun m p => m.put p.key p.val) g.vregs,
      pend := g.pend.filter fun p => p.op != op,
      asked := g.asked.del op,
      loads := (g.loads.map fun x => if x.op = op then { x with done := true } else x).dropWhile (·.done) }) := by
  intro s c k op g hobj hg hload hreq hlines hq hop
  change execLoadDataReturn s = _
  unfold execLoadDataReturn
  rw [object_of hobj]
  dsimp only
  rw [hg]
  dsimp only
  rw [if_pos (loadReady1_of hload hreq hlines hq hop)]
  have : (g.deliver op).finish .loads op = { g.deliver op with loads := retired g.loads op } := by
    rw [← retire_map]
    rfl
  rw [this]
  rfl

/-! ## The acceptance of stores (R55, R113, R118) -/

theorem owns_iff (d : Die) (line : Nat) : d.owns line = true ↔ ∃ x ∈ d.l2.get (l2Set line) [], x.line = line ∧ x.own = true := by
  unfold Die.owns
  simp [List.any_eq_true]

theorem mem_linesOf {as : List Nat} {line : Nat} : line ∈ linesOf as ↔ ∃ a ∈ as, a / 128 = line := by
  simp only [linesOf, List.mem_eraseDups, List.mem_map]
  rfl

theorem mem_linesOf_bytes {bs : List (Nat × Byte)} {line : Nat} : line ∈ linesOf (bs.map (·.1)) ↔ ∃ b ∈ bs, b.1 / 128 = line := by
  rw [mem_linesOf]
  simp

theorem direct_iff (e : StoreEntry) : e.direct = true ↔ e.tier = .host ∨ e.ver = true := by simp [StoreEntry.direct]

theorem lacks_eq_none {e : StoreEntry} {d : Die} :
    e.lacks d = none ↔ e.tier = .host ∨ e.ver = true ∨ ∀ b ∈ e.bytes, d.owns (b.1 / 128) = true := by
  unfold StoreEntry.lacks
  rw [← or_assoc, ← direct_iff]
  split
  · next h => simp [h]
  · next h =>
    simp only [h, Bool.false_eq_true, false_or, List.find?_eq_none, mem_linesOf_bytes]
    refine ⟨fun H b hb => by simpa using H _ ⟨b, hb, rfl⟩, ?_⟩
    rintro H _ ⟨b, hb, rfl⟩
    simpa using H b hb

theorem lacks_some {e : StoreEntry} {d : Die} {line : Nat} (h : e.lacks d = some line) : ∃ b ∈ e.bytes, b.1 / 128 = line ∧ d.owns line = false := by
  unfold StoreEntry.lacks at h
  split at h
  · cases h
  · obtain ⟨b, hb, hl⟩ := mem_linesOf_bytes.1 (List.mem_of_find?_eq_some h)
    exact ⟨b, hb, hl, by simpa using List.find?_some h⟩

/-- A store that has to wait for a locked line. -/
theorem storeLocked_iff (s : State) (e : StoreEntry) :
    (e.tier != .host && (linesOf (e.bytes.map (·.1))).any s.locked) = false ↔ e.tier = .host ∨ ∀ b ∈ e.bytes, s.locked (b.1 / 128) = false := by
  rw [Bool.and_eq_false_iff]
  simp only [bne_eq_false_iff_eq, List.any_eq_false, mem_linesOf_bytes, Bool.not_eq_true]
  refine or_congr_right ⟨fun h b hb => h _ ⟨b, hb, rfl⟩, ?_⟩
  rintro h _ ⟨b, hb, rfl⟩
  exact h b hb

/-! ### An accepted store -/

/-- Only the uses of L2 lines are ordered anew. -/
def DiesOnly (s t : State) : Prop := ∃ e, t = { s with dies := e }

theorem diesOnly_touchL2s (die : Nat) (ef : Bool) (lines : List Nat) (s : State) :
    DiesOnly s (lines.foldl (fun a line => a.touchL2 die line ef) s) := by
  induction lines generalizing s with
  | nil => exact ⟨_, rfl⟩
  | cons line rest ih =>
    have h1 : DiesOnly s (s.touchL2 die line ef) := by
      unfold State.touchL2
      split
      · exact ⟨_, rfl⟩
      · exact ⟨_, rfl⟩
    obtain ⟨e, he⟩ := h1
    obtain ⟨e', he'⟩ := ih (s.touchL2 die line ef)
    exact ⟨e', by rw [List.foldl_cons, he', he]⟩

/-- The writer of an accepted store (R55, R79, R115). -/
def storeSource (c : Nat) (e : StoreEntry) : Source :=
  { vd := e.vd, carried := none, ver := e.ver, die := if e.direct then none else some (dieOf c), release := if e.rel then some c else none }

/-- The queue of a core without its oldest store. -/
def State.unqueue (s : State) (c : Nat) (rest : List StoreEntry) : State :=
  s.withCore c fun x => { x with stores := rest, accepted := x.accepted + 1 }

theorem acceptStore_eq (s : State) (c : Nat) (e : StoreEntry) (rest : List StoreEntry) :
    ∃ t, DiesOnly ((State.unqueue s c rest).writeMem (storeSource c e) e.tier e.bytes) t
      ∧ s.acceptStore c e rest = if rest.any fun y => y.op == e.op then t else t.withCore c fun x => x.finishStore e.slot e.op := by
  let t := if e.direct then (State.unqueue s c rest).writeMem (storeSource c e) e.tier e.bytes
    else (linesOf (e.bytes.map (·.1))).foldl (fun a line => a.touchL2 (dieOf c) line e.ef)
      ((State.unqueue s c rest).writeMem (storeSource c e) e.tier e.bytes)
  refine ⟨t, ?_, rfl⟩
  unfold t
  split
  · exact ⟨_, rfl⟩
  · exact diesOnly_touchL2s ..

/-- Where a store completes, the state differs from the one before in groups and gangs of one core. -/
theorem core_finished (t : State) (c k op c' : Nat) (b : Prop) [Decidable b] :
    ∃ G Y, (if b then t else t.withCore c fun x => x.finishStore k op).core c' = { t.core c' with groups := G, gangs := Y } := by
  split
  · exact ⟨_, _, rfl⟩
  · rw [core_withCore]
    split
    · next h => subst h; exact ⟨_, _, rfl⟩
    · exact ⟨_, _, rfl⟩

theorem acceptStore_spec (s : State) (c : Nat) (e : StoreEntry) (rest : List StoreEntry) (hm : s.mem.wf = true) (hh : s.host.wf = true) :
    let t := s.acceptStore c e rest
    (t.core c).stores = rest ∧ (t.core c).accepted = (s.core c).accepted + 1 ∧ Stored s t e.tier e.bytes ∧ SameScratch s t
      ∧ ((∀ x ∈ rest, x.op ≠ e.op) → ∀ g, s.group? c e.slot = some g → ∃ g', t.group? c e.slot = some g'
          ∧ g'.stores = (g.stores.map fun x => if x.op = e.op then { x with done := true } else x).dropWhile (·.done)) := by
  obtain ⟨u, ⟨D, hu⟩, ht⟩ := acceptStore_eq s c e rest
  have hframe := homeFrame_writeMem (State.unqueue s c rest) (storeSource c e) e.tier e.bytes
  have hstored := stored_writeMem (State.unqueue s c rest) (storeSource c e) e.tier e.bytes (fun _ => hm) fun _ => hh
  have hcore : ∀ c', ∃ G Y, (s.acceptStore c e rest).core c' = { (State.unqueue s c rest).core c' with groups := G, gangs := Y } := by
    intro c'
    obtain ⟨G, Y, h1⟩ := core_finished u c e.slot e.op c' (rest.any fun y => y.op == e.op)
    obtain ⟨G', Y', h2⟩ := hframe.core c'
    have hsame : u.core c' = ((State.unqueue s c rest).writeMem (storeSource c e) e.tier e.bytes).core c' := by rw [hu]; rfl
    exact ⟨G, Y, by rw [ht, h1, hsame, h2]⟩
  have hself : (State.unqueue s c rest).core c = { s.core c with stores := rest, accepted := (s.core c).accepted + 1 } := core_withCore_self ..
  have hscratch : ∀ c', ((State.unqueue s c rest).core c').scratch = (s.core c').scratch := by
    intro c'
    unfold State.unqueue
    rw [core_withCore]
    split
    · next h => subst h; rfl
    · rfl
  obtain ⟨G, Y, hc⟩ := hcore c
  refine ⟨by rw [hc, hself], by rw [hc, hself], ?_, fun c' a => ?_, fun hlast g hg => ?_⟩
  · have hmem : (s.acceptStore c e rest).mem = ((State.unqueue s c rest).writeMem (storeSource c e) e.tier e.bytes).mem
        ∧ (s.acceptStore c e rest).host = ((State.unqueue s c rest).writeMem (storeSource c e) e.tier e.bytes).host
        ∧ (s.acceptStore c e rest).store = ((State.unqueue s c rest).writeMem (storeSource c e) e.tier e.bytes).store := by
      rw [ht, hu]
      split
      · exact ⟨rfl, rfl, rfl⟩
      · exact ⟨rfl, rfl, rfl⟩
    obtain ⟨h1, h2, h3⟩ := hmem
    unfold Stored at hstored ⊢
    rw [h1, h2, h3]
    exact hstored
  · obtain ⟨G, Y, hc⟩ := hcore c'
    rw [hc]
    exact congrArg (Memory.read · a) (hscratch c')
  · have hg0 : (State.unqueue s c rest).group? c e.slot = some g := by
      unfold State.group?
      rw [hself]
      exact hg
    obtain ⟨g1, hg1, K, T, X, L, W, rfl⟩ := (hframe.group c e.slot).2 g hg0
    have hg2 : u.group? c e.slot = some { g with keys := K, tx := T, txs := X, lanes := L, wait := W } := by rw [hu]; exact hg1
    refine ⟨({ g with keys := K, tx := T, txs := X, lanes := L, wait := W } : Group).finish .stores e.op, ?_, ?_⟩
    · rw [ht, if_neg]
      · unfold State.group?
        rw [core_withCore_self]
        refine (Tab.look_change ..).trans ?_
        rw [if_pos rfl]
        exact congrArg _ hg2
      · simpa using hlast
    · exact retire_map ..

theorem storeAccept_spec : ∀ s c y z e rest, OfObject s c y z → (s.core c).stores = e :: rest →
    let d := s.die (dieOf c)
    let owned (line : Nat) : Prop := ∃ x ∈ d.l2.get (l2Set line) [], x.line = line ∧ x.own = true
    let free : Prop := e.tier = .host ∨ ∀ b ∈ e.bytes, s.locked (b.1 / 128) = false
    let may : Prop := e.tier = .host ∨ e.ver = true ∨ ∀ b ∈ e.bytes, owned (b.1 / 128)
    (¬ free → exec .storeAccept s = .next s)
    ∧ (free → ¬ may → ∃ b ∈ e.bytes, ¬ owned (b.1 / 128) ∧ exec .storeAccept s = .next (
        if s.asking (dieOf c) (b.1 / 128) then s
        else { s with requests := s.requests ++ [
          { line := b.1 / 128, core := c, slot := e.slot, launch := e.launch, vd := e.vd,
            kind := .own (dieOf c) ((d.keeperFor e.vd e.va).map (·.1)) e.ef }] }))
    ∧ (free → may → s.mem.wf = true → s.host.wf = true → Completes s .storeAccept fun t =>
        (t.core c).stores = rest ∧ (t.core c).accepted = (s.core c).accepted + 1 ∧ Stored s t e.tier e.bytes ∧ SameScratch s t
        ∧ ((∀ x ∈ rest, x.op ≠ e.op) → ∀ g, s.group? c e.slot = some g → ∃ g', t.group? c e.slot = some g'
            ∧ g'.stores = (g.stores.map fun x => if x.op = e.op then { x with done := true } else x).dropWhile (·.done))) := by
  intro s c y z e rest hobj hstores d owned free may
  have hexec : exec .storeAccept s = if e.tier != .host && (linesOf (e.bytes.map (·.1))).any s.locked then .next s
      else .next (match e.lacks (s.die (dieOf c)) with
        | some line => s.wantOwn c e line
        | none => s.acceptStore c e rest) := by
    change execStoreAccept s = _
    unfold execStoreAccept
    rw [object_of hobj]
    dsimp only
    rw [hstores] <;> rfl
  have hfree : free → exec .storeAccept s = .next (match e.lacks (s.die (dieOf c)) with
      | some line => s.wantOwn c e line
      | none => s.acceptStore c e rest) := fun h => by
    rw [hexec, if_neg]
    rw [(storeLocked_iff s e).2 h]
    exact Bool.false_ne_true
  have hmay : e.lacks d = none ↔ may := by
    rw [lacks_eq_none]
    simp only [owns_iff, may, owned]
  refine ⟨fun h => ?_, fun h hno => ?_, fun h hyes hm hh => ?_⟩
  · rw [hexec, if_pos]
    refine Bool.not_eq_false _ |>.mp fun hf => h ((storeLocked_iff s e).1 hf)
  · obtain ⟨line, hline⟩ := Option.ne_none_iff_exists'.1 fun hnone => hno (hmay.1 hnone)
    obtain ⟨b, hb, rfl, hown⟩ := lacks_some hline
    refine ⟨b, hb, fun ho => ?_, ?_⟩
    · rw [(owns_iff ..).2 ho] at hown
      cases hown
    · rw [hfree h, hline]
      rfl
  · refine ⟨_, hfree h, ?_⟩
    rw [hmay.2 hyes]
    exact acceptStore_spec s c e rest hm hh

/-! ## What walks and reads at the home leave behind (R27, R29, R65, R412) -/

@[simp] theorem die_withDie_self (s : State) (d : Nat) (f : Die → Die) : (s.withDie d f).die d = f (s.die d) := Tab.get_put_self ..

theorem die_withDie_ne (s : State) {d d' : Nat} (f : Die → Die) (h : d' ≠ d) : (s.withDie d f).die d' = s.die d' :=
  Tab.get_put_ne _ _ _ _ _ h

/-- An agent has walked or read; of the dies only the caches of table entries show it. -/
structure WalkFrame (s t : State) : Prop where
  walked : Walked s t
  die : ∀ d, ∃ n, t.die d = { s.die d with nonleaf := n }

namespace WalkFrame

theorem refl (s : State) : WalkFrame s s := ⟨⟨⟨_, _, _, _, _, rfl⟩, fun _ => ⟨_, rfl⟩, fun _ => rfl⟩, fun _ => ⟨_, rfl⟩⟩

theorem trans {s t u : State} (h1 : WalkFrame s t) (h2 : WalkFrame t u) : WalkFrame s u := by
  refine ⟨⟨?_, fun v => ?_, fun n => (h2.walked.wards n).trans (h1.walked.wards n)⟩, fun d => ?_⟩
  · obtain ⟨a, b, c, d, e, h⟩ := h1.walked.rest
    obtain ⟨a', b', c', d', e', h'⟩ := h2.walked.rest
    exact ⟨a', b', c', d', e', by rw [h', h]⟩
  · obtain ⟨b, h⟩ := h1.walked.devices v
    obtain ⟨b', h'⟩ := h2.walked.devices v
    exact ⟨b', by rw [h', h]⟩
  · obtain ⟨n, h⟩ := h1.die d
    obtain ⟨n', h'⟩ := h2.die d
    exact ⟨n', by rw [h', h]⟩

theorem foldl {α : Type} {f : State → α → State} (h : ∀ s x, WalkFrame s (f s x)) (xs : List α) (s : State) : WalkFrame s (xs.foldl f s) := by
  induction xs generalizing s with
  | nil => exact refl s
  | cons x rest ih => exact (h s x).trans (ih (f s x))

/-- A change of a slice's lines, or of what is known of versioned pages. -/
theorem withSlice (s : State) (n : Nat) {f : Slice → Slice} (hf : (f (s.slice n)).wards = (s.slice n).wards) : WalkFrame s (s.withSlice n f) := by
  refine ⟨⟨⟨_, _, _, _, _, rfl⟩, fun _ => ⟨_, rfl⟩, fun m => ?_⟩, fun _ => ⟨_, rfl⟩⟩
  rw [slice_withSlice]
  split
  · next h => subst h; exact hf
  · rfl

section

variable {s t : State} (h : WalkFrame s t)
include h

theorem untouched : Untouched s t := by
  obtain ⟨a, b, c, d, e, rfl⟩ := h.walked.rest
  exact .of_eq rfl rfl rfl rfl

theorem cores : t.cores = s.cores := by
  obtain ⟨a, b, c, d, e, rfl⟩ := h.walked.rest
  rfl

theorem requests : t.requests = s.requests := by
  obtain ⟨a, b, c, d, e, rfl⟩ := h.walked.rest
  rfl

theorem sameMemory : SameMemory s t := fun a => by
  rw [h.untouched.mem, h.untouched.host, h.untouched.store]
  exact ⟨rfl, rfl, rfl⟩

end

end WalkFrame

theorem walkFrame_charge (s : State) (vd n : Nat) : WalkFrame s (s.charge vd n) := by
  have h := (touched_charge s vd n).device
  unfold State.charge at *
  split
  · next hlim =>
    rw [if_pos hlim] at h
    exact ⟨⟨⟨_, _, _, _, _, rfl⟩, h, fun _ => rfl⟩, fun _ => ⟨_, rfl⟩⟩
  · exact .refl s

theorem walkFrame_chargeLine (s : State) (vd line : Nat) : WalkFrame s (s.chargeLine vd line) := by
  unfold State.chargeLine
  split
  · exact walkFrame_charge ..
  · exact .refl s

theorem walkFrame_chargePieces (s : State) (vd : Nat) (ps : List Piece) : WalkFrame s (s.chargePieces vd ps) :=
  .foldl (fun s line => walkFrame_chargeLine s vd line) _ s

theorem walkFrame_chargeRead (s : State) (vd a n : Nat) : WalkFrame s (s.chargeRead vd a n) :=
  .foldl (fun s line => walkFrame_chargeLine s vd line) _ s

theorem walkFrame_fillLlc (s : State) (vd line : Nat) (tag : RelTag) (ef : Bool) : WalkFrame s (s.fillLlc vd line tag ef) := by
  unfold State.fillLlc
  extract_lets n set
  split
  · split
    · exact .refl s
    · exact .withSlice s n rfl
  · split
    · exact .refl s
    · exact .withSlice s n rfl

theorem walkFrame_nonleafFill (s : State) (d vd va : Nat) (ns : List (Nat × Tier × Nat)) :
    WalkFrame s (s.withDie d fun x => x.nonleafFill vd va ns) := by
  refine ⟨⟨⟨_, _, _, _, _, rfl⟩, fun _ => ⟨_, rfl⟩, fun _ => rfl⟩, fun d' => ?_⟩
  by_cases h : d' = d
  · subst h
    rw [die_withDie_self]
    exact ⟨_, rfl⟩
  · rw [die_withDie_ne s _ h]
    exact ⟨_, rfl⟩

theorem walkFrame_notePage (s : State) (vd : Nat) (p : Page) : WalkFrame s (s.notePage vd p) := by
  unfold State.notePage
  extract_lets x others apart first
  split
  · exact .refl s
  · exact ⟨⟨⟨_, _, _, _, _, rfl⟩, fun _ => ⟨_, rfl⟩, fun _ => rfl⟩, fun _ => ⟨_, rfl⟩⟩

theorem walkFrame_afterWalk (s : State) (die : Option Nat) (vd va : Nat) (w : Walk) : WalkFrame s (s.afterWalk die vd va w) := by
  unfold State.afterWalk
  extract_lets s1 s2
  have h1 : WalkFrame s s1 := .foldl (fun a line => (walkFrame_chargeLine a vd line).trans (walkFrame_fillLlc ..)) _ s
  have h2 : WalkFrame s s2 := by
    cases die with
    | none => exact h1
    | some d => exact h1.trans (walkFrame_nonleafFill ..)
  split
  · exact h2.trans (walkFrame_notePage ..)
  · exact h2

theorem walkFrame_agentWalks (s : State) (die : Option Nat) (vd va n : Nat) : WalkFrame s (s.agentWalks die vd va n) :=
  .foldl (fun a _ => walkFrame_afterWalk a die vd _ _) _ s

/-! ## The walkers of a die (R29, R30) -/

theorem nextMiss_of {ms before after : List Miss} {m : Miss} (hms : ms = before ++ m :: after)
    (hroom : (ms.filter (·.walking)).length < 16) (hm : m.walking = false)
    (hfree : ∀ x ∈ ms, x.walking = true → (x.vd, x.page / 16) ≠ (m.vd, m.page / 16))
    (hbefore : ∀ x ∈ before, x.walking = true ∨ ∃ y ∈ ms, y.walking = true ∧ (y.vd, y.page / 16) = (x.vd, x.page / 16)) :
    nextMiss ms = some m := by
  have hbusy : ∀ x : Miss, ((ms.filter (·.walking)).any fun w => w.region == x.region) = true ↔
      ∃ y ∈ ms, y.walking = true ∧ (y.vd, y.page / 16) = (x.vd, x.page / 16) := by
    intro x
    simp only [List.any_eq_true, List.mem_filter, beq_iff_eq, and_assoc]
    rfl
  unfold nextMiss
  dsimp only
  rw [if_neg (Nat.not_le.2 hroom)]
  refine List.find?_eq_some_iff_append.2 ⟨?_, before, after, hms, fun x hx => ?_⟩
  · rw [Bool.and_eq_true, Bool.not_eq_true', Bool.not_eq_true', hm]
    refine ⟨rfl, Bool.eq_false_iff.2 fun hb => ?_⟩
    obtain ⟨y, hy, hw, hr⟩ := (hbusy m).1 hb
    exact hfree y hy hw hr
  · rw [Bool.not_eq_true', Bool.and_eq_false_iff, Bool.not_eq_false', Bool.not_eq_false']
    exact (hbefore x hx).imp_right (hbusy x).2

theorem walkDispatch_spec : ∀ s d y z m before after, OfObject s d y z →
    let region (x : Miss) : Nat × Nat := (x.vd, x.page / 16)
    (s.die d).misses = before ++ m :: after → ((s.die d).misses.filter (·.walking)).length < 16 → m.walking = false →
    (∀ x ∈ (s.die d).misses, x.walking = true → region x ≠ region m) →
    (∀ x ∈ before, x.walking = true ∨ ∃ y ∈ (s.die d).misses, y.walking = true ∧ region y = region x) →
    exec .walkDispatch s = .next (s.withDie d fun x => { x with
      misses := x.misses.map fun y => if y = m then { y with walking := true } else y }) := by
  intro s d y z m before after hobj region hms hroom hm hfree hbefore
  change execWalkDispatch s = _
  unfold execWalkDispatch
  rw [object_of hobj]
  dsimp only
  rw [nextMiss_of hms hroom hm hfree hbefore]

/-! ### The end of a walk -/

theorem walkLocked_iff (s : State) (w : Walk) : s.walkLocked w = false ↔ ∀ a ∈ w.reads, s.locked (a / 128) = false := by
  unfold State.walkLocked
  simp only [List.any_eq_false, Bool.not_eq_true]
  rfl

theorem execWalkComplete_eq {s : State} {d i z : Nat} {m : Miss} (hobj : OfObject s d i z) (hi : (s.die d).misses[i]? = some m)
    (hm : m.walking = true) :
    exec .walkComplete s = if s.walkLocked (s.walkOn (some d) m.vd (m.page * 4096)) = true then .next s else .next (s.endWalk d m) := by
  change execWalkComplete s = _
  unfold execWalkComplete
  rw [object_of hobj]
  dsimp only
  rw [hi]
  dsimp only
  rw [hm]
  cases s.walkLocked (s.walkOn (some d) m.vd (m.page * 4096)) with
  | false => rfl
  | true => rfl

/-- The TLBs and the group of a core that waits for a walk are served. -/
def servePage (p : Page) (a : State) (y : Miss) : State :=
  (a.withCore y.core fun x => x.tlbFill { vd := y.vd, page := p }).giveWalk y (.page p)

theorem withGroup_groups (s : State) (c k c' : Nat) (f : Group → Group) : ∃ G, (s.withGroup c k f).core c' = { s.core c' with groups := G } := by
  unfold State.withGroup State.withGroups
  rw [core_withCore]
  split
  · next h => subst h; exact ⟨_, rfl⟩
  · exact ⟨_, rfl⟩

theorem core_servePage (p : Page) (a : State) (y : Miss) (c : Nat) : ∃ G, (servePage p a y).core c =
    { (if c = y.core then (a.core c).tlbFill { vd := y.vd, page := p } else a.core c) with groups := G } := by
  obtain ⟨G, h⟩ := withGroup_groups (a.withCore y.core fun x => x.tlbFill { vd := y.vd, page := p }) y.core y.slot c
    fun g => if (a.withCore y.core fun x => x.tlbFill { vd := y.vd, page := p }).vdOf g = y.vd ∧ g.wait = some .walk
      then { g with walked := g.walked.put y.page (.page p) } else g
  refine ⟨G, h.trans ?_⟩
  rw [core_withCore]
  split
  · next e => subst e; rfl
  · rfl

/-- The core's TLBs hold the page, and its scratchpad is as it was. -/
theorem servePages_spec (p : Page) (vd : Nat) (ys : List Miss) (hys : ∀ y ∈ ys, y.vd = vd) (a : State) :
    let t := ys.foldl (servePage p) a
    (∃ C, t = { a with cores := C }) ∧ (∀ c, (t.core c).scratch = (a.core c).scratch)
      ∧ ∀ c, (∃ y ∈ ys, y.core = c) ∨ (∃ es, (a.core c).tlb1 = ⟨vd, p⟩ :: es) → ∃ es, (t.core c).tlb1 = ⟨vd, p⟩ :: es := by
  induction ys generalizing a with
  | nil =>
    refine ⟨⟨_, rfl⟩, fun _ => rfl, fun c hc => ?_⟩
    rcases hc with ⟨y, hy, -⟩ | h
    · cases hy
    · exact h
  | cons y rest ih =>
    obtain ⟨⟨C, hC⟩, hscratch, htlb⟩ := ih (fun z hz => hys z (List.mem_cons_of_mem _ hz)) (servePage p a y)
    refine ⟨⟨C, hC⟩, fun c => (hscratch c).trans ?_, fun c hc => htlb c ?_⟩
    · obtain ⟨G, h⟩ := core_servePage p a y c
      rw [h]
      split
      · rfl
      · rfl
    · obtain ⟨G, h⟩ := core_servePage p a y c
      rw [h]
      by_cases hcy : c = y.core
      · rw [if_pos hcy, hys y List.mem_cons_self]
        exact Or.inr ⟨_, rfl⟩
      · rw [if_neg hcy]
        rcases hc with ⟨z, hz, hzc⟩ | he
        · rcases List.mem_cons.1 hz with rfl | hz
          · exact absurd hzc.symm hcy
          · exact Or.inl ⟨z, hz, hzc⟩
        · exact Or.inr he

theorem tlbLook_of_first {x : Core} {vd va : Nat} {p : Page} {es : List TlbEntry} (h : x.tlb1 = ⟨vd, p⟩ :: es) (hlo : p.base ≤ va)
    (hhi : va < p.base + p.size) : x.tlbLook vd va = some p := by
  have hc : (⟨vd, p⟩ : TlbEntry).covers vd va = true := by simp [TlbEntry.covers, hlo, hhi]
  unfold Core.tlbLook
  rw [h, List.find?_cons, hc]

/-- The misses of a page are those in its range. -/
def servedBy (vd : Nat) (p : Page) (x : Miss) : Bool := x.vd == vd && decide (p.base ≤ x.page * 4096 ∧ x.page * 4096 < p.base + p.size)

theorem endWalk_page {s : State} {d : Nat} {m : Miss} {p : Page} (hm : m ∈ (s.die d).misses)
    (hp : (s.walkOn (some d) m.vd (m.page * 4096)).result = .ok p) (hlo : p.base ≤ m.page * 4096) (hhi : m.page * 4096 < p.base + p.size) :
    let t := s.endWalk d m
    SameMemory s t ∧ SameScratch s t ∧ (t.core m.core).tlbLook m.vd (m.page * 4096) = some p
      ∧ (t.die d).misses = (s.die d).misses.filter fun x => !servedBy m.vd p x := by
  have hwalk := walkFrame_afterWalk s (some d) m.vd (m.page * 4096) (s.walkOn (some d) m.vd (m.page * 4096))
  generalize hs1 : s.afterWalk (some d) m.vd (m.page * 4096) (s.walkOn (some d) m.vd (m.page * 4096)) = s1 at hwalk
  obtain ⟨n, hdie⟩ := hwalk.die d
  have hmisses : (s1.die d).misses = (s.die d).misses := by rw [hdie]
  let s2 := s1.withDie d fun x => { x with misses := x.misses.filter fun y => !servedBy m.vd p y }
  have ht : s.endWalk d m = ((s1.die d).misses.filter (servedBy m.vd p)).foldl (servePage p) s2 := by
    unfold State.endWalk
    dsimp only
    rw [hs1, hp]
    rfl
  obtain ⟨⟨C, hC⟩, hscratch, htlb⟩ := servePages_spec p m.vd ((s1.die d).misses.filter (servedBy m.vd p))
    (fun y hy => by
      have h := (List.mem_filter.1 hy).2
      unfold servedBy at h
      rw [Bool.and_eq_true] at h
      exact beq_iff_eq.1 h.1) s2
  have hu := hwalk.untouched
  rw [ht]
  refine ⟨fun a => ?_, fun c a => ?_, ?_, ?_⟩
  · rw [hC]
    exact hwalk.sameMemory a
  · exact (congrArg (Memory.read · a) (hscratch c)).trans (congrArg (Memory.read · a) (hu.scratch c))
  · obtain ⟨es, hes⟩ := htlb m.core (.inl ⟨m, List.mem_filter.2 ⟨hmisses ▸ hm, by simp [servedBy, hlo, hhi]⟩, rfl⟩)
    exact tlbLook_of_first hes hlo hhi
  · rw [hC]
    have h2 : (s2.die d).misses = (s1.die d).misses.filter fun y => !servedBy m.vd p y := congrArg Die.misses (die_withDie_self s1 d _)
    exact h2.trans (congrArg _ hmisses)

theorem endWalk_fault {s : State} {d : Nat} {m : Miss} {f : XFault} {g : Group}
    (hf : (s.walkOn (some d) m.vd (m.page * 4096)).result = .error f) (hg : s.group? m.core m.slot = some g) (hvd : s.vdOf g = m.vd)
    (hw : g.wait = some .walk) :
    let t := s.endWalk d m
    SameMemory s t ∧ (t.die d).misses = (s.die d).misses.filter (· != m)
      ∧ t.group? m.core m.slot = some { g with walked := g.walked.put m.page (.fault f) } := by
  have hwalk := walkFrame_afterWalk s (some d) m.vd (m.page * 4096) (s.walkOn (some d) m.vd (m.page * 4096))
  generalize hs1 : s.afterWalk (some d) m.vd (m.page * 4096) (s.walkOn (some d) m.vd (m.page * 4096)) = s1 at hwalk
  obtain ⟨n, hdie⟩ := hwalk.die d
  have ht : s.endWalk d m = (s1.withDie d fun x => { x with misses := x.misses.filter (· != m) }).giveWalk m (.fault f) := by
    unfold State.endWalk
    dsimp only
    rw [hs1, hf]
  have hg1 : (s1.withDie d fun x => { x with misses := x.misses.filter (· != m) }).group? m.core m.slot = some g :=
    (hwalk.untouched.group? m.core m.slot).trans hg
  have hvd1 : (s1.withDie d fun x => { x with misses := x.misses.filter (· != m) }).vdOf g = m.vd := by
    obtain ⟨a, b, c, e, q, h⟩ := hwalk.walked.rest
    rw [h]
    exact hvd
  rw [ht]
  refine ⟨hwalk.sameMemory, ?_, ?_⟩
  · have h2 : ((s1.withDie d fun x => { x with misses := x.misses.filter (· != m) }).die d).misses = (s1.die d).misses.filter (· != m) :=
      congrArg Die.misses (die_withDie_self s1 d _)
    exact h2.trans (by rw [hdie])
  · unfold State.giveWalk
    rw [withGroup_eq_setGroup hg1, group?_setGroup_self, if_pos ⟨hvd1, hw⟩]

theorem walkComplete_spec : ∀ s d i z m, OfObject s d i z → (s.die d).misses[i]? = some m → m.walking = true →
    let va := m.page * 4096
    let w := s.walkOn (some d) m.vd va
    ((∃ a ∈ w.reads, s.locked (a / 128) = true) → exec .walkComplete s = .next s)
    ∧ ((∀ a ∈ w.reads, s.locked (a / 128) = false) →
      (∀ p, w.result = .ok p → p.base ≤ va → va < p.base + p.size → Completes s .walkComplete fun t =>
        SameMemory s t ∧ SameScratch s t ∧ (t.core m.core).tlbLook m.vd va = some p
        ∧ (t.die d).misses = (s.die d).misses.filter fun x => !(x.vd == m.vd && decide (p.base ≤ x.page * 4096 ∧ x.page * 4096 < p.base + p.size)))
      ∧ (∀ f g, w.result = .error f → s.group? m.core m.slot = some g → s.vdOf g = m.vd → g.wait = some .walk →
          Completes s .walkComplete fun t => SameMemory s t ∧ (t.die d).misses = (s.die d).misses.filter (· != m)
            ∧ t.group? m.core m.slot = some { g with walked := g.walked.put m.page (.fault f) })) := by
  intro s d i z m hobj hi hm va w
  have hexec := execWalkComplete_eq hobj hi hm
  refine ⟨fun ⟨a, ha, hl⟩ => ?_, fun hfree => ?_⟩
  · rw [hexec, if_pos]
    refine Bool.not_eq_false _ |>.mp fun hf => ?_
    rw [(walkLocked_iff s w).1 hf a ha] at hl
    cases hl
  · rw [if_neg (by rw [(walkLocked_iff s w).2 hfree]; exact Bool.false_ne_true)] at hexec
    exact ⟨fun p hp hlo hhi => ⟨_, hexec, endWalk_page (List.mem_of_getElem? hi) hp hlo hhi⟩,
      fun f g hf hg hvd hw => ⟨_, hexec, endWalk_fault hf hg hvd hw⟩⟩

/-! ## Requests at the homes (R55, R64) -/

/-- A change of every die that keeps a die without lines as it is. -/
theorem die_mapDies (s : State) {f : Nat → Die → Die} (d : Nat) (hf : f d Die.reset = Die.reset) :
    ({ s with dies := s.dies.mapAll f }).die d = f d (s.die d) := by
  unfold State.die Tab.get
  dsimp only
  rw [Tab.look_mapAll]
  cases s.dies.look d with
  | none => exact hf.symm
  | some x => rfl

theorem die_dropCopies (s : State) (line : Nat) (except : Option Nat) (d : Nat) :
    (s.dropCopies line except).die d = if some d == except then s.die d else (s.die d).dropLine line := by
  refine (die_mapDies s (f := fun d x => if some d == except then x else x.dropLine line) d ?_).trans rfl
  split
  · rfl
  · rfl

theorem die_shareCopies (s : State) (line reader d : Nat) :
    (s.shareCopies line reader).die d = if d == reader then s.die d else (s.die d).share line := by
  refine (die_mapDies s (f := fun d x => if d == reader then x else x.share line) d ?_).trans rfl
  split
  · rfl
  · rfl

theorem get_change {α : Type} (t : Tab α) (n : Nat) (f : α → α) (d : α) (hf : f d = d) : (t.change n f).get n d = f (t.get n d) := by
  unfold Tab.get
  rw [Tab.look_change, if_pos rfl]
  cases t.look n with
  | none => exact hf.symm
  | some x => rfl

theorem l2_dropLine (d : Die) (line : Nat) :
    (d.dropLine line).l2.get (l2Set line) [] = (d.l2.get (l2Set line) []).filter fun y => y.line != line := get_change _ _ _ _ rfl

theorem l2_share (d : Die) (line : Nat) : (d.share line).l2.get (l2Set line) [] =
    (d.l2.get (l2Set line) []).map fun y => if y.line == line then { y with own := false } else y := get_change _ _ _ _ rfl

theorem holds_dropLine (d : Die) (line : Nat) : (d.dropLine line).holds line = false := by
  unfold Die.holds
  rw [l2_dropLine]
  simp

theorem holds_share (d : Die) (line : Nat) : (d.share line).holds line = d.holds line := by
  unfold Die.holds
  rw [l2_share, List.any_map]
  refine congrArg (fun p => List.any _ p) (funext fun y => ?_)
  dsimp only [Function.comp]
  split
  · rfl
  · rfl

/-- A line given to a die: it is to be filled, and nothing else of any die's L2 is changed. -/
theorem giveLine_spec (s : State) (r : HomeReq) (die : Nat) (keeper : Option Nat) (ef own : Bool) :
    let t := s.giveLine r die keeper ef own
    SameMemory s t ∧ t.requests = s.requests
      ∧ (t.die die).fills = (s.die die).fills ++ [{ line := r.line, vd := r.vd, keeper := keeper, ef := ef, own := own }]
      ∧ ∀ d, d ≠ die → (t.die d).l2 = (s.die d).l2 ∧ (t.die d).fills = (s.die d).fills := by
  have h := (walkFrame_chargeLine s r.vd r.line).trans (walkFrame_fillLlc (s.chargeLine r.vd r.line) r.vd r.line (s.releaseTag r.line) ef)
  unfold State.giveLine
  refine ⟨h.sameMemory, h.requests, ?_, fun d hd => ?_⟩
  · obtain ⟨n, hn⟩ := h.die die
    rw [die_withDie_self, hn]
  · obtain ⟨n, hn⟩ := h.die d
    rw [die_withDie_ne _ _ hd, hn]
    exact ⟨rfl, rfl⟩

theorem performOwn_spec (s : State) (r : HomeReq) (die : Nat) (keeper : Option Nat) (ef : Bool) :
    let t := s.performOwn r die keeper ef
    SameMemory s t ∧ t.requests = s.requests
      ∧ (t.die die).fills = (s.die die).fills ++ [{ line := r.line, vd := r.vd, keeper := keeper, ef := ef, own := true }]
      ∧ ∀ d, d ≠ die → (t.die d).holds r.line = false ∧ ∀ f ∈ (t.die d).fills, f.line ≠ r.line := by
  obtain ⟨hmem, hreq, hfill, hother⟩ := giveLine_spec (s.dropCopies r.line (some die)) r die keeper ef true
  have hself : (s.dropCopies r.line (some die)).die die = s.die die := by rw [die_dropCopies]; simp
  refine ⟨hmem, hreq, hfill.trans (by rw [hself]), fun d hd => ?_⟩
  obtain ⟨hl2, hfills⟩ := hother d hd
  have hdrop : (s.dropCopies r.line (some die)).die d = (s.die d).dropLine r.line := by rw [die_dropCopies]; simp [hd]
  refine ⟨?_, ?_⟩
  · rw [← holds_dropLine (s.die d) r.line, ← hdrop]
    exact congrArg (fun l2 : Tab (List L2Line) => (l2.get (l2Set r.line) []).any fun y => y.line == r.line) hl2
  · intro f hf
    have hmem : f ∈ ((s.die d).dropLine r.line).fills := hdrop ▸ hfills ▸ hf
    simpa using (List.mem_filter.1 hmem).2

theorem performLoad_spec (s : State) (r : HomeReq) (die : Nat) (keeper : Option Nat) (ef : Bool) :
    let t := s.performLoad r die keeper ef
    SameMemory s t ∧ t.requests = s.requests
      ∧ (t.die die).fills = (s.die die).fills ++ [{ line := r.line, vd := r.vd, keeper := keeper, ef := ef, own := false }]
      ∧ ∀ d, d ≠ die → (t.die d).holds r.line = (s.die d).holds r.line
          ∧ (∀ x ∈ (t.die d).l2.get (l2Set r.line) [], x.line = r.line → x.own = false)
          ∧ ∀ f ∈ (t.die d).fills, f.line = r.line → f.own = false := by
  obtain ⟨hmem, hreq, hfill, hother⟩ := giveLine_spec (s.shareCopies r.line die) r die keeper ef false
  have hself : (s.shareCopies r.line die).die die = s.die die := by rw [die_shareCopies]; simp
  refine ⟨hmem, hreq, hfill.trans (by rw [hself]), fun d hd => ?_⟩
  obtain ⟨hl2, hfills⟩ := hother d hd
  have hshare : (s.shareCopies r.line die).die d = (s.die d).share r.line := by rw [die_shareCopies]; simp [hd]
  refine ⟨?_, fun x hx hline => ?_, fun f hf hline => ?_⟩
  · rw [← holds_share (s.die d) r.line, ← hshare]
    exact congrArg (fun l2 : Tab (List L2Line) => (l2.get (l2Set r.line) []).any fun y => y.line == r.line) hl2
  · rw [State.performLoad, hl2, hshare, l2_share] at hx
    obtain ⟨y, -, rfl⟩ := List.mem_map.1 hx
    by_cases h : y.line = r.line
    · simp [h]
    · simp [h] at hline
  · have hmem : f ∈ ((s.die d).share r.line).fills := hshare ▸ hfills ▸ hf
    obtain ⟨y, -, rfl⟩ := List.mem_map.1 hmem
    by_cases h : y.line = r.line
    · simp [h]
    · simp [h] at hline

theorem homeRequest_spec : ∀ s i y z r, OfObject s i y z → s.requests[i]? = some r → (∀ x ∈ s.requests.take i, x.line ≠ r.line) →
    s.locked r.line = false →
    (∀ d kp ef, r.kind = .own d kp ef → Completes s .homeRequest fun t => SameMemory s t ∧ t.requests = s.requests.eraseIdx i
      ∧ (t.die d).fills = (s.die d).fills ++ [{ line := r.line, vd := r.vd, keeper := kp, ef := ef, own := true }]
      ∧ ∀ d', d' ≠ d → (t.die d').holds r.line = false ∧ ∀ f ∈ (t.die d').fills, f.line ≠ r.line)
    ∧ ∀ d kp ef, r.kind = .load d kp ef → Completes s .homeRequest fun t => SameMemory s t ∧ t.requests = s.requests.eraseIdx i
      ∧ (t.die d).fills = (s.die d).fills ++ [{ line := r.line, vd := r.vd, keeper := kp, ef := ef, own := false }]
      ∧ ∀ d', d' ≠ d → (t.die d').holds r.line = (s.die d').holds r.line
          ∧ (∀ x ∈ (t.die d').l2.get (l2Set r.line) [], x.line = r.line → x.own = false)
          ∧ ∀ f ∈ (t.die d').fills, f.line = r.line → f.own = false := by
  intro s i y z r hobj hi hfirst hfree
  have hfirst' : s.firstOfLine i r = true := by
    unfold State.firstOfLine
    rw [Bool.not_eq_true', List.any_eq_false]
    exact fun x hx => by simpa using hfirst x hx
  let s1 := { s with requests := s.requests.eraseIdx i }
  have hown : ∀ d kp ef, r.kind = .own d kp ef → exec .homeRequest s = .next (s1.performOwn r d kp ef) := by
    intro d kp ef hk
    change execHomeRequest s = _
    unfold execHomeRequest
    rw [object_of hobj]
    dsimp only
    rw [hi]
    dsimp only
    rw [hfirst', hfree, hk]
    rfl
  have hload : ∀ d kp ef, r.kind = .load d kp ef → exec .homeRequest s = .next (s1.performLoad r d kp ef) := by
    intro d kp ef hk
    change execHomeRequest s = _
    unfold execHomeRequest
    rw [object_of hobj]
    dsimp only
    rw [hi]
    dsimp only
    rw [hfirst', hfree, hk]
    rfl
  exact ⟨fun d kp ef hk => ⟨_, hown d kp ef hk, performOwn_spec s1 r d kp ef⟩,
    fun d kp ef hk => ⟨_, hload d kp ef hk, performLoad_spec s1 r d kp ef⟩⟩

/-! ## The way of a fill (R56) -/

theorem lastThat_eq_some {l : List L2Line} {p : L2Line → Bool} {P : L2Line → Prop} (hp : ∀ z, p z = true ↔ P z) (y : L2Line) :
    lastThat p l = some y ↔ LastOf l P y := by
  unfold lastThat LastOf
  rw [List.find?_eq_some_iff_append, hp]
  constructor
  · rintro ⟨hy, as, bs, hl, has⟩
    refine ⟨bs.reverse, as.reverse, ?_, hy, fun z hz hPz => ?_⟩
    · rw [← List.reverse_reverse l, hl]
      simp
    · have := has z (List.mem_reverse.1 hz)
      rw [(hp z).2 hPz] at this
      cases this
  · rintro ⟨a, b, hl, hy, hb⟩
    refine ⟨hy, b.reverse, a.reverse, by rw [hl]; simp, fun z hz => ?_⟩
    rw [Bool.not_eq_true', Bool.eq_false_iff]
    exact fun h => hb z (List.mem_reverse.1 hz) ((hp z).1 h)

theorem lastThat_eq_none {l : List L2Line} {p : L2Line → Bool} : lastThat p l = none ↔ ∀ z ∈ l, ¬ p z = true := by
  unfold lastThat
  simp [List.find?_eq_none]

/-- In a rising list of ways, the first unused one is the lowest. -/
theorem freeWay_eq_some {used ways : List Nat} (hways : ways.Pairwise (· ≤ ·)) (w : Nat) :
    freeWay used ways = some w ↔ (w ∈ ways ∧ w ∉ used) ∧ ∀ x, x < w → ¬ (x ∈ ways ∧ x ∉ used) := by
  have hfirst : ∀ w, freeWay used ways = some w → (w ∈ ways ∧ w ∉ used) ∧ ∀ x, x < w → ¬ (x ∈ ways ∧ x ∉ used) := by
    intro w h
    obtain ⟨hw, as, bs, rfl, has⟩ := List.find?_eq_some_iff_append.1 h
    refine ⟨⟨by simp, by simpa using hw⟩, fun x hx ⟨hmem, hfree⟩ => ?_⟩
    rcases List.mem_append.1 hmem with ha | hb
    · exact hfree (by simpa using has x ha)
    · have hle : w ≤ x := by
        rcases List.mem_cons.1 hb with rfl | hb
        · exact Nat.le_refl _
        · exact (List.pairwise_cons.1 (List.pairwise_append.1 hways).2.1).1 x hb
      exact absurd hx (Nat.not_lt.2 hle)
  refine ⟨hfirst w, fun ⟨hw, hmin⟩ => ?_⟩
  cases h : freeWay used ways with
  | none =>
    have := List.find?_eq_none.1 h w hw.1
    simp [hw.2] at this
  | some v =>
    obtain ⟨hv, hvmin⟩ := hfirst v h
    have : ¬ v < w := fun hlt => hmin v hlt hv
    have : ¬ w < v := fun hlt => hvmin w hlt hw
    exact congrArg some (by omega)

theorem freeWay_eq_none {used ways : List Nat} : freeWay used ways = none ↔ ∀ x, ¬ (x ∈ ways ∧ x ∉ used) := by
  unfold freeWay
  simp [List.find?_eq_none]

/-- A way is chosen: the lowest free one, or by another rule where none is free. -/
theorem freeWay_or_eq_some {used ways : List Nat} {free : Nat → Prop} (hways : ways.Pairwise (· ≤ ·))
    (hfree : ∀ x, x ∈ ways ∧ x ∉ used ↔ free x) (r : Option Nat) (w : Nat) :
    (match freeWay used ways with
      | some w => some w
      | none => r) = some w ↔ (free w ∧ ∀ x, x < w → ¬ free x) ∨ ((∀ x, ¬ free x) ∧ r = some w) := by
  simp only [← hfree]
  split
  · next v hv =>
    rw [← freeWay_eq_some hways, hv]
    refine ⟨.inl, fun h => h.elim id fun h => ?_⟩
    exact absurd ((freeWay_eq_some hways v).1 hv).1 (h.1 v)
  · next hv =>
    have hno := freeWay_eq_none.1 hv
    exact ⟨fun h => .inr ⟨hno, h⟩, fun h => h.elim (fun h => absurd h.1 (hno w)) And.right⟩

theorem ordinaryWay_iff (set : List L2Line) (vd : Nat) {lim : Bool} {limited : Prop} (hlim : limited ↔ lim = true) (w : Nat) :
    ordinaryWay set vd lim = some w ↔ OrdinaryWay set vd limited w := by
  have hfree : ∀ x, (x ∈ (List.range 16).filter fun w => !((set.filter fun y => y.kept.isSome).map (·.way)).contains w) ∧ x ∉ set.map (·.way)
      ↔ x < 16 ∧ ∀ y ∈ set, y.way ≠ x := by
    intro x
    simp only [List.mem_filter, List.mem_range, Bool.not_eq_true', List.contains_eq_mem, decide_eq_false_iff_not, List.mem_map, not_exists, not_and]
    exact ⟨fun ⟨⟨h1, _⟩, h2⟩ => ⟨h1, h2⟩, fun ⟨h1, h2⟩ => ⟨⟨h1, fun y ⟨hy, _⟩ => h2 y hy⟩, h2⟩⟩
  have hsorted : ((List.range 16).filter fun w => !((set.filter fun y => y.kept.isSome).map (·.way)).contains w).Pairwise (· ≤ ·) :=
    List.Pairwise.filter _ List.pairwise_le_range
  have hown : ∀ z : L2Line, (z.kept.isNone && z.vd == vd) = true ↔ z.kept = none ∧ z.vd = vd := fun z => by simp
  have hplain : ∀ z : L2Line, z.kept.isNone = true ↔ z.kept = none := fun z => by simp
  refine (freeWay_or_eq_some hsorted hfree _ w).trans (or_congr_right (and_congr_right fun _ => ?_))
  split
  · next y hy =>
    split at hy
    · next hl =>
      have hlast := (lastThat_eq_some hown y).1 hy
      constructor
      · intro h
        exact ⟨y, Option.some.inj h, .inl ⟨hlim.2 hl, hlast⟩⟩
      · rintro ⟨y', hw, ⟨-, hlast'⟩ | ⟨hn, -⟩⟩
        · rw [(lastThat_eq_some hown y').2 hlast'] at hy
          rw [← Option.some.inj hy, hw]
        · obtain ⟨a, b, hset, hPy, -⟩ := hlast
          exact absurd ⟨hlim.2 hl, y, by rw [hset]; simp, hPy⟩ hn
    · cases hy
  · next hy =>
    have hno : ¬ (limited ∧ ∃ z ∈ set, z.kept = none ∧ z.vd = vd) := by
      rintro ⟨hl, z, hz, hoz⟩
      rw [if_pos (hlim.1 hl)] at hy
      exact lastThat_eq_none.1 hy z hz ((hown z).2 hoz)
    rw [Option.map_eq_some_iff]
    constructor
    · rintro ⟨y, hl, hw⟩
      exact ⟨y, hw, .inr ⟨hno, (lastThat_eq_some hplain y).1 hl⟩⟩
    · rintro ⟨y, hw, ⟨hl, a, b, hset, hPy, -⟩ | ⟨-, hlast⟩⟩
      · exact absurd ⟨hl, y, by rw [hset]; simp, hPy⟩ hno
      · exact ⟨y, (lastThat_eq_some hplain y).2 hlast, hw⟩

/-- The ways of a keeper that hold no line which it keeps. -/
def keeperCands (set : List L2Line) (k : Nat) (ways : List Nat) : List Nat :=
  ways.filter fun w => !((set.filter fun y => y.kept == some k).map (·.way)).contains w

/-- The way that a keeper's fill takes of some ways. -/
def keeperChoice (set : List L2Line) (cands : List Nat) : Option Nat :=
  match freeWay (set.map (·.way)) (cands.mergeSort (· ≤ ·)) with
  | some w => some w
  | none => (lastThat (fun y : L2Line => y.kept.isNone && cands.contains y.way) set).map (·.way)

theorem keeperChoice_nil (set : List L2Line) : keeperChoice set [] = none := by
  have hlast : lastThat (fun y : L2Line => y.kept.isNone && ([] : List Nat).contains y.way) set = none :=
    lastThat_eq_none.2 fun z _ => by simp
  unfold keeperChoice
  rw [hlast]
  simp [freeWay]

theorem keptWay_eq (set : List L2Line) (k : Nat) (ways : List Nat) : keptWay set k ways = keeperChoice set (keeperCands set k ways) := by
  have h : ∀ cands, (match cands with
      | [] => none
      | _ => keeperChoice set cands) = keeperChoice set cands := fun cands => by
    cases cands with
    | nil => exact (keeperChoice_nil set).symm
    | cons x xs => rfl
  exact h (keeperCands set k ways)

theorem keptWay_iff (set : List L2Line) (k : Nat) (ways : List Nat) (w : Nat) : keptWay set k ways = some w ↔ KeeperWay set k ways w := by
  have hmay : ∀ x, x ∈ keeperCands set k ways ↔ x ∈ ways ∧ ∀ y ∈ set, y.way = x → y.kept ≠ some k := by
    intro x
    simp only [keeperCands, List.mem_filter, Bool.not_eq_true', List.contains_eq_mem, decide_eq_false_iff_not, List.mem_map, not_exists, not_and,
      beq_iff_eq]
    exact and_congr_right fun _ => ⟨fun h y hy hw hk => h y ⟨hy, hk⟩ hw, fun h y hy hw => h y hy.1 hw hy.2⟩
  have hfree : ∀ x, x ∈ (keeperCands set k ways).mergeSort (· ≤ ·) ∧ x ∉ set.map (·.way) ↔
      (x ∈ ways ∧ ∀ y ∈ set, y.way = x → y.kept ≠ some k) ∧ ∀ y ∈ set, y.way ≠ x := by
    intro x
    rw [List.mem_mergeSort, hmay x]
    simp
  have hsorted : ((keeperCands set k ways).mergeSort (· ≤ ·)).Pairwise (· ≤ ·) := by
    have h := List.pairwise_mergeSort (le := fun a b : Nat => decide (a ≤ b)) (by simpa using fun a b c => Nat.le_trans)
      (by simpa using Nat.le_total) (keeperCands set k ways)
    exact h.imp fun h => by simpa using h
  have hplain : ∀ z : L2Line, (z.kept.isNone && (keeperCands set k ways).contains z.way) = true ↔
      z.kept = none ∧ z.way ∈ ways ∧ ∀ y ∈ set, y.way = z.way → y.kept ≠ some k := by
    intro z
    rw [Bool.and_eq_true, List.contains_iff_mem, hmay]
    simp
  rw [keptWay_eq]
  refine (freeWay_or_eq_some hsorted hfree _ w).trans (or_congr_right (and_congr_right fun _ => ?_))
  rw [Option.map_eq_some_iff]
  constructor
  · rintro ⟨y, hl, hw⟩
    exact ⟨y, hw, (lastThat_eq_some hplain y).1 hl⟩
  · rintro ⟨y, hw, hlast⟩
    exact ⟨y, (lastThat_eq_some hplain y).2 hlast, hw⟩

/-! ## A fill of an L2 (R56, R62) -/

theorem execL2Fill_eq {s : State} {d y z : Nat} {f : Fill} {rest : List Fill} (hobj : OfObject s d y z) (hf : (s.die d).fills = f :: rest) :
    exec .l2Fill s = .next ((s.withDie d fun x => { x with fills := rest }).fillL2 d f) := by
  change execL2Fill s = _
  unfold execL2Fill
  rw [object_of hobj]
  dsimp only
  rw [hf]

theorem die_noteHolders (s : State) (line d : Nat) : (s.noteHolders line).die d = s.die d := rfl

theorem evict_frame (s : State) (die : Nat) (v : L2Line) : SameMemory s (s.evict die v) ∧ (s.evict die v).dies = s.dies
    ∧ (s.evict die v).requests = s.requests ++ if v.own then
        [{ line := v.line, core := Config.cores, slot := 0, launch := 0, vd := v.vd, kind := .writeBack die v.tag }] else [] := by
  unfold State.evict
  dsimp only
  split
  · exact ⟨fun _ => ⟨rfl, rfl, rfl⟩, rfl, rfl⟩
  · exact ⟨fun _ => ⟨rfl, rfl, rfl⟩, rfl, (List.append_nil _).symm⟩

theorem get_put_self {α : Type} (t : Tab α) (n : Nat) (x d : α) : (t.put n x).get n d = x := Tab.get_put_self ..

/-- A line that is new to the set of an L2 takes its way (R56). -/
theorem fillL2_new {s : State} {die : Nat} {f : Fill} {w : Nat} {k : Option Nat} (hnew : (s.die die).holds f.line = false)
    (hway : s.fillWay die f = some (w, k)) :
    let set := (s.die die).l2.get (l2Set f.line) []
    let t := s.fillL2 die f
    SameMemory s t ∧ (t.die die).fills = (s.die die).fills
      ∧ (∃ x, x.line = f.line ∧ x.vd = f.vd ∧ x.kept = k ∧ x.way = w ∧ x.own = f.own
          ∧ (t.die die).l2.get (l2Set f.line) [] = enter f.ef x (set.filter fun v => v.way != w))
      ∧ t.requests = s.requests ++ match set.find? fun v => v.way == w with
        | some v => if v.own then
            [{ line := v.line, core := Config.cores, slot := 0, launch := 0, vd := v.vd, kind := .writeBack die v.tag }] else []
        | none => [] := by
  intro set t
  let x : L2Line := { way := w, line := f.line, vd := f.vd, kept := k, tag := s.releaseTag f.line, own := f.own }
  let s1 := (s.withDie die fun d => { d with l2 := d.l2.put (l2Set f.line) (enter f.ef x (set.filter fun v => v.way != w)) }).noteHolders f.line
  have hdie : s1.die die = { s.die die with l2 := (s.die die).l2.put (l2Set f.line) (enter f.ef x (set.filter fun v => v.way != w)) } :=
    (die_noteHolders ..).trans (die_withDie_self ..)
  have ht : t = match set.find? fun v => v.way == w with
      | some v => s1.evict die v
      | none => s1 := by
    unfold t State.fillL2
    rw [hnew, if_neg Bool.false_ne_true, hway] <;> rfl
  have hs1 : SameMemory s s1 := fun _ => ⟨rfl, rfl, rfl⟩
  have hline : x.line = f.line ∧ x.vd = f.vd ∧ x.kept = k ∧ x.way = w ∧ x.own = f.own
      ∧ (s1.die die).l2.get (l2Set f.line) [] = enter f.ef x (set.filter fun v => v.way != w) :=
    ⟨rfl, rfl, rfl, rfl, rfl, by rw [hdie]; exact get_put_self ..⟩
  have hfills : (s1.die die).fills = (s.die die).fills := by rw [hdie]
  cases hfind : set.find? fun v => v.way == w with
  | none =>
    rw [hfind] at ht
    rw [ht]
    exact ⟨hs1, hfills, ⟨x, hline⟩, (List.append_nil _).symm⟩
  | some v =>
    rw [hfind] at ht
    obtain ⟨hmem, hdies, hreq⟩ := evict_frame s1 die v
    have hsame : (s1.evict die v).die die = s1.die die := by rw [State.die, hdies, State.die]
    rw [ht]
    refine ⟨hmem, ?_, ⟨x, ?_⟩, hreq⟩
    · dsimp only
      rw [hsame]
      exact hfills
    · dsimp only
      rw [hsame]
      exact hline

/-- A fill of a line that the set holds moves it as a hit does (R56). -/
theorem fillL2_present {s : State} {die : Nat} {f : Fill} (hold : (s.die die).holds f.line = true) :
    let set := (s.die die).l2.get (l2Set f.line) []
    let gain (x : L2Line) : L2Line := if x.line == f.line then { x with own := x.own || f.own } else x
    let t := s.fillL2 die f
    SameMemory s t ∧ (t.die die).fills = (s.die die).fills ∧ t.requests = s.requests
      ∧ (t.die die).l2.get (l2Set f.line) [] =
        if f.ef then set.map gain
        else (set.filter fun x => x.line == f.line).map gain ++ set.filter fun x => x.line != f.line := by
  intro set gain t
  have ht : t = (s.withDie die fun d => { d with l2 := d.l2.change (l2Set f.line) (List.map gain) }).touchL2 die f.line f.ef := by
    unfold t State.fillL2
    rw [hold] <;> rfl
  let s1 := s.withDie die fun d => { d with l2 := d.l2.change (l2Set f.line) (List.map gain) }
  have hdie : s1.die die = { s.die die with l2 := (s.die die).l2.change (l2Set f.line) (List.map gain) } := die_withDie_self ..
  have hset : (s1.die die).l2.get (l2Set f.line) [] = set.map gain := by
    rw [hdie]
    exact get_change _ _ _ _ rfl
  have hfills : (s1.die die).fills = (s.die die).fills := by rw [hdie]
  have hgain : ∀ x : L2Line, (gain x).line = x.line := fun x => by
    unfold gain
    split
    · rfl
    · rfl
  rw [ht]
  unfold State.touchL2
  split
  · exact ⟨fun _ => ⟨rfl, rfl, rfl⟩, hfills, rfl, hset⟩
  · refine ⟨fun _ => ⟨rfl, rfl, rfl⟩, ?_, rfl, ?_⟩
    · exact (congrArg Die.fills (die_withDie_self s1 die _)).trans hfills
    · refine (congrArg (fun d : Die => d.l2.get (l2Set f.line) []) (die_withDie_self s1 die _)).trans ?_
      refine (get_change _ _ _ _ rfl).trans ?_
      have hkeep : (set.filter fun x => x.line != f.line).map gain = set.filter fun x => x.line != f.line := by
        refine (List.map_congr_left fun x hx => ?_).trans (List.map_id _)
        exact if_neg (by simpa using (List.mem_filter.1 hx).2)
      rw [hset, List.filter_map, List.filter_map, ← hkeep]
      simp only [Function.comp_def, hgain]

theorem holds_iff (d : Die) (line : Nat) : d.holds line = true ↔ ∃ x ∈ d.l2.get (l2Set line) [], x.line = line := by
  unfold Die.holds
  simp [List.any_eq_true]

theorem overLimit_iff (r : DWord) (n : Nat) : overLimit r n = true ↔ r.getLsbD 63 = true ∧ (r.extractLsb' 0 22).toNat ≤ n := by
  unfold overLimit bits
  rw [Bool.and_eq_true, decide_eq_true_eq, BitVec.extractLsb'_toNat, Nat.shiftRight_eq_div_pow]

/-- A fill may take the way of its keeper, or an ordinary one (R56). -/
theorem fillWay_eq (s : State) (die : Nat) (f : Fill) :
    let set := (s.die die).l2.get (l2Set f.line) []
    let lim := overLimit ((s.device f.vd).cache.get (8 * die) 0) ((s.die die).occupancy f.vd)
    (f.keeper = none → s.fillWay die f = (ordinaryWay set f.vd lim).map fun w => (w, none))
    ∧ ∀ k, f.keeper = some k →
      (∀ w, keptWay set k ((s.die die).keepers.get k Keeper.free).ways = some w → s.fillWay die f = some (w, some k))
      ∧ (keptWay set k ((s.die die).keepers.get k Keeper.free).ways = none →
          s.fillWay die f = (ordinaryWay set f.vd lim).map fun w => (w, none)) := by
  intro set lim
  unfold State.fillWay
  refine ⟨fun h => ?_, fun k h => ⟨fun w hw => ?_, fun hn => ?_⟩⟩
  · dsimp only
    rw [h]
  · dsimp only
    rw [h]
    dsimp only
    rw [hw]
  · dsimp only
    rw [h]
    dsimp only
    rw [hn]

theorem ne_none_of_not {α : Type} {o : Option α} {P : α → Prop} (h : ∀ w, o = some w ↔ P w) (hno : ∀ w, ¬ P w) : o = none :=
  Option.eq_none_iff_forall_ne_some.2 fun w hw => hno w ((h w).1 hw)

theorem l2Fill_spec : ∀ s d y z f rest, OfObject s d y z → (s.die d).fills = f :: rest →
    let set := (s.die d).l2.get (l2Set f.line) []
    let limit := (s.device f.vd).cache.get (8 * d) 0
    let limited : Prop := limit.getLsbD 63 = true ∧ (limit.extractLsb' 0 22).toNat ≤ (s.die d).occupancy f.vd
    let entered (xs : List L2Line) (x : L2Line) : List L2Line := if f.ef then xs ++ [x] else x :: xs
    let filled (w : Nat) (kept : Option Nat) : Prop := Completes s .l2Fill fun t => SameMemory s t ∧ (t.die d).fills = rest
      ∧ (∃ x, x.line = f.line ∧ x.vd = f.vd ∧ x.kept = kept ∧ x.way = w ∧ x.own = f.own
          ∧ (t.die d).l2.get (l2Set f.line) [] = entered (set.filter fun v => decide (v.way ≠ w)) x)
      ∧ ((∀ v ∈ set, v.way = w → v.own = false) → t.requests = s.requests)
      ∧ (∀ v ∈ set, v.way = w → (∀ u ∈ set, u.way = w → u = v) → v.own = true → t.requests = s.requests ++ [
          { line := v.line, core := Config.cores, slot := 0, launch := 0, vd := v.vd, kind := .writeBack d v.tag }])
    ((∃ x ∈ set, x.line = f.line) → Completes s .l2Fill fun t => SameMemory s t ∧ (t.die d).fills = rest ∧ t.requests = s.requests
        ∧ (t.die d).l2.get (l2Set f.line) [] =
            (let gain (x : L2Line) : L2Line := if x.line == f.line then { x with own := x.own || f.own } else x
             if f.ef then set.map gain
             else (set.filter fun x => x.line == f.line).map gain ++ set.filter fun x => x.line != f.line))
    ∧ ((∀ x ∈ set, x.line ≠ f.line) →
        (∀ w, f.keeper = none → OrdinaryWay set f.vd limited w → filled w none)
        ∧ (∀ k w, f.keeper = some k → KeeperWay set k ((s.die d).keepers.get k Keeper.free).ways w → filled w (some k))
        ∧ (∀ k w, f.keeper = some k → (∀ x, ¬ KeeperWay set k ((s.die d).keepers.get k Keeper.free).ways x) →
            OrdinaryWay set f.vd limited w → filled w none)
        ∧ ((∀ k w, f.keeper = some k → ¬ KeeperWay set k ((s.die d).keepers.get k Keeper.free).ways w) →
            (∀ w, ¬ OrdinaryWay set f.vd limited w) → exec .l2Fill s = .next (s.withDie d fun x => { x with fills := rest }))) := by
  intro s d y z f rest hobj hf set limit limited entered filled
  have hexec := execL2Fill_eq hobj hf
  let s1 := s.withDie d fun x => { x with fills := rest }
  have hdie : s1.die d = { s.die d with fills := rest } := die_withDie_self ..
  have hset : (s1.die d).l2.get (l2Set f.line) [] = set := by rw [hdie]
  have hfills : (s1.die d).fills = rest := by rw [hdie]
  have hkeeper : ∀ k, (s1.die d).keepers.get k Keeper.free = (s.die d).keepers.get k Keeper.free := fun k => by rw [hdie]
  have hocc : (s1.die d).occupancy f.vd = (s.die d).occupancy f.vd := by rw [hdie]; rfl
  obtain ⟨hnoKeeper, hsome⟩ := fillWay_eq s1 d f
  rw [hset, hocc] at hnoKeeper
  simp only [hset, hocc, hkeeper] at hsome
  have hord := ordinaryWay_iff set f.vd (overLimit_iff limit ((s.die d).occupancy f.vd)).symm
  have hkept := fun k w => keptWay_iff set k ((s.die d).keepers.get k Keeper.free).ways w
  refine ⟨fun ⟨x, hx, hline⟩ => ⟨_, hexec, ?_⟩, fun hnew => ?_⟩
  · have hpres := fillL2_present (s := s1) (die := d) (f := f) ((holds_iff ..).2 ⟨x, by rw [hset]; exact hx, hline⟩)
    rw [hset, hfills] at hpres
    exact hpres
  · have hnohold : (s1.die d).holds f.line = false := by
      rw [Bool.eq_false_iff]
      intro h
      obtain ⟨x, hx, hline⟩ := (holds_iff ..).1 h
      rw [hset] at hx
      exact hnew x hx hline
    have hfilled : ∀ w k, s1.fillWay d f = some (w, k) → filled w k := by
      intro w k hway
      have hfill := fillL2_new hnohold hway
      rw [hset, hfills] at hfill
      obtain ⟨hmem, hrest, ⟨x, h1, h2, h3, h4, h5, h6⟩, hreq⟩ := hfill
      refine ⟨_, hexec, hmem, hrest, ⟨x, h1, h2, h3, h4, h5, h6.trans ?_⟩, fun hnone => ?_, fun v hv hw huniq hown => ?_⟩
      · have hway : (set.filter fun v => v.way != w) = set.filter fun v => decide (v.way ≠ w) :=
          List.filter_congr fun v _ => by simp [bne, beq_eq_decide]
        rw [hway]
        rfl
      · rw [hreq]
        cases hfind : set.find? fun v => v.way == w with
        | none => exact List.append_nil _
        | some v =>
          have hv := hnone v (List.mem_of_find?_eq_some hfind) (by simpa using List.find?_some hfind)
          simp only [hv]
          exact List.append_nil _
      · rw [hreq]
        cases hfind : set.find? fun v => v.way == w with
        | none =>
          have := List.find?_eq_none.1 hfind v hv
          simp [hw] at this
        | some u =>
          obtain rfl := huniq u (List.mem_of_find?_eq_some hfind) (by simpa using List.find?_some hfind)
          simp only [hown]
          rfl
    refine ⟨fun w hk hw => hfilled w none ?_, fun k w hk hw => hfilled w (some k) ?_, fun k w hk hno hw => hfilled w none ?_, fun hno hnone => ?_⟩
    · exact (hnoKeeper hk).trans (congrArg _ ((hord w).2 hw))
    · exact (hsome k hk).1 w ((hkept k w).2 hw)
    · exact ((hsome k hk).2 (ne_none_of_not (hkept k) hno)).trans (congrArg _ ((hord w).2 hw))
    · have hnoway : s1.fillWay d f = none := by
        have hordNone : ordinaryWay set f.vd (overLimit limit ((s.die d).occupancy f.vd)) = none := ne_none_of_not hord hnone
        cases hk : f.keeper with
        | none => exact (hnoKeeper hk).trans (congrArg _ hordNone)
        | some k => exact ((hsome k hk).2 (ne_none_of_not (hkept k) fun w => hno k w hk)).trans (congrArg _ hordNone)
      rw [hexec]
      refine congrArg _ ?_
      unfold State.fillL2
      rw [show (s1.die d).holds f.line = false from hnohold, if_neg Bool.false_ne_true, show s1.fillWay d f = none from hnoway]

/-! ## Accesses of the host (R13, R138) -/

theorem lockedAt_eq_none {s : State} {tier : Tier} (h : tier ≠ .host) (a n : Nat) :
    s.lockedAt tier a n = none ↔ ∀ i, i < n → s.locked ((a + i) / 128) = false := by
  have hmod : s.lockedAt tier a n = (linesOf ((List.range n).map (a + ·))).find? s.locked := by
    cases tier with
    | host => exact absurd rfl h
    | hbm => rfl
    | second => rfl
  rw [hmod, List.find?_eq_none]
  simp only [mem_linesOf, List.mem_map, List.mem_range, Bool.not_eq_true]
  constructor
  · intro H i hi
    exact H _ ⟨_, ⟨i, hi, rfl⟩, rfl⟩
  · rintro H _ ⟨_, ⟨i, hi, rfl⟩, rfl⟩
    exact H i hi

theorem walkFrame_mem {s t : State} (h : WalkFrame s t) : t.mem = s.mem ∧ t.host = s.host ∧ t.store = s.store :=
  ⟨h.untouched.mem, h.untouched.host, h.untouched.store⟩

/-- Where a write takes place in a state with the same memory. -/
theorem Stored.of_same {s s' t : State} {tier : Tier} {bs : List (Nat × Byte)} (h : Stored s' t tier bs) (hm : s'.mem = s.mem)
    (hh : s'.host = s.host) (hs : s'.store = s.store) : Stored s t tier bs := by
  unfold Stored at h ⊢
  rw [← hm, ← hh, ← hs]
  exact h

/-- What is left of the host's accesses is not changed by a write at the home. -/
theorem HomeFrame.hostq {s t : State} (h : HomeFrame s t) :
    t.hostq = s.hostq ∧ t.arrivals = s.arrivals ∧ t.hostReplies = s.hostReplies := by
  obtain ⟨m, h, p, r, q, d, l, c, e, n, i, rfl⟩ := h.eq
  exact ⟨rfl, rfl, rfl⟩

theorem execHostRequest_eq {s : State} {r : HostReq} {rest : List HostReq} (hq : s.hostq = r :: rest) (ha : s.arrivals.head? ≠ some false) :
    exec .hostRequest s = if !backed r.addr r.what.size then .fault .unbacked
      else if (s.lockedAt .hbm r.addr r.what.size).isSome then .next s
      else .next (({ s with hostq := rest, arrivals := s.arrivals.tail } : State).performHost r) := by
  change execHostRequest s = _
  unfold execHostRequest
  rw [hq]
  dsimp only
  rw [if_neg ha]

theorem walkFrame_hostq {s t : State} (h : WalkFrame s t) :
    t.hostq = s.hostq ∧ t.arrivals = s.arrivals ∧ t.hostReplies = s.hostReplies := by
  obtain ⟨a, b, c, d, e, rfl⟩ := h.walked.rest
  exact ⟨rfl, rfl, rfl⟩

theorem performHost_read {s : State} {r : HostReq} {n : Nat} (hw : r.what = .read n) :
    let t := s.performHost r
    SameMemory s t ∧ t.hostq = s.hostq ∧ t.arrivals = s.arrivals
      ∧ t.hostReplies = s.hostReplies ++ [(List.range n).map fun i => s.mem.read (r.addr + i)] := by
  have h := walkFrame_chargeRead s r.vd r.addr n
  obtain ⟨hq, ha, -⟩ := walkFrame_hostq h
  unfold State.performHost
  rw [hw]
  exact ⟨h.sameMemory, hq, ha, rfl⟩

theorem performHost_write {s : State} {r : HostReq} {b : List Byte} (hw : r.what = .write b) (hm : s.mem.wf = true) :
    let t := s.performHost r
    t.hostq = s.hostq ∧ t.arrivals = s.arrivals ∧ Stored s t .hbm (b.zipIdx.map fun x => (r.addr + x.2, x.1)) := by
  let w : Source := { vd := r.vd, carried := none, ver := r.ver, die := none, release := none }
  obtain ⟨hq, ha, -⟩ := (homeFrame_writeMem s w .hbm (addressed r.addr b)).hostq
  have hst := stored_writeMem s w .hbm (addressed r.addr b) (fun _ => hm) fun h => by cases h
  unfold State.performHost
  rw [hw]
  exact ⟨hq, ha, hst⟩

theorem performHost_atomic {s : State} {r : HostReq} {f : AtomFn} {z v x : Nat} (hw : r.what = .atomic f z v x) (hm : s.mem.wf = true) :
    let t := s.performHost r
    let old := ofBytes ((List.range z).map fun i => s.mem.read (r.addr + i))
    t.hostq = s.hostq ∧ t.arrivals = s.arrivals ∧ t.hostReplies = s.hostReplies ++ [toBytes z old]
      ∧ Stored s t .hbm ((toBytes z (f.apply (8 * z) old v x)).zipIdx.map fun b => (r.addr + b.2, b.1)) := by
  intro t old
  have h := walkFrame_chargeRead s r.vd r.addr z
  obtain ⟨hq, ha, -⟩ := walkFrame_hostq h
  obtain ⟨hmem, hhost, hstore⟩ := walkFrame_mem h
  let s1 : State := { s.chargeRead r.vd r.addr z with hostReplies := s.hostReplies ++ [toBytes z old] }
  let w : Source := { vd := r.vd, carried := none, ver := r.ver, die := none, release := none }
  let bs := addressed r.addr (toBytes z (f.apply (8 * z) old v x))
  obtain ⟨hq', ha', hr'⟩ := (homeFrame_writeMem s1 w .hbm bs).hostq
  have hst := stored_writeMem s1 w .hbm bs (fun _ => (congrArg Memory.wf hmem).trans hm) fun h => by cases h
  have ht : t = s1.writeMem w .hbm bs := by
    unfold t State.performHost
    rw [hw] <;> rfl
  rw [ht]
  exact ⟨hq'.trans hq, ha'.trans ha, hr', Stored.of_same (tier := .hbm) hst hmem hhost hstore⟩

theorem hostRequest_spec : ∀ s r rest, s.hostq = r :: rest → s.arrivals.head? ≠ some false →
    let n := match r.what with
      | .read n => n
      | .write b => b.length
      | .atomic _ z _ _ => z
    let there : Prop := r.addr + n ≤ 2 ^ 39 ∨ (2 ^ 44 ≤ r.addr ∧ r.addr + n ≤ 2 ^ 44 + 6144 * 2 ^ 30)
    (¬ there → exec .hostRequest s = .fault .unbacked)
    ∧ (there → (∀ i, i < n → s.locked ((r.addr + i) / 128) = false) →
        (∀ n, r.what = .read n → Completes s .hostRequest fun t => SameMemory s t ∧ t.hostq = rest ∧ t.arrivals = s.arrivals.tail
            ∧ t.hostReplies = s.hostReplies ++ [(List.range n).map fun i => s.mem.read (r.addr + i)])
        ∧ (∀ b, r.what = .write b → s.mem.wf = true → Completes s .hostRequest fun t => t.hostq = rest ∧ t.arrivals = s.arrivals.tail
            ∧ Stored s t .hbm (b.zipIdx.map fun x => (r.addr + x.2, x.1)))
        ∧ (∀ f z v x, r.what = .atomic f z v x → s.mem.wf = true → Completes s .hostRequest fun t => t.hostq = rest
            ∧ t.arrivals = s.arrivals.tail
            ∧ (let old := ofBytes ((List.range z).map fun i => s.mem.read (r.addr + i))
               t.hostReplies = s.hostReplies ++ [toBytes z old]
               ∧ Stored s t .hbm ((toBytes z (f.apply (8 * z) old v x)).zipIdx.map fun b => (r.addr + b.2, b.1))))) := by
  intro s r rest hq ha n there
  have hn : n = r.what.size := by
    unfold n
    generalize r.what = what
    cases what with
    | read n => rfl
    | write b => rfl
    | atomic f z v x => rfl
  have hexec := execHostRequest_eq hq ha
  have hback : backed r.addr r.what.size = true ↔ there := by
    unfold backed there
    rw [decide_eq_true_eq, hn]
    rfl
  refine ⟨fun hno => ?_, fun hyes hfree => ?_⟩
  · rw [hexec, if_pos]
    rw [Bool.not_eq_true', Bool.eq_false_iff]
    exact fun h => hno (hback.1 h)
  · let s1 : State := { s with hostq := rest, arrivals := s.arrivals.tail }
    have hnone := (lockedAt_eq_none (s := s) (tier := .hbm) (by decide) r.addr r.what.size).2 fun i hi => hfree i (hn ▸ hi)
    have hnext : exec .hostRequest s = .next (s1.performHost r) := by
      rw [hexec, hback.2 hyes, hnone]
      rfl
    exact ⟨fun n hw => ⟨_, hnext, performHost_read (s := s1) hw⟩, fun b hw hm => ⟨_, hnext, performHost_write (s := s1) hw hm⟩,
      fun f z v x hw hm => ⟨_, hnext, performHost_atomic (s := s1) hw hm⟩⟩

/-! ## The collector (R93, R94) -/

theorem reclaimable_iff (s : State) (part c : Nat) (v next : Stamp) :
    s.reclaimable part c v next = true ↔ winLe next.window (winAdd c (-2 - (s.hold part : Int))) = true
      ∧ ∀ e ∈ (s.partition part).snaps, ¬ (v.under e.2.key = true ∧ next.under e.2.key = false) := by
  unfold State.reclaimable keyBetween Partition.liveKeys Stamp.after
  rw [Bool.and_eq_true, Bool.not_eq_true', List.any_eq_false]
  refine and_congr_right fun _ => ?_
  simp only [List.mem_map, Bool.and_eq_true, Bool.not_eq_true']
  constructor
  · intro h e he
    exact h _ ⟨e, he, rfl⟩
  · rintro h _ ⟨e, he, rfl⟩
    exact h e he

theorem keptVersions_eq {gone : Stamp → Stamp → Prop} {s : State} {part c : Nat} (hgone : ∀ v n, s.reclaimable part c v n = true ↔ gone v n)
    {n : Stamp} {vs ks : List Version} (h : KeptVersions gone n vs ks) : s.keepVersions part c n vs = ks := by
  induction h with
  | nil n => rfl
  | goes n v vs ks hg _ ih => rw [State.keepVersions, if_pos ((hgone ..).2 hg), ih]
  | stays n v vs ks hg _ ih => rw [State.keepVersions, if_neg fun h => hg ((hgone ..).1 h), ih]

theorem keepVersions_sublist (s : State) (part c : Nat) (vs : List Version) (n : Stamp) : (s.keepVersions part c n vs).Sublist vs := by
  induction vs generalizing n with
  | nil => exact .slnil
  | cons v rest ih =>
    unfold State.keepVersions
    split
    · exact (ih n).cons v
    · exact (ih v.stamp).cons_cons v

theorem farBehind_iff (c w : Nat) : farBehind c w = true ↔
    2 ^ 30 ≤ (c + 2 ^ 32 - w % 2 ^ 32) % 2 ^ 32 ∧ (c + 2 ^ 32 - w % 2 ^ 32) % 2 ^ 32 < 2 ^ 31 := decide_eq_true_iff

theorem settleLast_append (vs : List Version) (v : Version) :
    settleLast (vs ++ [v]) = vs ++ [{ v with stamp := { v.stamp with settled := true } }] := by
  induction vs with
  | nil => rfl
  | cons x rest ih =>
    cases rest with
    | nil => rfl
    | cons y ys => exact congrArg (x :: ·) ih

theorem execCollectorSettle_eq {s : State} {line y z : Nat} {vs : VersionSet} {cur : Nat} (hobj : OfObject s line y z)
    (hvs : s.versions.look line = some vs) (hcur : s.partWindow vs.part = some cur) :
    exec .collectorSettle s = if aged cur vs.oldest then .next { s with versions := s.versions.put line vs.settle } else .next s := by
  change execCollectorSettle s = _
  unfold execCollectorSettle
  rw [object_of hobj]
  dsimp only
  rw [hvs]
  dsimp only
  rw [hcur]

theorem execCollectorReclaim_eq {s : State} {line y z : Nat} {vs : VersionSet} {cur : Nat} (hobj : OfObject s line y z)
    (hvs : s.versions.look line = some vs) (hcur : s.partWindow vs.part = some cur) :
    exec .collectorReclaim s = if (s.keepVersions vs.part cur vs.newest vs.older).length < vs.older.length
      then .next { s with versions := s.versions.put line { vs with older := s.keepVersions vs.part cur vs.newest vs.older } } else .next s := by
  change execCollectorReclaim s = _
  unfold execCollectorReclaim
  rw [object_of hobj]
  dsimp only
  rw [hvs]
  dsimp only
  rw [hcur]
  unfold State.reclaimLine Tab.change
  rw [hvs]

theorem collector_spec : ∀ s line y z vs cur, OfObject s line y z → s.versions.look line = some vs → s.partWindow vs.part = some cur →
    let gone (v next : Stamp) : Prop := winLe next.window (winAdd cur (-2 - (s.hold vs.part : Int))) = true
      ∧ ∀ e ∈ (s.partition vs.part).snaps, ¬ (v.under e.2.key = true ∧ next.under e.2.key = false)
    let far (w : Nat) : Prop := 2 ^ 30 ≤ (cur + 2 ^ 32 - w % 2 ^ 32) % 2 ^ 32 ∧ (cur + 2 ^ 32 - w % 2 ^ 32) % 2 ^ 32 < 2 ^ 31
    (∀ ks, KeptVersions gone vs.newest vs.older ks → exec .collectorReclaim s = .next (
        if ks = vs.older then s else { s with versions := s.versions.put line { vs with older := ks } }))
    ∧ (vs.older = [] → vs.newest.settled = false → far vs.newest.window →
        exec .collectorSettle s = .next { s with versions := s.versions.put line { vs with newest := { vs.newest with settled := true } } })
    ∧ (∀ vs0 v, vs.older = vs0 ++ [v] → v.stamp.settled = false → far v.stamp.window →
        let vs' := { vs with older := vs0 ++ [{ v with stamp := { v.stamp with settled := true } }] }
        exec .collectorSettle s = .next { s with versions := s.versions.put line vs' })
    ∧ (let oldest : Stamp := (vs.older.getLast?.map (·.stamp)).getD vs.newest
       oldest.settled = true ∨ ¬ far oldest.window → exec .collectorSettle s = .next s) := by
  intro s line y z vs cur hobj hvs hcur gone far
  have hsettle := execCollectorSettle_eq hobj hvs hcur
  have haged : ∀ x : Stamp, aged cur x = true ↔ x.settled = false ∧ far x.window := fun x => by
    unfold aged
    rw [Bool.and_eq_true, Bool.not_eq_true', farBehind_iff]
  refine ⟨fun ks hks => ?_, fun hnil hset hfar => ?_, fun vs0 v hsnoc hset hfar => ?_, fun hno => ?_⟩
  · have hkeep : s.keepVersions vs.part cur vs.newest vs.older = ks := keptVersions_eq (reclaimable_iff s vs.part cur) hks
    have hsub : ks.Sublist vs.older := hkeep ▸ keepVersions_sublist ..
    rw [execCollectorReclaim_eq hobj hvs hcur, hkeep]
    by_cases h : ks = vs.older
    · rw [if_neg (by rw [h]; exact Nat.lt_irrefl _), if_pos h]
    · rw [if_pos, if_neg h]
      exact Nat.lt_of_le_of_ne hsub.length_le fun hl => h (hsub.eq_of_length hl)
  · have hold : vs.oldest = vs.newest := by
      unfold VersionSet.oldest
      rw [hnil]
      rfl
    rw [hsettle, if_pos (by rw [hold]; exact (haged _).2 ⟨hset, hfar⟩)]
    unfold VersionSet.settle
    rw [hnil]
    rfl
  · have hold : vs.oldest = v.stamp := by
      unfold VersionSet.oldest
      rw [hsnoc]
      simp
    rw [hsettle, if_pos (by rw [hold]; exact (haged _).2 ⟨hset, hfar⟩)]
    unfold VersionSet.settle
    rw [hsnoc, settleLast_append, if_neg (by simp)]
  · rw [hsettle, if_neg]
    intro h
    obtain ⟨h1, h2⟩ := (haged _).1 h
    rcases hno with h3 | h3
    · exact absurd (h1.symm.trans h3) Bool.false_ne_true
    · exact h3 h2

/-- Settles O46: each event of the memory system is taken by its own function of the model, one lemma for each. -/
theorem memoryEvents : Obligations.MemoryEvents :=
  ⟨loadDataReturn_spec, storeAccept_spec, walkDispatch_spec, walkComplete_spec, homeRequest_spec, l2Fill_spec, hostRequest_spec, collector_spec⟩

end Sys2Proof.Laws
end

section
/-! Channels, what translations depend on, and the ends of groups, launches, collectives and programs (R181, R202, R223, R384). -/

namespace Sys2Proof.Laws

open Sys2Proof Sys2Proof.Machine Sys2Proof.Claim

/-! ## Channels -/

theorem hinge_withHinge (s : State) (h h' : Nat) (f : Hinge → Hinge) : (s.withHinge h f).hinge h' = if h' = h then f (s.hinge h) else s.hinge h' := by
  by_cases e : h' = h
  · subst e
    rw [if_pos rfl]
    exact Tab.get_put_self ..
  · rw [if_neg e]
    exact Tab.get_put_ne _ _ _ _ _ e

/-- A change of a hinge processor that keeps its channels. -/
theorem channel?_withHinge (s : State) (h : Nat) {f : Hinge → Hinge} (hf : ∀ x, (f x).chans = x.chans) (h' n' : Nat) :
    (s.withHinge h f).channel? h' n' = s.channel? h' n' := by
  unfold State.channel?
  rw [hinge_withHinge]
  split
  · next e => subst e; rw [hf]
  · rfl

theorem channel?_withChannel (s : State) (h n : Nat) (f : Channel → Channel) (h' n' : Nat) :
    (s.withChannel h n f).channel? h' n' = if h' = h ∧ n' = n then (s.channel? h' n').map f else s.channel? h' n' := by
  unfold State.channel? State.withChannel
  rw [hinge_withHinge]
  by_cases e : h' = h
  · subst e
    rw [if_pos rfl]
    refine (Tab.look_change ..).trans ?_
    by_cases e' : n' = n
    · subst e'
      simp
    · simp [e']
  · simp [e]

theorem channel?_withChannel_self {s : State} {h n : Nat} {ch : Channel} (hch : s.channel? h n = some ch) (f : Channel → Channel) :
    (s.withChannel h n f).channel? h n = some (f ch) := by
  rw [channel?_withChannel, if_pos ⟨rfl, rfl⟩, hch]
  rfl

theorem channel?_congr {s t : State} (h : t.hinges = s.hinges) (k n : Nat) : t.channel? k n = s.channel? k n := by
  unfold State.channel? State.hinge
  rw [h]

/-- Where the channel is known, a change of it depends on that channel only. -/
theorem withChannel_congr {s : State} {h n : Nat} {ch : Channel} (hch : s.channel? h n = some ch) {f g : Channel → Channel} (hfg : f ch = g ch) :
    s.withChannel h n f = s.withChannel h n g := by
  have hlook : (s.hinge h).chans.look n = some ch := hch
  simp only [State.withChannel, State.withHinge, Tab.change, hlook, hfg]

/-! ## The end of groups (R202, R223, R356) -/

/-- Groups end: keys, locks, wards and cores are changed, and notices are given to the driver. -/
def GroupsEnd (s t : State) : Prop :=
  ∃ q r more n c, t = { s with partitions := q, versions := r, driver := s.driver ++ more, slices := n, cores := c }

namespace GroupsEnd

theorem refl (s : State) : GroupsEnd s s := ⟨_, _, [], _, _, by rw [List.append_nil]⟩

theorem trans {s t u : State} (h1 : GroupsEnd s t) (h2 : GroupsEnd t u) : GroupsEnd s u := by
  obtain ⟨q, r, more, n, c, rfl⟩ := h1
  obtain ⟨q', r', more', n', c', rfl⟩ := h2
  exact ⟨q', r', more ++ more', n', c', by rw [List.append_assoc]⟩

theorem foldl {α : Type} {f : State → α → State} (h : ∀ s x, GroupsEnd s (f s x)) (xs : List α) (s : State) : GroupsEnd s (xs.foldl f s) := by
  induction xs generalizing s with
  | nil => exact refl s
  | cons x rest ih => exact (h s x).trans (ih (f s x))

/-- A change of keys, locks, wards and cores. -/
theorem of_eq {s t : State} (h : ∃ q r n c, t = { s with partitions := q, versions := r, slices := n, cores := c }) : GroupsEnd s t := by
  obtain ⟨q, r, n, c, rfl⟩ := h
  exact ⟨q, r, [], n, c, by rw [List.append_nil]⟩

end GroupsEnd

theorem groupsEnd_releaseKey (s : State) (part : Nat) (z : DWord) : GroupsEnd s (s.releaseKey part z) := by
  unfold State.releaseKey
  split
  · exact .of_eq ⟨_, _, _, _, rfl⟩
  · exact .refl s

theorem groupsEnd_releaseHeld (s : State) (g : Group) : GroupsEnd s (s.releaseHeld g) := by
  unfold State.releaseHeld
  extract_lets part s1
  have h1 : GroupsEnd s s1 := by
    unfold s1
    split
    · split
      · exact .of_eq ⟨_, _, _, _, rfl⟩
      · exact .of_eq ⟨_, _, _, _, rfl⟩
    · exact .refl s
  refine h1.trans (.foldl (fun a z => ?_) _ s1)
  split
  · exact .refl a
  · exact groupsEnd_releaseKey ..

theorem groupsEnd_reportRemote (s : State) (g : Group) : GroupsEnd s (s.reportRemote g) := by
  unfold State.reportRemote
  split
  · exact ⟨_, _, _, _, _, rfl⟩
  · exact .refl s

theorem groupsEnd_checkBar (s : State) (c n b : Nat) : GroupsEnd s (s.checkBar c n b) := by
  unfold State.checkBar
  split
  · exact .refl s
  · extract_lets x need
    split
    · exact .refl s
    · exact .of_eq ⟨_, _, _, _, rfl⟩

theorem groupsEnd_dropWaiter (s : State) (x : Waiter) : GroupsEnd s (s.dropWaiter x) := .of_eq ⟨_, _, _, _, rfl⟩

theorem groupsEnd_withCore (s : State) (c : Nat) (f : Core → Core) : GroupsEnd s (s.withCore c f) := .of_eq ⟨_, _, _, _, rfl⟩

theorem groupsEnd_settleGangs (s : State) (l : Nat) : GroupsEnd s (s.settleGangs l) := .of_eq ⟨_, _, _, _, rfl⟩

theorem groupsEnd_endGroup (s : State) (c k : Nat) : GroupsEnd s (s.endGroup c k) := by
  unfold State.endGroup
  split
  · exact .refl s
  · next g _ =>
    have h1 := (groupsEnd_releaseHeld s g).trans (groupsEnd_reportRemote (s.releaseHeld g) g)
    extract_lets s1 s2 s3
    have hs1 : GroupsEnd s s1 := (h1.trans (groupsEnd_dropWaiter ..)).trans (groupsEnd_dropWaiter ..)
    have hs3 : GroupsEnd s s3 := (hs1.trans (groupsEnd_withCore ..)).trans (groupsEnd_withCore ..)
    exact (hs3.trans (.foldl (fun a b => groupsEnd_checkBar a c g.gang b) _ s3)).trans (groupsEnd_settleGangs ..)

theorem groupsEnd_endSaved (s : State) (c n k : Nat) (g : Group) : GroupsEnd s (s.endSaved c n k g) := by
  unfold State.endSaved State.withGang
  exact ((groupsEnd_releaseHeld s g).trans (groupsEnd_reportRemote (s.releaseHeld g) g)).trans (groupsEnd_withCore ..)

/-! ## The end of a launch (R223) -/

/-- A launch ends: its record says so, its groups end, and at most its channel stops for good. -/
structure LaunchEnds (s t : State) (l detail : Nat) : Prop where
  eq : ∃ q r more n c ls H, t = { s with
    partitions := q, versions := r, driver := s.driver ++ more, slices := n, cores := c, launches := ls, hinges := H }
  ended : ∀ x, s.launches.look l = some x → ∃ m, t.launches.look l = some m ∧ m.ended = some (x.ended.getD detail)
  channel : ∀ h n, (s.channel? h n = none → t.channel? h n = none) ∧ ∀ ch, s.channel? h n = some ch →
    t.channel? h n = some ch ∨ t.channel? h n = some { ch with killed := true, word := none }

theorem killChannel_spec (s : State) (h n : Nat) :
    let t := s.killChannel h n
    (∃ n H, t = { s with slices := n, hinges := H }) ∧ ∀ h' n', t.channel? h' n' =
      if h' = h ∧ n' = n then (s.channel? h' n').map fun ch => { ch with killed := true, word := none } else s.channel? h' n' := by
  refine ⟨⟨_, _, rfl⟩, fun h' n' => ?_⟩
  have hrun := channel?_withHinge (s.withChannel h n fun ch => { ch with killed := true, word := none }) h
    (f := fun x => { x with running := if x.running = some n then none else x.running }) (fun _ => rfl) h' n'
  exact hrun.trans (channel?_withChannel ..)

theorem launchEnds_endLaunch (s : State) (l detail : Nat) : LaunchEnds s (s.endLaunch l detail) l detail := by
  unfold State.endLaunch
  split
  · next hnone =>
    refine ⟨⟨_, _, [], _, _, _, _, by rw [List.append_nil]⟩, fun x hx => ?_, fun h n => ⟨id, fun ch hch => .inl hch⟩⟩
    rw [hnone] at hx
    cases hx
  · next x hx =>
    split
    · next hended =>
      refine ⟨⟨_, _, [], _, _, _, _, by rw [List.append_nil]⟩, fun y hy => ?_, fun h n => ⟨id, fun ch hch => .inl hch⟩⟩
      obtain rfl : x = y := Option.some.inj (hx.symm.trans hy)
      obtain ⟨d, hd⟩ := Option.isSome_iff_exists.1 hended
      exact ⟨x, hy, by rw [hd]; rfl⟩
    · next hended =>
      extract_lets s1 s2 saved s3 s4
      have h2 : GroupsEnd s1 s2 := .foldl (fun a (z : Nat × Nat × Group) => groupsEnd_endGroup a z.1 z.2.1) _ s1
      have h3 : GroupsEnd s2 s3 := .foldl (fun a (z : Nat × Nat × Nat × Group) => groupsEnd_endSaved a z.1 z.2.1 z.2.2.1 z.2.2.2) _ s2
      have h4 : GroupsEnd s1 s4 := (h2.trans h3).trans (.of_eq ⟨_, _, _, _, rfl⟩)
      have hlook : s1.launches.look l = some { x with ended := some detail, blocked := false } := by
        refine (Tab.look_change ..).trans ?_
        rw [if_pos rfl, hx]
        rfl
      have hout : ∀ y, s.launches.look l = some y → s1.launches.look l = some { x with ended := some detail, blocked := false }
          ∧ some detail = some (y.ended.getD detail) := fun y hy => by
        obtain rfl : x = y := Option.some.inj (hx.symm.trans hy)
        rw [Option.not_isSome_iff_eq_none.1 hended]
        exact ⟨hlook, rfl⟩
      obtain ⟨q, r, more, n, c, h4⟩ := h4
      split
      · next h' n' _ =>
        obtain ⟨⟨N, H, hk⟩, hchan⟩ := killChannel_spec s4 h' n'
        have hs4 : ∀ a b, s4.channel? a b = s.channel? a b := fun a b => channel?_congr (by rw [h4]; rfl) a b
        refine ⟨⟨q, r, more, N, c, s1.launches, H, by rw [hk, h4]; rfl⟩, fun y hy => ?_, fun a b => ?_⟩
        · rw [hk, h4]
          exact ⟨_, hout y hy⟩
        · rw [hchan, hs4]
          refine ⟨fun hn => ?_, fun ch hch => ?_⟩
          · rw [hn]
            split <;> rfl
          · rw [hch]
            split
            · exact .inr rfl
            · exact .inl rfl
      · refine ⟨⟨q, r, more, n, c, s1.launches, _, by rw [h4]; rfl⟩, fun y hy => ?_, fun a b => ?_⟩
        · rw [h4]
          exact ⟨_, hout y hy⟩
        · have hs4 : s4.channel? a b = s.channel? a b := channel?_congr (by rw [h4]; rfl) a b
          rw [hs4]
          exact ⟨id, fun ch hch => .inl hch⟩

/-! ## What a translation depends on (R15 to R19, R29) -/

/-- Translations and locks are the same in two states. -/
structure SameView (s t : State) : Prop where
  mem : ∀ tier a n, t.readMem tier a n = s.readMem tier a n
  poisoned : t.poisoned = s.poisoned
  locked : ∀ line, t.locked line = s.locked line
  window : ∀ v tier, t.window v tier = s.window v tier
  reloc : ∀ v tier a, t.reloc v tier a = s.reloc v tier a
  xlate : ∀ v, (t.device v).xlate = (s.device v).xlate
  nonleaf : ∀ d, (t.die d).nonleaf = (s.die d).nonleaf

namespace SameView

variable {s t : State} (h : SameView s t)
include h

theorem readNat (tier : Tier) (a n : Nat) : t.readNat tier a n = s.readNat tier a n := congrArg ofBytes (h.mem tier a n)

theorem inWindow (v : Nat) (tier : Tier) (a n : Nat) : t.inWindow v tier a n = s.inWindow v tier a n := by
  unfold State.inWindow
  rw [h.window]

theorem poisonedAt : t.poisonedAt = s.poisonedAt := by
  funext a
  unfold State.poisonedAt
  rw [h.poisoned]

theorem levelZero (tier : Tier) (table idx : Nat) : t.levelZero tier table idx = s.levelZero tier table idx := by
  unfold State.levelZero
  simp only [h.readNat]

theorem walkFrom (vd va : Nat) (cached : Nat → Option (Tier × Nat)) (l : Nat) (tier : Tier) (table : Nat) :
    Machine.walkFrom t vd va cached l tier table = Machine.walkFrom s vd va cached l tier table := by
  induction l generalizing tier table with
  | zero => rfl
  | succ l ih => simp only [Machine.walkFrom, h.inWindow, h.reloc, h.levelZero, h.readNat, h.poisonedAt, ih]

theorem walkWith (vd va : Nat) (cached : Nat → Option (Tier × Nat)) : t.walkWith vd va cached = s.walkWith vd va cached := by
  unfold State.walkWith
  simp only [h.xlate, h.walkFrom]

theorem walkOn (die : Option Nat) (vd va : Nat) : t.walkOn die vd va = s.walkOn die vd va := by
  unfold State.walkOn
  rw [h.walkWith]
  cases die with
  | none => rfl
  | some d =>
    refine congrArg _ (funext fun l => ?_)
    show (t.die d).nonleafLook vd va l = (s.die d).nonleafLook vd va l
    unfold Die.nonleafLook
    rw [h.nonleaf]

theorem walkLook (die : Option Nat) (vd : Nat) : t.walkLook die vd = s.walkLook die vd := by
  funext p
  unfold State.walkLook State.walkLocked
  rw [h.walkOn, funext fun a => h.locked (lineOf a)]

theorem translatePiece (vd : Nat) (kind : Access) (x : Nat × Nat) (r : WalkResult × Bool) :
    t.translatePiece vd kind x r = s.translatePiece vd kind x r := by
  unfold State.translatePiece
  simp only [h.inWindow, h.window, h.reloc]

theorem translatePieces (look : PageLook) (vd : Nat) (kind : Access) (xs : List (Nat × Nat)) :
    t.translatePieces look vd kind xs = s.translatePieces look vd kind xs := by
  induction xs with
  | nil => rfl
  | cons x rest ih =>
    unfold State.translatePieces
    rw [ih]
    simp only [h.translatePiece]

theorem translateOn (die : Option Nat) (vd : Nat) (kind : Access) (va n : Nat) : t.translateOn die vd kind va n = s.translateOn die vd kind va n := by
  unfold State.translateOn State.translate
  rw [h.walkLook]
  simp only [h.translatePieces]

theorem lockedAt (tier : Tier) (a n : Nat) : t.lockedAt tier a n = s.lockedAt tier a n := by
  unfold State.lockedAt
  rw [funext h.locked]

theorem lockedIn (ps : List Piece) : t.lockedIn ps = s.lockedIn ps := by
  unfold State.lockedIn
  simp only [h.lockedAt]

theorem headerLocked (vd va : Nat) : t.headerLocked vd va = s.headerLocked vd va := by
  unfold State.headerLocked State.translateAgent
  rw [h.translateOn]
  simp only [h.lockedIn]

end SameView

/-- States with the same memories, versions, devices and partitions. -/
theorem SameView.of_eq {s t : State} (hm : t.mem = s.mem) (hh : t.host = s.host) (hp : t.poisoned = s.poisoned) (hv : t.versions = s.versions)
    (hd : t.devices = s.devices) (hq : t.partitions = s.partitions) (hmod : t.module = s.module) (he : t.dies = s.dies) : SameView s t where
  mem tier a n := by unfold State.readMem; rw [hm, hh]
  poisoned := hp
  locked line := by unfold State.locked; rw [hv]
  window v tier := by unfold State.window State.device; rw [hmod, hd]
  reloc v tier a := by unfold State.reloc State.pbase State.partition State.device; rw [hd, hq]
  xlate v := by unfold State.device; rw [hd]
  nonleaf d := by unfold State.die; rw [he]

/-! ## What an agent's walks and reads leave (R27, R412) -/

namespace WalkFrame

variable {s t : State} (h : WalkFrame s t)
include h

theorem readMem (tier : Tier) (a n : Nat) : t.readMem tier a n = s.readMem tier a n := by
  unfold State.readMem
  rw [h.untouched.mem, h.untouched.host]

theorem homeBytes (ps : List Piece) : t.homeBytes ps = s.homeBytes ps := by
  unfold State.homeBytes
  simp only [h.readMem]

theorem hinges : t.hinges = s.hinges := by
  obtain ⟨a, b, c, d, e, rfl⟩ := h.walked.rest
  rfl

theorem partitions : t.partitions = s.partitions := by
  obtain ⟨a, b, c, d, e, rfl⟩ := h.walked.rest
  rfl

theorem device_eq (v : Nat) : (t.device v).part = (s.device v).part ∧ (t.device v).job = (s.device v).job ∧ (t.device v).conns = (s.device v).conns
    ∧ (t.device v).window = (s.device v).window ∧ (t.device v).state = (s.device v).state ∧ (t.device v).moving = (s.device v).moving := by
  obtain ⟨b, hb⟩ := h.walked.devices v
  rw [hb]
  exact ⟨rfl, rfl, rfl, rfl, rfl, rfl⟩

theorem reloc (v : Nat) (tier : Tier) (a : Nat) : t.reloc v tier a = s.reloc v tier a := by
  unfold State.reloc State.pbase State.partition
  rw [(h.device_eq v).1, h.partitions]

theorem route (v rank : Nat) : t.route v rank = s.route v rank := by
  obtain ⟨hpart, hjob, hconns, -⟩ := h.device_eq v
  unfold State.route
  simp only [hpart, hjob, hconns, h.readMem, h.reloc, State.hasPort, State.partition, h.partitions]

theorem portOwned (part hinge port : Nat) : t.portOwned part hinge port = s.portOwned part hinge port := by
  unfold State.portOwned State.partition
  rw [h.partitions]

theorem channel? (k n : Nat) : t.channel? k n = s.channel? k n := channel?_congr h.hinges k n

end WalkFrame

/-! ## The end of a collective (R181, R384) -/

theorem addressed_toBytes (a n v : Nat) : addressed a (toBytes n v) = (List.range n).map fun i => (a + i, BitVec.ofNat 8 (v / 256 ^ i)) := by
  unfold addressed
  rw [toBytes_eq_map]
  refine List.ext_getElem (by simp) fun i h1 h2 => ?_
  simp

/-- A number's eight lowest bytes are those of its value modulo 2^64. -/
theorem ofNat_byte_mod (x : Nat) {i : Nat} (hi : i < 8) : BitVec.ofNat 8 (x % 2 ^ 64 / 256 ^ i) = BitVec.ofNat 8 (x / 256 ^ i) := by
  refine BitVec.eq_of_toNat_eq ?_
  rw [BitVec.toNat_ofNat, BitVec.toNat_ofNat]
  interval_cases i <;> omega

/-- The bytes that the end of a collective writes into the header of its object (R181). -/
def headerBytes (p : Piece) (flags window uses : Nat) : List (Nat × Byte) :=
  (p.addr + 6, BitVec.ofNat 8 (flags / 2 * 2)) :: ((List.range 8).map fun i => (p.addr + 0x18 + i, BitVec.ofNat 8 (window * 2 ^ 16 / 256 ^ i)))
    ++ (List.range 8).map fun i => (p.addr + 0x20 + i, BitVec.ofNat 8 ((uses + 1) / 256 ^ i))

theorem headerBytes_eq (p : Piece) (flags window uses : Nat) :
    addressed (p.addr + 6) (toBytes 1 (flags / 2 * 2)) ++ addressed (p.addr + 0x18) (toBytes 8 (window * 2 ^ 16))
      ++ addressed (p.addr + 0x20) (toBytes 8 ((uses + 1) % 2 ^ 64)) = headerBytes p flags window uses := by
  have huses : ((List.range 8).map fun i => (p.addr + 0x20 + i, BitVec.ofNat 8 ((uses + 1) % 2 ^ 64 / 256 ^ i)))
      = (List.range 8).map fun i => (p.addr + 0x20 + i, BitVec.ofNat 8 ((uses + 1) / 256 ^ i)) :=
    List.map_congr_left fun i hi => by rw [ofNat_byte_mod _ (List.mem_range.1 hi)]
  have hflags : (List.range 1).map (fun i => (p.addr + 6 + i, BitVec.ofNat 8 (flags / 2 * 2 / 256 ^ i)))
      = [(p.addr + 6, BitVec.ofNat 8 (flags / 2 * 2))] := by simp
  rw [addressed_toBytes, addressed_toBytes, addressed_toBytes, huses, hflags]
  rfl

theorem WalkFrame.sameMemory_iff {s t u : State} (h : WalkFrame s t) : SameMemory t u ↔ SameMemory s u := by
  unfold SameMemory
  rw [h.untouched.mem, h.untouched.host, h.untouched.store]

/-- The header is written after the walks of its translation, and nothing is written where it does not translate. -/
theorem writeHeader_spec (s : State) (vd va : Nat) :
    let t := s.writeHeader vd va
    (∃ w, WalkFrame s w ∧ HomeFrame w t)
    ∧ (FormedMemory s → ∀ p, s.translateAgent vd .store va 256 = .ok [p] → Stored s t p.page.tier
        (headerBytes p (s.readNat p.page.tier (p.addr + 6) 1) (s.device vd).window (s.readNat p.page.tier (p.addr + 0x20) 8)))
    ∧ ((∀ p, s.translateAgent vd .store va 256 ≠ .ok [p]) → SameMemory s t) := by
  intro t
  have hwalk := walkFrame_agentWalks s none vd va 256
  by_cases h : ∃ p, s.translateAgent vd .store va 256 = .ok [p]
  · obtain ⟨p, hp⟩ := h
    let w := s.agentWalks none vd va 256
    let src : Source := { vd := vd, carried := none, ver := p.page.ver, die := none, release := none }
    have ht : t = w.writeMem src p.page.tier (headerBytes p (s.readNat p.page.tier (p.addr + 6) 1) (s.device vd).window
        (s.readNat p.page.tier (p.addr + 0x20) 8)) := by
      have hread : ∀ a n, s.readNat p.page.tier a n = w.readNat p.page.tier a n := fun a n => congrArg ofBytes (hwalk.readMem p.page.tier a n).symm
      have hwin : (s.device vd).window = (w.device vd).window := (hwalk.device_eq vd).2.2.2.1.symm
      rw [hread, hread, hwin, ← headerBytes_eq]
      unfold t State.writeHeader
      rw [hp]
    refine ⟨⟨w, hwalk, ht ▸ homeFrame_writeMem ..⟩, fun hm q hq => ?_, fun hno => absurd hp (hno p)⟩
    obtain rfl : p = q := by
      rw [hp] at hq
      cases hq
      rfl
    rw [ht]
    have hst := stored_writeMem w src p.page.tier (headerBytes p (s.readNat p.page.tier (p.addr + 6) 1) (s.device vd).window
      (s.readNat p.page.tier (p.addr + 0x20) 8)) (fun _ => (congrArg Memory.wf hwalk.untouched.mem).trans hm.1)
      fun _ => (congrArg Memory.wf hwalk.untouched.host).trans hm.2
    exact Stored.of_same hst hwalk.untouched.mem hwalk.untouched.host hwalk.untouched.store
  · have ht : t = s.agentWalks none vd va 256 := by
      unfold t State.writeHeader
      dsimp only
      split
      · next p hp => exact absurd ⟨p, hp⟩ h
      · rfl
    rw [ht]
    exact ⟨⟨_, hwalk, .refl _⟩, fun _ p hp => absurd ⟨p, hp⟩ h, fun _ => hwalk.sameMemory⟩

theorem freeSlots_eq (s : State) (vd comm : Nat) : ∃ a o, s.freeSlots vd comm =
    { s with comb := s.comb.filter fun x => !(x.2.vd == vd && x.2.comm == comm), acks := a, outbox := o } := by
  have hanswers : ∀ (xs : List FabOp) (u : State), ∃ a o, xs.foldl (fun b x => b.answer x 0 0 []) u = { u with acks := a, outbox := o } := by
    intro xs
    induction xs with
    | nil => exact fun u => ⟨_, _, rfl⟩
    | cons x rest ih =>
      intro u
      have h1 : ∃ a o, u.answer x 0 0 [] = { u with acks := a, outbox := o } := by
        unfold State.answer
        dsimp only
        split
        · exact ⟨_, _, rfl⟩
        · exact ⟨_, _, rfl⟩
      obtain ⟨a, o, h1⟩ := h1
      obtain ⟨a', o', h2⟩ := ih (u.answer x 0 0 [])
      exact ⟨a', o', by rw [List.foldl_cons, h2, h1]⟩
  obtain ⟨a, o, h⟩ := hanswers ((s.comb.filter fun x => x.2.vd == vd && x.2.comm == comm).flatMap fun x => x.2.staged)
    { s with comb := s.comb.filter fun x => !(x.2.vd == vd && x.2.comm == comm) }
  exact ⟨a, o, h⟩

theorem HomeFrame.rest {s t : State} (h : HomeFrame s t) : t.driver = s.driver ∧ t.comb = s.comb ∧ t.store = s.store := by
  obtain ⟨m, h, p, r, q, d, l, c, e, n, i, rfl⟩ := h.eq
  exact ⟨rfl, rfl, rfl⟩

theorem WalkFrame.rest {s t : State} (h : WalkFrame s t) : t.driver = s.driver ∧ t.comb = s.comb ∧ t.launches = s.launches := by
  obtain ⟨a, b, c, d, e, rfl⟩ := h.walked.rest
  exact ⟨rfl, rfl, rfl⟩

/-- The header of the object of a channel, if it has one and its device is not lost (R181). -/
def closeHeader (s : State) (ch : Channel) : State :=
  match ch.obj with
  | some o => if (s.device ch.vd).state = DevState.lost then s else s.writeHeader ch.vd o.1
  | none => s

theorem closeHeader_frame (s : State) (ch : Channel) :
    let t := closeHeader s ch
    t.driver = s.driver ∧ t.comb = s.comb
      ∧ ∀ l x, s.launches.look l = some x → ∃ z, t.launches.look l = some { x with snap := z } := by
  have hrefl : s.driver = s.driver ∧ s.comb = s.comb ∧ ∀ l x, s.launches.look l = some x → ∃ z, s.launches.look l = some { x with snap := z } :=
    ⟨rfl, rfl, fun l x hx => ⟨x.snap, hx⟩⟩
  unfold closeHeader
  split
  · next o _ =>
    split
    · exact hrefl
    · obtain ⟨⟨w, hw, hh⟩, -, -⟩ := writeHeader_spec s ch.vd o.1
      obtain ⟨hd, hc, hl⟩ := hw.rest
      obtain ⟨hd', hc', -⟩ := hh.rest
      refine ⟨hd'.trans hd, hc'.trans hc, fun l x hx => ?_⟩
      obtain ⟨z, hz⟩ := hh.launch l
      rw [hl, hx] at hz
      exact ⟨z, hz⟩
  · exact hrefl

theorem closeHeader_memory (s : State) (ch : Channel) :
    let t := closeHeader s ch
    (FormedMemory s → ∀ va count p, ch.obj = some (va, count) → (s.device ch.vd).state ≠ .lost →
      s.translateAgent ch.vd .store va 256 = .ok [p] → Stored s t p.page.tier
        (headerBytes p (s.readNat p.page.tier (p.addr + 6) 1) (s.device ch.vd).window (s.readNat p.page.tier (p.addr + 0x20) 8)))
    ∧ ((ch.obj = none ∨ (s.device ch.vd).state = .lost
        ∨ ∀ va count p, ch.obj = some (va, count) → s.translateAgent ch.vd .store va 256 ≠ .ok [p]) → SameMemory s t) := by
  have hsame : SameMemory s s := fun a => ⟨rfl, rfl, rfl⟩
  unfold closeHeader
  refine ⟨fun hm va count p hobj halive hp => ?_, fun hbare => ?_⟩
  · rw [hobj]
    dsimp only
    rw [if_neg halive]
    exact (writeHeader_spec s ch.vd va).2.1 hm p hp
  · split
    · next o ho =>
      split
      · exact hsame
      · next halive =>
        refine (writeHeader_spec s ch.vd o.1).2.2 fun p hp => ?_
        rcases hbare with h | h | h
        · rw [ho] at h
          cases h
        · exact halive h
        · exact h o.1 o.2 p ho hp
    · exact hsame

theorem endChannel_eq {s : State} {h n : Nat} {ch : Channel} (hch : s.channel? h n = some ch) :
    s.endChannel h n = (((closeHeader s ch).freeSlots ch.vd ch.comm).withHinge h fun x =>
      { x with chans := x.chans.del n, running := if x.running = some n then none else x.running }).withLaunch ch.launch
        fun l => { l with coll := none } := by
  unfold State.endChannel
  rw [hch] <;> rfl

theorem look_del_self {α : Type} (t : Tab α) (n : Nat) : (t.del n).look n = none := by
  induction t with
  | nil => rfl
  | cons x rest ih =>
    unfold Tab.del
    split
    · exact ih
    · next h =>
      unfold Tab.look
      rw [if_neg h]
      exact ih

theorem endChannel_spec {s : State} {h n : Nat} {ch : Channel} (hch : s.channel? h n = some ch) :
    let t := s.endChannel h n
    CollectiveEnded s t h n ch ∧ t.driver = s.driver
      ∧ ∀ l x, s.launches.look l = some x → ∃ z c, t.launches.look l = some { x with snap := z, coll := c } := by
  obtain ⟨hdriver, hcomb, hlaunch⟩ := closeHeader_frame s ch
  obtain ⟨hheader, hbare⟩ := closeHeader_memory s ch
  obtain ⟨a, o, hfree⟩ := freeSlots_eq (closeHeader s ch) ch.vd ch.comm
  rw [endChannel_eq hch]
  generalize closeHeader s ch = u at hdriver hcomb hlaunch hheader hbare hfree
  rw [hfree]
  refine ⟨⟨?_, fun y hy => ?_, fun y hy hno => ?_, fun hm va count p hobj halive hp => hheader hm va count p hobj halive hp, hbare⟩,
    hdriver, fun l x hx => ?_⟩
  · refine (congrArg (Tab.look · n) (congrArg Hinge.chans (Tab.get_put_self ..))).trans ?_
    exact look_del_self ..
  · have := (List.mem_filter.1 hy).2
    rw [Bool.not_eq_true', Bool.and_eq_false_iff, beq_eq_false_iff_ne, beq_eq_false_iff_ne] at this
    exact fun ⟨h1, h2⟩ => this.elim (· h1) (· h2)
  · refine List.mem_filter.2 ⟨hcomb ▸ hy, ?_⟩
    rw [Bool.not_eq_true', Bool.and_eq_false_iff, beq_eq_false_iff_ne, beq_eq_false_iff_ne]
    exact not_and_or.1 hno
  · obtain ⟨z, hz⟩ := hlaunch l x hx
    by_cases hl : l = ch.launch
    · subst hl
      exact ⟨z, none, (Tab.look_change ..).trans (by rw [if_pos rfl]; exact congrArg _ hz)⟩
    · exact ⟨z, x.coll, (Tab.look_change ..).trans (by rw [if_neg hl]; exact hz)⟩

/-- What follows the end of a collective keeps it. -/
theorem CollectiveEnded.of_view {s u t v : State} {h n : Nat} {ch : Channel} (hc : CollectiveEnded u t h n ch)
    (hu : ∃ H D, u = { s with hinges := H, driver := D }) (hchan : v.channel? h n = none) (hmem : v.mem = t.mem) (hhost : v.host = t.host)
    (hstore : v.store = t.store) (hcomb : v.comb = t.comb) : CollectiveEnded s v h n ch := by
  obtain ⟨H, D, rfl⟩ := hu
  have hview : SameView s { s with hinges := H, driver := D } := .of_eq rfl rfl rfl rfl rfl rfl rfl rfl
  obtain ⟨-, hslots, hothers, hheader, hbare⟩ := hc
  have htr : ∀ vd kind va n, s.translateAgent vd kind va n = State.translateAgent { s with hinges := H, driver := D } vd kind va n :=
    fun vd kind va n => (hview.translateOn none vd kind va n).symm
  refine ⟨hchan, hcomb ▸ hslots, fun y hy hno => hcomb ▸ hothers y hy hno, fun hm va count p hobj halive hp => ?_, fun hno => ?_⟩
  · have h := hheader hm va count p hobj halive ((htr ..).symm.trans hp)
    unfold Stored at h ⊢
    rw [hmem, hhost, hstore]
    exact h
  · have h : SameMemory s t := hbare (hno.imp id (Or.imp id fun hno va count p hobj hp => hno va count p hobj ((htr ..).trans hp)))
    intro a
    rw [hmem, hhost, hstore]
    exact h a

/-! ## The failure of a program (R384) -/

theorem endHeld_eq {s t : State} {h n : Nat} {ch ch' : Channel} (hs : s.channel? h n = some ch) (ht : t.channel? h n = some ch')
    (hobj : ch'.obj = ch.obj) (hvd : ch'.vd = ch.vd) (hview : SameView s t) (hdev : t.devices = s.devices) :
    t.endHeld h n = s.endHeld h n := by
  unfold State.endHeld
  rw [hs, ht]
  dsimp only
  rw [hobj, hvd]
  simp only [hview.headerLocked, State.device, hdev]

/-- The program of a channel has failed, and nothing of it is under way. -/
theorem programEnded_settle {s w u : State} {h n status detail : Nat} {ch ch1 : Channel} (hw : WalkFrame s w)
    (hu : ∃ H, u = { w with hinges := H }) (hch : s.channel? h n = some ch) (hch1 : u.channel? h n = some ch1)
    (heq : ch1 = { ch with failed := some (status, detail), word := none, wait := none }) (hsends : ch.sends = []) :
    ProgramEnded s (u.settleChannel h n) h n ch status detail := by
  obtain ⟨hdriver, hcomb, hlaunches⟩ := hw.rest
  have hwch : w.channel? h n = some ch := (hw.channel? h n).trans hch
  let ch2 : Channel := { ch1 with failed := none, killed := true }
  let s1 := { u with driver := u.driver ++ [Notification.program ch.vd status detail ch.pc] }.withChannel h n fun y =>
    { y with failed := none, killed := true }
  have hs1 : ∃ H D, s1 = { w with hinges := H, driver := D } := by
    obtain ⟨H, rfl⟩ := hu
    exact ⟨_, _, rfl⟩
  have hs1driver : s1.driver = s.driver ++ [Notification.program ch.vd status detail ch.pc] := by
    obtain ⟨H, rfl⟩ := hu
    exact congrArg (· ++ _) hdriver
  have hs1launch : s1.launches = s.launches := by
    obtain ⟨H, rfl⟩ := hu
    exact hlaunches
  have hs1ch : s1.channel? h n = some ch2 := channel?_withChannel_self (s := { u with driver := _ }) hch1 _
  have hheld : u.endHeld h n = w.endHeld h n := by
    obtain ⟨H, rfl⟩ := hu
    exact endHeld_eq hwch hch1 (by rw [heq]) (by rw [heq]) (.of_eq rfl rfl rfl rfl rfl rfl rfl rfl) rfl
  have ht : u.settleChannel h n = (if ch.killed || w.endHeld h n then s1 else s1.endChannel h n).endLaunch ch.launch 2 := by
    unfold State.settleChannel
    rw [hch1, ← hheld]
    dsimp only
    rw [heq]
    dsimp only
    rw [hsends] <;> rfl
  rw [ht]
  by_cases hk : (ch.killed || w.endHeld h n) = true
  · rw [if_pos hk]
    obtain ⟨⟨q, r, more, N, c, ls, H, he⟩, hended, hchan⟩ := launchEnds_endLaunch s1 ch.launch 2
    refine ⟨⟨more, by rw [he]; exact (congrArg (· ++ more) hs1driver).trans (List.append_assoc ..)⟩, fun l hl => hended l (by rw [hs1launch]; exact hl),
      ⟨w, hw.walked, fun hnk hnh => ?_, fun _ => ⟨?_, ?_⟩⟩⟩
    · rw [hnk, hnh] at hk
      cases hk
    · obtain ⟨H', D, hs1⟩ := hs1
      rw [he, hs1]
      exact hw.sameMemory
    · rcases (hchan h n).2 ch2 hs1ch with hc | hc
      · exact ⟨ch2, hc, rfl, rfl, by unfold ch2; rw [heq]⟩
      · exact ⟨_, hc, rfl, rfl, rfl⟩
  · rw [if_neg hk]
    obtain ⟨hcoll, hedriver, helaunch⟩ := endChannel_spec hs1ch
    obtain ⟨⟨q, r, more, N, c, ls, H, he⟩, hended, hchan⟩ := launchEnds_endLaunch (s1.endChannel h n) ch.launch 2
    refine ⟨⟨more, ?_⟩, fun l hl => ?_, ⟨w, hw.walked, fun _ _ => ?_, fun hno => ?_⟩⟩
    · rw [he]
      exact (congrArg (· ++ more) (hedriver.trans hs1driver)).trans (List.append_assoc ..)
    · obtain ⟨z, cl, hz⟩ := helaunch ch.launch l (by rw [hs1launch]; exact hl)
      have hm := hended _ hz
      exact hm
    · have hcl := CollectiveEnded.of_view hcoll (v := (s1.endChannel h n).endLaunch ch.launch 2) hs1 ((hchan h n).1 hcoll.channel) (by rw [he]) (by rw [he])
        (by rw [he]) (by rw [he])
      have h2 : ch2.vd = ch.vd ∧ ch2.comm = ch.comm ∧ ch2.obj = ch.obj := by
        unfold ch2
        rw [heq]
        exact ⟨rfl, rfl, rfl⟩
      obtain ⟨hvd, hcomm, hobj⟩ := h2
      obtain ⟨h1, h2, h3, h4, h5⟩ := hcl
      rw [hvd, hcomm] at h2 h3
      rw [hvd, hobj] at h4 h5
      exact ⟨h1, h2, h3, h4, h5⟩
    · refine absurd ?_ hk
      rcases hno with h | h
      · rw [h]
        rfl
      · rw [h, Bool.or_true]

/-- A program status ends a program with nothing under way, and stops the channel at its word otherwise. -/
theorem fails_chanFail {s w : State} {h n : Nat} {ch : Channel} (hw : WalkFrame s w) (hch : s.channel? h n = some ch) (status detail : Nat) :
    Fails s h n ch status detail (w.chanFail h n status detail) := by
  intro hnone
  have hwch : w.channel? h n = some ch := (hw.channel? h n).trans hch
  let ch1 : Channel := { ch with failed := some (status, detail), word := none, wait := ch.getting.map ChanWait.get }
  let u := (w.withChannel h n fun x =>
      { x with failed := some (status, detail), word := none, wait := ch.getting.map ChanWait.get }).withHinge h
    fun x => if x.running = some n then { x with switch := true } else x
  have hkeep : ∀ x : Hinge, (if x.running = some n then { x with switch := true } else x).chans = x.chans := fun x => by
    split
    · rfl
    · rfl
  have hu : w.chanFail h n status detail = u.settleChannel h n := by
    unfold State.chanFail
    rw [withChannel_congr hwch (g := fun x => { x with failed := some (status, detail), word := none, wait := ch.getting.map ChanWait.get })]
    rw [hnone]
    rfl
  have huch : u.channel? h n = some ch1 := (channel?_withHinge _ h hkeep h n).trans (channel?_withChannel_self hwch _)
  rw [hu]
  refine ⟨fun hbusy => ⟨w, hw.walked, ?_⟩, fun hsends hget => ?_⟩
  · have hget : ch1.getting = ch.getting := by
      show Channel.getting { ch with failed := some (status, detail), word := none, wait := ch.getting.map ChanWait.get } = ch.getting
      cases h : ch.getting with
      | none => rfl
      | some id => rfl
    have hcond : (!ch1.sends.isEmpty || ch1.getting.isSome) = true := by
      rw [Bool.or_eq_true, hget]
      refine hbusy.imp (fun h => ?_) fun h => Option.isSome_iff_ne_none.2 h
      show (!ch.sends.isEmpty) = true
      simpa using h
    unfold State.settleChannel
    rw [huch]
    dsimp only [ch1] at hcond ⊢
    rw [if_pos hcond]
  · refine programEnded_settle hw ⟨_, rfl⟩ hch huch ?_ hsends
    unfold ch1
    rw [hget]
    rfl

end Sys2Proof.Laws
end

section
/-! Sends of a hinge program (O41). -/

namespace Sys2Proof.Laws

open Sys2Proof Sys2Proof.Machine Sys2Proof.Claim

/-! ## Sends of a channel (R375, R381, R382) -/

/-- The operation that a channel sends. -/
def chanOpSent (s : State) (ch : Channel) (q o : Nat) (kind : FabKind) : FabOp :=
  { id := s.nextOp, from? := some ch.vd, src := ((s.device ch.vd).job.map (·.rank)).getD 0, dst := q, window := (s.device ch.vd).window,
    vd := 0, off := o, kind := kind, forwarded := false }

/-- The record of an operation that a channel sends. -/
def sentOp (s : State) (h n : Nat) (ch : Channel) (q dest size : Nat) (pages : List Page) (get : Bool) : EngOp :=
  { kind := .channel h n q dest size get, core := Config.cores, slot := 0, launch := ch.launch, gang := 0,
    vd := ch.vd, ctr := .copies, pages := pages, bad := [], window := (s.device ch.vd).window, done := 0 }

/-- What becomes of a send: it may not use its port, waits for credits, or leaves. -/
def ChanSends (s : State) (h n : Nat) (ch : Channel) (i : Instr) (q o dest size : Nat) (pages : List Page) (get : Bool) (kind : FabKind) : Prop :=
  let away : Prop := ∃ b, s.route ch.vd q = .away b
  let port := if ch.port = 4 then q % 4 else ch.port
  let owned : Prop := s.portOwned ch.part h port = true
  let credit : Prop := port ∉ ch.nocredit
  (away → ¬ owned → Completes s i (Fails s h n ch 9 0))
  ∧ (away → owned → ¬ credit → ∃ s0, Walked s s0 ∧ exec i s = .next ((s0.withChannel h n fun y =>
      { y with wait := some (.credit port) }).withHinge h fun y => { y with switch := true }))
  ∧ ((away → owned ∧ credit) → Completes s i fun t => SameMemory s t ∧ Sent s t ch.vd (chanOpSent s ch q o kind)
      ∧ t.ops.look s.nextOp = some (sentOp s h n ch q dest size pages get)
      ∧ t.channel? h n = some (if get then { ch with wait := some (.get s.nextOp) }
          else { nextWord ch with sends := ch.sends ++ [s.nextOp] }))

theorem leaves_iff (r : Route) : r.leaves = true ↔ ∃ b, r = .away b := by
  cases r with
  | absent => simp [Route.leaves]
  | here v => simp [Route.leaves]
  | away b => simp [Route.leaves]

/-- The state of a channel whose operation is about to leave. -/
def chanIssued (w : State) (h n : Nat) (id : Nat) (o : EngOp) (get : Bool) : State :=
  let s1 := { (w.newOp) with ops := w.ops.put id o }
  if get then s1.chanWait h n (.get id) else s1.withChannel h n fun y => { y.go with sends := y.sends ++ [id] }

theorem channel?_chanWait {s : State} {h n : Nat} {ch : Channel} (hch : s.channel? h n = some ch) (w : ChanWait) :
    (s.chanWait h n w).channel? h n = some { ch with wait := some w } :=
  (channel?_withHinge (s.withChannel h n fun ch => { ch with wait := some w }) h (f := fun x => { x with switch := true })
    (fun _ => rfl) h n).trans (channel?_withChannel_self hch _)

theorem chanIssued_spec {w : State} {h n : Nat} {ch : Channel} (hch : w.channel? h n = some ch) (id : Nat) (o : EngOp) (get : Bool) :
    let t := chanIssued w h n id o get
    (∃ H, t = { w with nextOp := w.nextOp + 1, ops := w.ops.put id o, hinges := H })
      ∧ t.channel? h n = some (if get then { ch with wait := some (.get id) } else { nextWord ch with sends := ch.sends ++ [id] }) := by
  have hch1 : State.channel? { (w.newOp) with ops := w.ops.put id o } h n = some ch := hch
  unfold chanIssued
  cases get with
  | true => exact ⟨⟨_, rfl⟩, channel?_chanWait hch1 _⟩
  | false => exact ⟨⟨_, rfl⟩, channel?_withChannel_self hch1 _⟩

theorem WalkFrame.issue {s t : State} (h : WalkFrame s t) : t.nextOp = s.nextOp ∧ t.ops = s.ops ∧ t.acks = s.acks ∧ t.wire = s.wire
    ∧ t.outbox = s.outbox := by
  obtain ⟨a, b, c, d, e, rfl⟩ := h.walked.rest
  exact ⟨rfl, rfl, rfl, rfl, rfl⟩

theorem chanSends_of {s w : State} {h n : Nat} {ch : Channel} {i : Instr} {q o dest size : Nat} {pages : List Page} {get : Bool} {kind : FabKind}
    (hw : WalkFrame s w) (hch : s.channel? h n = some ch)
    (hexec : exec i s = .next (w.chanSend h n ch q o dest size pages get kind)) : ChanSends s h n ch i q o dest size pages get kind := by
  unfold ChanSends
  intro away port owned credit
  have hwch : w.channel? h n = some ch := (hw.channel? h n).trans hch
  have hleaves : (w.route ch.vd q).leaves = true ↔ away := by rw [leaves_iff, hw.route]
  have hport : w.portOwned ch.part h port = s.portOwned ch.part h port := hw.portOwned ..
  have hcredit : ch.nocredit.contains port = true ↔ ¬ credit := by
    rw [List.contains_iff_mem]
    exact not_not.symm
  unfold State.chanSend at hexec
  dsimp only at hexec
  refine ⟨fun haway hno => ⟨_, hexec, ?_⟩, fun haway hown hno => ⟨w, hw.walked, hexec.trans (congrArg _ ?_)⟩, fun hok => ⟨_, hexec, ?_⟩⟩
  · rw [if_pos]
    · exact fails_chanFail hw hch 9 0
    · rw [Bool.and_eq_true, Bool.not_eq_true']
      refine ⟨hleaves.2 haway, ?_⟩
      rw [show w.portOwned ch.part h (if ch.port = 4 then q % 4 else ch.port) = s.portOwned ch.part h port from hport]
      exact Bool.eq_false_iff.2 hno
  · rw [if_neg, if_pos]
    · rfl
    · rw [Bool.and_eq_true]
      exact ⟨hleaves.2 haway, hcredit.2 hno⟩
    · rw [Bool.and_eq_true, Bool.not_eq_true']
      rintro ⟨-, h2⟩
      rw [show w.portOwned ch.part h (if ch.port = 4 then q % 4 else ch.port) = s.portOwned ch.part h port from hport] at h2
      exact absurd (hown.symm.trans h2) (Bool.false_ne_true ∘ Eq.symm)
  · obtain ⟨hnext, hops, hacks, hwire, hout⟩ := hw.issue
    obtain ⟨-, hjob, -, hwin, -⟩ := hw.device_eq ch.vd
    rw [if_neg, if_neg]
    · let op := sentOp s h n ch q dest size pages get
      obtain ⟨⟨H, hiss⟩, hissch⟩ := chanIssued_spec hwch s.nextOp op get
      obtain ⟨hposted, hsent⟩ := sendFab_spec (chanIssued w h n s.nextOp op get) ch.vd (chanOpSent s ch q o kind)
      have hop : sentOp w h n ch q dest size pages get = op := by
        unfold op sentOp
        rw [hwin]
      have hx : chanOpSent w ch q o kind = chanOpSent s ch q o kind := by
        unfold chanOpSent
        rw [hnext, hjob, hwin]
      have ht : (chanIssued w h n w.nextOp (sentOp w h n ch q dest size pages get) get).sendFab ch.vd (chanOpSent w ch q o kind)
          = (chanIssued w h n s.nextOp op get).sendFab ch.vd (chanOpSent s ch q o kind) := by rw [hop, hx, hnext]
      refine (congrArg (fun t : State => SameMemory s t ∧ Sent s t ch.vd (chanOpSent s ch q o kind) ∧ t.ops.look s.nextOp = some op
        ∧ t.channel? h n = some (if get then { ch with wait := some (.get s.nextOp) }
          else { nextWord ch with sends := ch.sends ++ [s.nextOp] })) ht).mpr ?_
      have hu := hposted.untouched
      have heq := hposted.eq
      refine ⟨fun a => ?_, Sent.of_same ?_ ?_ ?_ ?_ hsent, ?_, ?_⟩
      · rw [hu.mem, hu.host, hu.store, hiss]
        exact hw.sameMemory a
      · rw [← hw.route, hiss]
        rfl
      · rw [hiss]
        exact hacks
      · rw [hiss]
        exact hwire
      · rw [hiss]
        exact hout
      · rw [heq, hiss]
        exact (Tab.look_put_self ..)
      · refine (channel?_congr ?_ h n).trans hissch
        rw [heq]
    · rw [Bool.and_eq_true]
      rintro ⟨h1, h2⟩
      exact (hcredit.1 h2) (hok (hleaves.1 h1)).2
    · rw [Bool.and_eq_true, Bool.not_eq_true']
      rintro ⟨h1, h2⟩
      rw [show w.portOwned ch.part h (if ch.port = 4 then q % 4 else ch.port) = s.portOwned ch.part h port from hport] at h2
      exact absurd ((hok (hleaves.1 h1)).1.symm.trans h2) (Bool.false_ne_true ∘ Eq.symm)

/-! ## The sending instructions of a channel (R375, R379) -/

theorem onChannel_runs {s : State} {h n : Nat} {ch : Channel} {w : HingeFields} (hon : OnHinge s h n ch w)
    (f : Nat → Nat → Channel → HingeFields → State) : onChannel s f = .next (f h n ch w) := by
  obtain ⟨hactor, hch, x, hword, hfields⟩ := hon
  unfold onChannel
  rw [hactor]
  dsimp only
  rw [hch]
  dsimp only
  rw [hword, ← hfields]

theorem channelBecomes_go {s : State} {h n : Nat} {ch : Channel} {i : Instr} (hch : s.channel? h n = some ch)
    (hexec : exec i s = .next (s.withChannel h n Channel.go)) : ChannelBecomes s h n i (nextWord ch) :=
  hexec.trans (congrArg _ (withChannel_congr hch rfl))

theorem fabOk_iff (s : State) (ch : Channel) (a : DWord) (n : Nat) : s.fabOk ch a n = true ↔ FabReach (s.device ch.vd) a n := by
  unfold State.fabOk
  rw [Option.isNone_iff_eq_none]
  refine ⟨fun h => not_not.1 fun hno => ?_, fabricBad_of_reach⟩
  rw [fabricBad_of_not_reach hno] at h
  cases h

/-- A route's entry is looked at first: its line may be locked. -/
def ChanRouted (s : State) (ch : Channel) (i : Instr) (q : Nat) (P : Prop) : Prop :=
  ((s.routeHeld ch.vd q).isSome = true → exec i s = .next s) ∧ (s.routeHeld ch.vd q = none → P)

/-- A local access is translated. -/
def ChanReads (s : State) (h n : Nat) (ch : Channel) (i : Instr) (kind : Access) (va size : Nat) (P : List Piece → Prop) : Prop :=
  let tr := channelPieces s h ch.vd kind va size
  (∀ f b, tr = .fault f b → Completes s i (Fails s h n ch 2 f.code)) ∧ (∀ ms, tr = .miss ms → exec i s = .next s)
  ∧ ∀ ps, tr = .ok ps → P ps

/-- The source of a send is read, and the operation leaves. -/
def ChanSource (s : State) (h n : Nat) (ch : Channel) (i : Instr) (q o loc size : Nat) (kind : List Byte → FabKind) : Prop :=
  ChanRouted s ch i q (ChanReads s h n ch i .load loc size fun ps => ((s.lockedIn ps).isSome = true → exec i s = .next s)
    ∧ (s.lockedIn ps = none → ChanSends s h n ch i q o 0 size [] false (kind (s.homeBytes ps))))

theorem fails_of {s w : State} {h n : Nat} {ch : Channel} {i : Instr} {st dt : Nat} (hw : WalkFrame s w) (hch : s.channel? h n = some ch)
    (hexec : exec i s = .next (w.chanFail h n st dt)) : Completes s i (Fails s h n ch st dt) := ⟨_, hexec, fails_chanFail hw hch st dt⟩

theorem chanSource_of {s : State} {h n : Nat} {ch : Channel} {i : Instr} {q o loc size : Nat} {kind : List Byte → FabKind}
    (hch : s.channel? h n = some ch)
    (hexec : exec i s = .next (if (s.routeHeld ch.vd q).isSome then s else s.withAccess h n ch .load loc size 1 fun t ps =>
      t.chanSend h n ch q o 0 size [] false (kind (t.homeBytes ps)))) : ChanSource s h n ch i q o loc size kind := by
  refine ⟨fun hheld => hexec.trans (by rw [if_pos hheld]), fun hfree => ?_⟩
  rw [if_neg (by rw [hfree]; exact Bool.false_ne_true)] at hexec
  have hwalk := walkFrame_agentWalks s (some (hingeDie h)) ch.vd loc size
  have hone : ¬ (size ≠ 0 ∧ loc % 1 ≠ 0) := fun hno => hno.2 (Nat.mod_one _)
  unfold State.withAccess State.chanAccess at hexec
  simp only [if_neg hone] at hexec
  unfold ChanReads
  intro tr
  refine ⟨fun f b htr => ?_, fun ms htr => ?_, fun ps htr => ⟨fun hlock => ?_, fun hlock => ?_⟩⟩
  · rw [show s.translateOn (some (hingeDie h)) ch.vd .load loc size = .fault f b from htr] at hexec
    exact fails_of hwalk hch hexec
  · rw [show s.translateOn (some (hingeDie h)) ch.vd .load loc size = .miss ms from htr] at hexec
    exact hexec
  · rw [show s.translateOn (some (hingeDie h)) ch.vd .load loc size = .ok ps from htr] at hexec
    dsimp only at hexec
    rw [if_pos hlock] at hexec
    exact hexec
  · rw [show s.translateOn (some (hingeDie h)) ch.vd .load loc size = .ok ps from htr] at hexec
    dsimp only at hexec
    rw [if_neg (by rw [hlock]; exact Bool.false_ne_true)] at hexec
    have hw := hwalk.trans (walkFrame_chargePieces (s.agentWalks (some (hingeDie h)) ch.vd loc size) ch.vd ps)
    rw [← hw.homeBytes]
    exact chanSends_of hw hch hexec

/-- The operation of `put`, `putsig` or `radd` with its data. -/
def putKind (radd : Bool) (sig : Option (DWord × Nat)) (data : List Byte) : FabKind :=
  match sig with
  | some (x, c) => .putsig data 2 c (fabOff x)
  | none => if radd then .radd data else .put data

/-- `put`, `putsig` and `radd` with their checks passed. -/
theorem chanPut_of_clear {s : State} {h n : Nat} {ch : Channel} {w : HingeFields} {radd : Bool} {sig : Option (DWord × Nat)}
    (hsize : ¬ (radd = true ∧ (ch.reg w.c).toNat % 4 ≠ 0)) (halign : ¬ (radd = true ∧ ((ch.reg w.b).toNat % 4 ≠ 0 ∨ fabOff (ch.reg w.a) % 4 ≠ 0)))
    (hrank : ∀ x ∈ sig, fabRank x.1 = fabRank (ch.reg w.a)) (hoff : ∀ x ∈ sig, fabOff x.1 % 16 = 0) :
    chanPut radd sig h n ch w s =
      if !s.fabOk ch (ch.reg w.a) (ch.reg w.c).toNat || (sig.map fun x => !s.fabOk ch x.1 16) = some true then s.chanFail h n 2 0x0C
      else if (ch.reg w.c).toNat = 0 ∧ sig.isNone then s.withChannel h n Channel.go
      else if (s.routeHeld ch.vd (fabRank (ch.reg w.a))).isSome then s
      else s.withAccess h n ch .load (ch.reg w.b).toNat (ch.reg w.c).toNat 1 fun s ps =>
        s.chanSend h n ch (fabRank (ch.reg w.a)) (fabOff (ch.reg w.a)) 0 (ch.reg w.c).toNat [] false (putKind radd sig (s.homeBytes ps)) := by
  have h1 : (sig.map fun x => fabRank x.1 != fabRank (ch.reg w.a)) ≠ some true := by
    rintro h
    obtain ⟨x, hx, hne⟩ := Option.map_eq_some_iff.1 h
    rw [hrank x hx] at hne
    simp at hne
  have h2 : (sig.map fun x => fabOff x.1 % 16 != 0) ≠ some true := by
    rintro h
    obtain ⟨x, hx, hne⟩ := Option.map_eq_some_iff.1 h
    rw [hoff x hx] at hne
    simp at hne
  unfold chanPut
  dsimp only
  rw [if_neg hsize, if_neg halign, if_neg h1, if_neg h2] <;> rfl

theorem fabRank_ofNat {q : Nat} (hq : q < 2 ^ 16) : fabRank (BitVec.ofNat 64 (q * 2 ^ 48)) = q := by
  unfold fabRank bits
  rw [BitVec.toNat_ofNat]
  omega

section

variable {s : State} {h n : Nat} {ch : Channel} {w : HingeFields} (hon : OnHinge s h n ch w)
include hon

theorem put_spec {i : Instr} {radd : Bool} (hexec : exec i s = .next (chanPut radd none h n ch w s))
    (hsize : ¬ (radd = true ∧ (ch.reg w.c).toNat % 4 ≠ 0)) (halign : ¬ (radd = true ∧ ((ch.reg w.b).toNat % 4 ≠ 0 ∨ fabOff (ch.reg w.a) % 4 ≠ 0))) :
    (¬ FabReach (s.device ch.vd) (ch.reg w.a) (ch.reg w.c).toNat → Completes s i (Fails s h n ch 2 0x0C))
    ∧ (FabReach (s.device ch.vd) (ch.reg w.a) (ch.reg w.c).toNat → (ch.reg w.c).toNat = 0 → ChannelBecomes s h n i (nextWord ch))
    ∧ (FabReach (s.device ch.vd) (ch.reg w.a) (ch.reg w.c).toNat → (ch.reg w.c).toNat ≠ 0 →
        ChanSource s h n ch i (fabRank (ch.reg w.a)) (fabOff (ch.reg w.a)) (ch.reg w.b).toNat (ch.reg w.c).toNat (putKind radd none)) := by
  obtain ⟨-, hch, -⟩ := hon
  rw [chanPut_of_clear hsize halign (fun x hx => by cases hx) fun x hx => by cases hx] at hexec
  refine ⟨fun hbad => ?_, fun hok h0 => ?_, fun hok h0 => ?_⟩
  · refine fails_of (.refl s) hch (hexec.trans (congrArg _ (if_pos ?_)))
    rw [Bool.or_eq_true, Bool.not_eq_true', Bool.eq_false_iff]
    exact .inl fun hf => hbad ((fabOk_iff ..).1 hf)
  · rw [(fabOk_iff ..).2 hok] at hexec
    refine channelBecomes_go hch (hexec.trans (congrArg _ ?_))
    rw [if_neg (by simp), if_pos ⟨h0, rfl⟩]
  · rw [(fabOk_iff ..).2 hok] at hexec
    refine chanSource_of hch (hexec.trans (congrArg _ ?_))
    rw [if_neg (by simp), if_neg fun hz => h0 hz.1]

theorem putsig_spec : let sig := ch.reg (w.c + 1)
    (fabRank sig ≠ fabRank (ch.reg w.a) → Completes s .hingePutsig (Fails s h n ch 2 0x0C))
    ∧ (fabRank sig = fabRank (ch.reg w.a) → fabOff sig % 16 ≠ 0 → Completes s .hingePutsig (Fails s h n ch 2 0))
    ∧ (fabRank sig = fabRank (ch.reg w.a) → fabOff sig % 16 = 0 →
        ¬ (FabReach (s.device ch.vd) (ch.reg w.a) (ch.reg w.c).toNat ∧ FabReach (s.device ch.vd) sig 16) →
        Completes s .hingePutsig (Fails s h n ch 2 0x0C))
    ∧ (fabRank sig = fabRank (ch.reg w.a) → fabOff sig % 16 = 0 → FabReach (s.device ch.vd) (ch.reg w.a) (ch.reg w.c).toNat →
        FabReach (s.device ch.vd) sig 16 → ChanSource s h n ch .hingePutsig (fabRank (ch.reg w.a)) (fabOff (ch.reg w.a)) (ch.reg w.b).toNat
          (ch.reg w.c).toNat fun b => .putsig b 2 w.imm.toNat (fabOff sig)) := by
  intro sig
  have hexec : exec .hingePutsig s = .next (chanPut false (some (sig, w.imm.toNat)) h n ch w s) := by
    change execHingePutsig s = _
    unfold execHingePutsig
    exact onChannel_runs hon _
  obtain ⟨-, hch, -⟩ := hon
  have hclear := fun hrank hoff => chanPut_of_clear (s := s) (h := h) (n := n) (ch := ch) (w := w) (radd := false)
    (sig := some (sig, w.imm.toNat)) (by simp) (by simp) (by simpa using hrank) (by simpa using hoff)
  refine ⟨fun hrank => ?_, fun hrank hoff => ?_, fun hrank hoff hbad => ?_, fun hrank hoff hok hok' => ?_⟩
  · refine fails_of (.refl s) hch (hexec.trans (congrArg _ ?_))
    unfold chanPut
    dsimp only
    rw [if_neg (by simp), if_neg (by simp), if_pos (by simpa using hrank)]
  · refine fails_of (.refl s) hch (hexec.trans (congrArg _ ?_))
    unfold chanPut
    dsimp only
    rw [if_neg (by simp), if_neg (by simp), if_neg (by simpa using hrank), if_pos (by simpa using hoff)]
  · refine fails_of (.refl s) hch (hexec.trans (congrArg _ ((hclear hrank hoff).trans (if_pos ?_))))
    rw [Bool.or_eq_true, Bool.not_eq_true', Bool.eq_false_iff, decide_eq_true_eq, Option.map_some, Option.some_inj, Bool.not_eq_true',
      Bool.eq_false_iff, ne_eq, ne_eq, fabOk_iff, fabOk_iff]
    exact not_and_or.1 hbad
  · refine chanSource_of hch (hexec.trans (congrArg _ ((hclear hrank hoff).trans ?_)))
    rw [(fabOk_iff ..).2 hok, Option.map_some, (fabOk_iff ..).2 hok', if_neg (by simp), if_neg (by simp)]
    rfl

theorem radd_spec (size loc : Nat) (hsz : (ch.reg w.c).toNat = size) (hloc : (ch.reg w.b).toNat = loc) :
    (size % 4 ≠ 0 → Completes s .hingeRadd (Fails s h n ch 4 0))
    ∧ (size % 4 = 0 → (loc % 4 ≠ 0 ∨ fabOff (ch.reg w.a) % 4 ≠ 0) → Completes s .hingeRadd (Fails s h n ch 2 0)) := by
  have hexec : exec .hingeRadd s = .next (chanPut true none h n ch w s) := by
    change execHingeRadd s = _
    unfold execHingeRadd
    exact onChannel_runs hon _
  obtain ⟨-, hch, -⟩ := hon
  subst hsz hloc
  refine ⟨fun hbad => ?_, fun hok hbad => ?_⟩
  · refine fails_of (.refl s) hch (hexec.trans (congrArg _ ?_))
    unfold chanPut
    dsimp only
    rw [if_pos ⟨rfl, hbad⟩]
  · refine fails_of (.refl s) hch (hexec.trans (congrArg _ ?_))
    unfold chanPut
    dsimp only
    rw [if_neg fun hno => hno.2 hok, if_pos ⟨rfl, hbad⟩]

theorem get_spec (size dest : Nat) (hsz : (ch.reg w.c).toNat = size) (hdest : (ch.reg w.a).toNat = dest) :
    let q := fabRank (ch.reg w.b)
    (¬ FabReach (s.device ch.vd) (ch.reg w.b) size → Completes s .hingeGet (Fails s h n ch 2 0x0C))
    ∧ (FabReach (s.device ch.vd) (ch.reg w.b) size → size = 0 → ChannelBecomes s h n .hingeGet (nextWord ch))
    ∧ (FabReach (s.device ch.vd) (ch.reg w.b) size → size ≠ 0 → ChanRouted s ch .hingeGet q (ChanReads s h n ch .hingeGet .store dest size fun ps =>
        ChanSends s h n ch .hingeGet q (fabOff (ch.reg w.b)) dest size (ps.map (·.page)).eraseDups true (.get size))) := by
  intro q
  have hexec : exec .hingeGet s = execHingeGet s := rfl
  unfold execHingeGet at hexec
  rw [onChannel_runs hon] at hexec
  obtain ⟨-, hch, -⟩ := hon
  subst hsz hdest
  dsimp only at hexec
  refine ⟨fun hbad => ?_, fun hok h0 => ?_, fun hok h0 => ⟨fun hheld => ?_, fun hfree => ?_⟩⟩
  · refine fails_of (.refl s) hch (hexec.trans (congrArg _ (if_pos ?_)))
    rw [Bool.not_eq_true', Bool.eq_false_iff]
    exact fun hf => hbad ((fabOk_iff ..).1 hf)
  · rw [(fabOk_iff ..).2 hok, if_neg (by simp), if_pos h0] at hexec
    exact channelBecomes_go hch hexec
  · rw [(fabOk_iff ..).2 hok, if_neg (by simp), if_neg h0, if_pos hheld] at hexec
    exact hexec
  · rw [(fabOk_iff ..).2 hok, if_neg (by simp), if_neg h0, if_neg (by rw [show s.routeHeld ch.vd (fabRank (ch.reg w.b)) = none from hfree]; simp)]
      at hexec
    have hwalk := walkFrame_agentWalks s (some (hingeDie h)) ch.vd (ch.reg w.a).toNat (ch.reg w.c).toNat
    unfold ChanReads
    intro tr
    refine ⟨fun f b htr => ?_, fun ms htr => ?_, fun ps htr => ?_⟩
    · rw [show s.translateOn (some (hingeDie h)) ch.vd .store (ch.reg w.a).toNat (ch.reg w.c).toNat = .fault f b from htr] at hexec
      exact fails_of hwalk hch hexec
    · rw [show s.translateOn (some (hingeDie h)) ch.vd .store (ch.reg w.a).toNat (ch.reg w.c).toNat = .miss ms from htr] at hexec
      exact hexec
    · rw [show s.translateOn (some (hingeDie h)) ch.vd .store (ch.reg w.a).toNat (ch.reg w.c).toNat = .ok ps from htr] at hexec
      exact chanSends_of hwalk hch hexec

/-- A contribution to the slot of a rank (R379). -/
theorem csc_of {q : Nat} {x : DWord} {kind : FabKind} (hx : fabRank x = q)
    (hexec : exec .hingeCsc s = .next (if !s.fabOk ch x 0 then s.chanFail h n 2 0x0C
      else if (s.routeHeld ch.vd q).isSome then s else s.chanSend h n ch q 0 0 0 [] false kind)) :
    ((∀ j, (s.device ch.vd).job = some j → j.last < q) → Completes s .hingeCsc (Fails s h n ch 2 0x0C))
    ∧ (∀ j, (s.device ch.vd).job = some j → q ≤ j.last → ChanRouted s ch .hingeCsc q (ChanSends s h n ch .hingeCsc q 0 0 0 [] false kind)) := by
  obtain ⟨-, hch, -⟩ := hon
  have hreach : s.fabOk ch x 0 = true ↔ ∃ j, (s.device ch.vd).job = some j ∧ q ≤ j.last := by
    rw [fabOk_iff]
    unfold FabReach
    rw [← fabRank_eq, hx]
    exact exists_congr fun j => ⟨fun ⟨h1, h2, _⟩ => ⟨h1, h2⟩, fun ⟨h1, h2⟩ => ⟨h1, h2, .inl rfl⟩⟩
  refine ⟨fun hbad => ?_, fun j hj hle => ?_⟩
  · refine fails_of (.refl s) hch (hexec.trans (congrArg _ (if_pos ?_)))
    rw [Bool.not_eq_true', Bool.eq_false_iff]
    intro hf
    obtain ⟨j, hj, hle⟩ := hreach.1 hf
    exact absurd (hbad j hj) (Nat.not_lt.2 hle)
  · rw [hreach.2 ⟨j, hj, hle⟩, if_neg (by simp)] at hexec
    refine ⟨fun hheld => hexec.trans (congrArg _ (if_pos hheld)), fun hfree => ?_⟩
    rw [if_neg (by rw [hfree]; simp)] at hexec
    exact chanSends_of (.refl s) hch hexec

theorem csc_spec : let q := (ch.reg w.a).toNat % 2 ^ 16
    let d := s.device ch.vd
    ((∀ j, d.job = some j → j.last < q) → Completes s .hingeCsc (Fails s h n ch 2 0x0C))
    ∧ (∀ j, d.job = some j → q ≤ j.last → ChanRouted s ch .hingeCsc q (ChanSends s h n ch .hingeCsc q 0 0 0 [] false
        (.contrib ch.comm w.imm.toNat ((List.range ch.blen).map fun i => BitVec.ofNat 64 ((bufEntry ch w.b i).toNat % 2 ^ 32))))) := by
  refine csc_of hon (fabRank_ofNat (Nat.mod_lt _ (by decide))) ?_
  change execHingeCsc s = _
  unfold execHingeCsc
  exact onChannel_runs hon _

end

/-- Settles O41: the checks of a sending instruction in their order, its access, and what becomes of its operation. -/
theorem hingeSends : Obligations.HingeSends := by
  intro s h n ch w hon r size d rank off reach sends fab loc routed reads src
  have hrank : ∀ x, rank x = fabRank x := fun x => (fabRank_eq x).symm
  have hoff : ∀ x, off x = fabOff x := fun x => (fabOff_eq x).symm
  have hsrc : ∀ i kind, ChanSource s h n ch i (fabRank fab) (fabOff fab) loc size kind → src i kind := by
    intro i kind hsource
    rw [← hrank, ← hoff] at hsource
    exact hsource
  have hput : exec .hingePut s = .next (chanPut false none h n ch w s) := by
    change execHingePut s = _
    unfold execHingePut
    exact onChannel_runs hon _
  have hradd : exec .hingeRadd s = .next (chanPut true none h n ch w s) := by
    change execHingeRadd s = _
    unfold execHingeRadd
    exact onChannel_runs hon _
  obtain ⟨hp1, hp2, hp3⟩ := put_spec hon hput (by simp) (by simp)
  obtain ⟨hr1, hr2⟩ := radd_spec hon size loc rfl rfl
  obtain ⟨hg1, hg2, hg3⟩ := get_spec hon size (r w.a).toNat rfl rfl
  refine ⟨hp1, hp2, fun hok h0 => hsrc _ _ (hp3 hok h0), hr1, fun h4 hbad => hr2 h4 (by rw [← hoff]; exact hbad), fun h4 hl ho => ?_,
    fun _ _ => ?_, ⟨hg1, hg2, fun hok h0 => ?_⟩, csc_spec hon⟩
  · obtain ⟨ha1, ha2, ha3⟩ := put_spec hon hradd (fun hno => hno.2 h4) (fun hno => hno.2.elim (· hl) fun hne => hne (by rw [← hoff]; exact ho))
    exact ⟨ha1, ha2, fun hok h0 => hsrc _ _ (ha3 hok h0)⟩
  · intro sig
    obtain ⟨hs1, hs2, hs3, hs4⟩ := putsig_spec hon
    simp only [hrank, hoff]
    exact ⟨hs1, hs2, hs3, fun hr ho hok hok' => hsrc _ _ (hs4 hr ho hok hok')⟩
  · have := hg3 hok h0
    rw [← hrank, ← hoff] at this
    exact this

end Sys2Proof.Laws
end

section
/-! Issue, completion, waits, promotion, watchdog and replay of groups (O45). -/

namespace Sys2Proof.Laws

open Sys2Proof Sys2Proof.Machine Sys2Proof.Claim

/-! ## Sets of lanes -/

theorem getLsbD_foldl_lanes (p : Nat → Bool) (xs : List Nat) (hxs : ∀ l ∈ xs, l < 32) (acc : LaneSet) (i : Nat) :
    (xs.foldl (fun acc l => if p l then acc ||| laneBit l else acc) acc).getLsbD i = (acc.getLsbD i || (xs.any fun l => p l && l == i)) := by
  induction xs generalizing acc with
  | nil => simp
  | cons l rest ih =>
    rw [List.foldl_cons, ih (fun m hm => hxs m (List.mem_cons_of_mem _ hm)), List.any_cons]
    have hbit := getLsbD_laneBit l i (hxs l List.mem_cons_self)
    by_cases hp : p l = true
    · rw [if_pos hp, hp, BitVec.getLsbD_or, hbit, Bool.true_and, Bool.or_assoc]
      congr 1
      congr 1
      by_cases h : i = l
      · simp [h]
      · simp [h, Ne.symm h]
    · rw [if_neg hp, Bool.eq_false_iff.2 hp, Bool.false_and, Bool.false_or]

theorem getLsbD_laneSetOf (p : Nat → Bool) (i : Nat) : (laneSetOf p).getLsbD i = (decide (i < 32) && p i) := by
  unfold laneSetOf
  rw [getLsbD_foldl_lanes p _ (fun l hl => List.mem_range.1 hl)]
  rw [Bool.eq_iff_iff]
  simp [and_comm]

theorem mem_lanesOf_laneSetOf (p : Nat → Bool) (l : Nat) : l ∈ lanesOf (laneSetOf p) ↔ l < 32 ∧ p l = true := by
  rw [mem_lanesOf, getLsbD_laneSetOf]
  simp

theorem and_not_self (ls : LaneSet) : ls &&& ~~~ls = 0 := by
  ext i
  simp

/-! ## The choice of a clause (R196, R219, R221) -/

theorem lowestPair_lt {g : Group} {xs : List Nat} {pc r : Nat} (h : g.lowestPair xs = some (pc, r)) : pc < 2 ^ 64 := by
  induction xs generalizing pc r with
  | nil => cases h
  | cons l rest ih =>
    have hme : ∀ {p : Nat × Nat}, some ((g.lane l).pc.toNat, (g.lane l).r) = some p → p.1 < 2 ^ 64 := fun h => by
      obtain rfl := Option.some.inj h
      exact (g.lane l).pc.isLt
    unfold Group.lowestPair at h
    cases hr : g.lowestPair rest with
    | none =>
      rw [hr] at h
      exact hme h
    | some p =>
      rw [hr] at h
      dsimp only at h
      split at h
      · exact hme h
      · obtain rfl := Option.some.inj h
        exact ih hr

theorem issueSet_lt {g : Group} {pc r : Nat} {ls : LaneSet} (h : g.issueSet = some (pc, r, ls)) : pc < 2 ^ 64 := by
  unfold Group.issueSet at h
  dsimp only at h
  split at h
  · cases h
  · next p q hp =>
    obtain ⟨rfl, -⟩ := Prod.mk.inj (Option.some.inj h)
    exact lowestPair_lt hp

theorem expired_iff (s : State) (g : Group) : s.expired g = false ↔
    ∀ l, s.launches.look g.launch = some l → pkWdog l.pkt ≠ 0 → g.watchdog < pkWdog l.pkt * 2 ^ 24 := by
  unfold State.expired State.watchdogLimit
  cases h : s.launches.look g.launch with
  | none => simp
  | some l =>
    dsimp only
    rw [Bool.and_eq_false_iff, bne_eq_false_iff_eq, decide_eq_false_iff_not, Nat.not_le]
    constructor
    · rintro hx m hm h0
      obtain rfl := Option.some.inj hm
      rcases hx with hx | hx
      · exact absurd hx (Nat.mul_ne_zero h0 (by decide))
      · exact hx
    · intro hx
      by_cases h0 : pkWdog l.pkt = 0
      · exact .inl (by rw [h0, Nat.zero_mul])
      · exact .inr (hx l rfl h0)

theorem issueOrder_spec : ∀ (s : State) (c q k : Nat) (g : Group), (k, g) ∈ s.issueOrder c q →
    g.phase = .resident ∧ g.clause.live = false ∧ s.runs (s.vdOf g) = true ∧ (s.device (s.vdOf g)).throttled = false
    ∧ (∃ l, l < 32 ∧ (g.lane l).state = .eligible)
    ∧ (∀ l, s.launches.look g.launch = some l → pkWdog l.pkt ≠ 0 → g.watchdog < pkWdog l.pkt * 2 ^ 24)
    ∧ (4096 ≤ g.passed → ∃ k' g', s.issueChoice c q = some (k', g') ∧ (g'.starved = true ∨ 4096 ≤ g'.passed))
    ∧ ((∀ x ∈ s.issueOrder c q, x.2.starved = false ∧ x.2.passed < 4096) → (s.issueOrder c q).head? = some (k, g) →
        s.issueChoice c q = some (k, g)) := by
  intro s c q k g hmem
  have hcond : s.canIssue g = true ∧ g.clause.live = false ∧ s.expired g = false := by
    obtain ⟨j, -, hj⟩ := List.mem_filterMap.1 hmem
    split at hj
    · split at hj
      · next g' _ =>
        split at hj
        · next hc =>
          obtain ⟨rfl, rfl⟩ := Prod.mk.inj (Option.some.inj hj)
          simp only [Bool.and_eq_true, Bool.not_eq_true'] at hc
          exact ⟨hc.1.1.1, hc.1.1.2, hc.1.2⟩
        · cases hj
      · cases hj
    · cases hj
  obtain ⟨hcan, hlive, hexp⟩ := hcond
  unfold State.canIssue Group.anyEligible at hcan
  simp only [Bool.and_eq_true, Bool.not_eq_true', beq_iff_eq, List.any_eq_true, List.mem_range] at hcan
  obtain ⟨⟨⟨hphase, hlanes⟩, hruns⟩, hthr⟩ := hcan
  refine ⟨hphase, hlive, hruns, hthr, hlanes, (expired_iff s g).1 hexp, fun hpass => ?_, fun hnone hhead => ?_⟩
  · unfold State.issueChoice
    dsimp only
    cases hf : (s.issueOrder c q).find? fun x => x.2.starved || decide (4096 ≤ x.2.passed) with
    | none => exact absurd (List.find?_eq_none.1 hf (k, g) hmem) (by simp [hpass])
    | some x => exact ⟨x.1, x.2, rfl, by simpa using List.find?_some hf⟩
  · have hf : ((s.issueOrder c q).find? fun x => x.2.starved || decide (4096 ≤ x.2.passed)) = none := by
      refine List.find?_eq_none.2 fun x hx => ?_
      obtain ⟨h1, h2⟩ := hnone x hx
      simp [h1, Nat.not_le.2 h2]
    unfold State.issueChoice
    dsimp only
    rw [hf]
    exact hhead

/-! ## Starvation, and the ends of waits (R206, R221) -/

theorem slotStarvation_spec : ∀ s c k z g, OfObject s c k z → s.group? c k = some g → 4096 ≤ g.passed → g.starved = false →
    exec .slotStarvationLimit s = .next (s.setGroup c k { g with starved := true }) := by
  intro s c k z g hobj hg hp hs
  change execSlotStarvationLimit s = _
  unfold execSlotStarvationLimit
  rw [object_of hobj]
  dsimp only
  rw [hg]
  exact if_pos ⟨hp, hs⟩

/-! ## The ends of waits (R206) -/

theorem countsMet_iff (g : Group) (ld st cp tl : Nat) : g.countsMet ld st cp tl = true ↔
    (ld = 7 ∨ g.loads.length ≤ ld) ∧ (st = 7 ∨ g.stores.length ≤ st) ∧ (cp = 7 ∨ g.copies.length ≤ cp) ∧ (tl = 7 ∨ g.tiles.length ≤ tl) := by
  simp [Group.countsMet, countMet, and_assoc]

theorem endWait_of_waiting {g : Group} (h : g.phase = .waiting) : g.endWait = unwaiting g := by
  unfold Group.endWait unwaiting
  rw [if_pos h]

section

variable {s : State} {c k z : Nat} {g : Group} {w : Wait} (hobj : OfObject s c k z) (hg : s.group? c k = some g) (hphase : g.phase = .waiting)
  (hw : g.wait = some w)
include hobj hg hphase hw

theorem groupWaitEnd_some {t : State} (h : s.waitEnd c k g w = some t) : exec .groupWaitEnd s = .next t := by
  change execGroupWaitEnd s = _
  unfold execGroupWaitEnd
  rw [object_of hobj]
  dsimp only
  rw [hg]
  dsimp only
  rw [if_pos hphase, hw, Option.bind_some, h]

theorem groupWaitEnd_none (h : s.waitEnd c k g w = none) : exec .groupWaitEnd s = .next s := by
  change execGroupWaitEnd s = _
  unfold execGroupWaitEnd
  rw [object_of hobj]
  dsimp only
  rw [hg]
  dsimp only
  rw [if_pos hphase, hw, Option.bind_some, h]

/-- A wait that ends on a condition. -/
theorem groupWaitEnd_if {b : Bool} {p : Prop} (hwait : s.waitEnd c k g w = if b then some (s.setGroup c k g.endWait) else none)
    (hp : b = true ↔ p) : (p → exec .groupWaitEnd s = .next (s.setGroup c k (unwaiting g))) ∧ (¬ p → exec .groupWaitEnd s = .next s) := by
  refine ⟨fun h => ?_, fun h => ?_⟩
  · rw [if_pos (hp.2 h), endWait_of_waiting hphase] at hwait
    exact groupWaitEnd_some hobj hg hphase hw hwait
  · rw [if_neg fun hb => h (hp.1 hb)] at hwait
    exact groupWaitEnd_none hobj hg hphase hw hwait

/-- A wait that ends as an acquire does. -/
theorem groupWaitEnd_acquires {b : Bool} {p : Prop} {s1 : State} (hl1 : Local s s1 c k)
    (hwait : s.waitEnd c k g w = if b then some ((s1.setGroup c k g.endWait).withCore c Core.l1Clear) else none)
    (hp : b = true ↔ p) : (p → Completes s .groupWaitEnd fun t => Local s t c k ∧ t.group? c k = some (unwaiting g) ∧ (t.core c).l1 = [])
      ∧ (¬ p → exec .groupWaitEnd s = .next s) := by
  refine ⟨fun h => ⟨_, groupWaitEnd_some hobj hg hphase hw (hwait.trans (if_pos (hp.2 h))), ?_, ?_, ?_⟩, fun h => ?_⟩
  · exact Local.trans (Local.trans hl1 (Local.setGroup ..)) ((Untouched.withCore _ c rfl rfl).isLocal c k)
  · refine ((Untouched.withCore _ c rfl rfl).group? c k).trans ?_
    rw [group?_setGroup_self, endWait_of_waiting hphase]
  · rw [core_withCore_self]
    rfl
  · rw [if_neg fun hb => h (hp.1 hb)] at hwait
    exact groupWaitEnd_none hobj hg hphase hw hwait

end

theorem underway_iff (r : HomeReq) : r.span.isSome = true ↔ Underway r := by
  unfold HomeReq.span Underway
  cases r.kind <;> simp

theorem groupWaitEnd_spec : ∀ s c k z g w, OfObject s c k z → s.group? c k = some g → g.phase = .waiting → g.wait = some w →
    let d := s.device (s.vdOf g)
    let ends (p : Prop) : Prop := (p → exec .groupWaitEnd s = .next (s.setGroup c k (unwaiting g)))
      ∧ (¬ p → exec .groupWaitEnd s = .next s)
    let acquires (p : Prop) : Prop := (p → Completes s .groupWaitEnd fun t =>
        Local s t c k ∧ t.group? c k = some (unwaiting g) ∧ (t.core c).l1 = []) ∧ (¬ p → exec .groupWaitEnd s = .next s)
    (∀ ld st cp tl, w = .counts ld st cp tl → ends ((ld = 7 ∨ g.loads.length ≤ ld) ∧ (st = 7 ∨ g.stores.length ≤ st)
        ∧ (cp = 7 ∨ g.copies.length ≤ cp) ∧ (tl = 7 ∨ g.tiles.length ≤ tl)))
    ∧ (∀ ls, w = .latch ls → ends (s.latchesOk ls = true))
    ∧ (∀ x, w = .tile x → ends (s.tileBusy c x s.nextOp = false))
    ∧ (w = .matrix → ends (s.matrixOps c < 16))
    ∧ (w = .launchQueue → ends (d.launchQueue.length < 64))
    ∧ (∀ m, w = .snapshot m → ends (winLe (winAdd m 2) d.window = true))
    ∧ (∀ m, w = .fence m → ends (winLe m d.window = true))
    ∧ (w = .commit → ends (g.tx = none))
    ∧ (∀ n, w = .behind n → ends (n ≤ (s.core c).accepted))
    ∧ (∀ b, w = .barrier b → ends False)
    ∧ (w = .walk → ends ((s.die (dieOf c)).misses.length < 256
        ∧ ∀ m ∈ (s.die (dieOf c)).misses, ¬ (m.core = c ∧ m.slot = k ∧ m.vd = s.vdOf g)))
    ∧ (∀ l, w = .line l → ends (s.locked l = false ∧ ∀ r ∈ s.requests, r.core = c → r.line = l → ¬ Underway r))
    ∧ (∀ r y x, w = .ringReserve r → s.gang? c g.gang = some y → y.rings.look r = some x → ends (x.canReserve k = true))
    ∧ (∀ r y x, w = .ringAcquire r → s.gang? c g.gang = some y → y.rings.look r = some x → ends (x.canAcquire k = true))
    ∧ (∀ id b, w = .op id b [] → (∃ r ∈ s.requests, r.ofOp id = true) → exec .groupWaitEnd s = .next s)
    ∧ (∀ id, w = .op id true [] → acquires (∀ r ∈ s.requests, r.ofOp id = false))
    ∧ (∀ id, w = .op id false [] → ends (∀ r ∈ s.requests, r.ofOp id = false))
    ∧ (∀ a p, w = .hasp a p false → exec .groupWaitEnd s = .next s)
    ∧ (∀ a p, w = .hasp a p true → s.locked (a / 128) = true → exec .groupWaitEnd s = .next s)
    ∧ (∀ a p, w = .hasp a p true → s.locked (a / 128) = false →
        let x := s.hasp a
        let done : Prop := ¬ x.owned (s.vdOf g) (s.partOf g) = true ∨ x.phase ≠ p.toNat
        (done → acquires True)
        ∧ (¬ done → WardRoom s → Completes s .groupWaitEnd fun t => Local s t c k
            ∧ t.group? c k = some { g with wait := some (.hasp a p false) }
            ∧ ∃ v ∈ (t.slice (sliceOf (a / 128))).wards, v.line = a / 128 ∧ .group c k ∈ v.waiters))
    ∧ (∀ ts, w = .queues ts → acquires (∀ x ∈ ts, x.2 ≤ (s.core x.1).accepted)) := by
  intro s c k z g w hobj hg hphase hw d ends acquires
  have hif : ∀ {b : Bool} {p : Prop}, s.waitEnd c k g w = (if b then some (s.setGroup c k g.endWait) else none) → (b = true ↔ p) → ends p :=
    fun h hp => groupWaitEnd_if hobj hg hphase hw h hp
  have hacq : ∀ {b : Bool} {p : Prop} {s1 : State}, Untouched s s1 →
      s.waitEnd c k g w = (if b then some ((s1.setGroup c k g.endWait).withCore c Core.l1Clear) else none) → (b = true ↔ p) → acquires p :=
    fun hs1 h hp => groupWaitEnd_acquires hobj hg hphase hw (hs1.isLocal c k) h hp
  have hreq : ∀ id, (!(s.requests.any fun r => r.ofOp id)) = true ↔ ∀ r ∈ s.requests, r.ofOp id = false := fun id => by simp
  refine ⟨?_, ?_, ?_, ?_, ?_, ?_, ?_, ?_, ?_, ?_, ?_, ?_, ?_, ?_, ?_, ?_, ?_, ?_, ?_, ?_, ?_⟩
  · rintro ld st cp tl rfl
    exact hif rfl (countsMet_iff ..)
  · rintro ls rfl
    exact hif rfl Iff.rfl
  · rintro x rfl
    exact hif rfl (by simp)
  · rintro rfl
    exact hif rfl decide_eq_true_iff
  · rintro rfl
    exact hif rfl decide_eq_true_iff
  · rintro m rfl
    exact hif rfl Iff.rfl
  · rintro m rfl
    exact hif rfl Iff.rfl
  · rintro rfl
    exact hif rfl (by simp)
  · rintro n rfl
    exact hif rfl decide_eq_true_iff
  · rintro b rfl
    exact ⟨False.elim, fun _ => groupWaitEnd_none hobj hg hphase hw rfl⟩
  · rintro rfl
    exact hif rfl (by simp [and_comm])
  · rintro l rfl
    refine hif rfl ?_
    simp only [Bool.and_eq_true, Bool.not_eq_true', List.any_eq_false, beq_iff_eq, underway_iff, not_and, and_imp]
  · rintro r y x rfl hy hx
    exact hif (b := x.canReserve k) (by simp only [State.waitEnd, hy, Option.bind_some, hx]) Iff.rfl
  · rintro r y x rfl hy hx
    exact hif (b := x.canAcquire k) (by simp only [State.waitEnd, hy, Option.bind_some, hx]) Iff.rfl
  · rintro id b rfl ⟨r, hr, hop⟩
    refine groupWaitEnd_none hobj hg hphase hw (if_pos ?_)
    exact List.any_eq_true.2 ⟨r, hr, hop⟩
  · rintro id rfl
    refine hacq (.refl s) ?_ (hreq id)
    unfold State.waitEnd
    dsimp only
    cases s.requests.any fun r => r.ofOp id with
    | true => rfl
    | false => rfl
  · rintro id rfl
    refine hif ?_ (hreq id)
    unfold State.waitEnd
    dsimp only
    cases s.requests.any fun r => r.ofOp id with
    | true => rfl
    | false => rfl
  · rintro a p rfl
    exact groupWaitEnd_none hobj hg hphase hw rfl
  · rintro a p rfl hlock
    refine groupWaitEnd_none hobj hg hphase hw ?_
    unfold State.waitEnd
    dsimp only
    rw [show s.locked (lineOf a) = true from hlock]
    rfl
  · rintro a p rfl hfree x done
    have hcharge := (walkFrame_chargeLine s (s.vdOf g) (lineOf a)).untouched
    refine ⟨fun hdone => ?_, fun hno hroom => ?_⟩
    · obtain ⟨r, hr⟩ : ∃ r, s.haspWait a (s.vdOf g) (s.partOf g) p.toNat = some r := by
        unfold State.haspWait
        dsimp only
        rcases hdone with h | h
        · exact ⟨_, if_pos (by simpa using h)⟩
        · by_cases ho : (!(s.hasp a).owned (s.vdOf g) (s.partOf g)) = true
          · exact ⟨_, if_pos ho⟩
          · exact ⟨_, (if_neg ho).trans (if_pos h)⟩
      refine hacq (b := true) hcharge ?_ (by simp)
      unfold State.waitEnd
      dsimp only
      rw [show s.locked (lineOf a) = false from hfree, hr]
      rfl
    · have hnone : s.haspWait a (s.vdOf g) (s.partOf g) p.toNat = none := by
        obtain ⟨h1, h2⟩ := not_or.1 hno
        unfold State.haspWait
        dsimp only
        rw [if_neg (by simpa using h1), if_neg h2]
      have hwait : s.waitEnd c k g (.hasp a p true) = some (((s.chargeLine (s.vdOf g) (lineOf a)).setGroup c k
          { g with wait := some (.hasp a p false) }).placeWard (lineOf a) (.group c k)) := by
        unfold State.waitEnd
        dsimp only
        rw [show s.locked (lineOf a) = false from hfree, hnone]
        rfl
      let u := (s.chargeLine (s.vdOf g) (lineOf a)).setGroup c k { g with wait := some (.hasp a p false) }
      have hslot : (u.slice (sliceOf (lineOf a))).wards.length < 512 := by
        have h : u.slices = s.slices := slices_chargeLine ..
        rw [State.slice, h]
        have := hroom (sliceOf (lineOf a))
        unfold State.slice at this
        omega
      have hput := untouched_placeWard hslot (.group c k)
      refine ⟨_, groupWaitEnd_some hobj hg hphase hw hwait, ?_, ?_, onWard_placeWard hslot _⟩
      · exact Local.after (Local.trans (hcharge.isLocal c k) (Local.setGroup ..)) hput
      · exact (hput.group? c k).trans (group?_setGroup_self ..)
  · rintro ts rfl
    refine hacq (b := s.drained ts) (.refl s) rfl ?_
    unfold State.drained
    simp

/-! ## Fault records (R394, R395, R400) -/

/-- Cores, notices and wards are as before. -/
structure Calm (s t : State) : Prop where
  cores : t.cores = s.cores
  driver : t.driver = s.driver
  wards : ∀ n, (t.slice n).wards = (s.slice n).wards

theorem Calm.refl (s : State) : Calm s s := ⟨rfl, rfl, fun _ => rfl⟩

theorem Calm.trans {s t u : State} (h1 : Calm s t) (h2 : Calm t u) : Calm s u :=
  ⟨h2.cores.trans h1.cores, h2.driver.trans h1.driver, fun n => (h2.wards n).trans (h1.wards n)⟩

theorem Calm.withSlice (s : State) (n : Nat) {f : Slice → Slice} (hf : (f (s.slice n)).wards = (s.slice n).wards) : Calm s (s.withSlice n f) := by
  refine ⟨rfl, rfl, fun m => ?_⟩
  rw [slice_withSlice]
  split
  · next h => subst h; exact hf
  · rfl

theorem calm_charge (s : State) (vd n : Nat) : Calm s (s.charge vd n) := by
  unfold State.charge
  split
  · exact ⟨rfl, rfl, fun _ => rfl⟩
  · exact .refl s

theorem calm_dropCopies (s : State) (line : Nat) (die : Option Nat) : Calm s (s.dropCopies line die) := by
  let s1 := { s with dies := s.dies.mapAll fun d x => if some d == die then x else x.dropLine line }
  have h1 : Calm s s1 := ⟨rfl, rfl, fun _ => rfl⟩
  refine h1.trans ?_
  refine Calm.withSlice s1 (sliceOf line) (f := fun x => { x with
    holders := if ((s1.dies.filter fun d => d.2.holds line).map (·.1)).isEmpty then x.holders.del line
      else x.holders.put line ((s1.dies.filter fun d => d.2.holds line).map (·.1)) }) ?_
  rfl

theorem fireWards_of_none {s : State} (line : Nat) (h : ∀ n, (s.slice n).wards = []) : s.fireWards line = s := by
  unfold State.fireWards
  dsimp only
  rw [h]
  rfl

/-- A write that merges into no version and sets no tag leaves cores and notices alone where no ward is placed. -/
theorem calm_writeLine {s : State} (hwards : ∀ n, (s.slice n).wards = []) {w : Source} (hver : w.ver = false) (hrel : w.release = none)
    (line : Nat) (bs : List (Nat × Byte)) : Calm s (s.writeLine w line bs) := by
  unfold State.writeLine
  rw [hver, hrel]
  dsimp only
  have h1 : Calm s ((s.putBytes bs).dropCopies line w.die) := Calm.trans (t := s.putBytes bs) ⟨rfl, rfl, fun _ => rfl⟩ (calm_dropCopies ..)
  have h2 : Calm s (if line < hbmLines then ((s.putBytes bs).dropCopies line w.die).charge w.vd bs.length
      else (s.putBytes bs).dropCopies line w.die) := by
    split
    · exact h1.trans (calm_charge ..)
    · exact h1
  rw [if_neg Bool.false_ne_true, fireWards_of_none line fun n => (h2.wards n).trans (hwards n)]
  exact h2

theorem calm_writeMem {s : State} (hwards : ∀ n, (s.slice n).wards = []) {w : Source} (hver : w.ver = false) (hrel : w.release = none)
    (tier : Tier) (bs : List (Nat × Byte)) : Calm s (s.writeMem w tier bs) := by
  have hlines : ∀ (lines : List Nat) (u : State), Calm s u → Calm s (lines.foldl (fun a line => a.writeLine w line (bytesOfLine bs line)) u) := by
    intro lines
    induction lines with
    | nil => exact fun u h => h
    | cons line rest ih => exact fun u h => ih _ (h.trans (calm_writeLine (fun n => (h.wards n).trans (hwards n)) hver hrel line _))
  cases tier with
  | host => exact ⟨rfl, rfl, fun _ => rfl⟩
  | hbm => exact hlines _ s (.refl s)
  | second => exact hlines _ s (.refl s)

theorem recordFault_spec {s : State} (hwards : ∀ n, (s.slice n).wards = []) (c k : Nat) (g : Group) (cause : ReplayCause) (word : Nat) (pc : DWord)
    (es : List LaneEvent) : let t := s.recordFault c k g cause word pc es
    t.cores = s.cores ∧ t.driver = s.driver ++ [.replayable c k cause] := by
  have hevents : ∀ (xs : List LaneEvent) (u : State), Calm s u → ∀ w : Source, w.ver = false → w.release = none → ∀ (a : Nat),
      Calm s (xs.foldl (fun t e => t.writeMem w .hbm (addressed (a + 0x40 + 32 * e.lane) (laneEntry g e))) u) := by
    intro xs
    induction xs with
    | nil => exact fun u h _ _ _ _ => h
    | cons e rest ih =>
      exact fun u h w hv hr a => ih _ (h.trans (calm_writeMem (fun n => (h.wards n).trans (hwards n)) hv hr .hbm _)) w hv hr a
  let src : Source := { vd := s.vdOf g, carried := none, ver := false, die := none, release := none }
  have h := hevents es _ (calm_writeMem hwards (w := src) rfl rfl .hbm
    (addressed (s.recordAddr (s.vdOf g) c k) (recordHead cause.code k word (laneSetOf fun l => es.any fun e => e.lane == l) pc
      (s.device (s.vdOf g)).window g.seq))) src rfl rfl (s.recordAddr (s.vdOf g) c k)
  exact ⟨h.cores, congrArg (fun d => d ++ [Notification.replayable c k cause]) h.driver⟩

/-- A replayable group with its record written. -/
theorem recorded_setGroup {s : State} (hwards : ∀ n, (s.slice n).wards = []) (c k : Nat) (g g' : Group) (cause : ReplayCause) (word : Nat) (pc : DWord)
    (es : List LaneEvent) : let t := (s.setGroup c k g).recordFault c k g' cause word pc es
    OtherGroups s t c k ∧ t.driver = s.driver ++ [.replayable c k cause] ∧ t.group? c k = some g := by
  obtain ⟨hcores, hdriver⟩ := recordFault_spec (s := s.setGroup c k g) hwards c k g' cause word pc es
  have hgroup : ∀ c' k', ((s.setGroup c k g).recordFault c k g' cause word pc es).group? c' k' = (s.setGroup c k g).group? c' k' := fun c' k' => by
    unfold State.group? State.core
    rw [hcores]
  exact ⟨fun c' k' hne => (hgroup c' k').trans (group?_setGroup_ne s g hne), hdriver, (hgroup c k).trans (group?_setGroup_self ..)⟩

/-! ### Locked records -/

theorem lockedAt_isSome_iff (s : State) (a n : Nat) : (s.lockedAt .hbm a n).isSome = true ↔ ∃ b, s.locked (b / 128) = true ∧ a ≤ b ∧ b < a + n := by
  rw [Option.isSome_iff_ne_none, ne_eq, lockedAt_eq_none (by decide)]
  simp only [not_forall, Bool.not_eq_false]
  constructor
  · rintro ⟨i, hi, hl⟩
    exact ⟨a + i, hl, by omega, by omega⟩
  · rintro ⟨b, hl, hab, hbn⟩
    exact ⟨b - a, by omega, by rw [Nat.add_sub_cancel' hab]; exact hl⟩

theorem recordHeld_iff (s : State) (c k : Nat) (g : Group) (es : List LaneEvent) :
    s.recordHeld c k g es = true ↔ RecordLocked s c k g fun l => ∃ e ∈ es, e.lane = l := by
  unfold State.recordHeld RecordLocked
  simp only [Bool.or_eq_true, List.any_eq_true, lockedAt_isSome_iff]
  constructor
  · rintro (⟨b, hl, h1, h2⟩ | ⟨e, he, b, hl, h1, h2⟩)
    · exact ⟨b, hl, .inl ⟨h1, h2⟩⟩
    · exact ⟨b, hl, .inr ⟨e.lane, ⟨e, he, rfl⟩, h1, h2⟩⟩
  · rintro ⟨b, hl, ⟨h1, h2⟩ | ⟨l, ⟨e, he, rfl⟩, h1, h2⟩⟩
    · exact .inl ⟨b, hl, h1, h2⟩
    · exact .inr ⟨e, he, b, hl, h1, h2⟩

theorem recordLocked_congr {s : State} {c k : Nat} {g : Group} {P Q : Nat → Prop} (h : ∀ l, P l ↔ Q l) :
    RecordLocked s c k g P ↔ RecordLocked s c k g Q := by rw [funext fun l => propext (h l)]

/-! ## The watchdog (R226) -/

theorem doom_kept (g : Group) (cause : Nat) : ∃ T X, g.doom cause = { g with tx := T, txs := X } := by
  unfold Group.doom
  split
  · exact ⟨_, _, rfl⟩
  · split
    · exact ⟨_, _, rfl⟩
    · exact ⟨_, _, rfl⟩

theorem watchdogExpiry_spec : ∀ s c k z g pc r ls l, OfObject s c k z → s.group? c k = some g → g.issueSet = some (pc, r, ls) → g.phase = .resident →
    g.clause.live = false → (∀ n, (s.slice n).wards = []) → s.launches.look g.launch = some l → pkWdog l.pkt ≠ 0 → pkWdog l.pkt * 2 ^ 24 ≤ g.watchdog →
    (RecordLocked s c k g (fun _ => False) → exec .watchdogExpiry s = .next s)
    ∧ (¬ RecordLocked s c k g (fun _ => False) → Completes s .watchdogExpiry fun t => OtherGroups s t c k ∧ t.driver = s.driver ++ [.replayable c k .watchdog]
      ∧ ∃ g', t.group? c k = some g' ∧ g'.phase = .replayable ∧ g'.cause = some .watchdog ∧ g'.lanes = g.lanes ∧ g'.vregs = g.vregs
        ∧ g'.sregs = g.sregs) := by
  intro s c k z g pc r ls l hobj hg hset hphase hlive hwards hl h0 hover
  have hexp : s.expired g = true := by
    refine Bool.not_eq_false _ |>.mp fun h => ?_
    exact absurd ((expired_iff s g).1 h l hl h0) (Nat.not_lt.2 hover)
  have hheld : s.recordHeld c k g [] = true ↔ RecordLocked s c k g fun _ => False :=
    (recordHeld_iff s c k g []).trans (recordLocked_congr fun l => by simp)
  have hexec : exec .watchdogExpiry s = if g.phase = .resident ∧ g.clause.live = false ∧ s.expired g = true ∧ s.recordHeld c k g [] = false then
      let g1 := { g.doom 6 with phase := .replayable, cause := some .watchdog, resumed := false, seq := (g.seq + 1) % 2 ^ 32 }
      .next ((s.setGroup c k g1).recordFault c k g1 .watchdog r (BitVec.ofNat 64 pc) []) else .next s := by
    change execWatchdogExpiry s = _
    unfold execWatchdogExpiry
    rw [object_of hobj]
    dsimp only
    rw [hg]
    dsimp only
    rw [hset]
  refine ⟨fun hlock => ?_, fun hfree => ?_⟩
  · rw [hexec, if_neg]
    rintro ⟨-, -, -, h⟩
    exact absurd ((hheld.2 hlock).symm.trans h) (Bool.false_ne_true ∘ Eq.symm)
  · obtain ⟨T, X, hdoom⟩ := doom_kept g 6
    rw [if_pos ⟨hphase, hlive, hexp, Bool.eq_false_iff.2 fun h => hfree (hheld.1 h)⟩, hdoom] at hexec
    refine ⟨_, hexec, ?_⟩
    obtain ⟨h1, h2, h3⟩ := recorded_setGroup hwards c k
      { g with tx := T, txs := X, phase := .replayable, cause := some .watchdog, resumed := false, seq := (g.seq + 1) % 2 ^ 32 }
      { g with tx := T, txs := X, phase := .replayable, cause := some .watchdog, resumed := false, seq := (g.seq + 1) % 2 ^ 32 } .watchdog r
      (BitVec.ofNat 64 pc) []
    exact ⟨h1, h2, _, h3, rfl, rfl, rfl, rfl, rfl⟩

/-! ## What the completion of a clause changes in a group (R197 to R202, R389) -/

/-- Only lanes, rejoin and serialise records, the clause and the remote fault are changed. -/
def Reshaped (g g' : Group) : Prop := ∃ L N T C R, g' = { g with lanes := L, normal := N, trapBank := T, clause := C, remote := R }

namespace Reshaped

theorem refl (g : Group) : Reshaped g g := ⟨_, _, _, _, _, rfl⟩

theorem trans {g h i : Group} (h1 : Reshaped g h) (h2 : Reshaped h i) : Reshaped g i := by
  obtain ⟨L, N, T, C, R, rfl⟩ := h1
  obtain ⟨L', N', T', C', R', rfl⟩ := h2
  exact ⟨L', N', T', C', R', rfl⟩

theorem foldl {α : Type} {f : Group → α → Group} (h : ∀ g x, Reshaped g (f g x)) (xs : List α) (g : Group) : Reshaped g (xs.foldl f g) := by
  induction xs generalizing g with
  | nil => exact refl g
  | cons x rest ih => exact (h g x).trans (ih (f g x))

end Reshaped

theorem reshaped_setLane (g : Group) (l : Nat) (x : Lane) : Reshaped g (g.setLane l x) := ⟨_, _, _, _, _, rfl⟩

theorem reshaped_setBank (g : Group) (trap : Bool) (b : Bank) : Reshaped g (g.setBank trap b) := by
  unfold Group.setBank
  split
  · exact ⟨_, _, _, _, _, rfl⟩
  · exact ⟨_, _, _, _, _, rfl⟩

theorem reshaped_setBankState (g : Group) (trap : Bool) (l : Nat) (st : LaneState) : Reshaped g (g.setBankState trap l st) := by
  unfold Group.setBankState
  extract_lets x
  split
  · exact .refl g
  · split
    · exact reshaped_setLane ..
    · exact reshaped_setLane ..

theorem reshaped_setStates (g : Group) (trap : Bool) (ls : LaneSet) (st : LaneState) : Reshaped g (g.setStates trap ls st) :=
  .foldl (fun g l => reshaped_setBankState g trap l st) _ g

theorem reshaped_setPcs (g : Group) (ls : LaneSet) (pc : DWord) : Reshaped g (g.setPcs ls pc) := .foldl (fun g l => reshaped_setLane g l _) _ g

theorem reshaped_freeHolds (g : Group) (ls : LaneSet) (p : Hold → Bool) : Reshaped g (g.freeHolds ls p) :=
  .foldl (fun g l => reshaped_setLane g l _) _ g

theorem reshaped_release (g : Group) (trap : Bool) (j : Nat) : Reshaped g (g.release trap j) :=
  (reshaped_setStates ..).trans (reshaped_setBank ..)

theorem reshaped_checkMask (g : Group) (trap : Bool) (j : Nat) : Reshaped g (g.checkMask trap j) := by
  unfold Group.checkMask
  extract_lets r
  split
  · exact .refl g
  · split
    · exact reshaped_release ..
    · exact .refl g

theorem reshaped_waitMask (g : Group) (trap : Bool) (j : Nat) (ls : LaneSet) (after : DWord) : Reshaped g (g.waitMask trap j ls after) :=
  ((reshaped_setPcs ..).trans ((reshaped_setStates ..).trans (reshaped_setBank ..))).trans (reshaped_checkMask ..)

theorem reshaped_serialNext (g : Group) (trap : Bool) : Reshaped g (g.serialNext trap) := by
  unfold Group.serialNext
  extract_lets b g1 c
  split
  · exact (reshaped_setStates ..).trans (reshaped_setBank ..)
  · exact (reshaped_setBankState ..).trans (reshaped_setBank ..)

theorem reshaped_serialBegin (g : Group) (trap : Bool) (ls : LaneSet) (after : DWord) : Reshaped g (g.serialBegin trap ls after) :=
  (((reshaped_setPcs ..).trans (reshaped_setStates ..)).trans (reshaped_setBank ..)).trans (reshaped_serialNext ..)

theorem reshaped_serialEnd (g : Group) (trap : Bool) (after : DWord) : Reshaped g (g.serialEnd trap after) :=
  (((reshaped_setPcs ..).trans (reshaped_setStates ..)).trans (reshaped_setBank ..)).trans (reshaped_serialNext ..)

theorem reshaped_forgetLanes (g : Group) (trap : Bool) (ls : LaneSet) : Reshaped g (g.forgetLanes trap ls) := by
  unfold Group.forgetLanes
  extract_lets b r b1 g1 g2
  have h2 : Reshaped g g2 := (reshaped_setBank g trap b1).trans (.foldl (fun g j => reshaped_checkMask g trap j) _ g1)
  split
  · exact h2.trans (reshaped_serialNext ..)
  · exact h2

theorem reshaped_exitLanes (g : Group) (ls : LaneSet) : Reshaped g (g.exitLanes ls) := by
  unfold Group.exitLanes
  exact (Reshaped.foldl (fun g l => reshaped_setLane g l _) _ g).trans ((reshaped_forgetLanes ..).trans (reshaped_forgetLanes ..))

theorem reshaped_advance (g : Group) (l : Nat) : Reshaped g (g.advance l) := by
  unfold Group.advance
  extract_lets x
  split
  · split
    · exact reshaped_setLane ..
    · exact reshaped_setLane ..
  · exact reshaped_setLane ..

theorem reshaped_serialTrap (g : Group) : Reshaped g g.serialTrap := ⟨_, _, _, _, _, rfl⟩

theorem reshaped_applyEnding (g : Group) : Reshaped g g.applyEnding := by
  unfold Group.applyEnding
  extract_lets ls t
  split
  · exact .foldl (fun g l => reshaped_advance g l) _ g
  · exact reshaped_exitLanes ..
  · exact (reshaped_setPcs ..).trans (.foldl (fun g l => reshaped_setLane g l _) _ _)
  · exact reshaped_waitMask ..
  · split
    · exact reshaped_serialTrap g
    · exact reshaped_serialBegin ..
  · split
    · exact reshaped_serialEnd ..
    · exact reshaped_serialTrap g

theorem reshaped_trapLane (g : Group) (tvec : DWord) (e : LaneEvent) : Reshaped g (g.trapLane tvec e) := by
  unfold Group.trapLane
  split
  · extract_lets g1
    split
    · exact (reshaped_setLane ..).trans ⟨_, _, _, _, _, rfl⟩
    · exact reshaped_setLane ..
  · exact .refl g

theorem reshaped_freshTrapBank (g : Group) : Reshaped g g.freshTrapBank := by
  unfold Group.freshTrapBank
  split
  · exact .refl g
  · exact ⟨_, _, _, _, _, rfl⟩

theorem reshaped_settleYields (g : Group) : Reshaped g g.settleYields := by
  unfold Group.settleYields
  split
  · exact .refl g
  · exact reshaped_freeHolds ..

/-- A group before its completion is marked as replayable or ended. -/
theorem complete_eq (g : Group) (tvec : Option DWord) : ∃ g5 stops, Reshaped g g5 ∧ g.complete tvec =
    match g.stopsWith stops with
    | none => { g5 with clause := { g5.clause with events := [], haltAt := none } }
    | some c => { g5 with phase := .replayable, cause := some c, resumed := false, seq := (g5.seq + 1) % 2 ^ 32,
                          entries := g5.entries.filter (fun x => !stops.any fun e => e.lane == x.lane) ++ stops } := by
  unfold Group.complete
  extract_lets g1 evs traps stops g2 g3 g4 cl g5
  have h1 : Reshaped g g1 := (reshaped_freeHolds ..).trans (reshaped_applyEnding ..)
  have h2 : Reshaped g g2 := by
    unfold g2
    split
    · exact h1
    · exact (h1.trans (reshaped_freshTrapBank ..)).trans (.foldl (fun g e => reshaped_trapLane g _ e) _ _)
  have h3 : Reshaped g g3 := h2.trans (.foldl (fun g (e : LaneEvent) => reshaped_setLane g e.lane _) _ _)
  have h4 : Reshaped g g4 := h3.trans (reshaped_settleYields ..)
  exact ⟨g5, stops, h4.trans ⟨_, _, _, _, _, rfl⟩, rfl⟩

theorem complete_kept (g : Group) (tvec : Option DWord) :
    (g.complete tvec).vregs = g.vregs ∧ (g.complete tvec).sregs = g.sregs
      ∧ ((g.complete tvec).cause = none → (g.complete tvec).clause.events = [] ∧ (g.complete tvec).clause.haltAt = none) := by
  obtain ⟨g5, stops, ⟨L, N, T, C, R, rfl⟩, h⟩ := complete_eq g tvec
  rw [h]
  cases g.stopsWith stops with
  | none => exact ⟨rfl, rfl, fun _ => ⟨rfl, rfl⟩⟩
  | some c => exact ⟨rfl, rfl, fun hc => by cases hc⟩

/-! ## The completion of a clause (R197, R202, R389 to R394) -/

theorem group?_eq_look (s : State) (c k : Nat) : s.group? c k = (s.core c).groups.look k := rfl

theorem groups_withGang (s : State) (c n : Nat) (f : Gang → Gang) : ((s.withGang c n f).core c).groups = (s.core c).groups := by
  unfold State.withGang
  rw [core_withCore_self]

theorem absent_checkBar {s : State} {c k : Nat} (n b : Nat) (h : s.group? c k = none) : (s.checkBar c n b).group? c k = none := by
  unfold State.checkBar
  split
  · exact h
  · extract_lets x need s1
    split
    · exact h
    · have hgroups : (s1.core c).groups.look k = none := (congrArg (Tab.look · k) (groups_withGang ..)).trans h
      unfold State.withGroups
      rw [group?_eq_look, core_withCore_self]
      dsimp only
      rw [Tab.look_mapAll, hgroups]
      rfl

theorem absent_checkBars {s : State} {c k : Nat} (n : Nat) (bs : List Nat) (h : s.group? c k = none) :
    (bs.foldl (fun a b => a.checkBar c n b) s).group? c k = none := by
  induction bs generalizing s with
  | nil => exact h
  | cons b rest ih => exact ih (absent_checkBar n b h)

theorem groups_settleGangs (s : State) (launch c : Nat) : ((s.settleGangs launch).core c).groups = (s.core c).groups := by
  unfold State.settleGangs State.core Tab.get
  dsimp only
  rw [Tab.look_mapAll]
  cases s.cores.look c <;> rfl

theorem group?_endGroup {s : State} {c k : Nat} {g : Group} (hg : s.group? c k = some g) : (s.endGroup c k).group? c k = none := by
  unfold State.endGroup
  rw [hg]
  dsimp only
  rw [group?_eq_look, groups_settleGangs, ← group?_eq_look]
  apply absent_checkBars
  rw [group?_eq_look, groups_withGang, core_withCore_self]
  exact look_del_self ..

/-! ## The completion of a clause as an event (R197, R202, R220, R394) -/

/-- The state after a completion whose group neither ends nor stops: the group goes to the back of its slot's order after a yield. -/
def completedState (s : State) (c k : Nat) (g0 g : Group) : State :=
  if g0.clause.yld || g0.clause.ending == .yield then (s.setGroup c k g).withCore c fun x => x.toBack k else s.setGroup c k g

theorem untouched_completedState (s : State) (c k : Nat) (g0 g : Group) : Untouched (s.setGroup c k g) (completedState s c k g0 g) := by
  unfold completedState
  split
  · exact .withCore _ c rfl rfl
  · exact .refl _

theorem completedState_kept (s : State) (c k : Nat) (g0 g : Group) :
    (completedState s c k g0 g).driver = s.driver ∧ (completedState s c k g0 g).slices = s.slices := by
  unfold completedState
  split <;> exact ⟨rfl, rfl⟩

theorem group?_completedState (s : State) (c k : Nat) (g0 g : Group) : (completedState s c k g0 g).group? c k = some g :=
  ((untouched_completedState s c k g0 g).group? c k).trans (group?_setGroup_self ..)

theorem local_completedState (s : State) (c k : Nat) (g0 g : Group) : Local s (completedState s c k g0 g) c k :=
  Local.after (Local.setGroup s c k g) (untouched_completedState ..)

theorem order_completedState {s : State} {c k : Nat} {g0 g : Group} (hyld : g0.clause.yld = false) (hend : g0.clause.ending ≠ .yield) :
    ((completedState s c k g0 g).core c).order = (s.core c).order := by
  unfold completedState
  rw [hyld, if_neg (by simpa using hend)]
  exact (congrArg Core.order (core_setGroup s c k c g)).trans (by rw [if_pos rfl])

/-- The group after its completion, before it ends or leaves its record: what an ended group of lanes is to be doomed by has doomed it. -/
def completedGroup (g done : Group) : Group :=
  let trapped := g.clause.haltAt.isSome || !g.applyEnding.clause.events.isEmpty
  let g1 := if trapped || done.cause.isSome then done.doom 6 else done
  { g1 with clause := { g1.clause with events := [], haltAt := none } }

theorem completedGroup_of_calm {g done : Group} (hcause : done.cause = none) (hhalt : g.clause.haltAt = none)
    (hevents : g.applyEnding.clause.events = []) (hclause : done.clause.events = [] ∧ done.clause.haltAt = none) : completedGroup g done = done := by
  obtain ⟨he, hh⟩ := hclause
  unfold completedGroup
  rw [hcause, hhalt, hevents]
  change { done with clause := { done.clause with events := [], haltAt := none } } = done
  rw [← he, ← hh]

theorem completedGroup_kept (g done : Group) : (completedGroup g done).cause = done.cause ∧ (completedGroup g done).lanes = done.lanes
    ∧ (completedGroup g done).vregs = done.vregs ∧ (completedGroup g done).sregs = done.sregs := by
  unfold completedGroup
  extract_lets trapped g1
  have h1 : ∃ T X, g1 = { done with tx := T, txs := X } := by
    unfold g1
    split
    · exact doom_kept done 6
    · exact ⟨_, _, rfl⟩
  obtain ⟨T, X, hg1⟩ := h1
  rw [hg1]
  exact ⟨rfl, rfl, rfl, rfl⟩

/-- The events of a completed clause that stop the group. -/
def stopsOf (s : State) (g : Group) : List LaneEvent :=
  (g.complete (s.device (s.vdOf g)).handler).clause.events.filter fun e => e.replays (s.device (s.vdOf g)).handler.isSome

theorem completeClause_eq (s : State) (c k : Nat) (g : Group) : let done := g.complete (s.device (s.vdOf g)).handler
    let s2 := completedState s c k g (completedGroup g done)
    (done.exitedSet = BitVec.allOnes 32 → s.completeClause c k g = s2.endGroup c k)
    ∧ (done.exitedSet ≠ BitVec.allOnes 32 → done.cause = none → s.completeClause c k g = s2)
    ∧ ∀ cause, done.exitedSet ≠ BitVec.allOnes 32 → done.cause = some cause →
        ∃ g1 word, s.completeClause c k g = s2.recordFault c k g1 cause word g.clause.addr (stopsOf s g) := by
  intro done s2
  refine ⟨fun h => ?_, fun h hc => ?_, fun cause h hc => ?_⟩
  all_goals
    unfold State.completeClause
    extract_lets tvec d trapped g1 stops s1 s3
  · exact if_pos h
  · have hd : d.cause = none := hc
    rw [if_neg h, hd]
    rfl
  · have hd : d.cause = some cause := hc
    rw [if_neg h, hd]
    exact ⟨g1, _, rfl⟩

theorem completionHeld_iff (s : State) (c k : Nat) (g : Group) : let done := g.complete (s.device (s.vdOf g)).handler
    s.completionHeld c k g = true ↔ done.cause ≠ none
      ∧ RecordLocked s c k g fun l => ∃ e ∈ done.clause.events, e.replays (s.device (s.vdOf g)).handler.isSome = true ∧ e.lane = l := by
  intro done
  unfold State.completionHeld
  refine Bool.and_eq_true_iff.trans (and_congr Option.isSome_iff_ne_none ((recordHeld_iff ..).trans (recordLocked_congr fun l => ?_)))
  constructor
  · rintro ⟨e, he, hl⟩
    obtain ⟨h1, h2⟩ := List.mem_filter.1 he
    exact ⟨e, h1, h2, hl⟩
  · rintro ⟨e, h1, h2, hl⟩
    exact ⟨e, List.mem_filter.2 ⟨h1, h2⟩, hl⟩

theorem clauseOver_of {g : Group} (hlive : g.clause.live = true) (hphase : g.phase = .resident) (hredo : g.clause.redo = false)
    (hover : g.clause.count ≤ g.clause.idx ∨ g.clause.active = 0) : g.clauseOver = true := by
  unfold Group.clauseOver
  rw [hlive, hphase, hredo]
  simpa using hover

theorem recorded_of_local {s u : State} {c k : Nat} {g : Group} (hwards : ∀ n, (s.slice n).wards = []) (hslices : u.slices = s.slices)
    (hdriver : u.driver = s.driver) (hothers : OtherGroups s u c k) (hg : u.group? c k = some g) (g' : Group) (cause : ReplayCause) (word : Nat) (pc : DWord)
    (es : List LaneEvent) : let t := u.recordFault c k g' cause word pc es
    OtherGroups s t c k ∧ t.driver = s.driver ++ [.replayable c k cause] ∧ t.group? c k = some g := by
  have hw : ∀ n, (u.slice n).wards = [] := fun n => by
    unfold State.slice
    rw [hslices]
    exact hwards n
  obtain ⟨hcores, hnotice⟩ := recordFault_spec hw c k g' cause word pc es
  have hgroup : ∀ c' k', (u.recordFault c k g' cause word pc es).group? c' k' = u.group? c' k' := fun c' k' => by
    unfold State.group? State.core
    rw [hcores]
  exact ⟨fun c' k' h => (hgroup c' k').trans (hothers c' k' h), by rw [hnotice, hdriver], (hgroup c k).trans hg⟩

theorem clauseComplete_spec : ∀ s c k z g, OfObject s c k z → s.group? c k = some g → g.clause.live = true → g.phase = .resident → g.clause.redo = false →
    (g.clause.count ≤ g.clause.idx ∨ g.clause.active = 0) →
    let done := g.complete (s.device (s.vdOf g)).handler
    let held : Prop := done.cause ≠ none
      ∧ RecordLocked s c k g fun l => ∃ e ∈ done.clause.events, e.replays (s.device (s.vdOf g)).handler.isSome = true ∧ e.lane = l
    (held → exec .clauseComplete s = .next s)
    ∧ (¬ held → done.exitedSet = BitVec.allOnes 32 → Completes s .clauseComplete fun t => t.group? c k = none)
    ∧ (done.exitedSet ≠ BitVec.allOnes 32 → done.cause = none → g.clause.haltAt = none → g.applyEnding.clause.events = [] →
        Completes s .clauseComplete fun t => Local s t c k ∧ t.group? c k = some done
          ∧ (g.clause.yld = false → g.clause.ending ≠ .yield → (t.core c).order = (s.core c).order))
    ∧ (∀ cause, ¬ held → done.exitedSet ≠ BitVec.allOnes 32 → done.cause = some cause → (∀ n, (s.slice n).wards = []) → Completes s .clauseComplete fun t =>
        t.driver = s.driver ++ [.replayable c k cause] ∧ OtherGroups s t c k
        ∧ ∃ g', t.group? c k = some g' ∧ g'.cause = some cause ∧ g'.lanes = done.lanes ∧ g'.vregs = g.vregs ∧ g'.sregs = g.sregs) := by
  intro s c k z g hobj hg hlive hphase hredo hover done held
  have hexec : exec .clauseComplete s = if s.completionHeld c k g = true then .next s else .next (s.completeClause c k g) := by
    change execClauseComplete s = _
    unfold execClauseComplete
    rw [object_of hobj]
    dsimp only
    rw [hg]
    dsimp only
    rw [clauseOver_of hlive hphase hredo hover]
    cases s.completionHeld c k g <;> rfl
  have hheld : s.completionHeld c k g = true ↔ held := completionHeld_iff s c k g
  have hgo : ¬ held → exec .clauseComplete s = .next (s.completeClause c k g) := fun h => hexec.trans (if_neg (h ∘ hheld.1))
  obtain ⟨hends, hcalm, hstops⟩ := completeClause_eq s c k g
  obtain ⟨hvregs, hsregs, hclear⟩ := complete_kept g (s.device (s.vdOf g)).handler
  refine ⟨fun h => hexec.trans (if_pos (hheld.2 h)), fun h hall => ?_, fun hall hcause hhalt hevents => ?_, fun cause h hall hcause hwards => ?_⟩
  · refine ⟨_, hgo h, ?_⟩
    rw [hends hall]
    exact group?_endGroup (group?_completedState ..)
  · refine ⟨_, hgo fun h => h.1 hcause, ?_⟩
    rw [hcalm hall hcause, completedGroup_of_calm hcause hhalt hevents (hclear hcause)]
    exact ⟨local_completedState .., group?_completedState .., order_completedState⟩
  · obtain ⟨g1, word, heq⟩ := hstops cause hall hcause
    obtain ⟨hdriver, hslices⟩ := completedState_kept s c k g (completedGroup g done)
    obtain ⟨h1, h2, h3⟩ := recorded_of_local hwards hslices hdriver (local_completedState ..).groups (group?_completedState ..) g1 cause word
      g.clause.addr (stopsOf s g)
    obtain ⟨k1, k2, k3, k4⟩ := completedGroup_kept g done
    exact ⟨_, (hgo h).trans (by rw [heq]), h2, h1, _, h3, k1.trans hcause, k2, k3.trans hvregs, k4.trans hsregs⟩

/-! ## Folds that change one lane each -/

/-- Steps that each change one lane, no lane twice: each such lane is changed by its own step, and every other lane is as before. -/
theorem lane_foldl {α : Type} {step : Group → α → Group} {key : α → Nat} {f : α → Lane → Lane} {P : Group → Prop}
    (hP : ∀ a x, P a → P (step a x)) (hself : ∀ a x, P a → (step a x).lane (key x) = f x (a.lane (key x)))
    (hother : ∀ a x m, m ≠ key x → (step a x).lane m = a.lane m) (xs : List α) (hnd : (xs.map key).Nodup) (g : Group) (hg : P g) :
    (∀ x ∈ xs, (xs.foldl step g).lane (key x) = f x (g.lane (key x)))
    ∧ ∀ m, (∀ x ∈ xs, key x ≠ m) → (xs.foldl step g).lane m = g.lane m := by
  induction xs generalizing g with
  | nil => exact ⟨nofun, fun _ _ => rfl⟩
  | cons y rest ih =>
    obtain ⟨hy, hrest⟩ := List.nodup_cons.1 hnd
    obtain ⟨h1, h2⟩ := ih hrest (step g y) (hP g y hg)
    have hne : ∀ x ∈ rest, key x ≠ key y := fun x hx h => hy (h ▸ List.mem_map_of_mem hx)
    refine ⟨fun x hx => ?_, fun m hm => ?_⟩
    · obtain rfl | hx := List.mem_cons.1 hx
      · exact (h2 _ hne).trans (hself g x hg)
      · exact (h1 x hx).trans (congrArg (f x) (hother g y _ (hne x hx)))
    · exact (h2 m fun x hx => hm x (List.mem_cons_of_mem _ hx)).trans (hother g y m (hm y List.mem_cons_self).symm)

theorem lane_freeHolds (g : Group) (p : Hold → Bool) {l : Nat} (hl : l < 32) : (g.freeHolds (BitVec.allOnes 32) p).lane l = (g.lane l).free p := by
  unfold Group.freeHolds
  refine (lane_foldl (P := fun _ => True) (key := id) (f := fun _ x => x.free p) (fun _ _ h => h) (fun a x _ => ?_) (fun a x m hm => ?_) _ ?_ g
    trivial).1 l ((mem_lanesOf ..).2 ⟨hl, ?_⟩)
  · exact (lane_setLane ..).trans (if_pos rfl)
  · exact (lane_setLane ..).trans (if_neg hm)
  · rw [List.map_id]
    exact (lanesOf_sorted _).imp Nat.ne_of_lt
  · rw [BitVec.getLsbD_allOnes]
    exact decide_eq_true hl

theorem freeHolds_lanesOnly (g : Group) (ls : LaneSet) (p : Hold → Bool) : ∃ L, g.freeHolds ls p = { g with lanes := L } := by
  unfold Group.freeHolds
  generalize lanesOf ls = xs
  induction xs generalizing g with
  | nil => exact ⟨_, rfl⟩
  | cons l rest ih =>
    obtain ⟨L, h⟩ := ih (g.setLane l ((g.lane l).free p))
    exact ⟨L, h⟩

/-! ## Resumption by firmware (R396) -/

/-- The exec of a resumption of a group that is not of a spilled slot. -/
theorem exec_firmwareResumeGroup {s : State} {c k : Nat} {g : Group} (hobj : OfObject s c k 0) (hg : s.group? c k = some g) (hcause : g.cause ≠ none) :
    let g1 := g.firmwareResume (s.device (s.vdOf g)).handler (s.runs (s.vdOf g)) (g.phase == .spilled)
    let es := (g.entries.filter LaneEvent.revoked).map LaneEvent.asTrap
    (g1.cause = none → exec .firmwareResumeGroup s = .next (s.setGroup c k g1))
    ∧ ∀ cause, g1.cause = some cause → exec .firmwareResumeGroup s = if s.recordHeld c k g es = true then .next s
        else .next ((s.setGroup c k g1).recordFault c k g1 cause ((es.map (·.word)).headD 0) g.clause.addr es) := by
  intro g1 es
  have hnone : g.cause.isNone = false := Option.isNone_eq_false_iff.2 (Option.isSome_iff_ne_none.2 hcause)
  have hexec : exec .firmwareResumeGroup s = match g1.cause with
      | some cause => if s.recordHeld c k g es = true then .next s
        else .next ((s.setGroup c k g1).recordFault c k g1 cause ((es.map (·.word)).headD 0) g.clause.addr es)
      | none => .next (s.setGroup c k g1) := by
    change execFirmwareResumeGroup s = _
    unfold execFirmwareResumeGroup
    rw [object_of hobj]
    dsimp only
    rw [hg]
    dsimp only
    rw [hnone]
    rfl
  refine ⟨fun h => ?_, fun cause h => ?_⟩
  · rw [hexec, h]
  · rw [hexec, h]

theorem firmwareResume_calm {g : Group} (tvec : Option DWord) (runs spilled : Bool) (h : ∀ e ∈ g.entries, e.revoked = false) :
    g.firmwareResume tvec runs spilled = { (if runs && !spilled then g.freeHolds (BitVec.allOnes 32) (· == .fired) else g) with
      watchdog := 0, cause := none, resumed := !g.entries.isEmpty,
      phase := if spilled then .spilled else if !runs then .halted else if g.wait.isSome then .waiting else .resident } := by
  have hrevoked : g.entries.filter LaneEvent.revoked = [] := List.filter_eq_nil_iff.2 fun e he => by simp [h e he]
  have hrest : g.entries.filter (fun e => !e.revoked) = g.entries := List.filter_eq_self.2 fun e he => by simp [h e he]
  have hentries : (if runs && !spilled then g.freeHolds (BitVec.allOnes 32) (· == .fired) else g).entries = g.entries := by
    obtain ⟨L, hL⟩ := freeHolds_lanesOnly g (BitVec.allOnes 32) (· == .fired)
    split
    · rw [hL]
    · rfl
  unfold Group.firmwareResume
  rw [hrevoked, hrest]
  dsimp only
  cases tvec with
  | none => rfl
  | some t =>
    generalize (if runs && !spilled then g.freeHolds (BitVec.allOnes 32) (· == .fired) else g) = g0 at hentries ⊢
    rw [← hentries]
    rfl

theorem firmwareResumeGroup_calm_spec : ∀ s c k g, OfObject s c k 0 → s.group? c k = some g → g.cause ≠ none → (∀ e ∈ g.entries, e.revoked = false) →
    let runs : Prop := s.runs (s.vdOf g) = true
    (g.phase = .spilled → exec .firmwareResumeGroup s = .next (s.setGroup c k { g with
      watchdog := 0, cause := none, resumed := !g.entries.isEmpty }))
    ∧ (g.phase ≠ .spilled → runs → InGroup s c k .firmwareResumeGroup fun g' =>
      { g' with lanes := g.lanes } = { g with
        watchdog := 0, cause := none, resumed := !g.entries.isEmpty, phase := if g.wait.isSome then .waiting else .resident }
      ∧ ∀ l, l < 32 → g'.lane l = (g.lane l).free (· == .fired))
    ∧ (g.phase ≠ .spilled → ¬ runs → exec .firmwareResumeGroup s = .next (s.setGroup c k { g with
      watchdog := 0, cause := none, resumed := !g.entries.isEmpty, phase := .halted })) := by
  intro s c k g hobj hg hcause hcalm runs
  have heq := firmwareResume_calm (s.device (s.vdOf g)).handler (s.runs (s.vdOf g)) (g.phase == .spilled) hcalm
  have hexec := (exec_firmwareResumeGroup hobj hg hcause).1 (by rw [heq])
  rw [heq] at hexec
  refine ⟨fun hspilled => ?_, fun hspilled hruns => ?_, fun hspilled hruns => ?_⟩
  · rw [hexec, hspilled, ← hspilled, beq_self_eq_true, Bool.not_true, Bool.and_false]
    simp [hspilled]
  · have hs : (g.phase == Phase.spilled) = false := beq_eq_false_iff_ne.2 hspilled
    rw [hruns, hs] at hexec
    obtain ⟨L, hL⟩ := freeHolds_lanesOnly g (BitVec.allOnes 32) (· == .fired)
    have hlane : ∀ l, l < 32 → (g.freeHolds (BitVec.allOnes 32) (· == .fired)).lane l = (g.lane l).free (· == .fired) :=
      fun l hl => lane_freeHolds g _ hl
    rw [Bool.not_false, Bool.and_true, if_pos rfl, hL] at hexec
    rw [hL] at hlane
    exact ⟨_, hexec, rfl, hlane⟩
  · have hs : (g.phase == Phase.spilled) = false := beq_eq_false_iff_ne.2 hspilled
    rw [Bool.eq_false_iff.2 hruns, hs] at hexec
    simpa using hexec

/-! ## Resumption of lanes of a revoked snapshot (R87, R396) -/

/-- The trap entry of a lane of a revoked snapshot, unless it has exited. -/
def revokedEntry (t addr : DWord) (e : LaneEvent) (x : Lane) : Lane :=
  if x.state == .exited then x else enterTrap t addr .snapshotRevoked e.what.info e.what.addr e.rword e.sword x

/-- The step of one revoked entry in a resumption. -/
def revokedStep (t : DWord) (a : Group) (e : LaneEvent) : Group := if (a.lane e.lane).state == .exited then a else a.trapLane t e.asTrap

theorem trapLane_asTrap (g : Group) (t : DWord) (e : LaneEvent) :
    g.trapLane t e.asTrap = g.setLane e.lane (enterTrap t g.clause.addr .snapshotRevoked e.what.info e.what.addr e.rword e.sword (g.lane e.lane)) := rfl

theorem lane_revokedFold {g : Group} (t : DWord) {es : List LaneEvent} (hnd : (es.map (·.lane)).Nodup) :
    (∀ e ∈ es, (es.foldl (revokedStep t) g).lane e.lane = revokedEntry t g.clause.addr e (g.lane e.lane))
    ∧ ∀ m, (∀ e ∈ es, e.lane ≠ m) → (es.foldl (revokedStep t) g).lane m = g.lane m := by
  refine lane_foldl (P := fun a => a.clause = g.clause) (key := (·.lane)) (f := revokedEntry t g.clause.addr) (fun a e ha => ?_) (fun a e ha => ?_)
    (fun a e m hm => ?_) es hnd g rfl
  · unfold revokedStep
    split
    · exact ha
    · exact ha
  · unfold revokedStep revokedEntry
    split
    · rfl
    · rw [trapLane_asTrap, lane_setLane, if_pos rfl, ha]
  · unfold revokedStep
    split
    · rfl
    · exact (lane_setLane ..).trans (if_neg hm)

theorem revokedFold_lanesOnly (t : DWord) (es : List LaneEvent) (g : Group) : ∃ L, es.foldl (revokedStep t) g = { g with lanes := L } := by
  induction es generalizing g with
  | nil => exact ⟨_, rfl⟩
  | cons e rest ih =>
    have h : ∃ L, revokedStep t g e = { g with lanes := L } := by
      unfold revokedStep
      split
      · exact ⟨_, rfl⟩
      · exact ⟨_, rfl⟩
    obtain ⟨L, hL⟩ := h
    obtain ⟨L', hL'⟩ := ih { g with lanes := L }
    exact ⟨L', (congrArg (fun x => rest.foldl (revokedStep t) x) hL).trans hL'⟩

theorem freshTrapBank_bankOnly (g : Group) : ∃ T, g.freshTrapBank = { g with trapBank := T } := by
  unfold Group.freshTrapBank
  split
  · exact ⟨_, rfl⟩
  · exact ⟨_, rfl⟩

/-- A running group's resumption with revoked entries, once held lanes whose ward has fired are free. -/
theorem firmwareResume_revoked {g : Group} {L : Tab Lane} (hfree : g.freeHolds (BitVec.allOnes 32) (· == .fired) = { g with lanes := L })
    (h : ∃ e ∈ g.entries, e.revoked = true) : let es := g.entries.filter LaneEvent.revoked
    let rest := g.entries.filter fun e => !e.revoked
    let phase : Phase := if g.wait.isSome then .waiting else .resident
    (∀ t, ∃ T T' X u, u = es.foldl (revokedStep t) { g with lanes := L, watchdog := 0, cause := none, trapBank := T }
      ∧ g.firmwareResume (some t) true false = { u with tx := T', txs := X, entries := rest, resumed := !rest.isEmpty, phase := phase })
    ∧ g.firmwareResume none true false = { g with
        lanes := L, watchdog := 0, cause := some .noHandler, entries := rest ++ es.map LaneEvent.asTrap, resumed := false,
        seq := (g.seq + 1) % 2 ^ 32 } := by
  intro es rest phase
  have hes : (es.map LaneEvent.asTrap).isEmpty = false := by
    obtain ⟨e, he, hr⟩ := h
    have hmem : e ∈ es := List.mem_filter.2 ⟨he, hr⟩
    cases hx : es with
    | nil => rw [hx] at hmem; cases hmem
    | cons => rfl
  refine ⟨fun t => ?_, ?_⟩
  all_goals
    unfold Group.firmwareResume
    extract_lets revoked g0 g1 phase'
    have h1 : g1 = { g with lanes := L, watchdog := 0, cause := none } := by
      unfold g1 g0
      rw [Bool.not_false, Bool.and_true, if_pos rfl, hfree]
    have hne : revoked.isEmpty = false := hes
    rw [hne]
    clear_value g1 g0
    dsimp only
    rw [if_neg Bool.false_ne_true]
  · obtain ⟨T, hT⟩ := freshTrapBank_bankOnly { g with lanes := L, watchdog := 0, cause := none }
    rw [h1, hT]
    have hfold : revoked.foldl (fun a e => if (a.lane e.lane).state == .exited then a else a.trapLane t e)
        { g with lanes := L, watchdog := 0, cause := none, trapBank := T }
        = es.foldl (revokedStep t) { g with lanes := L, watchdog := 0, cause := none, trapBank := T } := List.foldl_map ..
    rw [hfold]
    generalize hu : es.foldl (revokedStep t) { g with lanes := L, watchdog := 0, cause := none, trapBank := T } = u
    obtain ⟨T', X, hX⟩ := doom_kept u 6
    rw [hX]
    exact ⟨T, T', X, u, hu.symm, rfl⟩
  · rw [h1]

theorem firmwareResumeGroup_revoked_spec : ∀ s c k g, OfObject s c k 0 → s.group? c k = some g → g.cause ≠ none → g.phase ≠ .spilled →
    s.runs (s.vdOf g) = true → (∃ e ∈ g.entries, e.revoked = true) → (g.entries.map (·.lane)).Nodup → (∀ e ∈ g.entries, e.lane < 32) →
    let handler := (s.device (s.vdOf g)).handler
    let old (l : Nat) : Lane := (g.lane l).free (· == .fired)
    (∀ t, handler = some t → InGroup s c k .firmwareResumeGroup fun g' =>
      g'.cause = none ∧ g'.watchdog = 0 ∧ g'.phase = (if g.wait.isSome then .waiting else .resident)
      ∧ g'.entries = g.entries.filter (fun e => !e.revoked) ∧ g'.resumed = !g'.entries.isEmpty
      ∧ (∀ e ∈ g.entries, e.revoked = true → (old e.lane).state ≠ .exited →
          g'.lane e.lane = enterTrap t g.clause.addr .snapshotRevoked e.what.info e.what.addr e.rword e.sword (old e.lane))
      ∧ ∀ l, l < 32 → (∀ e ∈ g.entries, e.revoked = true → e.lane ≠ l) → g'.lane l = old l)
    ∧ (handler = none → let lanes (l : Nat) : Prop := ∃ e ∈ g.entries, e.revoked = true ∧ e.lane = l
        (RecordLocked s c k g lanes → exec .firmwareResumeGroup s = .next s)
        ∧ (¬ RecordLocked s c k g lanes → (∀ n, (s.slice n).wards = []) → Completes s .firmwareResumeGroup fun t => OtherGroups s t c k
            ∧ t.driver = s.driver ++ [.replayable c k .noHandler] ∧ ∃ g', t.group? c k = some g' ∧ g'.cause = some .noHandler
              ∧ g'.phase = g.phase ∧ ∀ l, l < 32 → g'.lane l = old l)) := by
  intro s c k g hobj hg hcause hspilled hruns hrevoked hnd hlanes handler old
  have hs : (g.phase == Phase.spilled) = false := beq_eq_false_iff_ne.2 hspilled
  obtain ⟨L, hL⟩ := freeHolds_lanesOnly g (BitVec.allOnes 32) (· == .fired)
  have hold : ∀ l, l < 32 → ({ g with lanes := L } : Group).lane l = old l := fun l hl => hL ▸ lane_freeHolds g (· == .fired) hl
  obtain ⟨hsome, hnone⟩ := firmwareResume_revoked hL hrevoked
  obtain ⟨hcalm, hstop⟩ := exec_firmwareResumeGroup hobj hg hcause
  rw [hruns, hs] at hcalm hstop
  have hmem : ∀ e, e ∈ g.entries.filter LaneEvent.revoked ↔ e ∈ g.entries ∧ e.revoked = true := fun e => List.mem_filter
  refine ⟨fun t ht => ?_, fun hh => ?_⟩
  · obtain ⟨T, T', X, u, hu, heq⟩ := hsome t
    rw [show (s.device (s.vdOf g)).handler = some t from ht, heq] at hcalm
    obtain ⟨hin, hout⟩ := lane_revokedFold (g := { g with lanes := L, watchdog := 0, cause := none, trapBank := T }) t
      (hnd.sublist (List.filter_sublist.map _))
    obtain ⟨L', hL'⟩ := revokedFold_lanesOnly t (g.entries.filter LaneEvent.revoked) { g with lanes := L, watchdog := 0, cause := none, trapBank := T }
    rw [hu, hL'] at hcalm
    rw [hL'] at hin hout
    refine ⟨_, hcalm rfl, rfl, rfl, rfl, rfl, rfl, fun e he hr hx => ?_, fun l hl hl' => ?_⟩
    · refine (hin e ((hmem e).2 ⟨he, hr⟩)).trans ?_
      rw [show ({ g with lanes := L, watchdog := 0, cause := none, trapBank := T } : Group).lane e.lane = old e.lane from hold _ (hlanes e he)]
      exact if_neg (by simpa using hx)
    · exact (hout l fun e he => hl' e ((hmem e).1 he).1 ((hmem e).1 he).2).trans (hold l hl)
  · intro lanes
    rw [show (s.device (s.vdOf g)).handler = none from hh, hnone] at hstop
    generalize hg1 : ({ g with
        lanes := L, watchdog := 0, cause := some .noHandler,
        entries := g.entries.filter (fun e => !e.revoked) ++ (g.entries.filter LaneEvent.revoked).map LaneEvent.asTrap, resumed := false,
        seq := (g.seq + 1) % 2 ^ 32 } : Group) = g1 at hstop
    have hexec := hstop .noHandler (by rw [← hg1])
    have hheld : s.recordHeld c k g ((g.entries.filter LaneEvent.revoked).map LaneEvent.asTrap) = true ↔ RecordLocked s c k g lanes := by
      refine (recordHeld_iff ..).trans (recordLocked_congr fun l => ?_)
      constructor
      · rintro ⟨e, he, hl⟩
        obtain ⟨e', he', rfl⟩ := List.mem_map.1 he
        exact ⟨e', ((hmem e').1 he').1, ((hmem e').1 he').2, hl⟩
      · rintro ⟨e, he, hr, hl⟩
        exact ⟨_, List.mem_map_of_mem ((hmem e).2 ⟨he, hr⟩), hl⟩
    refine ⟨fun h => hexec.trans (if_pos (hheld.2 h)), fun h hwards => ?_⟩
    obtain ⟨h1, h2, h3⟩ := recorded_setGroup hwards c k g1 g1 .noHandler
      ((((g.entries.filter LaneEvent.revoked).map LaneEvent.asTrap).map (·.word)).headD 0) g.clause.addr
      ((g.entries.filter LaneEvent.revoked).map LaneEvent.asTrap)
    refine ⟨_, hexec.trans (if_neg (h ∘ hheld.1)), h1, h2, g1, h3, ?_⟩
    subst hg1
    exact ⟨rfl, rfl, hold⟩

/-! ## The fetch of a clause (R34, R196, R227) -/

/-- The group that an issue slot has chosen, its cycles of being passed over begun anew. -/
def counting (g : Group) : Group := { g with passed := 0, starved := false }

theorem translateGroup_setGroup (s : State) (c k : Nat) (g : Group) (kind : Access) (va n : Nat) :
    (s.setGroup c k (counting g)).translateGroup c (counting g) kind va n = s.translateGroup c g kind va n := by
  have hview : SameView s (s.setGroup c k (counting g)) := .of_eq rfl rfl rfl rfl rfl rfl rfl rfl
  have hcore : (s.setGroup c k (counting g)).core c = { s.core c with groups := (s.core c).groups.put k (counting g) } := core_withCore_self ..
  have hlook : (s.setGroup c k (counting g)).groupLook c (counting g) ((s.setGroup c k (counting g)).vdOf (counting g)) = s.groupLook c g (s.vdOf g) := by
    unfold State.groupLook
    rw [hcore]
    rfl
  unfold State.translateGroup State.translate
  dsimp only
  rw [hlook]
  split
  · rfl
  · rw [hview.translatePieces]
    rfl

theorem homeBytes_setGroup (s : State) (c k : Nat) (g : Group) (ps : List Piece) : (s.setGroup c k g).homeBytes ps = s.homeBytes ps := rfl

theorem lockedIn_setGroup (s : State) (c k : Nat) (g : Group) (ps : List Piece) : (s.setGroup c k g).lockedIn ps = s.lockedIn ps := rfl

/-- An issue that leaves the group of a slot in some state, and no other group, no memory and no scratchpad changed. -/
def Issues (s : State) (c k : Nat) (P : Group → Prop) : Prop := Completes s .clauseIssue fun t => Local s t c k ∧ ∃ g', t.group? c k = some g' ∧ P g'

/-- The chosen group waits, and its clause is to be read again. -/
def IssueWaits (s : State) (c k : Nat) (g g0 : Group) (w : Wait) : Prop := Completes s .clauseIssue fun t => Local s t c k
  ∧ t.group? c k = some { g0 with phase := .waiting, wait := some w, clause := { g.clause with redo := true } }

theorem Issues.of_setGroup {s u : State} {c k : Nat} {g g' : Group} {P : Group → Prop} (hu : Untouched (s.setGroup c k g) u)
    (h : exec .clauseIssue s = .next (u.setGroup c k g')) (hP : P g') : Issues s c k P :=
  ⟨_, h, Local.trans (Local.after (Local.setGroup s c k g) hu) (Local.setGroup u c k g'), g', group?_setGroup_self .., hP⟩

theorem IssueWaits.of_setGroup {s u : State} {c k : Nat} {g g0 g1 : Group} {w : Wait} (hu : Untouched (s.setGroup c k g1) u)
    (hclause : g0.clause = g.clause) (h : exec .clauseIssue s = .next (u.setGroup c k (g0.waitOn w))) : IssueWaits s c k g g0 w :=
  ⟨_, h, Local.trans (Local.after (Local.setGroup s c k g1) hu) (Local.setGroup u c k _), by rw [group?_setGroup_self, ← hclause]; rfl⟩

/-- What a fetch of n bytes at an address comes to: a fault of every lane there, a wait, or bytes. -/
def ClauseFetched (s : State) (c k : Nat) (g : Group) (pc n : Nat) (P : List Piece → Prop) : Prop :=
  (∀ f a, s.translateGroup c g .fetch pc n = .fault f a → Completes s .clauseIssue fun t => Local s t c k ∧ ∃ g', t.group? c k = some g'
    ∧ g'.clause.active = 0 ∧ g'.clause.addr = BitVec.ofNat 64 pc ∧ g'.passed = 0 ∧ g'.starved = false
    ∧ ∃ L : List Nat, L.Pairwise (· < ·)
        ∧ (∀ l, l ∈ L ↔ l < 32 ∧ (g.lane l).state ≠ .exited ∧ (g.lane l).pc = BitVec.ofNat 64 pc)
        ∧ g'.clause.events = L.map fun l =>
            { lane := l, what := f.raises .fetch 0 a, escalates := (g.lane l).trap && escalating (f.raises .fetch 0 a),
              word := (g.lane l).r, rword := (g.lane l).r, sword := (g.lane l).r })
  ∧ (∀ ms, s.translateGroup c g .fetch pc n = .miss ms → IssueWaits s c k g (counting g) .walk)
  ∧ ∀ ps, s.translateGroup c g .fetch pc n = .ok ps →
    (∀ line, s.lockedIn ps = some line → IssueWaits s c k g (counting g) (.line line)) ∧ (s.lockedIn ps = none → P ps)

theorem raiseAt_eq (g : Group) (ls : LaneSet) (what : Raise) (rw sw : Nat) : g.raiseAt ls what rw sw =
    { g with clause := { g.clause with active := 0, events := g.clause.events ++ (lanesOf ls).map fun l =>
      { lane := l, what := what, escalates := (g.lane l).trap && escalating what, word := g.clause.idx, rword := rw, sword := sw } } } := by
  unfold Group.raiseAt Group.raiseLanes
  dsimp only
  rw [and_not_self]
  rfl

/-- The events that the lanes at an address record, one lane after the other. -/
theorem fetchFault_events (g : Group) (what : Raise) (xs : List Nat) (hxs : ∀ l ∈ xs, l < 32) (h : Group) (hlanes : h.lanes = g.lanes)
    (hactive : h.clause.active = 0) : let step (h : Group) (l : Nat) : Group :=
      ({ h with clause := { h.clause with idx := (g.lane l).r } }).raiseAt (laneBit l) what (g.lane l).r (g.lane l).r
    ∃ i, xs.foldl step h = { h with clause := { h.clause with idx := i, active := 0, events := h.clause.events ++ xs.map fun l =>
      { lane := l, what := what, escalates := (g.lane l).trap && escalating what, word := (g.lane l).r, rword := (g.lane l).r,
        sword := (g.lane l).r } } } := by
  intro step
  induction xs generalizing h with
  | nil => exact ⟨h.clause.idx, by rw [List.map_nil, List.append_nil, ← hactive]; rfl⟩
  | cons l rest ih =>
    have hstep : step h l = { h with clause := { h.clause with idx := (g.lane l).r, active := 0, events := h.clause.events ++ [
        { lane := l, what := what, escalates := (g.lane l).trap && escalating what, word := (g.lane l).r, rword := (g.lane l).r,
          sword := (g.lane l).r }] } } := by
      have hlane : h.lane l = g.lane l := congrArg (Tab.get · l _) hlanes
      unfold step
      rw [raiseAt_eq, lanesOf_laneBit l (hxs l List.mem_cons_self), ← hlane]
      rfl
    obtain ⟨i, hi⟩ := ih (fun m hm => hxs m (List.mem_cons_of_mem _ hm)) (step h l) (by rw [hstep]; exact hlanes) (by rw [hstep])
    refine ⟨i, hi.trans ?_⟩
    rw [hstep, List.map_cons]
    dsimp only
    rw [List.append_assoc, List.singleton_append]

theorem fetchFault_spec (g : Group) (pc : DWord) (f : XFault) (a : Nat) : let g' := (counting g).fetchFault pc f a
    g'.clause.active = 0 ∧ g'.clause.addr = pc ∧ g'.passed = 0 ∧ g'.starved = false
    ∧ ∃ L : List Nat, L.Pairwise (· < ·) ∧ (∀ l, l ∈ L ↔ l < 32 ∧ (g.lane l).state ≠ .exited ∧ (g.lane l).pc = pc)
        ∧ g'.clause.events = L.map fun l =>
            { lane := l, what := f.raises .fetch 0 a, escalates := (g.lane l).trap && escalating (f.raises .fetch 0 a),
              word := (g.lane l).r, rword := (g.lane l).r, sword := (g.lane l).r } := by
  intro g'
  let ls : LaneSet := laneSetOf fun l => (g.lane l).state != .exited && (g.lane l).pc == pc
  obtain ⟨i, hi⟩ := fetchFault_events g (f.raises .fetch 0 a) (lanesOf ls) (fun l hl => ((mem_lanesOf ..).1 hl).1)
    { (counting g).chosen ls with clause := { Clause.idle with live := true, addr := pc } } rfl rfl
  have hg' : g' = _ := hi
  rw [hg']
  refine ⟨rfl, rfl, rfl, rfl, lanesOf ls, lanesOf_sorted _, fun l => ?_, rfl⟩
  rw [mem_lanesOf_laneSetOf]
  simp

theorem clauseFetched {s : State} {c k : Nat} {g : Group} {pc n : Nat} (hpc : pc < 2 ^ 64) {go : State → List Byte → State} {P : List Piece → Prop}
    (hexec : exec .clauseIssue s = .next ((s.setGroup c k (counting g)).fetch c k (counting g) (BitVec.ofNat 64 pc) n go))
    (hP : ∀ ps u, Untouched (s.setGroup c k (counting g)) u → exec .clauseIssue s = .next (go u (s.homeBytes ps)) → P ps) :
    ClauseFetched s c k g pc n P := by
  have htoNat : (BitVec.ofNat 64 pc).toNat = pc := by rw [BitVec.toNat_ofNat, Nat.mod_eq_of_lt hpc]
  unfold State.fetch at hexec
  rw [htoNat, translateGroup_setGroup] at hexec
  refine ⟨fun f a h => ?_, fun ms h => ?_, fun ps h => ?_⟩
  · rw [h] at hexec
    exact Issues.of_setGroup (untouched_usePages ..) hexec (fetchFault_spec ..)
  · rw [h] at hexec
    have hu := (sendMisses_spec (group?_setGroup_self s c k (counting g)) ((s.setGroup c k (counting g)).vdOf (counting g)) ms).1
    exact ⟨_, hexec, Local.after (Local.trans (Local.setGroup s c k (counting g)) (Local.setGroup ..)) hu,
      (hu.group? c k).trans (group?_setGroup_self ..)⟩
  · rw [h] at hexec
    dsimp only at hexec
    rw [lockedIn_setGroup] at hexec
    refine ⟨fun line hline => ?_, fun hfree => ?_⟩
    · rw [hline] at hexec
      exact IssueWaits.of_setGroup (.refl _) rfl hexec
    · rw [hfree] at hexec
      exact hP ps _ ((untouched_usePages ..).trans (untouched_chargePieces ..)) hexec

/-! ## The header of a clause (R227, R228) -/

theorem ent_ofNat_word (h : Nat) {lo n : Nat} (hle : lo + n ≤ 32) : ((BitVec.ofNat 32 h : Word).extractLsb' lo n).toNat = ent h lo n := by
  have h1 : 2 ^ 32 = 2 ^ lo * 2 ^ (32 - lo) := by rw [← Nat.pow_add]; congr 1; omega
  have h2 : 2 ^ n ∣ 2 ^ (32 - lo) := Nat.pow_dvd_pow 2 (by omega)
  rw [BitVec.extractLsb'_toNat, BitVec.toNat_ofNat, Nat.shiftRight_eq_div_pow, ent, h1, Nat.mod_mul_right_div_self, Nat.mod_mod_of_dvd _ h2]

theorem ent_bit_word (h : Nat) {i : Nat} (hi : i < 32) : (BitVec.ofNat 32 h : Word).getLsbD i = (ent h i 1 == 1) := by
  rw [← ent_ofNat_word h (show i + 1 ≤ 32 by omega), Bool.eq_iff_iff, beq_iff_eq]
  simp [BitVec.getLsbD, BitVec.extractLsb'_toNat, Nat.testBit]

theorem headerOf_eq (h : Nat) : headerOf (BitVec.ofNat 32 h) =
    { count := ent h 28 4, cls := ent h 25 3, ld := ent h 22 3, st := ent h 19 3, cp := ent h 16 3, tl := ent h 13 3, yld := ent h 12 1 == 1,
      lits := ent h 8 4, zero := ent h 0 8 } := by
  unfold headerOf
  rw [ent_bit_word h (by omega)]
  simp only [ent_ofNat_word h, Nat.reduceAdd, Nat.reduceLeDiff]

/-- The class that a header names; the unused ones count as control. -/
def headerClass (n : Nat) : EngineClass :=
  match n with
  | 0 => .scalar | 1 => .vector | 2 => .memory | 4 => .matrix | 5 => .copy | _ => .control

theorem classOf_getD (n : Nat) : (classOf n).getD .control = headerClass n := by
  match n with
  | 0 | 1 | 2 | 3 | 4 | 5 => rfl
  | n + 6 => rfl

theorem classOf_isNone {n : Nat} : (classOf n).isNone = true ↔ 5 < n := by
  match n with
  | 0 | 1 | 2 | 3 | 4 | 5 => simp [classOf]
  | n + 6 => simp [classOf]

/-- A header that is illegal by itself. -/
def BadHeader (s : State) (h : Header) : Prop := h.count = 0 ∨ 5 < h.cls ∨ h.zero ≠ 0 ∨ (s.module.svc ≠ 2 ∧ (h.cls = 4 ∨ h.cls = 5))

theorem headerBad_iff (s : State) (h : Nat) : headerBad h (s.module.svc != 2) = true ↔ BadHeader s (headerOf (BitVec.ofNat 32 h)) := by
  rw [headerOf_eq]
  unfold headerBad BadHeader
  simp only [Bool.or_eq_true, Bool.and_eq_true, beq_iff_eq, bne_iff_ne, classOf_isNone, or_assoc, ne_eq]

theorem skips_iff (h r : Nat) : skips h r = true ↔ r ≠ 0 ∧ r = (headerOf (BitVec.ofNat 32 h)).count := by
  rw [headerOf_eq]
  unfold skips
  simp

/-! ## What the issue of a clause does to its group (R196, R228, R356, R390) -/

/-- The events of an illegal clause in its issuing lanes. -/
def IssueRefused (s : State) (c k : Nat) (g : Group) (ls : LaneSet) (h : Header) : Prop :=
  Completes s .clauseIssue fun t => Local s t c k ∧ ∃ g', t.group? c k = some g' ∧ g'.clause.active = 0
    ∧ ∃ L : List Nat, L.Pairwise (· < ·) ∧ (∀ l, l ∈ L ↔ l < 32 ∧ ls.getLsbD l = true) ∧ g'.clause.events = L.map fun l =>
        { lane := l, what := .trap .illegalClause 0 0, escalates := (g.lane l).trap, word := 0, rword := 0, sword := h.count }

/-- The counts that a header asks for are met. -/
def CountsMet (g : Group) (h : Header) : Prop := (h.ld = 7 ∨ g.loads.length ≤ h.ld) ∧ (h.st = 7 ∨ g.stores.length ≤ h.st)
  ∧ (h.cp = 7 ∨ g.copies.length ≤ h.cp) ∧ (h.tl = 7 ∨ g.tiles.length ≤ h.tl)

/-- A clause begins at word r, or waits for its counts. -/
def IssueBegins (s : State) (c k : Nat) (g : Group) (pc r : Nat) (ls : LaneSet) (h : Header) (words lits : List Word) : Prop :=
  (¬ CountsMet g h → IssueWaits s c k g { counting g with walked := [] } (.counts h.ld h.st h.cp h.tl))
  ∧ (CountsMet g h → Completes s .clauseIssue fun t => Local s t c k ∧ ∃ g' es, t.group? c k = some g'
      ∧ g'.clause = { Clause.idle with
          live := true, addr := BitVec.ofNat 64 pc, cls := headerClass h.cls, count := h.count, yld := h.yld, words := words,
          lits := lits, idx := r, active := if es = [] then ls else 0, events := es }
      ∧ (h.cp = 7 ∨ g.remote = none → es = [])
      ∧ (h.cp ≠ 7 → ∀ x, g.remote = some x → ∃ L : List Nat, L.Pairwise (· < ·) ∧ (∀ l, l ∈ L ↔ l < 32 ∧ ls.getLsbD l = true)
          ∧ es = L.map fun l =>
              { lane := l, what := .trap .remote x.info x.addr, escalates := (g.lane l).trap, word := r, rword := r, sword := r })
      ∧ g'.passed = 0 ∧ g'.starved = false ∧ g'.object = none ∧ g'.copied = []
      ∧ { g' with clause := g.clause, passed := g.passed, starved := g.starved, walked := g.walked, stage := g.stage,
                  object := g.object, copied := g.copied, entries := g.entries, resumed := g.resumed } = g)

theorem laneSet_eq_zero {ls : LaneSet} (h : lanesOf ls = []) : ls = 0 := by
  ext i hi
  have hi' : i ∉ lanesOf ls := h ▸ List.not_mem_nil
  rw [mem_lanesOf] at hi'
  simpa [hi, ← BitVec.getLsbD_eq_getElem] using hi'

/-- The chosen group as its clause begins. -/
def begun (g : Group) (pc : DWord) (r : Nat) (ls : LaneSet) (h : Nat) (ws : List Word) : Group :=
  { (counting g).chosen ls with
    clause := { headerClause pc h ((classOf (ent h 25 3)).getD .control) with
      words := ws.take (ent h 28 4), lits := ws.drop (ent h 28 4), idx := r, active := ls } }

theorem issueClause_eq (g : Group) (pc : DWord) (r : Nat) (ls : LaneSet) (h level : Nat) (reduced : Bool) (ws : List Word) :
    (counting g).issueClause pc r ls h level reduced ws =
      if clauseBad h r level reduced ws then
        ({ begun g pc r ls h ws with clause := { (begun g pc r ls h ws).clause with idx := 0 } }).raiseAt ls (.trap .illegalClause 0 0) 0 (ent h 28 4)
      else match (if ent h 16 3 = 7 then none else g.remote) with
        | some x => (begun g pc r ls h ws).raiseAt ls (.trap .remote x.info x.addr) r r
        | none => begun g pc r ls h ws := rfl

/-- A clause that begins, and the remote fault that its header may take. -/
theorem begun_issued (g : Group) (pc : DWord) (r : Nat) (ls : LaneSet) (h : Nat) (ws : List Word) : ∃ es : List LaneEvent,
    (match (if ent h 16 3 = 7 then none else g.remote) with
      | some x => (begun g pc r ls h ws).raiseAt ls (.trap .remote x.info x.addr) r r
      | none => begun g pc r ls h ws)
      = { begun g pc r ls h ws with clause := { (begun g pc r ls h ws).clause with active := if es = [] then ls else 0, events := es } }
    ∧ (ent h 16 3 = 7 ∨ g.remote = none → es = [])
    ∧ (ent h 16 3 ≠ 7 → ∀ x, g.remote = some x → es = (lanesOf ls).map fun l =>
        { lane := l, what := .trap .remote x.info x.addr, escalates := (g.lane l).trap, word := r, rword := r, sword := r }) := by
  by_cases hcp : ent h 16 3 = 7
  · exact ⟨[], by rw [if_pos hcp]; rfl, fun _ => rfl, fun hne => absurd hcp hne⟩
  · rw [if_neg hcp]
    cases hr : g.remote with
    | none => exact ⟨[], rfl, fun _ => rfl, fun _ _ => nofun⟩
    | some x =>
      refine ⟨_, ?_, fun h => by rcases h with h | h <;> [exact absurd h hcp; cases h], fun _ y hy => by obtain rfl := Option.some.inj hy; rfl⟩
      dsimp only
      rw [raiseAt_eq]
      by_cases hls : lanesOf ls = []
      · rw [hls, laneSet_eq_zero hls]
        rfl
      · rw [if_neg (mt List.map_eq_nil_iff.1 hls)]
        rw [show escalating (.trap .remote x.info x.addr) = true from rfl]
        simp only [Bool.and_true]
        rfl

theorem issueRefused {s u : State} {c k : Nat} {g : Group} {pc : DWord} {r : Nat} {ls : LaneSet} {h level : Nat} {reduced : Bool} {ws : List Word}
    (hu : Untouched (s.setGroup c k (counting g)) u) (hbad : clauseBad h r level reduced ws = true)
    (hexec : exec .clauseIssue s = .next (u.setGroup c k ((counting g).issueClause pc r ls h level reduced ws))) :
    IssueRefused s c k g ls (headerOf (BitVec.ofNat 32 h)) := by
  rw [issueClause_eq, if_pos hbad, raiseAt_eq] at hexec
  refine Issues.of_setGroup hu hexec ⟨rfl, lanesOf ls, lanesOf_sorted _, fun l => mem_lanesOf .., ?_⟩
  rw [headerOf_eq]
  exact List.map_congr_left fun l _ => by rw [show escalating (.trap .illegalClause 0 0) = true from rfl, Bool.and_true]; rfl

theorem issueBegins {s u : State} {c k : Nat} {g : Group} {pc r : Nat} {ls : LaneSet} {h level : Nat} {reduced : Bool} {ws words lits : List Word}
    (hu : Untouched (s.setGroup c k (counting g)) u) (hbad : clauseBad h r level reduced ws = false)
    (hwords : ws.take (ent h 28 4) = words) (hlits : ws.drop (ent h 28 4) = lits)
    (hexec : exec .clauseIssue s = .next (
      if clauseBad h r level reduced ws || (counting g).countsMet (ent h 22 3) (ent h 19 3) (ent h 16 3) (ent h 13 3) then
        u.setGroup c k ((counting g).issueClause (BitVec.ofNat 64 pc) r ls h level reduced ws)
      else u.setGroup c k ({ counting g with walked := [] }.waitOn (.counts (ent h 22 3) (ent h 19 3) (ent h 16 3) (ent h 13 3))))) :
    IssueBegins s c k g pc r ls (headerOf (BitVec.ofNat 32 h)) words lits := by
  have hmet : (counting g).countsMet (ent h 22 3) (ent h 19 3) (ent h 16 3) (ent h 13 3) = true ↔ CountsMet g (headerOf (BitVec.ofNat 32 h)) := by
    rw [headerOf_eq]
    exact countsMet_iff ..
  rw [hbad, Bool.false_or] at hexec
  refine ⟨fun hno => ?_, fun hyes => ?_⟩
  · rw [if_neg (hno ∘ hmet.1)] at hexec
    rw [headerOf_eq]
    exact IssueWaits.of_setGroup hu rfl hexec
  · rw [if_pos (hmet.2 hyes), issueClause_eq, if_neg (Bool.eq_false_iff.1 hbad)] at hexec
    rw [headerOf_eq]
    subst hwords hlits
    obtain ⟨es, hes, hnone, hsome⟩ := begun_issued g (BitVec.ofNat 64 pc) r ls h ws
    rw [hes] at hexec
    refine ⟨_, hexec, Local.trans (Local.after (Local.setGroup s c k _) hu) (Local.setGroup ..), _, es, group?_setGroup_self .., ?_, hnone,
      fun hcp x hx => ⟨lanesOf ls, lanesOf_sorted _, fun l => mem_lanesOf .., hsome hcp x hx⟩, rfl, rfl, rfl, rfl, rfl⟩
    unfold begun headerClause
    rw [classOf_getD]

/-! ## The issue of a clause as an event (R196, R219, R227 to R229, R390) -/

theorem clauseBad_eq_true {s : State} {h r level : Nat} {ws : List Word} (hskip : skips h r = false)
    (hbad : headerBad h (s.module.svc != 2) = true ∨ misplaced ((classOf (ent h 25 3)).getD .control) level (ws.take (ent h 28 4)) = true) :
    clauseBad h r level (s.module.svc != 2) ws = true := by
  unfold clauseBad
  rw [hskip, Bool.not_false, Bool.true_and, Bool.or_eq_true]
  exact hbad

theorem clauseBad_eq_false {s : State} {h r level : Nat} {ws : List Word}
    (hgood : skips h r = true ∨ headerBad h (s.module.svc != 2) = false ∧ misplaced ((classOf (ent h 25 3)).getD .control) level (ws.take (ent h 28 4)) = false) :
    clauseBad h r level (s.module.svc != 2) ws = false := by
  unfold clauseBad
  rcases hgood with hs | ⟨hb, hm⟩
  · rw [hs]; rfl
  · rw [hb, hm, Bool.or_false, Bool.and_false]

/-- The issue of a clause once its header has been read. -/
def IssueOfHeader (s : State) (c k : Nat) (g : Group) (pc r : Nat) (ls : LaneSet) (h : Header) : Prop :=
  let skip : Prop := r ≠ 0 ∧ r = h.count
  (BadHeader s h → ¬ skip → IssueRefused s c k g ls h)
  ∧ (BadHeader s h → skip → IssueBegins s c k g pc r ls h (List.replicate h.count 0) (List.replicate h.lits 0))
  ∧ (¬ BadHeader s h → ClauseFetched s c k g pc (4 * (1 + h.count + h.lits)) fun qs =>
      let ws := (wordsOf (s.homeBytes qs)).drop 1
      (¬ skip → misplaced (headerClass h.cls) (s.levelOf g) (ws.take h.count) = true → IssueRefused s c k g ls h)
      ∧ (skip ∨ misplaced (headerClass h.cls) (s.levelOf g) (ws.take h.count) = false →
          IssueBegins s c k g pc r ls h (ws.take h.count) (ws.drop h.count)))

/-- What the model does with the words of a clause. -/
def issueWith (s : State) (c k : Nat) (g : Group) (pc : DWord) (r : Nat) (ls : LaneSet) (u : State) (h : Nat) (ws : List Word) : State :=
  if clauseBad h r (s.levelOf g) (s.module.svc != 2) ws || (counting g).countsMet (ent h 22 3) (ent h 19 3) (ent h 16 3) (ent h 13 3) then
    u.setGroup c k ((counting g).issueClause pc r ls h (s.levelOf g) (s.module.svc != 2) ws)
  else u.setGroup c k ({ counting g with walked := [] }.waitOn (.counts (ent h 22 3) (ent h 19 3) (ent h 16 3) (ent h 13 3)))

theorem issueRefused_of {s u : State} {c k : Nat} {g : Group} {pc : DWord} {r : Nat} {ls : LaneSet} {h : Nat} {ws : List Word}
    (hu : Untouched (s.setGroup c k (counting g)) u) (hexec : exec .clauseIssue s = .next (issueWith s c k g pc r ls u h ws))
    (hbad : clauseBad h r (s.levelOf g) (s.module.svc != 2) ws = true) : IssueRefused s c k g ls (headerOf (BitVec.ofNat 32 h)) := by
  unfold issueWith at hexec
  rw [hbad, Bool.true_or, if_pos rfl] at hexec
  exact issueRefused hu hbad hexec

theorem issueOfHeader {s u : State} {c k : Nat} {g : Group} {pc r : Nat} {ls : LaneSet} {h : Nat} (hpc : pc < 2 ^ 64)
    (hu : Untouched (s.setGroup c k (counting g)) u)
    (hexec : exec .clauseIssue s = .next (
      if headerBad h (s.module.svc != 2) then
        issueWith s c k g (BitVec.ofNat 64 pc) r ls u h (List.replicate (ent h 28 4 + ent h 8 4) 0)
      else (s.setGroup c k (counting g)).fetch c k (counting g) (BitVec.ofNat 64 pc) (clauseBytes h)
        fun v bs => issueWith s c k g (BitVec.ofNat 64 pc) r ls v h ((wordsOf bs).drop 1))) :
    IssueOfHeader s c k g pc r ls (headerOf (BitVec.ofNat 32 h)) := by
  have hcount : (headerOf (BitVec.ofNat 32 h)).count = ent h 28 4 := by rw [headerOf_eq]
  have hlits : (headerOf (BitVec.ofNat 32 h)).lits = ent h 8 4 := by rw [headerOf_eq]
  have hcls : headerClass (headerOf (BitVec.ofNat 32 h)).cls = (classOf (ent h 25 3)).getD .control := by rw [headerOf_eq, classOf_getD]
  have hno : ¬ (r ≠ 0 ∧ r = (headerOf (BitVec.ofNat 32 h)).count) → skips h r = false := fun hn => Bool.eq_false_iff.2 (hn ∘ (skips_iff h r).1)
  unfold IssueOfHeader
  refine ⟨fun hbad hskip => ?_, fun hbad hskip => ?_, fun hgood => ?_⟩
  · rw [if_pos ((headerBad_iff s h).2 hbad)] at hexec
    exact issueRefused_of hu hexec (clauseBad_eq_true (hno hskip) (.inl ((headerBad_iff s h).2 hbad)))
  · rw [if_pos ((headerBad_iff s h).2 hbad)] at hexec
    refine issueBegins hu (clauseBad_eq_false (.inl ((skips_iff h r).2 hskip))) ?_ ?_ hexec
    · rw [hcount, List.take_replicate, Nat.min_eq_left (Nat.le_add_right ..)]
    · rw [hlits, List.drop_replicate, Nat.add_sub_cancel_left]
  · have hb : headerBad h (s.module.svc != 2) = false := Bool.eq_false_iff.2 (hgood ∘ (headerBad_iff s h).1)
    rw [hb, if_neg Bool.false_ne_true] at hexec
    rw [hcount, hlits, hcls]
    refine clauseFetched hpc hexec fun qs v hv hnext => ⟨fun hskip hm => ?_, fun hor => ?_⟩
    · exact issueRefused_of hv hnext (clauseBad_eq_true (hno (hcount ▸ hskip)) (.inr hm))
    · refine issueBegins hv (clauseBad_eq_false ?_) rfl rfl hnext
      exact hor.imp (fun hs => (skips_iff h r).2 (hcount ▸ hs)) fun hm => ⟨hb, hm⟩

theorem clauseIssue_spec {s : State} {c q z k : Nat} {g : Group} {pc r : Nat} {ls : LaneSet} (hobj : OfObject s c q z) (hbusy : s.slotBusy c q = false)
    (hchoice : s.issueChoice c q = some (k, g)) (hset : g.issueSet = some (pc, r, ls)) :
    ClauseFetched s c k g pc 4 fun ps => IssueOfHeader s c k g pc r ls (headerOf (BitVec.ofNat 32 (ofBytes (s.homeBytes ps)))) := by
  have hexec : exec .clauseIssue s = .next ((s.setGroup c k (counting g)).fetch c k (counting g) (BitVec.ofNat 64 pc) 4 fun t hb =>
      if headerBad (ofBytes hb) (s.module.svc != 2) then
        issueWith s c k g (BitVec.ofNat 64 pc) r ls t (ofBytes hb) (List.replicate (ent (ofBytes hb) 28 4 + ent (ofBytes hb) 8 4) 0)
      else (s.setGroup c k (counting g)).fetch c k (counting g) (BitVec.ofNat 64 pc) (clauseBytes (ofBytes hb))
        fun v bs => issueWith s c k g (BitVec.ofNat 64 pc) r ls v (ofBytes hb) ((wordsOf bs).drop 1)) := by
    change execClauseIssue s = _
    unfold execClauseIssue
    rw [object_of hobj]
    dsimp only
    rw [hbusy, hchoice, if_neg Bool.false_ne_true]
    dsimp only
    unfold State.issue
    rw [hset]
    rfl
  exact clauseFetched (issueSet_lt hset) hexec fun ps u hu hnext => issueOfHeader (issueSet_lt hset) hu hnext

/-- Settles O45: the issue of a clause is one fetch of its header and one of its words, each followed by its own cases; completion, waits,
watchdog and resumption change the group, and a group that stops leaves its record. -/
theorem groupEvents : Obligations.GroupEvents := by
  unfold Obligations.GroupEvents
  exact ⟨fun s c q z k g pc r ls hobj hbusy hchoice hset _ => clauseIssue_spec hobj hbusy hchoice hset, issueOrder_spec, clauseComplete_spec,
    groupWaitEnd_spec, slotStarvation_spec, watchdogExpiry_spec, firmwareResumeGroup_revoked_spec, firmwareResumeGroup_calm_spec⟩

end Sys2Proof.Laws
end

section
/-! Register writes of hypervisor, monitor and guests (O50). -/

namespace Sys2Proof.Laws

open Sys2Proof Sys2Proof.Machine Sys2Proof.Claim

/-! ## Register writes that an event takes (R402, R427, R430, R432) -/

theorem taken_eq (s : State) (w : RegWrite) : s.takeWrite w = taken s w := by
  unfold State.takeWrite taken posted
  simp only [beq_iff_eq]

theorem onWrite_of_arrived {s : State} {w : RegWrite} {mine : RegWrite → Bool} (f : RegWrite → State → State) (h : Arrived s w) (hm : mine w = true) :
    onWrite s mine f = .next ((taken s w).passWrite w f) := by
  obtain ⟨hactor, hposted⟩ := h
  have hgo : (posted w && s.arrivals.head? == some true) = false := by
    unfold posted
    rw [Bool.and_eq_false_imp]
    intro hw
    exact beq_eq_false_iff_ne.2 (hposted (eq_of_beq hw))
  unfold onWrite
  rw [hactor]
  dsimp only
  rw [hm, hgo, taken_eq]
  rfl

theorem tenantBlock_iff (s : State) (p : Nat) (w : RegWrite) : s.tenantBlock p w.block w.index = true ↔ BlockOf s p w := by
  unfold State.tenantBlock BlockOf
  cases w.block <;> simp

theorem writeAllowed_iff_of_monitor {w : RegWrite} (h : w.writer = .monitor) : writeAllowed w = true ↔ w.block = .partition := by
  unfold writeAllowed
  rw [h]
  cases w.block <;> simp

theorem writeAllowed_iff_of_guest {w : RegWrite} (h : w.writer = .guest) : writeAllowed w = true ↔ w.block = .guest := by
  unfold writeAllowed
  rw [h]
  cases w.block <;> simp

theorem writeAllowed_iff_of_hypervisor {w : RegWrite} (h : w.writer = .hypervisor) :
    writeAllowed w = true ↔ w.block ≠ .partition ∧ w.block ≠ .guest := by
  unfold writeAllowed
  rw [h]
  cases w.block <;> simp

theorem writeAllowed_of_blockOf {s : State} {p : Nat} {w : RegWrite} (h : w.writer = .plugin p) (hb : BlockOf s p w) : writeAllowed w = true := by
  unfold writeAllowed
  rw [h]
  rcases hb with ⟨hb, -⟩ | ⟨hb | hb | hb | hb | hb | hb, -⟩ <;> rw [hb]

theorem served_iff (s : State) (w : RegWrite) :
    s.served w = true ↔ s.module.svc ≠ 0 ∨ ¬ (w.block = .partition ∨ (w.block = .vdev ∧ w.offset = 0x38)) := by
  unfold State.served
  simp [imp_iff_not_or]

/-- A write that may reach its block, and that recovery serves, takes effect. -/
theorem passWrite_of_may {s : State} {w : RegWrite} (f : RegWrite → State → State) (h : MayWrite s w) : (taken s w).passWrite w f = f w (taken s w) := by
  obtain ⟨hwriter, hserved⟩ := h
  have hs : (taken s w).served w = true := (served_iff (taken s w) w).2 hserved
  unfold State.passWrite
  cases hw : w.writer with
  | plugin p =>
    rw [hw] at hwriter
    obtain ⟨hstop, hblock⟩ := hwriter
    dsimp only
    have h1 : (taken s w).module.isStopped p = false := hstop
    have h2 : (taken s w).tenantBlock p w.block w.index = true := (tenantBlock_iff s p w).2 hblock
    rw [h1, h2, writeAllowed_of_blockOf hw hblock, hs]
    rfl
  | monitor =>
    rw [hw] at hwriter
    dsimp only
    rw [(writeAllowed_iff_of_monitor hw).2 hwriter, hs]
    rfl
  | guest =>
    rw [hw] at hwriter
    dsimp only
    rw [(writeAllowed_iff_of_guest hw).2 hwriter, hs]
    rfl
  | hypervisor =>
    rw [hw] at hwriter
    dsimp only
    rw [(writeAllowed_iff_of_hypervisor hw).2 hwriter, hs]
    rfl

/-- What a register write of the shared event does once it is let through. -/
def registerEffect (w : RegWrite) (t : State) : State :=
  match w.block with
  | .module => t.writeModule w
  | .partition => t.writePartition w
  | .version => t.writeVersion w
  | .vdev => if w.offset = 0x38 then t.badCommand w else t.writeVdev w
  | .xlate => t.writeXlate w
  | .cache => t.writeCache w
  | .fabric => t.writeFabric w
  | .trap => t.writeTrap w
  | .queue => t.writeQueue w
  | _ => t

theorem exec_registerWrite {s : State} {w : RegWrite} (h : Arrived s w) (hspecial : writeSpecial w = false) :
    exec .registerWrite s = .next ((taken s w).passWrite w registerEffect) := by
  change onWrite s (fun w => !writeSpecial w) registerEffect = _
  exact onWrite_of_arrived registerEffect h (by rw [hspecial]; rfl)

/-! ## What registers read as (R426 to R431) -/

/-- The registers that a device holds for a block. -/
def regsOf (d : Device) : RegBlock → Tab DWord
  | .vdev => d.ctl
  | .xlate => d.xlate
  | .cache => d.cache
  | .fabric => d.fabric
  | .trap => d.trap
  | .queue => d.queue
  | _ => []

/-- The blocks of devices that hold registers. -/
def DeviceBlock (b : RegBlock) : Prop := b = .vdev ∨ b = .xlate ∨ b = .cache ∨ b = .fabric ∨ b = .trap ∨ b = .queue

/-- A register of a device replaced. -/
def putReg (d : Device) (b : RegBlock) (o : Nat) (v : DWord) : Device :=
  match b with
  | .vdev => { d with ctl := d.ctl.put o v }
  | .xlate => { d with xlate := d.xlate.put o v }
  | .cache => { d with cache := d.cache.put o v }
  | .fabric => { d with fabric := d.fabric.put o v }
  | .trap => { d with trap := d.trap.put o v }
  | .queue => { d with queue := d.queue.put o v }
  | _ => d

/-- A register that reads as it was last written. -/
def PlainReg (b : RegBlock) (o : Nat) : Prop :=
  match b with
  | .vdev => o ≠ 0 ∧ o ≠ 0x10 ∧ o ≠ 0x38 ∧ o ≠ 0x48
  | .xlate => o ≠ 0x40
  | .cache => ¬ (0x20 ≤ o ∧ o < 0x40) ∧ ¬ (0x60 ≤ o ∧ o < 0x80)
  | .queue => o ≠ 0x98
  | .fabric | .trap => True
  | _ => False

theorem readReg_plain (s : State) {b : RegBlock} {i o : Nat} (h : PlainReg b o) (hi : i < 128) (ho : o < 0x100) :
    s.readReg b i o = (regsOf (s.device i) b).get o 0 := by
  have hin : ∀ b, DeviceBlock b → ¬ (blockEntries b ≤ i ∨ blockBytes b ≤ o) := by
    rintro b (rfl | rfl | rfl | rfl | rfl | rfl) <;>
      exact fun h => h.elim (Nat.not_le.2 hi) (Nat.not_le.2 ho)
  unfold State.readReg
  cases b with
  | vdev =>
    obtain ⟨h0, h10, h38, h48⟩ := h
    rw [if_neg (hin _ (by unfold DeviceBlock; decide))]
    dsimp only
    unfold State.vdevReg
    dsimp only
    split
    · exact absurd rfl h0
    · exact absurd rfl h10
    · exact absurd rfl h38
    · exact absurd rfl h48
    · rfl
  | xlate =>
    rw [if_neg (hin _ (by unfold DeviceBlock; decide))]
    dsimp only
    unfold State.xlateReg
    dsimp only
    split
    · exact absurd rfl h
    · rfl
  | cache =>
    rw [if_neg (hin _ (by unfold DeviceBlock; decide))]
    dsimp only
    unfold State.cacheReg
    rw [if_neg h.1, if_neg h.2]
    rfl
  | queue =>
    rw [if_neg (hin _ (by unfold DeviceBlock; decide))]
    dsimp only
    unfold State.queueReg
    dsimp only
    split
    · exact absurd rfl h
    · rfl
  | fabric | trap =>
    rw [if_neg (hin _ (by unfold DeviceBlock; decide))]
    rfl
  | module | partition | version | keeper | guest => exact h.elim

/-- One register of a device is the same in two states of it, and so is all that other registers show. -/
structure RegKept (d d' : Device) (b : RegBlock) (o : Nat) : Prop where
  reg : (regsOf d' b).get o 0 = (regsOf d b).get o 0
  state : d'.state = d.state
  window : d'.window = d.window
  busy : d'.busy = d.busy
  status : d'.status = d.status
  tinv : d'.tinv = d.tinv
  tinvErr : d'.tinvErr = d.tinvErr
  ckpt : d'.ckpt = d.ckpt
  ckStatus : d'.ckStatus = d.ckStatus

theorem RegKept.refl (d : Device) (b : RegBlock) (o : Nat) : RegKept d d b o := ⟨rfl, rfl, rfl, rfl, rfl, rfl, rfl, rfl, rfl⟩

theorem readReg_devices (s : State) {D : Tab Device} {b : RegBlock} {i o : Nat} (h10 : ¬ (b = .vdev ∧ o = 0x10))
    (h : RegKept (s.device i) (D.get i Device.reset) b o) : ({ s with devices := D }).readReg b i o = s.readReg b i o := by
  obtain ⟨hreg, hstate, hwindow, hbusy, hstatus, htinv, hterr, hckpt, hckst⟩ := h
  unfold State.readReg
  split
  · rfl
  · cases b with
    | module | partition | version | keeper => rfl
    | vdev =>
      dsimp only
      unfold State.vdevReg
      dsimp only
      change (D.get i Device.reset).ctl.get o 0 = (s.device i).ctl.get o 0 at hreg
      split
      · unfold State.device at *
        rw [hreg, hstate, hwindow]
      · exact absurd ⟨rfl, rfl⟩ h10
      · unfold State.device at *
        rw [hreg, hbusy, hstatus]
      · rfl
      · exact hreg
    | xlate =>
      dsimp only
      unfold State.xlateReg
      dsimp only
      change (D.get i Device.reset).xlate.get o 0 = (s.device i).xlate.get o 0 at hreg
      split
      · unfold State.device at *
        rw [hreg, htinv, hterr]
      · exact hreg
    | cache =>
      dsimp only
      unfold State.cacheReg
      split
      · rfl
      · split
        · rfl
        · exact hreg
    | queue =>
      dsimp only
      unfold State.queueReg
      dsimp only
      change (D.get i Device.reset).queue.get o 0 = (s.device i).queue.get o 0 at hreg
      split
      · unfold State.device at *
        rw [hreg, hckpt, hckst]
      · exact hreg
    | fabric | trap => exact hreg
    | guest =>
      dsimp only
      unfold State.guestReg
      split
      · unfold State.device at *
        rw [hstate]
      · rfl

theorem regsOf_putReg (d : Device) {b : RegBlock} (hb : DeviceBlock b) (o : Nat) (v : DWord) (L : Tab DWord) (b' : RegBlock) :
    regsOf { putReg d b o v with live := L } b' = if b' = b then (regsOf d b).put o v else regsOf d b' := by
  rcases hb with rfl | rfl | rfl | rfl | rfl | rfl <;> cases b' <;> rfl

theorem regsOf_putReg_self (d : Device) {b : RegBlock} (hb : DeviceBlock b) (o : Nat) (v : DWord) (L : Tab DWord) :
    (regsOf { putReg d b o v with live := L } b).get o 0 = v := by
  rw [regsOf_putReg d hb, if_pos rfl, Tab.get_put_self]

theorem regKept_putReg (d : Device) {b : RegBlock} (hb : DeviceBlock b) (o : Nat) (v : DWord) (L : Tab DWord) {b' : RegBlock} {o' : Nat}
    (h : ¬ (b' = b ∧ o' = o)) : RegKept d { putReg d b o v with live := L } b' o' := by
  have hreg : (regsOf { putReg d b o v with live := L } b').get o' 0 = (regsOf d b').get o' 0 := by
    rw [regsOf_putReg d hb]
    split
    · next hbb =>
      subst hbb
      exact Tab.get_put_ne _ _ _ _ _ fun ho => h ⟨rfl, ho⟩
    · rfl
  cases b <;> exact ⟨hreg, rfl, rfl, rfl, rfl, rfl, rfl, rfl, rfl⟩

/-! ## Writes of a device's registers -/

/-- The hypotheses of a write of a register that takes effect by the shared event. -/
structure Ready (s : State) (w : RegWrite) : Prop where
  arrived : Arrived s w
  plain : writeSpecial w = false
  may : MayWrite s w
  offset : w.offset < 0x100

theorem Ready.exec {s : State} {w : RegWrite} (h : Ready s w) : exec .registerWrite s = .next (registerEffect w (taken s w)) := by
  rw [exec_registerWrite h.arrived h.plain, passWrite_of_may _ h.may]

theorem readReg_taken (s : State) (w : RegWrite) (b : RegBlock) (i o : Nat) : (taken s w).readReg b i o = s.readReg b i o := rfl

theorem registerKept_of {s : State} {w : RegWrite} (h : Ready s w) (heff : registerEffect w (taken s w) = taken s w) : RegisterKept s w :=
  ⟨_, h.exec, by rw [heff]; exact fun _ => ⟨rfl, rfl, rfl⟩, by rw [heff]; rfl, fun b i o _ _ => by rw [heff]; rfl⟩

/-- The device with one of its registers written. -/
def wrote (s : State) (w : RegWrite) (v : DWord) (L : Tab DWord) : State :=
  (taken s w).withDevice w.index fun d => { putReg d w.block w.offset v with live := L }

theorem device_wrote (s : State) (w : RegWrite) (v : DWord) (L : Tab DWord) (i : Nat) : (wrote s w v L).device i =
    if i = w.index then { putReg (s.device w.index) w.block w.offset v with live := L } else s.device i := tabGet_put ..

theorem readReg_wrote_ne {s : State} {w : RegWrite} (hb : DeviceBlock w.block) (v : DWord) (L : Tab DWord) {b : RegBlock} {i o : Nat}
    (hne : ¬ (b = w.block ∧ i = w.index ∧ o = w.offset)) (h10 : ¬ (b = .vdev ∧ o = 0x10)) : (wrote s w v L).readReg b i o = s.readReg b i o := by
  refine (readReg_devices (taken s w) h10 ?_).trans (readReg_taken ..)
  have hdev := device_wrote s w v L i
  change ((taken s w).devices.put w.index _).get i Device.reset = _ at hdev
  rw [hdev]
  split
  · next hi =>
    subst hi
    exact regKept_putReg _ hb _ _ _ fun h => hne ⟨h.1, rfl, h.2⟩
  · exact .refl ..

theorem registerReads_of_reads {s : State} {w : RegWrite} {v x : DWord} {L : Tab DWord} (h : Ready s w) (hb : DeviceBlock w.block)
    (heff : registerEffect w (taken s w) = wrote s w v L) (hread : (wrote s w v L).readReg w.block w.index w.offset = x) : RegisterReads s w x :=
  ⟨_, h.exec, by rw [heff]; exact fun _ => ⟨rfl, rfl, rfl⟩, by rw [heff, hread], fun b i o hne h10 => by rw [heff, readReg_wrote_ne hb v L hne h10]⟩

theorem readReg_wrote_self {s : State} {w : RegWrite} (hb : DeviceBlock w.block) (hplain : PlainReg w.block w.offset) (hi : w.index < 128)
    (ho : w.offset < 0x100) (v : DWord) (L : Tab DWord) : (wrote s w v L).readReg w.block w.index w.offset = v := by
  rw [readReg_plain _ hplain hi ho, device_wrote, if_pos rfl, regsOf_putReg_self _ hb]

theorem registerReads_of {s : State} {w : RegWrite} {v : DWord} {L : Tab DWord} (h : Ready s w) (hb : DeviceBlock w.block)
    (hplain : PlainReg w.block w.offset) (hi : w.index < 128) (heff : registerEffect w (taken s w) = wrote s w v L) : RegisterReads s w v :=
  registerReads_of_reads h hb heff (readReg_wrote_self hb hplain hi h.offset v L)

/-- A write of a device's register that takes effect under a condition. -/
theorem registerSets_of {s : State} {w : RegWrite} {v : DWord} {L : Tab DWord} {cond ok : Prop} [Decidable cond] (h : Ready s w)
    (hb : DeviceBlock w.block) (hplain : PlainReg w.block w.offset) (hi : w.index < 128)
    (heff : registerEffect w (taken s w) = if cond then wrote s w v L else taken s w) (hcond : cond ↔ ok) :
    (ok → RegisterReads s w v) ∧ (¬ ok → RegisterKept s w) :=
  ⟨fun hok => registerReads_of h hb hplain hi (heff.trans (if_pos (hcond.2 hok))),
    fun hno => registerKept_of h (heff.trans (if_neg (hno ∘ hcond.1)))⟩

theorem not_vds_le {i : Nat} (hi : i < 128) : ¬ Config.vds ≤ i := Nat.not_le.2 hi

theorem not_partitions_le {p : Nat} (hp : p < 24) : ¬ Config.partitions ≤ p := Nat.not_le.2 hp

/-! ## Conditions of writes to the blocks of devices -/

/-- The register of a block as it is after a write of another or of itself. -/
theorem after_plain (s : State) (w : RegWrite) (v : DWord) {x : Nat} (hx : PlainReg w.block x) (hi : w.index < 128) (ho : x < 0x100) :
    (if x = w.offset then v else s.readReg w.block w.index x) = ((regsOf (s.device w.index) w.block).put w.offset v).get x 0 := by
  rw [tabGet_put, readReg_plain s hx hi ho]

/-- A change of a device that keeps its control and trap registers keeps R409; class 3 aside, it may be made. -/
theorem changeOk_of_plain {s : State} {v : Nat} {d d' : Device} (hctl : d'.ctl = d.ctl) (htrap : d'.trap = d.trap) (hplain : d.state = .none ∨ d.cls ≠ 3) :
    s.changeOk v d d' = true := by
  have hpart : d'.part = d.part := by unfold Device.part; rw [hctl]
  have hcls : d'.cls = d.cls := by unfold Device.cls; rw [hctl]
  have hbound : ∀ n, s.saveBound d' n = s.saveBound d n := fun n => by
    unfold State.saveBound State.saveArea Device.saveBase
    rw [hpart, hctl, htrap]
  have hus : d'.quantumUs = d.quantumUs := by unfold Device.quantumUs; rw [hctl]
  unfold State.changeOk
  dsimp only
  rw [hbound, hus, hcls]
  rcases hplain with h | h
  · rw [h]; rfl
  · simp [h]

theorem readReg_partition (s : State) {p o : Nat} (hp : p < 24) (ho : o < 0x100) : s.readReg .partition p o = (s.partition p).ctl.get o 0 := by
  unfold State.readReg
  rw [if_neg fun h => h.elim (Nat.not_le.2 hp) (Nat.not_le.2 ho)]

theorem pbound_eq (s : State) {p : Nat} (hp : p < 24) (tier : Tier) : s.pbound p tier = (s.readReg .partition p (0x38 + 16 * tier.code)).toNat := by
  rw [readReg_partition s hp (by cases tier <;> decide)]
  rfl

/-! ## Translation control (R20, R24, R25) -/

theorem wrote_xlate {s : State} {w : RegWrite} (hb : w.block = .xlate) (v : DWord) : wrote s w v (s.device w.index).live =
    (taken s w).withDevice w.index fun _ => { s.device w.index with xlate := (s.device w.index).xlate.put w.offset v } := by
  unfold wrote putReg
  rw [hb]
  rfl

theorem mib2Mask_eq : mib2Mask = 0x3FFFFFE00000#64 := by decide

/-- The tier whose window a register bounds. -/
theorem window_tier {o t : Nat} (ht : t < 3) (ho : o = 0x10 + 16 * t ∨ o = 0x18 + 16 * t) :
    ((tierOf (o / 0x10 - 1)).getD .hbm).code = t ∧ 0x10 ≤ o ∧ o < 0x40 ∧ o % 8 = 0 := by
  have hq : o / 0x10 - 1 = t := by omega
  rw [hq]
  refine ⟨?_, by omega, by omega, by omega⟩
  match t with
  | 0 | 1 | 2 => rfl

theorem registerEffect_xlate {w : RegWrite} (hb : w.block = .xlate) (t : State) : registerEffect w t = t.writeXlate w := by
  unfold registerEffect
  rw [hb]

theorem xlate_window_sets {s : State} {w : RegWrite} (h : Ready s w) (hb : w.block = .xlate) (hi : w.index < 128) {t : Nat} (ht : t < 3)
    (ho : w.offset = 0x10 + 16 * t ∨ w.offset = 0x18 + 16 * t) (hplain : (s.device w.index).state = .none ∨ (s.device w.index).cls ≠ 3)
    (hpart : (s.device w.index).part < 24) : let v := w.value &&& 0x3FFFFFE00000#64
    let after (x : Nat) : DWord := if x = w.offset then v else s.readReg w.block w.index x
    let ok : Prop := (after (0x18 + 16 * t)).toNat ≤ (after (0x10 + 16 * t)).toNat
      ∨ (after (0x18 + 16 * t)).toNat ≤ (s.readReg .partition (s.device w.index).part (0x38 + 16 * t)).toNat
    (ok → RegisterReads s w v) ∧ (¬ ok → RegisterKept s w) := by
  intro v after ok
  obtain ⟨hcode, hlo, hhi, hmod⟩ := window_tier ht ho
  generalize htier : (tierOf (w.offset / 0x10 - 1)).getD .hbm = tier at hcode
  have hdb : DeviceBlock w.block := hb ▸ .inr (.inl rfl)
  have hplainReg : ∀ x, x ≠ 0x40 → PlainReg w.block x := fun x hx => hb ▸ hx
  have hafter : ∀ x, x < 0x40 → after x = ((s.device w.index).xlate.put w.offset v).get x 0 := fun x hx =>
    (after_plain s w v (hplainReg x (by omega)) hi (by omega)).trans (by rw [hb]; rfl)
  let x' := (s.device w.index).xlate.put w.offset v
  have heff : registerEffect w (taken s w) =
      if ((x'.get (0x18 + 0x10 * tier.code) 0).toNat ≤ (x'.get (0x10 + 0x10 * tier.code) 0).toNat
          ∨ (x'.get (0x18 + 0x10 * tier.code) 0).toNat ≤ s.pbound (s.device w.index).part tier)
        ∧ (tier ≠ .hbm ∨ (taken s w).changeOk w.index (s.device w.index) { s.device w.index with xlate := x' } = true) then
        wrote s w v (s.device w.index).live else taken s w := by
    rw [registerEffect_xlate hb, wrote_xlate hb]
    unfold State.writeXlate
    dsimp only
    rw [if_neg (not_vds_le hi), if_neg (by omega), if_pos ⟨hlo, hhi, hmod⟩, htier, mib2Mask_eq]
    rfl
  refine registerSets_of h hdb (hplainReg _ (by omega)) hi heff ?_
  have hchange : (taken s w).changeOk w.index (s.device w.index) { s.device w.index with xlate := x' } = true := changeOk_of_plain rfl rfl hplain
  rw [hchange, hcode, pbound_eq s hpart, hcode]
  unfold ok
  rw [hafter _ (by omega), hafter _ (by omega)]
  simp only [or_true, and_true]
  rfl

theorem xlate_kept {s : State} {w : RegWrite} (h : Ready s w) (hb : w.block = .xlate) (ho : 0x50 ≤ w.offset) : RegisterKept s w := by
  refine registerKept_of h ?_
  rw [registerEffect_xlate hb]
  unfold State.writeXlate
  dsimp only
  split
  · rfl
  · rw [if_neg (by omega), if_neg (by omega)]

/-! ## Cache control (R67 to R70) -/

theorem wrote_cache {s : State} {w : RegWrite} (hb : w.block = .cache) (v : DWord) : wrote s w v (s.device w.index).live =
    (taken s w).withDevice w.index fun d => { d with cache := d.cache.put w.offset v } := by
  unfold wrote putReg
  rw [hb]
  rfl

theorem registerEffect_cache {w : RegWrite} (hb : w.block = .cache) (t : State) : registerEffect w t = t.writeCache w := by
  unfold registerEffect
  rw [hb]

theorem cache_limit_reads {s : State} {w : RegWrite} (h : Ready s w) (hb : w.block = .cache) (hi : w.index < 128) {i : Nat} (hi4 : i < 4)
    (ho : w.offset = 8 * i ∨ w.offset = 0x40 + 8 * i) : RegisterReads s w (w.value &&& 0x80000000003FFFFF#64) := by
  refine registerReads_of h (hb ▸ .inr (.inr (.inl rfl))) ?_ hi (L := (s.device w.index).live) ?_
  · rw [hb]
    exact ⟨by omega, by omega⟩
  · rw [registerEffect_cache hb, wrote_cache hb]
    unfold State.writeCache
    dsimp only
    rw [if_neg (not_vds_le hi), if_pos (by omega), show bitsMask 63 1 ||| lowMask 22 = 0x80000000003FFFFF#64 by decide]

theorem cache_counts_reads {s : State} {w : RegWrite} (h : Ready s w) (hb : w.block = .cache) (hi : w.index < 128) (ho : w.offset = 0x80) :
    RegisterReads s w (w.value &&& 0xF0F#64) := by
  refine registerReads_of h (hb ▸ .inr (.inr (.inl rfl))) ?_ hi (L := (s.device w.index).live) ?_
  · rw [hb, ho]
    exact ⟨by omega, by omega⟩
  · rw [registerEffect_cache hb, wrote_cache hb]
    unfold State.writeCache
    dsimp only
    rw [if_neg (not_vds_le hi), if_neg (by omega), if_pos ho, show bitsMask 8 4 ||| lowMask 4 = 0xF0F#64 by decide]

theorem cache_kept {s : State} {w : RegWrite} (h : Ready s w) (hb : w.block = .cache)
    (ho : (0x20 ≤ w.offset ∧ w.offset < 0x40) ∨ (0x60 ≤ w.offset ∧ w.offset < 0x80) ∨ 0x88 ≤ w.offset) : RegisterKept s w := by
  refine registerKept_of h ?_
  rw [registerEffect_cache hb]
  unfold State.writeCache
  dsimp only
  split
  · rfl
  · rw [if_neg (by omega), if_neg (by omega)]

/-! ## Queues and checkpoints (R429, R436) -/

theorem wrote_queue {s : State} {w : RegWrite} (hb : w.block = .queue) (v : DWord) : wrote s w v (s.device w.index).live =
    (taken s w).withDevice w.index fun d => { d with queue := d.queue.put w.offset v } := by
  unfold wrote putReg
  rw [hb]
  rfl

theorem registerEffect_queue {w : RegWrite} (hb : w.block = .queue) (t : State) : registerEffect w t = t.writeQueue w := by
  unfold registerEffect
  rw [hb]

theorem bits_eq (r : DWord) (lo n : Nat) : bits r lo n = (r.extractLsb' lo n).toNat := by
  rw [BitVec.extractLsb'_toNat, Nat.shiftRight_eq_div_pow]
  rfl

theorem bits_eq_bits (r q : DWord) (lo n : Nat) : bits r lo n = bits q lo n ↔ r.extractLsb' lo n = q.extractLsb' lo n := by
  rw [bits_eq, bits_eq, BitVec.toNat_inj]

theorem queue_base_sets {s : State} {w : RegWrite} (h : Ready s w) (hb : w.block = .queue) (hi : w.index < 128) {q : Nat} (hq : q < 4)
    (ho : w.offset = 32 * q) : let old (x : Nat) : DWord := s.readReg w.block w.index x
    let ok : Prop := (old (32 * q + 8)).extractLsb' 0 32 = (old (32 * q + 16)).extractLsb' 0 32
    (ok → RegisterReads s w (w.value &&& 0x3FFFFFFFFC0F#64)) ∧ (¬ ok → RegisterKept s w) := by
  intro old ok
  have hplain : ∀ x, x ≠ 0x98 → PlainReg w.block x := fun x hx => hb ▸ hx
  have heff : registerEffect w (taken s w) = if (s.device w.index).sqHead q = (s.device w.index).sqTail q then
      wrote s w (w.value &&& 0x3FFFFFFFFC0F#64) (s.device w.index).live else taken s w := by
    rw [registerEffect_queue hb, wrote_queue hb]
    unfold State.writeQueue
    dsimp only
    rw [if_neg (not_vds_le hi), if_pos (by omega), show w.offset / 0x20 = q by omega,
      show bitsMask 10 36 ||| lowMask 4 = 0x3FFFFFFFFC0F#64 by decide]
    rfl
  refine registerSets_of h (hb ▸ by unfold DeviceBlock; decide) (hplain _ (by omega)) hi heff ?_
  unfold ok old Device.sqHead Device.sqTail
  rw [readReg_plain s (hplain _ (by omega)) hi (by omega), readReg_plain s (hplain _ (by omega)) hi (by omega), hb, bits_eq_bits]
  exact eq_comm

theorem queue_word_reads {s : State} {w : RegWrite} (h : Ready s w) (hb : w.block = .queue) (hi : w.index < 128) {v : DWord}
    (ho : w.offset = 0x80 ∧ v = w.value &&& 0x8000FFFFFFFFFFFF#64 ∨ (w.offset = 0x88 ∨ w.offset = 0x90) ∧ v = w.value) : RegisterReads s w v := by
  refine registerReads_of h (hb ▸ by unfold DeviceBlock; decide) (hb ▸ (show w.offset ≠ 0x98 by omega)) hi (L := (s.device w.index).live) ?_
  rw [registerEffect_queue hb, wrote_queue hb]
  unfold State.writeQueue
  dsimp only
  rw [if_neg (not_vds_le hi), if_neg (by omega)]
  rcases ho with ⟨ho, rfl⟩ | ⟨ho | ho, rfl⟩
  · rw [ho, show bitsMask 63 1 ||| lowMask 48 = 0x8000FFFFFFFFFFFF#64 by decide]
    rfl
  · rw [ho]
    rfl
  · rw [ho]
    rfl

theorem queue_kept {s : State} {w : RegWrite} (h : Ready s w) (hb : w.block = .queue)
    (ho : w.offset % 32 = 16 ∨ w.offset % 32 = 24 ∨ 0xA0 ≤ w.offset) (h90 : w.offset ≠ 0x90) (h98 : w.offset ≠ 0x98) : RegisterKept s w := by
  refine registerKept_of h ?_
  rw [registerEffect_queue hb]
  unfold State.writeQueue
  dsimp only
  split
  · rfl
  · rw [if_neg (by omega)]
    split
    · omega
    · omega
    · exact absurd ‹_› h90
    · rfl

/-! ## Fabric control (R166, R167, R170, R175) -/

theorem wrote_fabric {s : State} {w : RegWrite} (hb : w.block = .fabric) (v : DWord) : wrote s w v (s.device w.index).live =
    (taken s w).withDevice w.index fun _ => { s.device w.index with fabric := (s.device w.index).fabric.put w.offset v } := by
  unfold wrote putReg
  rw [hb]
  rfl

theorem registerEffect_fabric {w : RegWrite} (hb : w.block = .fabric) (t : State) : registerEffect w t = t.writeFabric w := by
  unfold registerEffect
  rw [hb]

theorem lowMask_12 : lowMask 12 = 0xFFF#64 := by decide

theorem lowMask_21 : lowMask 21 = 0x1FFFFF#64 := by decide

theorem fabric_rtab_sets {s : State} {w : RegWrite} (h : Ready s w) (hb : w.block = .fabric) (hi : w.index < 128) (ho : w.offset = 8) :
    let v := w.value &&& ~~~0x1FFFFF#64
    let ok : Prop := (s.device w.index).job = none ∧ canonical v.toNat = true
    (ok → RegisterReads s w v) ∧ (¬ ok → RegisterKept s w) := by
  intro v ok
  have heff : registerEffect w (taken s w) = if ((s.device w.index).job.isNone && canonical v.toNat) = true then
      wrote s w v (s.device w.index).live else taken s w := by
    rw [registerEffect_fabric hb, wrote_fabric hb]
    unfold State.writeFabric
    dsimp only
    rw [if_neg (not_vds_le hi), lowMask_21, ho]
    rfl
  refine registerSets_of h (hb ▸ by unfold DeviceBlock; decide) (hb ▸ trivial) hi heff ?_
  rw [Bool.and_eq_true, Option.isNone_iff_eq_none]

/-- The window of a device in HBM, by its registers. -/
def hbmWindow (s : State) (i : Nat) : Nat × Nat := ((s.readReg .xlate i 0x10).toNat, (s.readReg .xlate i 0x18).toNat)

/-- A range lies in the HBM window of a device, or is empty. -/
def InHbm (s : State) (i lo hi : Nat) : Prop := hi ≤ lo ∨ ((hbmWindow s i).1 ≤ lo ∧ hi ≤ (hbmWindow s i).2)

theorem inHbm_iff {s : State} {i : Nat} (hi : i < 128) {d : Device} (hx : d.xlate = (s.device i).xlate) (lo n : Nat) :
    d.inHbm lo n = true ↔ InHbm s i lo n := by
  have hreg : ∀ o, o ≠ 0x40 → o < 0x100 → s.readReg .xlate i o = (s.device i).xlate.get o 0 := fun o h ho => readReg_plain s h hi ho
  unfold Device.inHbm InHbm hbmWindow
  rw [decide_eq_true_iff, hx, hreg _ (by decide) (by decide), hreg _ (by decide) (by decide)]

theorem fabric_hasp_sets {s : State} {w : RegWrite} (h : Ready s w) (hb : w.block = .fabric) (hi : w.index < 128) (ho : w.offset = 0x10 ∨ w.offset = 0x18)
    (hplain : (s.device w.index).state = .none ∨ (s.device w.index).cls ≠ 3) : let v := w.value &&& 0x3FFFFFFFF000#64
    let after (x : Nat) : DWord := if x = w.offset then v else s.readReg w.block w.index x
    let ok : Prop := InHbm s w.index (after 0x10).toNat (after 0x18).toNat
    (ok → RegisterReads s w v) ∧ (¬ ok → RegisterKept s w) := by
  intro v after ok
  have hafter : ∀ x, x < 0x100 → after x = ((s.device w.index).fabric.put w.offset v).get x 0 := fun x hx =>
    (after_plain s w v (hb ▸ trivial) hi hx).trans (by rw [hb]; rfl)
  let x : Device := { s.device w.index with fabric := (s.device w.index).fabric.put w.offset v }
  have heff : registerEffect w (taken s w) =
      if (x.inHbm (x.fabric.get 0x10 0).toNat (x.fabric.get 0x18 0).toNat && (taken s w).changeOk w.index (s.device w.index) x) = true then
        wrote s w v (s.device w.index).live else taken s w := by
    rw [registerEffect_fabric hb, wrote_fabric hb]
    unfold State.writeFabric
    dsimp only
    rw [if_neg (not_vds_le hi), show bitsMask 12 34 = 0x3FFFFFFFF000#64 by decide]
    unfold x v
    rcases ho with ho | ho
    · rw [ho]
      rfl
    · rw [ho]
      rfl
  refine registerSets_of h (hb ▸ by unfold DeviceBlock; decide) (hb ▸ trivial) hi heff ?_
  have hchange : (taken s w).changeOk w.index (s.device w.index) x = true := changeOk_of_plain rfl rfl hplain
  rw [hchange, Bool.and_true]
  unfold ok
  rw [hafter _ (by decide), hafter _ (by decide)]
  exact inHbm_iff hi rfl ..

theorem fabric_wake_sets {s : State} {w : RegWrite} (h : Ready s w) (hb : w.block = .fabric) (hi : w.index < 128) {v : DWord}
    (ho : w.offset = 0x20 ∧ v = w.value &&& ~~~0xFFE#64 ∨ w.offset = 0x28 ∧ v = w.value &&& ~~~0xFE0#64) :
    let ok : Prop := canonical (w.value &&& ~~~0xFFF#64).toNat = true
    (ok → RegisterReads s w v) ∧ (¬ ok → RegisterKept s w) := by
  intro ok
  have heff : registerEffect w (taken s w) = if canonical (w.value &&& ~~~0xFFF#64).toNat = true then
      wrote s w v (s.device w.index).live else taken s w := by
    rw [registerEffect_fabric hb, wrote_fabric hb]
    unfold State.writeFabric
    dsimp only
    rw [if_neg (not_vds_le hi), lowMask_12]
    rcases ho with ⟨ho, rfl⟩ | ⟨ho, rfl⟩
    · rw [ho, show ~~~0xFFF#64 ||| 1#64 = ~~~0xFFE#64 by decide]
      rfl
    · rw [ho, show ~~~0xFFF#64 ||| lowMask 5 = ~~~0xFE0#64 by decide]
      rfl
  exact registerSets_of h (hb ▸ by unfold DeviceBlock; decide) (hb ▸ trivial) hi heff Iff.rfl

theorem fabric_kept {s : State} {w : RegWrite} (h : Ready s w) (hb : w.block = .fabric) (ho : w.offset ∉ [8, 0x10, 0x18, 0x20, 0x28]) :
    RegisterKept s w := by
  refine registerKept_of h ?_
  simp only [List.mem_cons, List.not_mem_nil, or_false, not_or] at ho
  obtain ⟨h8, h10, h18, h20, h28⟩ := ho
  rw [registerEffect_fabric hb]
  unfold State.writeFabric
  dsimp only
  split
  · rfl
  · split
    · exact absurd ‹_› h8
    · exact absurd ‹_› h10
    · exact absurd ‹_› h18
    · exact absurd ‹_› h20
    · exact absurd ‹_› h28
    · rfl

/-! ## Trap control (R388, R409) -/

theorem wrote_trap {s : State} {w : RegWrite} (hb : w.block = .trap) (v : DWord) : wrote s w v (s.device w.index).live =
    (taken s w).withDevice w.index fun _ => { s.device w.index with trap := (s.device w.index).trap.put w.offset v } := by
  unfold wrote putReg
  rw [hb]
  rfl

theorem registerEffect_trap {w : RegWrite} (hb : w.block = .trap) (t : State) : registerEffect w t = t.writeTrap w := by
  unfold registerEffect
  rw [hb]

theorem toNat_and_mib2 (r : DWord) : (r &&& 0x3FFFFFE00000#64).toNat = bits r 21 25 * 2 ^ 21 := by
  have h : (0x3FFFFFE00000#64 : DWord).toNat = (2 ^ 25 - 1) <<< 21 := by decide
  rw [BitVec.toNat_and, h]
  unfold bits
  rw [← Nat.shiftRight_eq_div_pow, ← Nat.shiftLeft_eq]
  refine Nat.eq_of_testBit_eq fun i => ?_
  rw [Nat.testBit_and, Nat.testBit_shiftLeft, Nat.testBit_shiftLeft, Nat.testBit_two_pow_sub_one, Nat.testBit_mod_two_pow, Nat.testBit_shiftRight]
  by_cases hi : 21 ≤ i
  · rw [Nat.add_sub_cancel' hi]
    simp [hi, Bool.and_comm]
  · simp [hi]

/-- The save area as a write would leave it. -/
theorem trap_save_eq {s : State} {w : RegWrite} (hb : w.block = .trap) (hi : w.index < 128) (ho : w.offset = 0x10 ∨ w.offset = 0x18) :
    let v := if w.offset = 0x10 then w.value &&& 0x3FFFFFE00000#64 else w.value &&& 0xFFFFFFFF#64
    let x : Device := { s.device w.index with trap := (s.device w.index).trap.put w.offset v }
    registerEffect w (taken s w) = if s.hasGroups w.index = false ∧ x.inHbm x.saveBase (x.saveBase + 2 ^ 21 * bits (x.trap.get 0x18 0) 0 32) = true
        ∧ s.changeOk w.index (s.device w.index) x = true then wrote s w v (s.device w.index).live else taken s w := by
  intro v x
  rw [registerEffect_trap hb, wrote_trap hb]
  unfold State.writeTrap
  dsimp only
  rw [if_neg (not_vds_le hi), mib2Mask_eq, show lowMask 32 = 0xFFFFFFFF#64 by decide]
  unfold x v
  rcases ho with ho | ho
  · rw [ho]
    rfl
  · rw [ho]
    rfl

theorem trap_save_sets {s : State} {w : RegWrite} (h : Ready s w) (hb : w.block = .trap) (hi : w.index < 128) (ho : w.offset = 0x10 ∨ w.offset = 0x18) :
    let v := if w.offset = 0x10 then w.value &&& 0x3FFFFFE00000#64 else w.value &&& 0xFFFFFFFF#64
    let after (x : Nat) : DWord := if x = w.offset then v else s.readReg w.block w.index x
    let base := (after 0x10 &&& 0x3FFFFFE00000#64).toNat
    let may : Prop := s.hasGroups w.index = false ∧ InHbm s w.index base (base + 2 ^ 21 * ((after 0x18).toNat % 2 ^ 32))
    ((s.device w.index).state = .none → (may → RegisterReads s w v) ∧ (¬ may → RegisterKept s w)) ∧ (¬ may → RegisterKept s w) := by
  intro v after base may
  let x : Device := { s.device w.index with trap := (s.device w.index).trap.put w.offset v }
  have hafter : ∀ o, o < 0x100 → after o = x.trap.get o 0 := fun o hx =>
    (after_plain s w v (hb ▸ trivial) hi hx).trans (by rw [hb]; rfl)
  have hbase : x.saveBase = base := by
    unfold base
    rw [toNat_and_mib2, hafter _ (by decide)]
    rfl
  have hcond : (s.hasGroups w.index = false ∧ x.inHbm x.saveBase (x.saveBase + 2 ^ 21 * bits (x.trap.get 0x18 0) 0 32) = true) ↔ may := by
    unfold may
    rw [inHbm_iff hi (show x.xlate = (s.device w.index).xlate from rfl), hbase, hafter _ (by decide), bits, Nat.pow_zero, Nat.div_one]
  have heff := trap_save_eq (s := s) hb hi ho
  have hkept : ¬ may → RegisterKept s w := fun hno => registerKept_of h (heff.trans (if_neg fun hc => hno (hcond.1 ⟨hc.1, hc.2.1⟩)))
  refine ⟨fun hnone => ⟨fun hmay => ?_, hkept⟩, hkept⟩
  have hchange : s.changeOk w.index (s.device w.index) x = true := by
    unfold State.changeOk
    rw [hnone]
    rfl
  exact registerReads_of h (hb ▸ by unfold DeviceBlock; decide) (hb ▸ trivial) hi
    (heff.trans (if_pos ⟨(hcond.2 hmay).1, (hcond.2 hmay).2, hchange⟩))

/-! ## Device control (R405, R406, R408, R409, R420) -/

theorem setCtl_eq {s : State} {w : RegWrite} (hb : w.block = .vdev) (v : DWord) : ∃ L, (taken s w).setCtl w.index w.offset v = wrote s w v L := by
  unfold State.setCtl wrote putReg State.withDevice
  rw [hb]
  dsimp only
  split
  · exact ⟨_, rfl⟩
  · exact ⟨_, rfl⟩

theorem registerEffect_vdev {w : RegWrite} (hb : w.block = .vdev) (ho : w.offset ≠ 0x38) (t : State) : registerEffect w t = t.writeVdev w := by
  unfold registerEffect
  rw [hb]
  exact if_neg ho

theorem deviceBlock_vdev {w : RegWrite} (hb : w.block = .vdev) : DeviceBlock w.block := .inl hb

theorem mask_low32 : lowMask 32 = 0xFFFFFFFF#64 := by decide

theorem mask_limit : bitsMask 63 1 ||| lowMask 32 = 0x80000000FFFFFFFF#64 := by decide

/-- The bound on saving depends on the partition, the save area and its limit. -/
theorem saveBound_congr (s : State) {d d' : Device} (hpart : d'.part = d.part) (htrap : d'.trap.get 0x10 0 = d.trap.get 0x10 0)
    (hcount : d'.trap.get 0x18 0 = d.trap.get 0x18 0) (hlim : d'.ctl.get 0x18 0 = d.ctl.get 0x18 0) (n : Nat) : s.saveBound d' n = s.saveBound d n := by
  unfold State.saveBound State.saveArea Device.saveBase
  rw [hpart, htrap, hcount, hlim]

theorem saveBound_lt (s : State) (d : Device) (n : Nat) : s.saveBound d n < 2 ^ 32 := by
  have hle : ∀ b : Nat, (if b = 0 then 2 ^ 32 - 1 else min (2 + (n * 6291456 + b - 1) / b) (2 ^ 32 - 1)) < 2 ^ 32 := fun b => by
    split
    · decide
    · exact Nat.lt_of_le_of_lt (Nat.min_le_right ..) (by decide)
  exact hle _

theorem readReg_bound (s : State) {i : Nat} (hi : i < 128) :
    (s.readReg .vdev i 0x10).toNat = s.saveBound (s.device i) (s.coreCount (s.device i).part) := by
  have hread : s.readReg .vdev i 0x10 = BitVec.ofNat 64 (s.saveBound (s.device i) (s.coreCount (s.device i).part)) := by
    unfold State.readReg
    rw [if_neg fun h => h.elim (Nat.not_le.2 hi) (by decide)]
    rfl
  have hlt := saveBound_lt s (s.device i) (s.coreCount (s.device i).part)
  rw [hread, BitVec.toNat_ofNat, Nat.mod_eq_of_lt (Nat.lt_trans hlt (by decide))]

theorem part_put (d : Device) {o : Nat} (ho : o ≠ 0) (v : DWord) : ({ d with ctl := d.ctl.put o v } : Device).part = d.part := by
  unfold Device.part
  rw [Tab.get_put_ne _ _ _ _ _ ho.symm]

theorem vdev_word_reads {s : State} {w : RegWrite} (h : Ready s w) (hb : w.block = .vdev) (hi : w.index < 128) {v : DWord}
    (ho : w.offset = 0x18 ∧ (s.device w.index).state = .none ∧ v = w.value &&& 0x80000000FFFFFFFF#64
      ∨ w.offset = 0x20 ∧ v = w.value &&& 0x80000000FFFFFFFF#64 ∨ w.offset = 0x28 ∧ v = w.value &&& 0xFFFFFFFF#64 ∨ w.offset = 0x40 ∧ v = w.value) :
    RegisterReads s w v := by
  obtain ⟨L, hL⟩ := setCtl_eq (s := s) hb v
  refine registerReads_of h (deviceBlock_vdev hb) (hb ▸ ?_) hi (L := L) ?_
  · unfold PlainReg
    omega
  · rw [registerEffect_vdev hb (by omega), ← hL]
    unfold State.writeVdev
    dsimp only
    rw [if_neg (not_vds_le hi), mask_limit, mask_low32]
    rcases ho with ⟨ho, hnone, rfl⟩ | ⟨ho, rfl⟩ | ⟨ho, rfl⟩ | ⟨ho, rfl⟩
    · rw [ho]
      refine if_pos ?_
      unfold State.changeOk
      rw [show (taken s w).device w.index = s.device w.index from rfl, hnone]
      rfl
    · rw [ho]
      rfl
    · rw [ho]
      rfl
    · rw [ho]
      rfl

theorem vdev_kept {s : State} {w : RegWrite} (h : Ready s w) (hb : w.block = .vdev) (ho : w.offset = 0x10 ∨ 0x50 ≤ w.offset) : RegisterKept s w := by
  refine registerKept_of h ?_
  rw [registerEffect_vdev hb (by omega)]
  unfold State.writeVdev
  dsimp only
  split
  · rfl
  · split
    · omega
    · omega
    · omega
    · omega
    · omega
    · omega
    · omega
    · rfl

theorem vdev_quantum_sets {s : State} {w : RegWrite} (h : Ready s w) (hb : w.block = .vdev) (hi : w.index < 128) (ho : w.offset = 8)
    (hplain : (s.device w.index).state = .none ∨ (s.device w.index).cls ≠ 3) : let v := w.value &&& 0xFFFFFFFF#64
    let ok : Prop := (s.device w.index).state = .none ∨ 4 * (s.readReg w.block w.index 0x10).toNat ≤ v.toNat
      ∨ (((s.device w.index).ctl.get 8 0).extractLsb' 0 32).toNat ≤ v.toNat
    (ok → RegisterReads s w v) ∧ (¬ ok → RegisterKept s w) := by
  intro v ok
  obtain ⟨L, hL⟩ := setCtl_eq (s := s) hb v
  let d' : Device := { s.device w.index with ctl := (s.device w.index).ctl.put 8 v }
  have heff : registerEffect w (taken s w) = if s.changeOk w.index (s.device w.index) d' = true then wrote s w v L else taken s w := by
    rw [registerEffect_vdev hb (by omega), ← hL]
    unfold State.writeVdev
    dsimp only
    rw [if_neg (not_vds_le hi), mask_low32, ho]
    rfl
  refine registerSets_of h (deviceBlock_vdev hb) (by rw [hb, ho]; unfold PlainReg; decide) hi heff ?_
  have hv : v.toNat < 2 ^ 32 := by
    unfold v
    rw [BitVec.toNat_and]
    exact Nat.lt_of_le_of_lt Nat.and_le_right (by decide)
  have hpart : d'.part = (s.device w.index).part := part_put _ (by decide) v
  have hcls : d'.cls = (s.device w.index).cls := by
    unfold Device.cls d'
    rw [Tab.get_put_ne _ _ _ _ _ (by decide)]
  have hbound : ∀ n, s.saveBound d' n = s.saveBound (s.device w.index) n :=
    saveBound_congr s hpart rfl rfl (Tab.get_put_ne _ _ _ _ _ (by decide))
  have hus : d'.quantumUs = v.toNat := by
    unfold Device.quantumUs d' bits
    rw [Tab.get_put_self, Nat.pow_zero, Nat.div_one, Nat.mod_eq_of_lt hv]
  have hold : (s.device w.index).quantumUs = (((s.device w.index).ctl.get 8 0).extractLsb' 0 32).toNat := bits_eq ..
  unfold State.changeOk State.quantumOk ok
  dsimp only
  rw [hb, readReg_bound s hi, hpart, hbound, hus, hcls, ← hold]
  rcases hplain with hnone | h3
  · simp [hnone]
  · simp [h3]

theorem groupsFree_iff (s : State) (v : Nat) (d : Device) : s.groupsFree v d = true ↔ ¬ ∃ x ∈ s.devices, x.1 ≠ v ∧ x.2.part = d.part
    ∧ x.2.state ≠ .none ∧ x.2.cls = 3 ∧ x.2.ctl.get 0x30 0 &&& d.ctl.get 0x30 0 ≠ 0 := by
  unfold State.groupsFree State.devicesOf
  rw [List.all_eq_true]
  constructor
  · rintro h ⟨x, hx, hv, hpart, hstate, hcls, hand⟩
    have := h x (List.mem_filter.2 ⟨hx, by simp [hpart, hstate]⟩)
    simp [hv, hcls] at this
    exact hand this
  · intro h x hx
    obtain ⟨hx, hcond⟩ := List.mem_filter.1 hx
    simp only [Bool.and_eq_true, beq_iff_eq, bne_iff_ne] at hcond
    simp only [Bool.or_eq_true, beq_iff_eq, bne_iff_ne]
    by_contra hno
    simp only [not_or, not_not] at hno
    exact h ⟨x, hx, hno.1.1, hcond.1, hcond.2, hno.1.2, hno.2⟩

theorem vdev_groups_sets {s : State} {w : RegWrite} (h : Ready s w) (hb : w.block = .vdev) (hi : w.index < 128) (ho : w.offset = 0x30)
    (h3 : (s.device w.index).cls ≠ 3) : let v := w.value &&& 0xFFFFFFFF#64
    let held : Prop := ∃ x ∈ s.devices, x.1 ≠ w.index ∧ x.2.part = (s.device w.index).part ∧ x.2.state ≠ .none ∧ x.2.cls = 3
      ∧ x.2.ctl.get 0x30 0 &&& v ≠ 0
    let ok : Prop := (s.device w.index).state = .none ∨ ((s.device w.index).state = .active ∧ ¬ held)
    (ok → RegisterReads s w v) ∧ (¬ ok → RegisterKept s w) := by
  intro v held ok
  obtain ⟨L, hL⟩ := setCtl_eq (s := s) hb v
  let d1 : Device := { s.device w.index with ctl := (s.device w.index).ctl.put 0x30 v }
  have heff : registerEffect w (taken s w) = if ((s.device w.index).state = .none ∨ ((s.device w.index).state = .active ∧ s.groupsFree w.index d1 = true))
      ∧ ((s.device w.index).cls ≠ 3 ∨ s.classOk w.index d1 = true) then wrote s w v L else taken s w := by
    rw [registerEffect_vdev hb (by omega), ← hL]
    unfold State.writeVdev
    dsimp only
    rw [if_neg (not_vds_le hi), mask_low32, ho]
    rfl
  refine registerSets_of h (deviceBlock_vdev hb) (by rw [hb, ho]; unfold PlainReg; decide) hi heff ?_
  have hfree : s.groupsFree w.index d1 = true ↔ ¬ held := by
    rw [groupsFree_iff, part_put _ (by decide), Tab.get_put_self]
  rw [hfree]
  exact ⟨fun hc => hc.1, fun hok => ⟨hok, .inl h3⟩⟩

/-! ## `VCTL` (R405) -/

/-- The fields of `VCTL` taken from three words: its weight, its class and its partition. -/
def vctlWord (weight cls part : DWord) : DWord := (weight &&& bitsMask 40 8) ||| ((cls &&& bitsMask 48 2) ||| (part &&& bitsMask 32 5))

theorem vctlWord_fields (a b c : DWord) : vctlWord a b c &&& ~~~0x3FF1F00000000#64 = 0 ∧ (vctlWord a b c).extractLsb' 40 8 = a.extractLsb' 40 8
    ∧ (vctlWord a b c).extractLsb' 48 2 = b.extractLsb' 48 2 ∧ (vctlWord a b c).extractLsb' 32 5 = c.extractLsb' 32 5 := by
  unfold vctlWord
  rw [show bitsMask 40 8 = 0xFF0000000000#64 by decide, show bitsMask 48 2 = 0x3000000000000#64 by decide,
    show bitsMask 32 5 = 0x1F00000000#64 by decide]
  refine ⟨?_, ?_, ?_, ?_⟩
  · have hand : ∀ x m : DWord, m &&& ~~~0x3FF1F00000000#64 = 0 → (x &&& m) &&& ~~~0x3FF1F00000000#64 = 0 := fun x m h => by
      rw [BitVec.and_assoc, h]
      exact BitVec.and_zero
    rw [BitVec.and_comm, BitVec.and_or_distrib_left, BitVec.and_or_distrib_left, BitVec.and_comm, hand a _ (by decide),
      BitVec.and_comm _ (b &&& _), hand b _ (by decide), BitVec.and_comm _ (c &&& _), hand c _ (by decide)]
    rfl
  all_goals
    rw [BitVec.extractLsb'_or, BitVec.extractLsb'_or, BitVec.extractLsb'_and, BitVec.extractLsb'_and, BitVec.extractLsb'_and]
    simp
  · exact BitVec.and_allOnes
  · exact BitVec.and_allOnes
  · exact BitVec.and_allOnes

/-- What a write of `VCTL` leaves in the register (R405). -/
theorem writeVctl_eq (s : State) (v : Nat) (x : DWord) : let d := s.device v
    let old := d.ctl.get 0 0
    let cls := if d.state = .none then x else old
    let part := if d.state = .none ∧ (bits x 32 5 < Config.partitions ∧ s.windowsFit d (bits x 32 5) = true) then x else old
    s.writeVctl v x = s.setCtl v 0 (vctlWord x cls part) := by
  intro d old cls part
  unfold State.writeVctl vctlWord
  dsimp only
  by_cases hnone : d.state = .none
  · rw [if_pos hnone]
    unfold cls part
    rw [if_pos hnone]
    simp only [hnone, true_and, Bool.and_eq_true, decide_eq_true_eq]
    split
    · rfl
    · rfl
  · rw [if_neg hnone]
    unfold cls part
    rw [if_neg hnone, if_neg fun h => hnone h.1, BitVec.and_or_distrib_left]

theorem all_tiers {f : Tier → Bool} {P : Nat → Prop} (h : ∀ tier, f tier = true ↔ P tier.code) :
    ([Tier.hbm, Tier.second, Tier.host].all f) = true ↔ ∀ t, t < 3 → P t := by
  simp only [List.all_cons, List.all_nil, Bool.and_eq_true, and_true, h]
  refine ⟨fun ⟨h0, h1, h2⟩ t ht => ?_, fun h => ⟨h 0 (by decide), h 1 (by decide), h 2 (by decide)⟩⟩
  match t, ht with
  | 0, _ => exact h0
  | 1, _ => exact h1
  | 2, _ => exact h2

theorem windowsFit_iff_regs (s : State) (d : Device) (p : Nat) : s.windowsFit d p = true ↔
    ∀ t, t < 3 → (d.xlate.get (0x18 + 16 * t) 0).toNat ≤ (d.xlate.get (0x10 + 16 * t) 0).toNat
      ∨ (d.xlate.get (0x18 + 16 * t) 0).toNat ≤ ((s.partition p).ctl.get (0x38 + 16 * t) 0).toNat := by
  unfold State.windowsFit
  exact all_tiers (P := fun t => (d.xlate.get (0x18 + 16 * t) 0).toNat ≤ (d.xlate.get (0x10 + 16 * t) 0).toNat
    ∨ (d.xlate.get (0x18 + 16 * t) 0).toNat ≤ ((s.partition p).ctl.get (0x38 + 16 * t) 0).toNat) fun tier => decide_eq_true_iff

theorem windowsFit_iff (s : State) {i : Nat} (hi : i < 128) {p : Nat} (hp : p < 24) : s.windowsFit (s.device i) p = true ↔
    ∀ t, t < 3 → (s.readReg .xlate i (0x18 + 16 * t)).toNat ≤ (s.readReg .xlate i (0x10 + 16 * t)).toNat
      ∨ (s.readReg .xlate i (0x18 + 16 * t)).toNat ≤ (s.readReg .partition p (0x38 + 16 * t)).toNat := by
  have hreg : ∀ o, o < 0x40 → s.readReg .xlate i o = (s.device i).xlate.get o 0 := fun o h => readReg_plain s (show o ≠ 0x40 by omega) hi (by omega)
  rw [windowsFit_iff_regs]
  refine forall_congr' fun t => imp_congr_right fun ht => ?_
  rw [hreg _ (by omega), hreg _ (by omega), readReg_partition s hp (by omega)]

theorem state_code (x : DevState) : x.code = (match x with
    | .none => 0 | .active => 1 | .collapsing => 2 | .collapsed => 3 | .waking => 4 | .frozen => 5 | .forwarding => 6 | .lost => 7) := by
  cases x <;> rfl

theorem vctl_reads {s : State} {w : RegWrite} (h : Ready s w) (hb : w.block = .vdev) (hi : w.index < 128) (ho : w.offset = 0) :
    let d := s.device w.index
    let part := (w.value.extractLsb' 32 5).toNat
    let prior := d.ctl.get 0 0
    ∃ x : DWord, RegisterReads s w (BitVec.ofNat 64 (d.state.code * 2 ^ 60 + d.window) ||| x) ∧ x &&& ~~~0x3FF1F00000000#64 = 0
    ∧ x.extractLsb' 40 8 = w.value.extractLsb' 40 8
    ∧ (d.state ≠ .none → x.extractLsb' 48 2 = prior.extractLsb' 48 2 ∧ x.extractLsb' 32 5 = prior.extractLsb' 32 5)
    ∧ (d.state = .none → x.extractLsb' 48 2 = w.value.extractLsb' 48 2
        ∧ (24 ≤ part → x.extractLsb' 32 5 = prior.extractLsb' 32 5)
        ∧ (part < 24 → (∀ t, t < 3 → (s.readReg .xlate w.index (0x18 + 16 * t)).toNat ≤ (s.readReg .xlate w.index (0x10 + 16 * t)).toNat
              ∨ (s.readReg .xlate w.index (0x18 + 16 * t)).toNat ≤ (s.readReg .partition part (0x38 + 16 * t)).toNat) →
            x.extractLsb' 32 5 = w.value.extractLsb' 32 5)) := by
  intro d part prior
  have heq := writeVctl_eq (taken s w) w.index w.value
  dsimp only at heq
  generalize hcls : (if ((taken s w).device w.index).state = .none then w.value else ((taken s w).device w.index).ctl.get 0 0) = cls at heq
  generalize hpart : (if ((taken s w).device w.index).state = .none ∧ (bits w.value 32 5 < Config.partitions
    ∧ (taken s w).windowsFit ((taken s w).device w.index) (bits w.value 32 5) = true) then w.value else ((taken s w).device w.index).ctl.get 0 0) = pw at heq
  obtain ⟨L, hL⟩ := setCtl_eq (s := s) hb (vctlWord w.value cls pw)
  have heff : registerEffect w (taken s w) = wrote s w (vctlWord w.value cls pw) L := by
    rw [registerEffect_vdev hb (by omega), ← hL, ho, ← heq]
    unfold State.writeVdev
    dsimp only
    rw [if_neg (not_vds_le hi), ho]
    rfl
  have hread : (wrote s w (vctlWord w.value cls pw) L).readReg w.block w.index w.offset
      = BitVec.ofNat 64 (d.state.code * 2 ^ 60 + d.window) ||| vctlWord w.value cls pw := by
    rw [hb, ho, BitVec.or_comm]
    unfold State.readReg
    rw [if_neg fun h => h.elim (Nat.not_le.2 hi) (by decide)]
    dsimp only
    unfold State.vdevReg
    dsimp only
    rw [device_wrote, if_pos rfl, hb, ho]
    exact congrArg (· ||| _) (Tab.get_put_self ..)
  have hwhere : bits w.value 32 5 = part := bits_eq ..
  obtain ⟨hmask, hweight, hclsf, hpartf⟩ := vctlWord_fields w.value cls pw
  refine ⟨_, registerReads_of_reads h (deviceBlock_vdev hb) heff hread, hmask, hweight, fun hne => ?_, fun hnone => ⟨?_, fun hp => ?_, fun hp hfit => ?_⟩⟩
  · rw [hclsf, hpartf, ← hcls, ← hpart]
    exact ⟨congrArg _ (if_neg hne), congrArg _ (if_neg fun hc => hne hc.1)⟩
  · rw [hclsf, ← hcls]
    exact congrArg _ (if_pos hnone)
  · rw [hpartf, ← hpart]
    exact congrArg _ (if_neg fun hc => Nat.not_lt.2 hp (hwhere ▸ hc.2.1))
  · rw [hpartf, ← hpart]
    exact congrArg _ (if_pos ⟨hnone, hwhere ▸ hp, hwhere ▸ (windowsFit_iff s hi hp).2 hfit⟩)

/-! ## The bound on saving is kept (R409) -/

theorem readReg_quantum (s : State) {i : Nat} (hi : i < 128) : (s.readReg .vdev i 8).toNat % 2 ^ 32 = (s.device i).quantumUs := by
  rw [readReg_plain s (by unfold PlainReg; decide) hi (by decide)]
  unfold Device.quantumUs bits
  rw [Nat.pow_zero, Nat.div_one]
  rfl

/-- The bound of a device and its quantum obey R409 after a change, or neither is worse than before. -/
def BoundKept (s : State) (d d' : Device) : Prop :=
  4 * s.saveBound d' (s.coreCount d'.part) ≤ d'.quantumUs
  ∨ (s.saveBound d' (s.coreCount d'.part) ≤ s.saveBound d (s.coreCount d.part) ∧ d.quantumUs ≤ d'.quantumUs)

theorem boundKept_of_changeOk {s : State} {v : Nat} {d d' : Device} (hstate : d.state ≠ .none) (hpart : d'.part = d.part) (h : s.changeOk v d d' = true) :
    BoundKept s d d' := by
  unfold State.changeOk State.quantumOk at h
  simp only [Bool.or_eq_true, Bool.and_eq_true, beq_iff_eq, decide_eq_true_eq] at h
  rcases h with h | ⟨h | h, -⟩
  · exact absurd h hstate
  · exact .inl h
  · exact .inr ⟨by rw [hpart] at h ⊢; exact h.1, h.2⟩

theorem boundKept_of_same {s : State} {d d' : Device} (hpart : d'.part = d.part) (hbase : d'.trap.get 0x10 0 = d.trap.get 0x10 0)
    (hcount : d'.trap.get 0x18 0 = d.trap.get 0x18 0) (hlim : d'.ctl.get 0x18 0 = d.ctl.get 0x18 0) (hus : d'.ctl.get 8 0 = d.ctl.get 8 0) :
    BoundKept s d d' := by
  refine .inr ⟨?_, ?_⟩
  · rw [hpart, saveBound_congr s hpart hbase hcount hlim]
  · unfold Device.quantumUs
    rw [hus]

theorem BoundKept.refl (s : State) (d : Device) : BoundKept s d d := boundKept_of_same rfl rfl rfl rfl rfl

theorem bound_completes {s t : State} {w : RegWrite} (h : Ready s w) (hi : w.index < 128) (heff : registerEffect w (taken s w) = t)
    (hparts : t.partitions = s.partitions) (hkept : BoundKept s (s.device w.index) (t.device w.index)) : Completes s .registerWrite fun t =>
      let bound (x : State) : Nat := (x.readReg .vdev w.index 0x10).toNat
      let us (x : State) : Nat := (x.readReg .vdev w.index 8).toNat % 2 ^ 32
      4 * bound t ≤ us t ∨ (bound t ≤ bound s ∧ us s ≤ us t) := by
  have hpart : ∀ p, t.partition p = s.partition p := fun p => by unfold State.partition; rw [hparts]
  have hbound : ∀ d n, t.saveBound d n = s.saveBound d n := fun d n => by
    unfold State.saveBound State.saveArea State.pbase
    rw [hpart]
  have hcount : ∀ p, t.coreCount p = s.coreCount p := fun p => by unfold State.coreCount; rw [hpart]
  refine ⟨t, by rw [h.exec, heff], ?_⟩
  dsimp only
  rw [readReg_bound t hi, readReg_bound s hi, readReg_quantum t hi, readReg_quantum s hi, hbound, hcount]
  exact hkept

/-! ## The bound on saving over writes of control and trap registers (R409) -/

/-- A register write keeps R409 for its device: the bound on saving stays within a quarter of the quantum, or neither is worse than before. -/
def BoundStands (s : State) (w : RegWrite) : Prop := Completes s .registerWrite fun t =>
      let bound (x : State) : Nat := (x.readReg .vdev w.index 0x10).toNat
      let us (x : State) : Nat := (x.readReg .vdev w.index 8).toNat % 2 ^ 32
      4 * bound t ≤ us t ∨ (bound t ≤ bound s ∧ us s ≤ us t)

/-- What a write of a device's control register does to R409, by its offset. -/
theorem boundKept_putCtl {s : State} {d : Device} {o : Nat} {v : DWord} {L : Tab DWord} {n : Nat}
    (hctl : o = 0 → bits v 32 5 = d.part)
    (hchange : (o = 8 ∨ o = 0x18) → d.state ≠ .none ∧ s.changeOk n d { d with ctl := d.ctl.put o v } = true) :
    BoundKept s d { d with ctl := d.ctl.put o v, live := L } := by
  by_cases ho : o = 8 ∨ o = 0x18
  · obtain ⟨hstate, hok⟩ := hchange ho
    exact boundKept_of_changeOk (d' := { d with ctl := d.ctl.put o v }) hstate (part_put d (by omega) v) hok
  · refine boundKept_of_same ?_ rfl rfl (Tab.get_put_ne _ _ _ _ _ (by omega)) (Tab.get_put_ne _ _ _ _ _ (by omega))
    unfold Device.part at hctl ⊢
    dsimp only
    rw [tabGet_put]
    split
    · next h0 => exact hctl h0.symm
    · rfl

theorem device_wrote_vdev {s : State} {w : RegWrite} (hb : w.block = .vdev) (v : DWord) (L : Tab DWord) :
    (wrote s w v L).device w.index = { s.device w.index with ctl := (s.device w.index).ctl.put w.offset v, live := L } := by
  rw [device_wrote, if_pos rfl, hb]
  rfl

theorem vdev_bound_of_put {s : State} {w : RegWrite} {v : DWord} {L : Tab DWord} (h : Ready s w) (hb : w.block = .vdev) (hi : w.index < 128)
    (heff : registerEffect w (taken s w) = wrote s w v L) (hctl : w.offset = 0 → bits v 32 5 = (s.device w.index).part)
    (hchange : (w.offset = 8 ∨ w.offset = 0x18) → (s.device w.index).state ≠ .none
      ∧ s.changeOk w.index (s.device w.index) { s.device w.index with ctl := (s.device w.index).ctl.put w.offset v } = true) :
    BoundStands s w :=
  bound_completes h hi heff rfl (by rw [device_wrote_vdev hb]; exact boundKept_putCtl hctl hchange)

theorem bound_of_kept {s : State} {w : RegWrite} (h : Ready s w) (hi : w.index < 128) (heff : registerEffect w (taken s w) = taken s w) :
    BoundStands s w :=
  bound_completes h hi heff rfl (.refl s _)

theorem badCommand_device {s : State} {w : RegWrite} (hi : w.index < 128) : ∃ C, (∀ o, o ≠ 0x38 → C.get o 0 = (s.device w.index).ctl.get o 0)
    ∧ (taken s w).badCommand w = (taken s w).withDevice w.index fun d => { d with status := 1, ctl := C } := by
  refine ⟨if (s.device w.index).busy then (s.device w.index).ctl else (s.device w.index).ctl.put 0x38 (w.value &&& lowMask 8), fun o ho => ?_, ?_⟩
  · split
    · rfl
    · exact Tab.get_put_ne _ _ _ _ _ ho
  · exact if_neg (not_vds_le hi)

/-- What a write to the control block of a device that exists does: nothing, or it replaces one register in keeping with R409. -/
theorem writeVdev_bounded {s : State} {w : RegWrite} (hi : w.index < 128) (hstate : (s.device w.index).state ≠ .none) :
    (taken s w).writeVdev w = taken s w
    ∨ ∃ v, (taken s w).writeVdev w = (taken s w).setCtl w.index w.offset v
      ∧ (w.offset = 0 → bits v 32 5 = (s.device w.index).part)
      ∧ ((w.offset = 8 ∨ w.offset = 0x18) →
          s.changeOk w.index (s.device w.index) { s.device w.index with ctl := (s.device w.index).ctl.put w.offset v } = true) := by
  unfold State.writeVdev
  dsimp only
  rw [if_neg (not_vds_le hi)]
  split
  · next ho =>
    have heq := writeVctl_eq (taken s w) w.index w.value
    dsimp only at heq
    refine .inr ⟨_, by rw [ho]; exact heq, fun _ => ?_, fun h => by omega⟩
    · rw [bits_eq, (vctlWord_fields ..).2.2.2, if_neg fun hc => hstate hc.1, ← bits_eq]
      rfl
  · next ho =>
    split
    · next hc => exact .inr ⟨_, rfl, fun h => by omega, fun _ => hc⟩
    · exact .inl rfl
  · next ho =>
    split
    · next hc => exact .inr ⟨_, rfl, fun h => by omega, fun _ => hc⟩
    · exact .inl rfl
  · next ho => exact .inr ⟨_, by rw [ho], fun h => by omega, fun h => by omega⟩
  · next ho => exact .inr ⟨_, by rw [ho], fun h => by omega, fun h => by omega⟩
  · next ho =>
    split
    · exact .inr ⟨_, by rw [ho], fun h => by omega, fun h => by omega⟩
    · exact .inl rfl
  · next ho => exact .inr ⟨_, by rw [ho], fun h => by omega, fun h => by omega⟩
  · exact .inl rfl

theorem vdev_bound {s : State} {w : RegWrite} (h : Ready s w) (hb : w.block = .vdev) (hi : w.index < 128) (hstate : (s.device w.index).state ≠ .none) :
    BoundStands s w := by
  by_cases h38 : w.offset = 0x38
  · obtain ⟨C, hC, hbad⟩ := badCommand_device (s := s) hi
    have heff : registerEffect w (taken s w) = (taken s w).withDevice w.index fun d => { d with status := 1, ctl := C } := by
      unfold registerEffect
      rw [hb]
      exact (if_pos h38).trans hbad
    have hdev : ((taken s w).withDevice w.index fun d => { d with status := 1, ctl := C }).device w.index
        = { s.device w.index with status := 1, ctl := C } := (tabGet_put ..).trans (if_pos rfl)
    refine bound_completes h hi heff rfl ?_
    rw [hdev]
    refine boundKept_of_same ?_ rfl rfl (hC _ (by decide)) (hC _ (by decide))
    unfold Device.part
    dsimp only
    rw [hC _ (by decide)]
  · have heff := registerEffect_vdev hb h38 (taken s w)
    rcases writeVdev_bounded hi hstate with hkept | ⟨v, hwrite, hctl, hchange⟩
    · exact bound_of_kept h hi (heff.trans hkept)
    · obtain ⟨L, hL⟩ := setCtl_eq (s := s) hb v
      exact vdev_bound_of_put h hb hi (heff.trans (hwrite.trans hL)) hctl fun ho => ⟨hstate, hchange ho⟩

theorem trap_bound {s : State} {w : RegWrite} (h : Ready s w) (hb : w.block = .trap) (hi : w.index < 128) (hstate : (s.device w.index).state ≠ .none) :
    BoundStands s w := by
  have hwrote : ∀ v, registerEffect w (taken s w) = wrote s w v (s.device w.index).live →
      BoundKept s (s.device w.index) { s.device w.index with trap := (s.device w.index).trap.put w.offset v } → BoundStands s w := fun v heff hkept => by
    refine bound_completes h hi heff rfl ?_
    rw [device_wrote, if_pos rfl, hb]
    exact hkept
  by_cases hsave : w.offset = 0x10 ∨ w.offset = 0x18
  · have heff := trap_save_eq (s := s) hb hi hsave
    dsimp only at heff
    generalize (if w.offset = 0x10 then w.value &&& 0x3FFFFFE00000#64 else w.value &&& 0xFFFFFFFF#64) = v at heff
    split at heff
    · next hc => exact hwrote _ heff (boundKept_of_changeOk hstate rfl hc.2.2)
    · exact bound_of_kept h hi heff
  · obtain ⟨h10, h18⟩ := not_or.1 hsave
    have hquiet : ∀ v, BoundKept s (s.device w.index) { s.device w.index with trap := (s.device w.index).trap.put w.offset v } := fun v =>
      boundKept_of_same rfl (Tab.get_put_ne _ _ _ _ _ (Ne.symm h10)) (Tab.get_put_ne _ _ _ _ _ (Ne.symm h18)) rfl rfl
    have heff : registerEffect w (taken s w) = taken s w ∨ ∃ v, registerEffect w (taken s w) = wrote s w v (s.device w.index).live := by
      rw [registerEffect_trap hb]
      simp only [wrote_trap hb]
      unfold State.writeTrap
      dsimp only
      rw [if_neg (not_vds_le hi)]
      split
      · split
        · exact .inr ⟨_, rfl⟩
        · exact .inl rfl
      · exact .inr ⟨_, rfl⟩
      · exact absurd ‹_› h10
      · exact absurd ‹_› h18
      · exact .inl rfl
    rcases heff with heff | ⟨v, heff⟩
    · exact bound_of_kept h hi heff
    · exact hwrote v heff (hquiet v)

/-! ## Writes of a partition's registers (R97 to R99, R402 to R404) -/

/-- The registers that a partition holds for a block. -/
def pregsOf (x : Partition) : RegBlock → Tab DWord
  | .partition => x.ctl
  | .version => x.ver
  | _ => []

/-- A register of a partition replaced. -/
def putPreg (x : Partition) (b : RegBlock) (o : Nat) (v : DWord) : Partition :=
  match b with
  | .partition => { x with ctl := x.ctl.put o v }
  | .version => { x with ver := x.ver.put o v }
  | _ => x

/-- The blocks of partitions. -/
def PartBlock (b : RegBlock) : Prop := b = .partition ∨ b = .version

theorem pregsOf_putPreg (x : Partition) {b : RegBlock} (hb : PartBlock b) (o : Nat) (v : DWord) (b' : RegBlock) :
    pregsOf (putPreg x b o v) b' = if b' = b then (pregsOf x b).put o v else pregsOf x b' := by
  rcases hb with rfl | rfl <;> cases b' <;> rfl

/-- The partition with one of its registers written. -/
def wroteP (s : State) (w : RegWrite) (v : DWord) : State := (taken s w).withPartition w.index fun x => putPreg x w.block w.offset v

theorem partition_wroteP (s : State) (w : RegWrite) (v : DWord) (i : Nat) :
    (wroteP s w v).partition i = if i = w.index then putPreg (s.partition w.index) w.block w.offset v else s.partition i := tabGet_put ..

/-- One register of a partition is the same in two states of it, and so is all that other registers show. -/
structure PregKept (x x' : Partition) (b : RegBlock) (o : Nat) : Prop where
  reg : (pregsOf x' b).get o 0 = (pregsOf x b).get o 0
  floor : x'.floor = x.floor
  snaps : x'.snaps = x.snaps
  revoked : x'.revoked = x.revoked
  lastKey : x'.lastKey = x.lastKey

theorem readReg_partitions (s : State) {P : Tab Partition} {b : RegBlock} {i o : Nat} (h10 : ¬ (b = .vdev ∧ o = 0x10))
    (h : PregKept (s.partition i) (P.get i Partition.reset) b o) : ({ s with partitions := P }).readReg b i o = s.readReg b i o := by
  obtain ⟨hreg, hfloor, hsnaps, hrevoked, hlast⟩ := h
  unfold State.readReg
  split
  · rfl
  · cases b with
    | module | keeper | xlate | cache | fabric | trap | queue | guest => rfl
    | partition => exact hreg
    | version =>
      dsimp only
      unfold State.versionReg Partition.oldestWord
      dsimp only
      change (P.get i Partition.reset).ver.get o 0 = (s.partition i).ver.get o 0 at hreg
      unfold State.partition at *
      split
      · rfl
      · rfl
      · rw [hfloor]
      · rw [hsnaps]
      · rw [hrevoked, hlast]
      · exact hreg
    | vdev =>
      dsimp only
      unfold State.vdevReg
      dsimp only
      split
      · rfl
      · exact absurd ⟨rfl, rfl⟩ h10
      · rfl
      · rfl
      · rfl

theorem pregKept_putPreg (x : Partition) {b : RegBlock} (hb : PartBlock b) (o : Nat) (v : DWord) {b' : RegBlock} {o' : Nat} (h : ¬ (b' = b ∧ o' = o)) :
    PregKept x (putPreg x b o v) b' o' := by
  have hreg : (pregsOf (putPreg x b o v) b').get o' 0 = (pregsOf x b').get o' 0 := by
    rw [pregsOf_putPreg x hb]
    split
    · next hbb =>
      subst hbb
      exact Tab.get_put_ne _ _ _ _ _ fun ho => h ⟨rfl, ho⟩
    · rfl
  cases b <;> exact ⟨hreg, rfl, rfl, rfl, rfl⟩

theorem readReg_wroteP_ne {s : State} {w : RegWrite} (hb : PartBlock w.block) (v : DWord) {b : RegBlock} {i o : Nat}
    (hne : ¬ (b = w.block ∧ i = w.index ∧ o = w.offset)) (h10 : ¬ (b = .vdev ∧ o = 0x10)) : (wroteP s w v).readReg b i o = s.readReg b i o := by
  refine (readReg_partitions (taken s w) h10 ?_).trans (readReg_taken ..)
  have hpart := partition_wroteP s w v i
  change ((taken s w).partitions.put w.index _).get i Partition.reset = _ at hpart
  rw [hpart]
  split
  · next hi =>
    subst hi
    exact pregKept_putPreg _ hb _ _ fun h => hne ⟨h.1, rfl, h.2⟩
  · exact ⟨rfl, rfl, rfl, rfl, rfl⟩

/-- The registers of a version block that read as they were last written. -/
def PlainPreg (b : RegBlock) (o : Nat) : Prop :=
  match b with
  | .partition => True
  | .version => o ≠ 0x20 ∧ o ≠ 0x28 ∧ o ≠ 0x38 ∧ o ≠ 0x40 ∧ o ≠ 0x48
  | _ => False

theorem readReg_plainP (s : State) {b : RegBlock} {i o : Nat} (h : PlainPreg b o) (hi : i < 24) (ho : o < 0x100) :
    s.readReg b i o = (pregsOf (s.partition i) b).get o 0 := by
  cases b with
  | partition => exact readReg_partition s hi ho
  | version =>
    obtain ⟨h20, h28, h38, h40, h48⟩ := h
    unfold State.readReg
    rw [if_neg fun h => h.elim (Nat.not_le.2 hi) (Nat.not_le.2 ho)]
    dsimp only
    unfold State.versionReg
    dsimp only
    split
    · exact absurd rfl h20
    · exact absurd rfl h28
    · exact absurd rfl h38
    · exact absurd rfl h40
    · exact absurd rfl h48
    · rfl
  | module | keeper | vdev | xlate | cache | fabric | trap | queue | guest => exact h.elim

theorem registerReadsP_of {s : State} {w : RegWrite} {v : DWord} (h : Ready s w) (hb : PartBlock w.block)
    (hplain : PlainPreg w.block w.offset) (hi : w.index < 24) (heff : registerEffect w (taken s w) = wroteP s w v) : RegisterReads s w v := by
  refine ⟨_, h.exec, by rw [heff]; exact fun _ => ⟨rfl, rfl, rfl⟩, ?_, fun b i o hne h10 => by rw [heff, readReg_wroteP_ne hb v hne h10]⟩
  rw [heff, readReg_plainP _ hplain hi h.offset, partition_wroteP, if_pos rfl, pregsOf_putPreg _ hb, if_pos rfl, Tab.get_put_self]

/-- A write of a partition's register that takes effect under a condition. -/
theorem registerSetsP_of {s : State} {w : RegWrite} {v : DWord} {cond ok : Prop} [Decidable cond] (h : Ready s w) (hb : PartBlock w.block)
    (hplain : PlainPreg w.block w.offset) (hi : w.index < 24)
    (heff : registerEffect w (taken s w) = if cond then wroteP s w v else taken s w) (hcond : cond ↔ ok) :
    (ok → RegisterReads s w v) ∧ (¬ ok → RegisterKept s w) :=
  ⟨fun hok => registerReadsP_of h hb hplain hi (heff.trans (if_pos (hcond.2 hok))),
    fun hno => registerKept_of h (heff.trans (if_neg (hno ∘ hcond.1)))⟩

theorem after_plainP (s : State) (w : RegWrite) (v : DWord) {x : Nat} (hx : PlainPreg w.block x) (hi : w.index < 24) (ho : x < 0x100) :
    (if x = w.offset then v else s.readReg w.block w.index x) = ((pregsOf (s.partition w.index) w.block).put w.offset v).get x 0 := by
  rw [tabGet_put, readReg_plainP s hx hi ho]

/-! ## Version control (R97 to R99) -/

theorem registerEffect_version {w : RegWrite} (hb : w.block = .version) (t : State) : registerEffect w t = t.writeVersion w := by
  unfold registerEffect
  rw [hb]

theorem wroteP_version {s : State} {w : RegWrite} (hb : w.block = .version) (v : DWord) : wroteP s w v =
    (taken s w).withPartition w.index fun x => { x with ver := x.ver.put w.offset v } := by
  unfold wroteP putPreg
  rw [hb]

/-- An area of version records lies in the range of a tier, by registers. -/
def AreaFits (s : State) (p : Nat) (after : Nat → DWord) (base size tier : Nat) : Prop :=
  (after size).toNat % 2 ^ 32 = 0
  ∨ (after base).toNat + 256 * ((after size).toNat % 2 ^ 32) ≤ (s.readReg .partition p (0x38 + 16 * tier)).toNat

/-- The same as the model tests it. -/
def areaInside (t : State) (p base size : Nat) (tier : Tier) : Bool :=
  256 * bits ((t.partition p).ver.get size 0) 0 32 == 0
    || decide (((t.partition p).ver.get base 0).toNat + 256 * bits ((t.partition p).ver.get size 0) 0 32 ≤ t.pbound p tier)

theorem areaInside_iff {s t : State} {p : Nat} (hp : p < 24) (hctl : (t.partition p).ctl = (s.partition p).ctl) (base size : Nat) (tier : Tier) :
    areaInside t p base size tier = true ↔ AreaFits s p (fun x => (t.partition p).ver.get x 0) base size tier.code := by
  have hbound : t.pbound p tier = (s.readReg .partition p (0x38 + 16 * tier.code)).toNat := by
    rw [readReg_partition s hp (by cases tier <;> decide), ← hctl]
    rfl
  unfold areaInside AreaFits bits
  rw [hbound, Bool.or_eq_true, beq_iff_eq, decide_eq_true_iff, Nat.pow_zero, Nat.div_one, Nat.mul_eq_zero]
  simp

theorem areaInside_wroteP {s : State} {w : RegWrite} (hb : w.block = .version) (hi : w.index < 24) (v : DWord) {base size : Nat} (tier : Tier)
    (hbase : base < 0x20) (hsize : size < 0x20) : areaInside (wroteP s w v) w.index base size tier = true
      ↔ AreaFits s w.index (fun x => if x = w.offset then v else s.readReg w.block w.index x) base size tier.code := by
  have hpart : (wroteP s w v).partition w.index = { s.partition w.index with ver := (s.partition w.index).ver.put w.offset v } := by
    rw [partition_wroteP, if_pos rfl, hb]
    rfl
  have hafter : ∀ x, x < 0x20 → (if x = w.offset then v else s.readReg w.block w.index x) = ((s.partition w.index).ver.put w.offset v).get x 0 :=
    fun x hx => (after_plainP s w v (by rw [hb]; unfold PlainPreg; omega) hi (by omega)).trans (by rw [hb]; rfl)
  refine (areaInside_iff (s := s) hi (by rw [hpart]) base size tier).trans ?_
  unfold AreaFits
  dsimp only
  rw [hafter _ hbase, hafter _ hsize, hpart]

theorem version_sets {s : State} {w : RegWrite} (h : Ready s w) (hb : w.block = .version) (hi : w.index < 24) :
    let used : Prop := s.recordsUsed w.index true ≠ 0 ∨ s.recordsUsed w.index false ≠ 0
    let after (v : DWord) (x : Nat) : DWord := if x = w.offset then v else s.readReg w.block w.index x
    let area (v : DWord) (base size tier : Nat) : Prop := AreaFits s w.index (after v) base size tier
    let sets (v : DWord) (ok : Prop) : Prop := (ok → RegisterReads s w v) ∧ (¬ ok → RegisterKept s w)
    (w.offset = 0 → let v := w.value &&& 0x3FFFFFE00000#64; sets v (¬ used ∧ area v 0 8 0))
    ∧ (w.offset = 8 → let v := w.value &&& 0xFFFFFFFF#64; sets v (¬ used ∧ area v 0 8 0))
    ∧ (w.offset = 0x10 → let v := w.value &&& 0x3FFFFFE00000#64; sets v (¬ used ∧ area v 0x10 0x18 1))
    ∧ (w.offset = 0x18 → let v := w.value &&& 0xFFFFFFFF#64; sets v (s.recordsUsed w.index false ≤ v.toNat ∧ area v 0x10 0x18 1))
    ∧ (w.offset = 0x30 → RegisterReads s w (w.value &&& 0xFF#64))
    ∧ (w.offset ∉ [0, 8, 0x10, 0x18, 0x30] → RegisterKept s w) := by
  intro used after area sets
  have hplain : w.offset = 0 ∨ w.offset = 8 ∨ w.offset = 0x10 ∨ w.offset = 0x18 ∨ w.offset = 0x30 → PlainPreg w.block w.offset := fun ho => by
    rw [hb]
    unfold PlainPreg
    omega
  have hgen : ∀ (v : DWord) (cond : Bool) (ok : Prop), (w.offset = 0 ∨ w.offset = 8 ∨ w.offset = 0x10 ∨ w.offset = 0x18 ∨ w.offset = 0x30) →
      (taken s w).writeVersion w = (if cond = true then wroteP s w v else taken s w) → (cond = true ↔ ok) → sets v ok := fun v cond ok ho heff hcond =>
    registerSetsP_of h (.inr hb) (hplain ho) hi ((registerEffect_version hb _).trans heff) hcond
  have hused : (!(s.recordsUsed w.index true != 0 || s.recordsUsed w.index false != 0)) = true ↔ ¬ used := by
    unfold used
    simp
  have hbase : ∀ (v : DWord) (base size : Nat) (tier : Tier), base < 0x20 → size < 0x20 →
      ((!(s.recordsUsed w.index true != 0 || s.recordsUsed w.index false != 0) && areaInside (wroteP s w v) w.index base size tier) = true
        ↔ ¬ used ∧ area v base size tier.code) := fun v base size tier h1 h2 => by
    rw [Bool.and_eq_true, hused, areaInside_wroteP hb hi v tier h1 h2]
  refine ⟨fun ho => hgen _ _ _ (by omega) ?_ (hbase _ 0 8 .hbm (by decide) (by decide)), fun ho => hgen _ _ _ (by omega) ?_ (hbase _ 0 8 .hbm (by decide) (by decide)),
    fun ho => hgen _ _ _ (by omega) ?_ (hbase _ 0x10 0x18 .second (by decide) (by decide)),
    fun ho => hgen _ (decide (s.recordsUsed w.index false ≤ bits w.value 0 32) && areaInside (wroteP s w (w.value &&& 0xFFFFFFFF#64)) w.index 0x10 0x18 .second) _
      (by omega) ?_ ?_, fun ho => ?_, fun ho => ?_⟩
  · rw [wroteP_version hb]
    unfold State.writeVersion
    dsimp only
    rw [if_neg (not_partitions_le hi), ho, mib2Mask_eq]
    rfl
  · rw [wroteP_version hb]
    unfold State.writeVersion
    dsimp only
    rw [if_neg (not_partitions_le hi), ho, mask_low32]
    rfl
  · rw [wroteP_version hb]
    unfold State.writeVersion
    dsimp only
    rw [if_neg (not_partitions_le hi), ho, mib2Mask_eq]
    rfl
  · rw [wroteP_version hb]
    unfold State.writeVersion
    dsimp only
    rw [if_neg (not_partitions_le hi), ho, mask_low32]
    rfl
  · have hv : (w.value &&& 0xFFFFFFFF#64).toNat = bits w.value 0 32 := by
      rw [BitVec.toNat_and, show (0xFFFFFFFF#64 : DWord).toNat = 2 ^ 32 - 1 by decide, Nat.and_two_pow_sub_one_eq_mod, bits, Nat.pow_zero, Nat.div_one]
    rw [Bool.and_eq_true, decide_eq_true_iff, areaInside_wroteP hb hi _ .second (by decide) (by decide), hv]
    rfl
  · refine registerReadsP_of h (.inr hb) (hplain (by omega)) hi ?_
    rw [registerEffect_version hb, wroteP_version hb]
    unfold State.writeVersion
    dsimp only
    rw [if_neg (not_partitions_le hi), ho, show lowMask 8 = 0xFF#64 by decide]
    rfl
  · simp only [List.mem_cons, List.not_mem_nil, or_false, not_or] at ho
    obtain ⟨h0, h8, h10, h18, h30⟩ := ho
    refine registerKept_of h ?_
    rw [registerEffect_version hb]
    unfold State.writeVersion
    dsimp only
    rw [if_neg (not_partitions_le hi)]
    split
    · exact absurd ‹_› h0
    · exact absurd ‹_› h8
    · exact absurd ‹_› h10
    · exact absurd ‹_› h18
    · exact absurd ‹_› h30
    · rfl

/-! ## Partition blocks (R402 to R404) -/

theorem registerEffect_partition {w : RegWrite} (hb : w.block = .partition) (t : State) : registerEffect w t = t.writePartition w := by
  unfold registerEffect
  rw [hb]

theorem wroteP_partition {s : State} {w : RegWrite} (hb : w.block = .partition) (v : DWord) :
    wroteP s w v = (taken s w).setPctl w.index w.offset v := by
  unfold wroteP putPreg State.setPctl
  rw [hb]

theorem mem_put_of_ne {α : Type} {t : Tab α} {n : Nat} {x : α} {y : Nat × α} (h : y.1 ≠ n) : y ∈ t.put n x ↔ y ∈ t := by
  have hne : y ≠ (n, x) := fun e => h (by rw [e])
  induction t with
  | nil => simp [Tab.put, hne]
  | cons z rest ih =>
    obtain ⟨k, v⟩ := z
    unfold Tab.put
    split
    · rw [List.mem_cons, or_iff_right hne]
    · split
      · next hk =>
        have hz : y ≠ (k, v) := fun e => h (by rw [e, hk])
        rw [List.mem_cons, or_iff_right hne, List.mem_cons, or_iff_right hz]
      · exact List.mem_cons.trans ((or_congr_right ih).trans List.mem_cons.symm)

section
variable {s : State} {w : RegWrite} (hb : w.block = .partition) (hi : w.index < 24) (v : DWord)
include hb hi

/-- The registers of a partition after a write, as the model holds them and as they read. -/
theorem pctl_after {x : Nat} (hx : x < 0x100) :
    ((wroteP s w v).partition w.index).ctl.get x 0 = if x = w.offset then v else s.readReg w.block w.index x := by
  rw [after_plainP s w v (by rw [hb]; trivial) hi hx, partition_wroteP, if_pos rfl, hb]
  rfl

omit hb hi in
theorem partition_wroteP_ne {i : Nat} (h : i ≠ w.index) : (wroteP s w v).partition i = s.partition i := by
  rw [partition_wroteP, if_neg h]

omit hb hi in
theorem mem_partitions_wroteP {x : Nat × Partition} (h : x.1 ≠ w.index) : x ∈ (wroteP s w v).partitions ↔ x ∈ s.partitions := mem_put_of_ne h

end

theorem groupsOf_all_iff {lo n : Nat} (hn : n ≠ 0) (p : Nat → Bool) : (groupsOf lo n).all p = true ↔
    ∀ g, g < 32 → lo < (g + 1) * 2 ^ 34 → g * 2 ^ 34 < lo + n → p g = true := by
  unfold groupsOf
  rw [if_neg hn, List.all_eq_true]
  refine ⟨fun h g hg h1 h2 => h g (List.mem_filter.2 ⟨List.mem_range.2 hg, decide_eq_true ⟨h1, h2⟩⟩), fun h g hg => ?_⟩
  obtain ⟨hg, hc⟩ := List.mem_filter.1 hg
  obtain ⟨h1, h2⟩ := of_decide_eq_true hc
  exact h g (List.mem_range.1 hg) h1 h2

theorem tiersOk_wroteP {s : State} {w : RegWrite} (hb : w.block = .partition) (hi : w.index < 24) (v : DWord) :
    (wroteP s w v).tiersOk w.index = true ↔ TiersInOrder s w.index fun x => if x = w.offset then v else s.readReg w.block w.index x := by
  have hreg : ∀ x, x < 0x100 → ((wroteP s w v).partition w.index).ctl.get x 0 = if x = w.offset then v else s.readReg w.block w.index x :=
    fun x hx => pctl_after hb hi v hx
  have hother : ∀ i tier, i ≠ w.index → (wroteP s w v).pbound i tier = s.pbound i tier ∧ (wroteP s w v).pbase i tier = s.pbase i tier := fun i tier h => by
    unfold State.pbound State.pbase
    rw [partition_wroteP_ne v h]
    exact ⟨rfl, rfl⟩
  unfold State.tiersOk TiersInOrder
  dsimp only
  rw [← hreg 0x30 (by decide), ← hreg 0x38 (by decide), ← hreg 8 (by decide), ← hreg (0x30 + 16 * 1) (by decide), ← hreg (0x38 + 16 * 1) (by decide)]
  rw [Bool.and_eq_true]
  refine and_congr ?_ ?_
  · rw [Bool.or_eq_true, beq_iff_eq]
    change (wroteP s w v).pbound w.index .hbm = 0 ∨ _ ↔ (wroteP s w v).pbound w.index .hbm = 0 ∨ _
    by_cases hn : (wroteP s w v).pbound w.index .hbm = 0
    · simp only [hn, true_or]
    · rw [or_iff_right hn, or_iff_right hn, Bool.and_eq_true, decide_eq_true_iff, groupsOf_all_iff hn]
      rfl
  · rw [Bool.or_eq_true, beq_iff_eq, Bool.and_eq_true, decide_eq_true_iff, List.all_eq_true]
    refine or_congr Iff.rfl ?_
    rw [and_assoc]
    refine and_congr Iff.rfl (and_congr Iff.rfl ⟨fun h x hx hp => ?_, fun h x hx => ?_⟩)
    · have hall := h x ((mem_partitions_wroteP v hp).2 hx)
      obtain ⟨h1, h2⟩ := hother x.1 .second hp
      rw [h1, h2] at hall
      simp only [Bool.or_eq_true, beq_iff_eq, decide_eq_true_eq, hp, false_or] at hall
      exact hall
    · by_cases hp : x.1 = w.index
      · simp [hp]
      · have hall := h x ((mem_partitions_wroteP v hp).1 hx) hp
        obtain ⟨h1, h2⟩ := hother x.1 .second hp
        rw [h1, h2]
        simp only [Bool.or_eq_true, beq_iff_eq, decide_eq_true_eq, hp, false_or]
        exact hall

theorem devicesOf_isEmpty (s : State) (p : Nat) : (!(s.devicesOf p).isEmpty) = true ↔ ∃ x ∈ s.devices, x.2.part = p ∧ x.2.state ≠ .none := by
  unfold State.devicesOf
  rw [Bool.not_eq_true', List.isEmpty_eq_false_iff_exists_mem]
  constructor
  · rintro ⟨x, hx⟩
    obtain ⟨hx, hc⟩ := List.mem_filter.1 hx
    rw [Bool.and_eq_true, beq_iff_eq, bne_iff_ne] at hc
    exact ⟨x, hx, hc⟩
  · rintro ⟨x, hx, h1, h2⟩
    exact ⟨x, List.mem_filter.2 ⟨hx, by rw [Bool.and_eq_true, beq_iff_eq, bne_iff_ne]; exact ⟨h1, h2⟩⟩⟩

theorem maskTaken_iff (s : State) (p o : Nat) (v : DWord) : s.maskTaken p o v = true ↔ ∃ x ∈ s.partitions, x.1 ≠ p ∧ x.2.ctl.get o 0 &&& v ≠ 0 := by
  unfold State.maskTaken
  simp only [List.any_eq_true, Bool.and_eq_true, bne_iff_ne]

/-! ## Writes to partition blocks (R403, R404) -/

theorem windowsOk_wroteP {s : State} {w : RegWrite} (hb : w.block = .partition) (hi : w.index < 24) (v : DWord) :
    (wroteP s w v).windowsOk w.index = true ↔ ∀ x ∈ s.devices, x.2.part = w.index → ∀ u, u < 3 →
      let lo := (x.2.xlate.get (0x10 + 16 * u) 0).toNat
      let hi := (x.2.xlate.get (0x18 + 16 * u) 0).toNat
      hi ≤ lo ∨ hi ≤ (if 0x38 + 16 * u = w.offset then v else s.readReg w.block w.index (0x38 + 16 * u)).toNat := by
  unfold State.windowsOk
  rw [List.all_eq_true]
  refine ⟨fun h x hx hp u hu => ?_, fun h x hx => ?_⟩
  · have hfit := (windowsFit_iff_regs ..).1 (h x (List.mem_filter.2 ⟨hx, beq_iff_eq.2 hp⟩)) u hu
    rw [pctl_after hb hi v (by omega)] at hfit
    exact hfit
  · obtain ⟨hx, hp⟩ := List.mem_filter.1 hx
    refine (windowsFit_iff_regs ..).2 fun u hu => ?_
    rw [pctl_after hb hi v (by omega)]
    exact h x hx (beq_iff_eq.1 hp) u hu

/-- The share of the checkpoint store that registers describe: its base and its size. -/
def shareOf (r : Nat → DWord) : Nat × Nat := (((r 0x60).extractLsb' 0 12).toNat, ((r 0x68).extractLsb' 0 12).toNat)

theorem sharesOk_wroteP {s : State} {w : RegWrite} (hb : w.block = .partition) (hi : w.index < 24) (v : DWord) :
    let me := shareOf fun x => if x = w.offset then v else s.readReg w.block w.index x
    (wroteP s w v).sharesOk w.index = true ↔ me.1 + me.2 ≤ 1862 ∧ ∀ x ∈ s.partitions, x.1 ≠ w.index →
      let he := shareOf fun r => (s.partition x.1).ctl.get r 0
      me.2 = 0 ∨ he.2 = 0 ∨ me.1 + me.2 ≤ he.1 ∨ he.1 + he.2 ≤ me.1 := by
  dsimp only
  unfold State.sharesOk
  extract_lets share me
  have hshare : ∀ q, share q = shareOf fun r => ((wroteP s w v).partition q).ctl.get r 0 := fun q => by
    unfold share shareOf
    rw [bits_eq, bits_eq]
  have hme : me = shareOf fun x => if x = w.offset then v else s.readReg w.block w.index x := by
    refine (hshare w.index).trans ?_
    unfold shareOf
    dsimp only
    rw [pctl_after hb hi v (by decide), pctl_after hb hi v (by decide)]
  rw [hme, Bool.and_eq_true, decide_eq_true_iff, List.all_eq_true]
  simp only [hshare, Bool.or_eq_true, beq_iff_eq, decide_eq_true_iff]
  refine and_congr Iff.rfl ⟨fun h x hx hp => ?_, fun h x hx => ?_⟩
  · have hall := h x ((mem_partitions_wroteP v hp).2 hx)
    rw [partition_wroteP_ne v hp] at hall
    simp only [hp, false_or, or_assoc] at hall
    exact hall
  · by_cases hp : x.1 = w.index
    · simp [hp]
    · have hall := h x ((mem_partitions_wroteP v hp).1 hx) hp
      rw [partition_wroteP_ne v hp]
      simp only [hp, false_or, or_assoc]
      exact hall

theorem checkpointing_iff (s : State) (p : Nat) : (!s.checkpointing p) = true ↔ ∀ x ∈ s.devices, x.2.part = p → x.2.ckpt = none := by
  unfold State.checkpointing
  rw [Bool.not_eq_true', List.any_eq_false]
  refine forall_congr' fun x => imp_congr_right fun _ => ?_
  simp

/-- A mask of a partition that does not lose a bit while a device of it exists (R404). -/
theorem clears_iff (s : State) {p : Nat} (old v : DWord) : (!(!(s.devicesOf p).isEmpty && old &&& ~~~v != 0)) = true
    ↔ ¬ ((∃ x ∈ s.devices, x.2.part = p ∧ x.2.state ≠ .none) ∧ old &&& ~~~v ≠ 0) := by
  rw [← devicesOf_isEmpty, Bool.not_eq_true', ← Bool.not_eq_true, Bool.and_eq_true, bne_iff_ne]

theorem partition_sets {s : State} {w : RegWrite} (h : Ready s w) (hb : w.block = .partition) (hi : w.index < 24) :
    let o := w.offset
    let old (x : Nat) : DWord := s.readReg w.block w.index x
    let after (v : DWord) (x : Nat) : DWord := if x = o then v else old x
    let sets (v : DWord) (ok : Prop) : Prop := (ok → RegisterReads s w v) ∧ (¬ ok → RegisterKept s w)
    let used : Prop := ∃ x ∈ s.devices, x.2.part = w.index ∧ x.2.state ≠ .none
    let taken (v : DWord) : Prop := ∃ x ∈ s.partitions, x.1 ≠ w.index ∧ x.2.ctl.get o 0 &&& v ≠ 0
    let loses (v : DWord) : Prop := used ∧ old o &&& ~~~v ≠ 0
    let order (v : DWord) : Prop := TiersInOrder s w.index (after v)
    (o = 0 → let v := w.value &&& 0xFFFFFF#64
      (taken v ∨ loses v → RegisterKept s w) ∧ (¬ taken v → ¬ loses v → ¬ used → RegisterReads s w v))
    ∧ (o = 8 → let v := w.value &&& 0xFFFFFFFF#64; sets v (¬ taken v ∧ ¬ loses v ∧ order v))
    ∧ (o = 0x18 ∨ o = 0x20 → sets w.value (¬ taken w.value ∧ ¬ loses w.value))
    ∧ (∀ t, t < 3 → o = 0x30 + 16 * t → let v := w.value &&& 0x3FFFFFE00000#64; sets v (¬ (used ∧ old o ≠ v) ∧ order v))
    ∧ (∀ t, t < 3 → o = 0x38 + 16 * t → let v := w.value &&& 0x3FFFFFE00000#64
        sets v (order v ∧ ∀ x ∈ s.devices, x.2.part = w.index → ∀ u, u < 3 →
          let lo := (x.2.xlate.get (0x10 + 16 * u) 0).toNat
          let hi := (x.2.xlate.get (0x18 + 16 * u) 0).toNat
          hi ≤ lo ∨ hi ≤ (after v (0x38 + 16 * u)).toNat))
    ∧ (o = 0x60 ∨ o = 0x68 → let v := w.value &&& 0xFFF#64
        let share (r : Nat → DWord) : Nat × Nat := (((r 0x60).extractLsb' 0 12).toNat, ((r 0x68).extractLsb' 0 12).toNat)
        let me := share (after v)
        sets v (me.1 + me.2 ≤ 1862 ∧ (∀ x ∈ s.devices, x.2.part = w.index → x.2.ckpt = none)
          ∧ ∀ x ∈ s.partitions, x.1 ≠ w.index → let he := share fun r => (s.partition x.1).ctl.get r 0
            me.2 = 0 ∨ he.2 = 0 ∨ me.1 + me.2 ≤ he.1 ∨ he.1 + he.2 ≤ me.1))
    ∧ (o = 0x28 ∨ 0x70 ≤ o → RegisterKept s w) := by
  intro o old after sets used taken loses order
  have hgen : ∀ (v : DWord) (cond : Bool) (ok : Prop),
      (Machine.State.writePartition (Claim.taken s w) w) = (if cond = true then wroteP s w v else Claim.taken s w) → (cond = true ↔ ok) → sets v ok :=
    fun v cond ok heff hcond => registerSetsP_of h (.inl hb) (by rw [hb]; trivial) hi ((registerEffect_partition hb _).trans heff) hcond
  have hold : old o = (s.partition w.index).ctl.get w.offset 0 := (readReg_plainP s (by rw [hb]; trivial) hi h.offset).trans (by rw [hb]; rfl)
  have htaken : ∀ v, (!s.maskTaken w.index w.offset v) = true ↔ ¬ taken v := fun v => by
    rw [Bool.not_eq_true', ← Bool.not_eq_true, maskTaken_iff]
  have hclears : ∀ v, (!(!(s.devicesOf w.index).isEmpty && (s.partition w.index).ctl.get w.offset 0 &&& ~~~v != 0)) = true ↔ ¬ loses v := fun v => by
    rw [clears_iff, ← hold]
  have hmoves : ∀ v, (!(!(s.devicesOf w.index).isEmpty && (s.partition w.index).ctl.get w.offset 0 != v)) = true ↔ ¬ (used ∧ old o ≠ v) := fun v => by
    rw [Bool.not_eq_true', ← Bool.not_eq_true, Bool.and_eq_true, devicesOf_isEmpty, bne_iff_ne, hold]
  have horder : ∀ v, (wroteP s w v).tiersOk w.index = true ↔ order v := fun v => tiersOk_wroteP hb hi v
  refine ⟨fun ho => ?_, fun ho => ?_, fun ho => ?_, fun u hu ho => ?_, fun u hu ho => ?_, fun ho => ?_, fun ho => ?_⟩
  · have heff : ∃ more : Bool, (¬ used → more = true) ∧ (Machine.State.writePartition (Claim.taken s w) w) =
        if (!s.maskTaken w.index w.offset (w.value &&& 0xFFFFFF#64)
            && !(!(s.devicesOf w.index).isEmpty && (s.partition w.index).ctl.get w.offset 0 &&& ~~~(w.value &&& 0xFFFFFF#64) != 0) && more) = true then
          wroteP s w (w.value &&& 0xFFFFFF#64) else Claim.taken s w := by
      rw [wroteP_partition hb]
      unfold State.writePartition
      dsimp only
      rw [if_neg (not_partitions_le hi), show w.offset = 0 from ho, show lowMask 24 = 0xFFFFFF#64 by decide]
      refine ⟨_, fun hno => ?_, rfl⟩
      have hempty : s.devicesOf w.index = [] := by
        by_contra hne
        exact hno ((devicesOf_isEmpty s w.index).1 (by simpa using hne))
      rw [Bool.or_eq_true]
      exact .inr (by rw [show ((Claim.taken s w).setPctl w.index 0 (w.value &&& 0xFFFFFF#64)).devicesOf w.index = [] from hempty]; rfl)
    obtain ⟨more, hmore, heff⟩ := heff
    have hcond : ∀ v, (!s.maskTaken w.index w.offset v
        && !(!(s.devicesOf w.index).isEmpty && (s.partition w.index).ctl.get w.offset 0 &&& ~~~v != 0) && more) = true
        ↔ (¬ taken v ∧ ¬ loses v) ∧ more = true := fun v => by rw [Bool.and_eq_true, Bool.and_eq_true, htaken, hclears]
    obtain ⟨hreads, hkept⟩ := hgen _ _ _ heff (hcond _)
    exact ⟨fun hbad => hkept fun hok => hbad.elim hok.1.1 hok.1.2, fun h1 h2 h3 => hreads ⟨⟨h1, h2⟩, hmore h3⟩⟩
  · refine hgen _ (!s.maskTaken w.index w.offset (w.value &&& 0xFFFFFFFF#64)
      && !(!(s.devicesOf w.index).isEmpty && (s.partition w.index).ctl.get w.offset 0 &&& ~~~(w.value &&& 0xFFFFFFFF#64) != 0)
      && (wroteP s w (w.value &&& 0xFFFFFFFF#64)).tiersOk w.index) _ ?_ ?_
    · rw [wroteP_partition hb]
      unfold State.writePartition
      dsimp only
      rw [if_neg (not_partitions_le hi), show w.offset = 8 from ho, mask_low32]
      rfl
    · rw [Bool.and_eq_true, Bool.and_eq_true, htaken, hclears, horder, and_assoc]
  · refine hgen _ (!s.maskTaken w.index w.offset w.value
      && !(!(s.devicesOf w.index).isEmpty && (s.partition w.index).ctl.get w.offset 0 &&& ~~~w.value != 0)) _ ?_ ?_
    · rw [wroteP_partition hb]
      unfold State.writePartition
      dsimp only
      rw [if_neg (not_partitions_le hi), show lowMask 64 = BitVec.allOnes 64 by decide, BitVec.and_allOnes]
      rcases ho with ho | ho
      · rw [show w.offset = 0x18 from ho, Bool.and_true]
        rfl
      · rw [show w.offset = 0x20 from ho, Bool.and_true]
        rfl
    · rw [Bool.and_eq_true, htaken, hclears]
  · have ho' : w.offset = 0x30 ∨ w.offset = 0x40 ∨ w.offset = 0x50 := by
      have : w.offset = 0x30 + 16 * u := ho
      omega
    refine hgen _ ((wroteP s w (w.value &&& 0x3FFFFFE00000#64)).tiersOk w.index
      && !(!(s.devicesOf w.index).isEmpty && (s.partition w.index).ctl.get w.offset 0 != w.value &&& 0x3FFFFFE00000#64)) _ ?_ ?_
    · rw [wroteP_partition hb]
      unfold State.writePartition
      dsimp only
      rw [if_neg (not_partitions_le hi), mib2Mask_eq]
      rcases ho' with ho' | ho' | ho'
      · rw [ho']; rfl
      · rw [ho']; rfl
      · rw [ho']; rfl
    · rw [Bool.and_eq_true, horder, hmoves, and_comm]
  · have ho' : w.offset = 0x38 ∨ w.offset = 0x48 ∨ w.offset = 0x58 := by
      have : w.offset = 0x38 + 16 * u := ho
      omega
    refine hgen _ ((wroteP s w (w.value &&& 0x3FFFFFE00000#64)).tiersOk w.index
      && (wroteP s w (w.value &&& 0x3FFFFFE00000#64)).windowsOk w.index) _ ?_ ?_
    · rw [wroteP_partition hb]
      unfold State.writePartition
      dsimp only
      rw [if_neg (not_partitions_le hi), mib2Mask_eq]
      rcases ho' with ho' | ho' | ho'
      · rw [ho']; rfl
      · rw [ho']; rfl
      · rw [ho']; rfl
    · rw [Bool.and_eq_true, horder, windowsOk_wroteP hb hi]
  · refine hgen _ ((wroteP s w (w.value &&& 0xFFF#64)).sharesOk w.index && !s.checkpointing w.index) _ ?_ ?_
    · rw [wroteP_partition hb]
      unfold State.writePartition
      dsimp only
      rw [if_neg (not_partitions_le hi), lowMask_12]
      rcases ho with ho | ho
      · rw [show w.offset = 0x60 from ho]; rfl
      · rw [show w.offset = 0x68 from ho]; rfl
    · refine Bool.and_eq_true_iff.trans ((and_congr (sharesOk_wroteP hb hi _) (checkpointing_iff ..)).trans ?_)
      exact ⟨fun ⟨⟨h1, h2⟩, h3⟩ => ⟨h1, h3, h2⟩, fun ⟨h1, h3, h2⟩ => ⟨⟨h1, h2⟩, h3⟩⟩
  · refine registerKept_of h ?_
    have ho' : w.offset = 0x28 ∨ 0x70 ≤ w.offset := ho
    rw [registerEffect_partition hb]
    unfold State.writePartition
    dsimp only
    rw [if_neg (not_partitions_le hi)]
    split
    · omega
    · omega
    · omega
    · omega
    · omega
    · omega
    · rw [if_neg (by omega), if_neg (by omega)]

/-! ## The module block (R431) -/

theorem registerEffect_module {w : RegWrite} (hb : w.block = .module) (t : State) : registerEffect w t = t.writeModule w := by
  unfold registerEffect
  rw [hb]

theorem module_kept {s : State} {w : RegWrite} (h : Ready s w) (hb : w.block = .module) (ho : w.offset ≠ 0x18) : RegisterKept s w := by
  have hlt := h.offset
  refine registerKept_of h ?_
  rw [registerEffect_module hb]
  unfold State.writeModule
  rw [if_neg ho, if_neg (by omega)]

theorem readReg_elog (s : State) (v : DWord) {b : RegBlock} {i o : Nat} (h : ¬ (b = .module ∧ i = 0 ∧ o = 0x18)) :
    (s.withModule fun m => { m with elogBase := v }).readReg b i o = s.readReg b i o := by
  unfold State.readReg
  split
  · rfl
  · next hin =>
    cases b with
    | module =>
      have hi : i = 0 := by
        have h1 : ¬ 1 ≤ i := fun hc => hin (.inl hc)
        omega
      dsimp only
      unfold State.moduleReg
      dsimp only
      split
      · rfl
      · rfl
      · rfl
      · exact absurd ⟨rfl, hi, rfl⟩ h
      · rfl
    | partition | version | keeper | vdev | xlate | cache | fabric | trap | queue | guest => rfl

theorem module_elog_reads {s : State} {w : RegWrite} (h : Ready s w) (hb : w.block = .module) (hi : w.index = 0) (ho : w.offset = 0x18) :
    RegisterReads s w (w.value &&& ~~~0x1FFE#64) := by
  have heff : registerEffect w (taken s w) = (taken s w).withModule fun m => { m with elogBase := w.value &&& ~~~0x1FFE#64 } := by
    rw [registerEffect_module hb]
    unfold State.writeModule
    rw [if_pos ho, show ~~~(lowMask 13) ||| 1#64 = ~~~0x1FFE#64 by decide]
  refine ⟨_, h.exec, by rw [heff]; exact fun _ => ⟨rfl, rfl, rfl⟩, ?_, fun b i o hne _ => ?_⟩
  · rw [heff, hb, hi, ho]
    rfl
  · rw [heff, readReg_elog _ _ (by rw [hb, hi, ho] at hne; exact hne)]
    rfl

/-! ## What no register write of the shared event changes -/

/-- Devices, partitions and the module's own registers apart, two states are the same. -/
def ConfFrame (s t : State) : Prop := ∃ D P M, t = { s with devices := D, partitions := P, module := M }

namespace ConfFrame

theorem refl (s : State) : ConfFrame s s := ⟨_, _, _, rfl⟩

theorem withDevice (s : State) (v : Nat) (f : Device → Device) : ConfFrame s (s.withDevice v f) := ⟨_, _, _, rfl⟩

theorem withPartition (s : State) (p : Nat) (f : Partition → Partition) : ConfFrame s (s.withPartition p f) := ⟨_, _, _, rfl⟩

theorem withModule (s : State) (f : Module → Module) : ConfFrame s (s.withModule f) := ⟨_, _, _, rfl⟩

theorem setCtl (s : State) (v o : Nat) (x : DWord) : ConfFrame s (s.setCtl v o x) := ⟨_, _, _, rfl⟩

theorem ite {s t u : State} {c : Prop} [Decidable c] (ht : ConfFrame s t) (hu : ConfFrame s u) : ConfFrame s (if c then t else u) := by
  split
  · exact ht
  · exact hu

end ConfFrame

theorem confFrame_writePartition (s : State) (w : RegWrite) : ConfFrame s (s.writePartition w) := by
  have hput : ∀ v, ConfFrame s (s.setPctl w.index w.offset v) := fun v => .withPartition ..
  unfold State.writePartition
  dsimp only
  refine .ite (.refl s) ?_
  split
  · exact .ite (hput _) (.refl s)
  · exact .ite (hput _) (.refl s)
  · exact .ite (hput _) (.refl s)
  · exact .ite (hput _) (.refl s)
  · exact .ite (hput _) (.refl s)
  · exact .ite (hput _) (.refl s)
  · exact .ite (.ite (hput _) (.refl s)) (.ite (.ite (hput _) (.refl s)) (.refl s))

theorem confFrame_writeVersion (s : State) (w : RegWrite) : ConfFrame s (s.writeVersion w) := by
  unfold State.writeVersion
  dsimp only
  refine .ite (.refl s) ?_
  split
  · exact .ite (.withPartition ..) (.refl s)
  · exact .ite (.withPartition ..) (.refl s)
  · exact .ite (.withPartition ..) (.refl s)
  · exact .ite (.withPartition ..) (.refl s)
  · exact .withPartition ..
  · exact .refl s

theorem confFrame_writeVdev (s : State) (w : RegWrite) : ConfFrame s (s.writeVdev w) := by
  unfold State.writeVdev
  dsimp only
  refine .ite (.refl s) ?_
  split
  · exact .setCtl ..
  · exact .ite (.setCtl ..) (.refl s)
  · exact .ite (.setCtl ..) (.refl s)
  · exact .setCtl ..
  · exact .setCtl ..
  · exact .ite (.setCtl ..) (.refl s)
  · exact .setCtl ..
  · exact .refl s

theorem confFrame_writeXlate (s : State) (w : RegWrite) : ConfFrame s (s.writeXlate w) := by
  unfold State.writeXlate
  dsimp only
  exact .ite (.refl s) (.ite (.withDevice ..) (.ite (.ite (.withDevice ..) (.refl s)) (.refl s)))

theorem confFrame_writeCache (s : State) (w : RegWrite) : ConfFrame s (s.writeCache w) := by
  unfold State.writeCache
  dsimp only
  exact .ite (.refl s) (.ite (.withDevice ..) (.ite (.withDevice ..) (.refl s)))

theorem confFrame_writeFabric (s : State) (w : RegWrite) : ConfFrame s (s.writeFabric w) := by
  unfold State.writeFabric
  dsimp only
  refine .ite (.refl s) ?_
  split
  · exact .ite (.withDevice ..) (.refl s)
  · exact .ite (.withDevice ..) (.refl s)
  · exact .ite (.withDevice ..) (.refl s)
  · exact .ite (.withDevice ..) (.refl s)
  · exact .ite (.withDevice ..) (.refl s)
  · exact .refl s

theorem confFrame_writeTrap (s : State) (w : RegWrite) : ConfFrame s (s.writeTrap w) := by
  unfold State.writeTrap
  dsimp only
  refine .ite (.refl s) ?_
  split
  · exact .ite (.withDevice ..) (.refl s)
  · exact .withDevice ..
  · exact .ite (.withDevice ..) (.refl s)
  · exact .ite (.withDevice ..) (.refl s)
  · exact .refl s

theorem confFrame_writeQueue (s : State) (w : RegWrite) : ConfFrame s (s.writeQueue w) := by
  unfold State.writeQueue
  dsimp only
  refine .ite (.refl s) (.ite (.ite (.withDevice ..) (.refl s)) ?_)
  split
  · exact .withDevice ..
  · exact .withDevice ..
  · exact .withDevice ..
  · exact .refl s

theorem confFrame_writeModule (s : State) (w : RegWrite) : ConfFrame s (s.writeModule w) := by
  unfold State.writeModule
  exact .ite (.withModule ..) (.ite (.withModule ..) (.refl s))

theorem confFrame_registerEffect (w : RegWrite) (s : State) : ConfFrame s (registerEffect w s) := by
  unfold registerEffect
  split
  · exact confFrame_writeModule s w
  · exact confFrame_writePartition s w
  · exact confFrame_writeVersion s w
  · exact .ite (.ite (.refl s) (.withDevice ..)) (confFrame_writeVdev s w)
  · exact confFrame_writeXlate s w
  · exact confFrame_writeCache s w
  · exact confFrame_writeFabric s w
  · exact confFrame_writeTrap s w
  · exact confFrame_writeQueue s w
  · exact .refl s

theorem confFrame_passWrite {s : State} {w : RegWrite} {f : RegWrite → State → State} (hf : ConfFrame s (f w s)) : ConfFrame s (s.passWrite w f) := by
  unfold State.passWrite
  split
  · exact .ite (.refl s) (.ite (.withModule ..) (.ite hf (.refl s)))
  · exact .ite (.withModule ..) (.ite hf (.refl s))

/-! ## A register write of the shared event (R427, R428, R432) -/

theorem read_of_registerReads {s t : State} {w : RegWrite} {v : DWord} (h : RegisterReads s w v) (hexec : exec .registerWrite s = .next t) :
    t.readReg w.block w.index w.offset = v := by
  obtain ⟨u, hu, -, hread, -⟩ := h
  cases hexec.symm.trans hu
  exact hread

theorem trap_handler_sets {s : State} {w : RegWrite} (hb : w.block = .trap) (hi : w.index < 128) (ho : w.offset = 0) :
    registerEffect w (taken s w) = if canonical (w.value &&& ~~~3#64).toNat = true then wrote s w (w.value &&& ~~~2#64) (s.device w.index).live
      else taken s w := by
  rw [registerEffect_trap hb, wrote_trap hb]
  unfold State.writeTrap
  dsimp only
  rw [if_neg (not_vds_le hi), ho]
  rfl

theorem trap_enable_reads {s : State} {w : RegWrite} (h : Ready s w) (hb : w.block = .trap) (hi : w.index < 128) (ho : w.offset = 8) :
    RegisterReads s w (w.value &&& 1#64) := by
  refine registerReads_of h (hb ▸ by unfold DeviceBlock; decide) (hb ▸ trivial) hi (L := (s.device w.index).live) ?_
  rw [registerEffect_trap hb, wrote_trap hb]
  unfold State.writeTrap
  dsimp only
  rw [if_neg (not_vds_le hi), ho]
  rfl

theorem tinvva_reads {s : State} {w : RegWrite} (h : Ready s w) (hb : w.block = .xlate) (hi : w.index < 128) (ho : w.offset = 0x48) :
    RegisterReads s w w.value := by
  refine registerReads_of h (hb ▸ .inr (.inl rfl)) (hb ▸ (show w.offset ≠ 0x40 by omega)) hi (L := (s.device w.index).live) ?_
  rw [registerEffect_xlate hb, wrote_xlate hb]
  unfold State.writeXlate
  dsimp only
  rw [if_neg (not_vds_le hi), if_pos ho, ho]
  rfl

/-- What becomes of a write that may not reach its block, by its writer. -/
theorem passWrite_refused {s : State} {w : RegWrite} (f : RegWrite → State → State)
    (h : w.writer = .guest ∧ w.block ≠ .guest ∨ w.writer = .monitor ∧ w.block ≠ .partition
      ∨ w.writer = .hypervisor ∧ (w.block = .partition ∨ w.block = .guest)) : s.passWrite w f = s.countRefused := by
  unfold State.passWrite
  rcases h with ⟨hw, hb⟩ | ⟨hw, hb⟩ | ⟨hw, hb⟩
  · have hno : writeAllowed w = false := Bool.eq_false_iff.2 fun h => hb ((writeAllowed_iff_of_guest hw).1 h)
    rw [hw]
    dsimp only
    rw [hno]
    rfl
  · have hno : writeAllowed w = false := Bool.eq_false_iff.2 fun h => hb ((writeAllowed_iff_of_monitor hw).1 h)
    rw [hw]
    dsimp only
    rw [hno]
    rfl
  · have hno : writeAllowed w = false := Bool.eq_false_iff.2 fun h => by
      obtain ⟨h1, h2⟩ := (writeAllowed_iff_of_hypervisor hw).1 h
      exact hb.elim h1 h2
    rw [hw]
    dsimp only
    rw [hno]
    rfl

theorem passWrite_stopped {s : State} {w : RegWrite} (f : RegWrite → State → State) {p : Nat} (hw : w.writer = .plugin p)
    (hstop : s.module.stopped.get p false = true) : s.passWrite w f = s := by
  unfold State.passWrite
  rw [hw]
  exact if_pos hstop

theorem passWrite_violates {s : State} {w : RegWrite} (f : RegWrite → State → State) {p : Nat} (hw : w.writer = .plugin p)
    (hstop : s.module.stopped.get p false = false) (hb : ¬ BlockOf s p w) : s.passWrite w f = s.violates p := by
  have hno : s.tenantBlock p w.block w.index = false := Bool.eq_false_iff.2 (hb ∘ (tenantBlock_iff s p w).1)
  have hs : s.module.isStopped p = false := hstop
  unfold State.passWrite
  rw [hw]
  dsimp only
  rw [hs, hno, Bool.and_false]
  rfl

theorem passWrite_recovery {s : State} {w : RegWrite} (f : RegWrite → State → State) (hsvc : s.module.svc = 0) (hw : w.writer = .monitor)
    (hb : w.block = .partition) : s.passWrite w f = s := by
  have hserved : s.served w = false := Bool.eq_false_iff.2 fun h => ((served_iff s w).1 h).elim (fun h => h hsvc) fun h => h (.inl hb)
  unfold State.passWrite
  rw [hw]
  dsimp only
  rw [(writeAllowed_iff_of_monitor hw).2 hb, hserved]
  rfl

theorem registerWrite_spec : ∀ s w, Arrived s w → writeSpecial w = false → Completes s .registerWrite fun t =>
    t.regWrites = s.regWrites.erase w ∧ SameMemory s t ∧ t.cores = s.cores ∧ t.launches = s.launches ∧ t.ops = s.ops
    ∧ (w.writer = .guest ∧ w.block ≠ .guest ∨ w.writer = .monitor ∧ w.block ≠ .partition
          ∨ w.writer = .hypervisor ∧ (w.block = .partition ∨ w.block = .guest) →
        t = { taken s w with module := { s.module with refused := min (s.module.refused + 1) (2 ^ 32 - 1) } })
    ∧ (∀ p, w.writer = .plugin p → s.module.stopped.get p false = true → t = taken s w)
    ∧ (∀ p, w.writer = .plugin p → s.module.stopped.get p false = false → ¬ BlockOf s p w →
        t = { taken s w with module := { s.module with violations := s.module.violations ++ [p] } })
    ∧ (s.module.svc = 0 → w.writer = .monitor → w.block = .partition → t = taken s w)
    ∧ (MayWrite s w → w.index < 128 →
        (w.block = .trap → w.offset = 0 →
          (canonical (w.value &&& ~~~3#64).toNat = true → t.readReg .trap w.index 0 = w.value &&& ~~~2#64)
          ∧ (canonical (w.value &&& ~~~3#64).toNat = false → t.devices = s.devices))
        ∧ (w.block = .trap → w.offset = 8 → t.readReg .trap w.index 8 = w.value &&& 1#64)
        ∧ (w.block = .queue → w.offset = 0x90 → t.readReg .queue w.index 0x90 = w.value)
        ∧ (w.block = .xlate → w.offset = 0x48 → t.readReg .xlate w.index 0x48 = w.value)
        ∧ (w.block = .vdev → w.offset = 0x28 → t.readReg .vdev w.index 0x28 = w.value &&& 0xFFFFFFFF#64)) := by
  intro s w harrived hspecial
  have hexec := exec_registerWrite harrived hspecial
  obtain ⟨D, P, M, hframe⟩ := confFrame_passWrite (f := registerEffect) (confFrame_registerEffect w (taken s w))
  refine ⟨_, hexec, by rw [hframe]; rfl, by rw [hframe]; exact fun _ => ⟨rfl, rfl, rfl⟩, by rw [hframe]; rfl, by rw [hframe]; rfl, by rw [hframe]; rfl,
    passWrite_refused _, fun p hw hstop => passWrite_stopped _ hw hstop, fun p hw hstop hb => passWrite_violates _ hw hstop hb,
    fun hsvc hw hb => passWrite_recovery _ hsvc hw hb, fun hmay hi => ⟨fun hb ho => ⟨fun hcan => ?_, fun hcan => ?_⟩, fun hb ho => ?_, fun hb ho => ?_,
      fun hb ho => ?_, fun hb ho => ?_⟩⟩
  · have hready : Ready s w := ⟨harrived, hspecial, hmay, by omega⟩
    have hreads := registerReads_of hready (hb ▸ by unfold DeviceBlock; decide) (hb ▸ trivial) hi ((trap_handler_sets hb hi ho).trans (if_pos hcan))
    have hread := read_of_registerReads hreads hexec
    rw [hb, ho] at hread
    exact hread
  · rw [passWrite_of_may _ hmay, trap_handler_sets hb hi ho, if_neg (by rw [hcan]; decide)]
    rfl
  · have hread := read_of_registerReads (trap_enable_reads ⟨harrived, hspecial, hmay, by omega⟩ hb hi ho) hexec
    rw [hb, ho] at hread
    exact hread
  · have hread := read_of_registerReads (queue_word_reads ⟨harrived, hspecial, hmay, by omega⟩ hb hi (.inr ⟨.inr ho, rfl⟩)) hexec
    rw [hb, ho] at hread
    exact hread
  · have hread := read_of_registerReads (tinvva_reads ⟨harrived, hspecial, hmay, by omega⟩ hb hi ho) hexec
    rw [hb, ho] at hread
    exact hread
  · have hread := read_of_registerReads (vdev_word_reads ⟨harrived, hspecial, hmay, by omega⟩ hb hi (.inr (.inr (.inl ⟨ho, rfl⟩)))) hexec
    rw [hb, ho] at hread
    exact hread

/-! ## Register writes with events of their own -/

theorem mayWrite_of_hypervisor {s : State} {w : RegWrite} (hw : w.writer = .hypervisor) (hp : w.block ≠ .partition) (hg : w.block ≠ .guest)
    (hcmd : ¬ (w.block = .vdev ∧ w.offset = 0x38)) : MayWrite s w := by
  unfold MayWrite
  rw [hw]
  exact ⟨⟨hp, hg⟩, .inr fun h => h.elim hp hcmd⟩

theorem mayWrite_of_guest {s : State} {w : RegWrite} (hw : w.writer = .guest) (hb : w.block = .guest) : MayWrite s w := by
  unfold MayWrite
  rw [hw, hb]
  exact ⟨rfl, .inr fun h => h.elim nofun fun h => nomatch h.1⟩

theorem onWrite_runs {s : State} {w : RegWrite} {mine : RegWrite → Bool} (f : RegWrite → State → State) (h : Arrived s w) (hmay : MayWrite s w)
    (hm : mine w = true) : onWrite s mine f = .next (f w (taken s w)) := by
  rw [onWrite_of_arrived f h hm, passWrite_of_may f hmay]

theorem device_withDevice (s : State) (v : Nat) (f : Device → Device) (u : Nat) : (s.withDevice v f).device u = if u = v then f (s.device v) else s.device u :=
  tabGet_put ..

theorem otherDevices_withDevice (s : State) (v : Nat) (f : Device → Device) : OtherDevices s (s.withDevice v f) v := fun u hu =>
  (device_withDevice s v f u).trans (if_neg hu)

theorem get_mapAll {α : Type} (t : Tab α) (f : Nat → α → α) (n : Nat) (d : α) (hf : f n d = d) : (t.mapAll f).get n d = f n (t.get n d) := by
  unfold Tab.get
  rw [Tab.look_mapAll]
  cases t.look n with
  | none => exact hf.symm
  | some x => rfl

/-! ### Keepers (R72, R73) -/

/-- A die one of whose keepers has ended, the fills in flight included. -/
def keeperEnded (d : Die) (k : Nat) : Die :=
  { d.endKeeper k with fills := d.fills.map fun f => if f.keeper == some k then { f with keeper := none } else f }

theorem l2_keeperEnded (d : Die) (k n : Nat) : (keeperEnded d k).l2.get n [] =
    (d.l2.get n []).map fun y => if y.kept == some k then { y with kept := none } else y :=
  get_mapAll d.l2 (fun _ ls => ls.map fun (y : L2Line) => if y.kept == some k then { y with kept := none } else y) n [] rfl

theorem endKeeper_spec (s : State) (d k : Nat) : let t := s.endKeeper d k
    SameMemory s t ∧ ((t.die d).keepers.get k Keeper.free).en = false ∧ ((t.die d).keepers.get k Keeper.free).ways = []
    ∧ (∀ n y, y ∈ (t.die d).l2.get n [] → y.kept ≠ some k) ∧ (∀ y ∈ (t.die d).fills, y.keeper ≠ some k)
    ∧ (∀ r ∈ t.requests, ∀ ef, r.kind ≠ .load d (some k) ef ∧ r.kind ≠ .own d (some k) ef)
    ∧ ∀ j, j ≠ k → (t.die d).keepers.look j = (s.die d).keepers.look j := by
  intro t
  have hdie : t.die d = keeperEnded (s.die d) k := die_withDie_self s d fun x => keeperEnded x k
  have hkeeper : (t.die d).keepers.get k Keeper.free = { (s.die d).keepers.get k Keeper.free with en := false, ways := [] } := by
    rw [hdie]
    exact get_change (s.die d).keepers k (fun x : Keeper => { x with en := false, ways := [] }) Keeper.free rfl
  refine ⟨fun _ => ⟨rfl, rfl, rfl⟩, by rw [hkeeper], by rw [hkeeper], fun n y hy => ?_, fun y hy => ?_, fun r hr ef => ?_, fun j hj => ?_⟩
  · rw [hdie, l2_keeperEnded] at hy
    obtain ⟨z, -, rfl⟩ := List.mem_map.1 hy
    split
    · simp
    · next h => simpa using h
  · rw [hdie] at hy
    obtain ⟨z, -, rfl⟩ := List.mem_map.1 hy
    split
    · simp
    · next h => simpa using h
  · obtain ⟨q, -, rfl⟩ := List.mem_map.1 hr
    dsimp only
    split
    · next a j ef' hk =>
      split
      · exact ⟨by simp, by simp⟩
      · next hne =>
        rw [hk]
        exact ⟨fun h => hne (by cases h; exact ⟨rfl, rfl⟩), by simp⟩
    · next a j ef' hk =>
      split
      · exact ⟨by simp, by simp⟩
      · next hne =>
        rw [hk]
        exact ⟨by simp, fun h => hne (by cases h; exact ⟨rfl, rfl⟩)⟩
    · next x h1 h2 => exact ⟨fun h => h1 _ _ _ h, fun h => h2 _ _ _ h⟩
  · rw [hdie]
    exact (Tab.look_change ..).trans (if_neg hj)

theorem kctlWrite_spec : ∀ s w, Arrived s w → w.block = .keeper → w.writer = .hypervisor →
    let ends : Prop := w.offset % 0x20 = 0x10 ∧ w.offset < 0x100 ∧ w.index < 4 ∧ w.value.getLsbD 63 = false
    (¬ ends → exec .kctlWrite s = .next (taken s w))
    ∧ (ends → Completes s .kctlWrite fun t => SameMemory s t
        ∧ (let k := (t.die w.index).keepers.get (w.offset / 0x20) Keeper.free
           k.en = false ∧ k.ways = [])
        ∧ (∀ n y, y ∈ (t.die w.index).l2.get n [] → y.kept ≠ some (w.offset / 0x20))
        ∧ (∀ y ∈ (t.die w.index).fills, y.keeper ≠ some (w.offset / 0x20))
        ∧ (∀ r ∈ t.requests, ∀ ef, r.kind ≠ .load w.index (some (w.offset / 0x20)) ef ∧ r.kind ≠ .own w.index (some (w.offset / 0x20)) ef)
        ∧ ∀ k, k ≠ w.offset / 0x20 → (t.die w.index).keepers.look k = (s.die w.index).keepers.look k) := by
  intro s w harrived hb hw ends
  have hexec : exec .kctlWrite s = .next (if ends then (taken s w).endKeeper w.index (w.offset / 0x20) else taken s w) := by
    change execKctlWrite s = _
    exact onWrite_runs _ harrived (mayWrite_of_hypervisor hw (by rw [hb]; decide) (by rw [hb]; decide) (by rw [hb]; exact nofun)) (by rw [hb]; rfl)
  refine ⟨fun h => by rw [hexec, if_neg h], fun h => ⟨_, hexec, ?_⟩⟩
  rw [if_pos h]
  obtain ⟨h1, h2, h3, h4, h5, h6, h7⟩ := endKeeper_spec (taken s w) w.index (w.offset / 0x20)
  exact ⟨h1, ⟨h2, h3⟩, h4, h5, h6, h7⟩

/-! ### Ways of the LLC (R404) -/

/-- A slice without the lines in the ways of a mask. -/
def keptWays (lost : DWord) (x : Slice) : Slice := { x with sets := x.sets.mapAll fun _ ls => ls.filter fun y => !lost.getLsbD y.way }

theorem sets_keptWays (lost : DWord) (x : Slice) (m : Nat) :
    (keptWays lost x).sets.get m [] = (x.sets.get m []).filter fun y => !lost.getLsbD y.way :=
  get_mapAll x.sets (fun _ ls => ls.filter fun y => !lost.getLsbD y.way) m [] rfl

theorem pllcwWrite_spec : ∀ s w, Arrived s w → s.module.svc ≠ 0 → w.block = .partition → w.offset = 0x10 → w.writer = .monitor → w.index < 24 →
    let v := w.value &&& 0xFFFFFF#64
    let old := (s.partition w.index).ctl.get 0x10 0
    ((∃ x ∈ s.partitions, x.1 ≠ w.index ∧ x.2.ctl.get 0x10 0 &&& v ≠ 0) →
      exec .pllcwWrite s = .next (taken s w))
    ∧ ((∀ x ∈ s.partitions, x.1 ≠ w.index → x.2.ctl.get 0x10 0 &&& v = 0) → Completes s .pllcwWrite fun t => SameMemory s t
        ∧ (t.partition w.index).ctl.get 0x10 0 = v
        ∧ ∀ n m y, y ∈ (t.slice n).sets.get m [] → ¬ (old.getLsbD y.way = true ∧ v.getLsbD y.way = false)) := by
  intro s w harrived hsvc hb ho hw hi v old
  have hmay : MayWrite s w := by
    unfold MayWrite
    rw [hw]
    exact ⟨hb, .inl hsvc⟩
  let lost := old &&& ~~~v
  let done : State := { (taken s w).setPctl w.index 0x10 v with slices := s.slices.mapAll fun _ => keptWays lost }
  have hexec : exec .pllcwWrite s = .next (if Config.partitions ≤ w.index ∨ s.maskTaken w.index 0x10 v = true then taken s w else done) := by
    change execPllcwWrite s = _
    refine (onWrite_runs _ harrived hmay (by rw [hb, ho]; rfl)).trans ?_
    rw [show lowMask 24 = 0xFFFFFF#64 by decide]
    rfl
  refine ⟨fun h => by rw [hexec, if_pos (.inr ((maskTaken_iff ..).2 h))], fun h => ⟨done, ?_, fun _ => ⟨rfl, rfl, rfl⟩, ?_, fun n m y hy => ?_⟩⟩
  · rw [hexec, if_neg]
    rintro (hp | htaken)
    · exact not_partitions_le hi hp
    · obtain ⟨x, hx, hne, hand⟩ := (maskTaken_iff ..).1 htaken
      exact hand (h x hx hne)
  · have hpart : done.partition w.index = { s.partition w.index with ctl := (s.partition w.index).ctl.put 0x10 v } := (tabGet_put ..).trans (if_pos rfl)
    rw [hpart]
    exact Tab.get_put_self ..
  · have hslice : done.slice n = keptWays lost (s.slice n) := get_mapAll s.slices (fun _ => keptWays lost) n Slice.reset rfl
    rw [hslice, sets_keptWays] at hy
    rintro ⟨hold, hnew⟩
    have hlost : lost.getLsbD y.way = true := by
      have hlt : y.way < 64 := BitVec.lt_of_getLsbD hold
      unfold lost
      rw [BitVec.getLsbD_and, BitVec.getLsbD_not, hold, hnew, decide_eq_true hlt]
      rfl
    have hkeep := (List.mem_filter.1 hy).2
    rw [hlost] at hkeep
    cases hkeep

/-! ### Removed translations (R23, R25, R26) -/

/-- The entry translates a page of a device in a range. -/
def removed (v lo hi : Nat) (e : TlbEntry) : Bool := e.vd == v && decide (e.page.base < hi ∧ lo < e.page.base + e.page.size)

/-- Two cores with the same TLBs but for the entries of a range. -/
structure TlbRemoved (v lo hi : Nat) (x x' : Core) : Prop where
  tlb1 : x'.tlb1 = x.tlb1.filter fun e => !removed v lo hi e
  tlb2 : ∀ n, x'.tlb2.get n [] = (x.tlb2.get n []).filter fun e => !removed v lo hi e

theorem tlbRemoved_tlbRemove (v lo hi : Nat) (x : Core) : TlbRemoved v lo hi x (x.tlbRemove v lo hi) :=
  ⟨rfl, fun n => get_mapAll x.tlb2 (fun _ es => es.filter fun (e : TlbEntry) => !removed v lo hi e) n [] rfl⟩

theorem not_removed_of_tlbRemoved {v lo hi : Nat} {x x' : Core} (h : TlbRemoved v lo hi x x') {e : TlbEntry}
    (he : e ∈ x'.tlb1 ∨ ∃ n, e ∈ x'.tlb2.get n []) (hv : e.vd = v) : ¬ (e.page.base < hi ∧ lo < e.page.base + e.page.size) := by
  have hkept : (!removed v lo hi e) = true := by
    rcases he with he | ⟨n, he⟩
    · rw [h.tlb1] at he
      exact (List.mem_filter.1 he).2
    · rw [h.tlb2] at he
      exact (List.mem_filter.1 he).2
  unfold removed at hkept
  rw [hv, beq_self_eq_true, Bool.true_and, Bool.not_eq_true', decide_eq_false_iff_not] at hkept
  exact hkept

/-- The removal of translations of a device changes cores and dies only. -/
theorem dropTranslations_spec (s : State) (v lo hi : Nat) : let t := s.dropTranslations v lo hi
    (∃ c d, t = { s with cores := c, dies := d }) ∧ NoTranslation t v lo hi ∧ ∀ c, TlbRemoved v lo hi (s.core c) (t.core c) := by
  intro t
  refine ⟨⟨_, _, rfl⟩, fun x hx e he hv => ?_, fun c => ?_⟩
  · obtain ⟨y, hy, rfl⟩ := List.mem_map.1 hx
    obtain ⟨z, -, rfl⟩ := List.mem_map.1 hy
    exact not_removed_of_tlbRemoved (x := z.2) (tlbRemoved_tlbRemove v lo hi z.2) he hv
  · obtain ⟨Y, hcore⟩ := core_mapAllGroups { s with
      cores := s.cores.mapAll fun _ x => x.tlbRemove v lo hi,
      dies := s.dies.mapAll fun _ d => { d with nonleaf := d.nonleaf.filter fun e =>
        !(e.vd == v && decide (e.index * 2 ^ (12 + 9 * e.level) < hi ∧ lo < (e.index + 1) * 2 ^ (12 + 9 * e.level))) } }
      (fun g => if s.vdOf g = v then { g with walked := g.walked.filter fun r => !walkedIn lo hi r } else g) c
    have hget : (s.cores.mapAll fun _ x => x.tlbRemove v lo hi).get c Core.reset = (s.core c).tlbRemove v lo hi :=
      get_mapAll s.cores (fun _ x => x.tlbRemove v lo hi) c Core.reset rfl
    have h1 : t.core c = _ := hcore
    obtain ⟨h2, h3⟩ := tlbRemoved_tlbRemove v lo hi (s.core c)
    rw [h1]
    refine ⟨?_, ?_⟩
    · rw [← h2, ← hget]
      rfl
    · intro n
      rw [← h3, ← hget]
      rfl

theorem tinvWrite_spec : ∀ s w, Arrived s w → w.block = .xlate → w.offset = 0x40 → w.writer = .hypervisor → w.index < 128 →
    let d := s.device w.index
    let mode := (w.value.extractLsb' 61 2).toNat
    let base := (d.xlate.get 0x48 0).toNat / 4096 * 4096
    let n := (w.value.extractLsb' 0 32).toNat
    let r : Nat × Nat := if mode = 0 then (0, 2 ^ 64) else if n = 0 then (0, 0) else (base, base + 4096 * n)
    (d.tinv ≠ none ∨ 2 ≤ mode → exec .tinvWrite s = .next ((taken s w).withDevice w.index fun x => { x with tinvErr := true }))
    ∧ (d.tinv = none → mode < 2 → Completes s .tinvWrite fun t => SameMemory s t ∧ OtherDevices s t w.index
        ∧ (t.device w.index).tinv = some r ∧ (t.device w.index).tinvErr = false ∧ NoTranslation t w.index r.1 r.2
        ∧ (mode = 1 → n = 0 → ∀ c, (t.core c).tlb1 = (s.core c).tlb1)) := by
  intro s w harrived hb ho hw hi d mode base n r
  have hmode : bits w.value 61 2 = mode := bits_eq ..
  have hn : bits w.value 0 32 = n := bits_eq ..
  have hexec : exec .tinvWrite s = .next (if d.tinv.isSome ∨ 2 ≤ mode then (taken s w).withDevice w.index fun x => { x with tinvErr := true }
      else ((taken s w).dropTranslations w.index r.1 r.2).withDevice w.index fun x =>
        { x with tinv := some r, tinvErr := false, xlate := x.xlate.put 0x40 (w.value &&& (bitsMask 61 2 ||| lowMask 32)) }) := by
    change execTinvWrite s = _
    refine (onWrite_runs _ harrived (mayWrite_of_hypervisor hw (by rw [hb]; decide) (by rw [hb]; decide) (by rw [hb]; exact nofun)) (by rw [hb, ho]; rfl)).trans ?_
    dsimp only
    rw [if_neg (not_vds_le hi), hmode, hn]
    rfl
  refine ⟨fun h => by rw [hexec, if_pos (h.imp_left Option.isSome_iff_ne_none.2)], fun hnone hlt => ⟨_, hexec, ?_⟩⟩
  have hgo : ¬ (d.tinv.isSome = true ∨ 2 ≤ mode) := by
    rw [hnone]
    exact fun h => h.elim nofun fun h => absurd hlt (Nat.not_lt.2 h)
  rw [if_neg hgo]
  obtain ⟨⟨c, D, hframe⟩, hgone, htlb⟩ := dropTranslations_spec (taken s w) w.index r.1 r.2
  refine ⟨by rw [hframe]; exact fun _ => ⟨rfl, rfl, rfl⟩, fun u hu => ?_, ?_, ?_, hgone, fun h1 h0 k => ?_⟩
  · rw [device_withDevice, if_neg hu, hframe]
    rfl
  · rw [device_withDevice, if_pos rfl]
  · rw [device_withDevice, if_pos rfl]
  · have hr : r = (0, 0) := by
      unfold r
      rw [h1, h0, if_neg (by decide), if_pos rfl]
    refine (htlb k).tlb1.trans (List.filter_eq_self.2 fun e _ => ?_)
    rw [hr]
    unfold removed
    simp

theorem translationsOver_iff (s : State) (v lo hi : Nat) : s.translationsOver v lo hi = true ↔ NoneUnderWay s v lo hi := by
  have hreq : ∀ r : HomeReq, (match r.kind with | .load _ _ _ => false | .writeBack _ _ => false | _ => true) = false
      ↔ (∃ d k ef, r.kind = .load d k ef) ∨ ∃ d tag, r.kind = .writeBack d tag := fun r => by
    cases r.kind <;> simp
  unfold State.translationsOver NoneUnderWay
  simp only [Bool.and_eq_true, Bool.not_eq_true', List.any_eq_false, and_assoc]
  refine and_congr ?_ (and_congr ?_ (and_congr ?_ ?_))
  · refine forall_congr' fun x => imp_congr_right fun _ => ?_
    simp
  · refine forall_congr' fun r => imp_congr_right fun _ => ?_
    rw [← hreq]
    by_cases hv : r.vd = v
    · simp only [hv, beq_self_eq_true, true_and, Bool.not_eq_true, ne_eq, not_true_eq_false, false_or] <;> rfl
    · simp [hv]
  · refine forall_congr' fun x => imp_congr_right fun _ => ?_
    simp
  · refine forall_congr' fun o => imp_congr_right fun _ => ?_
    simp

theorem tinvComplete_spec : (∀ s v y z lo hi, OfObject s v y z → (s.device v).tinv = some (lo, hi) → NoneUnderWay s v lo hi →
      ∃ ps, exec .tinvComplete s = .next ({ s with verPages := ps }.withDevice v fun d => { d with tinv := none }))
    ∧ (∀ s v y z lo hi, OfObject s v y z → (s.device v).tinv = some (lo, hi) → ¬ NoneUnderWay s v lo hi → exec .tinvComplete s = .next s) := by
  have hexec : ∀ s v y z lo hi, OfObject s v y z → (s.device v).tinv = some (lo, hi) → exec .tinvComplete s =
      if s.translationsOver v lo hi = true then .next ((s.recheckPages v).withDevice v fun d => { d with tinv := none }) else .next s := by
    intro s v y z lo hi hobj htinv
    change execTinvComplete s = _
    unfold execTinvComplete
    rw [object_of hobj]
    dsimp only
    rw [htinv]
  refine ⟨fun s v y z lo hi hobj htinv hover => ⟨_, (hexec s v y z lo hi hobj htinv).trans (if_pos ((translationsOver_iff ..).2 hover))⟩,
    fun s v y z lo hi hobj htinv hno => (hexec s v y z lo hi hobj htinv).trans (if_neg (hno ∘ (translationsOver_iff ..).1))⟩

theorem hasGroups_iff (s : State) (v : Nat) : s.hasGroups v = true ↔
    (∃ g ∈ s.allGroups, s.vdOf g.2.2 = v) ∨ ∃ y ∈ s.allGangs, s.gangVd y.2.2 = v ∧ y.2.2.saved.groups ≠ [] := by
  unfold State.hasGroups
  simp only [Bool.or_eq_true, List.any_eq_true, beq_iff_eq, Bool.and_eq_true, Bool.not_eq_true', List.isEmpty_eq_false_iff, ne_eq]

theorem grootWrite_spec : ∀ s w, Arrived s w → w.block = .xlate → w.offset = 0 → w.writer = .hypervisor → w.index < 128 →
    ((∃ l ∈ s.launches, l.2.vd = w.index) ∨ (∃ g ∈ s.allGroups, s.vdOf g.2.2 = w.index)
        ∨ (∃ y ∈ s.allGangs, s.gangVd y.2.2 = w.index ∧ y.2.2.saved.groups ≠ []) → exec .grootWrite s = .next (taken s w))
    ∧ ((∀ l ∈ s.launches, l.2.vd ≠ w.index) → (∀ g ∈ s.allGroups, s.vdOf g.2.2 ≠ w.index)
        → (∀ y ∈ s.allGangs, s.gangVd y.2.2 = w.index → y.2.2.saved.groups = []) → Completes s .grootWrite fun t =>
        SameMemory s t ∧ OtherDevices s t w.index ∧ (t.device w.index).xlate.get 0 0 = w.value &&& 0x3FFFFFFFFC01#64
        ∧ NoTranslation t w.index 0 (2 ^ 64)) := by
  intro s w harrived hb ho hw hi
  have hlaunch : (s.launches.any fun l => l.2.vd == w.index) = true ↔ ∃ l ∈ s.launches, l.2.vd = w.index := by
    simp only [List.any_eq_true, beq_iff_eq]
  have hexec : exec .grootWrite s = .next (if Config.vds ≤ w.index ∨ s.hasGroups w.index = true ∨ (s.launches.any fun l => l.2.vd == w.index) = true then
        taken s w
      else ((taken s w).dropTranslations w.index 0 (2 ^ 64)).withDevice w.index fun d =>
        { d with xlate := d.xlate.put 0 (w.value &&& 0x3FFFFFFFFC01#64) }) := by
    change execGrootWrite s = _
    refine (onWrite_runs _ harrived (mayWrite_of_hypervisor hw (by rw [hb]; decide) (by rw [hb]; decide) (by rw [hb]; exact nofun)) (by rw [hb, ho]; rfl)).trans ?_
    rw [show bitsMask 10 36 ||| 1#64 = 0x3FFFFFFFFC01#64 by decide]
    rfl
  refine ⟨fun h => ?_, fun h1 h2 h3 => ⟨_, hexec, ?_⟩⟩
  · rw [hexec, if_pos]
    rcases h with h | h
    · exact .inr (.inr (hlaunch.2 h))
    · exact .inr (.inl ((hasGroups_iff ..).2 h))
  · rw [if_neg]
    · obtain ⟨⟨c, D, hframe⟩, hgone, -⟩ := dropTranslations_spec (taken s w) w.index 0 (2 ^ 64)
      refine ⟨by rw [hframe]; exact fun _ => ⟨rfl, rfl, rfl⟩, fun u hu => ?_, ?_, hgone⟩
      · rw [device_withDevice, if_neg hu, hframe]
        rfl
      · rw [device_withDevice, if_pos rfl]
        exact Tab.get_put_self ..
    · rintro (hv | hg | hl)
      · exact not_vds_le hi hv
      · rcases (hasGroups_iff ..).1 hg with ⟨g, hg, hv⟩ | ⟨y, hy, hv, hne⟩
        · exact h2 g hg hv
        · exact hne (h3 y hy hv)
      · obtain ⟨l, hl, hv⟩ := hlaunch.1 hl
        exact h1 l hl hv

/-! ### Wakes, doorbells and ends (R419, R428) -/

/-- What a wake does to a device. -/
theorem wake_eq (d : Device) : d.wake =
    if d.state = .collapsed then { d with state := .waking } else if d.state = .collapsing then { d with wakeHeld := true } else d := by
  unfold Device.wake
  cases h : d.state <;> rfl

theorem wakes_spec : ∀ s w, w.index < 128 →
    let wakes (t : State) : State := t.withDevice w.index fun d =>
      if d.state = .collapsed then { d with state := .waking } else if d.state = .collapsing then { d with wakeHeld := true } else d
    (w.block = .vdev → w.offset = 0x48 → w.writer = .hypervisor → Takes s w .vwakeWrite wakes)
    ∧ (w.block = .guest → w.offset = 0 → w.writer = .guest → Takes s w .gwakeWrite wakes)
    ∧ (w.block = .guest → w.offset = 0x10 → w.writer = .guest → Takes s w .gdoorWrite fun t =>
        { t with msix := t.msix ++ [4 * w.index + w.value.toNat % 4] }) := by
  intro s w hi wakes
  have hlt : w.index < Config.vds := hi
  have hwakes : ∀ t : State, t.withDevice w.index Device.wake = wakes t := fun t => by rw [funext wake_eq]
  refine ⟨fun hb ho hw harrived => ?_, fun hb ho hw harrived => ?_, fun hb ho hw harrived => ?_⟩
  · change execVwakeWrite s = _
    refine (onWrite_runs _ harrived (mayWrite_of_hypervisor hw (by rw [hb]; decide) (by rw [hb]; decide) (by rw [ho]; exact fun h => nomatch h.2))
      (by rw [hb, ho]; rfl)).trans ?_
    rw [if_pos hlt, hwakes]
  · change execGwakeWrite s = _
    refine (onWrite_runs _ harrived (mayWrite_of_guest hw hb) (by rw [hb, ho]; rfl)).trans ?_
    rw [if_pos hlt, hwakes]
  · change execGdoorWrite s = _
    refine (onWrite_runs _ harrived (mayWrite_of_guest hw hb) (by rw [hb, ho]; rfl)).trans ?_
    unfold bits
    rw [Nat.pow_zero, Nat.div_one]
    rfl

/-- A launch that is to end with a detail, unless it has ended. -/
def endedLaunch (detail : Nat) (x : Launch) : Launch := if x.ended.isSome then x else { x with ended := some detail, blocked := false }

theorem endedLaunch_kept (detail : Nat) (x : Launch) :
    (endedLaunch detail x).pkt = x.pkt ∧ (endedLaunch detail x).ended = some (x.ended.getD detail) := by
  unfold endedLaunch
  cases h : x.ended with
  | none => exact ⟨rfl, rfl⟩
  | some d => exact ⟨rfl, h⟩

theorem launches_endLaunch (s : State) (l detail i : Nat) :
    (s.endLaunch l detail).launches.look i = if i = l then (s.launches.look l).map (endedLaunch detail) else s.launches.look i := by
  generalize hr : (if i = l then (s.launches.look l).map (endedLaunch detail) else s.launches.look i) = r
  unfold State.endLaunch
  split
  · next hx =>
    rw [← hr, hx]
    by_cases hi : i = l
    · rw [if_pos hi, hi, hx]
      rfl
    · rw [if_neg hi]
  · next x hx =>
    rw [hx, Option.map_some] at hr
    split
    · next hended =>
      rw [← hr, endedLaunch, if_pos hended]
      by_cases hi : i = l
      · rw [if_pos hi, hi, hx]
      · rw [if_neg hi]
    · next hended =>
      rw [endedLaunch, if_neg hended] at hr
      extract_lets s1 s2 saved s3 s4
      have h2 : GroupsEnd s1 s2 := .foldl (fun a (z : Nat × Nat × Group) => groupsEnd_endGroup a z.1 z.2.1) _ s1
      have h3 : GroupsEnd s2 s3 := .foldl (fun a (z : Nat × Nat × Nat × Group) => groupsEnd_endSaved a z.1 z.2.1 z.2.2.1 z.2.2.2) _ s2
      obtain ⟨q, u, more, n, c, h4⟩ : GroupsEnd s1 s4 := (h2.trans h3).trans (.of_eq ⟨_, _, _, _, rfl⟩)
      have hlaunches : s4.launches.look i = r := by
        rw [h4, ← hr]
        refine (Tab.look_change ..).trans ?_
        rw [hx]
        rfl
      split
      · next h' n' _ =>
        obtain ⟨⟨N, H, hk⟩, -⟩ := killChannel_spec s4 h' n'
        rw [hk]
        exact hlaunches
      · exact hlaunches

theorem launches_endLaunches (detail : Nat) (ls : List Nat) (s : State) (i : Nat) :
    ((ls.foldl (fun a l => a.endLaunch l detail) s).launches.look i).map (fun m => (m.pkt, m.ended))
      = (s.launches.look i).map fun l => (l.pkt, if i ∈ ls then some (l.ended.getD detail) else l.ended) := by
  induction ls generalizing s with
  | nil =>
    simp
  | cons l rest ih =>
    rw [List.foldl_cons, ih, launches_endLaunch]
    by_cases hi : i = l
    · subst hi
      rw [if_pos rfl, Option.map_map]
      congr 1
      funext x
      obtain ⟨h1, h2⟩ := endedLaunch_kept detail x
      rw [Function.comp_apply, h1, h2, if_pos List.mem_cons_self]
      split <;> rfl
    · rw [if_neg hi]
      simp [hi]

theorem memory_endLaunches (detail : Nat) (ls : List Nat) (s : State) : let t := ls.foldl (fun a l => a.endLaunch l detail) s
    t.mem = s.mem ∧ t.host = s.host ∧ t.store = s.store := by
  induction ls generalizing s with
  | nil => exact ⟨rfl, rfl, rfl⟩
  | cons l rest ih =>
    obtain ⟨h1, h2, h3⟩ := ih (s.endLaunch l detail)
    obtain ⟨q, r, more, n, c, L, H, heq⟩ := (launchEnds_endLaunch s l detail).eq
    refine ⟨h1.trans ?_, h2.trans ?_, h3.trans ?_⟩
    · rw [heq]
    · rw [heq]
    · rw [heq]

theorem look_eq_some_iff_of_rising {α : Type} {t : Tab α} (h : Rising t) (i : Nat) (x : α) : t.look i = some x ↔ (i, x) ∈ t := by
  induction t with
  | nil => exact ⟨nofun, nofun⟩
  | cons y rest ih =>
    obtain ⟨k, v⟩ := y
    obtain ⟨hfirst, hrest⟩ := List.pairwise_cons.1 h
    unfold Tab.look
    by_cases hk : k = i
    · subst hk
      rw [if_pos rfl]
      refine ⟨fun hv => by cases hv; exact List.mem_cons_self, fun hmem => ?_⟩
      rcases List.mem_cons.1 hmem with heq | hmem
      · cases heq; rfl
      · exact absurd (hfirst _ hmem) (Nat.lt_irrefl _)
    · rw [if_neg hk, ih hrest, List.mem_cons, or_iff_right]
      rintro heq
      cases heq
      exact hk rfl

theorem gendWrite_spec : ∀ s w, Arrived s w → w.block = .guest → w.offset = 8 → w.writer = .guest → Rising s.launches → Completes s .gendWrite fun t =>
    SameMemory s t
    ∧ ∀ i l, s.launches.look i = some l → ∃ m, t.launches.look i = some m ∧ m.pkt = l.pkt
        ∧ m.ended = (if l.vd = w.index ∧ pkDone l.pkt = w.value.toNat then some (l.ended.getD 1) else l.ended) := by
  intro s w harrived hb ho hw hrising
  let keys := (s.launches.filter fun l => l.2.vd == w.index && pkDone l.2.pkt == w.value.toNat).map (·.1)
  have hexec : exec .gendWrite s = .next (keys.foldl (fun a l => a.endLaunch l 1) (taken s w)) := by
    change execGendWrite s = _
    exact onWrite_runs _ harrived (mayWrite_of_guest hw hb) (by rw [hb, ho]; rfl)
  obtain ⟨h1, h2, h3⟩ := memory_endLaunches 1 keys (taken s w)
  refine ⟨_, hexec, fun a => ⟨by rw [h1]; rfl, by rw [h2]; rfl, by rw [h3]; rfl⟩, fun i l hl => ?_⟩
  have hkeys : i ∈ keys ↔ l.vd = w.index ∧ pkDone l.pkt = w.value.toNat := by
    constructor
    · intro hmem
      obtain ⟨⟨j, x⟩, hx, rfl⟩ := List.mem_map.1 hmem
      obtain ⟨hx, hc⟩ := List.mem_filter.1 hx
      obtain rfl := Option.some.inj (((look_eq_some_iff_of_rising hrising j x).2 hx).symm.trans hl)
      simpa using hc
    · rintro ⟨hv, hd⟩
      exact List.mem_map.2 ⟨(i, l), List.mem_filter.2 ⟨(look_eq_some_iff_of_rising hrising i l).1 hl, by simp [hv, hd]⟩, rfl⟩
  have hlook := launches_endLaunches 1 keys (taken s w) i
  rw [show (taken s w).launches.look i = some l from hl] at hlook
  obtain ⟨m, hm, hpair⟩ := Option.map_eq_some_iff.1 hlook
  obtain ⟨hpkt, hended⟩ := Prod.mk.inj hpair
  refine ⟨m, hm, hpkt, hended.trans ?_⟩
  by_cases hc : i ∈ keys
  · rw [if_pos hc, if_pos (hkeys.1 hc)]
  · rw [if_neg hc, if_neg (hc ∘ hkeys.2)]

/-! ### The tails of shadow queues (R429, R430, R419) -/

theorem sqtail_special {w : RegWrite} (hb : w.block = .queue) (ho : w.offset = 8 ∨ w.offset = 0x28 ∨ w.offset = 0x48 ∨ w.offset = 0x68) :
    (w.block == .queue && writeSpecial w && w.offset != 0x98) = true := by
  unfold writeSpecial
  rw [hb]
  rcases ho with ho | ho | ho | ho
  · rw [ho]; rfl
  · rw [ho]; rfl
  · rw [ho]; rfl
  · rw [ho]; rfl

theorem sqtailWrite_spec : ∀ s w, Arrived s w → w.block = .queue → (w.offset = 8 ∨ w.offset = 0x28 ∨ w.offset = 0x48 ∨ w.offset = 0x68) →
    w.writer = .hypervisor → w.index < 128 →
    let d := s.device w.index
    let q := w.offset / 0x20
    let tail := (w.value.extractLsb' 0 32).toNat
    let head := ((d.queue.get (32 * q + 0x10) 0).extractLsb' 0 32).toNat
    let n := 2 ^ min ((d.queue.get (32 * q) 0).extractLsb' 0 4).toNat 12
    (n < (tail + 2 ^ 32 - head) % 2 ^ 32 → exec .sqtailWrite s = .next (taken s w))
    ∧ ((tail + 2 ^ 32 - head) % 2 ^ 32 ≤ n → Completes s .sqtailWrite fun t => SameMemory s t ∧ OtherDevices s t w.index
        ∧ (t.device w.index).queue.get w.offset 0 = BitVec.ofNat 64 tail
        ∧ (d.state = .collapsed → tail ≠ head → (t.device w.index).state = .waking)
        ∧ (d.state ≠ .collapsed → (t.device w.index).state = d.state)) := by
  intro s w harrived hb ho hw hi d q tail head n
  have htail : bits w.value 0 32 = tail := bits_eq ..
  have hhead : d.sqHead q = head := bits_eq ..
  have hslots : d.sqSlots q = n := by
    unfold Device.sqSlots
    rw [bits_eq]
  have hoff : w.offset = 32 * q + 8 := by
    unfold q
    omega
  have hq : q < 4 := by
    unfold q
    omega
  let y : Device := { d with queue := d.queue.put w.offset (BitVec.ofNat 64 tail) }
  have hexec : exec .sqtailWrite s = .next (if Config.vds ≤ w.index ∨ n < (tail + 2 ^ 32 - head) % 2 ^ 32 then taken s w
      else (taken s w).withDevice w.index fun _ => if (List.range 4).any fun i => y.sqHead i != y.sqTail i then y.wake else y) := by
    change execSqtailWrite s = _
    refine (onWrite_runs _ harrived (mayWrite_of_hypervisor hw (by rw [hb]; decide) (by rw [hb]; decide) (by rw [hb]; exact nofun))
      (sqtail_special hb ho)).trans ?_
    dsimp only
    rw [htail, show ((taken s w).device w.index).sqSlots (w.offset / 0x20) = n from hslots,
      show ((taken s w).device w.index).sqHead (w.offset / 0x20) = head from hhead]
    rfl
  refine ⟨fun h => by rw [hexec, if_pos (.inr h)], fun h => ⟨_, hexec, ?_⟩⟩
  rw [if_neg fun hc => hc.elim (not_vds_le hi) (Nat.not_lt.2 h)]
  have hstate : ∀ x : Device, x.state ≠ .collapsed → x.wake.state = x.state := fun x hx => by
    rw [wake_eq, if_neg hx]
    split <;> rfl
  have hqueue : ∀ x : Device, x.wake.queue = x.queue := fun x => by
    rw [wake_eq]
    split
    · rfl
    · split <;> rfl
  refine ⟨fun _ => ⟨rfl, rfl, rfl⟩, otherDevices_withDevice (taken s w) w.index _, ?_, fun hcol hne => ?_, fun hcol => ?_⟩
  · rw [device_withDevice, if_pos rfl]
    split
    · rw [hqueue]
      exact Tab.get_put_self ..
    · exact Tab.get_put_self ..
  · have hany : ((List.range 4).any fun i => y.sqHead i != y.sqTail i) = true := by
      refine List.any_eq_true.2 ⟨q, List.mem_range.2 hq, bne_iff_ne.2 ?_⟩
      have h1 : y.sqHead q = head := by
        rw [← hhead]
        unfold Device.sqHead y
        rw [Tab.get_put_ne _ _ _ _ _ (by omega)]
      have h2 : y.sqTail q = tail := by
        have hlt : tail < 2 ^ 32 := (w.value.extractLsb' 0 32).isLt
        unfold Device.sqTail y bits
        dsimp only
        rw [show 0x20 * q + 8 = w.offset from hoff.symm, Tab.get_put_self, BitVec.toNat_ofNat, Nat.pow_zero, Nat.div_one, Nat.mod_mod_of_dvd _ (by decide),
          Nat.mod_eq_of_lt hlt]
      rw [h1, h2]
      exact hne.symm
    rw [device_withDevice, if_pos rfl, if_pos hany, wake_eq, if_pos (show y.state = .collapsed from hcol)]
  · rw [device_withDevice, if_pos rfl]
    split
    · exact hstate y hcol
    · rfl

/-! ### The register writes together (O50) -/

/-- The version block reads the records used as the partition counts them (R97). -/
theorem readReg_recordsUsed (s : State) {p : Nat} (hp : p < 24) :
    s.readReg .version p 0x20 = BitVec.ofNat 64 (s.recordsUsed p true) ∧ s.readReg .version p 0x28 = BitVec.ofNat 64 (s.recordsUsed p false) := by
  have hreach : ∀ o < 0x100, ¬ (blockEntries .version ≤ p ∨ blockBytes .version ≤ o) := fun o ho => by
    rintro (h | h)
    · exact not_partitions_le hp h
    · exact Nat.not_lt.2 h ho
  unfold State.readReg
  rw [if_neg (hreach _ (by decide)), if_neg (hreach _ (by decide))]
  exact ⟨rfl, rfl⟩

/-- Settles O50: each register write runs as its block's lemma says, and reads back as `RegisterReads` or `RegisterKept` of it. -/
theorem registerEvents : Obligations.RegisterEvents := by
  unfold Obligations.RegisterEvents
  refine ⟨⟨registerWrite_spec, kctlWrite_spec, pllcwWrite_spec, tinvWrite_spec, tinvComplete_spec.1, tinvComplete_spec.2, grootWrite_spec, wakes_spec,
    gendWrite_spec, sqtailWrite_spec⟩, ?_⟩
  intro s w harrived hplain hmay ho
  have h : Ready s w := ⟨harrived, hplain, hmay, ho⟩
  refine ⟨fun hb hi t ht ho hp hpart => xlate_window_sets h hb hi ht ho hp hpart, xlate_kept h,
    fun hb hi i hi4 ho => cache_limit_reads h hb hi hi4 ho, cache_counts_reads h, cache_kept h, fun hb hi => ?_, fun hb hi => ?_,
    fun hb hi ho => trap_save_sets h hb hi ho, fun hb hi => ?_, fun hb hi hs => ?_, fun hb hi => ?_, partition_sets h, fun hb hi => ?_⟩
  · obtain ⟨h0, h8, h10, h18, h30, hkept⟩ := version_sets h hb hi
    refine ⟨h0, h8, h10, h18, h30, hkept, ?_⟩
    rw [hb]
    exact readReg_recordsUsed s hi
  · exact ⟨fabric_rtab_sets h hb hi, fun ho hp => fabric_hasp_sets h hb hi ho hp, fun ho => fabric_wake_sets h hb hi (.inl ⟨ho, rfl⟩),
      fun ho => fabric_wake_sets h hb hi (.inr ⟨ho, rfl⟩), fabric_kept h hb⟩
  · refine ⟨fun ho => ?_, vdev_quantum_sets h hb hi, fun ho hs => vdev_word_reads h hb hi (.inl ⟨ho, hs, rfl⟩),
      fun ho => vdev_word_reads h hb hi (.inr (.inl ⟨ho, rfl⟩)), fun ho => vdev_word_reads h hb hi (.inr (.inr (.inl ⟨ho, rfl⟩))),
      vdev_groups_sets h hb hi, fun ho => vdev_word_reads h hb hi (.inr (.inr (.inr ⟨ho, rfl⟩))), vdev_kept h hb⟩
    obtain ⟨x, hx, hrest⟩ := vctl_reads h hb hi ho
    intro code part prior
    have hcode : (s.device w.index).state.code = code := state_code _
    rw [hcode] at hx
    exact ⟨x, hx, hrest⟩
  · rcases hb with hb | hb
    · exact vdev_bound h hb hi hs
    · exact trap_bound h hb hi hs
  · exact ⟨fun q hq ho => queue_base_sets h hb hi hq ho, fun ho => queue_word_reads h hb hi (.inl ⟨ho, rfl⟩),
      fun ho => queue_word_reads h hb hi (.inr ⟨ho, rfl⟩), queue_kept h hb⟩
  · exact ⟨module_elog_reads h hb hi, module_kept h hb⟩

end Sys2Proof.Laws
end

section
/-! The mailbox, reset, training, errors and checkpoints (O53). -/

namespace Sys2Proof.Laws

open Sys2Proof Sys2Proof.Machine Sys2Proof.Claim

/-! ### The mailbox (R431, R433) -/

/-- Bytes written at rising addresses read back. -/
theorem read_writeAll_inside (bs : List Byte) (m : Memory) (a i : Nat) (hm : m.wf = true) (hi : i < bs.length) :
    (m.writeAll a bs).read (a + i) = bs[i] := by
  induction bs generalizing m a i with
  | nil => exact absurd hi (Nat.not_lt_zero _)
  | cons b rest ih =>
    unfold Memory.writeAll
    cases i with
    | zero => exact (Memory.read_writeAll_outside rest _ _ _ (.inl (Nat.lt_succ_self a))).trans (Memory.read_write_self m a b hm)
    | succ i =>
      rw [show a + (i + 1) = a + 1 + i by omega]
      exact ih (m.write a b) (a + 1) i (Memory.wf_write m a b hm) (Nat.lt_of_succ_lt_succ hi)

theorem readAll_writeAll_self (bs : List Byte) (m : Memory) (a : Nat) (hm : m.wf = true) : (m.writeAll a bs).readAll a bs.length = bs := by
  unfold Memory.readAll
  refine List.ext_getElem (by simp) fun i h1 h2 => ?_
  simp only [List.getElem_map, List.getElem_range]
  exact read_writeAll_inside bs m a i hm h2

theorem readAll_writeAll_outside (bs : List Byte) (m : Memory) (a c n : Nat) (h : c + n ≤ a ∨ a + bs.length ≤ c) :
    (m.writeAll a bs).readAll c n = m.readAll c n := by
  unfold Memory.readAll
  refine List.map_congr_left fun i hi => ?_
  have := List.mem_range.1 hi
  exact Memory.read_writeAll_outside bs m a (c + i) (by omega)

theorem readAll_setMbox_status (m : Module) (n : Nat) (h : m.mbox.wf = true) : (m.setMbox 4 (toBytes 4 n)).mbox.readAll 4 4 = toBytes 4 n := by
  have hread := readAll_writeAll_self (toBytes 4 n) m.mbox 4 h
  rw [length_toBytes] at hread
  exact hread

theorem mboxWrite_spec : ∀ s w, Arrived s w → w.block = .module → w.offset = 0x100 → w.writer = .hypervisor → s.module.mbox.wf = true →
    let c := w.value.toNat % 2 ^ 32
    Completes s .registerWrite fun t => SameMemory s t
      ∧ (s.module.cmd ≠ none → t.module.cmd = s.module.cmd ∧ MboxStatus t 4)
      ∧ (s.module.cmd = none → (c = 1 ∨ (c = 2 ∧ s.module.svc ≠ 0)) → t.module.cmd = some c ∧ MboxStatus t 0)
      ∧ (s.module.cmd = none → c ≠ 1 → c ≠ 2 → s.module.svc ≠ 0 → t.module.cmd = none ∧ MboxStatus t 2)
      ∧ (s.module.cmd = none → c ≠ 1 → s.module.svc = 0 → t.module.cmd = none
          ∧ t.module.mbox = s.module.mbox.writeAll 0 (toBytes 8 w.value.toNat)) := by
  intro s w harrived hb ho hw hwf c
  let m := s.module.setMbox 0 (toBytes 8 w.value.toNat)
  have hm : m.mbox.wf = true := Memory.wf_writeAll _ _ _ hwf
  have hc : bits w.value 0 32 = c := by
    unfold bits
    rw [Nat.pow_zero, Nat.div_one]
  have hexec : exec .registerWrite s = .next { taken s w with module := m.command c } := by
    rw [exec_registerWrite harrived (by unfold writeSpecial; rw [hb, ho]), passWrite_of_may _ (mayWrite_of_hypervisor hw (by rw [hb]; decide)
      (by rw [hb]; decide) (by rw [hb]; exact nofun))]
    unfold registerEffect
    rw [hb]
    dsimp only
    unfold State.writeModule
    rw [ho, if_neg (by decide), if_pos (by decide), ← hc]
    rfl
  refine ⟨_, hexec, fun _ => ⟨rfl, rfl, rfl⟩, fun hcmd => ?_, fun hcmd hbegin => ?_, fun hcmd h1 h2 hsvc => ?_, fun hcmd h1 hsvc => ?_⟩
  · have hcommand : m.command c = m.setMbox 4 (toBytes 4 4) := if_pos (Option.isSome_iff_ne_none.2 hcmd)
    unfold MboxStatus
    dsimp only
    rw [hcommand]
    exact ⟨rfl, readAll_setMbox_status m 4 hm⟩
  all_goals
    have hidle : ¬ m.cmd.isSome = true := by rw [show m.cmd = none from hcmd]; exact Bool.false_ne_true
  · have hcommand : m.command c = { m.setMbox 4 (toBytes 4 0) with cmd := some c } := (if_neg hidle).trans (if_pos hbegin)
    unfold MboxStatus
    dsimp only
    rw [hcommand]
    exact ⟨rfl, readAll_setMbox_status m 0 hm⟩
  · have hcommand : m.command c = m.setMbox 4 (toBytes 4 2) :=
      (if_neg hidle).trans ((if_neg fun h => h.elim h1 (h2 ·.1)).trans (if_neg hsvc))
    unfold MboxStatus
    dsimp only
    rw [hcommand]
    exact ⟨hcmd, readAll_setMbox_status m 2 hm⟩
  · have hcommand : m.command c = m := (if_neg hidle).trans ((if_neg fun h => h.elim h1 (·.2 hsvc)).trans (if_pos hsvc))
    dsimp only
    rw [hcommand]
    exact ⟨hcmd, rfl⟩

theorem mboxStatus_answer (s : State) (out : List Byte) (n : Nat) (hm : s.module.mbox.wf = true) : MboxStatus (s.mboxAnswer out n) n :=
  readAll_setMbox_status (s.module.setMbox 8 out) n (Memory.wf_writeAll _ _ _ hm)

theorem sameMemory_mboxAnswer (s : State) (out : List Byte) (n : Nat) : SameMemory s (s.mboxAnswer out n) := fun _ => ⟨rfl, rfl, rfl⟩

theorem cmd_mboxAnswer (s : State) (out : List Byte) (n : Nat) : (s.mboxAnswer out n).module.cmd = none := rfl

/-- The output of an answer reads back behind its status. -/
theorem readAll_mboxAnswer (s : State) (out : List Byte) (n : Nat) (hm : s.module.mbox.wf = true) :
    (s.mboxAnswer out n).module.mbox.readAll 8 out.length = out :=
  (readAll_writeAll_outside (toBytes 4 n) (s.module.mbox.writeAll 8 out) 4 8 out.length (.inr (by rw [length_toBytes]))).trans
    (readAll_writeAll_self out s.module.mbox 8 hm)

/-! ### The length of a digest -/

theorem length_exactly (n : Nat) (bs : List Byte) : (exactly n bs).length = n := by
  unfold exactly
  rw [List.length_take, List.length_append, List.length_replicate]
  omega

theorem length_toBytesBE (n x : Nat) : (toBytesBE n x).length = n := by
  unfold toBytesBE
  rw [List.length_reverse, length_toBytes]

theorem length_shaRound (v : List Word) (k w : Word) : (shaRound v k w).length = v.length := by
  unfold shaRound
  split
  · rfl
  · rfl

theorem length_shaBlock (v : List Word) (block : List Byte) : (shaBlock v block).length = v.length := by
  have hrounds : ∀ (kws : List (Word × Word)) (x : List Word), (kws.foldl (fun a kw => shaRound a kw.1 kw.2) x).length = x.length := by
    intro kws
    induction kws with
    | nil => exact fun _ => rfl
    | cons kw rest ih => exact fun x => (ih _).trans (length_shaRound ..)
  unfold shaBlock
  dsimp only
  rw [List.length_map, List.length_zip, hrounds, Nat.min_self]

theorem length_sha256 (bs : List Byte) : (sha256 bs).length = 32 := by
  have hblocks : ∀ (f : Nat → List Byte) (is : List Nat) (v : List Word), (is.foldl (fun a i => shaBlock a (f i)) v).length = v.length := by
    intro f is
    induction is with
    | nil => exact fun _ => rfl
    | cons i rest ih => exact fun v => (ih _).trans (length_shaBlock ..)
  have hwords : ∀ ws : List Word, (ws.flatMap fun w => toBytesBE 4 w.toNat).length = 4 * ws.length := by
    intro ws
    induction ws with
    | nil => rfl
    | cons w rest ih =>
      rw [List.flatMap_cons, List.length_append, ih, length_toBytesBE, List.length_cons]
      omega
  unfold sha256
  dsimp only
  rw [hwords, hblocks]
  rfl

theorem length_report (s : State) : s.report.length = 224 := by
  unfold State.report Module.mboxAt Memory.readAll
  simp only [List.length_append, List.length_map, List.length_range, length_sha256, length_exactly]

/-- An image that is taken over is answered with status 1. -/
theorem imageTaken {s : State} (hwf : s.module.mbox.wf = true) (image : List Byte) :
    let t := (s.withModule fun m => { m with image := image }).mboxAnswer [] 1
    SameMemory s t ∧ t.module.image = image ∧ MboxStatus t 1 ∧ t.module.cmd = none :=
  ⟨fun _ => ⟨rfl, rfl, rfl⟩, rfl, mboxStatus_answer _ [] 1 hwf, rfl⟩

theorem mailbox_spec : ∀ s, s.module.mbox.wf = true →
    (s.module.cmd = some 1 →
      let image := s.host.readAll (ofBytes (s.module.mbox.readAll 8 8)) (ofBytes (s.module.mbox.readAll 16 8))
      (Config.imageSigned image = true → Completes s .loadImage fun t => SameMemory s t ∧ t.module.image = image ∧ MboxStatus t 1
          ∧ t.module.cmd = none)
      ∧ (Config.imageSigned image = false → Completes s .loadImage fun t => SameMemory s t ∧ t.module.image = s.module.image
          ∧ MboxStatus t 3 ∧ t.module.cmd = none))
    ∧ (s.module.cmd = some 2 → Completes s .attest fun t =>
          let body := s.module.mbox.readAll 8 32 ++ sha256 s.module.image ++ sha256 s.partitionBytes ++ exactly 64 Config.identityKey
          SameMemory s t ∧ MboxStatus t 1 ∧ t.module.cmd = none
          ∧ t.module.mbox.readAll 8 224 = body ++ exactly 64 (Config.signature (sha256 body)))
    ∧ (s.module.cmd ≠ some 1 → exec .loadImage s = .next s) ∧ (s.module.cmd ≠ some 2 → exec .attest s = .next s) := by
  intro s hwf
  refine ⟨fun hcmd => ?_, fun hcmd => ?_, fun hcmd => if_neg hcmd, fun hcmd => if_neg hcmd⟩
  · intro image
    have hexec : exec .loadImage s = .next (if Config.imageSigned image then (s.withModule fun m => { m with image := image }).mboxAnswer [] 1
        else s.mboxAnswer [] 3) := by
      change execLoadImage s = _
      unfold execLoadImage onMailbox
      rw [if_pos hcmd]
      rfl
    refine ⟨fun hsigned => ⟨_, hexec, ?_⟩, fun hsigned => ⟨_, hexec, ?_⟩⟩
    · rw [if_pos hsigned]
      exact imageTaken hwf image
    · rw [if_neg fun h => Bool.false_ne_true (hsigned.symm.trans h)]
      exact ⟨sameMemory_mboxAnswer s [] 3, rfl, mboxStatus_answer s [] 3 hwf, rfl⟩
  · have hexec : exec .attest s = .next (s.mboxAnswer s.report 1) := by
      change execAttest s = _
      unfold execAttest onMailbox
      rw [if_pos hcmd]
    have hread := readAll_mboxAnswer s s.report 1 hwf
    rw [length_report] at hread
    refine ⟨_, hexec, sameMemory_mboxAnswer s s.report 1, mboxStatus_answer s s.report 1 hwf, cmd_mboxAnswer s s.report 1, hread.trans ?_⟩
    unfold State.report Module.mboxAt
    rfl

/-! ### Reset, training, sag and corrected errors (R432, R434, R435) -/

theorem moduleReset_spec : ∀ s, Completes s .moduleReset fun t => SameMemory s t ∧ t.ptp = s.ptp ∧ t.module.image = s.module.image
    ∧ t.module.svc = (if Config.imageAuthentic s.module.image then 1 else 0) ∧ t.module.sag = 0 ∧ t.module.cmd = none
    ∧ t.cores = [] ∧ t.dies = [] ∧ t.slices = [] ∧ t.hinges = [] ∧ t.partitions = [] ∧ t.devices = [] ∧ t.launches = [] ∧ t.ops = [] :=
  fun _ => ⟨_, rfl, fun _ => ⟨rfl, rfl, rfl⟩, rfl, rfl, rfl, rfl, rfl, rfl, rfl, rfl, rfl, rfl, rfl, rfl, rfl⟩

/-- Every group stands between clauses. -/
def AtBoundary (s : State) : Prop := (∀ g ∈ s.allGroups, g.2.2.clause.live = false)
  ∧ ∀ y ∈ s.allGangs, ∀ g ∈ y.2.2.saved.groups, g.2.clause.live = false

theorem linkTraining_spec (s : State) :
    (s.module.svc = 1 → AtBoundary s → exec .linkTrainingComplete s = .next { s with module := { s.module with svc := 2 } })
    ∧ (¬ (s.module.svc = 1 ∧ AtBoundary s) → exec .linkTrainingComplete s = .next s) := by
  have hboundary : (s.allGroups.all (fun g => !g.2.2.clause.live) = true
      ∧ s.allGangs.all (fun y => y.2.2.saved.groups.all fun g => !g.2.clause.live) = true) ↔ AtBoundary s := by
    unfold AtBoundary
    simp only [List.all_eq_true, Bool.not_eq_true']
  exact ⟨fun hsvc h => if_pos ⟨hsvc, hboundary.2 h⟩, fun h => if_neg fun h' => h ⟨h'.1, hboundary.1 h'.2⟩⟩

theorem supplySag_spec (s : State) : exec .supplySag s = .next { s with module := { s.module with
    sag := min (s.module.sag + 1) 8, sagReported := true, sagAt := s.ptp } } := rfl

theorem sagRecovery_spec (s : State) : (s.module.sagReported = false → 0 < s.module.sag → s.module.sagAt + 10000 ≤ s.ptp →
      exec .sagRecovery s = .next { s with module := { s.module with sag := s.module.sag - 1, sagAt := s.module.sagAt + 10000 } })
    ∧ ((s.module.sagReported = true ∨ s.module.sag = 0 ∨ s.ptp < s.module.sagAt + 10000) → exec .sagRecovery s = .next s) := by
  refine ⟨fun h1 h2 h3 => if_pos ⟨h1, h2, h3⟩, fun h => if_neg ?_⟩
  rintro ⟨h1, h2, h3⟩
  rcases h with h | h | h
  · exact Bool.false_ne_true (h1.symm.trans h)
  · exact Nat.ne_of_gt h2 h
  · exact Nat.not_lt.2 h3 h

theorem correctedError_spec (s : State) :
    exec .correctedError s = .next { s with module := { s.module with corrected := min (s.module.corrected + 1) (2 ^ 32 - 1) } } := rfl

/-! ### What a fence leaves as it was (R401) -/

/-- Launches and groups end, devices change, notices and answers go out; memory, the module and what is in flight stay. -/
def LossFrame (s t : State) : Prop := ∃ q r more n c ls H D A B, t = { s with
  partitions := q, versions := r, driver := s.driver ++ more, slices := n, cores := c, launches := ls, hinges := H, devices := D, acks := A, outbox := B }

namespace LossFrame

theorem refl (s : State) : LossFrame s s := ⟨_, _, [], _, _, _, _, _, _, _, by rw [List.append_nil]⟩

theorem trans {s t u : State} (h1 : LossFrame s t) (h2 : LossFrame t u) : LossFrame s u := by
  obtain ⟨q, r, more, n, c, ls, H, D, A, B, rfl⟩ := h1
  obtain ⟨q', r', more', n', c', ls', H', D', A', B', rfl⟩ := h2
  exact ⟨q', r', more ++ more', n', c', ls', H', D', A', B', by rw [List.append_assoc]⟩

/-- No notice is given. -/
theorem of_eq {s t : State} (h : ∃ q ls D A B, t = { s with partitions := q, launches := ls, devices := D, acks := A, outbox := B }) : LossFrame s t := by
  obtain ⟨q, ls, D, A, B, rfl⟩ := h
  exact ⟨q, _, [], _, _, ls, _, D, A, B, by rw [List.append_nil]⟩

theorem foldl {α : Type} {f : State → α → State} (h : ∀ s x, LossFrame s (f s x)) (xs : List α) (s : State) : LossFrame s (xs.foldl f s) := by
  induction xs generalizing s with
  | nil => exact refl s
  | cons x rest ih => exact (h s x).trans (ih (f s x))

theorem memory {s t : State} (h : LossFrame s t) : t.mem = s.mem ∧ t.host = s.host ∧ t.store = s.store := by
  obtain ⟨q, r, more, n, c, ls, H, D, A, B, rfl⟩ := h
  exact ⟨rfl, rfl, rfl⟩

theorem same {s t : State} (h : LossFrame s t) : t.module = s.module ∧ t.msix = s.msix := by
  obtain ⟨q, r, more, n, c, ls, H, D, A, B, rfl⟩ := h
  exact ⟨rfl, rfl⟩

end LossFrame

theorem lossFrame_endLaunches (s : State) (v detail : Nat) : LossFrame s (s.endLaunches v detail) ∧ (s.endLaunches v detail).devices = s.devices := by
  unfold State.endLaunches
  generalize (s.launches.filter fun l => l.2.vd == v).map (·.1) = ls
  induction ls generalizing s with
  | nil => exact ⟨.refl s, rfl⟩
  | cons l rest ih =>
    obtain ⟨h1, h2⟩ := ih (s.endLaunch l detail)
    obtain ⟨q, r, more, n, c, L, H, heq⟩ := (launchEnds_endLaunch s l detail).eq
    have hone : LossFrame s (s.endLaunch l detail) := ⟨q, r, more, n, c, L, H, _, _, _, heq⟩
    have hdev : (s.endLaunch l detail).devices = s.devices := by rw [heq]
    exact ⟨hone.trans h1, h2.trans hdev⟩

/-- A key stands in a table whose entry is looked up. -/
theorem mem_of_look {α : Type} {t : Tab α} {i : Nat} {x : α} (h : t.look i = some x) : (i, x) ∈ t := by
  induction t with
  | nil => cases h
  | cons y rest ih =>
    obtain ⟨k, v⟩ := y
    unfold Tab.look at h
    split at h
    · next hk =>
      subst hk
      cases h
      exact List.mem_cons_self
    · exact List.mem_cons_of_mem _ (ih h)

theorem launchesEnded_endLaunches (s : State) (v detail : Nat) : LaunchesEnded s (s.endLaunches v detail) v detail := by
  intro i l hl hv
  have hmem : i ∈ (s.launches.filter fun l => l.2.vd == v).map (·.1) :=
    List.mem_map.2 ⟨(i, l), List.mem_filter.2 ⟨mem_of_look hl, beq_iff_eq.2 hv⟩, rfl⟩
  have hlook := launches_endLaunches detail ((s.launches.filter fun l => l.2.vd == v).map (·.1)) s i
  rw [hl, Option.map_some, if_pos hmem] at hlook
  obtain ⟨m, hm, hpair⟩ := Option.map_eq_some_iff.1 hlook
  obtain ⟨hpkt, hended⟩ := Prod.mk.inj hpair
  exact ⟨m, hm, hended, hpkt⟩

/-- What the steps of a fence behind the end of its launches leave: the launches, the other devices, and the device's state and place. -/
structure DeviceQuiet (s t : State) (v : Nat) : Prop where
  frame : LossFrame s t
  driver : t.driver = s.driver
  launches : t.launches = s.launches
  others : OtherDevices s t v
  device : (t.device v).state = (s.device v).state ∧ (t.device v).window = (s.device v).window ∧ (t.device v).part = (s.device v).part

namespace DeviceQuiet

theorem refl (s : State) (v : Nat) : DeviceQuiet s s v := ⟨.refl s, rfl, rfl, fun _ _ => rfl, rfl, rfl, rfl⟩

theorem trans {s t u : State} {v : Nat} (h1 : DeviceQuiet s t v) (h2 : DeviceQuiet t u v) : DeviceQuiet s u v where
  frame := h1.frame.trans h2.frame
  driver := h2.driver.trans h1.driver
  launches := h2.launches.trans h1.launches
  others u hu := (h2.others u hu).trans (h1.others u hu)
  device := by
    obtain ⟨a1, b1, c1⟩ := h1.device
    obtain ⟨a2, b2, c2⟩ := h2.device
    exact ⟨a2.trans a1, b2.trans b1, c2.trans c1⟩

theorem withDevice (s : State) (v : Nat) {f : Device → Device} (hf : ∀ d, (f d).state = d.state ∧ (f d).window = d.window ∧ (f d).part = d.part) :
    DeviceQuiet s (s.withDevice v f) v where
  frame := .of_eq ⟨_, _, _, _, _, rfl⟩
  driver := rfl
  launches := rfl
  others := otherDevices_withDevice s v f
  device := by
    rw [device_withDevice, if_pos rfl]
    exact hf _

theorem withPartition (s : State) (v p : Nat) (f : Partition → Partition) : DeviceQuiet s (s.withPartition p f) v :=
  ⟨.of_eq ⟨_, _, _, _, _, rfl⟩, rfl, rfl, fun _ _ => rfl, rfl, rfl, rfl⟩

theorem answer (s : State) (v : Nat) (x : FabOp) (status detail : Nat) (data : List Byte) : DeviceQuiet s (s.answer x status detail data) v := by
  unfold State.answer
  dsimp only
  split
  · exact ⟨.of_eq ⟨_, _, _, _, _, rfl⟩, rfl, rfl, fun _ _ => rfl, rfl, rfl, rfl⟩
  · exact ⟨.of_eq ⟨_, _, _, _, _, rfl⟩, rfl, rfl, fun _ _ => rfl, rfl, rfl, rfl⟩

end DeviceQuiet

theorem deviceQuiet_dropQueues (s : State) (v : Nat) : DeviceQuiet s (s.dropQueues v) v := by
  unfold State.dropQueues
  dsimp only
  exact (DeviceQuiet.withPartition s v (s.device v).part _).trans (DeviceQuiet.withDevice _ v fun _ => ⟨rfl, rfl, rfl⟩)

theorem deviceQuiet_endCheckpoint (s : State) (v status : Nat) : DeviceQuiet s (s.endCheckpoint v status) v := by
  unfold State.endCheckpoint
  dsimp only
  split
  · exact .refl s v
  · next k _ =>
    refine DeviceQuiet.trans (t := if k.opened then s.dropHold (s.device v).part k.entry else s) ?_ (DeviceQuiet.withDevice _ v fun _ => ⟨rfl, rfl, rfl⟩)
    split
    · exact DeviceQuiet.withPartition ..
    · exact .refl s v

theorem deviceQuiet_answerHeld (s : State) (v : Nat) : DeviceQuiet s (s.answerHeld v) v := by
  have hanswers : ∀ (xs : List FabOp) (a : State), DeviceQuiet a (xs.foldl (fun a x => a.answer x 5 0 []) a) v := by
    intro xs
    induction xs with
    | nil => exact fun a => .refl a v
    | cons x rest ih => exact fun a => (DeviceQuiet.answer a v x 5 0 []).trans (ih _)
  unfold State.answerHeld
  dsimp only
  exact (DeviceQuiet.withDevice s v (f := fun y => { y with held := [], forward := [] }) fun _ => ⟨rfl, rfl, rfl⟩).trans (hanswers _ _)

/-! ### Fences (R401, R435) -/

/-- What a fence of a device that exists does. -/
structure FenceDone (s t : State) (v : Nat) : Prop where
  frame : LossFrame s t
  launches : LaunchesEnded s t v 2
  driver : Notification.fenced v ∈ t.driver
  others : OtherDevices s t v
  lost : (t.device v).state = .lost
  window : (t.device v).window = (s.device v).window
  part : (t.device v).part = (s.device v).part

theorem fence_of_gone {s : State} {v : Nat} (h : (s.device v).state = .none ∨ (s.device v).state = .lost) : s.fence v = s := if_pos h

theorem fence_done {s : State} {v : Nat} (h : ¬ ((s.device v).state = .none ∨ (s.device v).state = .lost)) : FenceDone s (s.fence v) v := by
  unfold State.fence
  dsimp only
  rw [if_neg h]
  generalize hs1 : (s.withDevice v fun x => { x with state := .lost, cut := none, busy := x.dying }) = s1
  obtain ⟨hframe, hdevices⟩ := lossFrame_endLaunches s1 v 2
  have hended := launchesEnded_endLaunches s1 v 2
  have hrest := ((deviceQuiet_dropQueues (s1.endLaunches v 2) v).trans (deviceQuiet_endCheckpoint _ v 5)).trans (deviceQuiet_answerHeld _ v)
  generalize (((s1.endLaunches v 2).dropQueues v).endCheckpoint v 5).answerHeld v = s2 at hrest ⊢
  have hdevice : ∀ u, (s1.endLaunches v 2).device u = s1.device u := fun u => by
    unfold State.device
    rw [hdevices]
  have hlaunches : s1.launches = s.launches := by rw [← hs1]; rfl
  have hone : LossFrame s s1 := by rw [← hs1]; exact .of_eq ⟨_, _, _, _, _, rfl⟩
  have hself : s1.device v = { s.device v with state := .lost, cut := none, busy := (s.device v).dying } := by
    rw [← hs1, device_withDevice, if_pos rfl]
  have hother : OtherDevices s s1 v := by rw [← hs1]; exact otherDevices_withDevice s v _
  obtain ⟨hstate, hwindow, hpart⟩ := hrest.device
  rw [hdevice, hself] at hstate hwindow hpart
  have hnotice : LossFrame s2 { s2 with driver := s2.driver ++ [.fenced v] } := ⟨_, _, _, _, _, _, _, _, _, _, rfl⟩
  refine ⟨((hone.trans hframe).trans hrest.frame).trans hnotice, fun i l hl hv => ?_, List.mem_append_right _ List.mem_cons_self,
    fun u hu => (hrest.others u hu).trans ((hdevice u).trans (hother u hu)), hstate, hwindow, hpart⟩
  show ∃ m, s2.launches.look i = some m ∧ _
  rw [hrest.launches]
  exact hended i l (by rw [hlaunches]; exact hl) hv

theorem lossFrame_fence (s : State) (v : Nat) : LossFrame s (s.fence v) := by
  by_cases h : (s.device v).state = .none ∨ (s.device v).state = .lost
  · rw [fence_of_gone h]
    exact .refl s
  · exact (fence_done h).frame

/-- A fence leaves every device in its partition and its window. -/
theorem fence_device (s : State) (v u : Nat) : ((s.fence v).device u).window = (s.device u).window ∧ ((s.fence v).device u).part = (s.device u).part
    ∧ (u ≠ v → (s.fence v).device u = s.device u)
    ∧ ((s.device v).state ≠ .none → ((s.fence v).device v).state = .lost) := by
  by_cases h : (s.device v).state = .none ∨ (s.device v).state = .lost
  · rw [fence_of_gone h]
    exact ⟨rfl, rfl, fun _ => rfl, fun hn => h.resolve_left hn⟩
  · have hf := fence_done h
    refine ⟨?_, ?_, hf.others u, fun _ => hf.lost⟩
    · by_cases hu : u = v
      · rw [hu, hf.window]
      · rw [hf.others u hu]
    · by_cases hu : u = v
      · rw [hu, hf.part]
      · rw [hf.others u hu]

/-- The devices of a list are fenced, and the others stay. -/
theorem fences_spec (vs : List Nat) (s : State) : let t := vs.foldl (fun a v => a.fence v) s
    LossFrame s t ∧ (∀ u, (t.device u).window = (s.device u).window)
    ∧ (∀ u, u ∉ vs → t.device u = s.device u) ∧ ∀ u, u ∈ vs → (s.device u).state ≠ .none → (t.device u).state = .lost := by
  induction vs generalizing s with
  | nil => exact ⟨.refl s, fun _ => rfl, fun _ _ => rfl, fun _ h => absurd h List.not_mem_nil⟩
  | cons v rest ih =>
    obtain ⟨hframe, hwindow, hkept, hlost⟩ := ih (s.fence v)
    refine ⟨(lossFrame_fence s v).trans hframe, fun u => (hwindow u).trans (fence_device s v u).1, fun u hu => ?_, fun u hu hstate => ?_⟩
    · rw [List.mem_cons, not_or] at hu
      exact (hkept u hu.2).trans ((fence_device s v u).2.2.1 hu.1)
    · obtain ⟨-, -, hne, hself⟩ := fence_device s v u
      have hafter : ((s.fence v).device u).state ≠ .none := by
        by_cases huv : u = v
        · subst huv
          rw [hself hstate]
          decide
        · rw [hne huv]
          exact hstate
      by_cases hr : u ∈ rest
      · exact hlost u hr hafter
      · refine (congrArg Device.state (hkept u hr)).trans ?_
        obtain rfl : u = v := (List.mem_cons.1 hu).resolve_right hr
        exact hself hstate

/-- The devices of a partition are fenced (R401, R432). -/
theorem fencePartition_spec (s : State) (p : Nat) (h : Rising s.devices) : let t := ((s.devicesOf p).map (·.1)).foldl (fun a v => a.fence v) s
    LossFrame s t ∧ (∀ u, (t.device u).window = (s.device u).window)
    ∧ (∀ v, (s.device v).part = p → (s.device v).state ≠ .none → (t.device v).state = .lost)
    ∧ ∀ v, (s.device v).part ≠ p → t.device v = s.device v := by
  obtain ⟨hframe, hwindow, hkept, hlost⟩ := fences_spec ((s.devicesOf p).map (·.1)) s
  have hdevice : ∀ v d, (v, d) ∈ s.devices → s.device v = d := fun v d hd => by
    unfold State.device Tab.get
    rw [(look_eq_some_iff_of_rising h v d).2 hd]
    rfl
  refine ⟨hframe, hwindow, fun v hp hstate => ?_, fun v hp => hkept v fun hmem => ?_⟩
  · refine hlost v (List.mem_map.2 ⟨(v, s.device v), List.mem_filter.2 ⟨?_, by simp [hp, hstate]⟩, rfl⟩) hstate
    cases hl : s.devices.look v with
    | none =>
      refine absurd ?_ hstate
      unfold State.device Tab.get
      rw [hl]
      rfl
    | some d =>
      have hm := mem_of_look hl
      rw [hdevice v d hm]
      exact hm
  · obtain ⟨⟨u, d⟩, hx, rfl⟩ := List.mem_map.1 hmem
    obtain ⟨hx, hc⟩ := List.mem_filter.1 hx
    rw [Bool.and_eq_true, beq_iff_eq] at hc
    exact hp (by rw [hdevice u d hx]; exact hc.1)

theorem filter_ne_eq (xs : List Nat) (p : Nat) : xs.filter (· != p) = xs.filter fun x => decide (x ≠ p) :=
  List.filter_congr fun x _ => by simp [bne, beq_eq_decide]

theorem pluginViolation_spec : ∀ s p y z, OfObject s p y z →
    (s.module.stopped.get p false = true → exec .pluginViolation s = .next { s with module := { s.module with
        violations := s.module.violations.filter (· ≠ p) } })
    ∧ (s.module.stopped.get p false = false → Rising s.devices → Completes s .pluginViolation fun t => SameMemory s t
        ∧ t.module.stopped.get p false = true ∧ p ∉ t.module.violations
        ∧ (∀ v, (s.device v).part = p → (s.device v).state ≠ .none → (t.device v).state = .lost)
        ∧ ∀ v, (s.device v).part ≠ p → t.device v = s.device v) := by
  intro s p y z hobj
  let s1 := s.withModule fun m => { m with stopped := m.stopped.put p true, violations := m.violations.filter (· != p) }
  have hexec : exec .pluginViolation s = if s.module.isStopped p then .next (s.withModule fun m => { m with
      violations := m.violations.filter (· != p) }) else .next (((s.devicesOf p).map (·.1)).foldl (fun a v => a.fence v) s1) := by
    change execPluginViolation s = _
    unfold execPluginViolation
    rw [object_of hobj]
  refine ⟨fun hstopped => ?_, fun hstopped hrising => ⟨_, hexec.trans (if_neg fun h => Bool.false_ne_true (hstopped.symm.trans h)), ?_⟩⟩
  · rw [hexec, if_pos (show s.module.isStopped p = true from hstopped), ← filter_ne_eq]
    rfl
  · obtain ⟨hframe, -, hlost, hkept⟩ := fencePartition_spec s1 p hrising
    obtain ⟨hm, hh, hs⟩ := hframe.memory
    obtain ⟨hmodule, -⟩ := hframe.same
    refine ⟨fun a => ⟨congrArg (·.read a) hm, congrArg (·.read a) hh, congrArg (·.read a) hs⟩, ?_, ?_, hlost, hkept⟩
    · exact (congrArg (fun m : Module => m.stopped.get p false) hmodule).trans (Tab.get_put_self ..)
    · have hviolations : ∀ xs : List Nat, p ∉ xs.filter (· != p) := fun xs hmem => bne_iff_ne.1 (List.mem_filter.1 hmem).2 rfl
      exact fun hmem => hviolations s.module.violations ((congrArg (fun m : Module => p ∈ m.violations) hmodule).mp hmem)

/-! ### The log of an error (R435) -/

/-- An error has been logged: the ring's head advances, and where the ring is enabled the record is written and the vector raised. -/
def Logged (s t : State) (e : ErrorReport) (scope part vd : Nat) : Prop :=
  let seq := (s.module.elogHead.toNat + 1) % 2 ^ 64
  t.module.elogHead = BitVec.ofNat 64 seq
  ∧ (s.module.elogBase.getLsbD 0 = false → t.msix = s.msix ∧ ∀ a, t.host.read a = s.host.read a)
  ∧ (s.module.elogBase.getLsbD 0 = true → s.host.wf = true → t.msix = s.msix ++ [512]
      ∧ ∀ a, t.host.read a = afterBytes s.host.read ((toBytes 8 seq ++ toBytes 1 scope ++ toBytes 1 part ++ toBytes 1 vd ++ toBytes 5 0
          ++ toBytes 8 e.addr.toNat ++ toBytes 8 ((s.device vd).window * 2 ^ 16)).zipIdx.map fun b =>
            (s.module.elogBase.toNat / 2 ^ 13 * 2 ^ 13 + 32 * ((seq + 2 ^ 64 - 1) % 256) + b.2, b.1)) a)

/-- What the log of an error reads is as before. -/
structure LogKept (s u : State) : Prop where
  module : u.module = s.module
  msix : u.msix = s.msix
  host : u.host = s.host
  window : ∀ v, (u.device v).window = (s.device v).window

theorem LogKept.refl (s : State) : LogKept s s := ⟨rfl, rfl, rfl, fun _ => rfl⟩

theorem LogKept.trans {s t u : State} (h1 : LogKept s t) (h2 : LogKept t u) : LogKept s u :=
  ⟨h2.module.trans h1.module, h2.msix.trans h1.msix, h2.host.trans h1.host, fun v => (h2.window v).trans (h1.window v)⟩

/-- The log of an error changes the module, host memory and the vectors only. -/
theorem logError_frame (s : State) (scope part vd : Nat) (addr : DWord) :
    ∃ M h x, s.logError scope part vd addr = { s with module := M, host := h, msix := x } := by
  unfold State.logError
  dsimp only
  split
  · exact ⟨_, _, _, rfl⟩
  · exact ⟨_, _, _, rfl⟩

theorem logged_logError {s u : State} (h : LogKept s u) (e : ErrorReport) (scope part vd : Nat) :
    Logged s (u.logError scope part vd e.addr) e scope part vd := by
  obtain ⟨hmodule, hmsix, hhost, hwindow⟩ := h
  have hbase : bits s.module.elogBase 13 51 * 2 ^ 13 = s.module.elogBase.toNat / 2 ^ 13 * 2 ^ 13 := by
    have := s.module.elogBase.isLt
    unfold bits
    rw [Nat.mod_eq_of_lt (by omega)]
  unfold Logged State.logError errorRecord
  intro seq
  extract_lets m seq' a s1
  have hm : m = s.module := hmodule
  have hseq : seq' = seq := by unfold seq' seq; rw [hm]
  have ha : a = s.module.elogBase.toNat / 2 ^ 13 * 2 ^ 13 + 32 * ((seq + 2 ^ 64 - 1) % 256) := by
    unfold a
    rw [hm, hbase, hseq]
  have hhead : s1.module.elogHead = BitVec.ofNat 64 seq := by
    rw [← hseq]
    rfl
  have hs1m : s1.msix = s.msix := hmsix
  have hs1h : s1.host = s.host := hhost
  cases hon : s.module.elogBase.getLsbD 0 with
  | false =>
    rw [hm, hon, if_neg Bool.false_ne_true]
    exact ⟨hhead, fun _ => ⟨hs1m, fun a => congrArg (·.read a) hs1h⟩, nofun⟩
  | true =>
    rw [hm, hon, if_pos rfl]
    refine ⟨hhead, nofun, fun _ hwf => ⟨congrArg (· ++ [512]) hs1m, fun b => ?_⟩⟩
    dsimp only
    rw [hs1h, (read_writeList _ hwf).2, ha, hseq, hwindow]
    rfl

/-! ### Stops between clauses (R394) -/

/-- A group is stopped between clauses by an uncorrectable error in the data of some lanes. -/
def StopsAt (s t : State) (e : ErrorReport) (c k : Nat) (g : Group) (ls : Nat → Prop) : Prop :=
  OtherGroups s t c k ∧ t.driver = s.driver ++ [.replayable c k .uncorrectable]
    ∧ ∃ g', t.group? c k = some g' ∧ g'.phase = .replayable ∧ g'.cause = some .uncorrectable ∧ g'.lanes = g.lanes
      ∧ g'.vregs = g.vregs ∧ g'.sregs = g.sregs
      ∧ (∀ l, l < 32 → ls l → ∃ x ∈ g'.entries, x.lane = l ∧ x.what = .replay .uncorrectable 0 e.addr ∧ x.rword = (g.lane l).r)
      ∧ ∀ x ∈ g.entries, ¬ ls x.lane → x ∈ g'.entries

/-- A write to module memory at the home leaves what the log reads, and the operations. -/
theorem logKept_writeMem (s : State) (w : Source) (bs : List (Nat × Byte)) :
    LogKept s (s.writeMem w .hbm bs) ∧ (s.writeMem w .hbm bs).ops = s.ops := by
  have hframe := homeFrame_writeMem s w .hbm bs
  obtain ⟨m, h, p, r, q, d, l, c, e, n, i, he⟩ := hframe.eq
  obtain ⟨-, -, hhost⟩ := writeLines_spec w bs (linesOf (bs.map (·.1))) s
  refine ⟨⟨by rw [he], by rw [he], hhost, fun v => ?_⟩, by rw [he]⟩
  obtain ⟨b, k, z, hd⟩ := hframe.device v
  rw [hd]

theorem logKept_recordFault (s : State) (c k : Nat) (g : Group) (cause : ReplayCause) (word : Nat) (pc : DWord) (es : List LaneEvent) :
    LogKept s (s.recordFault c k g cause word pc es) ∧ (s.recordFault c k g cause word pc es).ops = s.ops := by
  have hevents : ∀ (xs : List LaneEvent) (w : Source) (a : Nat) (u : State),
      let t := xs.foldl (fun t e => t.writeMem w .hbm (addressed (a + 0x40 + 32 * e.lane) (laneEntry g e))) u
      LogKept u t ∧ t.ops = u.ops := by
    intro xs w a
    induction xs with
    | nil => exact fun u => ⟨.refl u, rfl⟩
    | cons x rest ih =>
      intro u
      obtain ⟨h1, h2⟩ := logKept_writeMem u w (addressed (a + 0x40 + 32 * x.lane) (laneEntry g x))
      obtain ⟨h3, h4⟩ := ih (u.writeMem w .hbm (addressed (a + 0x40 + 32 * x.lane) (laneEntry g x)))
      exact ⟨h1.trans h3, h4.trans h2⟩
  unfold State.recordFault
  extract_lets vd a w lanes s1 s2
  obtain ⟨h1, h2⟩ := logKept_writeMem s w (addressed a (recordHead cause.code k word lanes pc (s.device vd).window g.seq))
  obtain ⟨h3, h4⟩ := hevents es w a s1
  have h : LogKept s s2 := h1.trans h3
  exact ⟨⟨h.module, h.msix, h.host, h.window⟩, h4.trans h2⟩

theorem stopGroup_spec {s : State} (hwards : ∀ n, (s.slice n).wards = []) (e : ErrorReport) (c k : Nat) (g : Group) (hphase : g.phase ≠ .spilled)
    (es : List LaneEvent) {ls : Nat → Prop} (hes : ∀ l, (∃ x ∈ es, x.lane = l) ↔ l < 32 ∧ ls l)
    (hwhat : ∀ x ∈ es, x.what = .replay .uncorrectable 0 e.addr ∧ x.rword = (g.lane x.lane).r) :
    let t := s.stopGroup c k ⟨g, none⟩ es
    StopsAt s t e c k g ls ∧ LogKept s t ∧ t.ops = s.ops := by
  intro t
  obtain ⟨T, X, hdoom⟩ := doom_kept g 6
  have hstopped : g.stopped es = { g with
      tx := T, txs := X, phase := .replayable, cause := some .uncorrectable, resumed := false, seq := (g.seq + 1) % 2 ^ 32,
      entries := g.entries.filter (fun x => !es.any fun e => e.lane == x.lane) ++ es } := by
    unfold Group.stopped
    rw [hdoom, if_neg hphase]
  obtain ⟨hothers, hdriver, hgroup⟩ := recorded_setGroup hwards c k (g.stopped es) (g.stopped es) .uncorrectable g.standsAt.2
    (BitVec.ofNat 64 g.standsAt.1) es
  obtain ⟨hkept, hops⟩ := logKept_recordFault (s.setGroup c k (g.stopped es)) c k (g.stopped es) .uncorrectable g.standsAt.2
    (BitVec.ofNat 64 g.standsAt.1) es
  refine ⟨⟨hothers, hdriver, g.stopped es, hgroup, ?_⟩, LogKept.trans (t := s.setGroup c k (g.stopped es)) ⟨rfl, rfl, rfl, fun _ => rfl⟩ hkept, hops⟩
  rw [hstopped]
  refine ⟨rfl, rfl, rfl, rfl, rfl, fun l hl hls => ?_, fun x hx hls => ?_⟩
  · obtain ⟨x, hx, hxl⟩ := (hes l).2 ⟨hl, hls⟩
    obtain ⟨h1, h2⟩ := hwhat x hx
    exact ⟨x, List.mem_append_right _ hx, hxl, h1, by rw [h2, hxl]⟩
  · refine List.mem_append_left _ (List.mem_filter.2 ⟨hx, ?_⟩)
    rw [Bool.not_eq_true', Bool.eq_false_iff]
    intro hany
    obtain ⟨y, hy, hyl⟩ := List.any_eq_true.1 hany
    exact hls ((hes x.lane).1 ⟨y, hy, beq_iff_eq.1 hyl⟩).2

/-- The lanes of an error between clauses. -/
theorem lane_errorEvents (g : Group) (ls : LaneSet) (addr : DWord) (l : Nat) :
    (∃ x ∈ g.errorEvents ls addr, x.lane = l) ↔ l < 32 ∧ ls.getLsbD l = true := by
  unfold Group.errorEvents
  rw [← mem_lanesOf]
  constructor
  · rintro ⟨x, hx, rfl⟩
    obtain ⟨m, hm, rfl⟩ := List.mem_map.1 hx
    exact hm
  · exact fun h => ⟨_, List.mem_map.2 ⟨l, h, rfl⟩, rfl⟩

theorem errorEvents_what (g : Group) (ls : LaneSet) (addr : DWord) : ∀ x ∈ g.errorEvents ls addr,
    x.what = .replay .uncorrectable 0 addr ∧ x.rword = (g.lane x.lane).r := by
  intro x hx
  obtain ⟨l, -, rfl⟩ := List.mem_map.1 hx
  exact ⟨rfl, rfl⟩

/-- Lanes that read corrupted data within a clause take the event at the current word. -/
theorem raised_errorLanes (g : Group) (ls : LaneSet) (addr : DWord) :
    Raised g (g.raiseLanes (g.clause.active &&& ls) (.replay .uncorrectable 0 addr) g.clause.idx (g.clause.idx + g.clause.len))
      (fun l => active g l ∧ ls.getLsbD l = true) (copyEvent g (.replay .uncorrectable 0 addr)) := by
  rw [raiseLanes_eq]
  refine ⟨fun l hl => ?_, ⟨lanesOf (g.clause.active &&& ls), lanesOf_sorted _, fun l => ?_, rfl⟩, rfl, rfl⟩
  · simp only [active, BitVec.getLsbD_and, BitVec.getLsbD_not, hl, decide_true, Bool.true_and, Bool.and_eq_true, Bool.not_eq_true',
      Bool.and_eq_false_iff]
    cases g.clause.active.getLsbD l <;> cases ls.getLsbD l <;> decide
  · rw [mem_lanesOf, BitVec.getLsbD_and, Bool.and_eq_true]
    rfl

/-! ### Uncorrectable errors, by what they are contained to (R401, R435) -/

/-- The state's last step was the log of an error over a state u that changed nothing that the log reads: what the log leaves. -/
theorem logged_next {s u : State} (hu : LogKept s u) (e : ErrorReport) (scope part vd : Nat) {P : State → Prop}
    (hP : ∀ M h x, P { u with module := M, host := h, msix := x })
    (hexec : exec .uncorrectableError s = .next (u.logError scope part vd e.addr)) :
    Completes s .uncorrectableError fun t => P t ∧ Logged s t e scope part vd := by
  obtain ⟨M, h, x, heq⟩ := logError_frame u scope part vd e.addr
  exact ⟨_, hexec, by rw [heq]; exact hP M h x, logged_logError hu e scope part vd⟩

theorem exec_groupError {s : State} {e : ErrorReport} (hrep : s.actor = .report e) {c k : Nat} {ls : LaneSet} (ht : e.target = .group c k ls) {g : Group}
    (hg : s.group? c k = some g) : exec .uncorrectableError s =
    match s.lanesError c k ls e.addr with
    | some t => .next (t.logError 1 (s.partOf g) (s.vdOf g) e.addr)
    | none => .next s := by
  change execUncorrectableError s = _
  unfold execUncorrectableError
  rw [hrep]
  dsimp only
  rw [ht]
  dsimp only
  rw [hg]
  cases s.lanesError c k ls e.addr <;> rfl

theorem lanesError_of_boundary {s : State} {c k : Nat} {ls : LaneSet} {addr : DWord} {g : Group} (hg : s.group? c k = some g)
    (hlive : g.clause.live = false) : s.lanesError c k ls addr =
      if ls = 0 ∨ g.cause.isSome ∨ s.recordHeld c k g (g.errorEvents ls addr) then none
      else some (s.stopGroup c k ⟨g, none⟩ (g.errorEvents ls addr)) := by
  unfold State.lanesError
  rw [hg]
  dsimp only
  rw [hlive]
  rfl

theorem lanesError_of_live {s : State} {c k : Nat} {ls : LaneSet} {addr : DWord} {g : Group} (hg : s.group? c k = some g)
    (hlive : g.clause.live = true) : s.lanesError c k ls addr =
      if g.clause.idx < g.clause.count ∧ g.clause.active &&& ls ≠ 0 then
        some (s.setGroup c k (g.raiseLanes (g.clause.active &&& ls) (.replay .uncorrectable 0 addr) g.clause.idx (g.clause.idx + g.clause.len)))
      else none := by
  unfold State.lanesError
  rw [hg]
  dsimp only
  rw [hlive]
  rfl

theorem lanesHeld_iff (s : State) (c k : Nat) (g : Group) (ls : LaneSet) (addr : DWord) :
    s.recordHeld c k g (g.errorEvents ls addr) = true ↔ RecordLocked s c k g fun l => ls.getLsbD l = true :=
  (recordHeld_iff s c k g _).trans (recordLocked_congr fun l => (lane_errorEvents g ls addr l).trans
    ⟨And.right, fun h => ⟨BitVec.lt_of_getLsbD h, h⟩⟩)

theorem groupError_spec {s : State} {e : ErrorReport} (hrep : s.actor = .report e) : ∀ c k ls g, e.target = .group c k ls → s.group? c k = some g →
    (g.clause.live = false → ls ≠ 0 → g.cause = none → g.phase ≠ .spilled → (∀ n, (s.slice n).wards = []) →
      ¬ RecordLocked s c k g (fun l => ls.getLsbD l = true) → Completes s .uncorrectableError fun t =>
        StopsAt s t e c k g (fun l => ls.getLsbD l = true) ∧ Logged s t e 1 (s.partOf g) (s.vdOf g))
    ∧ (g.clause.live = true → g.clause.idx < g.clause.count → g.clause.active &&& ls ≠ 0 → Completes s .uncorrectableError fun t =>
        (OtherGroups s t c k ∧ ∃ g', t.group? c k = some g'
          ∧ Raised g g' (fun l => active g l ∧ ls.getLsbD l = true) (copyEvent g (.replay .uncorrectable 0 e.addr)))
        ∧ Logged s t e 1 (s.partOf g) (s.vdOf g))
    ∧ ((ls = 0 ∨ (g.clause.live = false ∧ (g.cause ≠ none ∨ RecordLocked s c k g fun l => ls.getLsbD l = true))
          ∨ (g.clause.live = true ∧ (g.clause.count ≤ g.clause.idx ∨ g.clause.active &&& ls = 0))) →
        exec .uncorrectableError s = .next s) := by
  intro c k ls g ht hg
  have hexec := exec_groupError hrep ht hg
  refine ⟨fun hlive hls hcause hphase hwards hfree => ?_, fun hlive hidx hact => ?_, fun h => ?_⟩
  · rw [lanesError_of_boundary hg hlive, if_neg] at hexec
    · obtain ⟨hstops, hkept, -⟩ := stopGroup_spec hwards e c k g hphase (g.errorEvents ls e.addr) (lane_errorEvents g ls e.addr)
        (errorEvents_what g ls e.addr)
      exact logged_next hkept e 1 (s.partOf g) (s.vdOf g) (P := fun t => StopsAt s t e c k g fun l => ls.getLsbD l = true)
        (fun _ _ _ => hstops) hexec
    · rintro (h | h | h)
      · exact hls h
      · rw [hcause] at h
        exact Bool.false_ne_true h
      · exact hfree ((lanesHeld_iff ..).1 h)
  · rw [lanesError_of_live hg hlive, if_pos ⟨hidx, hact⟩] at hexec
    exact logged_next (s := s) (u := s.setGroup c k _) ⟨rfl, rfl, rfl, fun _ => rfl⟩ e 1 (s.partOf g) (s.vdOf g)
      (P := fun t => OtherGroups s t c k ∧ ∃ g', t.group? c k = some g'
        ∧ Raised g g' (fun l => active g l ∧ ls.getLsbD l = true) (copyEvent g (.replay .uncorrectable 0 e.addr)))
      (fun _ _ _ => ⟨fun c' k' hne => group?_setGroup_ne s _ hne, _, group?_setGroup_self s c k _, raised_errorLanes g ls e.addr⟩) hexec
  · have hnone : s.lanesError c k ls e.addr = none := by
      cases hlive : g.clause.live with
      | false =>
        rw [lanesError_of_boundary hg hlive, if_pos]
        rcases h with h | ⟨-, h | h⟩ | ⟨h, -⟩
        · exact .inl h
        · exact .inr (.inl (Option.isSome_iff_ne_none.2 h))
        · exact .inr (.inr ((lanesHeld_iff ..).2 h))
        · exact absurd (hlive.symm.trans h) Bool.false_ne_true
      | true =>
        rw [lanesError_of_live hg hlive, if_neg]
        rintro ⟨hidx, hact⟩
        rcases h with h | ⟨h, -⟩ | ⟨-, h | h⟩
        · exact hact (by rw [h]; exact BitVec.and_zero)
        · exact Bool.false_ne_true (h.symm.trans hlive)
        · exact Nat.not_lt.2 h hidx
        · exact hact h
    rw [hexec, hnone]

/-! ### Errors in what an engine operation reads (R332, R335, R344) -/

theorem exec_operationError {s : State} {e : ErrorReport} (hrep : s.actor = .report e) {id : Nat} (ht : e.target = .operation id) :
    (s.ops.look id = none → exec .uncorrectableError s = .next s)
    ∧ ∀ o, s.ops.look id = some o → exec .uncorrectableError s = if o.kind.readDone || s.errorHeld o then .next s
        else .next ((s.operationError id o e.addr).logError 1 (s.device o.vd).part o.vd e.addr) := by
  have hexec : exec .uncorrectableError s = match s.ops.look id with
      | some o => if o.kind.readDone || s.errorHeld o then .next s
        else .next ((s.operationError id o e.addr).logError 1 (s.device o.vd).part o.vd e.addr)
      | none => .next s := by
    change execUncorrectableError s = _
    unfold execUncorrectableError
    rw [hrep]
    dsimp only
    rw [ht] <;> rfl
  refine ⟨fun h => ?_, fun o h => ?_⟩
  · rw [hexec, h]
  · rw [hexec, h]

theorem readDone_iff (kind : EngKind) : kind.readDone = true ↔
    ∃ sc sg off f ts done, kind = .mld sc sg off f ts done ∧ ∃ x ∈ done, ∀ y ∈ ts, y.1 ≠ x := by
  unfold EngKind.readDone
  split
  · next sc sg off f ts done =>
    rw [List.any_eq_true]
    constructor
    · rintro ⟨x, hx, h⟩
      rw [Bool.not_eq_true', List.any_eq_false] at h
      exact ⟨sc, sg, off, f, ts, done, rfl, x, hx, fun y hy heq => h y hy (beq_iff_eq.2 heq)⟩
    · rintro ⟨sc', sg', off', f', ts', done', heq, x, hx, h⟩
      cases heq
      refine ⟨x, hx, ?_⟩
      rw [Bool.not_eq_true', List.any_eq_false]
      exact fun y hy heq => h y hy (beq_iff_eq.1 heq)
  · next hne =>
    refine ⟨nofun, ?_⟩
    rintro ⟨sc, sg, off, f, ts, done, heq, -⟩
    exact absurd heq (hne sc sg off f ts done)

/-- The operation has been marked. -/
theorem look_marked (s : State) (id : Nat) {o : EngOp} (ho : s.ops.look id = some o) (addr : DWord) :
    ((s.ops.change id fun x => { x with bad := x.bad ++ [addr.toNat] }).look id) = some { o with bad := o.bad ++ [addr.toNat] } := by
  rw [Tab.look_change, if_pos rfl, ho]
  rfl

theorem groupOf_of_none {s : State} {o : EngOp} (hg : s.group? o.core o.slot = none) (hy : s.gang? o.core o.gang = none) : s.groupOf o = none := by
  unfold State.groupOf State.groupOf.saved
  rw [hg, hy]
  rfl

theorem groupOf_of_resident {s : State} {o : EngOp} {g : Group} (hg : s.group? o.core o.slot = some g) (hgang : g.gang = o.gang) :
    s.groupOf o = some ⟨g, none⟩ := by
  unfold State.groupOf
  rw [hg]
  dsimp only
  rw [if_pos hgang]

/-- A stop is the same seen from a state with the same groups and notices, and before the log of the error. -/
theorem stopsAt_of_same {s s1 u : State} {e : ErrorReport} {c k : Nat} {g : Group} {ls : Nat → Prop} (hcores : s1.cores = s.cores)
    (hdriver : s1.driver = s.driver) (h : StopsAt s1 u e c k g ls) (M : Module) (H : Memory) (x : List Nat) :
    StopsAt s { u with module := M, host := H, msix := x } e c k g ls := by
  obtain ⟨hothers, hnotice, g', hg', hrest⟩ := h
  refine ⟨fun c' k' hne => (hothers c' k' hne).trans ?_, hnotice.trans (congrArg (· ++ [.replayable c k .uncorrectable]) hdriver), g', hg', hrest⟩
  unfold State.group? State.core
  rw [hcores]

/-- An operation is the same before the log of an error. -/
theorem look_of_sameOps {s1 u : State} {id : Nat} {r : Option EngOp} (hops : u.ops = s1.ops) (h : s1.ops.look id = r) (M : Module) (H : Memory)
    (x : List Nat) : ({ u with module := M, host := H, msix := x } : State).ops.look id = r :=
  (congrArg (Tab.look · id) hops).trans h

theorem operationError_spec {s : State} {e : ErrorReport} (hrep : s.actor = .report e) : ∀ id o, e.target = .operation id → s.ops.look id = some o →
    (∀ sc sg off f ts done, o.kind = .mld sc sg off f ts done → ∀ x ∈ done, ∃ y ∈ ts, y.1 = x) →
    let marked (t : State) : Prop := t.ops.look id = some { o with bad := o.bad ++ [e.addr.toNat] }
    let done (P : State → Prop) : Prop := Completes s .uncorrectableError fun t => (P t ∧ marked t) ∧ Logged s t e 1 (s.device o.vd).part o.vd
    (s.group? o.core o.slot = none → s.gang? o.core o.gang = none → done fun t => ∀ c k, t.group? c k = s.group? c k)
    ∧ ∀ g, s.group? o.core o.slot = some g → g.gang = o.gang →
      (g.cause ≠ none → done fun t => ∀ c k, t.group? c k = s.group? c k)
      ∧ (g.cause = none → g.clause.live = true → done fun t => OtherGroups s t o.core o.slot
          ∧ t.group? o.core o.slot = some { g with clause := { g.clause with opError := true } })
      ∧ (g.cause = none → g.clause.live = false → RecordLocked s o.core o.slot g (fun _ => False) → exec .uncorrectableError s = .next s)
      ∧ (g.cause = none → g.clause.live = false → g.phase ≠ .spilled → (∀ n, (s.slice n).wards = []) →
          ¬ RecordLocked s o.core o.slot g (fun _ => False) → done fun t => StopsAt s t e o.core o.slot g fun _ => False) := by
  intro id o ht ho hunread marked done
  have hread : ¬ o.kind.readDone = true := fun h => by
    obtain ⟨sc, sg, off, f, ts, dn, hk, x, hx, hne⟩ := (readDone_iff o.kind).1 h
    obtain ⟨y, hy, hyx⟩ := hunread sc sg off f ts dn hk x hx
    exact hne y hy hyx
  have hexec := (exec_operationError hrep ht).2 o ho
  rw [Bool.eq_false_iff.2 hread, Bool.false_or] at hexec
  let s1 : State := { s with ops := s.ops.change id fun x => { x with bad := x.bad ++ [e.addr.toNat] } }
  have hmarked : s1.ops.look id = some { o with bad := o.bad ++ [e.addr.toNat] } := look_marked s id ho e.addr
  have hkept1 : LogKept s s1 := ⟨rfl, rfl, rfl, fun _ => rfl⟩
  have hsame : ¬ s.errorHeld o = true → s.operationError id o e.addr = s1 → done fun t => ∀ c k, t.group? c k = s.group? c k := fun hheld heq => by
    rw [if_neg hheld, heq] at hexec
    exact logged_next hkept1 e 1 (s.device o.vd).part o.vd (P := fun t => (∀ c k, t.group? c k = s.group? c k) ∧ marked t)
      (fun _ _ _ => ⟨fun _ _ => rfl, hmarked⟩) hexec
  refine ⟨fun hg hy => hsame ?_ ?_, fun g hg hgang => ?_⟩
  · unfold State.errorHeld
    rw [groupOf_of_none hg hy]
    exact Bool.false_ne_true
  · unfold State.operationError
    rw [groupOf_of_none hg hy]
  have hfound := groupOf_of_resident hg hgang
  have hheld : s.errorHeld o = (g.cause.isNone && !g.clause.live && s.recordHeld o.core o.slot g []) := by
    unfold State.errorHeld
    rw [hfound]
  have hstop : s.operationError id o e.addr = if g.cause.isSome then s1
      else if g.clause.live then s1.setGroup o.core o.slot { g with clause := { g.clause with opError := true } }
      else s1.stopGroup o.core o.slot ⟨g, none⟩ [] := by
    unfold State.operationError
    rw [hfound]
    rfl
  have hlocked : s.recordHeld o.core o.slot g [] = true ↔ RecordLocked s o.core o.slot g fun _ => False :=
    (recordHeld_iff s o.core o.slot g []).trans (recordLocked_congr fun l => by simp)
  refine ⟨fun hcause => hsame ?_ ?_, fun hcause hlive => ?_, fun hcause hlive hlock => ?_, fun hcause hlive hphase hwards hfree => ?_⟩
  · rw [hheld, Option.isNone_eq_false_iff.2 (Option.isSome_iff_ne_none.2 hcause)]
    exact Bool.false_ne_true
  · rw [hstop, if_pos (Option.isSome_iff_ne_none.2 hcause)]
  · rw [hheld, hlive, Bool.not_true, Bool.and_false, Bool.false_and, if_neg Bool.false_ne_true, hstop, if_neg (by rw [hcause]; decide), if_pos hlive] at hexec
    exact logged_next (s := s) (u := s1.setGroup o.core o.slot { g with clause := { g.clause with opError := true } }) ⟨rfl, rfl, rfl, fun _ => rfl⟩ e 1
      (s.device o.vd).part o.vd
      (P := fun t => (OtherGroups s t o.core o.slot ∧ t.group? o.core o.slot = some { g with clause := { g.clause with opError := true } }) ∧ marked t)
      (fun _ _ _ => ⟨⟨fun c' k' hne => group?_setGroup_ne s1 _ hne, group?_setGroup_self s1 _ _ _⟩, hmarked⟩) hexec
  · rw [hheld, hcause, hlive, hlocked.2 hlock] at hexec
    exact hexec
  · rw [hheld, hcause, hlive, Bool.eq_false_iff.2 fun h => hfree (hlocked.1 h), Bool.and_false, if_neg Bool.false_ne_true, hstop,
      if_neg (by rw [hcause]; decide), if_neg (by rw [hlive]; decide)] at hexec
    obtain ⟨hstops, hkept, hops⟩ := stopGroup_spec (s := s1) hwards e o.core o.slot g hphase [] (ls := fun _ => False) (fun l => by simp) nofun
    generalize s1.stopGroup o.core o.slot ⟨g, none⟩ [] = u at hexec hstops hkept hops
    exact logged_next (hkept1.trans hkept) e 1 (s.device o.vd).part o.vd
      (P := fun t => StopsAt s t e o.core o.slot g (fun _ => False) ∧ marked t)
      (fun M H x => ⟨stopsAt_of_same (s := s) (s1 := s1) (u := u) rfl rfl hstops M H x, look_of_sameOps hops hmarked M H x⟩) hexec

/-! ### Errors contained to a table, a device, a partition or a checkpoint (R31, R401, R437) -/

/-- The log reads the same after a loss that leaves the windows of the devices. -/
theorem LossFrame.logKept {s t : State} (h : LossFrame s t) (hwindow : ∀ v, (t.device v).window = (s.device v).window) : LogKept s t :=
  ⟨h.same.1, h.same.2, h.memory.2.1, hwindow⟩

theorem tableError_spec {s : State} {e : ErrorReport} (hrep : s.actor = .report e) : ∀ v, e.target = .table v →
    Completes s .uncorrectableError fun t => t.poisoned = s.poisoned ++ [e.addr.toNat]
      ∧ t.cores = s.cores ∧ t.devices = s.devices ∧ Logged s t e 1 (s.device v).part v := by
  intro v ht
  have hexec : exec .uncorrectableError s = .next (({ s with poisoned := s.poisoned ++ [e.addr.toNat] } : State).logError 1 (s.device v).part v e.addr) := by
    change execUncorrectableError s = _
    unfold execUncorrectableError
    rw [hrep]
    dsimp only
    rw [ht]
  obtain ⟨t, hnext, ⟨h1, h2, h3⟩, hlog⟩ := logged_next (s := s) (u := { s with poisoned := s.poisoned ++ [e.addr.toNat] }) ⟨rfl, rfl, rfl, fun _ => rfl⟩ e 1
    (s.device v).part v (P := fun t => t.poisoned = s.poisoned ++ [e.addr.toNat] ∧ t.cores = s.cores ∧ t.devices = s.devices)
    (fun _ _ _ => ⟨rfl, rfl, rfl⟩) hexec
  exact ⟨t, hnext, h1, h2, h3, hlog⟩

theorem deviceError_spec {s : State} {e : ErrorReport} (hrep : s.actor = .report e) : ∀ v, e.target = .device v →
    (s.device v).state ≠ .none → (s.device v).state ≠ .lost →
    Completes s .uncorrectableError fun t => (t.device v).state = .lost ∧ OtherDevices s t v ∧ LaunchesEnded s t v 2
      ∧ Notification.fenced v ∈ t.driver ∧ Logged s t e 2 (s.device v).part v
      ∧ ∀ a, t.mem.read a = s.mem.read a ∧ t.store.read a = s.store.read a := by
  intro v ht hnone hlost
  have hdone := fence_done fun h => h.elim hnone hlost
  have hexec : exec .uncorrectableError s = .next ((s.fence v).logError 2 (s.device v).part v e.addr) := by
    change execUncorrectableError s = _
    unfold execUncorrectableError
    rw [hrep]
    dsimp only
    rw [ht]
  generalize s.fence v = u at hdone hexec
  obtain ⟨hm, -, hst⟩ := hdone.frame.memory
  have hkept : LogKept s u := hdone.frame.logKept fun w => by
    by_cases hw : w = v
    · rw [hw, hdone.window]
    · rw [hdone.others w hw]
  obtain ⟨t, hnext, ⟨h1, h2, h3, h4, h5⟩, hlog⟩ := logged_next hkept e 2 (s.device v).part v
    (P := fun t => (t.device v).state = .lost ∧ OtherDevices s t v ∧ LaunchesEnded s t v 2 ∧ Notification.fenced v ∈ t.driver
      ∧ ∀ a, t.mem.read a = s.mem.read a ∧ t.store.read a = s.store.read a)
    (fun _ _ _ => ⟨hdone.lost, hdone.others, hdone.launches, hdone.driver, fun a => ⟨congrArg (·.read a) hm, congrArg (·.read a) hst⟩⟩) hexec
  exact ⟨t, hnext, h1, h2, h3, h4, hlog, h5⟩

theorem partitionError_spec {s : State} {e : ErrorReport} (hrep : s.actor = .report e) : ∀ p, e.target = .partition p → Rising s.devices →
    Completes s .uncorrectableError fun t => (∀ v, (s.device v).part = p → (s.device v).state ≠ .none → (t.device v).state = .lost)
      ∧ (∀ v, (s.device v).part ≠ p → t.device v = s.device v) ∧ Logged s t e 3 p e.source := by
  intro p ht hrising
  obtain ⟨hframe, hwindow, hlost, hkept⟩ := fencePartition_spec s p hrising
  have hexec : exec .uncorrectableError s = .next ((((s.devicesOf p).map (·.1)).foldl (fun a v => a.fence v) s).logError 3 p e.source e.addr) := by
    change execUncorrectableError s = _
    unfold execUncorrectableError
    rw [hrep]
    dsimp only
    rw [ht]
  generalize ((s.devicesOf p).map (·.1)).foldl (fun a v => a.fence v) s = u at hframe hwindow hlost hkept hexec
  obtain ⟨t, hnext, ⟨h1, h2⟩, hlog⟩ := logged_next (hframe.logKept hwindow) e 3 p e.source
    (P := fun t => (∀ v, (s.device v).part = p → (s.device v).state ≠ .none → (t.device v).state = .lost)
      ∧ ∀ v, (s.device v).part ≠ p → t.device v = s.device v) (fun _ _ _ => ⟨hlost, hkept⟩) hexec
  exact ⟨t, hnext, h1, h2, hlog⟩

/-- What the end of a checkpoint does. -/
theorem endCheckpoint_device {s : State} {v : Nat} {k : Checkpoint} (h : (s.device v).ckpt = some k) (status : Nat) :
    (s.endCheckpoint v status).device v = { s.device v with ckpt := none, ckStatus := status } := by
  unfold State.endCheckpoint
  dsimp only
  rw [h]
  dsimp only
  rw [device_withDevice, if_pos rfl]
  split
  · rfl
  · rfl

theorem checkpointError_spec {s : State} {e : ErrorReport} (hrep : s.actor = .report e) : ∀ v k, e.target = .checkpoint v →
    (s.device v).ckpt = some k → Completes s .uncorrectableError fun t =>
      (t.device v).ckpt = none ∧ (t.device v).ckStatus = 4 ∧ (t.device v).state = (s.device v).state ∧ Logged s t e 2 (s.device v).part v := by
  intro v k ht hk
  have hquiet := deviceQuiet_endCheckpoint s v 4
  have hdevice := endCheckpoint_device hk 4
  have hexec : exec .uncorrectableError s = .next ((s.endCheckpoint v 4).logError 2 (s.device v).part v e.addr) := by
    change execUncorrectableError s = _
    unfold execUncorrectableError
    rw [hrep]
    dsimp only
    rw [ht]
  generalize s.endCheckpoint v 4 = u at hquiet hdevice hexec
  have hkept : LogKept s u := hquiet.frame.logKept fun w => by
    by_cases hw : w = v
    · rw [hw, hdevice]
    · rw [hquiet.others w hw]
  obtain ⟨t, hnext, ht, hlog⟩ := logged_next hkept e 2 (s.device v).part v
    (P := fun t => t.device v = { s.device v with ckpt := none, ckStatus := 4 }) (fun _ _ _ => hdevice) hexec
  refine ⟨t, hnext, ?_, ?_, ?_, hlog⟩
  · rw [ht]
  · rw [ht]
  · rw [ht]

/-! ### The checks of a checkpoint (R436, R437) -/

theorem Touched.sameMemory {s t : State} (h : Touched s t) : SameMemory s t := by
  intro a
  rw [h.eq]
  exact ⟨rfl, rfl, rfl⟩

theorem Touched.partitions {s t : State} (h : Touched s t) : t.partitions = s.partitions := by rw [h.eq]

theorem sameMemory_trans {s t u : State} (h1 : SameMemory s t) (h2 : SameMemory t u) : SameMemory s u := fun a =>
  ⟨(h2 a).1.trans (h1 a).1, (h2 a).2.1.trans (h1 a).2.1, (h2 a).2.2.trans (h1 a).2.2⟩

theorem LossFrame.sameMemory {s t : State} (h : LossFrame s t) : SameMemory s t := fun a =>
  ⟨congrArg (·.read a) h.memory.1, congrArg (·.read a) h.memory.2.1, congrArg (·.read a) h.memory.2.2⟩

theorem partition_congr {s t : State} (h : t.partitions = s.partitions) (p : Nat) : t.partition p = s.partition p := by
  unfold State.partition
  rw [h]

/-- Dropping a hold depends on the partition only. -/
theorem partition_dropHold (s : State) (p entry q : Nat) : (s.dropHold p entry).partition q =
    if q = p then (match (s.partition p).snaps.look entry with
      | none => s.partition p
      | some e => if e.count ≤ 1 then { s.partition p with snaps := (s.partition p).snaps.del entry }
        else { s.partition p with snaps := (s.partition p).snaps.put entry { e with count := e.count - 1 } }) else s.partition q := tabGet_put ..

theorem snaps_dropHold_congr {s t : State} (h : t.partitions = s.partitions) (p entry : Nat) :
    ((t.dropHold p entry).partition p).snaps = ((s.dropHold p entry).partition p).snaps := by
  rw [partition_dropHold, partition_dropHold, partition_congr h]

/-- An end of an opened checkpoint releases its key. -/
theorem endCheckpoint_opened {s : State} {v : Nat} {k : Checkpoint} (h : (s.device v).ckpt = some k) (hopen : k.opened = true) (status : Nat) :
    s.endCheckpoint v status = (s.dropHold (s.device v).part k.entry).withDevice v fun x => { x with ckpt := none, ckStatus := status } := by
  unfold State.endCheckpoint
  dsimp only
  rw [h]
  dsimp only
  rw [if_pos hopen]

theorem sum_foldl (xs : List (Nat × Nat)) (n : Nat) : xs.foldl (fun a x => a + x.2) n = n + (xs.map (·.2)).sum := by
  induction xs generalizing n with
  | nil => rfl
  | cons x rest ih => rw [List.foldl_cons, ih, List.map_cons, List.sum_cons, Nat.add_assoc]

/-- The checks of the shards, once the key is held. -/
theorem checkpointChecks_of {s u : State} {v : Nat} {k : Checkpoint} (hexec : exec .checkpointStart s = .next (u.checkShards v))
    (hk : (u.device v).ckpt = some k) (hopen : k.opened = true) (hmem : SameMemory s u) : CheckpointChecks s v k u := by
  unfold CheckpointChecks
  intro part share list blocked ends
  obtain ⟨t, ht⟩ : ∃ t, t = u.chargeRead v list.1 list.2 := ⟨_, rfl⟩
  have htouched : Touched u t := ht ▸ touched_chargeRead u v list.1 list.2
  obtain ⟨b, hdevice⟩ := htouched.device v
  have htk : (t.device v).ckpt = some k := by rw [hdevice]; exact hk
  have hblocked : ((u.lockedAt .hbm list.1 list.2).isSome || u.shardsWait v (u.listed v)) = true ↔ blocked := by
    unfold State.shardsWait blocked
    rw [Bool.or_eq_true, List.any_eq_true, Option.isSome_iff_ne_none]
  have hrun : u.checkShards v = if (u.lockedAt .hbm list.1 list.2).isSome || u.shardsWait v (u.listed v) then u
      else match u.shardList v with
        | none => t.endCheckpoint v 2
        | some xs => if share < (xs.map (·.2)).sum then t.endCheckpoint v 3
          else t.withDevice v fun x => { x with ckpt := x.ckpt.map fun k => { k with checked := true, shards := xs } } := by
    unfold State.checkShards
    simp only [sum_foldl, Nat.zero_add, bits_eq]
    rw [ht] <;> rfl
  have hsame : SameMemory s t := sameMemory_trans hmem htouched.sameMemory
  have hends : ∀ st, u.checkShards v = t.endCheckpoint v st → ends st := fun st heq => by
    have hpart : (t.device v).part = part := by
      rw [hdevice]
      rfl
    refine ⟨_, hexec.trans (congrArg _ heq), ?_⟩
    rw [endCheckpoint_opened htk hopen, hpart]
    refine ⟨fun a => hsame a, ?_, ?_, snaps_dropHold_congr htouched.partitions part k.entry⟩
    · rw [device_withDevice, if_pos rfl]
    · rw [device_withDevice, if_pos rfl]
  refine ⟨fun h => by rw [hexec, hrun, if_pos (hblocked.2 h)], fun h hnone => hends 2 ?_, fun h xs hxs => ⟨fun hover => hends 3 ?_, fun hfit => ?_⟩⟩
  · rw [hrun, if_neg (h ∘ hblocked.1), hnone]
  · rw [hrun, if_neg (h ∘ hblocked.1), hxs]
    exact if_pos hover
  · rw [hrun, if_neg (h ∘ hblocked.1), hxs] at hexec
    refine ⟨_, hexec.trans (congrArg _ (if_neg (Nat.not_lt.2 hfit))), fun a => hsame a, ?_, ?_, ?_⟩
    · rw [device_withDevice, if_pos rfl]
      dsimp only
      rw [htk]
      rfl
    · rw [device_withDevice, if_pos rfl, hdevice]
    · exact congrArg Partition.snaps (partition_congr htouched.partitions part)

/-- The begin of a checkpoint from a state b that has the device's registers and the memory of s. -/
theorem checkpointOpens_of {s b : State} {v m : Nat} (hexec : exec .checkpointStart s = .next (b.openCheckpoint v m)) (hmem : SameMemory s b)
    (hparts : b.partitions = s.partitions) {q : Tab DWord} (hdev : b.device v = { s.device v with queue := q })
    (hq : q.get 0x90 0 = (s.device v).queue.get 0x90 0) : CheckpointOpens s v m b := by
  unfold CheckpointOpens
  intro d becomes k
  have hresult : b.openResult (b.device v).part (b.device v).window m = s.openResult d.part d.window m := by
    unfold State.openResult State.hold
    rw [hdev, partition_congr hparts]
    rfl
  have hopen : b.openCheckpoint v m = match s.openResult d.part d.window m with
      | .refused st => b.ckptStatus v (16 + st)
      | .wait _ => b.withDevice v fun x => { x with ckpt := some k }
      | .opened e => ((b.addHold d.part e (keyOf m)).withDevice v fun x => { x with ckpt := some { k with opened := true, entry := e } }).checkShards v := by
    unfold State.openCheckpoint
    dsimp only
    rw [hresult, hdev]
    dsimp only
    rw [hq] <;> rfl
  rw [hopen] at hexec
  refine ⟨fun st h => ?_, fun u h => ?_, fun e h => ?_⟩
  · rw [h] at hexec
    exact hexec
  · rw [h] at hexec
    refine hexec.trans (congrArg _ ?_)
    unfold State.withDevice
    rw [hdev]
  · rw [h] at hexec
    refine checkpointChecks_of hexec ?_ rfl fun a => hmem a
    rw [device_withDevice, if_pos rfl]

theorem checkpointWrite_spec : ∀ s w, Arrived s w → w.block = .queue → w.offset = 0x98 → w.value.toNat % 256 = 1 → w.writer = .hypervisor →
    w.index < 128 → let v := w.index
    ((s.device v).ckpt ≠ none → exec .checkpointStart s = .next ((taken s w).withDevice v fun x => { x with ckStatus := 1 }))
    ∧ ((s.device v).ckpt = none → CheckpointOpens s v (s.device v).ckWindow
        ((taken s w).withDevice v fun x => { x with queue := x.queue.put 0x98 1 })) := by
  intro s w harrived hb ho hvalue hw hi v
  have hmine : (w.block == .queue && w.offset == 0x98 && bits w.value 0 8 == 1) = true := by
    unfold bits
    rw [hb, ho, Nat.pow_zero, Nat.div_one, show w.value.toNat % 2 ^ 8 = 1 from hvalue]
    rfl
  have hexec : exec .checkpointStart s = .next (if ((taken s w).device v).ckpt.isSome then (taken s w).withDevice v fun x => { x with ckStatus := 1 }
      else ((taken s w).withDevice v fun x => { x with queue := x.queue.put 0x98 1 }).openCheckpoint v (s.device v).ckWindow) := by
    change execCheckpointStart s = _
    unfold execCheckpointStart
    rw [harrived.1]
    dsimp only
    rw [onWrite_runs _ harrived (mayWrite_of_hypervisor hw (by rw [hb]; decide) (by rw [hb]; decide) (by rw [hb]; exact nofun)) hmine]
    rw [if_neg (not_vds_le hi)]
    rfl
  refine ⟨fun h => hexec.trans (congrArg _ (if_pos (Option.isSome_iff_ne_none.2 h))), fun h => ?_⟩
  rw [if_neg (by rw [show ((taken s w).device v).ckpt = none from h]; exact Bool.false_ne_true)] at hexec
  refine checkpointOpens_of hexec (fun _ => ⟨rfl, rfl, rfl⟩) rfl (q := (s.device v).queue.put 0x98 1) ?_ (Tab.get_put_ne _ _ _ _ _ (by decide))
  rw [device_withDevice, if_pos rfl]
  rfl

theorem checkpointResume_spec : ∀ s v y z k, OfObject s v y z → (s.device v).ckpt = some k →
    (k.opened = false → CheckpointOpens s v (k.key / 2 ^ 16 % 2 ^ 32) s)
    ∧ (k.opened = true → k.checked = false → CheckpointChecks s v k s)
    ∧ (k.opened = true → k.checked = true → exec .checkpointStart s = .next s)
    ∧ (k.opened = false ∨ k.checked = false → exec .checkpointComplete s = .next s) := by
  intro s v y z k hobj hk
  have hexec : exec .checkpointStart s = .next (if !k.opened then s.openCheckpoint v (keyWindow k.key) else if k.checked then s else s.checkShards v) := by
    change execCheckpointStart s = _
    unfold execCheckpointStart
    rw [show s.actor = .object v y z from hobj]
    dsimp only
    rw [hk]
  refine ⟨fun h => ?_, fun h hc => ?_, fun h hc => ?_, fun h => ?_⟩
  · rw [h] at hexec
    exact checkpointOpens_of hexec (fun _ => ⟨rfl, rfl, rfl⟩) rfl (q := (s.device v).queue) rfl rfl
  · rw [h, hc] at hexec
    exact checkpointChecks_of hexec hk h fun _ => ⟨rfl, rfl, rfl⟩
  · rw [h, hc] at hexec
    exact hexec
  · change execCheckpointComplete s = _
    unfold execCheckpointComplete
    rw [object_of hobj]
    dsimp only
    rw [hk]
    refine if_pos ?_
    rcases h with h | h
    · rw [h]; rfl
    · rw [h, Bool.not_false, Bool.or_true, Bool.true_or]

/-! ### The end of a checkpoint (R437) -/

/-- The reads of a checkpoint wait. -/
def CheckpointWaits (s : State) (v : Nat) (k : Checkpoint) : Prop :=
  (s.device v).throttled = true ∨ (∃ x ∈ k.shards, (s.translateAgent v .snapshot x.1 x.2).waits = true)
    ∨ ∃ x ∈ k.shards, ∃ ps, s.shardPieces v x = some ps ∧ s.snapHeld k.key ps ≠ none

theorem checkpointWaits_iff (s : State) (v : Nat) (k : Checkpoint) : s.checkpointWaits v k.key k.shards = true ↔ CheckpointWaits s v k := by
  have hheld : ∀ x, (match s.shardPieces v x with
      | some ps => (s.snapHeld k.key ps).isSome
      | none => false) = true ↔ ∃ ps, s.shardPieces v x = some ps ∧ s.snapHeld k.key ps ≠ none := fun x => by
    cases s.shardPieces v x with
    | none => exact ⟨nofun, fun ⟨_, h, _⟩ => nomatch h⟩
    | some ps =>
      refine Option.isSome_iff_ne_none.trans ⟨fun h => ⟨ps, rfl, h⟩, ?_⟩
      rintro ⟨qs, hq, h⟩
      cases hq
      exact h
  unfold State.checkpointWaits CheckpointWaits State.shardsWait
  rw [Bool.or_eq_true, Bool.or_eq_true, List.any_eq_true, List.any_eq_true, or_assoc]
  exact or_congr_right (or_congr_right (exists_congr fun x => and_congr_right fun _ => hheld x))

/-- The charges for the pieces of a checkpoint's shards. -/
theorem touched_charges (v : Nat) (pieces : List (Option (List Piece))) (s : State) :
    Touched s (pieces.foldl (fun a p => a.chargePieces v (p.getD [])) s) :=
  .foldl (fun a p => touched_chargePieces a v (p.getD [])) pieces s

/-- Of the devices, only one that an agent reads for is charged. -/
theorem otherDevices_charges (v : Nat) (pieces : List (Option (List Piece))) (s : State) :
    OtherDevices s (pieces.foldl (fun a p => a.chargePieces v (p.getD [])) s) v := by
  have hlines : ∀ (lines : List Nat) (a : State), OtherDevices a (lines.foldl (fun a line => a.chargeLine v line) a) v := by
    intro lines
    induction lines with
    | nil => exact fun _ _ _ => rfl
    | cons line rest ih =>
      refine fun a u hu => (ih _ u hu).trans ?_
      show (a.chargeLine v line).device u = a.device u
      unfold State.chargeLine State.charge
      split
      · split
        · exact otherDevices_withDevice _ _ _ u hu
        · rfl
      · rfl
  induction pieces generalizing s with
  | nil => exact fun _ _ => rfl
  | cons p rest ih => exact fun u hu => (ih _ u hu).trans (hlines _ s u hu)

theorem exec_checkpointComplete {s : State} {v y z : Nat} {k : Checkpoint} (hobj : OfObject s v y z) (hk : (s.device v).ckpt = some k)
    (hopen : k.opened = true) (hchecked : k.checked = true) : exec .checkpointComplete s =
    if s.checkpointWaits v k.key k.shards then .next s
    else
      let pieces := k.shards.map fun x => s.shardPieces v x
      if pieces.any Option.isNone then .next (s.endCheckpoint v 2)
      else
        let shards := (k.shards.zip pieces).map fun x => (x.1, s.shardBytes (s.device v).part k.key (x.2.getD []))
        let data := shards.flatMap (·.2)
        let base := bits ((s.partition (s.device v).part).ctl.get 0x60 0) 0 12 * 2 ^ 30
        let t := pieces.foldl (fun a p => a.chargePieces v (p.getD [])) s
        .next (({ t with
          store := writeList s.store (addressed base data),
          host := writeList s.host (addressed k.dst (manifest (s.device v).job k.key shards ++ data)) } : State).endCheckpoint v 0) := by
  change execCheckpointComplete s = _
  unfold execCheckpointComplete
  rw [object_of hobj]
  dsimp only
  rw [hk]
  dsimp only
  rw [hopen, hchecked, Bool.not_true, Bool.false_or, Bool.false_or]

/-- What the end of a checkpoint leaves, from a state t whose reads have been charged. -/
theorem checkpointEnded {s t : State} {v : Nat} {k : Checkpoint} (htouched : Touched s t) (hothers : OtherDevices s t v) (hk : (s.device v).ckpt = some k)
    (status : Nat) (S H : Memory) : let u := ({ t with store := S, host := H } : State).endCheckpoint v status
    (u.mem = s.mem ∧ u.store = S ∧ u.host = H) ∧ (u.device v).ckpt = none ∧ (u.device v).ckStatus = status ∧ OtherDevices s u v := by
  obtain ⟨b, hdevice⟩ := htouched.device v
  have htk : (({ t with store := S, host := H } : State).device v).ckpt = some k := by
    show (t.device v).ckpt = some k
    rw [hdevice]
    exact hk
  have hquiet := deviceQuiet_endCheckpoint { t with store := S, host := H } v status
  have hdev := endCheckpoint_device htk status
  obtain ⟨hm, hh, hst⟩ := hquiet.frame.memory
  refine ⟨⟨hm.trans ?_, hst, hh⟩, ?_, ?_, fun u hu => (hquiet.others u hu).trans (hothers u hu)⟩
  · rw [htouched.eq]
  · rw [hdev]
  · rw [hdev]

theorem addressed_eq (a : Nat) (bs : List Byte) : addressed a bs = bs.zipIdx.map fun b => (a + b.2, b.1) := rfl

theorem checkpointComplete_spec : ∀ s v y z k, OfObject s v y z → (s.device v).ckpt = some k → k.opened = true → k.checked = true →
    (CheckpointWaits s v k → exec .checkpointComplete s = .next s)
    ∧ (¬ CheckpointWaits s v k → (∃ x ∈ k.shards, s.shardPieces v x = none) → Completes s .checkpointComplete fun t => SameMemory s t
        ∧ (t.device v).ckpt = none ∧ (t.device v).ckStatus = 2 ∧ OtherDevices s t v)
    ∧ (¬ CheckpointWaits s v k → s.store.wf = true → s.host.wf = true →
      ∀ ps : List (List Piece), k.shards.map (s.shardPieces v) = ps.map some → Completes s .checkpointComplete fun t =>
      let d := s.device v
      let shards := (k.shards.zip ps).map fun x => (x.1, s.shardBytes d.part k.key x.2)
      let data := shards.flatMap (·.2)
      let base := (((s.partition d.part).ctl.get 0x60 0).extractLsb' 0 12).toNat * 2 ^ 30
      (∀ a, t.mem.read a = s.mem.read a
        ∧ t.store.read a = afterBytes s.store.read (data.zipIdx.map fun b => (base + b.2, b.1)) a
        ∧ t.host.read a = afterBytes s.host.read ((manifest d.job k.key shards ++ data).zipIdx.map fun b => (k.dst + b.2, b.1)) a)
      ∧ (t.device v).ckpt = none ∧ (t.device v).ckStatus = 0 ∧ OtherDevices s t v) := by
  intro s v y z k hobj hk hopen hchecked
  have hexec := exec_checkpointComplete hobj hk hopen hchecked
  have hwaits := checkpointWaits_iff s v k
  refine ⟨fun h => by rw [hexec, if_pos (hwaits.2 h)], fun h hnone => ?_, fun h hstore hhost ps hps => ?_⟩
  · obtain ⟨x, hx, hpieces⟩ := hnone
    have hany : ((k.shards.map fun x => s.shardPieces v x).any Option.isNone) = true :=
      List.any_eq_true.2 ⟨none, List.mem_map.2 ⟨x, hx, hpieces⟩, rfl⟩
    rw [if_neg (h ∘ hwaits.1)] at hexec
    dsimp only at hexec
    rw [if_pos hany] at hexec
    obtain ⟨⟨h1, h2, h3⟩, hrest⟩ := checkpointEnded (.refl s) (fun _ _ => rfl) hk 2 s.store s.host
    exact ⟨_, hexec, fun a => ⟨congrArg (·.read a) h1, congrArg (·.read a) h3, congrArg (·.read a) h2⟩, hrest⟩
  · have hany : ¬ ((ps.map some).any Option.isNone) = true := by simp
    have hzip : (k.shards.zip (ps.map some)).map (fun x => (x.1, s.shardBytes (s.device v).part k.key (x.2.getD [])))
        = (k.shards.zip ps).map fun x => (x.1, s.shardBytes (s.device v).part k.key x.2) := by
      rw [List.zip_map_right, List.map_map]
      rfl
    rw [if_neg (h ∘ hwaits.1)] at hexec
    dsimp only at hexec
    rw [hps, if_neg hany, hzip, bits_eq] at hexec
    obtain ⟨⟨h1, h2, h3⟩, hrest⟩ := checkpointEnded (touched_charges v (ps.map some) s) (otherDevices_charges v (ps.map some) s) hk 0 (writeList s.store _)
      (writeList s.host _)
    refine ⟨_, hexec, fun a => ⟨congrArg (·.read a) h1, (congrArg (·.read a) h2).trans ?_, (congrArg (·.read a) h3).trans ?_⟩, hrest⟩
    · exact (read_writeList _ hstore).2 a
    · exact (read_writeList _ hhost).2 a

/-! ### The events of the module together (O53) -/

/-- The same outcome, with what is said of it in another order. -/
theorem completes_imp {s : State} {i : Instr} {P Q : State → Prop} (h : Completes s i P) (hPQ : ∀ t, P t → Q t) : Completes s i Q := by
  obtain ⟨t, hexec, hP⟩ := h
  exact ⟨t, hexec, hPQ t hP⟩

/-- Settles O53: the mailbox, reset, training, sags, errors, plug-ins and checkpoints each by the lemma on its event. -/
theorem moduleEvents : Obligations.ModuleEvents := by
  unfold Obligations.ModuleEvents
  refine ⟨mboxWrite_spec, mailbox_spec, moduleReset_spec, linkTraining_spec, supplySag_spec, sagRecovery_spec, correctedError_spec, fun s e hrep => ?_,
    pluginViolation_spec, checkpointWrite_spec, checkpointResume_spec, checkpointComplete_spec⟩
  intro logged stops
  refine ⟨fun c k ls g ht hg => ?_, fun id ht => (exec_operationError hrep ht).1, fun id o ht ho => ?_, fun id o ht ho hunread => ?_,
    tableError_spec hrep, deviceError_spec hrep, partitionError_spec hrep, checkpointError_spec hrep⟩
  · obtain ⟨hstops, hraised, hnone⟩ := groupError_spec hrep c k ls g ht hg
    exact ⟨hstops, fun hlive hidx hact => completes_imp (hraised hlive hidx hact) fun t ⟨⟨h1, h2⟩, h3⟩ => ⟨h1, h3, h2⟩, hnone⟩
  · intro read hread
    rw [(exec_operationError hrep ht).2 o ho, (readDone_iff o.kind).2 hread]
    rfl
  · intro marked
    obtain ⟨hgone, hgroup⟩ := operationError_spec hrep id o ht ho hunread
    refine ⟨fun hg hy => completes_imp (hgone hg hy) fun t ⟨⟨h1, h2⟩, h3⟩ => ⟨⟨h2, h3⟩, h1⟩, fun g hg hgang => ?_⟩
    obtain ⟨hstopped, hlive, hheld, hstops⟩ := hgroup g hg hgang
    exact ⟨fun hc => completes_imp (hstopped hc) fun t ⟨⟨h1, h2⟩, h3⟩ => ⟨⟨h2, h3⟩, h1⟩,
      fun hc hl => completes_imp (hlive hc hl) fun t ⟨⟨⟨h1, h1'⟩, h2⟩, h3⟩ => ⟨⟨h2, h3⟩, h1, h1'⟩, hheld,
      fun hc hl hp hw hf => completes_imp (hstops hc hl hp hw hf) fun t ⟨⟨h1, h2⟩, h3⟩ => ⟨⟨h2, h3⟩, h1⟩⟩

end Sys2Proof.Laws
end
